-- ==== Sys2Proof/Word.lean ====
section
/-! DEFINITION. The word types of the Z2 and their plainest arithmetic. -/

namespace Sys2Proof

/-- A 64-bit word: an address, a uniform register, an instruction word (R72). -/
abbrev Word := BitVec 64

/-- The smallest addressable unit. -/
abbrev Byte := BitVec 8

/-- The value of a v register: 64 lanes of 32 bits (R123). -/
abbrev VWord := BitVec 2048

/-- Bits hi..lo of a number, as a number. -/
def bitsOf (x hi lo : Nat) : Nat := (x >>> lo) % 2 ^ (hi + 1 - lo)

/-- One bit of a number. -/
def bitAt (x k : Nat) : Bool := (x >>> k) % 2 == 1

/-- A Bool as a number. -/
def b2n (b : Bool) : Nat := if b then 1 else 0

/-- The number x, read as a two's complement value of w bits. -/
def signedOf (w x : Nat) : Int :=
  if x % 2 ^ w < 2 ^ (w - 1) then ((x % 2 ^ w : Nat) : Int) else ((x % 2 ^ w : Nat) : Int) - 2 ^ w

/-- An integer reduced to w bits. -/
def wrapTo (w : Nat) (x : Int) : Nat := (x % (2 ^ w : Int)).toNat

/-- The low w bits of x, sign-extended to 64 bits. -/
def sext64 (w x : Nat) : Word := BitVec.ofInt 64 (signedOf w x)

end Sys2Proof
end

