-- ==== Sys2Proof/Syntax.lean ====
section
/-! DEFINITION. The operations of the Z2: every row of the opcode table, as one inductive. Instructions
carry their decoded form (R77, R78); the machine's events carry what selects them or what comes from outside. -/

namespace Sys2Proof

/-- An operand field (R79): its level and index, decoded. A zero field decodes to v0. -/
inductive Operand where
  | v (n : Fin 48)
  | p (n : Fin 16)
  | s (n : Fin 64)
  | a (n : Fin 4)
  | o (n : Fin 8)
  | latch
  | const (n : BitVec 8)
  deriving DecidableEq, Repr

/-- A field that an instruction does not use is all zero (R80). -/
def Operand.zero : Operand := .v 0

/-- The common fields of every instruction word (R77). -/
structure Common where
  sw : Bool
  pred : Fin 16
  inv : Bool
  lane : Bool
  deriving DecidableEq, Repr

/-- Form A (R78). -/
structure FormA where
  h : Common
  dst : Operand
  a : Operand
  b : Operand
  c : Operand
  mod : BitVec 7
  deriving DecidableEq, Repr

/-- Form I (R78). -/
structure FormI where
  h : Common
  dst : Operand
  a : Operand
  imm : BitVec 27
  deriving DecidableEq, Repr

/-- Form W (R78). -/
structure FormW where
  h : Common
  dst : Operand
  imm : BitVec 32
  mod : BitVec 5
  deriving DecidableEq, Repr

/-- Form M (R78). -/
structure FormM where
  h : Common
  data : Operand
  base : Operand
  off : BitVec 19
  slack : BitVec 3
  mod : BitVec 5
  deriving DecidableEq, Repr

/-- Form X (R78). -/
structure FormX where
  h : Common
  a : Operand
  b : Operand
  c : Operand
  sub : BitVec 17
  deriving DecidableEq, Repr

/-- Form B (R78). -/
structure FormB where
  h : Common
  off : BitVec 42
  mod : BitVec 5
  deriving DecidableEq, Repr

/-- A block header word (R73). -/
structure HeaderWord where
  length : BitVec 8
  guard : Fin 16
  reconv : BitVec 12
  livein : BitVec 16
  prefetch : BitVec 8
  rsv : BitVec 6
  deriving DecidableEq, Repr

/-- A hardware context: its tile number and its number 0-7 (R119, R14). -/
structure CtxKey where
  tile : Nat
  num : Nat
  deriving DecidableEq, Repr

/-- What an event of the machine concerns: a context, up to three unit or index numbers, a flag. An event's
constructor says which of them it uses. -/
structure Selection where
  ctx : CtxKey
  a : Nat
  b : Nat
  c : Nat
  flag : Bool
  deriving DecidableEq, Repr

/-- The payload of a slot-start control flit (R375). -/
structure SlotControl where
  podtime : Nat
  package : Nat
  locked : Bool
  quota : Nat
  deriving DecidableEq, Repr

/-- A packet in a relay buffer (R384): where it comes from and goes, and the bytes it carries. -/
structure RelayPacket where
  src : Nat
  dst : Nat
  flits : Nat
  slack : Nat
  overdue : Bool
  payload : List Byte
  deriving DecidableEq, Repr

/-- What a remote request asks of this package (R386). -/
inductive PeerKind where
  | read
  | write
  | reduce (kind : Nat)
  deriving DecidableEq, Repr

/-- A remote request as the peer package receives it (R386). -/
structure PeerReq where
  /-- The issuer's number for the request, which the reply names. -/
  id : Nat
  kind : PeerKind
  domain : Option Nat
  package : Nat
  rank : Nat
  steps : Nat
  prior : Nat
  phys : Nat
  va : Nat
  len : Nat
  data : List Byte
  slack : Nat
  overdue : Bool
  deriving DecidableEq, Repr

/-- The announcement of a package's share of a pod domain (R390). -/
structure ShareNote where
  package : Nat
  domain : Nat
  share : Nat
  task : BitVec 32
  members : Nat
  deriving DecidableEq, Repr

/-- One term of a barrier reduction: what a member's arrival carries (R249). -/
structure Term where
  package : Nat
  rank : Nat
  op : Nat
  value : Word
  code : Nat
  deriving DecidableEq, Repr

/-- A candidate abort report (R257, R258). -/
structure Candidate where
  code : Nat
  package : Nat
  rank : Nat
  package2 : Nat
  rank2 : Nat
  addr : Word
  deriving DecidableEq, Repr

/-- A participant's contribution to a pod step (R391): the ranks of its positions, the terms of those that arrived, how many of its
members are removed at the step's end (R259), its candidates, and what it closed for routing (R414): rank and batch. -/
structure PodContrib where
  domain : Nat
  package : Nat
  terms : List Term
  ranks : List Nat
  gone : Nat
  candidates : List Candidate
  routing : Bool
  closed : List (Nat × Nat)
  deriving DecidableEq, Repr

/-- The result of a pod step as the root sends it (R391): positions, removals and closed batches by package. -/
structure PodResult where
  domain : Nat
  terms : List Term
  positions : List (Nat × Nat)
  gone : List (Nat × Nat)
  candidates : List Candidate
  routing : Bool
  closed : List (Nat × Nat × Nat)
  deriving DecidableEq, Repr

/-- Bytes of an FSEND that reach their destination package (R397). -/
structure FsendIn where
  id : Nat
  domain : Nat
  package : Nat
  rank : Nat
  steps : Nat
  prior : Nat
  tile : Nat
  dst : Nat
  rbc : Option Nat
  data : List Byte
  slack : Nat
  deriving DecidableEq, Repr

/-- The identity of a collective (R403). -/
structure CollId where
  domain : Nat
  key : BitVec 32
  step : BitVec 32
  deriving DecidableEq, Repr

/-- A collective packet (R405). -/
structure CollPacket where
  id : CollId
  digest : Nat
  /-- Node indices of the route entries still to pop; the node that sent it. -/
  route : List Nat
  fromNode : Nat
  isResult : Bool
  mismatch : Bool
  chunk : Nat
  data : List (BitVec 32)
  slack : Nat
  overdue : Bool
  deriving DecidableEq, Repr

/-- A routed token on its way to a holding area, in one, or on its way back (R413, R416, R417). -/
structure RToken where
  domain : Nat
  dstPkg : Nat
  srcPkg : Nat
  rank : Nat
  /-- How often its context had closed lists before, the list's number, the entry's position. -/
  batch : Nat
  list : Nat
  position : Nat
  id : Nat
  gate : Nat
  len : Nat
  slot1 : Nat
  pkg2 : Nat
  slot2 : Nat
  nosecond : Bool
  /-- The reason of its overflow from round 1; the reason for which it bounces. -/
  overflowed : Option Nat
  bounced : Option Nat
  supervisor : Bool
  /-- What is left of its slack, and its overdue flag (R112, R413). -/
  slack : Nat
  overdue : Bool
  data : List Byte
  deriving DecidableEq, Repr

/-- What the firmware does as it starts, which is its own (R433; its internals are outside the manual): package registers that it sets, by CSR
number, and the supervisor's contexts on die 0: tile, context number, address of the first header. -/
structure Firmware where
  csrs : List (Nat × Word)
  contexts : List (Nat × Nat × Word)
  deriving DecidableEq, Repr

/-- What a packet to another package carries. -/
inductive Content where
  | request (r : PeerReq)
  /-- The reply to a request; that to a write names a conflict of the pod step, with its domain and the step's number, where the peer's own
  contribution to the step had gone before (R39, R48, R387). -/
  | reply (id : Nat) (data : List Byte) (noted : Option (Nat × Nat × Candidate))
  /-- A remote write finds no room in the package pool (R45). -/
  | refusal (id : Nat)
  | share (n : ShareNote)
  | contribution (c : PodContrib)
  | result (r : PodResult)
  | fsend (f : FsendIn)
  /-- Every byte of an FSEND has been staged, with a conflict as a reply names it, or its bytes found no room (R397, R398). -/
  | fsendAck (id : Nat) (full : Bool) (noted : Option (Nat × Nat × Candidate))
  | collective (p : CollPacket)
  | token (t : RToken)
  /-- A holding area has accepted a token (R414): the sender's rank, batch, list and position. -/
  | accepted (domain rank batch list position : Nat)
  /-- Round 1 is done, with the tokens forwarded and bounced; round 2 is done, with those bounced (R416). -/
  | round1 (domain : Nat) (ts : List RToken)
  | round2 (domain : Nat) (ts : List RToken)
  | relayed (p : RelayPacket)
  deriving DecidableEq, Repr

/-- An optical flit as a receiver sees it (R371); the tail flit shows what its packet carries. -/
structure Flit where
  crcGood : Bool
  slack : Nat
  overdue : Bool
  vc : Nat
  head : Bool
  tail : Bool
  kind : Nat
  seq : BitVec 16
  ack : BitVec 16
  dark : BitVec 16
  mask : BitVec 16
  wavelength : Nat
  content : Option Content
  deriving DecidableEq, Repr

/-- Every operation of the Z2, one constructor for each row of the opcode table. -/
inductive Instr where
  /-- NOP (R146): Does nothing when its guard passes and leaves the latch empty. -/
  | nop (w : FormA)
  /-- BR (R143): Relative branch to a block header when guard bit 0 is 1. -/
  | br (w : FormB)
  /-- BRI (R144): Indirect branch to the address held in a source register. -/
  | bri (w : FormA)
  /-- CALL (R143): Relative call that writes the link to s63 and transfers to the target header. -/
  | call (w : FormB)
  /-- CALLI (R144): Indirect call that writes the link to s63 after reading the target. -/
  | calli (w : FormA)
  /-- RET (R144): Indirect return to s63 or to a named source, acting as BRI. -/
  | ret (w : FormA)
  /-- LOOP (R145): Decrements a count and branches to the target header while the count is nonzero. -/
  | loop (w : FormI)
  /-- EXIT (R148): Drains the context's work, then removes the context from its task. -/
  | exit (w : FormA)
  /-- PARK (R146): Parks until all outstanding results have returned, ending the region. -/
  | park (w : FormA)
  /-- YIELD (R146): Parks as PARK does, then defers to other ready contexts for up to eight cycles. -/
  | yield (w : FormA)
  /-- WFE (R147): Parks until a user event is queued or a cycle limit passes, and writes which of the two happened. -/
  | wfe (w : FormA)
  /-- ADD (R153): Integer addition, with optional unsigned and saturating forms. -/
  | add (w : FormA)
  /-- ADDI (R159): Integer addition of a sign-extended immediate. -/
  | addi (w : FormI)
  /-- SUB (R153): Integer subtraction. -/
  | sub (w : FormA)
  /-- MUL (R153): Low half of an integer product. -/
  | mul (w : FormA)
  /-- MULI (R159): Low half of the product with an immediate. -/
  | muli (w : FormI)
  /-- MULHI (R154): High half of a signed product. -/
  | mulhi (w : FormA)
  /-- MULHU (R154): High half of an unsigned product. -/
  | mulhu (w : FormA)
  /-- MAD (R153): Exact multiply-add, then wrap or clamp. -/
  | mad (w : FormA)
  /-- DIV (R155): Signed division truncating towards zero. -/
  | div (w : FormA)
  /-- DIVU (R155): Unsigned division. -/
  | divu (w : FormA)
  /-- REM (R155): Signed remainder, taking the sign of the dividend. -/
  | rem (w : FormA)
  /-- REMU (R155): Unsigned remainder. -/
  | remu (w : FormA)
  /-- AND (R156): Bitwise and. -/
  | and (w : FormA)
  /-- ANDI (R159): Bitwise and with an immediate. -/
  | andi (w : FormI)
  /-- OR (R156): Bitwise or. -/
  | or (w : FormA)
  /-- ORI (R159): Bitwise or with an immediate. -/
  | ori (w : FormI)
  /-- XOR (R156): Bitwise exclusive or. -/
  | xor (w : FormA)
  /-- XORI (R159): Bitwise exclusive or with an immediate. -/
  | xori (w : FormI)
  /-- SHL (R157): Left shift, with IOV and saturation. -/
  | shl (w : FormA)
  /-- SHLI (R159): Left shift by an immediate. -/
  | shli (w : FormI)
  /-- SHR (R157): Logical right shift. -/
  | shr (w : FormA)
  /-- SHRI (R159): Logical right shift by an immediate. -/
  | shri (w : FormI)
  /-- SAR (R157): Arithmetic right shift. -/
  | sar (w : FormA)
  /-- SARI (R159): Arithmetic right shift by an immediate. -/
  | sari (w : FormI)
  /-- ROL (R157): Rotate left. -/
  | rol (w : FormA)
  /-- MIN (R158): Signed minimum. -/
  | min (w : FormA)
  /-- MINU (R158): Unsigned minimum. -/
  | minu (w : FormA)
  /-- MAX (R158): Signed maximum. -/
  | max (w : FormA)
  /-- MAXU (R158): Unsigned maximum. -/
  | maxu (w : FormA)
  /-- ABS (R158): Signed absolute value, with optional saturation. -/
  | abs (w : FormA)
  /-- CMP (R160): Integer compare that writes a predicate mask. -/
  | cmp (w : FormA)
  /-- CMPI (R160): Integer compare with an immediate, writing a predicate mask. -/
  | cmpi (w : FormI)
  /-- SEL (R161): Selects elements by a predicate. -/
  | sel (w : FormA)
  /-- MOV (R162): Copies or broadcasts elements. -/
  | mov (w : FormA)
  /-- MOVI (R163): Writes a 32-bit immediate, sign- or zero-extended. -/
  | movi (w : FormW)
  /-- MOVHI (R163): Writes bytes 7:4 of the destination with an immediate. -/
  | movhi (w : FormW)
  /-- POPC (R164): Population count. -/
  | popc (w : FormA)
  /-- CLZ (R164): Count of leading zeros. -/
  | clz (w : FormA)
  /-- CTZ (R164): Count of trailing zeros. -/
  | ctz (w : FormA)
  /-- BREV (R164): Bit reversal. -/
  | brev (w : FormA)
  /-- BFX (R165): Signed bit-field extract. -/
  | bfx (w : FormA)
  /-- BFXU (R165): Unsigned bit-field extract. -/
  | bfxu (w : FormA)
  /-- BFI (R165): Bit-field insert into the destination. -/
  | bfi (w : FormA)
  /-- LEA (R166): Computes base plus shifted index plus displacement. -/
  | lea (w : FormA)
  /-- FADD (R169): Floating-point addition, rounded once. -/
  | fadd (w : FormA)
  /-- FSUB (R169): Floating-point subtraction. -/
  | fsub (w : FormA)
  /-- FMUL (R169): Floating-point multiplication. -/
  | fmul (w : FormA)
  /-- FMA (R169): Fused multiply-add. -/
  | fma (w : FormA)
  /-- FMS (R169): Fused multiply-subtract. -/
  | fms (w : FormA)
  /-- FNMA (R169): Fused negated multiply-add. -/
  | fnma (w : FormA)
  /-- FNMS (R169): Fused negated multiply-subtract. -/
  | fnms (w : FormA)
  /-- FMIN (R170): Floating-point minimum, with −0 ordered below +0. -/
  | fmin (w : FormA)
  /-- FMAX (R170): Floating-point maximum. -/
  | fmax (w : FormA)
  /-- FABS (R170): Clears the sign bit. -/
  | fabs (w : FormA)
  /-- FNEG (R170): Inverts the sign bit. -/
  | fneg (w : FormA)
  /-- FCPYS (R170): Copies the sign bit of y onto x. -/
  | fcpys (w : FormA)
  /-- FCMP (R171): Floating-point compare that writes a predicate mask. -/
  | fcmp (w : FormA)
  /-- FCLASS (R172): Writes a one-hot class mask of a floating-point value. -/
  | fclass (w : FormA)
  /-- FDIV (R173): Correctly rounded division. -/
  | fdiv (w : FormA)
  /-- FSQRT (R173): Correctly rounded square root. -/
  | fsqrt (w : FormA)
  /-- FRCP (R173): Correctly rounded reciprocal. -/
  | frcp (w : FormA)
  /-- FRSQ (R173): Correctly rounded reciprocal square root. -/
  | frsq (w : FormA)
  /-- FEXP2 (R173): Correctly rounded base-2 exponential. -/
  | fexp2 (w : FormA)
  /-- FLOG2 (R173): Correctly rounded base-2 logarithm. -/
  | flog2 (w : FormA)
  /-- FRND (R174): Rounds to an integral value in the named mode. -/
  | frnd (w : FormA)
  /-- FCVT (R176): Converts between two floating-point formats of one width. -/
  | fcvt (w : FormA)
  /-- FCVTI (R179): Converts floating point to an integer. -/
  | fcvti (w : FormA)
  /-- ICVTF (R179): Converts an integer to floating point. -/
  | icvtf (w : FormA)
  /-- FPACK (R177): Narrows FP32 values and packs them into lanes. -/
  | fpack (w : FormA)
  /-- FUNPK (R178): Widens one packed element per lane to FP32, exactly. -/
  | funpk (w : FormA)
  /-- VBCAST (R181): Broadcasts one element to every enabled position. -/
  | vbcast (w : FormA)
  /-- VEXT (R181): Extracts elements from the concatenation of two registers. -/
  | vext (w : FormA)
  /-- VINS (R181): Inserts a value at one element position. -/
  | vins (w : FormA)
  /-- VPERM (R182): Permutes lanes by index. -/
  | vperm (w : FormA)
  /-- VSHUF (R182): Shuffles lanes from two sources by index. -/
  | vshuf (w : FormA)
  /-- VSEL (R182): Selects elements by the raw bits of a selector. -/
  | vsel (w : FormA)
  /-- VREDU (R183): Reduces the selected elements in fixed order and writes the result to every enabled element. -/
  | vredu (w : FormA)
  /-- VSCAN (R183): Inclusive scan over the selected elements. -/
  | vscan (w : FormA)
  /-- VCPRS (R184): Compresses the selected lanes to the low lanes. -/
  | vcprs (w : FormA)
  /-- VEXPD (R184): Expands the low lanes to the selected lanes. -/
  | vexpd (w : FormA)
  /-- VIOTA (R184): Writes in each lane the count of mask bits below that lane. -/
  | viota (w : FormA)
  /-- VMOVN (R185): Copies n whole v registers. -/
  | vmovn (w : FormA)
  /-- VZERO (R185): Zeroes n v registers. -/
  | vzero (w : FormA)
  /-- PAND (R187): And of two masks. -/
  | pand (w : FormA)
  /-- PANDN (R187): And of a mask with the complement of another. -/
  | pandn (w : FormA)
  /-- POR (R187): Or of two masks. -/
  | por (w : FormA)
  /-- PXOR (R187): Exclusive or of two masks. -/
  | pxor (w : FormA)
  /-- PNOT (R187): Complement of a mask. -/
  | pnot (w : FormA)
  /-- PMOV (R187): Copies a mask. -/
  | pmov (w : FormA)
  /-- PSET (R188): Writes a mask from an immediate, as a count or as a pattern. -/
  | pset (w : FormW)
  /-- PCNT (R187): Counts the set bits of a mask. -/
  | pcnt (w : FormA)
  /-- PANY (R187): Gives all ones if any bit of the mask is set. -/
  | pany (w : FormA)
  /-- PALL (R187): Gives all ones if every bit of the mask is set. -/
  | pall (w : FormA)
  /-- PFIRST (R187): Keeps only the lowest set bit of the mask. -/
  | pfirst (w : FormA)
  /-- PFROMS (R187): Writes a mask from a 64-bit value. -/
  | pfroms (w : FormA)
  /-- PTOS (R187): Writes a mask to an s register. -/
  | ptos (w : FormA)
  /-- LDB (R190): Loads a byte from the private alias. -/
  | ldb (w : FormM)
  /-- LDH (R190): Loads two bytes from the private alias. -/
  | ldh (w : FormM)
  /-- LDW (R190): Loads four bytes from the private alias, or reads a channel status word in the aperture. -/
  | ldw (w : FormM)
  /-- LDD (R190): Loads eight bytes from the private alias. -/
  | ldd (w : FormM)
  /-- STB (R190): Stores a byte to the private alias. -/
  | stb (w : FormM)
  /-- STH (R190): Stores two bytes to the private alias. -/
  | sth (w : FormM)
  /-- STW (R190): Stores four bytes to the private alias, or starts a copy in the aperture. -/
  | stw (w : FormM)
  /-- STD (R190): Stores eight bytes to the private alias. -/
  | std (w : FormM)
  /-- LDV (R191): Loads a contiguous vector. -/
  | ldv (w : FormM)
  /-- STV (R191): Stores a contiguous vector. -/
  | stv (w : FormM)
  /-- LDVS (R192): Strided vector load. -/
  | ldvs (w : FormM)
  /-- STVS (R192): Strided vector store. -/
  | stvs (w : FormM)
  /-- LDVX (R193): Gather load through per-lane indices. -/
  | ldvx (w : FormM)
  /-- STVX (R193): Scatter store through per-lane indices. -/
  | stvx (w : FormM)
  /-- XLDD (R244): Loads a single value from level or virtual memory. -/
  | xldd (w : FormM)
  /-- XLDV (R245): Loads a vector from level or virtual memory. -/
  | xldv (w : FormM)
  /-- XSTD (R244): Stores a single value to level or virtual memory. -/
  | xstd (w : FormM)
  /-- XSTV (R245): Stores a vector to level or virtual memory. -/
  | xstv (w : FormM)
  /-- XRED (R246): Makes a scalar reduce-write of the given kind. -/
  | xred (w : FormM)
  /-- XREDV (R246): Makes a vector of reduce-writes of the given kind. -/
  | xredv (w : FormM)
  /-- BTX (R217): Starts a copy from a template by a 32-bit store to the aperture. -/
  | btx (w : FormM)
  /-- BTXA (R218): Starts a copy with overrides of the source or destination address. -/
  | btxa (w : FormX)
  /-- BTWM (R236): Reads a channel's watermark, delivering any held fault first. -/
  | btwm (w : FormX)
  /-- BTWAIT (R236): Waits until a channel is free or its watermark reaches an offset. -/
  | btwait (w : FormX)
  /-- BTCAN (R236): Cancels a channel's copy. -/
  | btcan (w : FormX)
  /-- BTSTAT (R236): Reads a channel's status word. -/
  | btstat (w : FormX)
  /-- BCPOST (R241): Posts an expected byte count to a byte-count barrier. -/
  | bcpost (w : FormX)
  /-- BCARV (R241): Sends a byte-count arrival after the context's earlier writes are placed. -/
  | bcarv (w : FormX)
  /-- BCWAIT (R241): Waits for a byte-count phase to complete. -/
  | bcwait (w : FormX)
  /-- BCTEST (R241): Tests whether a byte-count phase has completed. -/
  | bctest (w : FormX)
  /-- BCRESET (R241): Resets a byte-count barrier record. -/
  | bcreset (w : FormX)
  /-- SYNC (R264): Sends an arrival at a scope and waits for the step to complete. -/
  | sync (w : FormX)
  /-- ARRIVE (R264): Sends an arrival at a scope without waiting. -/
  | arrive (w : FormX)
  /-- WAITS (R264): Waits for the step of the outstanding arrival and takes its result. -/
  | waits (w : FormX)
  /-- STEPRD (R265): Reads the counter snapshot of a level. -/
  | steprd (w : FormX)
  /-- ABORTRD (R266): Reads one word of the abort report. -/
  | abortrd (w : FormX)
  /-- DOMBIND (R267): Binds a barrier domain to a task. -/
  | dombind (w : FormX)
  /-- DOMBIND_FREE (R267): Frees a bound barrier domain when its current step has no arrival. -/
  | dombindFree (w : FormX)
  /-- MMA (R310): Queues a multiply of A rows by the front bank into accumulators. -/
  | mma (w : FormX)
  /-- MMAT (R310): Queues a multiply of A rows by the transpose of the front bank. -/
  | mmat (w : FormX)
  /-- MBLD (R311): Records the provenance and pin of a bank and queues its load from the plate. -/
  | mbld (w : FormX)
  /-- MBLD_FREE (R311): Invalidates a logical bank and releases its pin. -/
  | mbldFree (w : FormX)
  /-- MBSWAP (R311): Exchanges the front and back logical banks in queue order. -/
  | mbswap (w : FormX)
  /-- MPLW (R304): Queues a copy from local memory to the plate slice. -/
  | mplw (w : FormX)
  /-- MPDESC (R307): Sets the plate block descriptor. -/
  | mpdesc (w : FormX)
  /-- ACCZ (R314): Zeroes accumulator blocks. -/
  | accz (w : FormX)
  /-- ACCLD (R314): Loads accumulator rows from local memory. -/
  | accld (w : FormX)
  /-- ACCST (R314): Stores accumulator rows to local memory. -/
  | accst (w : FormX)
  /-- ACCCVT (R317): Converts accumulator rows into one v register. -/
  | acccvt (w : FormA)
  /-- MQWAIT (R315): Stalls until the context has at most a limit of unfinished commands. -/
  | mqwait (w : FormX)
  /-- MSTAT (R315): Reads a doubleword of the matrix status range. -/
  | mstat (w : FormX)
  /-- STPKEY (R316): Writes the stipple key. -/
  | stpkey (w : FormX)
  /-- STPMEM (R316): Writes the ensemble member. -/
  | stpmem (w : FormX)
  /-- STPMEM_ADD (R316): Adds a signed value to the ensemble member. -/
  | stpmemAdd (w : FormX)
  /-- STPGEN (R318): Regenerates the stipple ε for a run of indices. -/
  | stpgen (w : FormA)
  /-- STPMUL (R318): Computes the gradient with respect to λ from g, ε and σ. -/
  | stpmul (w : FormA)
  /-- QCVT (R319): Quantises register blocks to a blocked format, with an optional transform. -/
  | qcvt (w : FormA)
  /-- DQCVT (R319): Decodes blocked register data to FP32. -/
  | dqcvt (w : FormA)
  /-- HADV (R319): Applies the Hadamard transform to register blocks. -/
  | hadv (w : FormA)
  /-- NMRED (R356): Issues base-die commands that sum indexed rows into a destination. -/
  | nmred (w : FormX)
  /-- NMGATH (R356): Issues base-die commands that gather indexed rows. -/
  | nmgath (w : FormX)
  /-- NMFILL (R356): Issues base-die commands that fill indexed rows with a pattern. -/
  | nmfill (w : FormX)
  /-- NMCPY (R356): Issues base-die commands that copy indexed rows. -/
  | nmcpy (w : FormX)
  /-- NMSTAT (R366): Delivers any held base-die fault, then reads the command status word. -/
  | nmstat (w : FormX)
  /-- NMSTAT_CAP (R364): Reads a stack's capability word. -/
  | nmstatCap (w : FormX)
  /-- FSEND (R397): Pushes a block of bytes into a tile of another package. -/
  | fsend (w : FormX)
  /-- ROUTE (R413): Sends a list of tokens to the holding areas of their first choices. -/
  | route (w : FormX)
  /-- RTCLOSE (R414): Closes the context's lists and marks its pod contribution as routing. -/
  | rtclose (w : FormX)
  /-- RTRECV (R420): Reads the state word of a slot. -/
  | rtrecv (w : FormX)
  /-- COLL (R403): Posts this package's part of a collective. -/
  | coll (w : FormX)
  /-- COLLWAIT (R408): Waits for the context's collective of a key to complete. -/
  | collwait (w : FormX)
  /-- FSTAT_PORT (R421): Reads the FPORT register of a port. -/
  | fstatPort (w : FormX)
  /-- FSTAT_WORK (R421): Delivers any held fabric fault, then reads the fabric work counts. -/
  | fstatWork (w : FormX)
  /-- FSTAT_POD (R421): Reads PODCFG. -/
  | fstatPod (w : FormX)
  /-- SPAWN (R295): Sends an active message, at once or when the commit hold ends. -/
  | spawn (w : FormX)
  /-- TCBRDY (R296): Checks and submits a task control block. -/
  | tcbrdy (w : FormX)
  /-- TDONE (R295): Sends a predecessor decrement when the commit hold ends. -/
  | tdone (w : FormX)
  /-- TASKID (R297): Reads the task identifier and its attributes. -/
  | taskid (w : FormX)
  /-- RANKRD (R297): Reads the context's rank in its task. -/
  | rankrd (w : FormX)
  /-- RANKRD_SHAPE (R297): Reads the task's shape and mode. -/
  | rankrdShape (w : FormX)
  /-- PREEMPT (R298): Stops a running task. -/
  | preempt (w : FormX)
  /-- PREEMPT_KILL (R298): Stops and terminates a task, or removes a task that was never placed. -/
  | preemptKill (w : FormX)
  /-- RESUME (R298): Resumes a stopped task. -/
  | resume (w : FormX)
  /-- RESUME_CTX (R298): Continues a context parked on an unhandled fault at FAULTPC. -/
  | resumeCtx (w : FormX)
  /-- RESUME_REMOVE (R298): Removes a context parked on an unhandled fault from its task. -/
  | resumeRemove (w : FormX)
  /-- RELOC (R298): Moves a relocatable task to a candidate rectangle on another die. -/
  | reloc (w : FormX)
  /-- PGINFO (R345): Reads the attributes of a page. -/
  | pginfo (w : FormX)
  /-- CNTRD (R345): Reads a page's access count from its home die. -/
  | cntrd (w : FormX)
  /-- TLBINV (R346): Invalidates cached translations over a range and waits for accesses that used them. -/
  | tlbinv (w : FormX)
  /-- TLBINV_ALL (R346): Invalidates every cached translation. -/
  | tlbinvAll (w : FormX)
  /-- MIGR (R347): Migrates a page to a new frame and writes a status. -/
  | migr (w : FormX)
  /-- TFENCE (R210): Waits for the flags, then takes ARITH if any enabled flag is set. -/
  | tfence (w : FormA)
  /-- TRAP (R211): Takes the TRAP fault, or makes a supervisor call for codes of 0x8000 or more. -/
  | trap (w : FormI)
  /-- ERET (R212): Returns from supervisor mode to SVPC. -/
  | eret (w : FormA)
  /-- ERETU (R212): Returns from a user-event handler. -/
  | eretu (w : FormA)
  /-- CSRR (R210): Reads a control register. -/
  | csrr (w : FormI)
  /-- CSRW (R210): Writes a control register. -/
  | csrw (w : FormI)
  /-- CSRS (R210): Sets bits of a control register. -/
  | csrs (w : FormI)
  /-- CSRC (R210): Clears bits of a control register. -/
  | csrc (w : FormI)
  /-- FLAGRD (R210): Reads FLAGS once every earlier instruction has set its flags. -/
  | flagrd (w : FormA)
  /-- FLAGCLR (R210): Clears selected flags. -/
  | flagclr (w : FormA)
  /-- VIEW (R210): Sets selected view bases and parks. -/
  | view (w : FormI)
  /-- SETSLK (R210): Writes SLK from a register. -/
  | setslk (w : FormA)
  /-- CYCLE (R213): Reads the tile's core-cycle count. -/
  | cycle (w : FormA)
  /-- PODTIME (R213): Reads pod time in slack ticks. -/
  | podtime (w : FormA)
  /-- BLOCK_HEADER (R75): On entry to a block, its header reads its guard predicate, waiting for any pending write, and skips the block when the predicate is zero. -/
  | blockHeader (h : HeaderWord)
  /-- RESULT_RETURN (R134): An outstanding result returns and is written in program order, possibly ending a park. Selection: ctx the
  context, a the place of the request among its outstanding ones, c 0, flag whether the reply was overdue; c 1 for a peer's reply to
  request b; c 2 for a peer's acceptance of the token at position b of list a, flag whether it was overdue. -/
  | resultReturn (data : List Byte)
  /-- REGISTER_ECC_ERROR (R129): A SEC-DED error in registers is corrected, or an uncorrectable one parks the context with a record. Selection: ctx the context. -/
  | registerEccError (correctable selfTestPasses : Bool)
  /-- BALANCE_PERIOD (R290): At the end of a balance period, one relocatable task may be moved from the busiest die. -/
  | balancePeriod (busy : List Nat)
  /-- HARDWARE_ERROR (R291): A tile hardware error stops tasks, runs self-test and restarts or terminates them. Selection: a the tile. -/
  | hardwareError (selfTestPasses : Bool)
  /-- READ_UNCORRECTABLE (R343): An uncorrectable read error is retried once. Selection: a the page. -/
  | readUncorrectable (access : Option CtxKey)
  /-- SLOT_CONTROL_RECEIVE (R375): A slot-start control flit sets pod time and lock, and grants relay quota. Selection: a the port. -/
  | slotControlReceive (c : SlotControl)
  /-- FLIT_RECEIVE (R376): A data flit is received, checked, acknowledged and delivered in sequence. Selection: a the port, b the sending package. -/
  | flitReceive (f : Flit)
  /-- MASK_CHANGE (R379): A dark report removes wavelengths from the active mask and lost flits are resent. Selection: a the port, b the reporting package. -/
  | maskChange (dark : BitVec 16)
  /-- RELAY_ARRIVAL (R384): A relayed packet enters the intermediate's relay buffer as VC3. -/
  | relayArrival (p : RelayPacket)
  /-- PEER_REQUEST (R387): A peer serves a remote read or write under the step rule at pod scope. -/
  | peerRequest (r : PeerReq)
  /-- SHARE_ANNOUNCEMENT (R390): A package's share of a pod domain is announced and counted on receipt. -/
  | shareAnnouncement (a : ShareNote)
  /-- POD_CONTRIBUTION (R391): The root receives a participant's contribution to a pod step. -/
  | podContribution (c : PodContrib)
  /-- POD_RESULT (R391): A participant receives the pod step result and completes the step for its parties. -/
  | podResult (r : PodResult)
  /-- FSEND_DELIVERY (R397): FSEND bytes are staged at the destination tile and a byte-count arrival is sent there. -/
  | fsendDelivery (f : FsendIn)
  /-- COLL_PACKET_ARRIVAL (R406): A collective packet arrives and is folded in list order, forwarded, or held in the early pool. -/
  | collPacketArrival (p : CollPacket)
  /-- TOKEN_HOLD (R413): A routed token and its header are accepted by a holding area. -/
  | tokenHold (t : RToken)
  /-- ROUND1_DONE (R416): A round-1-done message, with its forwarded tokens, arrives from a participant. Selection: a the domain id, b the
  package, c 1 for the message that it has ended round 2; either brings the tokens that bounce. -/
  | round1Done (ts : List RToken)
  /-- HOST_BAR2_ACCESS (R426): A host read or write through BAR2 reaches package memory. -/
  | hostBar2Access (offset : Nat) (write : Bool) (data : List Byte)
  /-- HOST_ACTIVE_MESSAGE (R428): A 32-byte host write to the active-message window forms a message. -/
  | hostActiveMessage (offset : Nat) (data : List Byte)
  /-- TCBSUB (R428): A host write to TCBSUB submits a task control block. -/
  | tcbsub (addr : Word)
  /-- HOSTSTAT_WRITE (R429): A host write sets the covered HOSTSTAT counts. -/
  | hoststatWrite (half : Option Bool) (value : Word)
  /-- EVHEAD_WRITE (R430): The host advances the event ring head; a value above the tail is ignored. -/
  | evheadWrite (value : Word)
  /-- EVLOST_CLEAR (R430): The host clears the lost-record count. -/
  | evlostClear (value : Word)
  /-- FWCTL_VERIFY (R432): The host requests verification and installation of a staged firmware image. -/
  | fwctlVerify (length : BitVec 32)
  /-- BRCLR (R435): A host write clears every boot record entry for the next start. -/
  | brclr (value : Word)
  /-- DEVICE_RESET (R433): The boot ROM verifies a slot and starts the supervisor, the link trains and the self-tests begin; with the outcome
  of link training, clock calibration and port tests by step identifier, and what the firmware then does. -/
  | deviceReset (outcome : List (Nat × Bool)) (fw : Firmware)
  /-- UNIT_SELF_TEST_DONE (R433): A die or stack ends self-test, joins service or is held out, and posts a bring-up record. Selection: a the die or stack. -/
  | unitSelfTestDone (isStack pass : Bool)
  /-- HOST_LINK_ERROR (R437): A host link error is replayed or reported through advanced error reporting. -/
  | hostLinkError (replayGood : Bool)
  /-- MESH_LINK_ERROR (R437): A mesh or die-to-die flit error is replayed, or the die's tasks are stopped and restarted. Selection: a the die. -/
  | meshLinkError (replayGood : Bool)
  /-- UNDEFINED_OPCODE (R85): A context issues a word whose opcode is undefined, or 0x3FF in an instruction position, and takes the precise fault ILLEGAL. -/
  | undefinedOpcode (w : Word)
  /-- CONTROL_WINDOW_ACCESS (R427): A host access to a control-window register of a wrong size or alignment is ignored and counted in HOSTSTAT.bad. -/
  | controlWindowAccess (offset : Nat) (write : Bool) (data : List Byte)
  /-- HOST_LINK_TRAINED (R425): The host link trains again after being down, possibly at a lower rate or width, and waiting event records can be written. -/
  | hostLinkTrained (rate width : Nat)
  /-- INSTRUCTION_FETCH_REPLY (R89): A fetch-miss reply delivers code from the committed package image. Selection: a the tile, flag whether the reply was overdue. -/
  | instructionFetchReply
  /-- GANG_FORWARD_ARRIVAL (R137): An instruction word forwarded by the gang leader reaches a follower. Selection: ctx the follower. -/
  | gangForwardArrival
  /-- REGISTER_CACHE_FILL (R128): A register line missing from the cache arrives from the image store. Selection: ctx the context, a the line. -/
  | registerCacheFill
  /-- WFE_LIMIT_EXPIRY (R147): The cycle limit of a WFE expires and the WFE completes with 0. Selection: ctx the context. -/
  | wfeLimitExpiry
  /-- YIELD_EXPIRY (R146): Eight cycles after a YIELD's park condition holds, the context becomes ready again. Selection: ctx the context. -/
  | yieldExpiry
  /-- USER_EVENT_ENTRY (R205): At an instruction boundary that allows it, the head event is delivered and the handler entered. Selection: ctx the context. -/
  | userEventEntry
  /-- SFQ_POST (R207): A waiting supervisor record is written to the fault queue once there is room, and SFQTAIL advances. -/
  | sfqPost
  /-- WAIT_TIMEOUT (R214): An engine wait exceeds WAITTO and the instruction takes TIMEOUT. Selection: ctx the context. -/
  | waitTimeout
  /-- SLACK_TICK (R107): At each tick edge, every queued packet's slack is decremented and the packet is made overdue at zero. -/
  | slackTick
  /-- PACKET_ARBITRATION (R109): A queued packet wins its output by overdue, slack, arrival and port order and holds the output until its last flit. Selection: a the arbiter. -/
  | packetArbitration
  /-- BARRIER_ARRIVAL (R249): A domain receives an arrival, which also stands for the member in the lower domains. Selection: ctx the member. -/
  | barrierArrival
  /-- STEP_COMPLETION (R251): When every member has arrived or is absent, the step completes: writes become visible, counters advance, lower steps end and results are delivered. Selection: a the level, b the unit, c the domain id. -/
  | stepCompletion
  /-- STEP_TIMEOUT (R261): A step not complete within its DOMTO timeout posts one supervisor record and goes on waiting. Selection: a the level, b the unit, c the domain id. -/
  | stepTimeout
  /-- COPY_RUN (R221): A channel converts and writes, or reduce-writes, one run of its copy and advances its watermark. Selection: a the tile, b the channel. -/
  | copyRun
  /-- COPY_INFLIGHT_FAULT (R228): A fault found in flight stops the channel after its last whole run, which then waits for delivery. Selection: a the tile, b the channel, c the fault code. -/
  | copyInflightFault
  /-- COPY_COMPLETE (R232): The last run is placed: flags are ORed, an arrival is sent, the watermark completes and an event may be raised. Selection: a the tile, b the channel. -/
  | copyComplete
  /-- BC_POST_APPLY (R238): The byte-count unit applies a post to a record. Selection: a the tile. -/
  | bcPostApply
  /-- BC_ARRIVAL (R238): The byte-count unit applies an arrival and evaluates phase completion. Selection: a the tile. -/
  | bcArrival
  /-- EXCHANGE_INFLIGHT_FAULT (R242): POISON or STAGING_FULL found after issue holds the access, and the fault is delivered at the park that waits for it. Selection: ctx the context, c the fault code. -/
  | exchangeInflightFault
  /-- COMMIT_HOLD_END (R274): A deferred effect of TCBRDY, TDONE or SPAWN takes effect once the context's commit hold ends. Selection: a the task, b the rank. -/
  | commitHoldEnd
  /-- PREDECESSOR_DECREMENT (R275): A predecessor count is decremented and its task is made ready at zero. -/
  | predecessorDecrement
  /-- TASK_RETIRE (R276): A task whose contexts have gone and whose writes are committed retires, frees its domains and decrements its successors. Selection: a the task. -/
  | taskRetire
  /-- ACTIVE_MESSAGE_ARRIVAL (R278): An active message enters a tile's message queue. Selection: a its place among those on their way. -/
  | activeMessageArrival
  /-- ACTIVE_MESSAGE_START (R278): The head message starts a 1 × 1 × 1 task once the tile has a free context, slot and domain. Selection: a the tile. -/
  | activeMessageStart
  /-- TASK_PLACEMENT (R280): A ready task is placed on its lowest candidate rectangle, its domains bound and its contexts started. Selection: a the task. -/
  | taskPlacement
  /-- RESERVATION (R281): A ready task that has waited PLACECTL.wait receives a reservation. Selection: a the task. -/
  | reservation
  /-- PLACEMENT_STALL (R281): A reservation held for PLACECTL.limit raises a supervisor record once. Selection: a the task. -/
  | placementStall
  /-- TASK_STOP (R284): STOP reaches a tile: contexts stop, channels pause, the matrix row is recorded and domain state is saved. Selection: a the task, b the tile. -/
  | taskStop
  /-- IMAGE_EVICT (R286): A stopped context's image is copied to the save pool when its slot is needed. Selection: ctx the context. -/
  | imageEvict
  /-- TASK_RESUME (R287): A stopped task is placed again, its images, domain state and channels restored. Selection: a the task. -/
  | taskResume
  /-- TASK_RELOCATION (R289): A relocatable task is stopped, its memories and state copied to the new rectangle, and resumed. Selection: a the task; b the origin, with the flag, where it resumes elsewhere. -/
  | taskRelocation
  /-- TRACE_MISS (R292): In bind mode, a task not next in its tiles' trace for PLACECTL.limit raises a record. Selection: a the task. -/
  | traceMiss
  /-- MATRIX_COMMAND_EXECUTE (R300): The command at the head of the matrix queue executes and returns its results and flags at completion. Selection: a the tile. -/
  | matrixCommandExecute
  /-- BANK_REPLAY (R320): A non-resident or resumed bank is reloaded from its provenance. Selection: ctx the context, flag whether the back bank. -/
  | bankReplay
  /-- TABLE_WALK (R334): A translation walk completes and its result is given to the misses that joined it. Selection: a the page. -/
  | tableWalk
  /-- COUNTER_INCREMENT (R339): A touch increment reaches its home die and updates the page's count. Selection: a the die. -/
  | counterIncrement
  /-- NOTIFICATION_PUSH (R340): A notification is written to the notification ring when there is room. Selection: a the die. -/
  | notificationPush
  /-- MIGRATION_COMPLETE (R341): A migration finishes its copy, switches the entry, drains old accesses and clears wblock. Selection: a the page. -/
  | migrationComplete
  /-- WRITE_BLOCKED (R341): A write waiting more than 1 ms on a migration posts one record. Selection: a the page. -/
  | writeBlocked
  /-- READ_RETRY_RESULT (R343): The retry returns good data, counted as transient, or fails and poisons the page. Selection: flag whether the data are good. -/
  | readRetryResult
  /-- BASEDIE_SUBCOMMAND (R351): A base-die engine executes a sub-command on its channel. Selection: a the command, b the stack, c the channel. -/
  | basedieSubcommand
  /-- BASEDIE_COMPLETE (R358): A base-die command completes: flags, a byte-count arrival and perhaps an event. Selection: a the command, flag whether a reply was overdue. -/
  | basedieComplete
  /-- BASEDIE_INFLIGHT_FAULT (R361): POISON or STAGING_FULL holds a base-die command until its fault is delivered. Selection: a the command, c the fault code. -/
  | basedieInflightFault
  /-- REFRESH (R362): Refresh falls due and the bank yields at the next DRAM row boundary. Selection: a the stack, b the channel. -/
  | refresh
  /-- RATE_CHANGE (R363): After the crossing FIFO drains, a new logic-to-DRAM ratio takes effect. Selection: a the stack, b the channel. -/
  | rateChange
  /-- STACK_THERMAL_LIMIT (R365): A stack at its temperature limit lowers its own rate and posts a record. Selection: a the stack, b the rate. -/
  | stackThermalLimit
  /-- SLOT_START (R374): A rotor slot begins: dark guard, then control flits and light-on time. -/
  | slotStart
  /-- PEER_ABSENT (R375): A pair link with no locked control flit for one rotation makes its peer absent. Selection: a the peer. -/
  | peerAbsent
  /-- WAVELENGTH_DARK (R378): A receiver finds a wavelength dark and reports it on the reverse pair link. Selection: a the port, b the wavelength,
  c the sending package. -/
  | wavelengthDark
  /-- REPLAY_RESEND (R379): A flit unacknowledged one rotation after it was sent is resent. Selection: a the port, b the slot. -/
  | replayResend
  /-- PEER_TIMEOUT (R389): An unanswered remote request is abandoned after FABCTL.timeout and the issuer takes PEER. Selection: a the request. -/
  | peerTimeout
  /-- FSEND_COMPLETE (R397): Once every byte is acknowledged, the FSEND completes and sends its lbc arrival. Selection: a the work. -/
  | fsendComplete
  /-- FSEND_INFLIGHT_FAULT (R398): A timed-out or STAGING_FULL FSEND is held until its fault is delivered. Selection: a the work, c the fault code. -/
  | fsendInflightFault
  /-- COLL_NODE_COMPLETE (R407): A collective node completes once its results are placed and its packets accepted. Selection: a the node, flag whether a packet was overdue. -/
  | collNodeComplete
  /-- COLL_MISMATCH (R409): A node that meets a different digest completes with status 2 and notifies its neighbours. Selection: a the node. -/
  | collMismatch
  /-- ADMISSION_ROUND1 (R416): After a routing step, first-choice tokens are admitted in canonical order and overflow is forwarded. Selection: a the domain id. -/
  | admissionRound1
  /-- ADMISSION_ROUND2 (R416): Once round 1 is done everywhere, second-choice tokens are admitted or bounced. Selection: a the domain id. -/
  | admissionRound2
  /-- EVENT_RECORD_POST (R430): An event record is written to the host ring when there is room, with an optional MSI-X. -/
  | eventRecordPost
  /-- FIRMWARE_VERIFIED (R432): The supervisor finishes verifying the image, installing it or rejecting it. -/
  | firmwareVerified
  /-- FWCTL_RAISEMIN (R432): The host raises the fused minimum security version. -/
  | fwctlRaisemin
  /-- ATTESTATION_REQUEST (R436): A write of 1 to ATTCTL requests a signed report over the nonce. -/
  | attestationRequest
  /-- ATTESTATION_DONE (R436): The report body and signature are written and ATTCTL reads 2. -/
  | attestationDone
  /-- THROTTLE_TEMPERATURE (R438): A die at its throttle temperature lowers the clock step and posts STEP_LOWERED. Selection: a the die. -/
  | throttleTemperature
  /-- STEP_RAISED (R438): After 100 ms below the throttle temperature, the clock step is raised. -/
  | stepRaised
  /-- TRIP (R438): At the trip temperature the Z2 stops issuing, posts TRIP and removes power. -/
  | trip
  /-- HOST_LINK_DOWN (R430): The host link goes down, the Z2 goes on running, and event records wait for the link. -/
  | hostLinkDown
  deriving DecidableEq, Repr

/-- A move of the machine: an operation and what it concerns. -/
structure Move where
  sel : Selection
  op : Instr
  deriving DecidableEq, Repr

end Sys2Proof
end

