-- ==== Sys2Proof/WellFormed.lean ====
section
/-! DEFINITION. Well-formedness: check 4 of R88, which no operand value and no mode enters. A word that fails
it is ILLEGAL. The machine's events carry no encoding and are well formed. -/

namespace Sys2Proof

/-- A uniform destination: an s register or an operand-file entry (R80, R81). -/
def Operand.isSO : Operand → Bool
  | .s _ | .o _ => true
  | _ => false

/-- A lane destination: a v register or an operand-file entry. -/
def Operand.isVO : Operand → Bool
  | .v _ | .o _ => true
  | _ => false

/-- A mask destination: a p register or an operand-file entry. -/
def Operand.isPO : Operand → Bool
  | .p _ | .o _ => true
  | _ => false

/-- The first of two v registers: its base does not exceed v46 (R319). -/
def Operand.isV2 : Operand → Bool
  | .v n => n.val ≤ 46
  | _ => false

/-- An accumulator block. -/
def Operand.isA : Operand → Bool
  | .a _ => true
  | _ => false

/-- An operand-file entry. -/
def Operand.isO : Operand → Bool
  | .o _ => true
  | _ => false

/-- An address: an s register, an operand-file entry or the latch (R80). -/
def Operand.isAddr : Operand → Bool
  | .s _ | .o _ | .latch => true
  | _ => false

/-- The base of an indexed access: an operand-file entry or the latch (R193). -/
def Operand.isEntry : Operand → Bool
  | .o _ | .latch => true
  | _ => false

/-- The value role: an s register, an operand-file entry, the latch or a constant. -/
def Operand.isValue : Operand → Bool
  | .s _ | .o _ | .latch | .const _ => true
  | _ => false

/-- Any source of a uniform-class instruction: no v or a register (R81). -/
def Operand.isUniform : Operand → Bool
  | .s _ | .p _ | .o _ | .latch | .const _ => true
  | _ => false

/-- A source of a lane-class instruction. -/
def Operand.isLaneSrc : Operand → Bool
  | .v _ | .s _ | .o _ | .latch | .const _ => true
  | _ => false

/-- An index: an s register, a constant or the latch. -/
def Operand.isIndex : Operand → Bool
  | .s _ | .latch | .const _ => true
  | _ => false

/-- A mask source: a p register, an operand-file entry or the latch. -/
def Operand.isMask : Operand → Bool
  | .p _ | .o _ | .latch => true
  | _ => false

/-- A mask source that may be a constant. -/
def Operand.isMaskK : Operand → Bool
  | .p _ | .o _ | .latch | .const _ => true
  | _ => false

/-- p0 is not inverted (R77). -/
def Common.ok (h : Common) : Bool := h.pred != 0 || !h.inv

/-- The instruction is unpredicated (R77). -/
def Common.unpred (h : Common) : Bool := h.pred == 0 && !h.inv

/-- The modifier as a number. -/
def FormA.m (w : FormA) : Nat := w.mod.toNat

/-- The element-type code (R83). -/
def FormA.typ (w : FormA) : Nat := w.mod.toNat % 16

/-- The option or rounding bits (R83). -/
def FormA.opt (w : FormA) : Nat := w.mod.toNat / 16

/-- A rounding code that exists (R59). -/
def FormA.rndOk (w : FormA) : Bool := w.opt ≤ 4

/-- An integer element type: INT64 only in the uniform class (R83). -/
def FormA.intTypes (w : FormA) : Bool := w.typ ≤ 3 && (!w.h.lane || w.typ != 0)

/-- A destination of the class. -/
def FormA.dstInt (w : FormA) : Bool := if w.h.lane then w.dst.isVO else w.dst.isSO

/-- A source of the class. -/
def FormA.src (w : FormA) (o : Operand) : Bool := if w.h.lane then o.isLaneSrc else o.isValue

/-- An integer operation of two sources (R152). -/
def FormA.intBin (w : FormA) : Bool := w.intTypes && w.dstInt && w.src w.a && w.src w.b && w.c == .zero

/-- An integer operation of three sources (R152). -/
def FormA.intTer (w : FormA) : Bool := w.intTypes && w.dstInt && w.src w.a && w.src w.b && w.src w.c

/-- An integer operation of one source (R152). -/
def FormA.intUn (w : FormA) : Bool := w.intTypes && w.dstInt && w.src w.a && w.b == .zero && w.c == .zero

/-- No option bit outside the allowed ones. -/
def FormA.optIn (w : FormA) (allowed : Nat) : Bool := w.opt &&& allowed == w.opt

/-- A floating element type, with the saturating ones where they are allowed (R83, R169). -/
def FormA.fltTypes (w : FormA) (sat : Bool) : Bool :=
  (4 ≤ w.typ && w.typ ≤ 6) || (sat && 12 ≤ w.typ && w.typ ≤ 14)

/-- The run of n registers from v k, for a constant n of 1 to 48, ends at or below v47 (R185). -/
def runOk (n : Int) (k : Nat) : Bool := 1 ≤ n && n ≤ 48 && (k : Int) + n ≤ 48

/-- The operands of VMOVN (R185). -/
def FormA.vmovnOk (w : FormA) : Bool :=
  match w.dst, w.a, w.b with
  | .v d, .v a, .const n => runOk n.toInt d.val && runOk n.toInt a.val
  | _, _, _ => false

/-- The operands of VZERO (R185). -/
def FormA.vzeroOk (w : FormA) : Bool :=
  match w.dst, w.a with
  | .v d, .const n => runOk n.toInt d.val
  | _, _ => false

/-- Rows of accumulators that one v register takes in a destination format (R317). -/
def cvtRows (f : Nat) : Nat := if f == 0 then 1 else if f == 3 || f == 4 || f == 5 then 4 else 2

/-- The format, rounding, saturation and row of ACCCVT (R317). -/
def FormA.accRowOk (w : FormA) : Bool :=
  let f := w.m % 8
  let sat := w.mod.getLsbD 3
  f < 7 && w.rndOk &&
  (if f == 0 || f == 5 || f == 6 then w.opt == 0 && !sat
   else if f == 3 then !sat && w.opt != 4
   else if f == 4 then w.opt != 4 else true) &&
  (match w.b with
   | .const r => 0 ≤ r.toInt && r.toInt < 16 && r.toNat % cvtRows f == 0
   | _ => false)

/-- The transform of QCVT matches its geometry (R319). -/
def FormA.hadOk (w : FormA) : Bool :=
  let had := bitsOf w.m 3 2
  had == 0 || (had == 1 && !w.mod.getLsbD 0) || (had == 2 && w.mod.getLsbD 0)

/-- The sub-operation field of SYNC and ARRIVE: bits 16:8 zero, an operation and a scope that exist
(R264). -/
def FormX.syncSub (w : FormX) : Bool :=
  let n := w.sub.toNat
  n < 256 && 1 ≤ n % 8 && n % 8 ≤ 5 && n / 8 % 16 ≤ 11

/-- The value and abort-code fields of SYNC and ARRIVE: zero where unused (R264). -/
def FormX.syncArgs (w : FormX) : Bool :=
  (if w.sub.toNat / 8 % 16 == 0 then w.b == .zero else w.b.isValue) &&
  (if w.sub.getLsbD 7 then w.c.isValue else w.c == .zero)

/-- The operands, format, geometry and register rows of MMA and MMAT, as far as the word shows them
(R308, R310). -/
def FormX.mmaOk (w : FormX) : Bool :=
  let n := w.sub.toNat
  let f := bitsOf n 9 4
  let g := bitsOf n 11 10
  let blocked := f == 6 || f == 7
  n < 2 ^ 13 && w.a.isA && w.c.isValue && 2 ≤ f && f ≤ 8 &&
  (if blocked then g == 1 || g == 2 else g == 0) &&
  (if w.sub.getLsbD 12 then
     !blocked && (match w.b with
       | .v k => k.val + n % 16 ≤ 47
       | _ => false)
   else w.b.isAddr)

/-- The header is well formed (R75). -/
def HeaderWord.wf (h : HeaderWord) : Bool := h.rsv == 0 && ((h.guard == 0) == (h.reconv == 0))

/-- The control registers that exist (R208 and the engine chapters). -/
def csrExists (n : Nat) : Bool :=
  n ≤ 0x00A || (0x010 ≤ n && n ≤ 0x019) || (0x020 ≤ n && n ≤ 0x022) || n == 0x028 || n == 0x100 || n == 0x101 ||
  (0x200 ≤ n && n ≤ 0x206) || n == 0x210 || n == 0x211 || (0x220 ≤ n && n ≤ 0x223) || (0x230 ≤ n && n ≤ 0x232) ||
  (0x240 ≤ n && n ≤ 0x243) || n == 0x245 || n == 0x246 || n == 0x250 || (0x260 ≤ n && n ≤ 0x27F) ||
  (0x280 ≤ n && n ≤ 0x282) || (0x290 ≤ n && n ≤ 0x294)

/-- The control registers whose fields are all read-only or reserved (R210). -/
def csrReadOnly (n : Nat) : Bool :=
  n == 0x003 || (0x008 ≤ n && n ≤ 0x00A) || n == 0x204 || n == 0x210 || (0x230 ≤ n && n ≤ 0x232)

/-- The control registers that user mode may not write (R87, R208). -/
def csrPrivileged (n : Nat) : Bool :=
  n == 0x100 || n == 0x101 || (0x200 ≤ n && n ≤ 0x2FF && n != 0x210 && !(0x230 ≤ n && n ≤ 0x232))

/-- The opcodes that a mnemonic or the header takes (R85). -/
def opcodeDefined (n : Nat) : Bool :=
  n ≤ 0x00A || (0x020 ≤ n && n ≤ 0x04B) || (0x080 ≤ n && n ≤ 0x099) || (0x0E0 ≤ n && n ≤ 0x0EC) ||
  (0x120 ≤ n && n ≤ 0x12C) || (0x130 ≤ n && n ≤ 0x13D) || (0x170 ≤ n && n ≤ 0x175) || (0x190 ≤ n && n ≤ 0x19A) ||
  (0x1B0 ≤ n && n ≤ 0x1B5) || (0x200 ≤ n && n ≤ 0x212) || (0x260 ≤ n && n ≤ 0x264) || (0x280 ≤ n && n ≤ 0x286) ||
  (0x2C0 ≤ n && n ≤ 0x2C7) || (0x2E0 ≤ n && n ≤ 0x2E3) || (0x3C0 ≤ n && n ≤ 0x3CD) || n == 0x3FF

/-- Check 4 of R88 for every instruction, and the well-formedness of a header. -/
def Instr.wf : Instr → Bool
  | .nop w => w.h.ok && !w.h.lane && w.dst == .zero && w.a == .zero && w.b == .zero && w.c == .zero && w.mod == 0
  | .br w => w.h.ok && !w.h.lane && w.mod == 0
  | .bri w => w.h.ok && !w.h.lane && w.dst == .zero && w.a.isAddr && w.b == .zero && w.c == .zero && w.mod == 0
  | .call w => w.h.ok && !w.h.lane && w.mod == 0
  | .calli w => w.h.ok && !w.h.lane && w.dst == .zero && w.a.isAddr && w.b == .zero && w.c == .zero && w.mod == 0
  | .ret w => w.h.ok && !w.h.lane && w.dst == .zero && w.a.isAddr && w.b == .zero && w.c == .zero && w.mod == 0
  | .loop w => w.h.ok && !w.h.lane && w.dst.isSO && w.a.isUniform
  | .exit w => w.h.ok && !w.h.lane && w.dst == .zero && w.a == .zero && w.b == .zero && w.c == .zero && w.mod.toNat < 2
  | .park w => w.h.ok && !w.h.lane && w.dst == .zero && w.a == .zero && w.b == .zero && w.c == .zero && w.mod == 0
  | .yield w => w.h.ok && !w.h.lane && w.dst == .zero && w.a == .zero && w.b == .zero && w.c == .zero && w.mod == 0
  | .wfe w => w.h.ok && !w.h.lane && w.dst.isSO && w.a.isValue && w.b == .zero && w.c == .zero && w.mod == 0
  | .add w => w.h.ok && w.intBin && w.optIn 6
  | .addi w => w.h.ok && (if w.h.lane then w.dst.isVO && w.a.isLaneSrc else w.dst.isSO && w.a.isValue)
  | .sub w => w.h.ok && w.intBin && w.optIn 6
  | .mul w => w.h.ok && w.intBin && w.optIn 6
  | .muli w => w.h.ok && (if w.h.lane then w.dst.isVO && w.a.isLaneSrc else w.dst.isSO && w.a.isValue)
  | .mulhi w => w.h.ok && w.intBin && w.optIn 0
  | .mulhu w => w.h.ok && w.intBin && w.optIn 0
  | .mad w => w.h.ok && w.intTer && w.optIn 6
  | .div w => w.h.ok && w.intBin && w.optIn 0
  | .divu w => w.h.ok && w.intBin && w.optIn 0
  | .rem w => w.h.ok && w.intBin && w.optIn 0
  | .remu w => w.h.ok && w.intBin && w.optIn 0
  | .and w => w.h.ok && w.intBin && w.optIn 0
  | .andi w => w.h.ok && (if w.h.lane then w.dst.isVO && w.a.isLaneSrc else w.dst.isSO && w.a.isValue)
  | .or w => w.h.ok && w.intBin && w.optIn 0
  | .ori w => w.h.ok && (if w.h.lane then w.dst.isVO && w.a.isLaneSrc else w.dst.isSO && w.a.isValue)
  | .xor w => w.h.ok && w.intBin && w.optIn 0
  | .xori w => w.h.ok && (if w.h.lane then w.dst.isVO && w.a.isLaneSrc else w.dst.isSO && w.a.isValue)
  | .shl w => w.h.ok && w.intBin && w.optIn 6
  | .shli w => w.h.ok && (if w.h.lane then w.dst.isVO && w.a.isLaneSrc else w.dst.isSO && w.a.isValue)
  | .shr w => w.h.ok && w.intBin && w.optIn 0
  | .shri w => w.h.ok && (if w.h.lane then w.dst.isVO && w.a.isLaneSrc else w.dst.isSO && w.a.isValue)
  | .sar w => w.h.ok && w.intBin && w.optIn 0
  | .sari w => w.h.ok && (if w.h.lane then w.dst.isVO && w.a.isLaneSrc else w.dst.isSO && w.a.isValue)
  | .rol w => w.h.ok && w.intBin && w.optIn 0
  | .min w => w.h.ok && w.intBin && w.optIn 0
  | .minu w => w.h.ok && w.intBin && w.optIn 0
  | .max w => w.h.ok && w.intBin && w.optIn 0
  | .maxu w => w.h.ok && w.intBin && w.optIn 0
  | .abs w => w.h.ok && w.intUn && w.optIn 4
  | .cmp w => w.h.ok && w.intTypes && w.dst.isPO && w.src w.a && w.src w.b && w.c == .zero && (!w.h.lane || w.typ == 1)
  | .cmpi w => w.h.ok && w.dst.isPO && (if w.h.lane then w.a.isLaneSrc else w.a.isValue)
  | .sel w => w.h.ok && w.intTypes && w.dstInt && w.src w.a && w.src w.b && w.c.isMask && w.optIn 0
  | .mov w => w.h.ok && w.intUn && w.optIn 0
  | .movi w => w.h.ok && (if w.h.lane then w.dst.isVO && w.mod == 0 else w.dst.isSO && w.mod.toNat < 2)
  | .movhi w => w.h.ok && !w.h.lane && w.dst.isSO && w.mod == 0
  | .popc w => w.h.ok && w.intUn && w.optIn 0
  | .clz w => w.h.ok && w.intUn && w.optIn 0
  | .ctz w => w.h.ok && w.intUn && w.optIn 0
  | .brev w => w.h.ok && w.intUn && w.optIn 0
  | .bfx w => w.h.ok && w.intTer && w.optIn 0
  | .bfxu w => w.h.ok && w.intTer && w.optIn 0
  | .bfi w => w.h.ok && w.intTer && w.optIn 0
  | .lea w => w.h.ok && w.intTer && (w.typ == (if w.h.lane then 1 else 0))
  | .fadd w => w.h.ok && w.fltTypes true && w.rndOk && w.dstInt && w.src w.a && w.src w.b && w.c == .zero
  | .fsub w => w.h.ok && w.fltTypes true && w.rndOk && w.dstInt && w.src w.a && w.src w.b && w.c == .zero
  | .fmul w => w.h.ok && w.fltTypes true && w.rndOk && w.dstInt && w.src w.a && w.src w.b && w.c == .zero
  | .fma w => w.h.ok && w.fltTypes true && w.rndOk && w.dstInt && w.src w.a && w.src w.b && w.src w.c
  | .fms w => w.h.ok && w.fltTypes true && w.rndOk && w.dstInt && w.src w.a && w.src w.b && w.src w.c
  | .fnma w => w.h.ok && w.fltTypes true && w.rndOk && w.dstInt && w.src w.a && w.src w.b && w.src w.c
  | .fnms w => w.h.ok && w.fltTypes true && w.rndOk && w.dstInt && w.src w.a && w.src w.b && w.src w.c
  | .fmin w => w.h.ok && w.fltTypes false && w.opt == 0 && w.dstInt && w.src w.a && w.src w.b && w.c == .zero
  | .fmax w => w.h.ok && w.fltTypes false && w.opt == 0 && w.dstInt && w.src w.a && w.src w.b && w.c == .zero
  | .fabs w => w.h.ok && w.fltTypes false && w.opt == 0 && w.dstInt && w.src w.a && w.b == .zero && w.c == .zero
  | .fneg w => w.h.ok && w.fltTypes false && w.opt == 0 && w.dstInt && w.src w.a && w.b == .zero && w.c == .zero
  | .fcpys w => w.h.ok && w.fltTypes false && w.opt == 0 && w.dstInt && w.src w.a && w.src w.b && w.c == .zero
  | .fcmp w => w.h.ok && w.fltTypes false && (!w.h.lane || w.typ == 4) && w.dst.isPO && w.src w.a && w.src w.b && w.c == .zero
  | .fclass w => w.h.ok && w.fltTypes false && w.opt == 0 && w.dstInt && w.src w.a && w.b == .zero && w.c == .zero
  | .fdiv w => w.h.ok && w.fltTypes true && w.rndOk && w.dstInt && w.src w.a && w.src w.b && w.c == .zero
  | .fsqrt w => w.h.ok && w.fltTypes true && w.rndOk && w.dstInt && w.src w.a && w.b == .zero && w.c == .zero
  | .frcp w => w.h.ok && w.fltTypes true && w.rndOk && w.dstInt && w.src w.a && w.b == .zero && w.c == .zero
  | .frsq w => w.h.ok && w.fltTypes true && w.rndOk && w.dstInt && w.src w.a && w.b == .zero && w.c == .zero
  | .fexp2 w => w.h.ok && w.fltTypes true && w.rndOk && w.dstInt && w.src w.a && w.b == .zero && w.c == .zero
  | .flog2 w => w.h.ok && w.fltTypes true && w.rndOk && w.dstInt && w.src w.a && w.b == .zero && w.c == .zero
  | .frnd w => w.h.ok && w.fltTypes false && w.rndOk && w.dstInt && w.src w.a && w.b == .zero && w.c == .zero
  | .fcvt w => w.h.ok && w.rndOk && w.dstInt && w.src w.a && w.b == .zero && w.c == .zero && (!w.mod.getLsbD 2 || bitsOf w.m 1 0 < 3) && (!w.mod.getLsbD 3 || bitsOf w.m 1 0 == 3)
  | .fcvti w => w.h.ok && w.rndOk && w.dstInt && w.src w.a && w.b == .zero && w.c == .zero && bitsOf w.m 1 0 < 3 && (!w.mod.getLsbD 2 || !w.h.lane)
  | .icvtf w => w.h.ok && w.rndOk && w.dstInt && w.src w.a && w.b == .zero && w.c == .zero && bitsOf w.m 1 0 < 3 && (!w.mod.getLsbD 2 || !w.h.lane)
  | .fpack w => w.h.ok && w.rndOk && w.dstInt && w.src w.a && (if w.h.lane then w.src w.b else w.b == .zero) && w.c == .zero && (!w.mod.getLsbD 1 || (w.h.lane && bitsOf w.m 3 2 ≥ 2))
  | .funpk w => w.h.ok && w.opt == 0 && w.dstInt && w.src w.a && w.b == .zero && w.c == .zero && (if w.h.lane then bitsOf w.m 3 2 ≥ 2 || bitsOf w.m 1 0 < 2 else bitsOf w.m 1 0 == 0)
  | .vbcast w => w.h.ok && w.h.lane && w.dst.isVO && w.a.isVO && w.b.isIndex && w.c == .zero && w.opt == 0 && 1 ≤ w.typ && w.typ ≤ 6
  | .vext w => w.h.ok && w.h.lane && w.dst.isVO && w.a.isVO && w.b.isVO && w.c.isIndex && w.opt == 0 && 1 ≤ w.typ && w.typ ≤ 6
  | .vins w => w.h.ok && w.h.lane && w.dst.isVO && w.a.isIndex && w.b.isIndex && w.c == .zero && w.opt == 0 && 1 ≤ w.typ && w.typ ≤ 6
  | .vperm w => w.h.ok && w.h.lane && w.dst.isVO && w.a.isVO && w.b.isVO && w.c == .zero && w.opt == 0 && w.typ == 1
  | .vshuf w => w.h.ok && w.h.lane && w.dst.isVO && w.a.isVO && w.b.isVO && w.c.isVO && w.opt == 0 && w.typ == 1
  | .vsel w => w.h.ok && w.h.lane && w.dst.isVO && w.a.isVO && w.b.isVO && w.c.isVO && w.opt == 0 && 1 ≤ w.typ && w.typ ≤ 6
  | .vredu w => w.h.ok && w.h.lane && w.dst.isVO && w.a.isVO && w.b.isMask && w.c == .zero && 1 ≤ w.typ && w.typ ≤ 6 && (w.typ ≤ 3 || w.opt ≤ 2)
  | .vscan w => w.h.ok && w.h.lane && w.dst.isVO && w.a.isVO && w.b.isMask && w.c == .zero && 1 ≤ w.typ && w.typ ≤ 6 && (w.typ ≤ 3 || w.opt ≤ 2)
  | .vcprs w => w.h.ok && w.h.lane && w.dst.isVO && w.a.isVO && w.b.isMask && w.c == .zero && w.opt == 0 && w.typ == 1
  | .vexpd w => w.h.ok && w.h.lane && w.dst.isVO && w.a.isVO && w.b.isMask && w.c == .zero && w.opt == 0 && w.typ == 1
  | .viota w => w.h.ok && w.h.lane && w.dst.isVO && w.a.isMask && w.b == .zero && w.c == .zero && w.opt == 0 && w.typ == 1
  | .vmovn w => w.h.ok && w.h.lane && w.vmovnOk && w.c == .zero && w.opt == 0 && w.typ == 1
  | .vzero w => w.h.ok && w.h.lane && w.vzeroOk && w.b == .zero && w.c == .zero && w.opt == 0 && w.typ == 1
  | .pand w => w.h.ok && !w.h.lane && w.dst.isPO && w.a.isMaskK && w.b.isMaskK && w.c == .zero && w.mod == 0
  | .pandn w => w.h.ok && !w.h.lane && w.dst.isPO && w.a.isMaskK && w.b.isMaskK && w.c == .zero && w.mod == 0
  | .por w => w.h.ok && !w.h.lane && w.dst.isPO && w.a.isMaskK && w.b.isMaskK && w.c == .zero && w.mod == 0
  | .pxor w => w.h.ok && !w.h.lane && w.dst.isPO && w.a.isMaskK && w.b.isMaskK && w.c == .zero && w.mod == 0
  | .pnot w => w.h.ok && !w.h.lane && w.dst.isPO && w.a.isMaskK && w.b == .zero && w.c == .zero && w.mod == 0
  | .pmov w => w.h.ok && !w.h.lane && w.dst.isPO && w.a.isMaskK && w.b == .zero && w.c == .zero && w.mod == 0
  | .pset w => w.h.ok && !w.h.lane && w.dst.isPO && w.mod.toNat < 2
  | .pcnt w => w.h.ok && !w.h.lane && w.dst.isSO && w.a.isMaskK && w.b == .zero && w.c == .zero && w.mod == 0
  | .pany w => w.h.ok && !w.h.lane && w.dst.isPO && w.a.isMaskK && w.b == .zero && w.c == .zero && w.mod == 0
  | .pall w => w.h.ok && !w.h.lane && w.dst.isPO && w.a.isMaskK && w.b == .zero && w.c == .zero && w.mod == 0
  | .pfirst w => w.h.ok && !w.h.lane && w.dst.isPO && w.a.isMaskK && w.b == .zero && w.c == .zero && w.mod == 0
  | .pfroms w => w.h.ok && !w.h.lane && w.dst.isPO && w.a.isValue && w.b == .zero && w.c == .zero && w.mod == 0
  | .ptos w => w.h.ok && !w.h.lane && w.dst.isSO && w.a.isMaskK && w.b == .zero && w.c == .zero && w.mod == 0
  | .ldb w => w.h.ok && !w.h.lane && w.data.isSO && w.base.isAddr && w.slack == 0 && w.mod.toNat < 2
  | .ldh w => w.h.ok && !w.h.lane && w.data.isSO && w.base.isAddr && w.slack == 0 && w.mod.toNat < 2
  | .ldw w => w.h.ok && !w.h.lane && w.data.isSO && w.base.isAddr && w.slack == 0 && w.mod.toNat < 2
  | .ldd w => w.h.ok && !w.h.lane && w.data.isSO && w.base.isAddr && w.slack == 0 && w.mod == 0
  | .stb w => w.h.ok && !w.h.lane && w.data.isValue && w.base.isAddr && w.slack == 0 && w.mod == 0
  | .sth w => w.h.ok && !w.h.lane && w.data.isValue && w.base.isAddr && w.slack == 0 && w.mod == 0
  | .stw w => w.h.ok && !w.h.lane && w.data.isValue && w.base.isAddr && w.slack == 0 && w.mod == 0
  | .std w => w.h.ok && !w.h.lane && w.data.isValue && w.base.isAddr && w.slack == 0 && w.mod == 0
  | .ldv w => w.h.ok && w.h.lane && w.data.isVO && w.base.isAddr && w.slack == 0 && w.mod == 0
  | .stv w => w.h.ok && w.h.lane && w.data.isLaneSrc && w.base.isAddr && w.slack == 0 && w.mod == 0
  | .ldvs w => w.h.ok && w.h.lane && w.data.isVO && w.base.isAddr && w.slack == 0 && w.mod.toNat < 3
  | .stvs w => w.h.ok && w.h.lane && w.data.isLaneSrc && w.base.isAddr && w.slack == 0 && w.mod.toNat < 3
  | .ldvx w => w.h.ok && w.h.lane && w.data.isVO && w.base.isEntry && w.slack == 0 && w.mod.toNat < 8 && bitsOf w.mod.toNat 1 0 < 3
  | .stvx w => w.h.ok && w.h.lane && w.data.isLaneSrc && w.base.isEntry && w.slack == 0 && w.mod.toNat < 3
  | .xldd w => w.h.ok && !w.h.lane && w.data.isSO && w.base.isAddr && w.mod.toNat < 8 && w.mod != 4
  | .xldv w => w.h.ok && w.h.lane && w.data.isVO && w.base.isAddr && w.mod == 0
  | .xstd w => w.h.ok && !w.h.lane && w.data.isValue && w.base.isAddr && w.mod.toNat < 4
  | .xstv w => w.h.ok && w.h.lane && w.data.isLaneSrc && w.base.isAddr && w.mod == 0
  | .xred w => w.h.ok && !w.h.lane && w.data.isValue && w.base.isAddr && w.mod.toNat ≤ 0x10
  | .xredv w => w.h.ok && w.h.lane && w.data.isLaneSrc && w.base.isAddr && w.mod.toNat ≤ 0x10 && !([1, 4, 5, 9, 10, 11].contains w.mod.toNat)
  | .btx w => w.h.ok && !w.h.lane && w.data.isValue && w.base.isAddr && w.slack == 0 && w.mod == 0
  | .btxa w => w.h.ok && !w.h.lane && w.a.isValue && w.sub.toNat < 4 && (if w.sub.getLsbD 0 then w.b.isAddr else w.b == .zero) && (if w.sub.getLsbD 1 then w.c.isAddr else w.c == .zero)
  | .btwm w => w.h.ok && !w.h.lane && w.a.isSO && w.b.isValue && w.c == .zero && w.sub == 0
  | .btwait w => w.h.ok && !w.h.lane && w.a.isValue && w.sub.toNat < 2 && (if w.sub.getLsbD 0 then w.b == .zero else w.b.isValue) && w.c == .zero
  | .btcan w => w.h.ok && !w.h.lane && w.a.isValue && w.b == .zero && w.c == .zero && w.sub == 0
  | .btstat w => w.h.ok && !w.h.lane && w.a.isSO && w.b.isValue && w.c == .zero && w.sub == 0
  | .bcpost w => w.h.ok && !w.h.lane && w.a.isAddr && w.b.isValue && w.c == .zero && w.sub.toNat < 2
  | .bcarv w => w.h.ok && !w.h.lane && w.a.isAddr && w.b.isValue && w.c == .zero && w.sub == 0
  | .bcwait w => w.h.ok && !w.h.lane && w.a.isAddr && w.b.isValue && w.c == .zero && w.sub.toNat < 2
  | .bctest w => w.h.ok && !w.h.lane && w.a.isSO && w.b.isAddr && w.c.isValue && w.sub == 0
  | .bcreset w => w.h.ok && !w.h.lane && w.a.isAddr && w.b == .zero && w.c == .zero && w.sub.toNat < 2
  | .sync w => w.h.ok && !w.h.lane && w.syncSub && (w.a == .zero || w.a.isSO) && w.syncArgs
  | .arrive w => w.h.ok && !w.h.lane && w.syncSub && w.a == .zero && w.syncArgs
  | .waits w => w.h.ok && !w.h.lane && (w.a == .zero || w.a.isSO) && w.b == .zero && w.c == .zero && w.sub == 0
  | .steprd w => w.h.ok && !w.h.lane && (w.a == .zero || w.a.isSO) && w.b == .zero && w.c == .zero && 1 ≤ w.sub.toNat && w.sub.toNat ≤ 5
  | .abortrd w => w.h.ok && !w.h.lane && (w.a == .zero || w.a.isSO) && w.b == .zero && w.c == .zero && w.sub.toNat < 3
  | .dombind w => w.h.ok && !w.h.lane && (w.a == .zero || w.a.isSO) && w.b.isValue && w.c.isValue && w.sub == 0
  | .dombindFree w => w.h.ok && !w.h.lane && (w.a == .zero || w.a.isSO) && w.b.isValue && w.c == .zero && w.sub == 1
  | .mma w => w.h.ok && w.h.lane && w.mmaOk
  | .mmat w => w.h.ok && w.h.lane && w.mmaOk
  | .mbld w => w.h.ok && !w.h.lane && w.a.isValue && w.b == .zero && w.c == .zero && w.sub.toNat < 2
  | .mbldFree w => w.h.ok && !w.h.lane && w.a == .zero && w.b == .zero && w.c == .zero && (w.sub == 2 || w.sub == 3)
  | .mbswap w => w.h.ok && !w.h.lane && w.a == .zero && w.b == .zero && w.c == .zero && w.sub == 0
  | .mplw w => w.h.ok && !w.h.lane && w.a.isValue && w.b.isValue && w.c.isValue && w.sub == 0
  | .mpdesc w => w.h.ok && !w.h.lane && w.a.isValue && w.b.isValue && w.c.isValue && w.sub == 0
  | .accz w => w.h.ok && w.h.lane && w.a.isA && w.b == .zero && w.c == .zero && w.sub.toNat < 8
  | .accld w => w.h.ok && w.h.lane && w.a.isA && w.b.isAddr && w.c.isValue && w.sub.toNat < 16
  | .accst w => w.h.ok && w.h.lane && w.a.isA && w.b.isAddr && w.c.isValue && w.sub.toNat < 16
  | .acccvt w => w.h.ok && w.h.lane && w.dst.isVO && w.a.isA && w.accRowOk && w.c == .zero
  | .mqwait w => w.h.ok && !w.h.lane && w.a.isValue && w.b == .zero && w.c == .zero && w.sub == 0
  | .mstat w => w.h.ok && !w.h.lane && w.a.isSO && w.b == .zero && w.c == .zero && w.sub.toNat < 512
  | .stpkey w => w.h.ok && !w.h.lane && w.a.isValue && w.b == .zero && w.c == .zero && w.sub == 0
  | .stpmem w => w.h.ok && !w.h.lane && w.a.isValue && w.b == .zero && w.c == .zero && w.sub == 0
  | .stpmemAdd w => w.h.ok && !w.h.lane && w.a.isValue && w.b == .zero && w.c == .zero && w.sub == 1
  | .stpgen w => w.h.ok && w.h.lane && w.dst.isVO && w.a.isValue && w.b.isValue && w.c == .zero && w.mod == 0
  | .stpmul w => w.h.ok && w.h.lane && w.dst.isVO && w.a.isVO && w.b.isVO && w.c.isVO && w.mod == 0
  | .qcvt w => w.h.ok && w.h.lane && w.h.unpred && w.dst.isVO && w.a.isV2 && w.b.isO && w.c == .zero && w.rndOk && w.hadOk
  | .dqcvt w => w.h.ok && w.h.lane && w.h.unpred && w.dst.isV2 && w.a.isVO && w.b.isO && w.c == .zero && w.mod.toNat < 4
  | .hadv w => w.h.ok && w.h.lane && w.h.unpred && w.dst.isVO && w.a.isVO && w.b == .zero && w.c == .zero && w.mod.toNat < 4
  | .nmred w => w.h.ok && !w.h.lane && w.a.isAddr && w.b == .zero && w.c == .zero && w.sub.toNat < 8
  | .nmgath w => w.h.ok && !w.h.lane && w.a.isAddr && w.b == .zero && w.c == .zero && w.sub.toNat < 8
  | .nmfill w => w.h.ok && !w.h.lane && w.a.isAddr && w.b == .zero && w.c == .zero && w.sub.toNat < 8
  | .nmcpy w => w.h.ok && !w.h.lane && w.a.isAddr && w.b == .zero && w.c == .zero && w.sub.toNat < 8
  | .nmstat w => w.h.ok && !w.h.lane && w.a.isSO && w.b.isValue && w.c == .zero && w.sub == 0
  | .nmstatCap w => w.h.ok && !w.h.lane && w.a.isSO && w.b.isValue && w.c == .zero && w.sub == 1
  | .fsend w => w.h.ok && !w.h.lane && w.a.isAddr && w.b == .zero && w.c == .zero && w.sub == 0
  | .route w => w.h.ok && !w.h.lane && w.a.isAddr && w.b == .zero && w.c == .zero && w.sub == 0
  | .rtclose w => w.h.ok && !w.h.lane && (w.a == .zero || w.a.isSO) && w.b == .zero && w.c == .zero && w.sub == 0
  | .rtrecv w => w.h.ok && !w.h.lane && w.a.isSO && w.b.isValue && w.c == .zero && w.sub == 0
  | .coll w => w.h.ok && !w.h.lane && w.a.isSO && w.b.isAddr && w.c == .zero && w.sub == 0
  | .collwait w => w.h.ok && !w.h.lane && (w.a == .zero || w.a.isSO) && w.b.isValue && w.c == .zero && w.sub == 0
  | .fstatPort w => w.h.ok && !w.h.lane && w.a.isSO && w.b.isValue && w.c == .zero && w.sub == 0
  | .fstatWork w => w.h.ok && !w.h.lane && w.a.isSO && w.b.isValue && w.c == .zero && w.sub == 1
  | .fstatPod w => w.h.ok && !w.h.lane && w.a.isSO && w.b.isValue && w.c == .zero && w.sub == 2
  | .spawn w => w.h.ok && !w.h.lane && w.a.isAddr && w.b == .zero && w.c == .zero && w.sub.toNat < 2
  | .tcbrdy w => w.h.ok && !w.h.lane && w.a.isSO && w.b.isAddr && w.c == .zero && w.sub == 0
  | .tdone w => w.h.ok && !w.h.lane && w.a.isAddr && w.b == .zero && w.c == .zero && w.sub == 0
  | .taskid w => w.h.ok && !w.h.lane && w.a.isSO && w.b == .zero && w.c == .zero && w.sub == 0
  | .rankrd w => w.h.ok && !w.h.lane && w.a.isSO && w.b == .zero && w.c == .zero && w.sub == 0
  | .rankrdShape w => w.h.ok && !w.h.lane && w.a.isSO && w.b == .zero && w.c == .zero && w.sub == 1
  | .preempt w => w.h.ok && !w.h.lane && w.a.isSO && w.b.isValue && w.c == .zero && w.sub == 0
  | .preemptKill w => w.h.ok && !w.h.lane && w.a.isSO && w.b.isValue && w.c == .zero && w.sub == 1
  | .resume w => w.h.ok && !w.h.lane && w.a.isSO && w.b.isValue && w.c == .zero && w.sub == 0
  | .resumeCtx w => w.h.ok && !w.h.lane && w.a.isSO && w.b.isValue && w.c == .zero && w.sub == 1
  | .resumeRemove w => w.h.ok && !w.h.lane && w.a.isSO && w.b.isValue && w.c == .zero && w.sub == 2
  | .reloc w => w.h.ok && !w.h.lane && w.a.isSO && w.b.isValue && w.c.isValue && w.sub == 0
  | .pginfo w => w.h.ok && !w.h.lane && w.a.isSO && w.b.isValue && w.c == .zero && w.sub == 0
  | .cntrd w => w.h.ok && !w.h.lane && w.a.isSO && w.b.isValue && w.c == .zero && w.sub == 0
  | .tlbinv w => w.h.ok && !w.h.lane && w.a.isValue && w.b.isValue && w.c == .zero && w.sub == 0
  | .tlbinvAll w => w.h.ok && !w.h.lane && w.a == .zero && w.b == .zero && w.c == .zero && w.sub == 1
  | .migr w => w.h.ok && !w.h.lane && w.a.isSO && w.b.isValue && w.c.isValue && w.sub == 0
  | .tfence w => w.h.ok && !w.h.lane && w.dst == .zero && w.a == .zero && w.b == .zero && w.c == .zero && w.mod == 0
  | .trap w => w.h.ok && !w.h.lane && w.dst == .zero && w.a.isValue && w.imm.toNat < 2 ^ 16
  | .eret w => w.h.ok && !w.h.lane && w.dst == .zero && w.a == .zero && w.b == .zero && w.c == .zero && w.mod == 0
  | .eretu w => w.h.ok && !w.h.lane && w.dst == .zero && w.a == .zero && w.b == .zero && w.c == .zero && w.mod == 0
  | .csrr w => w.h.ok && !w.h.lane && w.dst.isSO && w.a == .zero && w.imm.toNat < 2 ^ 12 && csrExists w.imm.toNat
  | .csrw w => w.h.ok && !w.h.lane && w.dst == .zero && w.a.isValue && w.imm.toNat < 2 ^ 12 && csrExists w.imm.toNat && !csrReadOnly w.imm.toNat
  | .csrs w => w.h.ok && !w.h.lane && w.dst == .zero && w.a.isValue && w.imm.toNat < 2 ^ 12 && csrExists w.imm.toNat && !csrReadOnly w.imm.toNat
  | .csrc w => w.h.ok && !w.h.lane && w.dst == .zero && w.a.isValue && w.imm.toNat < 2 ^ 12 && csrExists w.imm.toNat && !csrReadOnly w.imm.toNat
  | .flagrd w => w.h.ok && !w.h.lane && w.dst.isSO && w.a == .zero && w.b == .zero && w.c == .zero && w.mod == 0
  | .flagclr w => w.h.ok && !w.h.lane && w.dst == .zero && w.a.isValue && w.b == .zero && w.c == .zero && w.mod == 0
  | .view w => w.h.ok && !w.h.lane && w.dst == .zero && w.a.isValue && 1 ≤ w.imm.toNat && w.imm.toNat < 16
  | .setslk w => w.h.ok && !w.h.lane && w.dst == .zero && w.a.isValue && w.b == .zero && w.c == .zero && w.mod == 0
  | .cycle w => w.h.ok && !w.h.lane && w.dst.isSO && w.a == .zero && w.b == .zero && w.c == .zero && w.mod == 0
  | .podtime w => w.h.ok && !w.h.lane && w.dst.isSO && w.a == .zero && w.b == .zero && w.c == .zero && w.mod == 0
  | .blockHeader h => h.wf
  | .resultReturn _ => true
  | .registerEccError _ _ => true
  | .balancePeriod _ => true
  | .hardwareError _ => true
  | .readUncorrectable _ => true
  | .slotControlReceive _ => true
  | .flitReceive _ => true
  | .maskChange _ => true
  | .relayArrival _ => true
  | .peerRequest _ => true
  | .shareAnnouncement _ => true
  | .podContribution _ => true
  | .podResult _ => true
  | .fsendDelivery _ => true
  | .collPacketArrival _ => true
  | .tokenHold _ => true
  | .round1Done _ => true
  | .hostBar2Access _ _ _ => true
  | .hostActiveMessage _ _ => true
  | .tcbsub _ => true
  | .hoststatWrite _ _ => true
  | .evheadWrite _ => true
  | .evlostClear _ => true
  | .fwctlVerify _ => true
  | .brclr _ => true
  | .deviceReset _ _ => true
  | .unitSelfTestDone _ _ => true
  | .hostLinkError _ => true
  | .meshLinkError _ => true
  | .undefinedOpcode w => !opcodeDefined (w.toNat >>> 54)
  | .controlWindowAccess _ _ _ => true
  | .hostLinkTrained _ _ => true
  | .instructionFetchReply => true
  | .gangForwardArrival => true
  | .registerCacheFill => true
  | .wfeLimitExpiry => true
  | .yieldExpiry => true
  | .userEventEntry => true
  | .sfqPost => true
  | .waitTimeout => true
  | .slackTick => true
  | .packetArbitration => true
  | .barrierArrival => true
  | .stepCompletion => true
  | .stepTimeout => true
  | .copyRun => true
  | .copyInflightFault => true
  | .copyComplete => true
  | .bcPostApply => true
  | .bcArrival => true
  | .exchangeInflightFault => true
  | .commitHoldEnd => true
  | .predecessorDecrement => true
  | .taskRetire => true
  | .activeMessageArrival => true
  | .activeMessageStart => true
  | .taskPlacement => true
  | .reservation => true
  | .placementStall => true
  | .taskStop => true
  | .imageEvict => true
  | .taskResume => true
  | .taskRelocation => true
  | .traceMiss => true
  | .matrixCommandExecute => true
  | .bankReplay => true
  | .tableWalk => true
  | .counterIncrement => true
  | .notificationPush => true
  | .migrationComplete => true
  | .writeBlocked => true
  | .readRetryResult => true
  | .basedieSubcommand => true
  | .basedieComplete => true
  | .basedieInflightFault => true
  | .refresh => true
  | .rateChange => true
  | .stackThermalLimit => true
  | .slotStart => true
  | .peerAbsent => true
  | .wavelengthDark => true
  | .replayResend => true
  | .peerTimeout => true
  | .fsendComplete => true
  | .fsendInflightFault => true
  | .collNodeComplete => true
  | .collMismatch => true
  | .admissionRound1 => true
  | .admissionRound2 => true
  | .eventRecordPost => true
  | .firmwareVerified => true
  | .fwctlRaisemin => true
  | .attestationRequest => true
  | .attestationDone => true
  | .throttleTemperature => true
  | .stepRaised => true
  | .trip => true
  | .hostLinkDown => true

end Sys2Proof
end

