-- ==== Sys2Proof/Decode.lean ====
section
/-! DEFINITION. The decoder (R72-R86): total on every 64-bit word, refusing by name; and the encoder, written
from the same tables. -/

namespace Sys2Proof

/-- Why a word does not decode. -/
inductive DecodeError where
  /-- A field breaks check 4 of R88: a reserved operand, a disallowed class, modifier or sub-operation. -/
  | illegal
  /-- The bytes are not the length of one instruction word. -/
  | notAWord
  deriving DecidableEq, Repr

/-- An operand field (R79), or none for a reserved one. -/
def Operand.ofField (x : BitVec 10) : Option Operand :=
  let i := x.toNat % 256
  match x.toNat / 256 with
  | 0 =>
    if h : i < 48 then some (.v ⟨i, h⟩)
    else if 0x40 ≤ i ∧ i < 0x50 then some (.p (Fin.ofNat 16 i))
    else if 0x80 ≤ i ∧ i < 0xC0 then some (.s (Fin.ofNat 64 i))
    else if 0xC0 ≤ i ∧ i < 0xC4 then some (.a (Fin.ofNat 4 i))
    else none
  | 1 => if h : i < 8 then some (.o ⟨i, h⟩) else none
  | 2 => if i = 0 then some .latch else none
  | _ => some (.const (BitVec.ofNat 8 i))

/-- The field of an operand (R79). -/
def Operand.toField : Operand → BitVec 10
  | .v n => BitVec.ofNat 10 n.val
  | .p n => BitVec.ofNat 10 (0x40 + n.val)
  | .s n => BitVec.ofNat 10 (0x80 + n.val)
  | .a n => BitVec.ofNat 10 (0xC0 + n.val)
  | .o n => BitVec.ofNat 10 (0x100 + n.val)
  | .latch => 0x200#10
  | .const n => BitVec.ofNat 10 (0x300 + n.toNat)

/-- The common fields of a word (R77). -/
def Common.ofWord (w : Word) : Common :=
  { sw := w.getLsbD 53, pred := Fin.ofNat 16 (w.extractLsb' 49 4).toNat, inv := w.getLsbD 48,
    lane := w.getLsbD 47 }

/-- The word of an opcode, the common fields and the 47 bits of the form. -/
def packWord (op : Nat) (h : Common) (body : BitVec 47) : Word :=
  BitVec.ofNat 10 op ++ BitVec.ofBool h.sw ++ BitVec.ofNat 4 h.pred.val ++ BitVec.ofBool h.inv ++
    BitVec.ofBool h.lane ++ body

/-- The fields of Form A. -/
def FormA.ofWord (w : Word) : Option FormA :=
  match Operand.ofField (w.extractLsb' 37 10), Operand.ofField (w.extractLsb' 27 10),
      Operand.ofField (w.extractLsb' 17 10), Operand.ofField (w.extractLsb' 7 10) with
  | some d, some a, some b, some c =>
    some { h := Common.ofWord w, dst := d, a := a, b := b, c := c, mod := w.extractLsb' 0 7 }
  | _, _, _, _ => none

/-- The fields of Form I. -/
def FormI.ofWord (w : Word) : Option FormI :=
  match Operand.ofField (w.extractLsb' 37 10), Operand.ofField (w.extractLsb' 27 10) with
  | some d, some a => some { h := Common.ofWord w, dst := d, a := a, imm := w.extractLsb' 0 27 }
  | _, _ => none

/-- The fields of Form W. -/
def FormW.ofWord (w : Word) : Option FormW :=
  match Operand.ofField (w.extractLsb' 37 10) with
  | some d => some { h := Common.ofWord w, dst := d, imm := w.extractLsb' 5 32, mod := w.extractLsb' 0 5 }
  | none => none

/-- The fields of Form M. -/
def FormM.ofWord (w : Word) : Option FormM :=
  match Operand.ofField (w.extractLsb' 37 10), Operand.ofField (w.extractLsb' 27 10) with
  | some d, some b =>
    some { h := Common.ofWord w, data := d, base := b, off := w.extractLsb' 8 19, slack := w.extractLsb' 5 3,
           mod := w.extractLsb' 0 5 }
  | _, _ => none

/-- The fields of Form X. -/
def FormX.ofWord (w : Word) : Option FormX :=
  match Operand.ofField (w.extractLsb' 37 10), Operand.ofField (w.extractLsb' 27 10),
      Operand.ofField (w.extractLsb' 17 10) with
  | some a, some b, some c =>
    some { h := Common.ofWord w, a := a, b := b, c := c, sub := w.extractLsb' 0 17 }
  | _, _, _ => none

/-- The fields of Form B. -/
def FormB.ofWord (w : Word) : Option FormB :=
  some { h := Common.ofWord w, off := w.extractLsb' 5 42, mod := w.extractLsb' 0 5 }

/-- The fields of a block header (R73). -/
def HeaderWord.ofWord (w : Word) : HeaderWord :=
  { length := w.extractLsb' 46 8, guard := Fin.ofNat 16 (w.extractLsb' 42 4).toNat, reconv := w.extractLsb' 30 12,
    livein := w.extractLsb' 14 16, prefetch := w.extractLsb' 6 8, rsv := w.extractLsb' 0 6 }

/-- The word of a block header (R73). -/
def HeaderWord.toWord (h : HeaderWord) : Word :=
  0x3FF#10 ++ h.length ++ BitVec.ofNat 4 h.guard.val ++ h.reconv ++ h.livein ++ h.prefetch ++ h.rsv

/-- Opcodes of Form A (R85, R86), part 0. -/
def tableA0 : List (Nat × (FormA → Instr)) :=
  [(0x000, .nop),
   (0x002, .bri),
   (0x004, .calli),
   (0x005, .ret),
   (0x007, .exit),
   (0x008, .park),
   (0x009, .yield),
   (0x00A, .wfe),
   (0x020, .add),
   (0x022, .sub),
   (0x023, .mul),
   (0x025, .mulhi),
   (0x026, .mulhu),
   (0x027, .mad),
   (0x028, .div),
   (0x029, .divu),
   (0x02A, .rem),
   (0x02B, .remu),
   (0x02C, .and),
   (0x02E, .or),
   (0x030, .xor),
   (0x032, .shl),
   (0x034, .shr),
   (0x036, .sar),
   (0x038, .rol),
   (0x039, .min),
   (0x03A, .minu),
   (0x03B, .max),
   (0x03C, .maxu),
   (0x03D, .abs)]

/-- Opcodes of Form A (R85, R86), part 1. -/
def tableA1 : List (Nat × (FormA → Instr)) :=
  [(0x03E, .cmp),
   (0x040, .sel),
   (0x041, .mov),
   (0x044, .popc),
   (0x045, .clz),
   (0x046, .ctz),
   (0x047, .brev),
   (0x048, .bfx),
   (0x049, .bfxu),
   (0x04A, .bfi),
   (0x04B, .lea),
   (0x080, .fadd),
   (0x081, .fsub),
   (0x082, .fmul),
   (0x083, .fma),
   (0x084, .fms),
   (0x085, .fnma),
   (0x086, .fnms),
   (0x087, .fmin),
   (0x088, .fmax),
   (0x089, .fabs),
   (0x08A, .fneg),
   (0x08B, .fcpys),
   (0x08C, .fcmp),
   (0x08D, .fclass),
   (0x08E, .fdiv),
   (0x08F, .fsqrt),
   (0x090, .frcp),
   (0x091, .frsq),
   (0x092, .fexp2)]

/-- Opcodes of Form A (R85, R86), part 2. -/
def tableA2 : List (Nat × (FormA → Instr)) :=
  [(0x093, .flog2),
   (0x094, .frnd),
   (0x095, .fcvt),
   (0x096, .fcvti),
   (0x097, .icvtf),
   (0x098, .fpack),
   (0x099, .funpk),
   (0x0E0, .vbcast),
   (0x0E1, .vext),
   (0x0E2, .vins),
   (0x0E3, .vperm),
   (0x0E4, .vshuf),
   (0x0E5, .vsel),
   (0x0E6, .vredu),
   (0x0E7, .vscan),
   (0x0E8, .vcprs),
   (0x0E9, .vexpd),
   (0x0EA, .viota),
   (0x0EB, .vmovn),
   (0x0EC, .vzero),
   (0x120, .pand),
   (0x121, .pandn),
   (0x122, .por),
   (0x123, .pxor),
   (0x124, .pnot),
   (0x125, .pmov),
   (0x127, .pcnt),
   (0x128, .pany),
   (0x129, .pall),
   (0x12A, .pfirst)]

/-- Opcodes of Form A (R85, R86), part 3. -/
def tableA3 : List (Nat × (FormA → Instr)) :=
  [(0x12B, .pfroms),
   (0x12C, .ptos),
   (0x209, .acccvt),
   (0x20E, .stpgen),
   (0x20F, .stpmul),
   (0x210, .qcvt),
   (0x211, .dqcvt),
   (0x212, .hadv),
   (0x3C0, .tfence),
   (0x3C2, .eret),
   (0x3C3, .eretu),
   (0x3C8, .flagrd),
   (0x3C9, .flagclr),
   (0x3CB, .setslk),
   (0x3CC, .cycle),
   (0x3CD, .podtime)]

/-- Every opcode of Form A (R85, R86). -/
def tableA : List (Nat × (FormA → Instr)) := tableA0 ++ tableA1 ++ tableA2 ++ tableA3

/-- Opcodes of Form I (R85, R86), part 0. -/
def tableI0 : List (Nat × (FormI → Instr)) :=
  [(0x006, .loop),
   (0x021, .addi),
   (0x024, .muli),
   (0x02D, .andi),
   (0x02F, .ori),
   (0x031, .xori),
   (0x033, .shli),
   (0x035, .shri),
   (0x037, .sari),
   (0x03F, .cmpi),
   (0x3C1, .trap),
   (0x3C4, .csrr),
   (0x3C5, .csrw),
   (0x3C6, .csrs),
   (0x3C7, .csrc),
   (0x3CA, .view)]

/-- Every opcode of Form I (R85, R86). -/
def tableI : List (Nat × (FormI → Instr)) := tableI0

/-- Opcodes of Form W (R85, R86), part 0. -/
def tableW0 : List (Nat × (FormW → Instr)) :=
  [(0x042, .movi),
   (0x043, .movhi),
   (0x126, .pset)]

/-- Every opcode of Form W (R85, R86). -/
def tableW : List (Nat × (FormW → Instr)) := tableW0

/-- Opcodes of Form M (R85, R86), part 0. -/
def tableM0 : List (Nat × (FormM → Instr)) :=
  [(0x130, .ldb),
   (0x131, .ldh),
   (0x132, .ldw),
   (0x133, .ldd),
   (0x134, .stb),
   (0x135, .sth),
   (0x136, .stw),
   (0x137, .std),
   (0x138, .ldv),
   (0x139, .stv),
   (0x13A, .ldvs),
   (0x13B, .stvs),
   (0x13C, .ldvx),
   (0x13D, .stvx),
   (0x170, .xldd),
   (0x171, .xldv),
   (0x172, .xstd),
   (0x173, .xstv),
   (0x174, .xred),
   (0x175, .xredv),
   (0x190, .btx)]

/-- Every opcode of Form M (R85, R86). -/
def tableM : List (Nat × (FormM → Instr)) := tableM0

/-- Opcodes of Form X (R85, R86), part 0. -/
def tableX0 : List (Nat × (FormX → Instr)) :=
  [(0x191, .btxa),
   (0x192, .btwm),
   (0x193, .btwait),
   (0x194, .btcan),
   (0x195, .btstat),
   (0x196, .bcpost),
   (0x197, .bcarv),
   (0x198, .bcwait),
   (0x199, .bctest),
   (0x19A, .bcreset),
   (0x1B0, .sync),
   (0x1B1, .arrive),
   (0x1B2, .waits),
   (0x1B3, .steprd),
   (0x1B4, .abortrd),
   (0x1B5, fun w => if w.sub.getLsbD 0 then .dombindFree w else .dombind w),
   (0x200, .mma),
   (0x201, .mmat),
   (0x202, fun w => if w.sub.getLsbD 1 then .mbldFree w else .mbld w),
   (0x203, .mbswap),
   (0x204, .mplw),
   (0x205, .mpdesc),
   (0x206, .accz),
   (0x207, .accld),
   (0x208, .accst),
   (0x20A, .mqwait),
   (0x20B, .mstat),
   (0x20C, .stpkey),
   (0x20D, fun w => if w.sub.getLsbD 0 then .stpmemAdd w else .stpmem w),
   (0x260, .nmred)]

/-- Opcodes of Form X (R85, R86), part 1. -/
def tableX1 : List (Nat × (FormX → Instr)) :=
  [(0x261, .nmgath),
   (0x262, .nmfill),
   (0x263, .nmcpy),
   (0x264, fun w => if w.sub.getLsbD 0 then .nmstatCap w else .nmstat w),
   (0x280, .fsend),
   (0x281, .route),
   (0x282, .rtclose),
   (0x283, .rtrecv),
   (0x284, .coll),
   (0x285, .collwait),
   (0x286, fun w => if w.sub == 1 then .fstatWork w else if w.sub == 2 then .fstatPod w else .fstatPort w),
   (0x2C0, .spawn),
   (0x2C1, .tcbrdy),
   (0x2C2, .tdone),
   (0x2C3, .taskid),
   (0x2C4, fun w => if w.sub.getLsbD 0 then .rankrdShape w else .rankrd w),
   (0x2C5, fun w => if w.sub.getLsbD 0 then .preemptKill w else .preempt w),
   (0x2C6, fun w => if w.sub == 1 then .resumeCtx w else if w.sub == 2 then .resumeRemove w else .resume w),
   (0x2C7, .reloc),
   (0x2E0, .pginfo),
   (0x2E1, .cntrd),
   (0x2E2, fun w => if w.sub.getLsbD 0 then .tlbinvAll w else .tlbinv w),
   (0x2E3, .migr)]

/-- Every opcode of Form X (R85, R86). -/
def tableX : List (Nat × (FormX → Instr)) := tableX0 ++ tableX1

/-- Opcodes of Form B (R85, R86), part 0. -/
def tableB0 : List (Nat × (FormB → Instr)) :=
  [(0x001, .br),
   (0x003, .call)]

/-- Every opcode of Form B (R85, R86). -/
def tableB : List (Nat × (FormB → Instr)) := tableB0

/-- The entry of an opcode in a table. -/
def lookupOp {α : Type} (t : List (Nat × α)) (op : Nat) : Option α :=
  match t with
  | [] => none
  | (k, x) :: r => if k = op then some x else lookupOp r op

/-- Keep an instruction that is well formed. -/
def keepWf (i : Option Instr) : Except DecodeError Instr :=
  match i with
  | some i => if i.wf then .ok i else .error .illegal
  | none => .error .illegal

/-- Read the fields of one form, where the opcode has it. -/
def decodeForm {α : Type} (t : List (Nat × (α → Instr))) (fields : Option α) (op : Nat) : Option (Except DecodeError Instr) :=
  match lookupOp t op with
  | some f => some (keepWf (fields.map f))
  | none => none

/-- The first answer. -/
def firstOf {α : Type} : List (Option α) → α → α
  | [], d => d
  | some x :: _, _ => x
  | none :: r, d => firstOf r d

/-- The instruction of a word in an instruction position (R85, R88 checks 2 and 4). An undefined opcode is
the row UNDEFINED_OPCODE, whose meaning takes ILLEGAL; a header decodes to BLOCK_HEADER. -/
def decode (w : Word) : Except DecodeError Instr :=
  let op := (w.extractLsb' 54 10).toNat
  if op = 0x3FF then keepWf (some (.blockHeader (HeaderWord.ofWord w)))
  else if !opcodeDefined op then .ok (.undefinedOpcode w)
  else
    firstOf [decodeForm tableA (FormA.ofWord w) op, decodeForm tableI (FormI.ofWord w) op,
      decodeForm tableW (FormW.ofWord w) op, decodeForm tableM (FormM.ofWord w) op,
      decodeForm tableX (FormX.ofWord w) op, decodeForm tableB (FormB.ofWord w) op] (.error .illegal)

/-- The words of instructions as bytes, little-endian (R72). -/
def wordOfBytes : List Byte → Nat
  | [] => 0
  | b :: r => b.toNat + 256 * wordOfBytes r

/-- Decode the first instruction of a list of bytes, and what follows it. -/
def decodeBytes (bs : List Byte) : Except DecodeError (Instr × List Byte) :=
  if bs.length < 8 then .error .notAWord
  else match decode (BitVec.ofNat 64 (wordOfBytes (bs.take 8))) with
    | .ok i => .ok (i, bs.drop 8)
    | .error e => .error e

/-- What an instruction is encoded from: its form and opcode, a header, a raw word; an event has no word. -/
inductive Enc where
  | a (op : Nat) (w : FormA)
  | i (op : Nat) (w : FormI)
  | wide (op : Nat) (w : FormW)
  | m (op : Nat) (w : FormM)
  | x (op : Nat) (w : FormX)
  | b (op : Nat) (w : FormB)
  | header (h : HeaderWord)
  | raw (w : Word)
  | event
  deriving DecidableEq, Repr

/-- The encoding of each instruction (R85, R86). -/
def Instr.form : Instr → Enc
  | .nop w => .a 0x000 w
  | .br w => .b 0x001 w
  | .bri w => .a 0x002 w
  | .call w => .b 0x003 w
  | .calli w => .a 0x004 w
  | .ret w => .a 0x005 w
  | .loop w => .i 0x006 w
  | .exit w => .a 0x007 w
  | .park w => .a 0x008 w
  | .yield w => .a 0x009 w
  | .wfe w => .a 0x00A w
  | .add w => .a 0x020 w
  | .addi w => .i 0x021 w
  | .sub w => .a 0x022 w
  | .mul w => .a 0x023 w
  | .muli w => .i 0x024 w
  | .mulhi w => .a 0x025 w
  | .mulhu w => .a 0x026 w
  | .mad w => .a 0x027 w
  | .div w => .a 0x028 w
  | .divu w => .a 0x029 w
  | .rem w => .a 0x02A w
  | .remu w => .a 0x02B w
  | .and w => .a 0x02C w
  | .andi w => .i 0x02D w
  | .or w => .a 0x02E w
  | .ori w => .i 0x02F w
  | .xor w => .a 0x030 w
  | .xori w => .i 0x031 w
  | .shl w => .a 0x032 w
  | .shli w => .i 0x033 w
  | .shr w => .a 0x034 w
  | .shri w => .i 0x035 w
  | .sar w => .a 0x036 w
  | .sari w => .i 0x037 w
  | .rol w => .a 0x038 w
  | .min w => .a 0x039 w
  | .minu w => .a 0x03A w
  | .max w => .a 0x03B w
  | .maxu w => .a 0x03C w
  | .abs w => .a 0x03D w
  | .cmp w => .a 0x03E w
  | .cmpi w => .i 0x03F w
  | .sel w => .a 0x040 w
  | .mov w => .a 0x041 w
  | .movi w => .wide 0x042 w
  | .movhi w => .wide 0x043 w
  | .popc w => .a 0x044 w
  | .clz w => .a 0x045 w
  | .ctz w => .a 0x046 w
  | .brev w => .a 0x047 w
  | .bfx w => .a 0x048 w
  | .bfxu w => .a 0x049 w
  | .bfi w => .a 0x04A w
  | .lea w => .a 0x04B w
  | .fadd w => .a 0x080 w
  | .fsub w => .a 0x081 w
  | .fmul w => .a 0x082 w
  | .fma w => .a 0x083 w
  | .fms w => .a 0x084 w
  | .fnma w => .a 0x085 w
  | .fnms w => .a 0x086 w
  | .fmin w => .a 0x087 w
  | .fmax w => .a 0x088 w
  | .fabs w => .a 0x089 w
  | .fneg w => .a 0x08A w
  | .fcpys w => .a 0x08B w
  | .fcmp w => .a 0x08C w
  | .fclass w => .a 0x08D w
  | .fdiv w => .a 0x08E w
  | .fsqrt w => .a 0x08F w
  | .frcp w => .a 0x090 w
  | .frsq w => .a 0x091 w
  | .fexp2 w => .a 0x092 w
  | .flog2 w => .a 0x093 w
  | .frnd w => .a 0x094 w
  | .fcvt w => .a 0x095 w
  | .fcvti w => .a 0x096 w
  | .icvtf w => .a 0x097 w
  | .fpack w => .a 0x098 w
  | .funpk w => .a 0x099 w
  | .vbcast w => .a 0x0E0 w
  | .vext w => .a 0x0E1 w
  | .vins w => .a 0x0E2 w
  | .vperm w => .a 0x0E3 w
  | .vshuf w => .a 0x0E4 w
  | .vsel w => .a 0x0E5 w
  | .vredu w => .a 0x0E6 w
  | .vscan w => .a 0x0E7 w
  | .vcprs w => .a 0x0E8 w
  | .vexpd w => .a 0x0E9 w
  | .viota w => .a 0x0EA w
  | .vmovn w => .a 0x0EB w
  | .vzero w => .a 0x0EC w
  | .pand w => .a 0x120 w
  | .pandn w => .a 0x121 w
  | .por w => .a 0x122 w
  | .pxor w => .a 0x123 w
  | .pnot w => .a 0x124 w
  | .pmov w => .a 0x125 w
  | .pset w => .wide 0x126 w
  | .pcnt w => .a 0x127 w
  | .pany w => .a 0x128 w
  | .pall w => .a 0x129 w
  | .pfirst w => .a 0x12A w
  | .pfroms w => .a 0x12B w
  | .ptos w => .a 0x12C w
  | .ldb w => .m 0x130 w
  | .ldh w => .m 0x131 w
  | .ldw w => .m 0x132 w
  | .ldd w => .m 0x133 w
  | .stb w => .m 0x134 w
  | .sth w => .m 0x135 w
  | .stw w => .m 0x136 w
  | .std w => .m 0x137 w
  | .ldv w => .m 0x138 w
  | .stv w => .m 0x139 w
  | .ldvs w => .m 0x13A w
  | .stvs w => .m 0x13B w
  | .ldvx w => .m 0x13C w
  | .stvx w => .m 0x13D w
  | .xldd w => .m 0x170 w
  | .xldv w => .m 0x171 w
  | .xstd w => .m 0x172 w
  | .xstv w => .m 0x173 w
  | .xred w => .m 0x174 w
  | .xredv w => .m 0x175 w
  | .btx w => .m 0x190 w
  | .btxa w => .x 0x191 w
  | .btwm w => .x 0x192 w
  | .btwait w => .x 0x193 w
  | .btcan w => .x 0x194 w
  | .btstat w => .x 0x195 w
  | .bcpost w => .x 0x196 w
  | .bcarv w => .x 0x197 w
  | .bcwait w => .x 0x198 w
  | .bctest w => .x 0x199 w
  | .bcreset w => .x 0x19A w
  | .sync w => .x 0x1B0 w
  | .arrive w => .x 0x1B1 w
  | .waits w => .x 0x1B2 w
  | .steprd w => .x 0x1B3 w
  | .abortrd w => .x 0x1B4 w
  | .dombind w => .x 0x1B5 w
  | .dombindFree w => .x 0x1B5 w
  | .mma w => .x 0x200 w
  | .mmat w => .x 0x201 w
  | .mbld w => .x 0x202 w
  | .mbldFree w => .x 0x202 w
  | .mbswap w => .x 0x203 w
  | .mplw w => .x 0x204 w
  | .mpdesc w => .x 0x205 w
  | .accz w => .x 0x206 w
  | .accld w => .x 0x207 w
  | .accst w => .x 0x208 w
  | .acccvt w => .a 0x209 w
  | .mqwait w => .x 0x20A w
  | .mstat w => .x 0x20B w
  | .stpkey w => .x 0x20C w
  | .stpmem w => .x 0x20D w
  | .stpmemAdd w => .x 0x20D w
  | .stpgen w => .a 0x20E w
  | .stpmul w => .a 0x20F w
  | .qcvt w => .a 0x210 w
  | .dqcvt w => .a 0x211 w
  | .hadv w => .a 0x212 w
  | .nmred w => .x 0x260 w
  | .nmgath w => .x 0x261 w
  | .nmfill w => .x 0x262 w
  | .nmcpy w => .x 0x263 w
  | .nmstat w => .x 0x264 w
  | .nmstatCap w => .x 0x264 w
  | .fsend w => .x 0x280 w
  | .route w => .x 0x281 w
  | .rtclose w => .x 0x282 w
  | .rtrecv w => .x 0x283 w
  | .coll w => .x 0x284 w
  | .collwait w => .x 0x285 w
  | .fstatPort w => .x 0x286 w
  | .fstatWork w => .x 0x286 w
  | .fstatPod w => .x 0x286 w
  | .spawn w => .x 0x2C0 w
  | .tcbrdy w => .x 0x2C1 w
  | .tdone w => .x 0x2C2 w
  | .taskid w => .x 0x2C3 w
  | .rankrd w => .x 0x2C4 w
  | .rankrdShape w => .x 0x2C4 w
  | .preempt w => .x 0x2C5 w
  | .preemptKill w => .x 0x2C5 w
  | .resume w => .x 0x2C6 w
  | .resumeCtx w => .x 0x2C6 w
  | .resumeRemove w => .x 0x2C6 w
  | .reloc w => .x 0x2C7 w
  | .pginfo w => .x 0x2E0 w
  | .cntrd w => .x 0x2E1 w
  | .tlbinv w => .x 0x2E2 w
  | .tlbinvAll w => .x 0x2E2 w
  | .migr w => .x 0x2E3 w
  | .tfence w => .a 0x3C0 w
  | .trap w => .i 0x3C1 w
  | .eret w => .a 0x3C2 w
  | .eretu w => .a 0x3C3 w
  | .csrr w => .i 0x3C4 w
  | .csrw w => .i 0x3C5 w
  | .csrs w => .i 0x3C6 w
  | .csrc w => .i 0x3C7 w
  | .flagrd w => .a 0x3C8 w
  | .flagclr w => .a 0x3C9 w
  | .view w => .i 0x3CA w
  | .setslk w => .a 0x3CB w
  | .cycle w => .a 0x3CC w
  | .podtime w => .a 0x3CD w
  | .blockHeader h => .header h
  | .resultReturn _ => .event
  | .registerEccError _ _ => .event
  | .balancePeriod _ => .event
  | .hardwareError _ => .event
  | .readUncorrectable _ => .event
  | .slotControlReceive _ => .event
  | .flitReceive _ => .event
  | .maskChange _ => .event
  | .relayArrival _ => .event
  | .peerRequest _ => .event
  | .shareAnnouncement _ => .event
  | .podContribution _ => .event
  | .podResult _ => .event
  | .fsendDelivery _ => .event
  | .collPacketArrival _ => .event
  | .tokenHold _ => .event
  | .round1Done _ => .event
  | .hostBar2Access _ _ _ => .event
  | .hostActiveMessage _ _ => .event
  | .tcbsub _ => .event
  | .hoststatWrite _ _ => .event
  | .evheadWrite _ => .event
  | .evlostClear _ => .event
  | .fwctlVerify _ => .event
  | .brclr _ => .event
  | .deviceReset _ _ => .event
  | .unitSelfTestDone _ _ => .event
  | .hostLinkError _ => .event
  | .meshLinkError _ => .event
  | .undefinedOpcode w => .raw w
  | .controlWindowAccess _ _ _ => .event
  | .hostLinkTrained _ _ => .event
  | .instructionFetchReply => .event
  | .gangForwardArrival => .event
  | .registerCacheFill => .event
  | .wfeLimitExpiry => .event
  | .yieldExpiry => .event
  | .userEventEntry => .event
  | .sfqPost => .event
  | .waitTimeout => .event
  | .slackTick => .event
  | .packetArbitration => .event
  | .barrierArrival => .event
  | .stepCompletion => .event
  | .stepTimeout => .event
  | .copyRun => .event
  | .copyInflightFault => .event
  | .copyComplete => .event
  | .bcPostApply => .event
  | .bcArrival => .event
  | .exchangeInflightFault => .event
  | .commitHoldEnd => .event
  | .predecessorDecrement => .event
  | .taskRetire => .event
  | .activeMessageArrival => .event
  | .activeMessageStart => .event
  | .taskPlacement => .event
  | .reservation => .event
  | .placementStall => .event
  | .taskStop => .event
  | .imageEvict => .event
  | .taskResume => .event
  | .taskRelocation => .event
  | .traceMiss => .event
  | .matrixCommandExecute => .event
  | .bankReplay => .event
  | .tableWalk => .event
  | .counterIncrement => .event
  | .notificationPush => .event
  | .migrationComplete => .event
  | .writeBlocked => .event
  | .readRetryResult => .event
  | .basedieSubcommand => .event
  | .basedieComplete => .event
  | .basedieInflightFault => .event
  | .refresh => .event
  | .rateChange => .event
  | .stackThermalLimit => .event
  | .slotStart => .event
  | .peerAbsent => .event
  | .wavelengthDark => .event
  | .replayResend => .event
  | .peerTimeout => .event
  | .fsendComplete => .event
  | .fsendInflightFault => .event
  | .collNodeComplete => .event
  | .collMismatch => .event
  | .admissionRound1 => .event
  | .admissionRound2 => .event
  | .eventRecordPost => .event
  | .firmwareVerified => .event
  | .fwctlRaisemin => .event
  | .attestationRequest => .event
  | .attestationDone => .event
  | .throttleTemperature => .event
  | .stepRaised => .event
  | .trip => .event
  | .hostLinkDown => .event

/-- The operand fields of an encoding (R78). -/
def Enc.operands : Enc → List Operand
  | .a _ f => [f.dst, f.a, f.b, f.c]
  | .i _ f => [f.dst, f.a]
  | .wide _ f => [f.dst]
  | .m _ f => [f.data, f.base]
  | .x _ f => [f.a, f.b, f.c]
  | .b _ _ | .header _ | .raw _ | .event => []

/-- The first bytes of an encoding's word. -/
def Enc.common? : Enc → Option Common
  | .a _ f => some f.h
  | .i _ f => some f.h
  | .wide _ f => some f.h
  | .m _ f => some f.h
  | .x _ f => some f.h
  | .b _ f => some f.h
  | .header _ | .raw _ | .event => none

/-- The word of an encoding (R73, R77, R78). -/
def Enc.word : Enc → Option Word
  | .a op f => some (packWord op f.h (f.dst.toField ++ f.a.toField ++ f.b.toField ++ f.c.toField ++ f.mod))
  | .i op f => some (packWord op f.h (f.dst.toField ++ f.a.toField ++ f.imm))
  | .wide op f => some (packWord op f.h (f.dst.toField ++ f.imm ++ f.mod))
  | .m op f => some (packWord op f.h (f.data.toField ++ f.base.toField ++ f.off ++ f.slack ++ f.mod))
  | .x op f => some (packWord op f.h (f.a.toField ++ f.b.toField ++ f.c.toField ++ f.sub))
  | .b op f => some (packWord op f.h (f.off ++ f.mod))
  | .header h => some h.toWord
  | .raw v => some v
  | .event => none

/-- The word of an instruction, where it has one: an event of the machine has none. -/
def encode (i : Instr) : Option Word := i.form.word

/-- The instruction that the decoder reads from an instruction of nbits bits whose bits are w: one 64-bit word,
every bit above nbits zero. -/
def decodeTableWord (nbits w : Nat) : Option Instr :=
  match decode (BitVec.ofNat 64 (w % 2 ^ nbits)) with
  | .ok i => some i
  | .error _ => none

end Sys2Proof
end

