-- ==== Sys2Proof/Config.lean ====
section
/-! DEFINITION. What one device or its surroundings fix and the spec leaves open. Every constant here is
opaque: nothing proves a value of it. -/

namespace Sys2Proof.Config

/-- Which of several enabled moves comes next: the spec promises results, never an order of the agents
(R120, R48). Log entry 2. -/
opaque sched : Nat → Nat

/-- Core cycles that a step lasts beyond the first (timing observable, R4, R48). Log entry 3. -/
opaque extraCycles : Nat → Nat

/-- The device's serial number (R427). Log entry 4. -/
opaque serial : BitVec 64

/-- The Jorhal root digest fused in the device (R431). Log entry 4. -/
opaque rootDigest : List (BitVec 8)

/-- The ML-DSA-44 verification of FIPS 204, which R431 uses and does not restate:
public key, signature, message digest. Log entry 5. -/
opaque mldsaVerify : List (BitVec 8) → List (BitVec 8) → List (BitVec 8) → Bool

/-- Byte k of the ML-DSA-44 signature, under the device's private identity key, of the attestation
message with this digest (R436). Log entry 5. -/
opaque mldsaSign : List (BitVec 8) → Nat → BitVec 8

/-- Byte k of the device's identity public key (R436). Log entry 4. -/
opaque identityKey : Nat → BitVec 8

/-- Byte k of the Jorhal-signed certificate, and its length (R436). Log entry 4. -/
opaque certificate : Nat → BitVec 8
opaque certificateLength : Nat

/-- The repair masks of the stacks: bit c set, channel c's vertical bus is serialised 4:1 (R364).
Log entry 4. -/
opaque ser4 : Nat → BitVec 32

/-- Whether a translation that is cached uses the cached entry (true) or the entry now in memory:
R335 allows either until a TLBINV completes. Log entry 6. -/
opaque useCached : Nat → Bool

/-- Flits that the buffer of a router's or controller's input queue holds for one virtual channel, beyond a largest packet (R109 names the
credit and gives no depth). Log entry 99. -/
opaque bufferFlits : Nat

/-- The security version in the header of a firmware image: R431 names the field and gives no
position for it. Log entry 7. -/
opaque imageVersion : List (BitVec 8) → BitVec 64

/-- A small constant in a source format of 8 bits that does not hold its value exactly: R82 states no code for it.
The number of significand bits of the format, and the constant. Log entry 8. -/
opaque inexactConstant : Nat → BitVec 8 → Nat

/-- The wavelengths of a port's comb lasers that have light when its enable field is written (R380): the lasers are
outside the package. Log entry 9. -/
opaque light : Nat → BitVec 16

/-- What the two flash slots for firmware hold when the device is made (R431). Log entry 10. -/
opaque flash : Nat → List (BitVec 8)

/-- Random-looking value for everything the spec calls undefined after an instruction that goes on. -/
opaque freeWord : Nat → BitVec 64

end Sys2Proof.Config
end

