-- ==== Sys2Proof/Machine/State.lean ====
section
/-! DEFINITION. The state of one Z2 package as plain data: contexts, tiles, memory and its staging, domains, tasks and
the package engines. Default values are the reset values: INVENTORY.md lists each with its rule. -/

namespace Sys2Proof.Machine

/-- What stops the machine. -/
inductive Fault where
  /-- Raised by every instruction's meaning when the current selection names no context: nothing issues
  without one. Safe: no run of step reaches it. -/
  | noContext
  /-- Raised by step once the die has tripped and power is removed (R438): nothing runs after it. Safe: the
  hardware is off. -/
  | powerOff
  deriving DecidableEq, Repr

/-- What the model declines. -/
inductive Refusal where
  /-- Raised by an arm of exec whose meaning is not written. Safe. -/
  | notModelled (mnemonic : String)
  /-- Raised by an event's meaning when the state has nothing for that event to act on. Safe: such an event
  does not happen there, and step offers none that is not enabled. -/
  | notEnabled (event : String)
  deriving DecidableEq, Repr

/-- Bytes by flat location, in one canonical form: addresses strictly rising, no zero byte listed. -/
abbrev Mem := List Host.Cell

/-- The last-result latch (R131). -/
inductive Latch where
  | empty
  | w8 (x : Word)
  | w256 (x : VWord)
  deriving DecidableEq, Repr

/-- Work of a context whose fault found in flight is delivered (R228, R361, R398, R407). -/
inductive WorkRef where
  | channel (n : Nat)
  | basedie (id : Nat)
  | fsend (id : Nat)
  | coll (idx : Nat)
  deriving DecidableEq, Repr

/-- A precise fault before it is recorded (R195, R196). -/
structure Trap where
  code : Nat
  detail : Nat := 0
  element : Nat := 0
  channel : Nat := 0
  inflight : Bool := false
  addr : Word := 0
  nextPc : Bool := false
  /-- The work that is held by the delivery. -/
  work : Option WorkRef := none
  deriving DecidableEq, Repr

/-- A queued user event (R200, R203). -/
structure UEvent where
  kind : Nat
  src : Nat
  payload : Word
  deriving DecidableEq, Repr

/-- A party of the step rule (R27): a context by task and rank, or its loop-back agent; or a context of
another package. -/
structure Party where
  task : Nat
  rank : Nat
  loopback : Bool := false
  pkg : Option Nat := none
  deriving DecidableEq, Repr

/-- One write held in step staging (R32, R43): its bytes from one location on, plain or one contribution of a
reduction kind; who wrote it and where; the counters of its steps; how far it has become visible. -/
structure Staged where
  key : Nat
  bytes : List Byte
  kind : Option Nat
  party : Party
  tile : Nat
  vis : Nat
  /-- The counters at levels 1 to 5 of the steps it belongs to; empty while the writer's arrival is outstanding, since it then
  belongs to the step that follows (R31). -/
  steps : List Nat
  addr : Word
  seq : Nat
  /-- The pool charged: 1 tile, 2 group, 3 die, 4 package; 9: none, the write waits for no step end and is listed only for the conflicts of
  its tile step (R32, R40); 8: none, it enters memory when it is acknowledged (R328); 0: not placed, the access is held (R45, R242). -/
  pool : Nat
  /-- The level at which it is committed (R32). -/
  top : Nat
  /-- Bytes of a byte-count delivery: the record's key, the work that wrote them, and the phase that counted them once their
  arrival has been applied, else 0 (R34). -/
  bc : Option (Nat × Nat × Nat) := none
  deriving DecidableEq, Repr

/-- A byte of package memory that a host write replaced, as the task still reads it (R35). -/
structure HostOld where
  task : Nat
  key : Nat
  old : Byte
  /-- The task's current top-level step began after the host write. -/
  armed : Bool
  deriving DecidableEq, Repr

/-- Memory and staging as they stood at one moment: the image of a split barrier (R31) and of a copy
(R229). -/
structure Snapshot where
  mem : Mem
  staged : List Staged
  host : List HostOld
  seq : Nat
  deriving DecidableEq, Repr

/-- What a context waits for between instructions, or within one (R121). -/
inductive Wait where
  | none
  /-- The instruction at this address carried the switch marker and has issued (R77). -/
  | drain (at_ : Word)
  /-- The instruction at pc parks (R121). -/
  | park
  /-- A WFE, with the cycle at which its limit expires (R147). -/
  | wfe (w : FormA) (deadline : Option Nat)
  /-- A YIELD has parked; it is ready at this cycle at the latest (R146). -/
  | yield (deadline : Nat)
  /-- A supervisor instruction waits for the action that it began (R294, R347). -/
  | action
  /-- Entry to the user handler for the head of the event queue has begun: it waits for the outstanding results (R121, R205). -/
  | entry
  /-- The context has resumed after pre-emption: it waits for the outstanding results (R121, R287). -/
  | resume
  /-- BTWAIT, BCWAIT, COLLWAIT or RTCLOSE waits at this pc, with the cycle at which WAITTO expires (R214). -/
  | engine (deadline : Option Nat)
  deriving DecidableEq, Repr

/-- An access of the exchange or another request whose reply is outstanding (R121, R242). -/
structure Token where
  id : Nat
  /-- The delivery kind of its reply (R114). -/
  kind : Nat
  /-- Register bytes that its result still writes, in the context's register file (R134). -/
  cells : List (Nat × Byte)
  /-- Every byte its result has, in order, for data that come from a peer: location in the file. -/
  locs : List Nat
  /-- It is a load: its reply carries data (R285). -/
  data : Bool := false
  /-- For a uniform load from a peer: the width read and whether it is zero-extended. -/
  ext : Option (Nat × Bool)
  /-- The pages through which it was translated: first virtual byte and size (R343, R346). -/
  pages : List (Nat × Nat)
  /-- Staged writes of this access, by sequence number (R31, R45). -/
  writes : List Nat
  /-- The peer it goes to, with the cycle after which the request is abandoned (R389). -/
  peer : Option (Nat × Nat)
  /-- The locations it reads, one for each byte of its result. -/
  keys : List Nat
  /-- The fault found after issue, 0 if there is none; and, once it has been delivered, where: the access is held and is
  replayed when the context resumes there (R242). -/
  bad : Nat
  held : Option Word
  slack : Nat
  /-- The address of the access and the lanes that it has; the address and the element position of the fault found (R196). -/
  addr : Word
  mask : Word := 1
  spot : Word := 0
  element : Nat := 0
  /-- Register bytes that a matrix command's result writes, as start and length, and those that later writes replaced before it (R131,
  R134). -/
  spans : List (Nat × Nat) := []
  dead : List Nat
  deriving DecidableEq, Repr

/-- The result of a step as one member receives it (R251, R252, R254, R258). -/
structure StepResult where
  value : Word
  flags : Nat
  counters : List Nat
  report : List Word
  deriving DecidableEq, Repr

/-- A member's arrival in a domain's current step (R249). -/
structure Arrived where
  rank : Nat
  op : Nat
  value : Word
  code : Nat
  deriving DecidableEq, Repr

/-- An outstanding arrival (R249): on its way to its domain until that has received it; a SYNC's own; the completion once it is
there. -/
structure Arrival where
  level : Nat
  sent : Option Arrived
  sync : Bool
  done : Option StepResult
  deriving DecidableEq, Repr

/-- What a park on entry to a handler saves (R205, R206). -/
structure Saved where
  pc : Word
  latch : Latch
  /-- The register bytes whose result the saved latch waits for (R131, R242). -/
  latchTok : Option (Nat × Nat) := none
  blockEnd : Word
  atHeader : Bool
  /-- The pc is that of a marked instruction whose park goes on when the context resumes there; the word after it (R242). -/
  next : Option Word
  deriving DecidableEq, Repr

/-- The provenance of a matrix bank (R311): plate offset, descriptor words, key and member. -/
structure Bank where
  offset : Nat
  mpdw0 : Word
  mpdw1 : Word
  mpdw2 : Word
  key : Word
  member : Nat
  /-- The plate bytes it is loaded from: the pin keeps them (R303). -/
  image : List Byte
  deriving DecidableEq, Repr

/-- An instruction word forwarded by a gang leader, with the leader's decisions (R137). -/
structure FwdWord where
  word : Word
  addr : Word
  /-- The leader's next instruction address when it left the straight line. -/
  target : Option Word
  /-- The leader's result, which a WFE takes (R147). -/
  value : Word
  /-- It stands for the leader's entry to a handler, with the event. -/
  entry : Option UEvent
  /-- The word breaks a decode check, and the leader took the fault (R90). -/
  refused : Bool
  /-- The cycle before which it does not reach the follower. -/
  due : Nat
  deriving DecidableEq, Repr

/-- Writes that take effect when the commit hold ends (R274). -/
inductive Deferred where
  /-- TCBRDY made this task ready; it may now be placed. -/
  | tcb (task : Nat)
  /-- TDONE's decrement. -/
  | decrement (addr : Word)
  /-- SPAWN's message of 32 bytes. -/
  | message (bytes : List Byte)
  deriving DecidableEq, Repr

/-- A fetch miss on its way (R89): the virtual address, the location, whether the page is a user page (R72), the page (R346). -/
structure FetchReq where
  addr : Nat
  key : Nat
  user : Bool
  page : Nat × Nat
  deriving DecidableEq, Repr

/-- One hardware context that belongs to a task, or the image of a stopped one (R119, R127, R139). -/
structure Ctx where
  key : CtxKey
  task : Nat
  rank : Nat
  stopped : Bool := false
  /-- The image lies in the save pool (R286). -/
  evicted : Bool := false
  /-- Parked on an unhandled fault with this code (R197). -/
  faulted : Option Nat := none
  pc : Word := 0
  /-- Control is at a block header (R74). -/
  atHeader : Bool := true
  /-- The address after the last instruction of the current block (R72). -/
  blockEnd : Word := 0
  /-- Register space 0-0x7FFF (R122), operand file from 0x8000 (R130), handler bank from 0x8800 and supervisor
  bank from 0x8840 (R205, R206). -/
  rf : Mem := []
  latch : Latch := .empty
  /-- The register bytes whose result the latch waits for, as start and length (R121). -/
  latchTok : Option (Nat × Nat) := none
  /-- Pending bytes of the region, as start and length (R133). -/
  pending : List (Nat × Nat) := []
  /-- Those that matrix commands of the region write, and those that they read later (R134, R302). -/
  pendingMx : List (Nat × Nat) := []
  readPend : List (Nat × Nat) := []
  strictPend : List (Nat × Nat) := []
  /-- Window stores of the region, in program order (R135). -/
  winStores : List (Nat × List Byte) := []
  outstanding : List Token := []
  fetches : List FetchReq := []
  wait : Wait := .none
  viewb : Word := 0x4000040002000000
  supervisor : Bool := false
  leader : Bool := false
  follower : Bool := false
  flags : Word := 0
  flagen : Word := 0
  ulevec : Word := 0
  uleEn : Bool := false
  uleActive : Bool := false
  /-- The kind of the event that is being handled, 0 for none (R114). -/
  uleKind : Nat := 0
  uleLost : Bool := false
  uleen : Word := 0
  fltdlg : Word := 0
  evq : List UEvent := []
  faultinfo : Word := 0
  faultpc : Word := 0
  faultaddr : Word := 0
  slktab : List Nat := [0xFFFF, 0xFFFF, 0xFFFF, 0xFFFF, 0xFFFF, 0xFFFF, 0xFFFF]
  slk : Nat := 0xFFFF
  slkctl : Word := 0
  odcnt : Nat := 0
  stpkey : Word := 0
  stpmem : Nat := 0
  srcnt : Nat := 0
  tmplbase : Word := 0
  mpdw0 : Word := 0
  mpdw1 : Word := 0
  mpdw2 : Word := 0
  svec : Word := 0
  svpc : Word := 0
  /-- What entry to the user handler saved (R205) and what entry to supervisor mode saved (R206). -/
  uleSaved : Option Saved := none
  svSaved : Option Saved := none
  stepdom : Word := 0
  /-- Counter snapshot of the five levels (R252). -/
  snapshot : List Nat := [0, 0, 0, 0, 0]
  /-- The abort report's three words (R258). -/
  report : List Word := [0, 0, 0]
  arrival : Option Arrival := none
  /-- The image that reads use between an ARRIVE and its WAITS once the step has completed (R31). -/
  frozen : Option Snapshot := none
  front : Option Bank := none
  back : Option Bank := none
  /-- Byte-count phases observed (R34): the record's key and the number of phases. -/
  observed : List (Nat × Nat) := []
  fwd : List FwdWord := []
  /-- Forwarded words on their way (R137). -/
  fwdWire : List FwdWord := []
  /-- Register lines in the tile's register cache, the latest used first, as offset divided by 64; and those that the instruction at hand
  still waits for, once it has been looked at (R128). -/
  lines : List Nat := []
  want : Option (List Nat) := none
  /-- The start came from an active message or from a control block (R277). -/
  message : Bool := false
  /-- How often it has closed its lists (R414). -/
  rtBatch : Nat := 0
  deriving DecidableEq, Repr

/-- State of a transfer channel (R216). -/
inductive ChanState where
  | idle
  | active
  | complete
  | faulted
  | held
  | cancelled
  | paused
  deriving DecidableEq, Repr

/-- A dimension record (R220). -/
structure Dim where
  extent : Nat
  sstride : Int
  dstride : Int
  deriving DecidableEq, Repr

/-- An imposition template as read at issue, after overrides (R220). -/
structure Template where
  src : Nat
  dst : Nat
  bc : Nat
  slack : Nat
  elem : Nat
  dims : List Dim
  ndims : Nat
  sfmt : Nat
  sgeo : Nat
  dfmt : Nat
  dgeo : Nat
  had : Nat
  red : Nat
  ev : Bool
  wm : Bool
  /-- Every reserved field is zero. -/
  clean : Bool
  deriving DecidableEq, Repr

/-- A remote write packet that a copy is forming: bytes of consecutive runs in one 512-byte block of a peer (R386). -/
structure Gather where
  peer : Nat
  phys : Nat
  addr : Word
  kind : PeerKind
  data : List Byte
  deriving DecidableEq, Repr

/-- A transfer channel (R216): its status and its copy. -/
structure Channel where
  num : Nat
  state : ChanState := .idle
  owner : Nat := 0
  task : Nat := 0
  rank : Nat := 0
  template : Nat := 0
  fault : Nat := 0
  copy : Option Template := none
  nobc : Bool := false
  quiet : Bool := false
  /-- Runs done, in template order (R221, R228). -/
  progress : Nat := 0
  /-- The formats of its sides have been resolved (R222). -/
  resolved : Bool := false
  faultAddr : Word := 0
  /-- The image at issue (R229). -/
  image : Option Snapshot := none
  flags : Nat := 0
  bytes : Nat := 0
  /-- The slack and the overdue flag of segments to come (R112); and some packet that has arrived was overdue (R114). -/
  slack : Nat := 0
  overdue : Bool := false
  late : Bool := false
  /-- The number of its writes as a byte-count delivery (R34), and the phases its reader had observed at issue. -/
  work : Nat := 0
  observed : List (Nat × Nat) := []
  supervisor : Bool := false
  /-- The pages through which runs were translated whose packets may be under way: first virtual byte and size (R341, R346). -/
  pages : List (Nat × Nat) := []
  /-- The remote write packet to which the next run may add (R386). -/
  gather : Option Gather := none
  deriving DecidableEq, Repr

/-- What a byte-count unit still has to apply (R238). -/
structure BcItem where
  key : Nat
  /-- An arrival's bytes, or a post with the poster's context. -/
  amount : Nat
  work : Nat
  post : Option CtxKey
  deriving DecidableEq, Repr

/-- A task control block, or an active message, as the dispatch engine keeps it (R272, R274, R277). -/
structure Block where
  pc : Word
  args : List Word
  slack : Nat
  /-- The task record's views and slack classes (R100). -/
  viewb : Word
  slktab : List Nat
  w : Nat
  h : Nat
  k : Nat
  gang : Bool
  prio : Nat
  diemask : Nat
  restart : Bool
  reloc : Bool
  preds : Nat
  succ : List Word
  inputs : List (Nat × Nat)
  trace : Nat
  dmbase : Nat
  dmsize : Nat
  gmbase : Nat
  gmsize : Nat
  pod : Option Nat
  deriving DecidableEq, Repr

/-- Where a task of the dispatch table stands (R274, R280, R284). -/
inductive Phase where
  | waiting
  | ready
  | running
  | stopped
  deriving DecidableEq, Repr

/-- What made a task ready only when a commit hold ends: the submitter's task and rank (R274). -/
structure Holder where
  task : Nat
  rank : Nat
  deriving DecidableEq, Repr

/-- Why a member is absent (R259). -/
inductive Absence where
  | exit
  | strictExit
  | removed (code : Nat)
  deriving DecidableEq, Repr

/-- A barrier domain (R247). -/
structure Domain where
  level : Nat
  unit : Nat
  id : Nat
  /-- The task bound, by its number in the table; a pod domain holds the identifier until placement. -/
  task : Nat
  tid : BitVec 32
  members : Nat
  counter : Nat := 0
  arrived : List Arrived := []
  absent : List (Nat × Absence) := []
  cands : List Candidate := []
  /-- The tick of the step's first own-level arrival (R261), and whether its timeout was reported. -/
  since : Option Nat := none
  timedOut : Bool := false
  /-- Pod domains (R390, R391): announced shares, contributions received by the root, this package's
  contribution sent, whether it is marked as routing. -/
  shares : List (Nat × Nat) := []
  contribs : List PodContrib := []
  sent : Bool := false
  routing : Bool := false
  /-- What members have closed for routing in this step: rank and batch (R414). -/
  closed : List (Nat × Nat) := []
  disagreed : Bool := false
  deriving DecidableEq, Repr

/-- A task: an entry of the dispatch table (R274), or one started by an active message (R278). -/
structure Task where
  num : Nat
  tid : BitVec 32
  /-- The block's address; none for an active message. -/
  addr : Option Word
  blk : Block
  phase : Phase
  count : Nat
  hold : Option Holder := none
  readyAt : Nat := 0
  order : Nat := 0
  origin : Nat := 0
  /-- The origin of the first placement, which the program's level addresses name (R289). -/
  home : Nat := 0
  /-- The reserved rectangle, since when, and whether the stall was reported (R281). -/
  reserved : Option (Nat × Nat × Bool) := none
  rerun : Bool := false
  excluded : List Nat := []
  /-- Tiles that STOP still has to reach (R284). -/
  stopping : List Nat := []
  /-- What follows the stop: 1 termination (R288). -/
  afterStop : Nat := 0
  /-- The origin to which it is being moved (R289). -/
  target : Option Nat := none
  resuming : Bool := false
  saved : List Domain := []
  unplaceableTold : Bool := false
  traceTold : Bool := false
  /-- Completions of its top-level step so far. -/
  topSteps : Nat := 0
  deriving DecidableEq, Repr

/-- An active message on its way or in a tile's queue (R277, R278). -/
structure Msg where
  num : Nat
  arg0 : Word
  arg1 : Word
  pc : Word
  slack : Nat
  tag : Nat
  tile : Nat
  prio : Nat
  fromHost : Bool
  deriving DecidableEq, Repr

/-- A deferred effect of one context (R274). -/
structure DeferredItem where
  task : Nat
  rank : Nat
  origin : Nat
  seq : Nat
  /-- It was issued between an ARRIVE and the completion of its step: it belongs to the next step (R31). -/
  after : Bool
  /-- Its commit hold has ended. -/
  ripe : Bool
  /-- The identifier of the context's task (R293). -/
  tid : BitVec 32
  what : Deferred
  deriving DecidableEq, Repr

/-- A predecessor decrement on its way (R275): the block's address, and who sent it. -/
structure Decrement where
  addr : Word
  tid : BitVec 32
  origin : Nat
  deriving DecidableEq, Repr

/-- What a matrix command does (R300). -/
inductive MxOp where
  | mma (trans : Bool)
  | mbld (back : Bool)
  | mbswap
  | mplw
  | accz
  | accld
  | accst
  deriving DecidableEq, Repr

/-- A command in the matrix queue (R300): its operands as read at issue. -/
structure MxCmd where
  id : Nat
  ctx : CtxKey
  task : Nat
  rank : Nat
  op : MxOp
  guard : Word
  /-- First accumulator byte in the register space. -/
  acc : Nat
  src : Nat
  side : Nat
  stride : Nat
  n : Nat
  m : Nat
  fmt : Nat
  geo : Nat
  /-- The rows come from v registers at these register bytes (V = 1). -/
  vsrc : Option Nat
  count : Nat
  plate : Nat
  /-- The banks at issue in queue order: what MMA reads or MBLD loads. -/
  bank : Option Bank
  /-- Register bytes it still writes and still reads, as start and length (R133, R134). -/
  writes : List (Nat × Nat)
  reads : List (Nat × Nat)
  /-- Those of the latter that a later command of the region may not write either: all but the accumulators of MMA and MMAT (R302). -/
  strict : List (Nat × Nat) := []
  /-- Register bytes that it reads as they were before window stores of its region (R135). -/
  kept : List (Nat × Byte) := []
  /-- The next row of an MMA, MMAT, ACCLD or ACCST (R320), and the flags raised so far. -/
  next : Nat := 0
  flags : Nat := 0
  /-- Local bytes it still reads and still writes (R301). -/
  memReads : List (Nat × Nat)
  memWrites : List (Nat × Nat)
  /-- Local bytes read at issue (R301): the A rows, ACCLD's rows or MPLW's bytes, and the scale bytes. -/
  rows : List (List Byte)
  sides : List (List Byte)
  deriving DecidableEq, Repr

/-- A word of an instruction buffer (R89): its virtual address, the task, whether its page is a user page (R72). -/
structure CodeWord where
  addr : Nat
  task : Nat
  user : Bool
  word : Word
  deriving DecidableEq, Repr

/-- A tile and its engines (R13). A tile that is not listed is at reset. -/
structure Tile where
  num : Nat
  channels : List Channel := []
  /-- Channels whose copies were paused and wait for the channel (R234). -/
  pausedCopies : List Channel := []
  mq : List MxCmd := []
  /-- Commands of stopped contexts (R320). -/
  mqSaved : List MxCmd := []
  msgq : List Msg := []
  bcq : List BcItem := []
  /-- Phases completed by each byte-count record, by its key (R34). -/
  bcPhases : List (Nat × Nat) := []
  /-- The instruction buffer (R89). -/
  ibuf : List CodeWord := []
  /-- What the physical banks hold, the latest first: task, rank, bank (R299). -/
  resident : List (Nat × Nat × Bank) := []
  /-- The context at which the issue port's search begins (R120). -/
  rr : Nat := 0
  deriving DecidableEq, Repr

/-- A leaf entry of the page table as it was read (R329): where it lies, its page, its 128 bits. -/
structure Leaf where
  /-- First virtual byte of the page, bits 56:0, and its size in bytes. -/
  va : Nat
  size : Nat
  /-- Physical address of the entry. -/
  at_ : Nat
  bits : BitVec 128
  deriving DecidableEq, Repr

/-- How a walk ends (R326, R331). -/
inductive WalkEnd where
  | leaf (e : Leaf)
  | unmapped
  | malformed
  deriving DecidableEq, Repr

/-- Who waits for a translation: a context; work that runs beside it, by its number; the admission of a pod domain. -/
inductive Seeker where
  | ctx (k : CtxKey)
  | work (id : Nat)
  | admission (domain : Nat)
  deriving DecidableEq, Repr

/-- A walk in progress (R334): the 64 KiB page, who waits and on which tile, the slack (R112). -/
structure Walk where
  page : Nat
  waiters : List (Seeker × Nat)
  slack : Nat
  overdue : Bool
  /-- A walker has taken it: at most 128 run at once in a die. -/
  running : Bool
  die : Nat
  /-- The table that it has come to: its level and its address (R326). -/
  level : Nat
  table : Nat
  deriving DecidableEq, Repr

/-- What a walk has found for an access that waited: kept until that access has ended (R334). -/
structure Answer where
  who : Seeker
  page : Nat
  found : WalkEnd
  deriving DecidableEq, Repr

/-- A leaf entry in the cache of a unit: a tile's micro-TLB or a group's TLB (R334). -/
structure TlbEntry where
  unit : Nat
  leaf : Leaf
  deriving DecidableEq, Repr

/-- A non-leaf entry in the walker cache of a die: its level, the first virtual byte that it covers, where it lies, its bits (R334). -/
structure WalkerEntry where
  die : Nat
  level : Nat
  va : Nat
  at_ : Nat
  bits : Nat
  deriving DecidableEq, Repr

/-- The context that made an access, as a record names it (R207, R342). -/
structure Maker where
  key : CtxKey
  tid : BitVec 32
  rank : Nat
  deriving DecidableEq, Repr

/-- A counter of the counter cache (R339). -/
structure Counter where
  slot : Nat
  /-- The page that was touched last: first virtual byte and size. -/
  va : Nat
  size : Nat
  count : Nat
  deriving DecidableEq, Repr

/-- A touch on its way to its home die (R339). -/
structure Touch where
  id : Nat
  die : Nat
  slot : Nat
  va : Nat
  size : Nat
  mode : Nat
  tier : Nat
  deriving DecidableEq, Repr

/-- A notification on its way to the ring, or waiting for room there (R340). -/
structure Notice where
  id : Nat
  die : Nat
  slot : Nat
  va : Nat
  mode : Nat
  tier : Nat
  count : Nat
  cycle : Nat
  deriving DecidableEq, Repr

/-- The context that waits for a migration: by task and rank; one of no task by its place. -/
structure Issuer where
  key : CtxKey
  task : Nat
  rank : Nat
  deriving DecidableEq, Repr

/-- A migration in progress (R341). -/
structure Migration where
  leaf : Leaf
  target : Word
  /-- The context that waits for it, unless that has left. -/
  ctx : Option Issuer
  step : Nat
  /-- Lines of 64 bytes copied so far. -/
  line : Nat
  slack : Nat
  /-- The request for a peer page's bytes, and those bytes (R337, R341). -/
  req : Nat
  data : Option (List Byte)
  /-- The tick at which a write first waited, the writer where it is one of this package, and whether the record was posted. -/
  blocked : Option (Nat × Option Maker)
  told : Bool
  status : Option Nat
  deriving DecidableEq, Repr

/-- An uncorrectable read being retried (R343). -/
structure Retry where
  page : Nat
  access : Option Maker
  deriving DecidableEq, Repr

/-- A line of the peer read cache (R337). -/
structure PeerLine where
  peer : Nat
  phys : Nat
  domain : Nat
  data : List Byte
  deriving DecidableEq, Repr

/-- The translation and migration engines. -/
structure Xlat where
  /-- The micro-TLBs of the tiles, the group TLBs and the walker caches, the latest first (R334). -/
  micro : List TlbEntry := []
  group : List TlbEntry := []
  walker : List WalkerEntry := []
  walks : List Walk := []
  answers : List Answer := []
  counters : List Counter := []
  /-- Slots that have been notified and whose count has not been reset since (R339). -/
  notified : List Nat := []
  touches : List Touch := []
  notices : List Notice := []
  migrations : List Migration := []
  retries : List Retry := []
  peerLines : List PeerLine := []
  /-- Lines written through this package in the domain's current pod step: domain, peer, line (R337). -/
  peerWritten : List (Nat × Nat × Nat) := []
  deriving DecidableEq, Repr

/-- A base-die command (R352, R356): what it reads is taken at issue (R358), so that it keeps the writes to come. -/
structure BdCmd where
  id : Nat
  ctx : CtxKey
  task : Nat
  rank : Nat
  supervisor : Bool
  /-- Slack at issue (R361, R112). -/
  slack : Nat
  ev : Bool
  /-- The byte-count record's address, 0 for none, and the bytes its arrival carries (R358). -/
  bc : Nat
  amount : Nat
  flags : Nat
  /-- Rows read, by first virtual byte and length: a page poisoned later faults (R361). -/
  reads : List (Nat × Nat)
  /-- Destination ranges in order: the address as written, and the bytes. -/
  writes : List (Word × List Byte)
  /-- Sub-commands, by stack and channel, and those still to execute (R351). -/
  subs : List (Nat × Nat)
  left : List (Nat × Nat)
  /-- The fault found in flight, and whether it has been delivered (R361). -/
  bad : Nat
  badAddr : Word := 0
  held : Bool
  deriving DecidableEq, Repr

/-- A channel of a stack whose clock or refresh state is not at rest (R362, R363). -/
structure StackChan where
  stack : Nat
  chan : Nat
  /-- Refreshes that have fallen due and wait for the row in progress. -/
  refreshDue : Nat
  /-- The ratio at which the channel runs, as a rate code. -/
  ratio : Nat
  deriving DecidableEq, Repr

/-- The base dies (R351-R366). -/
structure BaseDies where
  cmds : List BdCmd := []
  chans : List StackChan := []
  /-- The rate code to which each stack goes, and the one that it has (R363, R364). -/
  target : List Nat := [0, 0, 0, 0, 0, 0, 0, 0]
  rate : List Nat := [0, 0, 0, 0, 0, 0, 0, 0]
  deriving DecidableEq, Repr

/-- A data flit in a replay buffer (R376): its sequence number, the wavelength and pod time of its last sending; its packet's slack, charged
while it waits to be resent (R108, R379). -/
structure SentFlit where
  seq : Nat
  wavelength : Nat
  sentAt : Nat
  slack : Nat
  overdue : Bool
  /-- What its packet carries, for a packet of this package (R114). -/
  content : Option Content
  deriving DecidableEq, Repr

/-- Both directions of a pair link of a port and slot (R373, R376). -/
structure PairLink where
  port : Nat
  slot : Nat
  next : Nat := 0
  /-- The sequence number at which the current mask took effect (R377, R379). -/
  q0 : Nat := 0
  replay : List SentFlit := []
  /-- Flits to resend before any new data, by sequence number (R379). -/
  resend : List Nat := []
  /-- The reverse link as received: the next number to deliver, flits kept beyond it, dark wavelengths found, and
  the mask announced. -/
  rnext : Nat := 0
  rkept : List Flit := []
  rdark : Nat := 0
  rmask : Nat := 0xFFFF
  /-- Pod time of the last locked control flit received (R375). -/
  lockedAt : Option Nat := none
  /-- Relay flits granted by the peer for the connection that is under way, and for the next one; and those granted by this package (R384). -/
  quotaIn : Nat := 0
  quotaNext : Nat := 0
  quotaOut : Nat := 0
  deriving DecidableEq, Repr

/-- An optical port (R370, R380). -/
structure Port where
  num : Nat
  enable : Nat := 0xFFFF
  active : Nat := 0
  degraded : Bool := false
  lit : Bool := false
  down : Bool := true
  deriving DecidableEq, Repr

/-- A packet in a port queue (R382, R383, R385). -/
structure OutPacket where
  dst : Nat
  /-- The intermediate through which it is relayed, as last tested (R383). -/
  via : Option Nat
  vc : Nat
  flits : Nat
  slack : Nat
  overdue : Bool
  arrived : Nat
  /-- The tile and context that sent it, as a tie is decided by (R109). -/
  source : Nat
  content : Content
  deriving DecidableEq, Repr

/-- A packet that waits in the relay buffer (R384), with the pod time at which it came. -/
structure Relayed where
  p : RelayPacket
  arrived : Nat
  deriving DecidableEq, Repr

/-- A remote request that waits for its reply (R386, R389). -/
structure RemoteReq where
  /-- Its own number, and that of the access, copy or migration for which it was made. -/
  num : Nat
  id : Nat
  ctx : CtxKey
  peer : Nat
  deadline : Nat
  /-- The channel, for a copy. -/
  channel : Option Nat
  /-- What it asks for: the peer's location, its length, and whether it writes. -/
  phys : Nat
  len : Nat
  write : Bool
  /-- The pod domain for whose reads the reply fills lines of the read cache (R337). -/
  fill : Option Nat
  /-- The request as sent, its slack, and whether it has been abandoned (R389). -/
  req : PeerReq
  slack : Nat
  lost : Bool
  /-- The data of the reply. -/
  got : Option (List Byte)
  deriving DecidableEq, Repr

/-- The shadow of a 64 KiB page of package memory written during a pod step (R37): what the page held before, for a domain. -/
structure Shadow where
  domain : Nat
  page : Nat
  cells : Mem
  deriving DecidableEq, Repr

/-- How many writes of one party of another package this package has applied (R386). -/
structure PeerParty where
  package : Nat
  rank : Nat
  domain : Nat
  received : Nat
  deriving DecidableEq, Repr

/-- An FSEND not complete (R396, R397). -/
structure Fsend where
  id : Nat
  ctx : CtxKey
  task : Nat
  rank : Nat
  domain : Nat
  dpkg : Nat
  dtile : Nat
  dst : Nat
  rbc : Option Nat
  lbc : Nat
  slack : Nat
  ordered : Bool
  data : List Byte
  /-- Pod steps that its context had completed, and writes that it had sent to the package before (R386). -/
  steps : Nat
  prior : Nat
  deadline : Nat
  bad : Nat
  held : Bool
  /-- Every byte has been acknowledged. -/
  acked : Bool
  deriving DecidableEq, Repr

/-- A node record of a collective (R401). -/
structure CollNode where
  inputs : List Nat
  parent : Nat
  package : Nat
  deriving DecidableEq, Repr

/-- A posted collective (R399, R400, R403). -/
structure Coll where
  idx : Nat
  id : CollId
  ctx : CtxKey
  task : Nat
  rank : Nat
  supervisor : Bool
  kind : Nat
  type : Nat
  op : Nat
  count : Nat
  chunk : Nat
  nodes : List CollNode
  self : Nat
  /-- The contribution's elements. -/
  src : List Nat
  dst : Word
  slack : Nat
  digest : Nat
  /-- Packets in the early-arrival area, and its size in bytes (R406). -/
  area : List CollPacket
  areaMax : Nat
  /-- Per chunk: inputs folded so far and the fold's elements (R404). -/
  folds : List (Nat × Nat × List Nat)
  /-- Chunks of the result received or formed here; chunks whose fold has been sent up. -/
  result : List (Nat × List Nat)
  sentUp : List Nat
  flags : Nat
  status : Option Nat
  overdue : Bool
  bad : Nat
  held : Bool
  deriving DecidableEq, Repr

/-- A routed list (R412, R413). -/
structure RouteList where
  ctx : CtxKey
  task : Nat
  rank : Nat
  supervisor : Bool
  domain : Nat
  batch : Nat
  num : Nat
  /-- The entries as sent, in position order. -/
  entries : List (List Byte)
  bounce : Word
  closed : Bool
  /-- Positions whose tokens no holding area has accepted yet. -/
  unaccepted : List Nat
  /-- Bounced entries: position and reason (R419). -/
  bounced : List (Nat × Nat)
  slack : Nat
  overdue : Bool
  deriving DecidableEq, Repr

/-- A receive slot of the current or last admission (R415, R416, R420). -/
structure Slot where
  num : Nat
  base : Word
  bc : Nat
  capacity : Nat
  stride : Nat
  ntile : Nat
  nctx : Nat
  ev : Bool
  count : Nat
  second : Nat
  deriving DecidableEq, Repr

/-- An admission that is due or in progress (R416). -/
structure Admission where
  domain : Nat
  /-- The participants of the routing step. -/
  packages : List Nat
  /-- 0 before round 1; 2 until round 2; 3 until every participant has ended round 2. -/
  round : Nat
  /-- Batches that the routing step closed: package, rank, batch (R414). -/
  closed : List (Nat × Nat × Nat)
  /-- Tokens forwarded to this package. -/
  forwarded : List RToken
  /-- Participants whose round-1-done, and whose end of round 2, has been heard. -/
  done1 : List Nat
  done2 : List Nat
  /-- Pages for which a record has been posted (R441). -/
  told : List Nat
  /-- The slots with their counts, read as the admission starts (R415, R416). -/
  slots : List Slot
  deriving DecidableEq, Repr

/-- The fabric engine: links, remote access, collectives, routing. -/
structure Fabric where
  ports : List Port := []
  links : List PairLink := []
  queue : List OutPacket := []
  /-- Packets on their way over the mesh to a port's queue, by number (R16). -/
  outbound : List (Nat × OutPacket) := []
  relay : List Relayed := []
  absent : List Nat := []
  requests : List RemoteReq := []
  /-- Writes sent to a peer so far: task, rank, peer, number (R386). -/
  sentWrites : List (Nat × Nat × Nat × Nat) := []
  shadows : List Shadow := []
  /-- Writes of pod tasks committed on this package in the current pod step (R37, R387). -/
  podWrites : List Staged := []
  /-- What peers read of this package in the last pod step that ended, by domain: for their reads that still belong to it (R31). -/
  ended : List (Nat × Snapshot) := []
  peers : List PeerParty := []
  /-- Requests of peers held until this package's step (R387). -/
  heldReqs : List PeerReq := []
  notes : List ShareNote := []
  fsends : List Fsend := []
  colls : List Coll := []
  early : List CollPacket := []
  lists : List RouteList := []
  /-- Tokens accepted by this package's holding area, and those of its own contexts that wait for room there (R413). -/
  holding : List RToken := []
  loop : List RToken := []
  slots : List Slot := []
  admissions : List Admission := []
  admittedOnce : Bool := false
  /-- The slot of pod time that last started (R374). -/
  slotStarted : Option Nat := none
  locked : Bool := false
  deriving DecidableEq, Repr

/-- An entry of the boot record (R434). -/
structure BootEntry where
  step : Nat
  attempts : Nat
  alt : Bool
  outcome : Nat
  deriving DecidableEq, Repr

/-- The host link's control window, the event ring and bring-up (R425-R438). -/
structure HostLink where
  /-- The link is trained; its rate in GT/s and its width (R425). -/
  linkUp : Bool := false
  rate : Nat := 0
  width : Nat := 0
  aerErrors : Nat := 0
  bar2base : Nat := 0
  hoststat : Word := 0
  evbase : Word := 0
  evcfg : Word := 6
  evtail : Nat := 0
  evhead : Nat := 0
  evlost : Nat := 0
  /-- Records that wait in the on-package buffer, oldest first (R430). -/
  evwait : List (List Byte) := []
  /-- MSI-X vector 0 messages sent (R430). -/
  msix : Nat := 0
  tcbCount : Nat := 0
  tcbStatus : Nat := 0
  fwLength : Nat := 0
  fwStatus : Nat := 0
  /-- The length of the staged image under verification (R432). -/
  fwJob : Option Nat := none
  staging : Mem := []
  /-- Flash slots A and B, the slot that runs, the slot preferred for the next start (R431, R432). -/
  slotA : List Byte := Config.flash 0
  slotB : List Byte := Config.flash 1
  running : Nat := 0
  preferred : Nat := 0
  fusedMin : Nat := 0
  ready : Bool := false
  readyPosted : Bool := false
  diesUp : Nat := 0
  stacksUp : Nat := 0
  pendingDies : Nat := 15
  pendingStacks : Nat := 255
  clockStep : Nat := 0
  /-- The step at which the clock was calibrated; ticks at which a die was last at its throttle temperature and at which the step was last
  lowered (R435, R438). -/
  calibrated : Nat := 0
  hotAt : Nat := 0
  loweredAt : Option Nat := none
  boot : List BootEntry := []
  brclr : Bool := false
  started : Bool := false
  nonce : List Byte := []
  att : Nat := 0
  attBody : List Byte := []
  attSig : List Byte := []
  deriving DecidableEq, Repr

/-- What a queued packet belongs to (R112): whose delivery or completion its overdue flag counts for, or what waits for it. -/
inductive Owner where
  | token (id : Nat)
  | fetch (task rank addr : Nat)
  | copy (work : Nat)
  | basedie (cmd : Nat)
  | message (m : Msg)
  /-- A walk's read of a table entry, by die and 64 KiB page. -/
  | walk (die page : Nat)
  /-- An increment of an access counter, by the touch's number. -/
  | touch (id : Nat)
  /-- A packet on its way to a port's queue. -/
  | fabric (id : Nat)
  /-- The reply of a peer, by the request's number, on its way to the tile. -/
  | reply (num : Nat)
  /-- A context's arrival at a barrier, and its result. -/
  | arrival (task rank : Nat)
  | result (task rank : Nat)
  | stop (task tile : Nat)
  /-- A record or a notification on its way to its ring, by number. -/
  | note (id : Nat)
  /-- The invalidation of a context's TLBINV. -/
  | inval (k : CtxKey)
  /-- The copying of a page, by its first virtual byte. -/
  | migration (va : Nat)
  deriving DecidableEq, Repr

/-- A packet in an arbitrated queue (R101, R107, R109). -/
structure Packet where
  owner : Owner
  vc : Nat
  slack : Nat
  overdue : Bool
  flits : Nat
  /-- Arbiters still to pass, the present one first: 8 times the router's tile, plus the output; memory channels and ports beyond these
  (R16, R18). -/
  route : List Nat
  /-- The last arbiter of a request's way. -/
  goal : Nat
  port : Nat
  arrived : Nat
  /-- The tile and context that sent it, as a tie is decided by (R109). -/
  source : Nat
  /-- It is a request: the flits of its reply, which goes back from the destination (R112). -/
  reply : Option Nat
  back : List Nat
  deriving DecidableEq, Repr

/-- A supervisor record on its way to the fault queue, or waiting for room there (R207): its 64 bytes, and the context that posted it. -/
structure SfqRecord where
  id : Nat
  bytes : List Byte
  ctx : Option CtxKey
  deriving DecidableEq, Repr

/-- The package registers (R208 and the engine chapters), at their reset values. -/
structure PkgRegs where
  maxmsg : Nat := 9
  sfqbase : Word := 0
  sfqsize : Nat := 0
  sfqhead : Nat := 0
  sfqtail : Nat := 0
  stagebase : Nat := 0
  stagesize : Nat := 8
  waitto : Nat := 0
  domto : Word := 0x1B1B1B1B1B
  placectl : Word := 0x005F5E100003D090
  savepool : Word := 0
  balctl : Word := 0x0000000001E84833
  trcctl : Word := 0
  ptroot : Word := 0
  cntcfg : Word := 0x0100000000000000
  nqcfg : Word := 0x0000060000000000
  nqhead : Nat := 0
  nqtail : Nat := 0
  peercache : Word := 0
  errcnt : Word := 0
  hbmclk : Word := 0
  fabctl : Word := 20
  relaycfg : Word := 4096
  podsize : Nat := 0
  podpackage : Nat := 0
  rtcfg : Word := 0
  rtslots : Word := 0
  colllog : Word := 0x0000060000000000
  collhead : Nat := 0
  colltail : Nat := 0
  collcfg : Word := 0
  deriving DecidableEq, Repr

/-- The whole machine: one package. -/
structure State where
  /-- What the present step concerns: the issuing context, or an event's unit. -/
  sel : Selection := { ctx := { tile := 0, num := 0 }, a := 0, b := 0, c := 0, flag := false }
  /-- Core cycles and slack ticks since reset (R213, R102), and pod time (R375). -/
  cycle : Nat := 0
  ticks : Nat := 0
  podtime : Nat := 0
  /-- Tenths of a cycle at which the next tick edge falls (R102, R4). -/
  tickAt : Nat := 160
  /-- Draws made from the free values of the configuration (the model's own). -/
  free : Nat := 0
  /-- Next number for staged writes, tokens, tasks and queue entries (the model's own). -/
  seq : Nat := 0
  /-- Power has been removed (R438). -/
  off : Bool := false
  ctxs : List Ctx := []
  tiles : List Tile := []
  /-- Tiles retired from placement (R291). -/
  retired : List Nat := []
  mem : Mem := []
  staged : List Staged := []
  hostOld : List HostOld := []
  domains : List Domain := []
  tasks : List Task := []
  messages : List Msg := []
  deferred : List DeferredItem := []
  decrements : List Decrement := []
  /-- Staging spills, corrected errors and transient tile errors counted for the supervisor (R44, R129, R291). -/
  spills : Nat := 0
  corrected : Nat := 0
  transient : Nat := 0
  /-- Entries of the dispatch trace: per tile, recorded or started so far (R292). -/
  traceCount : List (Nat × Nat) := []
  /-- Ticks at the last end of a balance period (R290). -/
  balancedAt : Nat := 0
  /-- Context-cycles occupied by tasks in each die, and cycles, in the present balance period (R290). -/
  busyCtx : List Nat := [0, 0, 0, 0]
  busyCycles : Nat := 0
  packets : List Packet := []
  /-- The cycle until which an output sends the packet that won it (R110). -/
  busyOut : List (Nat × Nat) := []
  /-- Flits of VC5 that an output has lately started: the output, the cycle, the flits (R111). -/
  barrierFlits : List (Nat × Nat × Nat) := []
  /-- Pages of the save pool in use, by context image (R286). -/
  saved : List (Nat × Nat) := []
  sfqWait : List SfqRecord := []
  regs : PkgRegs := {}
  xlat : Xlat := {}
  bd : BaseDies := {}
  fab : Fabric := {}
  host : HostLink := {}
  /-- Inputs from outside, in the order they reach the package (the model's own): the head is offered as a move. -/
  agenda : List Move := []
  deriving DecidableEq, Repr

/-- The machine right after device reset: every field at its reset value (R433, and the register tables). -/
def State.reset : State := {}

end Sys2Proof.Machine
end

