-- ==== Sys2Proof/Machine/Memory.lean ====
section
/-! DEFINITION. Bytes by flat location: reading and writing a memory in its one canonical form, and where the memories of
the machine lie (R21, R24). -/

namespace Sys2Proof.Machine

/-- What a location that is not listed reads as. Log entry 1. -/
def Mem.unlisted : Byte := 0

/-- One byte. -/
def Mem.get : Mem → Nat → Byte
  | [], _ => Mem.unlisted
  | (k, b) :: r, a => if a = k then b else if a < k then Mem.unlisted else Mem.get r a

/-- Put a byte in front of a memory whose addresses lie above it, unless it reads so unlisted. -/
def Mem.put (a : Nat) (b : Byte) (r : Mem) : Mem := if b = Mem.unlisted then r else (a, b) :: r

/-- Write one byte, keeping the canonical form. -/
def Mem.set : Mem → Nat → Byte → Mem
  | [], a, b => Mem.put a b []
  | (k, c) :: r, a, b =>
    if a < k then Mem.put a b ((k, c) :: r)
    else if a = k then Mem.put a b r
    else (k, c) :: Mem.set r a b

/-- The canonical form from a lower bound on: addresses strictly rising, no unlisted value. -/
def Mem.wfFrom : Nat → Mem → Bool
  | _, [] => true
  | n, (k, b) :: r => n ≤ k && b != Mem.unlisted && Mem.wfFrom (k + 1) r

/-- The canonical form of a memory. -/
def Mem.wf (m : Mem) : Bool := Mem.wfFrom 0 m

/-- n bytes from a on. -/
def Mem.read (m : Mem) (a : Nat) : Nat → List Byte
  | 0 => []
  | n + 1 => m.get a :: Mem.read m (a + 1) n

/-- Write bytes from a on, in ascending order. -/
def Mem.write (m : Mem) (a : Nat) : List Byte → Mem
  | [] => m
  | b :: r => Mem.write (m.set a b) (a + 1) r

/-- The little-endian number of a list of bytes (R5). -/
def numOf : List Byte → Nat
  | [] => 0
  | b :: r => b.toNat + 256 * numOf r

/-- The n low bytes of a number, little-endian (R5). -/
def bytesOf (n x : Nat) : List Byte :=
  match n with
  | 0 => []
  | n + 1 => BitVec.ofNat 8 x :: bytesOf n (x / 256)

/-- Put an element in front of the first of a list that it may precede. -/
def insertBy {α : Type} (le : α → α → Bool) (x : α) : List α → List α
  | [] => [x]
  | y :: r => if le x y then x :: y :: r else y :: insertBy le x r

/-- A list in order; elements that may precede each other keep their places. -/
def sortBy {α : Type} (le : α → α → Bool) (l : List α) : List α := l.foldr (insertBy le) []

/-- Numbers in ascending order. -/
def ascending (l : List Nat) : List Nat := sortBy (fun a b => decide (a ≤ b)) l

/-- The number at a, of n bytes. -/
def Mem.num (m : Mem) (a n : Nat) : Nat := numOf (m.read a n)

/-- Local memory of a tile (R24). -/
def localKey (tile o : Nat) : Nat := 2 ^ 40 + tile * 2 ^ 20 + o

/-- A plate slice (R17). -/
def plateKey (tile o : Nat) : Nat := 2 ^ 41 + tile * 2 ^ 20 + o

/-- Group memory (R439). -/
def groupKey (group o : Nat) : Nat := 2 ^ 42 + group * 2 ^ 23 + o

/-- Die memory (R17). -/
def dieKey (die o : Nat) : Nat := 2 ^ 43 + die * 2 ^ 29 + o

/-- Host-tier memory by its bus address (R336). -/
def hostKey (a : Nat) : Nat := 2 ^ 65 + a

/-- A location lies in package memory (R18). -/
def isPhys (key : Nat) : Bool := key < 2 ^ 39

/-- A location lies in some tile's local memory. -/
def isLocal (key : Nat) : Bool := 2 ^ 40 ≤ key && key < 2 ^ 40 + 768 * 2 ^ 20

/-- A location lies in some plate slice. -/
def isPlate (key : Nat) : Bool := 2 ^ 41 ≤ key && key < 2 ^ 41 + 768 * 2 ^ 20

/-- A location lies in host memory. -/
def isHostMem (key : Nat) : Bool := 2 ^ 65 ≤ key

/-- The tile of a location in local memory or a plate slice. -/
def tileOfKey (key : Nat) : Nat := key / 2 ^ 20 % 2 ^ 20

/-- The reach level of a location, for a task in a pod domain or not (R28, R336). -/
def reachLevel (key : Nat) (pod : Bool) : Nat :=
  if isHostMem key then 4
  else if isPhys key then (if pod then 5 else 4)
  else if isLocal key then 2
  else if isPlate key then 1
  else if key < 2 ^ 43 then 2
  else 3

/-- Column of a tile (R14). -/
def tileX (t : Nat) : Nat := t % 32

/-- Row of a tile (R14). -/
def tileY (t : Nat) : Nat := t / 32

/-- The tile number of coordinates (R14). -/
def tileAt (x y : Nat) : Nat := x + 32 * y

/-- The die of a tile (R14). -/
def dieOfTile (t : Nat) : Nat := tileX t / 16 + 2 * (tileY t / 12)

/-- The group of a tile (R14). -/
def groupOfTile (t : Nat) : Nat := tileX t / 4 + 8 * (tileY t / 4)

/-- The die of a group (R14). -/
def dieOfGroup (g : Nat) : Nat := g % 8 / 4 + 2 * (g / 8 / 3)

/-- The unit of a tile at a level (R12). -/
def unitOf (level tile : Nat) : Nat :=
  match level with
  | 1 => tile
  | 2 => groupOfTile tile
  | 3 => dieOfTile tile
  | _ => 0

/-- The smallest scope that encloses two tiles of the package (R12, R29). -/
def encScope (a b : Nat) : Nat :=
  if a = b then 1
  else if groupOfTile a = groupOfTile b then 2
  else if dieOfTile a = dieOfTile b then 3
  else 4

/-- The tiles of the rectangle of w by h at an origin, row by row (R271). -/
def rectTiles (origin w h : Nat) : List Nat :=
  (List.range (w * h)).map fun i => tileAt (tileX origin + i % w) (tileY origin + i / w)

/-- The smallest level whose unit holds a rectangle (R28). -/
def rectLevel (origin w h : Nat) : Nat :=
  encScope origin (tileAt (tileX origin + w - 1) (tileY origin + h - 1))

end Sys2Proof.Machine
end

