-- ==== Sys2Proof/Machine/Flags.lean ====
section
/-! DEFINITION. The sticky flags (R198) and how they are set. -/

namespace Sys2Proof.Machine

/-- Invalid operation. -/
def flagNV : Nat := 1
/-- Division by zero. -/
def flagDZ : Nat := 2
/-- Overflow. -/
def flagOF : Nat := 4
/-- Underflow. -/
def flagUF : Nat := 8
/-- Inexact. -/
def flagNX : Nat := 16
/-- A value was clamped. -/
def flagSAT : Nat := 32
/-- A gang follower's own decision differed. -/
def flagDIV : Nat := 64
/-- SRCNT wrapped. -/
def flagSRW : Nat := 128
/-- Integer overflow. -/
def flagIOV : Nat := 256

/-- The flags that exist: bits 8 to 0 (R198). -/
def flagMask : Word := 0x1FF

/-- FLAGS with more flags set: no flag clears itself (R199). -/
def Ctx.orFlags (c : Ctx) (f : Nat) : Ctx := { c with flags := c.flags ||| (BitVec.ofNat 64 f &&& flagMask) }

/-- A set of flags where a condition holds. -/
def flagIf (b : Bool) (f : Nat) : Nat := if b then f else 0

end Sys2Proof.Machine
end

