-- ==== Sys2Proof/Machine/Float.lean ====
section
/-! DEFINITION. Numbers in the formats of the Z2: exact decoding, one rounding, special values and flags (R49-R70). -/

namespace Sys2Proof.Machine

/-- A floating-point format (R49). -/
structure Fmt where
  width : Nat
  ebits : Nat
  mbits : Nat
  bias : Int
  /-- Bits of the largest finite magnitude. -/
  maxBits : Nat
  /-- Bits of +infinity, where the format has it. -/
  inf : Option Nat
  /-- The canonical NaN. -/
  nan : Nat
  deriving DecidableEq, Repr

/-- FP32, BF16, FP16, E5M2, E4M3 and E2M1 (R49). -/
def fp32 : Fmt := { width := 32, ebits := 8, mbits := 23, bias := 127, maxBits := 0x7F7FFFFF, inf := some 0x7F800000, nan := 0x7FC00000 }
def bf16 : Fmt := { width := 16, ebits := 8, mbits := 7, bias := 127, maxBits := 0x7F7F, inf := some 0x7F80, nan := 0x7FC0 }
def fp16 : Fmt := { width := 16, ebits := 5, mbits := 10, bias := 15, maxBits := 0x7BFF, inf := some 0x7C00, nan := 0x7E00 }
def e5m2 : Fmt := { width := 8, ebits := 5, mbits := 2, bias := 15, maxBits := 0x7B, inf := some 0x7C, nan := 0x7E }
def e4m3 : Fmt := { width := 8, ebits := 4, mbits := 3, bias := 7, maxBits := 0x7E, inf := none, nan := 0x7F }
/-- E2M1 has no NaN code: a NaN becomes code 0. Log entry 22. -/
def e2m1 : Fmt := { width := 4, ebits := 2, mbits := 1, bias := 1, maxBits := 0x7, inf := none, nan := 0 }

/-- An exact value: a NaN (signalling or not), an infinity, or a signed multiple of a power of two; a zero keeps its sign. -/
inductive FV where
  | nan (sig : Bool)
  | inf (neg : Bool)
  | num (neg : Bool) (m : Nat) (e : Int)
  deriving DecidableEq, Repr

/-- The exact value of a code (R49, R50). -/
def decF (f : Fmt) (x : Nat) : FV :=
  let neg := bitAt x (f.width - 1)
  let mag := x % 2 ^ (f.width - 1)
  let ex := mag / 2 ^ f.mbits
  let man := mag % 2 ^ f.mbits
  let top : Bool := match f.inf with
    | some i => decide (i ≤ mag)
    | none => f.width == 8 && mag == 0x7F
  if top then
    match f.inf with
    | some i => if mag = i then .inf neg else .nan (!bitAt mag (f.mbits - 1))
    | none => .nan false
  else if ex = 0 then .num neg man (1 - f.bias - f.mbits)
  else .num neg (2 ^ f.mbits + man) (ex - f.bias - f.mbits)

/-- A rounding mode (R59) with the draw of the rounding stream for it (R61). -/
structure Rnd where
  mode : Nat
  draw : Nat := 0
  sat : Bool := false
  nanovf : Bool := false
  deriving DecidableEq, Repr

/-- Round to nearest, ties to even. -/
def rne : Rnd := { mode := 0 }

/-- Round m divided by 2 to the s to an integer: the integer, and whether it differs (R59, R61). -/
def roundShift (r : Rnd) (neg : Bool) (m s : Nat) : Nat × Bool :=
  let k := m / 2 ^ s
  let rem := m % 2 ^ s
  let up := match r.mode with
    | 0 => rem * 2 > 2 ^ s || (rem * 2 == 2 ^ s && k % 2 == 1)
    | 1 => false
    | 2 => rem != 0 && !neg
    | 3 => rem != 0 && neg
    | _ => rem != 0 && r.draw * 2 ^ s < rem * 2 ^ 32
  (if up then k + 1 else k, rem != 0)

/-- Multiply a natural number by 2 to the e for e not negative, or round it to a multiple of 1 otherwise. -/
def scaleRound (r : Rnd) (neg : Bool) (m : Nat) (e : Int) : Nat × Bool :=
  if 0 ≤ e then (m * 2 ^ e.toNat, false) else roundShift r neg m (-e).toNat

/-- The exponent of the leading bit of m times 2 to the e, for m not zero. -/
def leadExp (m : Nat) (e : Int) : Int := (m.log2 : Int) + e

/-- m times 2 to the e is below 2 to the k. -/
def below (m : Nat) (e k : Int) : Bool := m == 0 || leadExp m e < k

/-- m times 2 to the e compared with n times 2 to the d. -/
def magLt (m : Nat) (e : Int) (n : Nat) (d : Int) : Bool :=
  if e ≤ d then m < n * 2 ^ (d - e).toNat else m * 2 ^ (e - d).toNat < n

/-- The code of k times 2 to the q, a multiple that the format holds without overflow. -/
def packF (f : Fmt) (neg : Bool) (k : Nat) (q : Int) : Nat :=
  let s := b2n neg * 2 ^ (f.width - 1)
  if k < 2 ^ f.mbits then s + k
  else
    let (k, q) := if k = 2 ^ (f.mbits + 1) then (2 ^ f.mbits, q + 1) else (k, q)
    s + (q + f.mbits + f.bias).toNat * 2 ^ f.mbits + (k - 2 ^ f.mbits)

/-- What an overflow gives (R64): the code and the flags. -/
def overflowF (f : Fmt) (r : Rnd) (neg : Bool) : Nat × Nat :=
  let s := b2n neg * 2 ^ (f.width - 1)
  match f.inf with
  | some i =>
    if r.sat then (s + f.maxBits, flagOF ||| flagNX ||| flagSAT)
    else
      let toInf := match r.mode with
        | 1 => false
        | 2 => !neg
        | 3 => neg
        | _ => true
      (s + (if toInf then i else f.maxBits), flagOF ||| flagNX)
  | none =>
    if r.nanovf then (f.nan, flagOF ||| flagNX ||| flagNV) else (s + f.maxBits, flagOF ||| flagNX ||| flagSAT)

/-- One rounding of an exact value to a format: the code and the flags (R59-R66). A signalling NaN's NV is the
operation's. -/
def roundF (f : Fmt) (r : Rnd) (v : FV) : Nat × Nat :=
  match v with
  | .nan _ => (f.nan, if f.width = 4 then flagNV else 0)
  | .inf neg =>
    match f.inf with
    | some i => (b2n neg * 2 ^ (f.width - 1) + i, 0)
    | none => if r.nanovf then (f.nan, flagNV) else (b2n neg * 2 ^ (f.width - 1) + f.maxBits, flagSAT)
  | .num neg m e =>
    if m = 0 then (b2n neg * 2 ^ (f.width - 1), 0)
    else
      let q := max (leadExp m e - f.mbits) (1 - f.bias - f.mbits)
      let (k, inexact) := scaleRound r neg m (e - q)
      match decF f f.maxBits with
      | .num _ mm me =>
        if magLt mm me k q then overflowF f r neg
        else (packF f neg k q, flagIf inexact flagNX ||| flagIf (inexact && below m e (1 - f.bias)) flagUF)
      | _ => (packF f neg k q, 0)

/-- The NV flag for signalling operands (R63). -/
def sigFlag (xs : List FV) : Nat :=
  flagIf (xs.any fun x => match x with
    | .nan sig => sig
    | _ => false) flagNV

/-- A value is a NaN. -/
def FV.isNan : FV → Bool
  | .nan _ => true
  | _ => false

/-- A value is infinite. -/
def FV.isInf : FV → Bool
  | .inf _ => true
  | _ => false

/-- A value is a zero. -/
def FV.isZero : FV → Bool
  | .num _ m _ => m == 0
  | _ => false

/-- The sign of a value. -/
def FV.sign : FV → Bool
  | .nan _ => false
  | .inf n => n
  | .num n _ _ => n

/-- The value with its sign changed. -/
def FV.neg : FV → FV
  | .nan q => .nan q
  | .inf n => .inf (!n)
  | .num n m e => .num (!n) m e

/-- A signed integer times 2 to the e, for a finite value. -/
def FV.int (e : Int) : FV → Int
  | .num n m d => (if n then -1 else 1) * (m : Int) * 2 ^ (d - e).toNat
  | _ => 0

/-- The exponent of a finite value's form. -/
def FV.exp : FV → Int
  | .num _ _ e => e
  | _ => 0

/-- The exact sum; the sign of an exact zero depends on the mode (R50). -/
def addV (mode : Nat) (x y : FV) : FV × Nat :=
  let sf := sigFlag [x, y]
  match x, y with
  | .nan _, _ | _, .nan _ => (.nan false, sf)
  | .inf a, .inf b => if a = b then (.inf a, 0) else (.nan false, flagNV)
  | .inf a, _ => (.inf a, 0)
  | _, .inf b => (.inf b, 0)
  | .num a m d, .num b n k =>
    if m = 0 ∧ n = 0 then (.num (if a = b then a else mode == 3) 0 0, 0)
    else
      let e := min d k
      let t := FV.int e (.num a m d) + FV.int e (.num b n k)
      if t = 0 then (.num (mode == 3) 0 0, 0) else (.num (t < 0) t.natAbs e, 0)

/-- The exact product. -/
def mulV (x y : FV) : FV × Nat :=
  let sf := sigFlag [x, y]
  let s := x.sign != y.sign
  match x, y with
  | .nan _, _ | _, .nan _ => (.nan false, sf)
  | .inf _, .num _ m _ | .num _ m _, .inf _ => if m = 0 then (.nan false, flagNV) else (.inf s, 0)
  | .inf _, .inf _ => (.inf s, 0)
  | .num _ m d, .num _ n k => (.num s (m * n) (d + k), 0)

/-- The exact product plus a third value. -/
def fmaV (mode : Nat) (x y z : FV) : FV × Nat :=
  let sf := sigFlag [x, y, z]
  let (p, f1) := mulV x y
  if x.isNan || y.isNan || z.isNan then (.nan false, sf ||| f1)
  else
    let (r, f2) := addV mode p z
    (r, (f1 ||| f2))

/-- A quotient kept with enough bits and a last bit that says whether more follow: every rounding of it is that of the exact
quotient. -/
def divV (x y : FV) : FV × Nat :=
  let sf := sigFlag [x, y]
  let s := x.sign != y.sign
  match x, y with
  | .nan _, _ | _, .nan _ => (.nan false, sf)
  | .inf _, .inf _ => (.nan false, flagNV)
  | .inf _, _ => (.inf s, 0)
  | _, .inf _ => (.num s 0 0, 0)
  | .num _ m d, .num _ n k =>
    if n = 0 then (if m = 0 then (.nan false, flagNV) else (.inf s, flagDZ))
    else if m = 0 then (.num s 0 0, 0)
    else
      let sh := 128 + n.log2
      let q := m * 2 ^ sh / n
      let r := m * 2 ^ sh % n
      (.num s (q * 2 + b2n (r != 0)) (d - k - sh - 1), 0)

/-- The integer square root, bit by bit from bit k - 1 down. -/
def isqrtFrom : Nat → Nat → Nat → Nat
  | 0, _, r => r
  | k + 1, n, r => let t := r + 2 ^ k; isqrtFrom k n (if t * t ≤ n then t else r)

/-- The integer square root. -/
def isqrt (n : Nat) : Nat := isqrtFrom (n.log2 / 2 + 1) n 0

/-- The square root, kept as divV keeps a quotient. -/
def sqrtV (x : FV) : FV × Nat :=
  match x with
  | .nan sig => (.nan false, flagIf sig flagNV)
  | .inf n => if n then (.nan false, flagNV) else (.inf false, 0)
  | .num n m e =>
    if m = 0 then (.num n 0 0, 0)
    else if n then (.nan false, flagNV)
    else
      let m1 := if e % 2 = 0 then m else m * 2
      let e1 := if e % 2 = 0 then e else e - 1
      let y := m1 * 2 ^ 200
      let r := isqrt y
      (.num false (r * 2 + b2n (r * r != y)) ((e1 - 200) / 2 - 1), 0)

/-- The reciprocal square root. -/
def rsqV (x : FV) : FV × Nat :=
  match x with
  | .nan sig => (.nan false, flagIf sig flagNV)
  | .inf n => if n then (.nan false, flagNV) else (.num false 0 0, 0)
  | .num n m e =>
    if m = 0 then (.inf n, flagDZ)
    else if n then (.nan false, flagNV)
    else
      let m1 := if e % 2 = 0 then m else m * 2
      let e1 := if e % 2 = 0 then e else e - 1
      let k := 200 + m1.log2
      let r := isqrt (2 ^ (2 * k) / m1)
      (.num false (r * 2 + b2n (r * r * m1 != 2 ^ (2 * k))) (-(e1 / 2) - k - 1), 0)

/-- The value of 2 to the fraction whose bits below the point are the n low bits of f, the highest first, in units of
2 to the -400: c is 2 to the power of the bit before. -/
def exp2Frac : Nat → Nat → Nat → Nat → Nat
  | 0, _, _, acc => acc
  | n + 1, f, c, acc =>
    let c := isqrt (c * 2 ^ 400)
    exp2Frac n f c (if bitAt f n then acc * c / 2 ^ 400 else acc)

/-- The base-2 exponential, kept as divV keeps a quotient. -/
def exp2V (x : FV) : FV × Nat :=
  match x with
  | .nan sig => (.nan false, flagIf sig flagNV)
  | .inf n => if n then (.num false 0 0, 0) else (.inf false, 0)
  | .num n m e =>
    if m = 0 then (.num false 1 0, 0)
    else if !below m e 12 then (if n then (.num false 3 (-5000), 0) else (.num false 3 5000, 0))
    else if 0 ≤ e then
      let k : Int := (m * 2 ^ e.toNat : Nat)
      (.num false 1 (if n then -k else k), 0)
    else
      let w := (-e).toNat
      let t : Int := if n then -(m : Int) else m
      let i := t / 2 ^ w
      let f := (t % 2 ^ w).toNat
      if f = 0 then (.num false 1 i, 0)
      else (.num false (exp2Frac w f (2 * 2 ^ 400) (2 ^ 400) * 2 + 1) (i - 401), 0)

/-- n bits of the logarithm of z in units of 2 to the -512, for z from 1 to below 2, by repeated squaring. -/
def log2Frac : Nat → Nat → Nat → Nat
  | 0, _, acc => acc
  | n + 1, z, acc =>
    let y := z * z / 2 ^ 512
    if y ≥ 2 ^ 513 then log2Frac n (y / 2) (acc * 2 + 1) else log2Frac n y (acc * 2)

/-- The base-2 logarithm, kept as divV keeps a quotient. -/
def log2V (x : FV) : FV × Nat :=
  match x with
  | .nan sig => (.nan false, flagIf sig flagNV)
  | .inf n => if n then (.nan false, flagNV) else (.inf false, 0)
  | .num n m e =>
    if m = 0 then (.inf true, flagDZ)
    else if n then (.nan false, flagNV)
    else
      let l := leadExp m e
      if m = 2 ^ m.log2 then (.num (l < 0) l.natAbs 0, 0)
      else
        let z := m * 2 ^ 512 / 2 ^ m.log2
        let f := log2Frac 200 z 0
        let t : Int := l * 2 ^ 201 + (2 * f + 1 : Nat)
        (.num (t < 0) t.natAbs (-201), 0)

/-- x is below y, both not NaN; zeros of either sign are equal. -/
def ltV (x y : FV) : Bool :=
  match x, y with
  | .nan _, _ | _, .nan _ => false
  | .inf a, .inf b => a && !b
  | .inf a, _ => a
  | _, .inf b => !b
  | .num a m d, .num b n k =>
    let e := min d k
    FV.int e (.num a m d) < FV.int e (.num b n k)

/-- x equals y, neither a NaN. -/
def eqV (x y : FV) : Bool := !x.isNan && !y.isNan && !ltV x y && !ltV y x

/-- The minimum or maximum of two codes: the canonical NaN for a NaN, -0 below +0 (R63, R170). -/
def minMaxF (f : Fmt) (isMax : Bool) (x y : Nat) : Nat × Nat :=
  let a := decF f x; let b := decF f y
  if a.isNan || b.isNan then (f.nan, sigFlag [a, b])
  else
    let less := ltV a b || (a.isZero && b.isZero && a.sign && !b.sign)
    (if less != isMax then x else y, 0)

/-- A value rounded to an integer in a mode, with whether it differs. -/
def toIntV (r : Rnd) (v : FV) : Int × Bool :=
  match v with
  | .num n m e =>
    let (k, inexact) := scaleRound r n m e
    (if n then -(k : Int) else k, inexact)
  | _ => (0, false)

/-- The exact value of an integer. -/
def ofIntV (x : Int) : FV := .num (x < 0) x.natAbs 0

/-- Conversion to an integer format: clamped with NV; a NaN gives 0 with NV (R67). -/
def cvtToInt (r : Rnd) (lo hi : Int) (v : FV) : Int × Nat :=
  match v with
  | .nan _ => (0, flagNV)
  | .inf n => (if n then lo else hi, flagNV)
  | v =>
    let (x, inexact) := toIntV r v
    if x < lo then (lo, flagNV) else if hi < x then (hi, flagNV) else (x, flagIf inexact flagNX)

/-- One operation on codes, rounded once. -/
def opF (f : Fmt) (r : Rnd) (v : FV × Nat) : Nat × Nat :=
  let (x, g) := roundF f r v.1
  (x, g ||| v.2)

/-- rne32 of the exact sum of two FP32 codes (R70). -/
def add32 (x y : Nat) : Nat × Nat := opF fp32 rne (addV 0 (decF fp32 x) (decF fp32 y))

/-- rne32 of the exact difference. -/
def sub32 (x y : Nat) : Nat × Nat := opF fp32 rne (addV 0 (decF fp32 x) (decF fp32 y).neg)

/-- rne32 of the exact product. -/
def mul32 (x y : Nat) : Nat × Nat := opF fp32 rne (mulV (decF fp32 x) (decF fp32 y))

/-- Multiplication of an exact value by a power of two. -/
def FV.scale (k : Int) : FV → FV
  | .num n m e => .num n m (e + k)
  | v => v

/-- A conversion from one floating-point format to another (R66): one rounding, NV for a signalling NaN. -/
def cvtF (src dst : Fmt) (r : Rnd) (x : Nat) : Nat × Nat :=
  let v := decF src x
  let (y, g) := roundF dst r v
  (y, g ||| sigFlag [v])

/-- The stipple mixer (R60). -/
def mix64 (c k : Nat) : Nat :=
  let x := Nat.xor (c % 2 ^ 64) (k % 2 ^ 64)
  let x := Nat.xor x (x / 2 ^ 31) * 0x0000040000000165 % 2 ^ 64
  let x := Nat.xor x (x / 2 ^ 29) * 0x0000008000000D2F % 2 ^ 64
  Nat.xor x (x / 2 ^ 32)

/-- The draw of the rounding stream for a result position (R61). -/
def rsrDraw (stpkey pkg rank srcnt j : Nat) : Nat :=
  let key := Nat.xor (Nat.xor stpkey (pkg * 2 ^ 48)) (j * 2 ^ 40)
  mix64 (0xFFFF * 2 ^ 48 + rank % 2 ^ 16 * 2 ^ 32 + srcnt % 2 ^ 32) key % 2 ^ 32

/-- Combine two present or absent values (R70). A value that meets no other passes unchanged, also a NaN: R63 would make a default NaN of it, R70
is followed. DESIGN CHOICE, log entry 106. -/
def combineOpt (x y : Option Nat × Nat) : Option Nat × Nat :=
  match x, y with
  | (none, f), (b, g) => (b, f ||| g)
  | (a, f), (none, g) => (a, f ||| g)
  | (some a, f), (some b, g) => let (r, h) := add32 a b; (some r, f ||| g ||| h)

/-- The sums of neighbouring pairs. -/
def pairUp : List (Option Nat × Nat) → List (Option Nat × Nat)
  | a :: b :: r => combineOpt a b :: pairUp r
  | l => l

/-- The rank tree over 2 to the n positions, level by level. -/
def treeLevels : Nat → List (Option Nat × Nat) → List (Option Nat × Nat)
  | 0, l => l
  | n + 1, l => treeLevels n (pairUp l)

/-- The rank tree of R70 over FP32 codes: the sum, +0 if every position is absent, and the flags. A signalling term
sets NV (R254). -/
def rankTree (terms : List (Option Nat)) : Nat × Nat :=
  let n := Nat.log2 (2 * terms.length)
  let padded := terms ++ List.replicate (2 ^ n - terms.length) none
  match treeLevels n (padded.map fun t => (t, 0)) with
  | (v, f) :: _ => (v.getD 0, f)
  | [] => (0, 0)

/-- One stage of the transform of R69 at distance d, on elements indexed from i. -/
def hadStage (d : Nat) (y : List Nat) : List (Nat × Nat) :=
  (List.range y.length).map fun i =>
    if i / d % 2 = 0 then add32 (y.getD i 0) (y.getD (i + d) 0) else sub32 (y.getD (i - d) 0) (y.getD i 0)

/-- The stages of R69 from distance d on, with the flags. -/
def hadStages : Nat → Nat → List Nat × Nat → List Nat × Nat
  | 0, _, s => s
  | n + 1, d, (y, f) =>
    let z := hadStage d y
    hadStages n (2 * d) (z.map Prod.fst, z.foldl (fun a x => a ||| x.2) f)

/-- The Hadamard transform of a block of 16 or 32 FP32 codes, with the final scaling by 2 to the -k (R69). -/
def hadamard (k : Nat) (y : List Nat) : List Nat × Nat :=
  let (z, f) := hadStages y.length.log2 1 (y, 0)
  let w := z.map fun x => opF fp32 rne ((decF fp32 x).scale (-(k : Int)), sigFlag [decF fp32 x])
  (w.map Prod.fst, w.foldl (fun a x => a ||| x.2) f)

end Sys2Proof.Machine
end

