-- ==== Sys2Proof/Machine/Formats.lean ====
section
/-! DEFINITION. Format codes, blocked formats and stipple pairs (R52-R58, R66, R67, R312). -/

namespace Sys2Proof.Machine

/-- Element bits of a format code: the main element (R52). -/
def fmtBits (c : Nat) : Nat :=
  match c with
  | 0 | 4 | 5 | 7 | 8 | 9 | 12 => 8
  | 1 | 11 => 32
  | 2 | 3 | 10 | 13 => 16
  | 6 => 4
  | _ => 0

/-- The blocked formats, stipple pairs included (R52). -/
def fmtBlocked (c : Nat) : Bool := c == 6 || c == 7 || c == 12 || c == 13

/-- A stipple pair (R52). -/
def fmtStipple (c : Nat) : Bool := c == 12 || c == 13

/-- A format code and geometry that are not malformed (R53). -/
def fmtOk (c g : Nat) : Bool := c ≤ 13 && (if fmtBlocked c then g == 1 || g == 2 else g == 0)

/-- The block size of a geometry (R52). -/
def geoSize (g : Nat) : Nat := if g = 1 then 16 else if g = 2 then 32 else 0

/-- The floating-point format of a non-blocked code. -/
def fmtFloat (c : Nat) : Option Fmt :=
  match c with
  | 1 => some fp32
  | 2 => some bf16
  | 3 => some fp16
  | 4 => some e4m3
  | 5 => some e5m2
  | _ => none

/-- The range of an integer format code, low and high. -/
def fmtInt (c : Nat) : Option (Int × Int) :=
  match c with
  | 8 => some (-128, 127)
  | 9 => some (0, 255)
  | 10 => some (-32768, 32767)
  | 11 => some (-2147483648, 2147483647)
  | _ => none

/-- An integer of a format read from its bits. -/
def intOfBits (c x : Nat) : Int := if c = 9 then (x : Int) else signedOf (fmtBits c) x

/-- An integer clamped to a range. -/
def clampInt (lo hi x : Int) : Int := if x < lo then lo else if hi < x then hi else x

/-- The conversion of one element between non-blocked formats in a copy: R66 and R67 in RNE; an integer to a narrower integer
clamps and sets SAT (R222). -/
def cvtElem (src dst x : Nat) : Nat × Nat :=
  if src = dst then (x, 0)
  else match fmtFloat src, fmtFloat dst, fmtInt dst with
    | some a, some b, _ => cvtF a b rne x
    | some a, none, some (lo, hi) =>
      let (y, f) := cvtToInt rne lo hi (decF a x)
      (wrapTo (fmtBits dst) y, f)
    | none, some b, _ => roundF b rne (ofIntV (intOfBits src x))
    | none, none, some (lo, hi) =>
      let v := intOfBits src x
      let y := clampInt lo hi v
      (wrapTo (fmtBits dst) y, flagIf (y != v) flagSAT)
    | _, _, _ => (x, 0)

/-- The exact value of a blocked element from its code, scale and spare (R54). -/
def blockValue (isE2m1 : Bool) (code scale spare : Nat) : FV :=
  if scale = 0xFF then .nan false
  else if isE2m1 then
    if code = 8 then (decF e4m3 spare).scale ((scale : Int) - 127) else (decF e2m1 code).scale ((scale : Int) - 127)
  else (decF e4m3 code).scale ((scale : Int) - 127)

/-- A blocked element delivered as FP32 (R54). -/
def blockDec32 (isE2m1 : Bool) (code scale spare : Nat) : Nat × Nat := roundF fp32 rne (blockValue isE2m1 code scale spare)

/-- The largest of a list of magnitudes, as mantissa and exponent. -/
def maxMag : List FV → Nat × Int
  | [] => (0, 0)
  | .num _ m e :: r => let (n, d) := maxMag r; if magLt n d m e then (m, e) else (n, d)
  | _ :: r => maxMag r

/-- A block quantised (R55): element codes, scale, spare and flags. -/
structure Quant where
  codes : List Nat
  scale : Nat
  spare : Nat
  flags : Nat
  deriving DecidableEq, Repr

/-- Round to an element format with the block clamp, which is no overflow: the code and the flags (R55 step 3). -/
def quantElem (f : Fmt) (r : Rnd) (v : FV) : Nat × Nat :=
  match v with
  | .num neg m e =>
    if m = 0 then (0, 0)
    else
      let q := max (leadExp m e - f.mbits) (1 - f.bias - f.mbits)
      let (k, inexact) := scaleRound r neg m (e - q)
      match decF f f.maxBits with
      | .num _ mm me =>
        let tooBig := magLt mm me k q
        let x := if tooBig then b2n neg * 2 ^ (f.width - 1) + f.maxBits else packF f neg k q
        let x := if k = 0 then 0 else x
        let diff := inexact || tooBig
        (x, flagIf diff flagNX ||| flagIf (diff && below m e (1 - f.bias)) flagUF)
      | _ => (0, 0)
  | _ => (0, 0)

/-- The error of a code for an exact value, as a magnitude (R55 step 4). -/
def quantErr (f : Fmt) (v : FV) (code : Nat) : Nat × Int :=
  match addV 0 v (decF f code).neg with
  | (.num _ m e, _) => (m, e)
  | _ => (0, 0)

/-- The index of the largest nonzero error, the lowest winning a tie. -/
def worstElem : List (Nat × Int) → Nat → Option (Nat × Nat × Int) → Option Nat
  | [], _, best => best.map fun b => b.1
  | (m, e) :: r, i, best =>
    match best with
    | none => worstElem r (i + 1) (if m = 0 then none else some (i, m, e))
    | some (j, n, d) => worstElem r (i + 1) (if magLt n d m e then some (i, m, e) else some (j, n, d))

/-- The spare of a chosen element (R55 steps 4 and 5): its E4M3 code, clamped; a negative value that rounds to zero keeps its sign here (R50). -/
def spareOf (v : FV) : Nat :=
  let x := (quantElem e4m3 rne v).1
  match v with
  | .num neg _ _ => if x = 0 then b2n neg * 0x80 else x
  | _ => x

/-- Blocked quantisation of FP32 codes (R55); the rounding of element i is given with its draw. -/
def quantBlock (isE2m1 : Bool) (rnd : Nat → Rnd) (xs : List Nat) : Quant :=
  let f := if isE2m1 then e2m1 else e4m3
  let vs := xs.map (decF fp32)
  if vs.any fun v => v.isNan || v.isInf then
    { codes := xs.map fun _ => 0, scale := 0xFF, spare := 0, flags := flagNV }
  else
    let (m, e) := maxMag vs
    let emax : Int := if isE2m1 then 2 else 8
    let ex := if m = 0 then -127 else clampInt (-127) 127 (leadExp m e - emax)
    let ws := vs.map fun v => v.scale (-ex)
    let qs := ws.zipIdx.map fun w => quantElem f (rnd w.2) w.1
    let codes := qs.map Prod.fst
    let flags := qs.foldl (fun a q => a ||| q.2) 0
    if isE2m1 then
      match worstElem ((ws.zip codes).map fun p => quantErr f p.1 p.2) 0 none with
      | some i => { codes := codes.set i 8, scale := (ex + 127).toNat, flags := flags,
                    spare := spareOf (ws.getD i (.num false 0 0)) }
      | none => { codes := codes, scale := (ex + 127).toNat, spare := 0, flags := flags }
    else { codes := codes, scale := (ex + 127).toNat, spare := 0, flags := flags }

/-- Bytes of one block group (R57). -/
def groupBytes (c b : Nat) : Nat :=
  let g := 64 * b
  match c with
  | 6 => g / 2 + 128
  | 7 => g + 64
  | 12 => 3 * g / 2 + 128
  | _ => 5 * g / 2 + 64

/-- Where the parts of element r of a group lie: byte offsets of the element, its second part, the block's scale or mean scale,
and its spare or λ base (R57). -/
def groupPlace (c b r : Nat) : Nat × Nat × Nat × Nat :=
  let g := 64 * b
  let j := r / b
  match c with
  | 6 => (r / 2, 0, g / 2 + j, g / 2 + 64 + j)
  | 7 => (r, 0, g + j, 0)
  | 12 => (r, g + r / 2, 3 * g / 2 + j, 3 * g / 2 + 64 + j)
  | _ => (2 * r, 2 * g + r / 2, 0, 5 * g / 2 + j)

/-- Block groups that a 64 KiB unit holds whole (R58, R333). -/
def groupsPerPage (c b : Nat) : Nat := 65536 / groupBytes c b

/-- Byte offset of the group of element n of a blocked object from its base: in paged memory group by group of each 64 KiB unit
(R58, R333), elsewhere packed. -/
def groupOffset (paged : Bool) (c b n : Nat) : Nat :=
  let g := n / (64 * b)
  if paged then g / groupsPerPage c b * 65536 + g % groupsPerPage c b * groupBytes c b else g * groupBytes c b

/-- The square root of 2 as FP32 (R56). -/
def sqrt2F32 : Nat := 0x3FB504F3

/-- The scale of the perturbation from a log-deviation code and a λ base byte (R56). -/
def stippleSigma (c b : Nat) : Nat × Nat :=
  if c = 15 then (0, 0)
  else
    let k : Int := signedOf 8 b + ((c : Int) - 14) / 2
    if c % 2 = 0 then roundF fp32 rne (.num false 1 k) else roundF fp32 rne ((decF fp32 sqrt2F32).scale k)

/-- The mean of an SP8 element with its mean scale (R56). -/
def sp8Mean (m ms : Nat) : Nat × Nat :=
  if ms = 0xFF then (fp32.nan, 0) else roundF fp32 rne ((decF e4m3 m).scale ((ms : Int) - 127))

/-- The generator's ε for a counter index, and the flags of its rounding (R312). -/
def epsOf (member stream index key : Nat) : Nat × Nat :=
  let x := mix64 (member % 2 ^ 16 * 2 ^ 48 + stream % 2 ^ 16 * 2 ^ 32 + index % 2 ^ 32) key
  let s := (List.range 8).foldl (fun a i => a + x / 2 ^ (8 * i) % 256) 0
  opF fp32 rne (mulV (ofIntV ((s : Int) - 1020)) (decF fp32 0x3B9CC4CD))

/-- The ε alone (R312, R318). -/
def stippleEps (member stream index key : Nat) : Nat := (epsOf member stream index key).1

/-- The perturbed weight from mean and σ (R312): rne32(mu + rne32(sigma × eps)). -/
def stippleWeight (mu sigma eps : Nat) : Nat × Nat :=
  let (p, f1) := mul32 sigma eps
  let (w, f2) := add32 mu p
  (w, f1 ||| f2)

end Sys2Proof.Machine
end

