-- ==== Sys2Proof/Machine/Operands.lean ====
section
/-! DEFINITION. Contexts, registers and operands: where the named registers lie (R122, R130, R205), reading and writing
them under the region rules (R131-R135), the latch and the guard (R136). -/

namespace Sys2Proof.Machine

/-- Fault codes (R215). -/
def fcILLEGAL : Nat := 0x01
def fcPRIV : Nat := 0x02
def fcHAZARD : Nat := 0x03
def fcBADTARGET : Nat := 0x04
def fcALIGN : Nat := 0x05
def fcSTRADDLE : Nat := 0x06
def fcUNMAPPED : Nat := 0x07
def fcWINDOW : Nat := 0x08
def fcPAGE : Nat := 0x09
def fcPROTECT : Nat := 0x0A
def fcPOISON : Nat := 0x0C
def fcSTAGINGFULL : Nat := 0x0D
def fcTEMPLATE : Nat := 0x0E
def fcBCOVER : Nat := 0x0F
def fcARITH : Nat := 0x10
def fcTRAP : Nat := 0x11
def fcDESC : Nat := 0x12
def fcPEER : Nat := 0x13
def fcTIMEOUT : Nat := 0x14

/-- Why an instruction does not complete now: it takes a precise fault, or it waits in the given state and is
executed again. -/
inductive Stop where
  | trap (t : Trap)
  | stall (s : State)
  deriving DecidableEq, Repr

/-- A part of an instruction's execution. -/
abbrev Try (α : Type) := Except Stop α

/-- Take a precise fault of a code. -/
def fault {α : Type} (code : Nat) : Try α := .error (.trap { code := code })

/-- Take a precise fault with its data address (R196). -/
def faultAt {α : Type} (code : Nat) (addr : Word) (element : Nat := 0) : Try α :=
  .error (.trap { code := code, addr := addr, element := element })

/-- Wait in a state. -/
def stall {α : Type} (s : State) : Try α := .error (.stall s)

/-- Take a fault unless a condition holds. -/
def require (b : Bool) (code : Nat) : Try Unit := if b then .ok () else fault code

/-- Take a fault with an address unless a condition holds. -/
def requireAt (b : Bool) (code : Nat) (addr : Word) : Try Unit := if b then .ok () else faultAt code addr

/-- The context that runs on a hardware context. -/
def State.ctx? (s : State) (k : CtxKey) : Option Ctx := s.ctxs.find? fun c => c.key == k && !c.stopped

/-- The context of a task's rank, running or stopped. -/
def State.member? (s : State) (task rank : Nat) : Option Ctx := s.ctxs.find? fun c => c.task == task && c.rank == rank

/-- Two records of one context: the same task and rank. -/
def Ctx.same (c d : Ctx) : Bool := c.task == d.task && c.rank == d.rank

/-- Replace a context's record. -/
def State.setCtx (s : State) (c : Ctx) : State := { s with ctxs := s.ctxs.map fun d => if d.same c then c else d }

/-- The present record of a context, which is its last one if it has left. -/
def State.again (s : State) (c : Ctx) : Ctx := (s.member? c.task c.rank).getD c

/-- Change the record of a context. -/
def State.updCtx (s : State) (c : Ctx) (f : Ctx → Ctx) : State :=
  { s with ctxs := s.ctxs.map fun d => if d.same c then f d else d }

/-- A tile; one that is not listed is at reset. -/
def State.tile (s : State) (n : Nat) : Tile := (s.tiles.find? fun t => t.num == n).getD { num := n }

/-- Replace a tile's record. -/
def State.setTile (s : State) (t : Tile) : State :=
  if s.tiles.any fun u => u.num == t.num then { s with tiles := s.tiles.map fun u => if u.num == t.num then t else u }
  else { s with tiles := s.tiles ++ [t] }

/-- Change a tile's record. -/
def State.updTile (s : State) (n : Nat) (f : Tile → Tile) : State := s.setTile (f (s.tile n))

/-- A task by its number in the table. -/
def State.task? (s : State) (n : Nat) : Option Task := s.tasks.find? fun t => t.num == n

/-- Change a task's record. -/
def State.updTask (s : State) (n : Nat) (f : Task → Task) : State :=
  { s with tasks := s.tasks.map fun t => if t.num == n then f t else t }

/-- A fresh number. -/
def State.fresh (s : State) : Nat × State := (s.seq, { s with seq := s.seq + 1 })

/-- Two ranges of start and length overlap. -/
def rangesMeet (a n b m : Nat) : Bool := a < b + m && b < a + n && n != 0 && m != 0

/-- A range meets one of a list. -/
def meetsAny (l : List (Nat × Nat)) (a n : Nat) : Bool := l.any fun r => rangesMeet r.1 r.2 a n

/-- View bases (R140). -/
def Ctx.sbase (c : Ctx) : Nat := bitsOf c.viewb.toNat 15 0
def Ctx.pbase (c : Ctx) : Nat := bitsOf c.viewb.toNat 31 16
def Ctx.vbase (c : Ctx) : Nat := bitsOf c.viewb.toNat 47 32
def Ctx.abase (c : Ctx) : Nat := bitsOf c.viewb.toNat 63 48

/-- A view register that R140 accepts (R122). -/
def viewOk (w : Word) : Bool :=
  let a := bitsOf w.toNat 63 48; let v := bitsOf w.toNat 47 32; let p := bitsOf w.toNat 31 16; let t := bitsOf w.toNat 15 0
  a % 0x1000 == 0 && a ≤ 0x4000 && v % 0x100 == 0 && v ≤ 0x5000 && p % 8 == 0 && p ≤ 0x7F80 && t % 8 == 0 && t ≤ 0x7E00

/-- First byte of the operand file (R130), the handler bank (R205) and the supervisor bank (R206) in the register file. -/
def opFileBase : Nat := 0x8000
def handlerBase : Nat := 0x8800
def supervisorBase : Nat := 0x8840

/-- Where s n lies: in the s-view, or in the bank selected for s56 to s63 (R122, R205, R206). A context that the firmware starts in supervisor mode
uses the supervisor bank too, though it has not entered by R206: DESIGN CHOICE, log entry 109. -/
def Ctx.sloc (c : Ctx) (n : Nat) : Nat :=
  if 56 ≤ n ∧ c.supervisor then supervisorBase + 8 * (n - 56)
  else if 56 ≤ n ∧ c.uleActive then handlerBase + 8 * (n - 56)
  else c.sbase + 8 * n

/-- Where v n, p n, a n and o n lie (R122, R130). -/
def Ctx.vloc (c : Ctx) (n : Nat) : Nat := c.vbase + 256 * n
def Ctx.ploc (c : Ctx) (n : Nat) : Nat := c.pbase + 8 * n
def Ctx.aloc (c : Ctx) (n : Nat) : Nat := c.abase + 4096 * n
def oloc (n : Nat) : Nat := opFileBase + 256 * n

/-- The first register byte an operand names, if it names any. -/
def Ctx.loc (c : Ctx) : Operand → Option Nat
  | .v n => some (c.vloc n)
  | .p n => some (c.ploc n)
  | .s n => some (c.sloc n)
  | .a n => some (c.aloc n)
  | .o n => some (oloc n)
  | .latch => none
  | .const _ => none

/-- The matrix commands of a context that have not finished (R300), those that a stop has put aside among them (R320). -/
def State.mxOf (s : State) (c : Ctx) : List MxCmd :=
  ((s.tile c.key.tile).mq ++ (s.tile c.key.tile).mqSaved).filter fun m => m.task == c.task && m.rank == c.rank

/-- Register bytes that a matrix command has still to read (R134). -/
def State.readPending (s : State) (c : Ctx) : List (Nat × Nat) := (s.mxOf c).flatMap fun m => m.reads

/-- A read of register bytes: HAZARD where a byte is pending (R133). -/
def readRf (c : Ctx) (a n : Nat) : Try (List Byte) := do
  require (!meetsAny c.pending a n && !meetsAny c.pendingMx a n) fcHAZARD
  return c.rf.read a n

/-- Ranges of the window stores made in the region (R135). -/
def Ctx.winRanges (c : Ctx) : List (Nat × Nat) := c.winStores.map fun w => (w.1, w.2.length)

/-- The kind of an outstanding result of a matrix command: the model's own, beside the delivery kinds of R114. -/
def mxKind : Nat := 0x10

/-- A later write replaces register bytes that an outstanding result would write (R134). -/
def Token.lose (t : Token) (cells : List (Nat × Byte)) : Token :=
  { t with
    cells := t.cells.filter fun x => !(cells.any fun y => y.1 == x.1)
    dead := cells.map (fun x => x.1) ++ t.dead }

/-- Write single register bytes: the newest value of each stands against results that return later (R134). -/
def Ctx.putCells (c : Ctx) (cells : List (Nat × Byte)) : Ctx :=
  { c with
    rf := cells.foldl (fun m x => m.set x.1 x.2) c.rf
    outstanding := c.outstanding.map fun t => t.lose cells }

/-- HAZARD of a direct write to register bytes (R134, R135). -/
def writeHazard (s : State) (c : Ctx) (a n : Nat) : Try Unit := do
  require (!meetsAny c.winRanges a n) fcHAZARD
  require (!(meetsAny (s.readPending c) a n && meetsAny c.readPend a n)) fcHAZARD

/-- A direct write to register bytes: HAZARD where a byte was stored through the window earlier in the region (R135) or has
still to be read by a matrix command of the region (R134); it waits for one of an earlier region. The whole destination becomes
pending (R133). -/
def writeRf (s : State) (c : Ctx) (a n : Nat) (cells : List (Nat × Byte)) : Try Ctx := do
  writeHazard s c a n
  if meetsAny (s.readPending c) a n then stall s
  return { c.putCells cells with pending := (a, n) :: c.pending }

/-- Consecutive cells. -/
def cellsAt (a : Nat) : List Byte → List (Nat × Byte)
  | [] => []
  | b :: r => (a, b) :: cellsAt (a + 1) r

/-- Some result still writes into a range of registers. -/
def Ctx.awaits (c : Ctx) (a n : Nat) : Bool :=
  c.outstanding.any fun t => (t.cells.any fun x => a ≤ x.1 && x.1 < a + n) ||
    (t.locs.any fun l => a ≤ l && l < a + n && !t.dead.contains l) ||
    t.spans.any fun r => (List.range n).any fun i => r.1 ≤ a + i && a + i < r.1 + r.2 && !t.dead.contains (a + i)

/-- The latch of a destination of 8 or 256 bytes (R131), and what it still waits for. -/
def Ctx.latchOf (c : Ctx) (a n : Nat) : Latch :=
  if n ≤ 8 then .w8 (BitVec.ofNat 64 (c.rf.num a n)) else .w256 (BitVec.ofNat 2048 (c.rf.num a n))

/-- Set the latch to a destination's full value. -/
def Ctx.setLatch (c : Ctx) (a n : Nat) : Ctx :=
  { c with latch := c.latchOf a n, latchTok := if c.awaits a n then some (a, n) else none }

/-- Empty the latch. -/
def Ctx.clearLatch (c : Ctx) : Ctx := { c with latch := .empty, latchTok := none }

/-- Set the latch to 8 bytes that no register holds. -/
def Ctx.latch8 (c : Ctx) (x : Word) : Ctx := { c with latch := .w8 x, latchTok := none }

/-- The guard mask (R136): p0 reads as all ones. -/
def readGuard (c : Ctx) (h : Common) : Try Word :=
  if h.pred = 0 then .ok (if h.inv then 0 else BitVec.allOnes 64)
  else do
    let b ← readRf c (c.ploc h.pred) 8
    let p := BitVec.ofNat 64 (numOf b)
    return if h.inv then ~~~p else p

/-- The 64-bit value of an operand: s, p, the low 8 bytes of an operand-file entry, an 8-byte latch, a constant
sign-extended (R82). -/
def readVal (c : Ctx) : Operand → Try Word
  | .const k => .ok (k.signExtend 64)
  | .latch => match c.latch with
    | .w8 x => .ok x
    | _ => fault fcILLEGAL
  | .p n => if n = 0 then .ok (BitVec.allOnes 64) else do
    let b ← readRf c (c.ploc n) 8
    return BitVec.ofNat 64 (numOf b)
  | .s n => do
    let b ← readRf c (c.sloc n) 8
    return BitVec.ofNat 64 (numOf b)
  | .o n => do
    let b ← readRf c (oloc n) 8
    return BitVec.ofNat 64 (numOf b)
  | .v _ => fault fcILLEGAL
  | .a _ => fault fcILLEGAL

/-- The first k bytes of a word, repeated to n elements. -/
def spread (w : Nat) (x : Nat) (n : Nat) : List Nat := List.replicate n (x % 2 ^ w)

/-- The elements of w bits of a vector value of 256 bytes, from element 0 on (R51). -/
def splitElems (w : Nat) (x : Nat) (n : Nat) : List Nat := (List.range n).map fun i => x / 2 ^ (w * i) % 2 ^ w

/-- The elements of a lane-class source: a v register, an operand-file entry or a 256-byte latch element by element; an s
register or an 8-byte latch broadcast to every lane; a constant to every element (R81, R82). -/
def readElems (c : Ctx) (w : Nat) (o : Operand) : Try (List Nat) :=
  let n := 2048 / w
  match o with
  | .v k => do
    let b ← readRf c (c.vloc k) 256
    return splitElems w (numOf b) n
  | .o k => do
    let b ← readRf c (oloc k) 256
    return splitElems w (numOf b) n
  | .latch => match c.latch with
    | .w256 x => .ok (splitElems w x.toNat n)
    | .w8 x => .ok (spread w x.toNat n)
    | .empty => fault fcILLEGAL
  | .const k => .ok (spread w (k.signExtend 64).toNat n)
  | o => do
    let x ← readVal c o
    return spread w x.toNat n

/-- Does an operand read the latch? -/
def Operand.isLatch (o : Operand) : Bool := o == .latch

/-- Check 5 of R88 and the reading rules of R131: an empty latch is ILLEGAL, as is a 256-byte latch in a uniform
instruction; a latch whose result has not returned stalls. -/
def latchReady (s : State) (c : Ctx) (lane : Bool) (ops : List Operand) : Try Unit :=
  if ops.any Operand.isLatch then
    match c.latch with
    | .empty => fault fcILLEGAL
    | .w256 _ => if lane then (if c.latchTok.isSome then stall s else .ok ()) else fault fcILLEGAL
    | .w8 _ => if c.latchTok.isSome then stall s else .ok ()
  else .ok ()

/-- The width in bytes of an operand as a destination of its class (R82, R131). -/
def destLen (lane : Bool) : Operand → Nat
  | .v _ => 256
  | .a _ => 4096
  | .o _ => if lane then 256 else 8
  | _ => 8

/-- HAZARD of a destination, before anything else is looked at (R189). -/
def destHazard (s : State) (c : Ctx) (o : Operand) (n : Nat) : Try Unit :=
  match o, c.loc o with
  | .p 0, _ => .ok ()
  | _, some a => writeHazard s c a n
  | _, none => .ok ()

/-- Write an 8-byte result to an s or p register or an operand-file entry, and leave it in the latch; a result for p0 is
discarded (R77, R131). -/
def writeVal (s : State) (c : Ctx) (o : Operand) (x : Word) : Try Ctx :=
  match o with
  | .p 0 => .ok (c.latch8 (BitVec.allOnes 64))
  | o => match c.loc o with
    | none => fault fcILLEGAL
    | some a => do
      let c ← writeRf s c a 8 (cellsAt a (bytesOf 8 x.toNat))
      return c.setLatch a 8

/-- A result field that is zero names no result (R263). -/
def noResult (o : Operand) : Bool := o == Operand.zero

/-- Write a result, or none where the field is zero: the latch is then empty (R131, R263). -/
def writeOpt (s : State) (c : Ctx) (o : Operand) (x : Word) : Try Ctx := if noResult o then .ok c.clearLatch else writeVal s c o x

/-- The destination that a failed guard leaves unchanged: none where the result field is zero (R131, R263). -/
def resultOf (o : Operand) : Option Operand := if noResult o then none else some o

/-- The latch after a guard that failed: the destination's unchanged value (R131). -/
def latchUnchanged (c : Ctx) (lane : Bool) (o : Operand) : Ctx :=
  match o with
  | .p 0 => c.latch8 (BitVec.allOnes 64)
  | o => match c.loc o with
    | none => c.clearLatch
    | some a => c.setLatch a (destLen lane o)

/-- The cells of the elements that the guard enables: element e of w bits belongs to lane e divided by the elements of a
lane (R136). -/
def enabledCells (a w : Nat) (g : Word) (xs : List Nat) : List (Nat × Byte) :=
  (xs.zipIdx.filter fun x => g.getLsbD (x.2 / (32 / w))).flatMap fun x =>
    cellsAt (a + x.2 * (w / 8)) (bytesOf (w / 8) x.1)

/-- Write a lane result: enabled elements only, the whole destination pending and in the latch (R131, R133, R136). -/
def writeElems (s : State) (c : Ctx) (o : Operand) (w : Nat) (g : Word) (xs : List Nat) : Try Ctx :=
  match c.loc o with
  | none => fault fcILLEGAL
  | some a => do
    let c ← writeRf s c a 256 (enabledCells a w g xs)
    return c.setLatch a 256

/-- Write a mask result of a lane-class compare: a disabled lane keeps its old bit (R136). The latch has the mask's 8 bytes, also where the
destination is an operand-file entry, for which R131 has 256 bytes of a lane result: DESIGN CHOICE, log entry 108. -/
def writeMask (s : State) (c : Ctx) (o : Operand) (g : Word) (m : Word) : Try Ctx :=
  match o with
  | .p 0 => .ok (c.latch8 (BitVec.allOnes 64))
  | o => match c.loc o with
    | none => fault fcILLEGAL
    | some a =>
      if c.awaits a 8 && g != BitVec.allOnes 64 then stall s
      else
        let old := BitVec.ofNat 64 (c.rf.num a 8)
        writeVal s c o ((m &&& g) ||| (old &&& ~~~g))

/-- Bytes of a register range whatever is pending: for what reads under rules of its own. -/
def Ctx.peek (c : Ctx) (a n : Nat) : List Byte := c.rf.read a n

end Sys2Proof.Machine
end

