-- ==== Sys2Proof/Machine/Staging.lean ====
section
/-! DEFINITION. The step rule: what a party's read returns, how a write is held and climbs, reduce-writes, conflicts, commitment,
the staging pools (R27-R46). -/

namespace Sys2Proof.Machine

/-- Reduction kinds: the operation and the element format (R224); the bitwise kinds are one for every width. -/
def redKind (op fmt : Nat) : Nat := if 5 ≤ op then op * 64 else op * 64 + fmt

/-- The format number of INT64 in a reduction kind: the spec's codes name none. -/
def fmtI64 : Nat := 63

/-- The kind, element width in bytes, of an XRED code (R246). -/
def xredKind (code : Nat) : Nat × Nat :=
  match code with
  | 0x00 => (redKind 1 11, 4)
  | 0x01 => (redKind 1 fmtI64, 8)
  | 0x02 => (redKind 3 11, 4)
  | 0x03 => (redKind 4 11, 4)
  | 0x04 => (redKind 3 fmtI64, 8)
  | 0x05 => (redKind 4 fmtI64, 8)
  | 0x06 => (redKind 5 0, 4)
  | 0x07 => (redKind 6 0, 4)
  | 0x08 => (redKind 7 0, 4)
  | 0x09 => (redKind 5 0, 8)
  | 0x0A => (redKind 6 0, 8)
  | 0x0B => (redKind 7 0, 8)
  | 0x0C => (redKind 2 1, 4)
  | 0x0D => (redKind 2 2, 2)
  | 0x0E => (redKind 2 3, 2)
  | 0x0F => (redKind 3 1, 4)
  | _ => (redKind 4 1, 4)

/-- Does an integer kind compare unsigned (R224)? -/
def redUnsigned (fmt : Nat) : Bool := fmt == 9

/-- An integer minimum or maximum on w bits. -/
def minMaxInt (unsigned isMax : Bool) (w x y : Nat) : Nat :=
  let less : Bool := if unsigned then decide (x < y) else decide (signedOf w x < signedOf w y)
  if less != isMax then x else y

/-- combine(kind, v, c) on elements of w bits (R41, R224). -/
def combineRed (kind w v c : Nat) : Nat :=
  let op := kind / 64
  let fmt := kind % 64
  match op with
  | 1 => (v + c) % 2 ^ w
  | 2 => match fmtFloat fmt with
    | some f => (opF f rne (addV 0 (decF f v) (decF f c))).1
    | none => c
  | 3 => match fmtFloat fmt with
    | some f => (minMaxF f false v c).1
    | none => minMaxInt (redUnsigned fmt) false w v c
  | 4 => match fmtFloat fmt with
    | some f => (minMaxF f true v c).1
    | none => minMaxInt (redUnsigned fmt) true w v c
  | 5 => Nat.land v c
  | 6 => Nat.lor v c
  | _ => Nat.xor v c

/-- The context's party (R27). -/
def Ctx.party (c : Ctx) : Party := { task := c.task, rank := c.rank }

/-- Who reads: a party, on a tile, with the byte-count phases it has observed. -/
structure Reader where
  party : Party
  tile : Nat
  observed : List (Nat × Nat)
  deriving DecidableEq, Repr

/-- The context as a reader, or its loop-back agent. -/
def Ctx.reader (c : Ctx) (loopback : Bool) : Reader :=
  { party := { c.party with loopback := loopback }, tile := c.key.tile, observed := c.observed }

/-- The bytes of a staged write lie in a byte-count delivery that the reader has observed (R34). -/
def Reader.delivered (r : Reader) (e : Staged) : Bool :=
  match e.bc with
  | some (rec, _, ph) => ph != 0 && tileOfKey rec == r.tile && isLocal e.key && tileOfKey e.key == r.tile &&
      r.observed.any fun o => o.1 == rec && ph ≤ o.2
  | none => false

/-- A reader sees a staged write: its own; one whose step has ended in the smallest scope that encloses both; or, as a context, an
observed delivery (R29, R32, R34). A tile's loop-back agent sees none of the writes that passed through it (R40), nor before the step's end what
its task's context wrote privately. -/
def Reader.sees (r : Reader) (e : Staged) : Bool :=
  !(r.party.loopback && e.party.loopback && e.tile == r.tile) &&
  (e.party == r.party || (e.pool == 9 && !(r.party.loopback && e.party.task == r.party.task)) ||
   (e.party.task == r.party.task && e.party.pkg.isNone && encScope e.tile r.tile ≤ e.vis) ||
   (!r.party.loopback && r.delivered e))

/-- A staged write covers a location. -/
def Staged.covers (e : Staged) (k : Nat) : Bool := e.key ≤ k && k < e.key + e.bytes.length

/-- Two staged writes share a byte. -/
def Staged.meets (e f : Staged) : Bool := rangesMeet e.key e.bytes.length f.key f.bytes.length

/-- The counter, at a level, of the step a staged write belongs to. -/
def Staged.step (e : Staged) (level : Nat) : Option Nat := e.steps[level - 1]?

/-- The smallest scope that encloses two writers. -/
def Staged.scope (e f : Staged) : Nat := if e.party.pkg == f.party.pkg then encScope e.tile f.tile else 5

/-- Two staged writes fall in one step of the smallest scope that encloses their writers (R38). -/
def Staged.sameStep (e f : Staged) : Bool :=
  let m := e.scope f
  match e.step m, f.step m with
  | some a, some b => a == b
  | _, _ => false

/-- The package and rank order of two writers. Within this package alone no package is named; a pod step names each (R387). -/
def Party.key (p : Party) : Nat := p.pkg.getD 0 * 2 ^ 16 + p.rank

/-- Two staged writes are one party's: a context's, or made through the loop-back agent of one tile (R27). -/
def Staged.sameParty (e f : Staged) : Bool :=
  e.party.task == f.party.task && e.party.pkg == f.party.pkg && e.party.loopback == f.party.loopback &&
  (if e.party.loopback then e.tile == f.tile else e.party.rank == f.party.rank)

/-! ### The order in which writes apply -/

/-- A step's counter comes before another's; counters wrap (R252). -/
def counterBefore (a b : Nat) : Bool := let d := (b + 2 ^ 32 - a) % 2 ^ 32; 0 < d && d < 2 ^ 31

/-- A write's step of a level is not after another's. A write whose step has yet to begin comes last (R31). -/
def Staged.stepLe (level : Nat) (e f : Staged) : Bool :=
  match e.step level, f.step level with
  | some a, some b => !counterBefore b a
  | none, some _ => false
  | _, none => true

/-- Cut writes, ordered by their steps of a level, at the ends of those steps. -/
def stepRuns (level : Nat) : List Staged → List (List Staged)
  | [] => []
  | e :: r =>
    match stepRuns level r with
    | (f :: g) :: more => if e.step level == f.step level then (e :: f :: g) :: more else [e] :: (f :: g) :: more
    | rest => [e] :: rest

/-- The writers of some writes lie in one unit of a level; at level 0 they are one party. -/
def oneUnit (level : Nat) : List Staged → Bool
  | [] => true
  | e :: r => r.all fun f =>
      if level = 0 then e.sameParty f
      else e.party.pkg == f.party.pkg && (level ≥ 4 || unitOf level e.tile == unitOf level f.tile)

/-- The writes to one location in the order in which they apply (R38, R41, R42), given in the order in which they were made. The steps of a
level follow one another. Within a step whose writers one unit of the level below encloses, that unit's steps follow one another; else the
step is of the smallest scope that encloses its writers, and contributions of several parties go by rank. Log entry 87. -/
def orderLoc : Nat → List Staged → List Staged
  | 0, es => es
  | n + 1, es => (stepRuns (n + 1) (sortBy (Staged.stepLe (n + 1)) es)).flatMap fun g =>
      if oneUnit n g then orderLoc n g
      else if g.all fun e => e.kind.isSome then sortBy (fun e f => e.party.key ≤ f.party.key) g else g

/-- Replace the bytes of a buffer from an offset on, as far as they lie in it. -/
def overlay (lo : Nat) (buf : List Byte) (k : Nat) (bs : List Byte) : List Byte :=
  buf.zipIdx.map fun x => if k ≤ lo + x.2 ∧ lo + x.2 < k + bs.length then bs.getD (lo + x.2 - k) x.1 else x.1

/-- Apply a staged write to a buffer that starts at lo. -/
def applyStaged (lo : Nat) (buf : List Byte) (e : Staged) : List Byte :=
  match e.kind with
  | none => overlay lo buf e.key e.bytes
  | some kind =>
    if lo ≤ e.key ∧ e.key + e.bytes.length ≤ lo + buf.length then
      let n := e.bytes.length
      let old := numOf ((buf.drop (e.key - lo)).take n)
      overlay lo buf e.key (bytesOf n (combineRed kind (8 * n) old (numOf e.bytes)))
    else buf

/-- Widen a range until it holds every contribution's element that it meets. -/
def growLoc : Nat → List Staged → Nat × Nat → Nat × Nat
  | 0, _, w => w
  | n + 1, es, w =>
    let v := es.foldl (fun (v : Nat × Nat) e =>
      if e.kind.isSome && rangesMeet e.key e.bytes.length v.1 (v.2 - v.1) then (min v.1 e.key, max v.2 (e.key + e.bytes.length)) else v) w
    if v = w then w else growLoc n es v

/-- The location that a byte belongs to (R42): elements of contributions that overlap are one, a byte of plain writes alone is one by
itself. Its first byte and its end. -/
def locationOf (es : List Staged) (k : Nat) : Nat × Nat := growLoc es.length es (k, k + 1)

/-- A byte after some writes, from what it held before them (R29, R38, R41). -/
def valueAt (base : Nat → Byte) (es : List Staged) (k : Nat) : Byte :=
  let w := locationOf es k
  let ws := es.filter fun e => rangesMeet e.key e.bytes.length w.1 (w.2 - w.1)
  if ws.isEmpty then base k
  else ((orderLoc 5 ws).foldl (applyStaged w.1) ((List.range (w.2 - w.1)).map fun i => base (w.1 + i))).getD (k - w.1) 0

/-- The committed byte as a task reads it: what a host write replaced stays until the task's next top-level step has
ended (R35). -/
def baseByte (m : Mem) (host : List HostOld) (task k : Nat) : Byte :=
  match host.find? fun h => h.task == task && h.key == k with
  | some h => h.old
  | none => m.get k

/-- n bytes at a location, as a reader sees them in an image (R29, R41). -/
def Snapshot.view (im : Snapshot) (r : Reader) (k n : Nat) : List Byte :=
  let seen := im.staged.filter fun e => r.sees e
  let w := growLoc seen.length seen (k, k + n)
  let es := seen.filter fun e => rangesMeet e.key e.bytes.length w.1 (w.2 - w.1)
  (List.range n).map fun i => valueAt (baseByte im.mem im.host r.party.task) es (k + i)

/-- Memory and staging at this moment. -/
def State.now (s : State) : Snapshot := { mem := s.mem, staged := s.staged, host := s.hostOld, seq := s.seq }

/-- The image that a context's reads use: between an ARRIVE and the end of its WAITS, that of the step being ended, with the context's
own later writes and the deliveries that it observes (R29, R31, R34). -/
def State.image (s : State) (c : Ctx) : Snapshot :=
  match c.frozen with
  | none => s.now
  | some f =>
    { f with staged := f.staged ++ s.staged.filter fun e =>
        f.seq ≤ e.seq && (e.party == c.party || (c.reader false).delivered e) }

/-- A read by a context, or by its loop-back agent. -/
def State.readAs (s : State) (c : Ctx) (loopback : Bool) (k n : Nat) : List Byte :=
  (s.image c).view (c.reader loopback) k n

/-- Does a task belong to a pod domain? -/
def State.podTask (s : State) (task : Nat) : Bool :=
  match s.task? task with
  | some t => t.blk.pod.isSome
  | none => false

/-- A task's top level (R28). -/
def State.topLevel (s : State) (task : Nat) : Nat :=
  match s.task? task with
  | some t => if t.blk.pod.isSome then 5 else rectLevel t.origin t.blk.w t.blk.h
  | none => 1

/-- The context's domain number at a level (R248). -/
def Ctx.domId (c : Ctx) (level : Nat) : Nat := c.stepdom.toNat / 2 ^ (4 * (level - 1)) % 16

/-- The context has a domain at a level (R248). -/
def Ctx.bound (c : Ctx) (level : Nat) : Bool := 1 ≤ level && level ≤ 5 && bitAt c.stepdom.toNat (23 + level)

/-- A domain by level, unit and number. -/
def State.domain? (s : State) (level unit id : Nat) : Option Domain :=
  s.domains.find? fun d => d.level == level && d.unit == unit && d.id == id

/-- The context's domain at a level. -/
def State.domOf (s : State) (c : Ctx) (level : Nat) : Option Domain :=
  if c.bound level then s.domain? level (unitOf level c.key.tile) (c.domId level) else none

/-- The counters of the context's five domains; 0 where it has none. -/
def State.countersOf (s : State) (c : Ctx) : List Nat :=
  [1, 2, 3, 4, 5].map fun l => ((s.domOf c l).map fun d => d.counter).getD 0

/-- The steps to which a write made now belongs: none yet while an arrival is outstanding and its step has not completed
(R31). -/
def State.stepsOf (s : State) (c : Ctx) : List Nat :=
  match c.arrival with
  | some { level := _, sent := _, sync := _, done := none } => []
  | _ => s.countersOf c

/-- The pool a unit of which a staged write of a pool is charged to. -/
def poolUnit (pool tile : Nat) : Nat := unitOf pool tile

/-- A reduction kind of floating-point elements (R43). -/
def floatKind (kind : Nat) : Bool := 2 ≤ kind / 64 && kind / 64 ≤ 4 && (fmtFloat (kind % 64)).isSome

/-- What one entry of a pool holds (R43). A page entry of the package pool holds every write of one step to its page. A line entry holds the
plain writes of one step of the pool's unit to its line, or the integer contributions, or one context's floating-point contributions. -/
def Staged.entryKey (e : Staged) (pool : Nat) : Nat × Nat × Nat × Option Nat :=
  let step := e.step (if pool = 4 ∧ e.vis = 4 then 5 else pool)
  if pool = 4 then (e.key / 65536, 0, e.party.task, step)
  else
    let cls := match e.kind with
      | none => 0
      | some k => if floatKind k then 2 + e.party.rank else 1
    (e.key / 64, cls, e.party.task, step)

/-- The entries of a pool of a unit in use. -/
def State.poolUsed (s : State) (pool unit : Nat) : Nat :=
  ((s.staged.filter fun e => e.pool == pool && poolUnit pool e.tile == unit).map fun e => e.entryKey pool).dedup.length

/-- Pages that pod shadows occupy in the package pool (R37, R43). -/
def State.shadowPages (s : State) : Nat := s.fab.shadows.length

/-- Entries a pool can hold (R43, R46). -/
def State.poolCap (s : State) (pool : Nat) : Nat :=
  match pool with
  | 1 => 4096
  | 2 => 16384
  | 3 => 524288
  | _ => min (s.regs.stagesize * 16384) ((2 ^ 39 - s.regs.stagebase * 2 ^ 30) / 65536)

/-- Pages of the package pool in use: STAGECFG.used (R46). -/
def State.stageUsed (s : State) : Nat := s.poolUsed 4 0 + s.shadowPages

/-- Can a pool take a staged write: it shares an entry, or an entry is free? -/
def State.poolTakes (s : State) (pool : Nat) (e : Staged) : Bool :=
  let u := poolUnit pool e.tile
  (s.staged.any fun f => f.pool == pool && poolUnit pool f.tile == u && f.entryKey pool == e.entryKey pool) ||
  (if pool = 4 then s.stageUsed else s.poolUsed pool u) < s.poolCap pool

/-- The first pool, from a level up, that can take a staged write; 0 when the package pool cannot (R44, R45). -/
def State.findPool (s : State) (e : Staged) : Nat → Nat
  | 1 => if s.poolTakes 1 e then 1 else if s.poolTakes 2 e then 2 else if s.poolTakes 3 e then 3 else if s.poolTakes 4 e then 4 else 0
  | 2 => if s.poolTakes 2 e then 2 else if s.poolTakes 3 e then 3 else if s.poolTakes 4 e then 4 else 0
  | 3 => if s.poolTakes 3 e then 3 else if s.poolTakes 4 e then 4 else 0
  | _ => if s.poolTakes 4 e then 4 else 0

/-- The level at which a write next becomes visible: the lowest above those it has reached, but a task with one context per tile
does not wait at tile level for its own local memory or plate (R32, R43). -/
def State.chargeLevel (s : State) (e : Staged) : Nat :=
  let one := match s.task? e.party.task with
    | some t => t.blk.k == 1
    | none => true
  if e.vis == 0 && one && (isLocal e.key || isPlate e.key) && !e.party.loopback then (if e.top ≤ 1 then 9 else 2) else e.vis + 1

/-- A staged write by a context as it enters staging. -/
def State.mkStaged (s : State) (c : Ctx) (loopback : Bool) (k : Nat) (addr : Word) (bs : List Byte) (kind : Option Nat)
    (bc : Option (Nat × Nat × Nat)) (steps : List Nat) : Staged :=
  { key := k, bytes := bs, kind := kind, party := { c.party with loopback := loopback }, tile := c.key.tile, vis := 0,
    steps := steps, addr := addr, seq := s.seq, pool := 0, top := min (s.topLevel c.task) (reachLevel k (s.podTask c.task)), bc := bc }

/-- Enter staged writes into memory itself (R32). -/
def commitAll (m : Mem) (es : List Staged) : Mem :=
  es.foldl (fun acc e => (List.range e.bytes.length).foldl (fun acc i => acc.set (e.key + i) (valueAt m.get es (e.key + i))) acc) m

/-- Between an ARRIVE and the end of its WAITS a context goes on seeing, beside the image of the step being ended, what it wrote since and the
byte-count deliveries made since, also once they have entered memory (R31, R34). -/
def keepFrozen (es : List Staged) (cs : List Ctx) : List Ctx :=
  cs.map fun c => match c.frozen with
    | none => c
    | some f =>
      let late := es.filter fun e => f.seq ≤ e.seq && (e.party == c.party || e.bc.isSome)
      { c with frozen := some { f with staged := f.staged ++ late.map fun e => { e with vis := 0 } } }

/-- Append a staged write, charged to a pool (R43, R44); pool 0 where none can take it. A write to a plate slice that never waits enters memory
(R32). -/
def State.enterStaging (s : State) (e : Staged) : State :=
  let l := s.chargeLevel e
  if l = 9 ∧ isPlate e.key then
    let e := { e with seq := s.seq }
    { s with mem := commitAll s.mem [e], seq := s.seq + 1, ctxs := keepFrozen [e] s.ctxs }
  else
  let p := if l = 9 then 9 else s.findPool e l
  { s with staged := s.staged ++ [{ e with seq := s.seq, pool := p }], seq := s.seq + 1,
           spills := if p = l ∨ p = 0 then s.spills else s.spills + 1 }

/-- The package pool has no room for a write of these bytes (R45). -/
def State.stagingFull (s : State) (e : Staged) : Bool :=
  let l := s.chargeLevel e
  l != 9 && s.findPool e l == 0

/-- A context's write: staged under the step rule (R29, R32). -/
def State.putStaged (s : State) (c : Ctx) (loopback : Bool) (k : Nat) (addr : Word) (bs : List Byte) (kind : Option Nat)
    (bc : Option (Nat × Nat × Nat)) : State :=
  if bs.isEmpty then s else s.enterStaging (s.mkStaged c loopback k addr bs kind bc (s.stepsOf c))

/-- Remove single bytes from a plain staged write: the runs that stay. -/
def splitRuns (k : Nat) (bs : List Byte) (dead : Nat → Bool) : List (Nat × List Byte) :=
  match bs with
  | [] => []
  | b :: r =>
    let rest := splitRuns (k + 1) r dead
    if dead k then rest
    else match rest with
      | (k', bs') :: more => if k' = k + 1 then (k, b :: bs') :: more else (k, [b]) :: rest
      | [] => [(k, [b])]

/-- Two writes of one location that conflict: different parties, one step of their scope, not contributions of one kind (R38, R41,
R42). Two plain writes conflict at the bytes they share. -/
def Staged.conflicts (level : Nat) (e f : Staged) : Bool :=
  !e.sameParty f && e.scope f ≤ level && e.sameStep f && !(e.kind.isSome && e.kind == f.kind) &&
  (e.kind.isSome || f.kind.isSome || e.meets f)

/-- The writer of lower rank; the context before its own loop-back agent (R39). -/
def Staged.ranksBelow (e f : Staged) : Bool :=
  e.party.key < f.party.key || (e.party.key == f.party.key && !e.party.loopback && f.party.loopback)

/-- The lowest-ranked of some writes. -/
def lowestRanked : List Staged → Option Staged
  | [] => none
  | e :: r => match lowestRanked r with
    | none => some e
    | some f => if f.ranksBelow e then some f else some e

/-- The address of a byte as its writers wrote it: a byte also written through a level or virtual name is reported by that (R39,
R40). -/
def conflictAddr (cs : List Staged) (k : Nat) : Nat :=
  let at_ := fun (e : Staged) => e.addr.toNat + (k - e.key)
  let named := (cs.filter fun e => 2 ^ 56 ≤ e.addr.toNat).map at_
  let all := cs.map at_
  match named with
  | a :: r => r.foldl min a
  | [] => match all with
    | a :: r => r.foldl min a
    | [] => k

/-- What the conflict at a location comes to: the contributions discarded, by sequence number; the bytes of plain writes that lose, by
byte and number; the lowest byte's address and the two writers named (R39, R42). -/
structure Conflict where
  discard : List Nat
  lose : List (Nat × Nat)
  addr : Nat
  first : Party
  second : Party
  deriving DecidableEq, Repr

/-- At each byte of a location the lowest plain writer's value is kept: the bytes that the others lose (R39, R42). -/
def plainLosses (w : Nat × Nat) (plain : List Staged) : List (Nat × Nat) :=
  ((List.range (w.2 - w.1)).map (w.1 + ·)).flatMap fun k =>
    let ws := plain.filter fun e => e.covers k
    match lowestRanked ws with
    | some b => (ws.filter fun e => !e.sameParty b).map fun e => (k, e.seq)
    | none => []

/-- The conflict at a location among the writes of a step that meet it, if there is one. -/
def locConflict (level : Nat) (es : List Staged) (w : Nat × Nat) : Option Conflict :=
  let ws := es.filter fun e => rangesMeet e.key e.bytes.length w.1 (w.2 - w.1)
  let core := ws.filter fun e => ws.any fun f => e.conflicts level f
  let cs := ws.filter fun e => core.any fun f => e == f || (e.scope f ≤ level && e.sameStep f)
  let plain := cs.filter fun e => e.kind.isNone
  let red := cs.filter fun e => e.kind.isSome
  let lowest := (cs.map fun e => max e.key w.1).foldl min w.2
  let named := fun (a b : Staged) (discard : List Nat) (lose : List (Nat × Nat)) =>
    let (x, y) := if b.ranksBelow a then (b, a) else (a, b)
    some { discard := discard, lose := lose, addr := conflictAddr (cs.filter fun e => e.covers lowest) lowest, first := x.party, second := y.party }
  if core.isEmpty then none
  else match lowestRanked plain, lowestRanked red with
    | some a, some b => named a b (red.map fun e => e.seq) (plainLosses w plain)
    | some a, none => named a ((lowestRanked (plain.filter fun e => !e.sameParty a)).getD a) [] (plainLosses w plain)
    | none, some b =>
      let lost := red.filter fun e => e.kind != b.kind
      named b ((lowestRanked lost).getD b) (lost.map fun e => e.seq) []
    | none, none => none

/-- The locations that two or more parties have written. -/
def sharedLocs (es : List Staged) : List (Nat × Nat) :=
  (es.flatMap fun e =>
    ((List.range e.bytes.length).map (e.key + ·)).filterMap fun k =>
      let w := locationOf es k
      if es.any fun f => !e.sameParty f && rangesMeet f.key f.bytes.length w.1 (w.2 - w.1) then some w else none).dedup

/-- The conflicts of a step of a level among its writes (R38-R42). -/
def conflictsOf (level : Nat) (es : List Staged) : List Conflict := (sharedLocs es).filterMap (locConflict level es)

/-- Drop the losing bytes: a plain write loses those bytes, a contribution is discarded (R39, R42). -/
def dropLosers (cf : List Conflict) (es : List Staged) : List Staged :=
  es.flatMap fun e =>
    if e.kind.isSome then (if cf.any fun x => x.discard.contains e.seq then [] else [e])
    else
      let dead := fun k => cf.any fun x => x.lose.contains (k, e.seq)
      if (List.range e.bytes.length).any fun i => dead (e.key + i) then
        (splitRuns e.key e.bytes dead).map fun r => { e with key := r.1, bytes := r.2, addr := e.addr + BitVec.ofNat 64 (r.1 - e.key) }
      else [e]

/-- The candidate report of the step's conflicts: that of the lowest address (R39, R257). -/
def conflictCandidate (pkg : Nat) (cf : List Conflict) : List Candidate :=
  let rec best : List Conflict → Option Conflict
    | [] => none
    | x :: r => match best r with
      | none => some x
      | some y => if y.addr < x.addr then some y else some x
  match best cf with
  | none => []
  | some x => [{ code := 0x80, package := x.first.pkg.getD pkg, rank := x.first.rank, package2 := x.second.pkg.getD pkg,
                 rank2 := x.second.rank, addr := BitVec.ofNat 64 x.addr }]

/-- A host write to package memory: memory changes at once; every task with a context placed reads the old bytes until a
top-level step that begins later has ended (R35, R36). Each write hides what it replaced for itself; the earliest one still hidden is
what the task reads. -/
def State.hostWrite (s : State) (k : Nat) (bs : List Byte) : State :=
  let tasks := (s.tasks.filter fun t => t.phase == .running || t.phase == .stopped).map fun t => t.num
  let old := tasks.flatMap fun t => bs.zipIdx.map fun x => { task := t, key := k + x.2, old := s.mem.get (k + x.2), armed := false : HostOld }
  { s with mem := s.mem.write k bs, hostOld := s.hostOld ++ old }

end Sys2Proof.Machine
end

