-- ==== Sys2Proof/Machine/Net.lean ====
section
/-! DEFINITION. Packets on the mesh: routes (R16, R18, R439), slack (R101-R108), arbitration (R109-R111), delivery (R112-R114); and the way of
packets to other packages as far as a port's queue. -/

namespace Sys2Proof.Machine

/-! ### Ways -/

/-- The output by which a packet leaves a router on its way: 0 here, 1 north, 2 east, 3 south, 4 west (R16). -/
def hopOut (t goal : Nat) : Nat :=
  if tileX t < tileX goal then 2 else if tileX goal < tileX t then 4
  else if tileY t < tileY goal then 3 else if tileY goal < tileY t then 1 else 0

/-- The neighbour at an output. -/
def hopTo (t out : Nat) : Nat :=
  match out with
  | 1 => t - 32
  | 2 => t + 1
  | 3 => t + 32
  | 4 => t - 1
  | _ => t

/-- The arbiters from a tile to a tile, first along x, then along y, and those that are passed there (R16). Eight numbers stand for a tile's
outputs. -/
def meshRoute : Nat → Nat → Nat → List Nat → List Nat
  | 0, _, _, last => last
  | n + 1, t, goal, last =>
    match hopOut t goal with
    | 0 => last
    | o => (8 * t + o) :: meshRoute n (hopTo t o) goal last

/-- The input port at which a packet that left by an output arrives (R109). -/
def entryPort (out : Nat) : Nat :=
  match out with
  | 1 => 3
  | 2 => 4
  | 3 => 1
  | 4 => 2
  | _ => 0

/-- An arbiter is an output of a mesh router. -/
def isRouter (a : Nat) : Bool := a < 8 * 768

/-- The output of an optical port as an arbiter. -/
def portArbiter (port : Nat) : Nat := 8 * 768 + port

/-- The queue of a memory channel as an arbiter (R18, R108). -/
def chanArbiter (stack chan : Nat) : Nat := 8 * 768 + 32 + 32 * stack + chan

/-- Where a packet goes: the tile to whose router it travels, and the arbiters that it passes there. -/
structure Goal where
  tile : Nat
  last : List Nat
  deriving DecidableEq, Repr

/-- A tile itself. -/
def tileGoal (t : Nat) : Goal := { tile := t, last := [8 * t] }

/-- The HBM4 stack and channel of a physical address (R18). -/
def stackOf (phys : Nat) : Nat := bitsOf phys 14 12
def channelOf (phys : Nat) : Nat := bitsOf phys 19 15

/-- The router of a channel of a stack (R18). -/
def stackTile (stack chan : Nat) : Nat :=
  let die := stack / 2
  tileAt (16 * (die % 2) + 8 * (stack % 2) + chan % 8) (if die < 2 then 0 else 23)

/-- A channel of a stack (R18). -/
def chanGoal (stack chan : Nat) : Goal :=
  let t := stackTile stack chan
  { tile := t, last := [8 * t + 5, chanArbiter stack chan] }

/-- The groups of a die, ascending (R17). -/
def groupsOfDie (d : Nat) : List Nat := (List.range 48).filter fun g => dieOfGroup g == d

/-- The north-west tile of a group (R14). -/
def groupCorner (g : Nat) : Nat := tileAt (4 * (g % 8)) (4 * (g / 8))

/-- The tile at whose router the engines of a die stand: its walker, its access counters, its barrier network; on die 0 the dispatch engine, the
migration engine, the package's barrier root and the host link too. R19 names the die and no router. DESIGN CHOICE, log entry 98. -/
def dieAnchor (d : Nat) : Nat := tileAt (16 * (d % 2)) (12 * (d / 2))

/-- The tile at whose router an optical port stands: R19 names the outer edge of its die. DESIGN CHOICE, log entry 98. -/
def portTile (p : Nat) : Nat := tileAt (16 * (p / 8 % 2) + 2 * (p % 8)) (if p / 8 < 2 then 0 else 23)

/-- Where a location is served (R17, R18, R439); the host link at the router of tile 0: R19 names die 0 only, DESIGN CHOICE, log entry 98. -/
def serverOf (key : Nat) : Goal :=
  let at_ := fun (t : Nat) => ({ tile := t, last := [8 * t + 5] } : Goal)
  if isPhys key then chanGoal (stackOf key) (channelOf key)
  else if isHostMem key then { tile := dieAnchor 0, last := [8 * dieAnchor 0 + 6] }
  else if isLocal key ∨ isPlate key then tileGoal (tileOfKey key)
  else if key < 2 ^ 43 then
    let g := (key - 2 ^ 42) / 2 ^ 23
    let u := key % 2 ^ 23 / 4096
    at_ (tileAt (tileX (groupCorner g) + u % 4) (tileY (groupCorner g) + u / 4 % 4))
  else
    let d := (key - 2 ^ 43) / 2 ^ 29
    at_ (groupCorner ((groupsOfDie d).getD (key % 2 ^ 29 / 4096 % 12) 0))

/-- Cut a range at the ends of 4 KiB units: start and length of each part. -/
def unitRuns : Nat → Nat → Nat → List (Nat × Nat)
  | 0, _, _ => []
  | f + 1, k, n =>
    if n = 0 then []
    else
      let m := min n (4096 - k % 4096)
      (k, m) :: unitRuns f (k + m) (n - m)

/-- The parts of a range for which packets of their own go: one for each 4 KiB unit of group, die or package memory (R18, R439). -/
def cutUnits (k n : Nat) : List (Nat × Nat) :=
  if isPhys k || (2 ^ 42 ≤ k && k < 2 ^ 44) then unitRuns (n / 4096 + 2) k n else [(k, n)]

/-! ### Forming packets -/

/-- Flits of a packet that carries n bytes: a head and 64 bytes in each further one (R106, R372). -/
def flitsOf (n : Nat) : Nat := 1 + (n + 63) / 64

/-- The lengths of the packets of a message (R106). -/
def splitFlits : Nat → Nat → Nat → List Nat
  | 0, _, n => [n]
  | fuel + 1, most, n => if n ≤ most then [n] else most :: splitFlits fuel most (n - most)

/-- The largest packet on a channel (R106); VC5 may start 8 flits at a time (R111). -/
def State.mostFlits (s : State) (vc : Nat) : Nat := if vc = 5 then min 8 s.regs.maxmsg else s.regs.maxmsg

/-- A message that sets out from a tile; `reply` is the flits of the reply that it asks for. -/
structure Parcel where
  owner : Owner
  vc : Nat
  slack : Nat
  overdue : Bool := false
  flits : Nat := 1
  src : Nat
  num : Nat := 0
  goal : Goal
  reply : Option Nat := none

/-- Send a message from a tile, its slack as at the source (R103, R106). -/
def State.send (s : State) (x : Parcel) : State :=
  let route := meshRoute 60 x.src x.goal.tile x.goal.last
  let back := meshRoute 60 x.goal.tile x.src [8 * x.src]
  { s with packets := s.packets ++ (splitFlits x.flits (s.mostFlits x.vc) x.flits).map fun n =>
      { owner := x.owner, vc := x.vc, slack := x.slack, overdue := x.overdue, flits := n, route := route, goal := x.goal.last.getLastD 0, port := 0,
        arrived := s.cycle, source := 8 * x.src + x.num, reply := x.reply, back := back } }

/-! ### Packets in queues -/

/-- A packet stands in a queue of an arbiter (R107). -/
def Packet.queuedAt (p : Packet) (a : Nat) : Bool := p.route.head? == some a

/-- A packet has reached its last destination. -/
def Packet.arrivedAll (p : Packet) : Bool := p.route.isEmpty && p.reply.isNone

/-- A base-die sub-command waits in its engine's queue (R351). -/
def Packet.inEngine (p : Packet) : Bool := p.route.isEmpty && p.reply.isSome

/-- A charge of slack at a tick edge, and whether it is used up (R107). -/
def chargeSlack (slack : Nat) (overdue : Bool) : Nat × Bool := (slack - 1, overdue || slack - 1 == 0)

/-- The effect of a tick edge on a packet (R107, R111): it is charged while it is queued, in an engine's queue too (R108). -/
def Packet.tick (p : Packet) : Packet :=
  if p.arrivedAll || p.vc == 5 || p.vc == 7 then p
  else { p with slack := (chargeSlack p.slack p.overdue).1, overdue := (chargeSlack p.slack p.overdue).2 }

/-- Every packet of a piece of work has reached its destination. -/
def State.packetsDone (s : State) (o : Owner) : Bool := s.packets.all fun p => p.owner != o || p.arrivedAll

/-- Some packet of a piece of work is overdue (R114). -/
def State.packetsOverdue (s : State) (o : Owner) : Bool := s.packets.any fun p => p.owner == o && p.overdue

/-- The least slack among the packets of a piece of work. -/
def State.packetsSlack (s : State) (o : Owner) (slack : Nat) : Nat := ((s.packets.filter fun p => p.owner == o).map fun p => p.slack).foldl min slack

/-- What has arrived of a piece of work leaves the network; what is still under way goes on (R117). -/
def State.dropPackets (s : State) (o : Owner) : State := { s with packets := s.packets.filter fun p => p.owner != o || !p.arrivedAll }

/-- Something still waits for the packets of an owner. -/
def State.ownerLive (s : State) : Owner → Bool
  | .token i => s.ctxs.any fun c => c.outstanding.any fun t => t.id == i
  | .fetch t r a => s.ctxs.any fun c => c.task == t && c.rank == r && c.fetches.any fun f => f.addr == a
  | .copy w => s.tiles.any fun t => (t.channels ++ t.pausedCopies).any fun ch =>
      ch.work == w && (ch.state == .active || ch.state == .faulted || ch.state == .held || ch.state == .paused)
  | .basedie m => s.bd.cmds.any fun x => x.id == m
  | .message m => s.messages.contains m
  | .walk d p => s.xlat.walks.any fun w => w.die == d && w.page == p
  | .touch i => s.xlat.touches.any fun t => t.id == i
  | .fabric i => s.fab.outbound.any fun x => x.1 == i
  | .reply n => (s.fab.requests.any fun q => q.num == n) || s.fab.fsends.any fun m => m.id == n
  | .arrival t r => s.ctxs.any fun c => c.task == t && c.rank == r && c.arrival.any fun a => a.sent.isSome
  | .result t r => s.ctxs.any fun c => c.task == t && c.rank == r && c.arrival.isSome
  | .stop t n => s.tasks.any fun x => x.num == t && x.stopping.contains n
  | .note i => (s.sfqWait.any fun r => r.id == i) || s.xlat.notices.any fun n => n.id == i
  | .inval k => s.ctxs.any fun c => c.key == k
  | .migration va => s.xlat.migrations.any fun m => m.leaf.va == va

/-- Packets that have come to where nothing waits for them any more are gone. -/
def State.sweep (s : State) : State := { s with packets := s.packets.filter fun p => !p.route.isEmpty || s.ownerLive p.owner }

/-! ### Arbitration -/

/-- What an arbiter compares: overdue first, then slack, arrival, port or source; the flag and slack are the queue's (R109). -/
structure Bid where
  overdue : Bool
  slack : Nat
  arrived : Nat
  port : Nat
  deriving DecidableEq, Repr

/-- The order of two bids (R109). -/
def Bid.beats (x y : Bid) : Bool :=
  if x.overdue != y.overdue then x.overdue
  else if x.overdue then x.arrived < y.arrived || (x.arrived == y.arrived && x.port < y.port)
  else x.slack < y.slack || (x.slack == y.slack && (x.arrived < y.arrived || (x.arrived == y.arrived && x.port < y.port)))

/-- The packets of the queue of an arbiter that a packet stands in: one per input port and virtual channel (R109). -/
def State.queueOf (s : State) (a : Nat) (p : Packet) : List Packet :=
  s.packets.filter fun x => x.queuedAt a && x.port == p.port && x.vc == p.vc

/-- The bid of a head: the least slack and the overdue flag of its queue, its own arrival (R109); where the inputs are no router's, its source
decides a tie. -/
def bidOf (a : Nat) (q : List Packet) (p : Packet) : Bid :=
  { overdue := q.any fun x => x.overdue, slack := q.foldl (fun m x => min m x.slack) p.slack, arrived := p.arrived,
    port := if isRouter a then p.port else p.source }

/-- The heads of an arbiter's queues. -/
def State.headsAt (s : State) (a : Nat) : List Packet :=
  s.packets.filter fun p => p.queuedAt a && (s.queueOf a p).head? == some p

/-- Flits that wait in an input queue of an arbiter. -/
def State.queuedFlits (s : State) (a port vc : Nat) : Nat :=
  ((s.packets.filter fun x => x.queuedAt a && x.port == port && x.vc == vc).map fun x => x.flits).sum

/-- The output has a buffer credit downstream for a head's channel (R109): the next queue has room, an engine's queue of 32 too (R351). How deep a
router's buffers are the spec leaves open: log entry 99. -/
def State.hasCredit (s : State) (p : Packet) : Bool :=
  match p.route with
  | a :: b :: _ =>
    let n := s.queuedFlits b (entryPort (a % 8)) p.vc
    n == 0 || decide (n + p.flits ≤ 9 + Config.bufferFlits)
  | _ => match p.owner with
    | .basedie _ => p.reply.isNone || (s.packets.filter fun x => x.inEngine && x.goal == p.goal).length < 32
    | _ => true

/-- A VC5 packet may start: at most 8 flits in any 64 cycles of the link (R111). -/
def State.barrierMay (s : State) (a flits : Nat) : Bool :=
  ((s.barrierFlits.filter fun x => x.1 == a && s.cycle < x.2.1 + 64).map fun x => x.2.2).sum + flits ≤ 8

/-- Note the flits of a VC5 packet that starts at an output (R111). -/
def State.noteBarrier (s : State) (a vc flits : Nat) : State :=
  if vc = 5 then { s with barrierFlits := (a, s.cycle, flits) :: s.barrierFlits.filter fun x => s.cycle < x.2.1 + 64 } else s

/-- The best of some heads of an arbiter (R109). -/
def State.bestOf (s : State) (a : Nat) : List Packet → Option Packet
  | [] => none
  | p :: r => match s.bestOf a r with
    | none => some p
    | some q => if (bidOf a (s.queueOf a q) q).beats (bidOf a (s.queueOf a p) p) then some q else some p

/-- The head that wins an output: VC7, then VC5, then the bids (R109, R111). -/
def State.winnerAt (s : State) (a : Nat) : Option Packet :=
  let hs := (s.headsAt a).filter s.hasCredit
  match hs.find? fun p => p.vc == 7 with
  | some p => some p
  | none => match hs.find? fun p => p.vc == 5 && s.barrierMay a p.flits with
    | some p => some p
    | none => s.bestOf a (hs.filter fun p => p.vc != 5)

/-- The reply to a request sets out (R112): with what is left of its slack, cut as MAXMSG says now (R106). -/
def Packet.answer (p : Packet) (cycle most : Nat) : List Packet :=
  let n := p.reply.getD 1
  (splitFlits n most n).map fun k => { p with route := p.back, vc := 2, reply := none, port := 0, arrived := cycle, flits := k }

/-- A packet has won an output: it enters the next queue; at its destination its request is served and the reply sets out (R110, R112), but a
base-die sub-command waits in its engine's queue. -/
def Packet.advance (p : Packet) (cycle most : Nat) : List Packet :=
  match p.route with
  | [] => [p]
  | a :: r =>
    let q := { p with route := r, port := if isRouter a then entryPort (a % 8) else 0, arrived := cycle }
    match r, p.reply, p.owner with
    | [], some _, .basedie _ => [q]
    | [], some _, _ => q.answer cycle most
    | _, _, _ => [q]

/-- Remove the first occurrence of a packet. -/
def dropFirst (p : Packet) : List Packet → List Packet
  | [] => []
  | q :: r => if q = p then r else q :: dropFirst p r

/-- An output is free again (R110). -/
def State.outFree (s : State) (a : Nat) : Bool := s.busyOut.all fun b => b.1 != a || b.2 ≤ s.cycle

/-! ### Routes to other packages -/

/-- The port and slot of the direct connection from a package to another (R373). -/
def directLink (a b : Nat) : Nat × Nat :=
  let d := (b + 512 - a) % 512
  ((d - 1) / 16, (d - 1) % 16)

/-- A port; one that is not listed is at reset. -/
def State.port (s : State) (n : Nat) : Port := (s.fab.ports.find? fun p => p.num == n).getD { num := n }

/-- Replace a port's record. -/
def State.setPort (s : State) (p : Port) : State :=
  { s with fab := { s.fab with ports := p :: s.fab.ports.filter fun q => q.num != p.num } }

/-- A pair link of this package. -/
def State.link (s : State) (port slot : Nat) : PairLink :=
  (s.fab.links.find? fun l => l.port == port && l.slot == slot).getD { port := port, slot := slot }

/-- Replace a pair link's record. -/
def State.setLink (s : State) (l : PairLink) : State :=
  { s with fab := { s.fab with links := l :: s.fab.links.filter fun m => !(m.port == l.port && m.slot == l.slot) } }

/-- The package that a port is joined to in a slot (R373). -/
def joinedTo (package port slot : Nat) : Nat := (package + 16 * port + slot + 1) % 512

/-- The slot index now (R373). -/
def State.slotNow (s : State) : Nat := s.podtime / 250 % 16

/-- This package's pair link to a peer. -/
def State.linkTo (s : State) (peer : Nat) : PairLink :=
  let k := directLink s.regs.podpackage peer
  s.link k.1 k.2

/-- Another package of the pod. -/
def State.isPeer (s : State) (p : Nat) : Bool := p < s.regs.podsize && p != s.regs.podpackage

/-- Ticks from a pod time until the light-on of the next direct connection from a package to another, 0 while it is lit (R374, R383). -/
def ticksToLight (podtime a b : Nat) : Nat := ((directLink a b).2 + 16 - podtime / 250 % 16) % 16 * 250 + 7 - podtime % 250

/-- Ticks until this package's own direct connection to another; none while its port is down (R383). -/
def State.ticksTo (s : State) (dst : Nat) : Option Nat :=
  if (s.port (directLink s.regs.podpackage dst).1).down then none else some (ticksToLight s.podtime s.regs.podpackage dst)

/-- The first of the ports whose neighbours reach a package soonest. -/
def soonest (at_ : Nat → Nat) : List Nat → Option Nat
  | [] => none
  | j :: r => match soonest at_ r with
    | none => some j
    | some k => if at_ k < at_ j then some k else some j

/-- The intermediate for a packet of VC1 or VC2, as it is tested now (R383). What the connections of an intermediate to the destination are worth
when they are lit: DEDUCED, log entry 102. -/
def State.relayChoice (s : State) (q : OutPacket) : Option Nat :=
  let own := s.ticksTo q.dst
  if (q.vc ≠ 1 ∧ q.vc ≠ 2) ∨ own.any (fun w => w ≤ q.slack) then none
  else
    let m := fun (j : Nat) => joinedTo s.regs.podpackage j s.slotNow
    let at_ := fun (j : Nat) => ticksToLight s.podtime (m j) q.dst
    let ok := fun (j : Nat) =>
      s.isPeer (m j) && m j != q.dst && !(s.port j).down && q.flits ≤ (s.link j s.slotNow).quotaIn && own.all fun w => at_ j < w
    (soonest at_ ((List.range 32).filter ok)).map m

/-- A message that has come to its port enters the port's queue (R112), and is tested for a relay (R383): the flits are
formed from what its packets have left. -/
def State.enterPort (s : State) (id : Nat) : State :=
  match s.fab.outbound.find? fun x => x.1 == id with
  | none => s
  | some (_, q) =>
    let o := Owner.fabric id
    if !s.packetsDone o then s
    else
      let q := { q with slack := s.packetsSlack o q.slack, overdue := q.overdue || s.packetsOverdue o, arrived := s.podtime }
      { s with packets := s.packets.filter (fun p => p.owner != o),
               fab := { s.fab with outbound := s.fab.outbound.filter (fun x => x.1 != id), queue := s.fab.queue ++ [{ q with via := s.relayChoice q }] } }

/-- What follows as a packet of an owner arrives. -/
def State.arrive (s : State) (o : Owner) : State :=
  match o with
  | .fabric id => (s.enterPort id).sweep
  | _ => s.sweep

/-- The winner of an arbiter takes its output, which it holds for its flits (R110). -/
def State.grant (s : State) (a : Nat) (p : Packet) : State :=
  let s := s.noteBarrier a p.vc p.flits
  ({ s with packets := dropFirst p s.packets ++ p.advance s.cycle s.regs.maxmsg,
            busyOut := (a, s.cycle + p.flits) :: s.busyOut.filter fun b => b.1 != a && s.cycle < b.2 }).arrive p.owner

/-- The arbiters at which a packet waits, each once. -/
def State.arbiters (s : State) : List Nat := (s.packets.filterMap fun p => p.route.head?).dedup

/-- A tile's way onto the mesh has no room for a further segment of a copy (R108). -/
def State.meshFull (s : State) (tile : Nat) : Bool :=
  let n := ((s.packets.filter fun p => p.port == 0 && p.vc == 1 && p.route.head?.any fun a => isRouter a && a / 8 == tile).map fun p => p.flits).sum
  n != 0 && decide (9 + Config.bufferFlits ≤ n)

/-! ### Packets to other packages -/

/-- A packet that the fabric engine forms enters the queue for a package (R382), with the slack and the overdue flag of what it follows from
(R112); VC5 and VC7 carry a slack that nothing reads (R111). -/
def State.sendAfter (s : State) (dst vc slack : Nat) (overdue : Bool) (bytes : Nat) (x : Content) : State :=
  let q : OutPacket := { dst := dst, via := none, vc := vc, flits := flitsOf bytes, slack := slack, overdue := overdue, arrived := s.podtime,
                         source := 8 * 1023, content := x }
  { s with fab := { s.fab with queue := s.fab.queue ++ [{ q with via := s.relayChoice q }] } }

/-- A packet for a package that a tile, or an engine at its router, sends: over the mesh, on a channel of its own, to the port, and on from there
(R16, R382). -/
def State.sendFrom (s : State) (tile num mesh dst vc slack : Nat) (overdue : Bool) (bytes : Nat) (x : Content) : State :=
  let id := s.seq
  let q : OutPacket := { dst := dst, via := none, vc := vc, flits := flitsOf bytes, slack := slack, overdue := overdue,
                         arrived := s.podtime, source := 8 * tile + num, content := x }
  let t := portTile (directLink s.regs.podpackage dst).1
  ({ s with seq := s.seq + 1, fab := { s.fab with outbound := s.fab.outbound ++ [(id, q)] } }).send
    { owner := .fabric id, vc := mesh, slack := slack, overdue := overdue, flits := flitsOf bytes, src := tile, num := num,
      goal := { tile := t, last := [8 * t + 7] } }

/-- The tick after which a remote request sent now is abandoned (R389). -/
def State.peerDeadline (s : State) : Nat := s.ticks + 2 ^ (max 13 (min 40 (s.regs.fabctl.toNat % 256)))

/-- A request to a peer sets out from its tile on VC1 (R16, R382). -/
def State.sendReq (s : State) (k : CtxKey) (slack : Nat) (r : PeerReq) (dst : Nat) : State :=
  s.sendFrom k.tile k.num 1 dst 1 slack r.overdue r.data.length (.request r)

/-- Send again the remote requests that were abandoned (R389): a copy's with the slack that it starts with again (R117). -/
def State.resend (s : State) (slack : Option Nat) (which : RemoteReq → Bool) : State :=
  let again := fun (q : RemoteReq) => q.lost && which q
  let anew := fun (q : RemoteReq) => { q with lost := false, got := none, deadline := s.peerDeadline, slack := slack.getD q.slack, req := { q.req with overdue := false } }
  let s' := (s.fab.requests.filter again).foldl (init := s) fun s q => s.sendReq q.ctx (anew q).slack (anew q).req q.peer
  { s' with fab := { s'.fab with requests := s'.fab.requests.map fun q => if again q then anew q else q } }

end Sys2Proof.Machine
end

