-- ==== Sys2Proof/Machine/Translate.lean ====
section
/-! DEFINITION. Addresses: level addresses and their owners (R21-R24), the page table walk, the cached entries and the checks of
an access (R326-R341). -/

namespace Sys2Proof.Machine

/-- What a level address names (R21). -/
inductive Space where
  | priv (offset : Nat)
  | tile (n offset : Nat)
  | plate (n offset : Nat)
  | group (n offset : Nat)
  | die (n offset : Nat)
  | phys (offset : Nat)
  deriving DecidableEq, Repr

/-- A level address; none where it is UNMAPPED (R21, R23). -/
def spaceOf (a : Word) : Option Space :=
  let x := a.toNat
  let sp := bitsOf x 59 56
  let unit := bitsOf x 41 32
  if bitsOf x 63 60 ≠ 0 then none
  else match sp with
    | 0 => some (.priv (x % 2 ^ 56))
    | 1 => if bitsOf x 55 42 = 0 ∧ bitsOf x 31 20 = 0 ∧ unit < 768 then some (.tile unit (x % 2 ^ 20)) else none
    | 2 => if bitsOf x 55 42 = 0 ∧ bitsOf x 31 20 = 0 ∧ unit < 768 then some (.plate unit (x % 2 ^ 20)) else none
    | 3 => if bitsOf x 55 38 = 0 ∧ bitsOf x 31 23 = 0 ∧ bitsOf x 37 32 < 48 then some (.group (bitsOf x 37 32) (x % 2 ^ 23)) else none
    | 4 => if bitsOf x 55 34 = 0 ∧ bitsOf x 31 29 = 0 ∧ x % 2 ^ 29 < 0x18000000 then some (.die (bitsOf x 33 32) (x % 2 ^ 29)) else none
    | 5 => if bitsOf x 55 39 = 0 then some (.phys (x % 2 ^ 39)) else none
    | _ => none

/-- The end of the space or region in which a level address lies, as an offset (R23). -/
def Space.extent : Space → Nat
  | .priv _ => 2 ^ 56
  | .tile _ _ => 2 ^ 20
  | .plate _ _ => 2 ^ 20
  | .group _ _ => 2 ^ 23
  | .die _ _ => 0x18000000
  | .phys _ => 2 ^ 39

/-- The offset of a level address. -/
def Space.offset : Space → Nat
  | .priv o => o
  | .tile _ o => o
  | .plate _ o => o
  | .group _ o => o
  | .die _ o => o
  | .phys o => o

/-- The flat location of a level address; the private alias names the local memory of the tile given. -/
def Space.key (tile : Nat) : Space → Nat
  | .priv o => localKey tile o
  | .tile n o => localKey n o
  | .plate n o => plateKey n o
  | .group n o => groupKey n o
  | .die n o => dieKey n o
  | .phys o => o

/-- The owner limits of R22, for a level-memory access by a context of a tile. -/
def Space.allowed (tile : Nat) (supervisor : Bool) : Space → Bool
  | .priv _ => false
  | .tile n _ => supervisor || groupOfTile n == groupOfTile tile
  | .plate _ _ => false
  | .group n _ => supervisor || n == groupOfTile tile
  | .die n _ => supervisor || n == dieOfTile tile
  | .phys _ => supervisor

/-- Is an address virtual (R21)? -/
def isVirtual (a : Word) : Bool := a.getLsbD 63

/-- A virtual address has bits 62:57 zero (R21). -/
def virtualOk (a : Word) : Bool := bitsOf a.toNat 62 57 == 0

/-- The virtual address bits 56:0. -/
def vaOf (a : Word) : Nat := a.toNat % 2 ^ 57

/-- Fields of a page entry (R329). -/
def Leaf.fld (e : Leaf) (hi lo : Nat) : Nat := bitsOf e.bits.toNat hi lo
def Leaf.bit (e : Leaf) (k : Nat) : Bool := e.bits.getLsbD k
def Leaf.cslot (e : Leaf) : Nat := e.fld 119 96
def Leaf.peer (e : Leaf) : Nat := e.fld 95 87
def Leaf.tier (e : Leaf) : Nat := e.fld 86 85
def Leaf.mode (e : Leaf) : Nat := e.fld 84 83
def Leaf.slackClass (e : Leaf) : Nat := e.fld 82 80
def Leaf.geo (e : Leaf) : Nat := e.fld 79 78
def Leaf.fmt (e : Leaf) : Nat := e.fld 77 72
def Leaf.frame (e : Leaf) : Nat := e.fld 63 16 * 65536
def Leaf.dirty (e : Leaf) : Bool := e.bit 8
def Leaf.accessed (e : Leaf) : Bool := e.bit 7
def Leaf.poison (e : Leaf) : Bool := e.bit 6
def Leaf.cnt (e : Leaf) : Bool := e.bit 5
def Leaf.wblock (e : Leaf) : Bool := e.bit 4
def Leaf.user (e : Leaf) : Bool := e.bit 3
def Leaf.writable (e : Leaf) : Bool := e.bit 2

/-- A virtual byte lies in the page. -/
def Leaf.hasByte (e : Leaf) (va : Nat) : Bool := e.va ≤ va && va < e.va + e.size

/-- The modes a tier allows (R330). -/
def tierMode (tier mode : Nat) : Bool :=
  mode == 0 || (tier == 1 && mode == 2) || (tier == 2 && (mode == 1 || mode == 2))

/-- A valid leaf entry is malformed (R330). -/
def leafMalformed (pr : PkgRegs) (e : Leaf) : Bool :=
  e.fld 127 120 != 0 || e.fld 71 64 != 0 || e.fld 15 9 != 0 || e.frame % e.size != 0 ||
  ((e.tier == 0 || e.tier == 2) && e.fld 63 39 != 0) || !tierMode e.tier e.mode ||
  (if e.tier = 2 then e.peer == pr.podpackage else e.peer != 0) ||
  (e.cnt && 2 ^ bitsOf pr.cntcfg.toNat 47 40 ≤ e.cslot) || !fmtOk e.fmt e.geo

/-- A valid entry with leaf 0 is malformed at a table level (R328, R330). -/
def pointerMalformed (level x : Nat) : Bool :=
  level == 0 || bitsOf x 127 39 != 0 || bitsOf x 8 2 != 0 || (level != 1 && bitsOf x 12 9 != 0)

/-- First address bit and number of entries of a table level (R326). -/
def levelShift (level : Nat) : Nat :=
  match level with
  | 4 => 48
  | 3 => 39
  | 2 => 30
  | 1 => 21
  | _ => 16

/-- What the entry of a table of a level says of a virtual address, or the table that comes next (R326, R328). -/
def readEntry (pr : PkgRegs) (va level at_ x : Nat) : Except WalkEnd Nat :=
  let sh := levelShift level
  if !bitAt x 0 then .error .unmapped
  else if bitAt x 1 then
    let e : Leaf := { va := va / 2 ^ sh * 2 ^ sh, size := 2 ^ sh, at_ := at_, bits := BitVec.ofNat 128 x }
    if 3 ≤ level ∨ leafMalformed pr e then .error .malformed else .error (.leaf e)
  else if pointerMalformed level x then .error .malformed
  else .ok (bitsOf x 38 9 * 512)

/-- Where the entry for a virtual address lies in a table of a level (R326). -/
def entryAt (va level table : Nat) : Nat := table + 16 * (va / 2 ^ levelShift level % (if level = 0 then 32 else 512))

/-- Walk from a table of a level on, over the committed package image (R326, R328). -/
def walkFrom (m : Mem) (pr : PkgRegs) (va : Nat) : List Nat → Nat → WalkEnd
  | [], _ => .malformed
  | level :: rest, table =>
    let at_ := entryAt va level table
    match readEntry pr va level at_ (m.num at_ 16) with
    | .error w => w
    | .ok next => walkFrom m pr va rest next

/-- Translation is enabled (R327). -/
def State.xlatOn (s : State) : Bool := s.regs.ptroot.getLsbD 0

/-- The address of the PT4 table (R327). -/
def State.rootTable (s : State) : Nat := bitsOf s.regs.ptroot.toNat 38 13 * 8192

/-- The walk of a virtual address from PTROOT (R326, R327). -/
def State.walkAll (s : State) (va : Nat) : WalkEnd := walkFrom s.mem s.regs va [4, 3, 2, 1, 0] s.rootTable

/-- Set bits of the low 8 bytes of an entry in memory (R332, R341, R343). -/
def State.orEntry (s : State) (at_ x : Nat) : State :=
  { s with mem := s.mem.write at_ (bytesOf 8 (Nat.lor (s.mem.num at_ 8) x)) }

/-- Clear bits of the low 8 bytes of an entry in memory. -/
def State.andNotEntry (s : State) (at_ x : Nat) : State :=
  let o := s.mem.num at_ 8
  { s with mem := s.mem.write at_ (bytesOf 8 (o - Nat.land o x)) }

/-! ### The caches -/

/-- The entry of a page in a tile's micro-TLB, else in its group's TLB (R334). -/
def State.cached (s : State) (tile va : Nat) : Option Leaf :=
  match s.xlat.micro.find? fun e => e.unit == tile && e.leaf.hasByte va with
  | some e => some e.leaf
  | none => (s.xlat.group.find? fun e => e.unit == groupOfTile tile && e.leaf.hasByte va).map fun e => e.leaf

/-- Drop the last element of which a test holds. -/
def dropLast {α : Type} (p : α → Bool) (l : List α) : List α := (l.reverse.eraseP p).reverse

/-- Enter a leaf into the cache of a unit, which holds so many: the oldest goes (R334 gives no order of replacement: log entry 100). -/
def cacheIn (most unit : Nat) (e : Leaf) (l : List TlbEntry) : List TlbEntry :=
  let l := l.filter fun x => !(x.unit == unit && x.leaf.va == e.va && x.leaf.size == e.size)
  let l := if most ≤ (l.filter fun x => x.unit == unit).length then dropLast (fun x => x.unit == unit) l else l
  { unit := unit, leaf := e } :: l

/-- A leaf enters the micro-TLB of a tile, of 32 entries, and the TLB of its group, of 2,048 (R334). -/
def State.cacheLeaf (s : State) (tile : Nat) (e : Leaf) : State :=
  { s with xlat := { s.xlat with micro := cacheIn 32 tile e s.xlat.micro, group := cacheIn 2048 (groupOfTile tile) e s.xlat.group } }

/-- Drop cached leaf entries that cover a byte of a range, and what walks have found there for accesses that wait (R341, R346). -/
def State.dropCached (s : State) (lo n : Nat) : State :=
  let keep := fun (e : Leaf) => !rangesMeet e.va e.size lo n
  let x := s.xlat
  { s with xlat := { x with micro := x.micro.filter (fun e => keep e.leaf), group := x.group.filter (fun e => keep e.leaf),
                            answers := x.answers.filter fun a => match a.found with
                              | .leaf e => keep e
                              | _ => !rangesMeet (65536 * a.page) 65536 lo n } }

/-- A choice between a cached entry that no longer equals the table and the table (R335): log entry 6. -/
def State.useStale (s : State) (k : Nat) : Bool := Config.useCached (s.cycle * 2 ^ 64 + k)

/-- A cached entry still serves: it is what a walk finds, or it may be used until a TLBINV (R335). -/
def State.cachedServes (s : State) (e : Leaf) : Bool := s.walkAll e.va == .leaf e || s.useStale e.va

/-! ### Walks -/

/-- Forget what walks have found for an access, and that it waits for one: it has ended, or takes the fault. -/
def State.forgetSeeker (s : State) (who : Seeker) : State :=
  if s.xlat.answers.isEmpty && s.xlat.walks.isEmpty then s
  else { s with xlat := { s.xlat with answers := s.xlat.answers.filter (fun a => a.who != who),
                                      walks := s.xlat.walks.map fun w => { w with waiters := w.waiters.filter fun x => x.1 != who } } }

/-- The same for a context. -/
def State.forgetWalks (s : State) (k : CtxKey) : State := s.forgetSeeker (.ctx k)

/-- A walk of a page of a die. -/
def Walk.is (w : Walk) (die page : Nat) : Bool := w.die == die && w.page == page

/-- The walk's entry in its table: where it lies. -/
def Walk.entry (w : Walk) : Nat := entryAt (w.page * 65536) w.level w.table

/-- The walker cache of a die holds the entry that a walk comes to, as it was read (R334). -/
def State.walkerEntry (s : State) (w : Walk) : Option WalkerEntry :=
  s.xlat.walker.find? fun e => e.die == w.die && e.level == w.level && e.at_ == w.entry

/-- Keep a non-leaf entry in the walker cache of a die, of 1,024 entries (R334). -/
def State.keepWalker (s : State) (w : Walk) (x : Nat) : State :=
  let sh := levelShift w.level
  let l := s.xlat.walker.filter fun e => !(e.die == w.die && e.at_ == w.entry)
  let l := if 1024 ≤ (l.filter fun e => e.die == w.die).length then dropLast (fun e => e.die == w.die) l else l
  { s with xlat := { s.xlat with walker := { die := w.die, level := w.level, va := w.page * 65536 / 2 ^ sh * 2 ^ sh, at_ := w.entry, bits := x } :: l } }

/-- Replace the record of a walk. -/
def State.setWalk (s : State) (w : Walk) : State :=
  { s with xlat := { s.xlat with walks := s.xlat.walks.map fun v => if v.is w.die w.page then w else v } }

/-- A walk goes on: past the entries that the walker cache holds, and then it reads one from memory, with what is left of its slack (R112, R334). A
cached entry that no longer equals the table may be used or not (R335). -/
def State.goWalk : Nat → State → Walk → State
  | 0, s, w => s.setWalk w
  | n + 1, s, w =>
    let x := s.mem.num w.entry 16
    let old := (s.walkerEntry w).filter fun e => e.bits == x || s.useStale e.at_
    match old.map fun e => readEntry s.regs (w.page * 65536) w.level w.entry e.bits with
    | some (.ok next) => State.goWalk n s { w with level := w.level - 1, table := next }
    | _ => (s.setWalk w).send
        { owner := .walk w.die w.page, vc := 0, slack := w.slack, overdue := w.overdue, src := dieAnchor w.die,
          goal := chanGoal (stackOf w.entry) (channelOf w.entry), reply := some (flitsOf 16) }

/-- A walk starts, at the table that PTROOT names (R326, R327). -/
def State.startWalk (s : State) (w : Walk) : State :=
  let w := { w with running := true, level := 4, table := s.rootTable }
  (s.setWalk w).goWalk 5 w

/-- An access already waits for the walk of a page. -/
def State.walkJoined (s : State) (who : Seeker) (die page : Nat) : Bool :=
  s.xlat.walks.any fun w => w.is die page && w.waiters.any fun x => x.1 == who

/-- Join a walk of a 64 KiB page, or start one; 128 run at once in a die (R112, R334). -/
def State.joinWalk (s : State) (who : Seeker) (tile page slack : Nat) (overdue : Bool) : State :=
  let die := dieOfTile tile
  let x := s.xlat
  if x.walks.any fun w => w.is die page then
    let join := fun (w : Walk) =>
      { w with waiters := if w.waiters.contains (who, tile) then w.waiters else w.waiters ++ [(who, tile)], slack := min w.slack slack,
               overdue := w.overdue || overdue }
    { s with xlat := { x with walks := x.walks.map fun w => if w.is die page then join w else w } }
  else
    let busy := (x.walks.filter fun w => w.die == die && w.running).length
    let w : Walk := { page := page, waiters := [(who, tile)], slack := slack, overdue := overdue, running := false, die := die, level := 4, table := 0 }
    let s := { s with xlat := { x with walks := x.walks ++ [w] } }
    if busy < 128 then s.startWalk w else s

/-- The next walk that waits in a die's queue starts (R334). -/
def State.nextWalk (s : State) (die : Nat) : State :=
  match s.xlat.walks.find? fun w => w.die == die && !w.running with
  | some w => s.startWalk w
  | none => s

/-- The end of a walk (R332, R334): a leaf is cached, with accessed set, for the tiles that wait and their groups; every access that waits gets what
was found. -/
def State.endWalk (s : State) (w : Walk) (r : WalkEnd) : State :=
  let s := { s with xlat := { s.xlat with walks := s.xlat.walks.filter fun v => !v.is w.die w.page } }
  let (s, r) := match r with
    | .leaf e => (if e.accessed then s else s.orEntry e.at_ 128, WalkEnd.leaf { e with bits := e.bits ||| 128 })
    | r => (s, r)
  let s := match r with
    | .leaf e => (w.waiters.map Prod.snd).dedup.foldl (fun (s : State) (t : Nat) => s.cacheLeaf t e) s
    | _ => s
  let new := w.waiters.map fun x => ({ who := x.1, page := w.page, found := r } : Answer)
  ({ s with xlat := { s.xlat with answers := s.xlat.answers ++ new } }).nextWalk w.die

/-- TABLE_WALK (R334): the entry that a walk has asked for comes, and the walk ends or goes on. -/
def State.stepWalk (s : State) (w : Walk) : State :=
  let o := Owner.walk w.die w.page
  let w := { w with slack := s.packetsSlack o w.slack, overdue := w.overdue || s.packetsOverdue o }
  let s := s.dropPackets o
  let x := s.mem.num w.entry 16
  match readEntry s.regs (w.page * 65536) w.level w.entry x with
  | .error r => s.endWalk w r
  | .ok next => (s.keepWalker w x).goWalk 5 { w with level := w.level - 1, table := next }

/-- The first virtual byte that the table entries cover which a walk has read so far: the region of the first of them; none yet. -/
def Walk.hasRead (w : Walk) (lo n : Nat) : Bool :=
  w.running && w.level < 4 && rangesMeet (w.page * 65536 / 2 ^ 48 * 2 ^ 48) (2 ^ 48) lo n

/-! ### Translating an access -/

/-- What a look at the translation of an access comes to. -/
inductive Look where
  | leaf (e : Leaf)
  | bad (code : Nat)
  /-- It waits for a walk, which it has joined or joins now. -/
  | wait (joined : Bool) (s : State)
  deriving DecidableEq, Repr

/-- The page entry of a virtual address for an access from a tile: what its walk has found, a cached entry, or else it waits (R331 steps 1 and
2, R334). -/
def State.look (s : State) (who : Seeker) (tile va slack : Nat) (overdue : Bool) : Look :=
  let page := va / 65536
  let go := fun (s : State) => Look.wait (s.walkJoined who (dieOfTile tile) page) (s.joinWalk who tile page slack overdue)
  match s.xlat.answers.find? fun a => a.who == who && a.page == page with
  | some a => match a.found with
    | .leaf e => .leaf e
    | .unmapped => .bad fcUNMAPPED
    | .malformed => .bad fcPAGE
  | none => match s.cached tile va with
    | some e => if s.cachedServes e then .leaf e else go (s.dropCached e.va e.size)
    | none => go s

/-- The page entry of a virtual address, for a context: it stalls for a walk (R121, R331 steps 1 and 2). -/
def State.findLeaf (s : State) (c : Ctx) (a : Word) (slack : Nat) (element : Nat := 0) : Try Leaf := do
  requireAt (virtualOk a && s.xlatOn) fcUNMAPPED a
  match s.look (.ctx c.key) c.key.tile (vaOf a) slack false with
  | .leaf e => return e
  | .bad code => faultAt code a element
  | .wait _ s' => stall s'

/-- The context that makes an access, as a record names it. -/
def State.maker (s : State) (c : Ctx) : Maker := { key := c.key, tid := ((s.task? c.task).map fun t => t.tid).getD 0, rank := c.rank }

/-- A write waits on the page's block: the first such write is noted with its tick (R341). -/
def State.noteBlocked (s : State) (c : Ctx) (va : Nat) : State :=
  let ms := s.xlat.migrations.map fun m =>
    if m.leaf.hasByte va && m.blocked.isNone && m.status.isNone then { m with blocked := some (s.ticks, some (s.maker c)) } else m
  { s with xlat := { s.xlat with migrations := ms } }

/-- The checks of an access against its page entry (R331 steps 3 to 6). -/
def State.checkLeaf (s : State) (c : Ctx) (user : Bool) (e : Leaf) (a : Word) (write : Bool) (element : Nat := 0) : Try Unit := do
  if e.tier = 3 then faultAt fcUNMAPPED a element
  if (user && !e.user) || (write && !e.writable) then faultAt fcPROTECT a element
  if e.poison then faultAt fcPOISON a element
  if write && e.wblock then stall (s.noteBlocked c (vaOf a))

/-- Translate an access to a virtual address (R331). -/
def State.translate (s : State) (c : Ctx) (a : Word) (write : Bool) (slack : Nat) (element : Nat := 0) : Try Leaf := do
  let e ← s.findLeaf c a slack element
  s.checkLeaf c (!c.supervisor) e a write element
  return e

/-- Where a translated byte lies. -/
inductive Place where
  | here (key : Nat)
  | peer (package phys : Nat)
  deriving DecidableEq, Repr

/-- The place of a virtual byte in its page (R329, R336, R337). -/
def Leaf.place (e : Leaf) (va : Nat) : Place :=
  let o := e.frame + (va - e.va)
  match e.tier with
  | 0 => .here o
  | 1 => .here (hostKey o)
  | _ => .peer e.peer o

/-- The flat location of a virtual byte whose page is not a peer's. -/
def Leaf.keyOf (e : Leaf) (va : Nat) : Nat :=
  match e.place va with
  | .here k => k
  | .peer p o => 2 ^ 70 + p * 2 ^ 39 + o

/-- The page of an entry: first virtual byte and size. -/
def Leaf.page (e : Leaf) : Nat × Nat := (e.va, e.size)

/-- A write through an entry with dirty 0 sets dirty in memory and in every cached copy (R332). -/
def State.setDirty (s : State) (e : Leaf) : State :=
  if e.dirty then s
  else
    let s := s.orEntry e.at_ 256
    let mark := fun (f : Leaf) => if f.at_ = e.at_ then { f with bits := f.bits ||| 256 } else f
    let x := s.xlat
    { s with xlat := { x with micro := x.micro.map (fun t => { t with leaf := mark t.leaf }), group := x.group.map fun t => { t with leaf := mark t.leaf } } }

/-- A touch of a counted page: an increment goes from the tile to the home die (R16, R338, R339), with the access's slack (R112). -/
def State.touch (s : State) (tile slack : Nat) (e : Leaf) : State :=
  if e.cnt then
    let id := s.seq
    let t : Touch := { id := id, die := e.cslot % 4, slot := e.cslot, va := e.va, size := e.size, mode := e.mode, tier := e.tier }
    ({ s with seq := s.seq + 1, xlat := { s.xlat with touches := s.xlat.touches ++ [t] } }).send
      { owner := .touch id, vc := 0, slack := slack, src := tile, goal := tileGoal (dieAnchor (e.cslot % 4)) }
  else s

/-- Pages, each once. -/
def pagesOnce : List Leaf → List Leaf
  | [] => []
  | e :: r => e :: (pagesOnce r).filter fun f => f.page != e.page

/-- What the use of its pages by one access, or by one run of a copy, from a tile does: pages written become dirty, each page is one touch, and its
entry is in the tile's micro-TLB (R332, R334, R338). -/
def State.usePages (s : State) (tile slack : Nat) (reads writes : List Leaf) : State :=
  let es := pagesOnce (reads ++ writes)
  let s := es.foldl (fun s e => { s with xlat := { s.xlat with micro := cacheIn 32 tile e s.xlat.micro } }) s
  let s := (pagesOnce writes).foldl State.setDirty s
  es.foldl (fun s e => s.touch tile slack e) s

end Sys2Proof.Machine
end

