-- ==== Sys2Proof/Machine/Ops.lean ====
section
/-! DEFINITION. The shared operations of the thread engine: fetch, the frame of one instruction, regions and parks (R131-R135), taking a
precise fault (R195-R197), user events and the handler (R200-R205), supervisor records (R207). -/

namespace Sys2Proof.Machine

/-- What one step answers. -/
abbrev Out := Host.Outcome State Fault Refusal

/-! ### Regions and parks -/

/-- End a region: its window stores apply in program order, and nothing is pending any more (R132, R133, R135). -/
def Ctx.endRegion (c : Ctx) : Ctx :=
  { c with rf := c.winStores.foldl (fun m w => m.write w.1 w.2) c.rf, winStores := [], pending := [], pendingMx := [], readPend := [], strictPend := [] }

/-- The requests whose results are still to come: a held access is none (R242). -/
def Ctx.live (c : Ctx) : List Token := c.outstanding.filter fun t => t.bad == 0 && t.held.isNone

/-- An access with a fault found after issue that has not been delivered. -/
def Ctx.badToken (c : Ctx) : Option Token := c.outstanding.find? fun t => t.bad != 0 && t.held.isNone

/-- The access was held at a place, and the context is there again: it is replayed. -/
def Ctx.replayAt (c : Ctx) (at_ : Word) : Ctx :=
  { c with outstanding := c.outstanding.map fun t => if t.held = some at_ then { t with held := none, bad := 0 } else t }

/-- Some access was held at a place. -/
def Ctx.heldAt (c : Ctx) (at_ : Word) : Bool := c.outstanding.any fun t => t.held == some at_

/-- Mark the undelivered faults of accesses as delivered at a place. -/
def Ctx.holdAt (c : Ctx) (at_ : Word) : Ctx :=
  { c with outstanding := c.outstanding.map fun t => if t.bad ≠ 0 ∧ t.held = none then { t with held := some at_ } else t }

/-- Put back into the pools what a held store could not place (R45, R242). -/
def State.replaceStaged (s : State) (seqs : List Nat) : State :=
  seqs.foldl (fun s q =>
    match s.staged.find? fun e => e.seq == q && e.pool == 0 with
    | none => s
    | some e =>
      let p := s.findPool e (s.chargeLevel e)
      { s with staged := s.staged.map fun f => if f.seq = q then { f with pool := p } else f }) s

/-- Replay the accesses held at a place (R242). -/
def State.replay (s : State) (c : Ctx) (at_ : Word) : State :=
  let ts := c.outstanding.filter fun t => t.held == some at_
  let s := s.resend none fun q => q.channel.isNone && ts.any fun t => t.id == q.id
  (s.replaceStaged (ts.flatMap fun t => t.writes)).updCtx c fun c => c.replayAt at_

/-- A park within an instruction (R121, R242): every outstanding result has returned, no fault waits for this
delivery, and nothing held here is left to replay. -/
def parkGate (s : State) (c : Ctx) : Try Unit := do
  if c.heldAt c.pc then stall (s.replay c c.pc)
  if !c.live.isEmpty then stall (s.updCtx c fun c => { c with wait := .park })
  match c.badToken with
  | some t => .error (.trap { code := t.bad, inflight := true, addr := t.spot, element := t.element })
  | none => .ok ()

/-- An instruction that reads the latch of a result that has not returned stalls (R121). Where only a load that has found a fault is left, no park
would come to deliver that: it is delivered here, DESIGN CHOICE, log entry 96. -/
def latchGate (s : State) (c : Ctx) (lane : Bool) (ops : List Operand) : Try Unit :=
  match latchReady s c lane ops with
  | .error (.stall s') => do
    if c.heldAt c.pc then stall (s.replay c c.pc)
    match c.badToken with
    | some t => if c.live.isEmpty then .error (.trap { code := t.bad, inflight := true, addr := t.spot, element := t.element }) else stall s'
    | none => stall s'
  | r => r

/-! ### Records -/

/-- The bytes of a supervisor record (R207). -/
def sfqBytes (cycle : Nat) (addr pc info : Word) (task : BitVec 32) (rank tile ctx kind detail : Nat) : List Byte :=
  bytesOf 64 (cycle % 2 ^ 64 * 2 ^ 448 + addr.toNat * 2 ^ 384 + pc.toNat * 2 ^ 320 + info.toNat * 2 ^ 256 +
    task.toNat * 2 ^ 224 + rank % 2 ^ 16 * 2 ^ 208 + tile % 2 ^ 10 * 2 ^ 198 + ctx % 8 * 2 ^ 195 + kind * 2 ^ 184 + detail % 2 ^ 184)

/-- The identifier of a task of the table. -/
def State.tidOf (s : State) (task : Nat) : BitVec 32 := ((s.task? task).map fun t => t.tid).getD 0

/-- A record sets out from a tile for the fault queue, on VC6 (R16, R207). The slack is the engine's to set (R103): DESIGN CHOICE, log entry 98. -/
def State.postRecord (s : State) (tile : Nat) (bytes : List Byte) (ctx : Option CtxKey) : State :=
  let id := s.seq
  ({ s with seq := s.seq + 1, sfqWait := s.sfqWait ++ [({ id := id, bytes := bytes, ctx := ctx } : SfqRecord)] }).send
    { owner := .note id, vc := 6, slack := 0xFFFF, flits := flitsOf 64, src := tile, goal := serverOf (bitsOf s.regs.sfqbase.toNat 38 12 * 4096) }

/-- Post the record of a context's fault (R197, R207). -/
def State.postFault (s : State) (c : Ctx) : State :=
  s.postRecord c.key.tile (sfqBytes s.cycle c.faultaddr c.faultpc c.faultinfo (s.tidOf c.task) c.rank c.key.tile c.key.num 1 0) (some c.key)

/-- Post an engine's record that names a context, or none (R207). -/
def State.postMade (s : State) (m : Option Maker) (detail : Nat) : State :=
  let k := (m.map fun m => m.key).getD { tile := 0, num := 0 }
  s.postRecord (dieAnchor 0) (sfqBytes s.cycle 0 0 0 ((m.map fun m => m.tid).getD 0) ((m.map fun m => m.rank).getD 0) k.tile k.num 2 detail) none

/-- Post an engine's record, for a context or for none (R207). -/
def State.postEngine (s : State) (c : Option Ctx) (tid : BitVec 32) (rank : Nat) (detail : Nat) : State :=
  s.postMade (some { key := (c.map fun c => c.key).getD { tile := 0, num := 0 }, tid := tid, rank := rank }) detail

/-! ### User events -/

/-- Append an event to a context's queue of 16; a full queue loses it (R203). A gang follower's sources are ignored (R138). -/
def Ctx.queueEvent (c : Ctx) (e : UEvent) : Ctx :=
  if c.follower then c
  else if c.evq.length < 16 then { c with evq := c.evq ++ [e] } else { c with uleLost := true }

/-- Raise an event for a context whose enable bit in ULEEN, if it has one, is set (R200). -/
def Ctx.raise (c : Ctx) (e : UEvent) : Ctx :=
  if e.kind = 4 ∨ bitAt c.uleen.toNat e.kind then c.queueEvent e else c

/-- Raise an event for a task's rank, running or stopped (R203). -/
def State.raise (s : State) (task rank : Nat) (e : UEvent) : State :=
  { s with ctxs := s.ctxs.map fun c => if c.task = task ∧ c.rank = rank then c.raise e else c }

/-- Count an overdue delivery of a kind (R114). -/
def Ctx.countOverdue (c : Ctx) (kind : Nat) : Ctx :=
  let c := { c with odcnt := min (c.odcnt + 1) 0xFFFFFFFF }
  if c.slkctl.getLsbD 0 && !(c.evq.any fun e => e.kind == 4) && c.uleKind != 4 then
    c.queueEvent { kind := 4, src := kind, payload := BitVec.ofNat 64 c.odcnt }
  else c

/-- Save where a context goes on: FAULTPC or the next instruction; the park of a marked instruction goes on with it (R205, R242). -/
def Ctx.saveAt (c : Ctx) (restart : Word) (nextPc : Bool) : Saved :=
  match c.wait with
  | .drain _ => { pc := restart, latch := c.latch, latchTok := c.latchTok, blockEnd := c.blockEnd, atHeader := c.atHeader, next := some c.pc }
  | _ => { pc := restart, latch := c.latch, latchTok := c.latchTok, blockEnd := c.blockEnd, atHeader := if nextPc then restart == c.blockEnd else c.atHeader,
           next := none }

/-- Enter the user handler with an event (R205), at the address in ULEVEC or, for a gang follower, in its leader's (R138). -/
def Ctx.enterHandler (c : Ctx) (e : UEvent) (sv : Saved) (vec : Word) : Ctx :=
  { c with
    uleSaved := some sv
    uleKind := e.kind
    want := none
    rf := c.rf.write handlerBase
      (bytesOf 8 (e.kind + 256 * (e.src % 256)) ++ bytesOf 8 e.payload.toNat ++ bytesOf 8 sv.pc.toNat)
    uleActive := true, latch := .empty, latchTok := none, pc := vec, atHeader := true, blockEnd := 0, wait := .none }

/-! ### Gang forwarding -/

/-- Cycles from a leader's issue to a follower (R137). -/
def gangDelay (leader follower : Nat) : Nat :=
  (max (tileX leader) (tileX follower) - min (tileX leader) (tileX follower)) +
  (max (tileY leader) (tileY follower) - min (tileY leader) (tileY follower)) + 2

/-- Send a word, or a handler entry, of a leader to every follower of its task (R137). -/
def State.forward (s : State) (c : Ctx) (f : FwdWord) : State :=
  { s with ctxs := s.ctxs.map fun d =>
      if d.task = c.task ∧ d.follower then
        { d with fwdWire := d.fwdWire ++ [{ f with due := s.cycle + gangDelay c.key.tile d.key.tile }] }
      else d }

/-- A leader's entry to its handler is forwarded (R138). -/
def State.forwardEntry (s : State) (c : Ctx) (e : UEvent) : State :=
  if c.leader then s.forward c { word := 0, addr := c.ulevec, target := none, value := 0, entry := some e, refused := false, due := 0 }
  else s

/-- The leader's word that a follower is to execute (R137). -/
def Ctx.forwarded (c : Ctx) : Option FwdWord := if c.follower then c.fwd.head? else none

/-- The decision of a transfer (R137, R138): a context's own, or its leader's, with DIV where the follower's differs. `own` is the target
the context would take, none when it would not transfer. -/
def Ctx.decide (c : Ctx) (own : Option Word) : Option Word × Nat :=
  match c.forwarded with
  | none => (own, 0)
  | some f => (f.target, flagIf (own != f.target) flagDIV)

/-! ### Faults -/

/-- A fault's code is delegated (R201); a gang follower's own event sources are ignored (R138). -/
def Ctx.delegates (c : Ctx) (code : Nat) : Bool :=
  bitAt c.fltdlg.toNat code && c.uleEn && !c.uleActive && !c.supervisor && !c.follower && code != 0x0B

/-- The value of FAULTINFO (R196). -/
def Trap.info (t : Trap) : Word :=
  BitVec.ofNat 64 (t.detail % 2 ^ 32 * 2 ^ 32 + t.element % 256 * 65536 + t.channel % 16 * 4096 + b2n t.inflight * 2048 + t.code % 256)

/-- The restart point of a fault (R195): a marked instruction's park, the word after a TRAP, else pc. -/
def Ctx.restart (c : Ctx) (t : Trap) : Word :=
  match c.wait with
  | .drain p => p
  | _ => if t.nextPc then c.pc + 8 else c.pc

/-- The work whose fault is delivered becomes held (R228, R361, R398, R407). -/
def State.holdWork (s : State) (c : Ctx) : Option WorkRef → State
  | none => s
  | some (.channel n) =>
    let t := s.tile c.key.tile
    s.setTile { t with channels := t.channels.map fun ch => if ch.num = n then { ch with state := .held } else ch }
  | some (.basedie i) => { s with bd := { s.bd with cmds := s.bd.cmds.map fun m => if m.id = i then { m with held := true } else m } }
  | some (.fsend i) => { s with fab := { s.fab with fsends := s.fab.fsends.map fun m => if m.id = i then { m with held := true } else m } }
  | some (.coll i) => { s with fab := { s.fab with colls := s.fab.colls.map fun m => if m.idx = i then { m with held := true } else m } }

/-- Take a precise fault, all earlier results having returned: the region ends, the fault record is written, and the fault goes to the
user handler or parks the context with a record for the supervisor (R195-R197, R201). -/
def State.takeFault (s : State) (c : Ctx) (t : Trap) : State :=
  let r := c.restart t
  let sv := c.saveAt r t.nextPc
  let c := (c.endRegion.holdAt r)
  let c := { c with faultinfo := t.info, faultpc := r, faultaddr := t.addr }
  let s := (s.forgetWalks c.key).holdWork c t.work
  if c.delegates t.code then
    let e : UEvent := { kind := 6, src := t.code, payload := t.addr }
    (s.setCtx (c.enterHandler e sv c.ulevec)).forwardEntry c e
  else
    let c := if t.nextPc then { c with pc := r, atHeader := sv.atHeader, fwd := if c.follower then c.fwd.drop 1 else c.fwd } else c
    let w := match c.wait with
      | .drain p => Wait.drain p
      | _ => Wait.none
    let c := { c with faulted := some t.code, wait := w, want := none }
    (s.setCtx c).postFault c

/-- A fault becomes due: first every outstanding result returns (R195). -/
def State.dueFault (s : State) (c : Ctx) (t : Trap) : State :=
  if c.live.isEmpty then s.takeFault c t else s

/-- A park that lasts until the outstanding results have returned goes on: once nothing is outstanding a fault found in flight is delivered;
else the region ends (R121, R132, R242), and for a queued event the handler is entered (R205). -/
def State.settle (s : State) (c : Ctx) : State :=
  let once := fun (done : State) =>
    if !c.live.isEmpty || c.faulted.isSome then s
    else match c.badToken with
      | some t => s.takeFault c { code := t.bad, inflight := true, addr := t.spot, element := t.element }
      | none => done
  match c.wait with
  | .drain _ => once (s.setCtx { c.endRegion with wait := .none })
  | .resume => once (s.setCtx { c.endRegion with wait := .none })
  | .entry => match c.evq with
    | [] => s
    | e :: r =>
      let d := ({ c with evq := r }.endRegion).enterHandler e ({ c with wait := .none }.saveAt c.pc false) c.ulevec
      once ((s.setCtx d).forwardEntry d e)
  | _ => s

/-- A context whose marked instruction had taken a fault goes on with that park: its held accesses are replayed (R242). -/
def State.resumePark (s : State) (c : Ctx) : State :=
  match c.wait with
  | .drain p =>
    let s := s.replay c p
    s.settle (s.again c)
  | _ => s

/-! ### Fetch -/

/-- The word of an instruction address in the tile's instruction buffer, where the context's mode may execute it (R72, R89). -/
def State.buffered (s : State) (c : Ctx) (a : Word) : Option Word :=
  ((s.tile c.key.tile).ibuf.find? fun x => x.addr == a.toNat && x.task == c.task && (c.supervisor || x.user)).map fun x => x.word

/-- The context has all the requests outstanding whose replies carry data that it may have (R285). -/
def Ctx.repliesFull (c : Ctx) : Bool := 16 ≤ (c.live.filter fun t => t.data).length + c.fetches.length

/-- A further request whose reply carries data stalls at issue (R285). -/
def replyGate (s : State) (c : Ctx) : Try Unit := if c.repliesFull then stall s else .ok ()

/-- Ask for a code word: a fetch miss with SLKTAB0 of the context (R89, R103). -/
def State.requestFetch (s : State) (c : Ctx) (a : Word) (e : Leaf) : State :=
  if c.fetches.any (fun f => f.addr == a.toNat) || c.repliesFull then s
  else
    let k := e.keyOf (vaOf a)
    let s := s.updCtx c fun d => { d with fetches := d.fetches ++ [{ addr := a.toNat, key := k, user := e.user, page := e.page }] }
    s.send { owner := .fetch c.task c.rank a.toNat, vc := 0, slack := c.slktab.headD 0xFFFF, src := c.key.tile, num := c.key.num, goal := serverOf k,
             reply := some (flitsOf 8) }

/-- Translate an instruction address: a read of package memory or the host tier (R72, R331). No rule gives a fetch from a
peer page an effect: log entry 23. -/
def State.fetchLeaf (s : State) (c : Ctx) (a : Word) : Try Leaf := do
  requireAt (isVirtual a) fcUNMAPPED a
  let e ← s.translate c a false (c.slktab.headD 0xFFFF)
  requireAt (e.tier < 2) fcUNMAPPED a
  return e

/-- The word at an instruction address (R72, R88 check 1, R89); waits for a miss. A fault carries the address. -/
def State.fetchAt (s : State) (c : Ctx) (a : Word) : Try Word :=
  match s.buffered c a with
  | some w => .ok w
  | none => do
    let e ← s.fetchLeaf c a
    requireAt (a.toNat % 8 == 0) fcBADTARGET a
    stall (s.requestFetch c a e)

/-- A fault without its data address. -/
def noAddr {α : Type} : Try α → Try α
  | .error (.trap t) => .error (.trap { t with addr := 0 })
  | r => r

/-- The header at an address: BADTARGET for another word, ILLEGAL for one that is not well formed (R74, R75). -/
def headerAt (a : Word) (w : Word) : Try HeaderWord := do
  requireAt (w.extractLsb' 54 10 == 0x3FF#10) fcBADTARGET a
  requireAt (HeaderWord.ofWord w).wf fcILLEGAL a
  return HeaderWord.ofWord w

/-- Check the target of a transfer (R142): UNMAPPED, the translation faults, BADTARGET; then its header (R75). A follower fetches
nothing (R90). -/
def State.checkTarget (s : State) (c : Ctx) (t : Word) : Try Unit :=
  if c.follower then .ok ()
  else do
    let w ← s.fetchAt c t
    let _ ← headerAt t w
    return ()

/-- A fall-through into the next block (R74, R75): its header is checked against the block's last instruction, but a translation
fault is left to the entry of that header. -/
def State.checkFall (s : State) (c : Ctx) (t : Word) : Try Unit :=
  if c.follower then .ok ()
  else match s.fetchAt c t with
    | .ok w => do
      let _ ← headerAt t w
      return ()
    | .error (.stall s') => stall s'
    | .error (.trap x) => if x.code = fcBADTARGET then .error (.trap x) else .ok ()

/-! ### The frame of one instruction -/

/-- What the execution of an instruction comes to: the state and the context's record, where control goes if not to the next word,
whether the instruction is itself a park that ends the region, whether the context has left its task. -/
structure Done where
  s : State
  c : Ctx
  jump : Option Word := none
  ends : Bool := false
  left : Bool := false
  deriving DecidableEq, Repr

/-- Complete an instruction: pc and block, the marker's park, the region (R72, R74, R77, R132). A follower's forwarded word
is used up (R137). -/
def Done.finish (d : Done) (c0 : Ctx) (h : Common) : State :=
  if d.left then d.s
  else
    let c := { d.c with wait := .none, fwd := if d.c.follower then d.c.fwd.drop 1 else d.c.fwd }
    let c := if d.ends then c.endRegion else c
    let c := match d.jump with
      | some t => { c with pc := t, atHeader := true, blockEnd := 0 }
      | none => { c with pc := c0.pc + 8, atHeader := c0.pc + 8 == c0.blockEnd }
    let s := d.s.forgetWalks c0.key
    if h.sw then
      let c := { c with wait := .drain c0.pc }
      (s.setCtx c).settle c
    else s.setCtx c

/-- The frame of an instruction whose word has been decoded (R88): the privilege check, the latch, the guard, its
own effect, the next header on a fall-through. A fault waits for the results before it (R195). -/
def runInstr (s : State) (h : Common) (priv : Bool) (ops : List Operand) (body : State → Ctx → Word → Try Done) : Out :=
  match s.ctx? s.sel.ctx with
  | none => .fault .noContext
  | some c =>
    let r : Try Done := do
      require (!priv || c.supervisor) fcPRIV
      latchGate s c h.lane ops
      let g ← readGuard c h
      let d ← body s c g
      if d.jump.isNone && !d.left && c.pc + 8 == c.blockEnd then s.checkFall c (c.pc + 8)
      return d
    match r with
    | .ok d => .next (d.finish c h)
    | .error (.trap t) => .next (s.dueFault c t)
    | .error (.stall s') => .next s'

/-- A uniform instruction: nothing happens when bit 0 of the guard is 0, and the latch is that of the destination's unchanged value
(R131, R136). -/
def runUniform (s : State) (h : Common) (priv : Bool) (dst : Option Operand) (ops : List Operand) (body : State → Ctx → Try Done) : Out :=
  runInstr s h priv ops fun s c g =>
    if g.getLsbD 0 then body s c
    else .ok { s := s, c := match dst with
      | some o => latchUnchanged c false o
      | none => c.clearLatch }

/-- A uniform instruction that only computes a value for its destination. -/
def runValue (s : State) (h : Common) (dst : Operand) (ops : List Operand) (f : State → Ctx → Try (Word × Nat)) : Out :=
  runUniform s h false (some dst) ops fun s c => do
    let (x, fl) ← f s c
    let c ← writeVal s c dst x
    return { s := s, c := c.orFlags fl }

/-- The flags of the enabled lanes of a lane result (R136). -/
def laneFlags (w : Nat) (g : Word) (rs : List (Nat × Nat)) : Nat :=
  (rs.zipIdx.filter fun x => g.getLsbD (x.2 / (32 / w))).foldl (fun f x => Nat.lor f x.1.2) 0

/-- An instruction of either class that computes element by element on w bits (R136, R152). In uniform class there is one element; its
result is extended to 64 bits by a function of its own. -/
def runElems (s : State) (h : Common) (dst : Operand) (srcs : List Operand) (w : Nat)
    (f : List Nat → Nat × Nat) (ext : Nat → Word) : Out :=
  if h.lane then
    runInstr s h false srcs fun s c g => do
      let xs : List (List Nat) ← srcs.mapM fun o => readElems c w o
      let rs : List (Nat × Nat) := (List.range (2048 / w)).map fun i => f (xs.map fun l => l.getD i 0)
      let c' ← writeElems s c dst w g (rs.map fun r => r.1)
      return { s := s, c := c'.orFlags (laneFlags w g rs) }
  else
    runValue s h dst srcs fun _ c => do
      let xs : List Word ← srcs.mapM fun o => readVal c o
      let r := f (xs.map fun x => x.toNat % 2 ^ w)
      return (ext r.1, r.2)

/-- A wait of an engine instruction (R214): the bound counts from the moment the park condition holds. -/
def State.engineDeadline (s : State) : Option Nat :=
  let e := min (s.regs.waitto % 256) 47
  if e = 0 then none else some (s.ticks + 2 ^ e)

/-- Go on waiting in an engine wait. -/
def waitEngine {α : Type} (s : State) (c : Ctx) : Try α :=
  stall (s.updCtx c fun c => match c.wait with
    | .engine _ => c
    | _ => { c with wait := .engine s.engineDeadline })

/-! ### Outstanding requests -/

/-- Where the raw bytes of a result go in the register file (R244): a narrow uniform load is extended to 8 bytes. -/
def Token.place (t : Token) (data : List Byte) : List (Nat × Byte) :=
  match t.ext with
  | none => t.locs.zip data
  | some (w, zext) =>
    let x := numOf (data.take w)
    let v := if zext then BitVec.ofNat 64 x else sext64 (8 * w) x
    t.locs.zip (bytesOf 8 v.toNat)

/-- Add an outstanding request. -/
def Ctx.await (c : Ctx) (t : Token) : Ctx := { c with outstanding := c.outstanding ++ [t] }

/-- Remove the request at a place among the outstanding ones. -/
def dropAt {α : Type} : List α → Nat → List α
  | [], _ => []
  | _ :: r, 0 => r
  | x :: r, n + 1 => x :: dropAt r n

/-- A result has been written to registers: the latch that waited for it holds it (R131). -/
def Ctx.refreshLatch (c : Ctx) : Ctx :=
  match c.latchTok with
  | some (a, n) => if c.awaits a n then c else { c with latch := c.latchOf a n, latchTok := none }
  | none => c

/-- A result returns (R134): its register bytes that no later write replaced are written; an overdue delivery is counted (R114). -/
def Ctx.returned (c : Ctx) (i : Nat) (t : Token) (overdue : Bool) : Ctx :=
  let c := { c with outstanding := dropAt c.outstanding i }
  let c := { c with rf := t.cells.foldl (fun (m : Mem) (x : Nat × Byte) => m.set x.1 x.2) c.rf }
  let c := c.refreshLatch
  if overdue then c.countOverdue t.kind else c

end Sys2Proof.Machine
end

