-- ==== Sys2Proof/Machine/Copy.lean ====
section
/-! DEFINITION. The shape of a copy: templates (R220), runs and where their bytes lie (R221), formats and their conversion
(R222-R224), spans and the watermark (R227, R231), the status word (R216). -/

namespace Sys2Proof.Machine

/-- One side of a copy: its address, format, geometry and strides. -/
structure Side where
  addr : Word
  fmt : Nat
  geo : Nat
  strides : List Int
  deriving DecidableEq, Repr

def Template.srcSide (t : Template) : Side :=
  { addr := BitVec.ofNat 64 t.src, fmt := t.sfmt, geo := t.sgeo, strides := t.dims.map fun d => d.sstride }

def Template.dstSide (t : Template) : Side :=
  { addr := BitVec.ofNat 64 t.dst, fmt := t.dfmt, geo := t.dgeo, strides := t.dims.map fun d => d.dstride }

def Template.extents (t : Template) : List Nat := t.dims.map fun d => d.extent

/-- Values, or raw bytes, of one run (R221). -/
def Template.runLen (t : Template) : Nat := t.elem + 1

/-- The number of runs. -/
def Template.total (t : Template) : Nat := t.extents.foldl (· * ·) 1

/-- The side is blocked or a stipple pair. -/
def Side.blocked (d : Side) : Bool := fmtBlocked d.fmt

/-- The block size of a blocked side. -/
def Side.bsize (d : Side) : Nat := geoSize d.geo

/-- Bytes of one value of a side that is not blocked: a raw side counts bytes (R221). -/
def Side.width (d : Side) : Nat := if d.fmt = 0 then 1 else fmtBits d.fmt / 8

/-- The 256 bytes of a template as a template (R220). -/
def templateOf (x : Nat) : Template :=
  let f := bitsOf x
  let nd := f 219 216
  { src := f 63 0, dst := f 127 64, bc := f 191 128, slack := f 207 192, elem := f 215 208, ndims := nd,
    dims := (List.range (min nd 12)).map fun k =>
      let r := bitsOf x (639 + 128 * k) (512 + 128 * k)
      { extent := bitsOf r 31 0, sstride := signedOf 48 (bitsOf r 79 32), dstride := signedOf 48 (bitsOf r 127 80) },
    sfmt := f 229 224, sgeo := f 231 230, dfmt := f 237 232, dgeo := f 239 238, had := f 241 240, red := f 244 242,
    ev := bitAt x 245, wm := bitAt x 246,
    clean := f 223 220 == 0 && f 255 247 == 0 && f 511 256 == 0 }

/-- Offsets of a run from the side's address: index vectors with the innermost fastest (R221). -/
def runOffset : List Nat → List Int → Nat → Int
  | e :: es, st :: sts, n => ((n % e : Nat) : Int) * st + runOffset es sts (n / e)
  | _, _, _ => 0

/-- Where the group of an element of a blocked object begins, as a byte offset from the object's base (R57, R58, R333). -/
def groupBase (paged : Bool) (c b : Nat) (e : Int) : Int :=
  let g := e / ((64 * b : Nat) : Int)
  let per : Int := (groupsPerPage c b : Nat)
  let gb : Int := (groupBytes c b : Nat)
  if paged then g / per * 65536 + g % per * gb else g * gb

/-- The parts of the block that starts at an element: byte offset from the object's base, and length (R57). -/
def blockParts (paged : Bool) (c b : Nat) (e : Int) : List (Int × Nat) :=
  let r := (e % ((64 * b : Nat) : Int)).toNat
  let base := groupBase paged c b e
  let (p0, p1, p2, p3) := groupPlace c b r
  match c with
  | 6 => [(base + p0, b / 2), (base + p2, 1), (base + p3, 1)]
  | 7 => [(base + p0, b), (base + p2, 1)]
  | 12 => [(base + p0, b), (base + p1, b / 2), (base + p2, 1), (base + p3, 1)]
  | _ => [(base + p0, 2 * b), (base + p1, b / 2), (base + p3, 1)]

/-- A byte offset from an address, mod 2^64 (R221). -/
def offAddr (a : Word) (o : Int) : Word := a + BitVec.ofInt 64 o

/-- The element of a blocked page whose first byte lies at an offset of the page: none where no element begins, or in the tail (R57, R58). -/
def elementAt (c b x : Nat) : Option Nat :=
  let g := x / groupBytes c b
  let y := x % groupBytes c b
  let r := match c with
    | 6 => 2 * y
    | 7 | 12 => y
    | _ => y / 2
  if g < groupsPerPage c b ∧ r < 64 * b ∧ (c ≠ 13 ∨ y % 2 = 0) then some (64 * b * g + r) else none

/-- The element offset of a side's address. A blocked object in paged memory begins at a page boundary (R58, R221), so that an address elsewhere
in the page names the element that begins there: DEDUCED, log entry 92. -/
def Side.elemOffset (d : Side) : Option Nat :=
  if d.blocked && isVirtual d.addr then elementAt d.fmt d.bsize (vaOf d.addr % 65536) else some 0

/-- The base of a side's blocked object (R58, R221). -/
def Side.base (d : Side) : Word :=
  if d.blocked && isVirtual d.addr then d.addr - BitVec.ofNat 64 (vaOf d.addr % 65536) else d.addr

/-- The pieces of memory of a run on one side, as address and length: one on a side that is not blocked, else block by block its
parts (R57, R221). -/
def Side.runPieces (d : Side) (off : Int) (n : Nat) : List (Word × Nat) :=
  if d.blocked then
    let first := off + ((d.elemOffset.getD 0 : Nat) : Int)
    (List.range (n / d.bsize)).flatMap fun k =>
      (blockParts (isVirtual d.addr) d.fmt d.bsize (first + ((k * d.bsize : Nat) : Int))).map fun p => (offAddr d.base p.1, p.2)
  else [(offAddr d.addr off, n * d.width)]

/-- The span of a side (R227): its first address and its length. On a blocked side, whose strides are in elements, it runs from the start of
the first block group that a run touches to the end of the last: DESIGN CHOICE, log entry 93. -/
def Side.span (d : Side) (es : List Nat) (n : Nat) : Word × Nat :=
  let ends := (es.zip d.strides).map fun x => ((x.1 : Int) - 1) * x.2
  let lo := ends.foldl (fun a e => a + min 0 e) 0
  let hi := ends.foldl (fun a e => a + max 0 e) 0
  if d.blocked then
    let p := isVirtual d.addr
    let first := ((d.elemOffset.getD 0 : Nat) : Int)
    let a := groupBase p d.fmt d.bsize (first + lo)
    let b := groupBase p d.fmt d.bsize (first + hi + n - 1) + ((groupBytes d.fmt d.bsize : Nat) : Int)
    (offAddr d.base a, (b - a).toNat)
  else (offAddr d.addr lo, (hi - lo).toNat + n * d.width)

/-- The pair of formats that a copy converts (R222). -/
def pairOk (sf sg df dg : Nat) : Bool :=
  let isFloat := fun (c : Nat) => (fmtFloat c).isSome
  let isPlain := fun (c : Nat) => (fmtFloat c).isSome || (fmtInt c).isSome
  (sf == 0 && df == 0) || (isPlain sf && isPlain df) ||
  ((sf == 6 || sf == 7) && (df == 1 || df == 2 || df == 3)) ||
  (isFloat sf && (df == 6 || df == 7)) ||
  (fmtBlocked sf && sf == df && sg == dg)

/-- The destination formats of a reduce operation (R224). -/
def redOk (red df : Nat) : Bool :=
  match red with
  | 0 => true
  | 1 => df == 8 || df == 9 || df == 10 || df == 11
  | 2 => df == 1 || df == 2 || df == 3
  | 3 | 4 => df == 8 || df == 9 || df == 10 || df == 11 || df == 1 || df == 2 || df == 3
  | _ => !fmtBlocked df

/-- Whole blocks (R223): the run, the address's element offset and every stride are multiples of the block size. -/
def Side.wholeBlocks (d : Side) (n : Nat) : Bool :=
  !d.blocked || (n % d.bsize == 0 && d.elemOffset.any (fun e => e % d.bsize == 0) &&
    d.strides.all fun st => st % ((d.bsize : Nat) : Int) == 0)

/-- The Hadamard option needs a float source and a blocked destination of its size (R223). -/
def hadOk (had sf df dg : Nat) : Bool :=
  had == 0 || ((fmtFloat sf).isSome && (df == 6 || df == 7) && geoSize dg == (if had = 1 then 16 else 32))

/-- What R222 to R224 ask of resolved formats. -/
def Template.formatsOk (t : Template) (plate : Bool) : Bool :=
  pairOk t.sfmt t.sgeo t.dfmt t.dgeo && hadOk t.had t.sfmt t.dfmt t.dgeo &&
  t.srcSide.wholeBlocks t.runLen && t.dstSide.wholeBlocks t.runLen &&
  (t.red == 0 || (redOk t.red t.dfmt && !plate))

/-- A side whose format waits for its page (R222). -/
def Side.openFmt (d : Side) : Bool := d.fmt == 0 && isVirtual d.addr

/-- A template is not malformed as far as its start shows (R225): format checks that depend on a page are made in flight. -/
def Template.startOk (t : Template) : Bool :=
  let plate := !isVirtual t.dstSide.addr && bitsOf t.dst 59 56 == 2
  let so := t.srcSide.openFmt
  let do_ := t.dstSide.openFmt
  1 ≤ t.ndims && t.ndims ≤ 12 && t.clean && t.had != 3 && fmtOk t.sfmt t.sgeo && fmtOk t.dfmt t.dgeo &&
  (if so || do_ then
     (so || t.srcSide.wholeBlocks t.runLen) && (do_ || t.dstSide.wholeBlocks t.runLen) &&
     (t.had == 0 || ((so || (fmtFloat t.sfmt).isSome) && (do_ || hadOk t.had 1 t.dfmt t.dgeo))) &&
     (t.red == 0 || (!plate && (do_ || redOk t.red t.dfmt)))
   else t.formatsOk plate)

/-- A side's format is that of the page of its address, where its own field is raw (R222). -/
def resolveFmt (fmt geo : Nat) (page : Option Leaf) : Nat × Nat :=
  match page with
  | some e => if fmt = 0 then (e.fmt, if e.fmt = 0 then geo else e.geo) else (fmt, geo)
  | none => (fmt, geo)

/-- The values of a side that is not blocked, from its bytes. -/
def valuesOf (w : Nat) (bs : List Byte) : List Nat := splitElems (8 * w) (numOf bs) (bs.length / w)

/-- The element codes of one block from its element bytes (R57). -/
def codesOf (isE2m1 : Bool) (bs : List Byte) : List Nat :=
  if isE2m1 then splitElems 4 (numOf bs) (2 * bs.length) else bs.map fun b => b.toNat

/-- Take the elements of a list in lists of n. -/
def chunksOf {α : Type} (n : Nat) : Nat → List α → List (List α)
  | 0, _ => []
  | k + 1, l => l.take n :: chunksOf n k (l.drop n)

/-- The parts of a blocked run decoded to FP32, with flags (R54): two or three parts make a block. -/
def decodeBlocks (isE2m1 : Bool) : List (List Byte) → List (Nat × Nat)
  | es :: sc :: rest =>
    if isE2m1 then
      match rest with
      | sp :: more => (codesOf true es).map (fun c => blockDec32 true c (numOf sc) (numOf sp)) ++ decodeBlocks true more
      | [] => []
    else (codesOf false es).map (fun c => blockDec32 false c (numOf sc) 0) ++ decodeBlocks false rest
  | _ => []

/-- One block quantised, as its parts and flags, after the transform (R55, R69, R223). -/
def encodeBlock (isE2m1 : Bool) (had : Nat) (xs : List Nat) : List (List Byte) × Nat :=
  let (ys, f) := if had = 0 then (xs, 0) else hadamard (if had = 1 then 2 else 3) xs
  let q := quantBlock isE2m1 (fun _ => rne) ys
  let es := if isE2m1 then bytesOf (q.codes.length / 2) (numNibbles q.codes) else q.codes.map (BitVec.ofNat 8)
  ((if isE2m1 then [es, [BitVec.ofNat 8 q.scale], [BitVec.ofNat 8 q.spare]] else [es, [BitVec.ofNat 8 q.scale]]), Nat.lor f q.flags)
where
  /-- Codes packed low nibble first. -/
  numNibbles : List Nat → Nat
    | [] => 0
    | c :: r => c % 16 + 16 * numNibbles r

/-- The flags of a list of results. -/
def orAll (rs : List (Nat × Nat)) : Nat := rs.foldl (fun a r => Nat.lor a r.2) 0

/-- A run converted (R222, R223): the bytes of the destination's pieces, and the flags. -/
def Template.convertRun (t : Template) (src : List (List Byte)) : List (List Byte) × Nat :=
  if t.sfmt = t.dfmt then (src, 0)
  else
    let vals : List (Nat × Nat) :=
      if t.srcSide.blocked then decodeBlocks (t.sfmt == 6) src
      else (valuesOf t.srcSide.width src.flatten).map fun v => (v, 0)
    let sf := if t.srcSide.blocked then 1 else t.sfmt
    let f0 := orAll vals
    let xs := vals.map fun v => v.1
    if t.dstSide.blocked then
      let ws := xs.map (cvtElem sf 1)
      let b := t.dstSide.bsize
      let bl := (chunksOf b (ws.length / b) (ws.map fun w => w.1)).map (encodeBlock (t.dfmt == 6) t.had)
      (bl.flatMap fun x => x.1, bl.foldl (fun a x => Nat.lor a x.2) (Nat.lor f0 (orAll ws)))
    else
      let ws := xs.map (cvtElem sf t.dfmt)
      ([ws.flatMap fun w => bytesOf t.dstSide.width w.1], Nat.lor f0 (orAll ws))

/-- The reduction kind of a copy with its formats resolved (R224). -/
def Template.kind (t : Template) : Option Nat := if t.red = 0 then none else some (redKind t.red t.dfmt)

/-- The bytes of one contribution: an element; for the bitwise kinds on raw bytes a byte (R224). -/
def Template.redWidth (t : Template) : Nat := t.dstSide.width

/-- Source pieces and destination pieces of run n. -/
def Template.srcPieces (t : Template) (n : Nat) : List (Word × Nat) :=
  t.srcSide.runPieces (runOffset t.extents t.srcSide.strides n) t.runLen

def Template.dstPieces (t : Template) (n : Nat) : List (Word × Nat) :=
  t.dstSide.runPieces (runOffset t.extents t.dstSide.strides n) t.runLen

/-- Bytes that a copy writes, side bytes included (R232). -/
def Template.dstBytes (t : Template) : Nat :=
  t.total * (t.dstPieces 0).foldl (fun a p => a + p.2) 0

/-! ### Channels -/

/-- The channel is free (R216); one whose copy is paused is free for others, its copy kept aside (R234). -/
def Channel.isFree (ch : Channel) : Bool :=
  ch.state == .idle || ch.state == .complete || ch.state == .cancelled || (ch.state == .paused && ch.copy.isNone)

/-- A code of the status word's state (R216). -/
def ChanState.code : ChanState → Nat
  | .idle => 0
  | .active => 1
  | .complete => 2
  | .faulted => 3
  | .held => 4
  | .cancelled => 5
  | .paused => 6

/-- The status word (R216). -/
def Channel.word (ch : Channel) : Nat :=
  ch.state.code * 2 ^ 29 + (if ch.state = .idle then 0 else ch.owner % 8) * 2 ^ 26 + ch.template % 64 * 2 ^ 20 +
  (if ch.state = .faulted ∨ ch.state = .held then ch.fault % 256 * 2 ^ 12 else 0)

/-- A channel of a tile. -/
def Tile.channel (t : Tile) (n : Nat) : Channel := (t.channels.find? fun ch => ch.num == n).getD { num := n }

/-- Replace a channel's record. -/
def Tile.setChannel (t : Tile) (ch : Channel) : Tile :=
  if t.channels.any fun x => x.num == ch.num then { t with channels := t.channels.map fun x => if x.num == ch.num then ch else x }
  else { t with channels := t.channels ++ [ch] }

/-- A stretch of the virtual range or of flat memory. -/
structure Span where
  virt : Bool
  lo : Nat
  len : Nat
  deriving DecidableEq, Repr

def Span.meets (a b : Span) : Bool := a.virt == b.virt && rangesMeet a.lo a.len b.lo b.len

/-- The stretch of n bytes from an address on, seen from a tile. -/
def spanAt (tile : Nat) (a : Word) (n : Nat) : Span :=
  if isVirtual a then { virt := true, lo := vaOf a, len := n }
  else match spaceOf a with
    | some sp => { virt := false, lo := sp.key tile, len := n }
    | none => { virt := false, lo := 0, len := 0 }

def Template.srcSpan (t : Template) (tile : Nat) : Span :=
  let (a, n) := t.srcSide.span t.extents t.runLen
  spanAt tile a n

def Template.dstSpan (t : Template) (tile : Nat) : Span :=
  let (a, n) := t.dstSide.span t.extents t.runLen
  spanAt tile a n

/-- The lowest offset from the destination span's low end among the bytes of some runs. -/
def Template.lowest (t : Template) (runs : List Nat) (len : Nat) : Nat :=
  let (a, _) := t.dstSide.span t.extents t.runLen
  (runs.flatMap fun n => (t.dstPieces n).map fun p => (p.1 - a).toNat).foldl min len

/-- The watermark (R231): up to the lowest byte that a run still to come writes; 0 until completion where it is not tracked. -/
def Channel.watermark (ch : Channel) : Nat :=
  match ch.copy with
  | none => 0
  | some t =>
    let len := (t.dstSide.span t.extents t.runLen).2
    if ch.state = .complete then (if t.total = 0 then 0 else len)
    else if !t.wm then 0
    else t.lowest ((List.range (t.total - ch.progress)).map fun i => ch.progress + i) len

/-- A copy of a context. -/
def Channel.ownedBy (ch : Channel) (c : Ctx) : Bool := ch.task == c.task && ch.rank == c.rank

end Sys2Proof.Machine
end

