-- ==== Sys2Proof/Machine/Access.lean ====
section
/-! DEFINITION. Accesses to memory: what a context or its work reads (R29), what it writes into staging (R32, R45), the bytes of
barrier records, which lie outside staging (R237), what holds an access back (R230, R231, R301), pages and peers (R331, R386). -/

namespace Sys2Proof.Machine

/-! ### Reading and writing -/

/-- A byte of a byte-count barrier record, which the byte-count unit keeps (R237). -/
def State.isRecordByte (s : State) (k : Nat) : Bool :=
  isLocal k && ((s.tile (tileOfKey k)).bcPhases.any fun r => r.1 ≤ k && k < r.1 + 16)

/-- Bytes read, with the current value of those that belong to a barrier record (R237). -/
def State.freshRecords (s : State) (k : Nat) (bs : List Byte) : List Byte :=
  if isLocal k && !(s.tile (tileOfKey k)).bcPhases.isEmpty then
    bs.zipIdx.map fun x => if s.isRecordByte (k + x.2) then s.mem.get (k + x.2) else x.1
  else bs

/-- n bytes at a location as a context reads them now (R29). -/
def State.readLoc (s : State) (c : Ctx) (loopback : Bool) (k n : Nat) : List Byte :=
  s.freshRecords k (s.readAs c loopback k n)

/-- Who writes: a context, through its loop-back agent or not, the counters of the steps concerned, the byte-count
delivery the bytes belong to (R34): the record and the work; and whether supervisor mode names package memory by a physical
address (R328). -/
structure Writer where
  c : Ctx
  loop : Bool := false
  steps : List Nat
  bc : Option (Nat × Nat) := none
  direct : Bool := false

/-- A context that writes now. -/
def State.writer (s : State) (c : Ctx) (loop : Bool) : Writer := { c := c, loop := loop, steps := s.stepsOf c }

/-- The staged write of some bytes (R34: a delivery's bytes are those in the local memory of the record's tile). -/
def State.entryOf (s : State) (w : Writer) (k : Nat) (addr : Word) (bs : List Byte) (kind : Option Nat) : Staged :=
  let bc := match w.bc with
    | some (rec, work) => if isLocal k && tileOfKey k == tileOfKey rec then some (rec, work, 0) else none
    | none => none
  s.mkStaged w.c w.loop k addr bs kind bc w.steps

/-- Cut bytes at the 64-byte lines of staging (R43). -/
def linePieces : Nat → Nat → List Byte → List (Nat × List Byte)
  | 0, _, _ => []
  | f + 1, k, bs =>
    if bs.isEmpty then []
    else
      let n := 64 - k % 64
      (k, bs.take n) :: linePieces f (k + n) (bs.drop n)

/-- The writes of a range, bytes of barrier records left out. -/
def State.plainPieces (s : State) (k : Nat) (bs : List Byte) : List (Nat × List Byte) :=
  (splitRuns k bs s.isRecordByte).flatMap fun r => linePieces (r.2.length / 64 + 2) r.1 r.2

/-- Bytes of barrier records are written at once (R237). -/
def State.writeRecords (s : State) (k : Nat) (bs : List Byte) : State :=
  { s with mem := (bs.zipIdx.filter fun x => s.isRecordByte (k + x.2)).foldl (fun m x => m.set (k + x.2) x.1) s.mem }

/-- A write made in supervisor mode to an address: it bypasses staging where that is physical (R328). -/
def directWrite (supervisor : Bool) (a : Word) : Bool := supervisor && !isVirtual a && (match spaceOf a with
  | some (.phys _) => true
  | _ => false)

/-- Bytes, plain or contributions of elements of a width, enter memory at once, past staging (R328). -/
def State.writeThrough (s : State) (k : Nat) (bs : List Byte) (kind : Option (Nat × Nat)) : State :=
  let keep := s.hostOld.filter fun h => !(k ≤ h.key && h.key < k + bs.length)
  match kind with
  | none => { s with mem := s.mem.write k bs, hostOld := keep }
  | some (kd, width) =>
    let m := ((chunksOf width (bs.length / width) bs).zipIdx).foldl (init := s.mem) fun m x =>
      let a := k + x.2 * width
      m.write a (bytesOf width (combineRed kd (8 * width) (m.num a width) (numOf x.1)))
    { s with mem := m, hostOld := keep }

/-- A write past staging that its reply has still to acknowledge: only its own context reads it yet (R29, R328). -/
def State.enterDirect (s : State) (e : Staged) : State :=
  { s with staged := s.staged ++ [{ e with seq := s.seq, pool := 8 }], seq := s.seq + 1 }

/-- Such writes enter memory (R328). -/
def State.acknowledge (s : State) (seqs : List Nat) : State :=
  let mine := fun (e : Staged) => e.pool == 8 && seqs.contains e.seq
  let es := s.staged.filter mine
  let covered := fun (k : Nat) => es.any fun e => e.covers k
  { s with mem := commitAll s.mem es, staged := s.staged.filter (fun e => !mine e), hostOld := s.hostOld.filter fun h => !covered h.key,
           ctxs := keepFrozen es s.ctxs }

/-- A context's record beside a state that its own writes have changed: those that entered memory stay in the image it keeps (R31, R32). -/
def State.keptImage (s : State) (c : Ctx) : Ctx :=
  { c with frozen := match s.ctx? c.key with
      | some d => d.frozen
      | none => c.frozen }

/-- Stage plain bytes; none where the package pool cannot take them (R45). -/
def State.placePlain (s : State) (w : Writer) (k : Nat) (addr : Word) (bs : List Byte) : Option State :=
  (s.plainPieces k bs).foldlM (init := s.writeRecords k bs) fun s p =>
    let e := s.entryOf w p.1 (addr + BitVec.ofNat 64 (p.1 - k)) p.2 none
    if s.stagingFull e then none else some (s.enterStaging e)

/-- The first byte of a range that the package pool has no room for; the end of the range where there is none (R45). -/
def State.firstFull (s : State) (w : Writer) (k : Nat) (addr : Word) (bs : List Byte) : Nat :=
  let put := fun (x : State × Option Nat) (p : Nat × List Byte) => match x.2 with
    | some _ => x
    | none =>
      let e := x.1.entryOf w p.1 (addr + BitVec.ofNat 64 (p.1 - k)) p.2 none
      if x.1.stagingFull e then (x.1, some p.1) else (x.1.enterStaging e, none)
  ((s.plainPieces k bs).foldl put (s, none)).2.getD (k + bs.length)

/-- Stage one contribution to an element (R41). -/
def State.placeRed (s : State) (w : Writer) (k : Nat) (addr : Word) (bs : List Byte) (kind : Nat) : Option State :=
  if (List.range bs.length).any fun i => s.isRecordByte (k + i) then
    some (s.writeRecords k (bytesOf bs.length (combineRed kind (8 * bs.length) (s.mem.num k bs.length) (numOf bs))))
  else
    let e := s.entryOf w k addr bs (some kind)
    if s.stagingFull e then none else some (s.enterStaging e)

/-- Stage bytes, plain or as contributions of elements of a width, or write them past staging (R328). -/
def State.place (s : State) (w : Writer) (k : Nat) (addr : Word) (bs : List Byte) (kind : Option (Nat × Nat)) : Option State :=
  if w.direct then some (s.writeThrough k bs kind)
  else match kind with
  | none => s.placePlain w k addr bs
  | some (kd, width) =>
    ((chunksOf width (bs.length / width) bs).zipIdx).foldlM (init := s) fun s x =>
      s.placeRed w (k + x.2 * width) (addr + BitVec.ofNat 64 (x.2 * width)) x.1 kd

/-- Stage bytes of a store that faults later where there is no room: such entries are not placed yet (R45, R242). -/
def State.placeLater (s : State) (w : Writer) (k : Nat) (addr : Word) (bs : List Byte) (kind : Option (Nat × Nat)) : State :=
  if w.direct then
    match kind with
    | none => s.enterDirect (s.entryOf w k addr bs none)
    | some (kd, width) => ((chunksOf width (bs.length / width) bs).zipIdx).foldl (init := s) fun s x =>
        s.enterDirect (s.entryOf w (k + x.2 * width) (addr + BitVec.ofNat 64 (x.2 * width)) x.1 (some kd))
  else match kind with
  | none => (s.plainPieces k bs).foldl (init := s.writeRecords k bs) fun s p =>
      s.enterStaging (s.entryOf w p.1 (addr + BitVec.ofNat 64 (p.1 - k)) p.2 none)
  | some (kd, width) =>
    ((chunksOf width (bs.length / width) bs).zipIdx).foldl (init := s) fun s x =>
      if (List.range width).any fun i => s.isRecordByte (k + x.2 * width + i) then
        (s.placeRed w (k + x.2 * width) addr x.1 kd).getD s
      else s.enterStaging (s.entryOf w (k + x.2 * width) (addr + BitVec.ofNat 64 (x.2 * width)) x.1 (some kd))

/-! ### What holds an access back -/

/-- An access of a context waits: for a watermark of a copy of its tile (R231), for its own copy to have read what a store would
write (R230), for its own matrix commands (R301). -/
def State.heldBack (s : State) (c : Ctx) (sp : Span) (write : Bool) : Bool :=
  let t := s.tile c.key.tile
  ((t.channels ++ t.pausedCopies).any fun ch => !ch.isFree && (match ch.copy with
    | none => false
    | some cp =>
      let d := cp.dstSpan c.key.tile
      (sp.meets d && sp.meets { d with lo := d.lo + ch.watermark, len := d.len - ch.watermark }) ||
      (write && ch.ownedBy c && (ch.state == .active || ch.state == .paused) && (cp.srcSpan c.key.tile).meets sp))) ||
  (!sp.virt && ((s.mxOf c).any fun m => meetsAny m.memWrites sp.lo sp.len || (write && meetsAny m.memReads sp.lo sp.len)))

/-- Wait while an access is held back. -/
def State.waitFree (s : State) (c : Ctx) (sp : Span) (write : Bool) : Try Unit :=
  if s.heldBack c sp write then stall s else .ok ()

/-! ### Status words -/

/-- A provenance record (R315). -/
def bankRecord : Option Bank → Nat
  | none => 0
  | some b =>
    let w := b.mpdw0.toNat
    b.key.toNat * 2 ^ 448 + bitsOf b.mpdw1.toNat 63 32 * 2 ^ 416 + bitsOf b.mpdw1.toNat 31 0 * 2 ^ 384 +
    bitsOf b.mpdw2.toNat 63 32 * 2 ^ 352 + bitsOf b.mpdw2.toNat 31 0 * 2 ^ 320 + b.member % 65536 * 2 ^ 304 +
    bitsOf w 31 16 * 2 ^ 288 + b.offset % 2 ^ 20 * 2 ^ 256 + bitsOf w 14 8 * 2 ^ 16 + bitsOf w 7 6 * 2 ^ 14 +
    bitsOf w 5 0 * 2 ^ 8 + 1

/-- A doubleword of the matrix status range as a context sees it (R315). -/
def State.mxStatus (s : State) (c : Ctx) (index : Nat) : Nat :=
  let q := (s.tile c.key.tile).mq
  if index = 0 then q.length * 256 + b2n (!q.isEmpty)
  else if index = 1 then
    (List.range 8).foldl (fun a k => a + (q.filter fun m => m.ctx.num == k).length * 2 ^ (8 * k)) 0
  else if 8 ≤ index ∧ index < 16 then bankRecord c.front / 2 ^ (64 * (index - 8)) % 2 ^ 64
  else if 16 ≤ index ∧ index < 24 then bankRecord c.back / 2 ^ (64 * (index - 16)) % 2 ^ 64
  else 0

/-- n bytes of the matrix status range from an offset. -/
def State.mxBytes (s : State) (c : Ctx) (off n : Nat) : List Byte :=
  (List.range n).map fun i => BitVec.ofNat 8 (s.mxStatus c ((off + i) / 8) / 256 ^ ((off + i) % 8))

/-! ### Addresses of a relocatable task -/

/-- The address of a place in a level memory (R21). -/
def Space.addr : Space → Word
  | .priv o => BitVec.ofNat 64 o
  | .tile n o => BitVec.ofNat 64 (2 ^ 56 + n * 2 ^ 32 + o)
  | .plate n o => BitVec.ofNat 64 (2 * 2 ^ 56 + n * 2 ^ 32 + o)
  | .group n o => BitVec.ofNat 64 (3 * 2 ^ 56 + n * 2 ^ 32 + o)
  | .die n o => BitVec.ofNat 64 (4 * 2 ^ 56 + n * 2 ^ 32 + o)
  | .phys o => BitVec.ofNat 64 (5 * 2 ^ 56 + o)

/-- n bytes lie in a window given in units of 64 KiB (R272). -/
def inWindow (base size o n : Nat) : Bool := base * 65536 ≤ o && o + n ≤ (base + size) * 65536

/-- A place in the units of a task's rectangle at one origin, seen in the corresponding units at another; none outside them (R289). -/
def shiftSpace (b : Block) (old new : Nat) (sp : Space) (n : Nat) : Option Space :=
  let tiles := rectTiles old b.w b.h
  match sp with
  | .tile m o => if tiles.contains m then some (.tile (m + new - old) o) else none
  | .plate m o => if tiles.contains m then some (.plate (m + new - old) o) else none
  | .group g o => match tiles.find? fun m => groupOfTile m == g with
    | some m => if inWindow b.gmbase b.gmsize o n then some (.group (groupOfTile (m + new - old)) o) else none
    | none => none
  | .die d o => if d = dieOfTile old ∧ inWindow b.dmbase b.dmsize o n then some (.die (dieOfTile new) o) else none
  | sp => some sp

/-- The die of a level address, where it has one. -/
def Space.dieOf : Space → Option Nat
  | .tile n _ => some (dieOfTile n)
  | .plate n _ => some (dieOfTile n)
  | .group n _ => some (dieOfGroup n)
  | .die n _ => some n
  | _ => none

/-- Where the n bytes at a level address of a context lie now: a relocatable task's addresses name the units of its first placement, and
outside them it has no access to the memories of that die, or of the one in which it runs (R289). -/
def State.locate (s : State) (c : Ctx) (sp : Space) (n : Nat) : Option Space :=
  match s.task? c.task with
  | some t =>
    if !t.blk.reloc then some sp
    else match shiftSpace t.blk t.home t.origin sp n with
      | some sp => some sp
      | none => if sp.dieOf = some (dieOfTile t.home) ∨ sp.dieOf = some (dieOfTile t.origin) then none else some sp
  | none => some sp

/-- The same for an address: one that names no unit of the task stays as it is. -/
def shiftAddr (b : Block) (old new : Nat) (a : Word) : Word :=
  if isVirtual a then a
  else match spaceOf a with
    | some sp => ((shiftSpace b old new sp 1).getD sp).addr
    | none => a

/-- An address as its task forms it, seen in the units of the present placement. -/
def State.fromHome (s : State) (c : Ctx) (a : Word) : Word :=
  match s.task? c.task with
  | some t => if t.blk.reloc then shiftAddr t.blk t.home t.origin a else a
  | none => a

/-- An address in the units of the present placement, as its task forms it. -/
def State.toHome (s : State) (c : Ctx) (a : Word) : Word :=
  match s.task? c.task with
  | some t => if t.blk.reloc then shiftAddr t.blk t.origin t.home a else a
  | none => a

/-! ### Pages and peers -/

/-- One stretch of an access: its location, its address, its length, and the page it lies in. -/
structure Piece where
  key : Nat
  addr : Word
  len : Nat
  leaf : Option Leaf
  deriving DecidableEq, Repr

/-- The peer a stretch lies at, and the location there (R386). -/
def Piece.peer (p : Piece) : Option (Nat × Nat) :=
  match p.leaf with
  | some e => match e.place (vaOf p.addr) with
    | .peer k o => some (k, o)
    | .here _ => none
  | none => none

/-- A peer of the pod that answers: its number is in the pod and it is not absent (R389). -/
def State.peerThere (s : State) (p : Nat) : Bool := p < s.regs.podsize && !s.fab.absent.contains p

/-- The peer rules of an access to a page (R388, R389). -/
def State.peerOk (s : State) (c : Ctx) (e : Leaf) (write : Bool) : Bool :=
  e.tier != 2 || (s.peerThere e.peer && (!write || s.podTask c.task))

/-- The stretches of a virtual range, page by page, each translated (R331, R242). -/
def State.pagePieces (s : State) (c : Ctx) (write : Bool) (slack element : Nat) : Nat → Word → Nat → Try (List Piece)
  | 0, _, _ => .ok []
  | f + 1, a, n =>
    if n = 0 then .ok []
    else do
      let e ← s.translate c a write slack element
      requireAt (s.peerOk c e write) fcPEER a
      let k := min n (e.va + e.size - vaOf a)
      let rest ← s.pagePieces c write slack element f (a + BitVec.ofNat 64 k) (n - k)
      return { key := e.keyOf (vaOf a), addr := a, len := k, leaf := some e } :: rest

/-- The stretches of an exchange access of n bytes at a, in the order of checks of R242: UNMAPPED, ALIGN, STRADDLE, PROTECT, then
translation. -/
def State.accessPieces (s : State) (c : Ctx) (a : Word) (n align : Nat) (write : Bool) (slack element : Nat) : Try (List Piece) :=
  if isVirtual a then do
    if !virtualOk a then faultAt fcUNMAPPED a element
    if a.toNat % align ≠ 0 then faultAt fcALIGN a element
    if 2 ^ 57 < vaOf a + n then faultAt fcSTRADDLE a element
    s.pagePieces c write slack element (n / 65536 + 2) a n
  else match spaceOf a with
    | none => faultAt fcUNMAPPED a element
    | some (.priv _) => faultAt fcUNMAPPED a element
    | some sp => do
      if a.toNat % align ≠ 0 then faultAt fcALIGN a element
      if sp.extent < sp.offset + n then faultAt fcSTRADDLE a element
      match s.locate c sp n with
      | none => faultAt fcPROTECT a element
      | some sp => do
        if !sp.allowed c.key.tile c.supervisor then faultAt fcPROTECT a element
        return [{ key := sp.key c.key.tile, addr := a, len := n, leaf := none }]

/-- The access goes through the tile's own loop-back agent (R27): its own local memory by the tile-global alias. -/
def loopsBack (c : Ctx) (p : Piece) : Bool := p.leaf.isNone && isLocal p.key && tileOfKey p.key == c.key.tile

/-- The pages of some stretches. -/
def leavesOf (ps : List Piece) : List Leaf := ps.filterMap fun p => p.leaf

/-- The slack of a Form M class (R103). -/
def Ctx.slackOf (c : Ctx) (m : Nat) : Nat := if m < 7 then c.slktab.getD m 0xFFFF else c.slk

/-- The pod domain number of a context, if its task has one. -/
def State.podDomain (s : State) (c : Ctx) : Option Nat := if s.podTask c.task && c.bound 5 then some (c.domId 5) else none

/-- Writes that a context has sent to a peer so far (R386). -/
def State.writesSent (s : State) (c : Ctx) (peer : Nat) : Nat :=
  ((s.fab.sentWrites.find? fun x => x.1 == c.task && x.2.1 == c.rank && x.2.2.1 == peer).map fun x => x.2.2.2).getD 0

/-- The count of pod steps that a request carries: the context's snapshot; a write made after an ARRIVE belongs to the step that follows (R31,
R252, R386). -/
def Ctx.remoteSteps (c : Ctx) (write : Bool) : Nat :=
  let n := c.snapshot.getD 4 0
  if write && c.arrival.any (fun a => a.level == 5) then (n + 1) % 2 ^ 32 else n

/-- Count a write that a context sends to a peer (R386). -/
def State.countWrite (s : State) (c : Ctx) (peer : Nat) : State :=
  let rest := s.fab.sentWrites.filter fun x => !(x.1 == c.task && x.2.1 == c.rank && x.2.2.1 == peer)
  { s with fab := { s.fab with sentWrites := (c.task, c.rank, peer, s.writesSent c peer + 1) :: rest } }

/-- Send a remote request for an access, or for a run of a copy (R386). -/
def State.sendRequest (s : State) (c : Ctx) (id : Nat) (channel : Option Nat) (peer phys : Nat) (addr : Word) (len : Nat)
    (kind : PeerKind) (data : List Byte) (slack : Nat) (overdue : Bool := false) (fill : Option Nat := none) : State :=
  let prior := s.writesSent c peer
  let wr := kind != .read
  let (num, s) := s.fresh
  let r : PeerReq := { id := num, kind := kind, domain := s.podDomain c, package := s.regs.podpackage, rank := c.rank, steps := c.remoteSteps wr,
                       prior := prior, phys := phys, va := vaOf addr, len := len, data := data, slack := slack, overdue := overdue }
  let s := s.sendReq c.key slack r peer
  let q : RemoteReq := { num := num, id := id, ctx := c.key, peer := peer, deadline := s.peerDeadline, channel := channel, phys := phys, len := len,
                         write := wr, fill := fill, req := r, slack := slack, lost := false, got := none }
  let s := if wr then s.countWrite c peer else s
  { s with fab := { s.fab with requests := s.fab.requests ++ [q] } }

/-- The read cache is in use (R337). -/
def State.peerCacheOn (s : State) : Bool := bitsOf s.regs.peercache.toNat 63 44 != 0

/-- A line of the peer read cache that a read of a domain hits (R337). -/
def State.peerLine (s : State) (domain peer phys : Nat) : Option PeerLine :=
  if s.xlat.peerWritten.contains (domain, peer, phys / 64) then none
  else s.xlat.peerLines.find? fun l => l.peer == peer && l.phys == phys / 64 * 64 && l.domain == domain

/-- The bytes of a read at a peer that the cache has, where every line hits (R337). -/
def State.peerCached (s : State) (c : Ctx) (e : Leaf) (peer phys n : Nat) : Option (List Byte) :=
  match s.podDomain c with
  | none => none
  | some d =>
    if e.mode ≠ 1 ∨ !s.peerCacheOn then none
    else (List.range n).mapM fun i => (s.peerLine d peer (phys + i)).map fun l => l.data.getD ((phys + i) % 64) 0

/-- Cached lines that a write through this package covers serve no read in the pod step of any domain (R337). -/
def State.notePeerWrite (s : State) (peer phys n : Nat) : State :=
  let lines := (s.domains.filter fun d => d.level == 5).flatMap fun d =>
    (List.range ((phys + n - 1) / 64 + 1 - phys / 64)).map fun i => (d.id, peer, phys / 64 + i)
  { s with xlat := { s.xlat with peerWritten := (s.xlat.peerWritten ++ lines).dedup } }

end Sys2Proof.Machine
end

