-- ==== Sys2Proof/Machine/Work.lean ====
section
/-! DEFINITION. The work that a context has issued and that runs beside it: when all of it has been placed (R31, R148), and the delivery of
faults found in flight (R228, R361, R398, R407). -/

namespace Sys2Proof.Machine

/-- The task and rank of a context. -/
def Ctx.isOwner (c : Ctx) (task rank : Nat) : Bool := c.task == task && c.rank == rank

/-- Change the record of the context of a task's rank. -/
def State.updOwner (s : State) (task rank : Nat) (f : Ctx → Ctx) : State :=
  { s with ctxs := s.ctxs.map fun c => if c.isOwner task rank then f c else c }

/-- Channels of a context's copies, the paused ones too. -/
def State.channelsOf (s : State) (c : Ctx) : List Channel :=
  let t := s.tile c.key.tile
  (t.channels ++ t.pausedCopies).filter fun ch => !ch.isFree && ch.ownedBy c

def State.basediesOf (s : State) (c : Ctx) : List BdCmd := s.bd.cmds.filter fun m => c.isOwner m.task m.rank

def State.fsendsOf (s : State) (c : Ctx) : List Fsend := s.fab.fsends.filter fun m => c.isOwner m.task m.rank

/-- Collectives that the context posted and that are not complete. -/
def State.collsOf (s : State) (c : Ctx) : List Coll :=
  s.fab.colls.filter fun m => c.isOwner m.task m.rank && m.status.isNone

/-- Every write that the context issued, with its results, has been placed; its matrix commands have finished, and its
collectives are complete (R31, R148, R300, R407). -/
def State.workPlaced (s : State) (c : Ctx) : Bool :=
  c.live.isEmpty && (s.mxOf c).isEmpty && (s.channelsOf c).isEmpty && (s.basediesOf c).isEmpty && (s.fsendsOf c).isEmpty &&
  (s.collsOf c).isEmpty

/-- Which of a context's work an instruction delivers faults of. -/
inductive WorkScope where
  | all
  | channel (n : Nat)
  | record (key : Nat)
  | basedie
  | fabric
  deriving DecidableEq, Repr

/-- The location of a byte-count record by its address, seen from a tile. -/
def recordKey (tile : Nat) (a : Word) : Nat :=
  match spaceOf a with
  | some sp => sp.key tile
  | none => 0

/-- Bad work in scope: what it is, its code, its address (R196; of an FSEND the place that it writes: log entry 90); and whether its fault has been
delivered. -/
def State.badWork (s : State) (c : Ctx) (sc : WorkScope) : List (WorkRef × Nat × Word × Bool) :=
  let rec_ := fun (bc : Nat) => bc != 0 && (match sc with
    | .record k => recordKey c.key.tile (BitVec.ofNat 64 bc) == k
    | _ => false)
  let chs := ((s.channelsOf c).filter fun ch => ch.state == .faulted || ch.state == .held).filter fun ch => match sc with
    | .all => true
    | .channel n => ch.num == n
    | .record _ => (match ch.copy with
      | some t => rec_ t.bc
      | none => false)
    | _ => false
  let bds := ((s.basediesOf c).filter fun m => m.bad != 0).filter fun m => match sc with
    | .all => true
    | .basedie => true
    | .record _ => rec_ m.bc
    | _ => false
  let fss := ((s.fsendsOf c).filter fun m => m.bad != 0).filter fun m => match sc with
    | .all => true
    | .fabric => true
    | .record _ => rec_ m.lbc
    | _ => false
  let cls := ((s.collsOf c).filter fun m => m.bad != 0).filter fun _ => sc == .all || sc == .fabric
  chs.map (fun ch => (.channel ch.num, ch.fault, ch.faultAddr, ch.state == .held)) ++
  bds.map (fun m => (.basedie m.id, m.bad, m.badAddr, m.held)) ++
  fss.map (fun m => (.fsend m.id, m.bad, BitVec.ofNat 64 (2 ^ 56 + m.dtile * 2 ^ 32 + m.dst), m.held)) ++
  cls.map (fun m => (.coll m.idx, m.bad, m.dst, m.held))

/-- The packet of an FSEND (R396, R397). -/
def State.fsendPacket (s : State) (m : Fsend) : FsendIn :=
  { id := m.id, domain := m.domain, package := s.regs.podpackage, rank := m.rank, steps := m.steps, prior := m.prior, tile := m.dtile, dst := m.dst, rbc := m.rbc,
    data := m.data, slack := m.slack }

/-- Send an FSEND's bytes, from those read at issue (R397, R398): ordered ones on VC0, others on VC1. -/
def State.sendFsend (s : State) (m : Fsend) : State :=
  let vc := if m.ordered then 0 else 1
  let k := ((s.member? m.task m.rank).map fun c => c.key).getD m.ctx
  s.sendFrom k.tile k.num vc m.dpkg vc m.slack false m.data.length (.fsend (s.fsendPacket m))

/-- The packets of a base-die command set out (R103, R351): one to each channel, which answers it. -/
def State.sendBd (s : State) (k : CtxKey) (m : BdCmd) : State :=
  m.subs.foldl (fun s x => s.send
    { owner := .basedie m.id, vc := 0, slack := m.slack, flits := flitsOf 128, src := k.tile, num := k.num, goal := chanGoal x.1 x.2,
      reply := some 1 }) s

/-- Held work goes on (R228, R361, R398, R407): a copy from its recorded progress; every held base-die command of the context, and an
FSEND, are sent again whole; a collective's result is written again. -/
def State.restartWork (s : State) (c : Ctx) (w : WorkRef) : State :=
  match w with
  | .channel n =>
    let t := s.tile c.key.tile
    let ch := t.channel n
    let s := s.resend (ch.copy.map fun t => t.slack) fun q => q.channel.isSome && q.id == ch.work
    s.setTile { t with channels := t.channels.map fun ch =>
      if ch.num = n then { ch with state := .active, fault := 0, faultAddr := 0, slack := (ch.copy.map fun t => t.slack).getD ch.slack, overdue := false }
      else ch }
  | .basedie i =>
    let mine := fun (m : BdCmd) => m.bad != 0 && (s.bd.cmds.any fun x => x.id == i && x.task == m.task && x.rank == m.rank)
    let again := s.bd.cmds.filter mine
    let cmds := s.bd.cmds.map fun m => if mine m then { m with bad := 0, held := false, left := m.subs } else m
    again.foldl (fun s m => s.sendBd c.key m) { s with bd := { s.bd with cmds := cmds } }
  | .fsend i =>
    let fs := s.fab.fsends.map fun m => if m.id = i then { m with bad := 0, held := false, acked := false, deadline := s.peerDeadline } else m
    let s := { s with fab := { s.fab with fsends := fs } }
    match fs.find? fun m => m.id == i with
    | some m => s.sendFsend m
    | none => s
  | .coll i =>
    { s with fab := { s.fab with colls := s.fab.colls.map fun m => if m.idx = i then { m with bad := 0, held := false } else m } }

/-- Deliver a fault of the work in scope, or let held work of the scope go on, and then proceed. -/
def workGate (s : State) (c : Ctx) (sc : WorkScope) : Try Unit :=
  let bad := s.badWork c sc
  let told := bad.filter fun b => b.2.2.2
  if !told.isEmpty then stall (told.foldl (fun s b => s.restartWork c b.1) s)
  else match bad with
    | [] => .ok ()
    | (w, code, addr, _) :: _ =>
      let ch := match w with
        | .channel n => n
        | _ => 0
      .error (.trap { code := code, inflight := true, channel := ch, addr := addr, work := some w })

/-! ### Engines' translations -/

/-- Why an engine's access does not go on now: it waits, for the way onto the mesh too, or it has found a fault. -/
inductive EngineStop where
  | wait
  | full
  | note (s : State)
  | bad (code : Nat) (addr : Word)
  deriving DecidableEq, Repr

/-- Who makes an engine's access: the work, the tile or engine from which it goes, its mode, its slack and overdue flag (R112). -/
structure Access where
  who : Seeker
  c : Ctx
  supervisor : Bool
  slack : Nat
  overdue : Bool := false
  deriving DecidableEq, Repr

/-- A read of the page is being retried (R343). -/
def State.retrying (s : State) (e : Leaf) : Bool := s.xlat.retries.any fun r => e.hasByte (65536 * r.page)

/-- The page entry for an engine's access (R331, R334). -/
def State.engineLeaf (s : State) (x : Access) (a : Word) (write : Bool) : Except EngineStop Leaf := do
  if !(virtualOk a && s.xlatOn) then throw (.bad fcUNMAPPED a)
  let e ← match s.look x.who x.c.key.tile (vaOf a) x.slack x.overdue with
    | .leaf e => pure e
    | .bad code => throw (.bad code a)
    | .wait joined s' => throw (if joined then .wait else .note s')
  if e.tier = 3 then throw (.bad fcUNMAPPED a)
  if (!x.supervisor && !e.user) || (write && !e.writable) then throw (.bad fcPROTECT a)
  if e.poison then throw (.bad fcPOISON a)
  if write && e.wblock then
    if s.xlat.migrations.any fun m => m.leaf.hasByte (vaOf a) && m.blocked.isNone && m.status.isNone then throw (.note (s.noteBlocked x.c (vaOf a)))
    else throw .wait
  if !s.peerOk x.c e write then throw (.bad fcPEER a)
  if !write && s.retrying e then throw .wait
  return e

/-- The page entry of a virtual address as it stands, without an access to it; none where the walk finds none (R222). -/
def State.peekLeaf (s : State) (tile : Nat) (a : Word) : Option Leaf :=
  if !(virtualOk a && s.xlatOn) then none
  else match (s.cached tile (vaOf a)).filter s.cachedServes with
    | some e => some e
    | none => match s.walkAll (vaOf a) with
      | .leaf e => some e
      | _ => none

/-- The stretches of an engine's access to a virtual range, page by page (R331). -/
def State.enginePages (s : State) (x : Access) (write : Bool) : Nat → Word → Nat → Except EngineStop (List Piece)
  | 0, _, _ => .ok []
  | f + 1, a, n =>
    if n = 0 then .ok []
    else do
      let e ← s.engineLeaf x a write
      let k := min n (e.va + e.size - vaOf a)
      let rest ← s.enginePages x write f (a + BitVec.ofNat 64 k) (n - k)
      return { key := e.keyOf (vaOf a), addr := a, len := k, leaf := some e } :: rest

/-- The stretches of an engine's access to any address that its issue has checked. -/
def State.enginePieces (s : State) (x : Access) (write : Bool) (a : Word) (n : Nat) : Except EngineStop (List Piece) :=
  if isVirtual a then s.enginePages x write (n / 65536 + 2) a n
  else .ok [{ key := (spanAt x.c.key.tile a n).lo, addr := a, len := n, leaf := none }]

/-- An address names the tile's own local memory by the tile-global alias (R27). -/
def loopAddr (c : Ctx) (a : Word) : Bool :=
  match spaceOf a with
  | some (.tile n _) => !isVirtual a && n == c.key.tile
  | _ => false

/-! ### Arrivals at byte-count records -/

/-- Send an arrival to a record (R232, R239): it waits at the byte-count unit of the record's tile. -/
def State.sendArrival (s : State) (rec amount work : Nat) (post : Option CtxKey) : State :=
  s.updTile (tileOfKey rec) fun t => { t with bcq := t.bcq ++ [{ key := rec, amount := amount, work := work, post := post }] }

/-- Where a byte-count record may lie: in the issuing tile (R240); in the issuing group (R240); where the owner limits let a copy write (R22,
R227). -/
inductive RecordReach where
  | tile
  | group
  | owner
  deriving DecidableEq, Repr

/-- A tile's records are in reach of a context. -/
def RecordReach.holdsTile (r : RecordReach) (c : Ctx) (n : Nat) : Bool :=
  match r with
  | .tile => n == c.key.tile
  | .group => groupOfTile n == groupOfTile c.key.tile
  | .owner => c.supervisor || groupOfTile n == groupOfTile c.key.tile

/-- The location of a named byte-count record: UNMAPPED, ALIGN, PROTECT in the order of R240. A copy's is checked as R227 has it: STRADDLE where
its 16 bytes leave the local memory, and ALIGN later. -/
def recordAt (s : State) (c : Ctx) (a : Word) (reach : RecordReach) : Try Nat := do
  let align := reach != .owner
  if isVirtual a then
    requireAt (!align || a.toNat % 16 == 0) fcALIGN a
    faultAt fcPROTECT a
  match spaceOf a with
  | none => faultAt fcUNMAPPED a
  | some sp =>
    let hole := match sp with
      | .priv o => (0x108000 ≤ o && o < 0x200000) || 0x211000 ≤ o
      | _ => false
    requireAt (!hole) fcUNMAPPED a
    requireAt (!align || a.toNat % 16 == 0) fcALIGN a
    match sp with
    | .priv o => do
      requireAt (0x100000 ≤ o || o + 16 ≤ 0x100000) fcSTRADDLE a
      requireAt (o < 0x100000) fcPROTECT a
      return sp.key c.key.tile
    | .tile _ x => do
      requireAt (x + 16 ≤ 0x100000) fcSTRADDLE a
      match s.locate c sp 16 with
      | some (.tile n o) => do
        requireAt (reach.holdsTile c n) fcPROTECT a
        return localKey n o
      | _ => faultAt fcPROTECT a
    | _ => faultAt fcPROTECT a

end Sys2Proof.Machine
end

