-- ==== Sys2Proof/Machine/Transfer.lean ====
section
/-! DEFINITION. The block transfer engine (R216-R236): starting a copy, its runs, its completion and its faults, and the channel
instructions. -/

namespace Sys2Proof.Machine

/-! ### Starting a copy -/

/-- The check of a level side over its span (R227 check 3): where it breaks both, STRADDLE is taken before PROTECT, which the rule does not
order: DESIGN CHOICE, log entry 94. -/
def checkLevelSide (s : State) (c : Ctx) (a : Word) (n : Nat) (write : Bool) : Try Unit :=
  match spaceOf a with
  | none => faultAt fcUNMAPPED a
  | some (.priv o) => do
    let edge := if o < 0x100000 then 0x100000 else if o < 0x108000 then 0x108000 else if 0x200000 ≤ o && o < 0x210000 then 0x210000
      else if 0x210000 ≤ o && o < 0x211000 then 0x211000 else 0
    requireAt (edge != 0) fcUNMAPPED a
    requireAt (o + n ≤ edge) fcSTRADDLE a
    requireAt (edge == 0x100000) fcPROTECT a
  | some (.plate t o) => do
    requireAt (o + n ≤ 2 ^ 20) fcSTRADDLE a
    requireAt (write && s.locate c (.plate t o) n == some (.plate c.key.tile o)) fcPROTECT a
  | some sp => do
    requireAt (sp.offset + n ≤ sp.extent) fcSTRADDLE a
    requireAt (((s.locate c sp n).map fun sp => sp.allowed c.key.tile c.supervisor) == some true) fcPROTECT a

/-- The plate ranges that a tile's banks keep from being written (R303). -/
def State.pinsOn (s : State) (tile : Nat) : List (Nat × Nat) :=
  (s.ctxs.filter fun d => d.key.tile == tile).flatMap fun d =>
    [d.front, d.back].filterMap fun b => b.map fun b => (b.offset, b.image.length)

/-- A copy to a plate would write a byte that a bank keeps (R303). -/
def State.copyPinned (s : State) (c : Ctx) (t : Template) : Bool :=
  match spaceOf t.dstSide.addr with
  | some (.plate _ _) =>
    let pins := s.pinsOn c.key.tile
    let sp := t.dstSpan c.key.tile
    meetsAny pins (sp.lo % 2 ^ 20) sp.len && (List.range t.total).any fun n =>
      (t.dstPieces n).any fun p => meetsAny pins (p.1.toNat % 2 ^ 20) p.2
  | _ => false

/-- A side whose format waits for its page takes it from the page's entry as it stands at issue, for its span; what the page forbids is found in
flight (R222, R230). -/
def State.withPages (s : State) (tile : Nat) (t : Template) : Template :=
  let fmt := fun (d : Side) => if d.openFmt then resolveFmt d.fmt d.geo (s.peekLeaf tile d.addr) else (d.fmt, d.geo)
  let (sf, sg) := fmt t.srcSide
  let (df, dg) := fmt t.dstSide
  { t with sfmt := sf, sgeo := sg, dfmt := df, dgeo := dg }

/-- A non-blocked formatted level side is aligned to its elements (R227 check 4). -/
def Side.aligned (d : Side) : Bool :=
  isVirtual d.addr || d.fmt == 0 || d.blocked ||
  (d.addr.toNat % d.width == 0 && d.strides.all fun st => st % ((d.width : Nat) : Int) == 0)

/-- A copy waits for the owner's copies that it would race with (R230), and for its matrix commands (R301). -/
def State.copyWaits (s : State) (c : Ctx) (src dst : Span) : Bool :=
  ((s.channelsOf c).any fun ch => (ch.state == .active || ch.state == .paused) && (match ch.copy with
    | none => false
    | some t =>
      let d := t.dstSpan c.key.tile
      d.meets src || d.meets dst || (t.srcSpan c.key.tile).meets dst)) ||
  ((s.mxOf c).any fun m => (!dst.virt && (meetsAny m.memReads dst.lo dst.len || meetsAny m.memWrites dst.lo dst.len)) ||
    (!src.virt && meetsAny m.memWrites src.lo src.len))

/-- The requests to peers that a copy has made are over; and the work of its packets that have arrived. -/
def State.endRequests (s : State) (work : Nat) (which : RemoteReq → Bool) : State :=
  let mine := fun (q : RemoteReq) => q.id == work && q.channel.isSome && which q
  let gone := s.fab.requests.filter mine
  let s := gone.foldl (fun (s : State) q => s.dropPackets (.reply q.num)) s
  { s with fab := { s.fab with requests := s.fab.requests.filter fun q => !mine q } }

/-- Effects of a copy's completion, in the order of R232. -/
def completeCopy (s : State) (tile : Nat) (ch : Channel) (overdue : Bool) : State :=
  match ch.copy with
  | none => s
  | some t =>
    let s := s.updOwner ch.task ch.rank fun c => c.orFlags ch.flags
    let s := if t.bc != 0 && !ch.nobc then s.sendArrival (recordKey tile (BitVec.ofNat 64 (t.bc / 16 * 16))) ch.bytes ch.work none else s
    let done := { ch with state := .complete, image := none, pages := [], fault := 0 }
    let s := s.updTile tile fun u => u.setChannel done
    let s := if t.ev && !ch.quiet then s.raise ch.task ch.rank { kind := 1, src := ch.num, payload := BitVec.ofNat 64 done.word } else s
    let s := if overdue then s.updOwner ch.task ch.rank fun c => c.countOverdue 4 else s
    ((s.endRequests ch.work fun _ => true).dropPackets (.copy ch.work)).forgetSeeker (.work ch.work)

/-- Start a copy on a channel (R217, R218, R227): the start word, and the addresses that replace the template's. -/
def startCopy (s : State) (c : Ctx) (num : Nat) (word : Nat) (src dst : Option Word) : Try (State × Ctx) := do
  let tl := s.tile c.key.tile
  let ch := tl.channel num
  if ch.ownedBy c && !ch.isFree then workGate s c (.channel num)
  if !ch.isFree || tl.pausedCopies.any (fun p => p.num == num && p.ownedBy c) then stall s
  require (bitsOf word 31 8 == 0) fcTEMPLATE
  let base := c.tmplbase.toNat + 256 * (word % 64)
  require (base + 256 ≤ 0x100000) fcTEMPLATE
  s.waitFree c { virt := false, lo := localKey c.key.tile base, len := 256 } false
  let t0 := templateOf (numOf (s.readLoc c false (localKey c.key.tile base) 256))
  let t := { t0 with src := (src.map fun (a : Word) => a.toNat).getD t0.src, dst := (dst.map fun (a : Word) => a.toNat).getD t0.dst }
  require t.startOk fcTEMPLATE
  let zero := t.total == 0
  let (sa, sn) := t.srcSide.span t.extents t.runLen
  let (da, dn) := t.dstSide.span t.extents t.runLen
  if !zero && !isVirtual t.srcSide.addr then checkLevelSide s c sa sn false
  if !zero && !isVirtual t.dstSide.addr then
    checkLevelSide s c da dn true
    requireAt (!s.copyPinned c t) fcPROTECT da
  if t.bc != 0 then
    let _ ← recordAt s c (BitVec.ofNat 64 t.bc) .owner
  if !zero then
    requireAt t.srcSide.aligned fcALIGN t.srcSide.addr
    requireAt t.dstSide.aligned fcALIGN t.dstSide.addr
    requireAt (t.bc % 16 == 0) fcALIGN (BitVec.ofNat 64 t.bc)
    requireAt (!isVirtual t.srcSide.addr || virtualOk t.srcSide.addr) fcUNMAPPED t.srcSide.addr
    requireAt (!isVirtual t.dstSide.addr || virtualOk t.dstSide.addr) fcUNMAPPED t.dstSide.addr
  let here := fun (x : Nat) => (s.fromHome c (BitVec.ofNat 64 x)).toNat
  let t := s.withPages c.key.tile { t with src := here t.src, dst := here t.dst, bc := here t.bc }
  if !zero then
    if s.copyWaits c (t.srcSpan c.key.tile) (t.dstSpan c.key.tile) then stall s
  let (work, s) := s.fresh
  let ch : Channel :=
    { num := num, state := .active, owner := c.key.num, task := c.task, rank := c.rank, template := word % 64, copy := some t,
      nobc := bitAt word 7, quiet := bitAt word 6, image := some (s.image c), observed := c.observed, slack := t.slack, work := work,
      supervisor := c.supervisor }
  let s := (s.setCtx c).updTile c.key.tile fun u => u.setChannel ch
  let s := if zero then completeCopy s c.key.tile ch false else s
  return (s, s.again c)

/-! ### Runs -/

/-- The access of a copy's runs. -/
def Channel.access (ch : Channel) (c : Ctx) : Access :=
  { who := .work ch.work, c := c, supervisor := ch.supervisor, slack := ch.slack, overdue := ch.overdue }

/-- A request of a copy that asks a peer for the bytes of a stretch. -/
def RemoteReq.asksFor (q : RemoteReq) (work peer phys n : Nat) : Bool :=
  q.id == work && q.channel.isSome && !q.write && q.peer == peer && q.phys ≤ phys && phys + n ≤ q.phys + q.len

/-- What a peer has sent to the tile for a stretch of a copy's source. -/
def State.sentFor (s : State) (work peer phys n : Nat) : Option (List Byte) :=
  match s.fab.requests.find? fun q => q.asksFor work peer phys n with
  | some q => if s.packetsDone (.reply q.num) then q.got.map fun bs => (bs.drop (phys - q.phys)).take n else none
  | none => none

/-- The bytes of a stretch of a copy's source (R229): the image at issue; for a peer's, what it has sent. -/
def copyRead (s : State) (c : Ctx) (ch : Channel) (p : Piece) : Option (List Byte) :=
  match p.peer with
  | some (k, o) =>
    match p.leaf.bind fun e => s.peerCached c e k o p.len with
    | some bs => some bs
    | none => s.sentFor ch.work k o p.len
  | none =>
    let im := ch.image.getD s.now
    let r : Reader := { party := { c.party with loopback := loopAddr c p.addr }, tile := c.key.tile, observed := ch.observed }
    some (s.freshRecords p.key (im.view r p.key p.len))

/-- A page that a run touches carries the side's format, or raw (R222). -/
def Side.pageOk (d : Side) (p : Piece) : Bool :=
  match p.leaf with
  | some e => e.fmt == 0 || (e.fmt == d.fmt && e.geo == d.geo)
  | none => true

/-- The stretches of the pieces of one side of a run. -/
def sidePieces (s : State) (c : Ctx) (ch : Channel) (d : Side) (write : Bool) :
    List (Word × Nat) → Except EngineStop (List (List Piece))
  | [] => .ok []
  | (a, n) :: r => do
    let ps ← s.enginePieces (ch.access c) write a n
    match ps.find? fun p => !d.pageOk p with
    | some p => throw (.bad fcTEMPLATE p.addr)
    | none => pure ()
    let rest ← sidePieces s c ch d write r
    return ps :: rest

/-- Ask a peer for a stretch: for whole lines where the reply fills the read cache (R337, R386). -/
def State.askPiece (s : State) (c : Ctx) (id : Nat) (channel : Option Nat) (slack : Nat) (overdue : Bool) (p : Piece) : State :=
  match p.peer, p.leaf with
  | some (k, o), some e =>
    if e.mode = 1 ∧ s.peerCacheOn ∧ (s.podDomain c).isSome then
      let lo := o / 64 * 64
      let hi := (o + p.len + 63) / 64 * 64
      s.sendRequest c id channel k lo p.addr (hi - lo) .read [] slack overdue (s.podDomain c)
    else s.sendRequest c id channel k o p.addr p.len .read [] slack overdue
  | _, _ => s

/-- Ask a peer for the stretches of a run's source that have not come (R386). -/
def askPeers (s : State) (c : Ctx) (ch : Channel) (ps : List Piece) : Except EngineStop Unit :=
  let missing := ps.filter fun p => p.peer.isSome && (copyRead s c ch p).isNone
  if missing.isEmpty then .ok ()
  else
    let asked := fun (p : Piece) => p.peer.any fun x => s.fab.requests.any fun q => q.asksFor ch.work x.1 x.2 p.len
    let new := missing.filter fun p => !asked p
    if new.isEmpty then .error .wait
    else .error (.note (new.foldl (fun s p => s.askPiece c ch.work (some ch.num) ch.slack ch.overdue p) s))

/-- The parts of a stretch that lie in one 512-byte block of a peer each: the packets of a copy's write there (R386); elements of w bytes stay
whole. -/
def peerBlocks (w : Nat) : Nat → Piece → List Byte → List (Piece × List Byte)
  | 0, _, _ => []
  | f + 1, p, bs =>
    match p.peer with
    | none => [(p, bs)]
    | some (_, o) =>
      let n := min p.len ((512 - o % 512 + w - 1) / w * w)
      let rest := { p with key := p.key + n, addr := p.addr + BitVec.ofNat 64 n, len := p.len - n }
      ({ p with len := n }, bs.take n) :: if rest.len = 0 then [] else peerBlocks w f rest (bs.drop n)

/-- A remote write packet of a copy is sent (R386). -/
def sendGathered (s : State) (c : Ctx) (ch : Channel) (g : Gather) : State :=
  s.sendRequest c ch.work (some ch.num) g.peer g.phys g.addr g.data.length g.kind g.data ch.slack ch.overdue

/-- Bytes that follow a packet's own, in the same block of the same peer, go in it too: DEDUCED, log entry 115. -/
def Gather.takes (g h : Gather) : Bool :=
  g.peer == h.peer && g.kind == h.kind && g.phys + g.data.length == h.phys && g.phys / 512 == h.phys / 512

/-- A packet reaches the end of its block. -/
def Gather.full (g : Gather) : Bool := (g.phys + g.data.length) / 512 != g.phys / 512

/-- Bytes for a peer join the packet that the copy is forming, or begin the next one (R386). -/
def gatherWrite (s : State) (c : Ctx) (ch : Channel) (h : Gather) : State × Channel :=
  let s := s.notePeerWrite h.peer h.phys h.data.length
  let (s, g) : State × Gather := match ch.gather with
    | none => (s, h)
    | some g => if g.takes h then (s, { g with data := g.data ++ h.data }) else (sendGathered s c ch g, h)
  if g.full then (sendGathered s c ch g, { ch with gather := none }) else (s, { ch with gather := some g })

/-- The packet that a copy is forming is sent, as nothing more joins it. -/
def flushGather (s : State) (c : Ctx) (ch : Channel) : State × Channel :=
  match ch.gather with
  | some g => (sendGathered s c ch g, { ch with gather := none })
  | none => (s, ch)

/-- Write one stretch of a run (R224, R230, R386). -/
def copyWrite (s : State) (c : Ctx) (ch : Channel) (t : Template) (p : Piece) (bs : List Byte) (kind : Option (Nat × Nat)) : Option (State × Channel) :=
  match p.peer with
  | some (k, o) =>
    let pk := match kind with
      | some (kd, _) => PeerKind.reduce kd
      | none => PeerKind.write
    some (gatherWrite s c ch { peer := k, phys := o, addr := p.addr, kind := pk, data := bs })
  | none =>
    let bc := if t.bc = 0 || ch.nobc then none else some (recordKey c.key.tile (BitVec.ofNat 64 t.bc), ch.work)
    let w : Writer := { c := c, loop := loopAddr c p.addr, steps := s.stepsOf c, bc := bc,
                        direct := directWrite ch.supervisor p.addr }
    (s.place w p.key (s.toHome c p.addr) bs kind).map fun s => (s, ch)

/-- Bytes cut as the stretches they go to. -/
def cutPieces : List Piece → List Byte → List (Piece × List Byte)
  | [], _ => []
  | p :: r, bs => (p, bs.take p.len) :: cutPieces r (bs.drop p.len)

/-- n bytes of a stretch from an offset on. -/
def Piece.part (p : Piece) (o n : Nat) : Piece := { p with key := p.key + o, addr := p.addr + BitVec.ofNat 64 o, len := n }

/-- The stretches of a reducing run of elements of w bytes cut once more: whole elements, and the parts of an element that lies in two pages,
which a misaligned virtual side may have. The flag says that the elements are whole. -/
def cutElems (w : Nat) : Nat → List (Piece × List Byte) → List (Piece × List Byte × Bool)
  | _, [] => []
  | o, (p, bs) :: r =>
    let head := min ((w - o % w) % w) p.len
    let whole := (p.len - head) / w * w
    let sub := fun (a n : Nat) (x : Bool) => (p.part a n, (bs.drop a).take n, x)
    ([sub 0 head false, sub head whole true, sub (head + whole) (p.len - head - whole) false].filter fun x => x.1.len != 0) ++
      cutElems w (o + p.len) r

/-- Elements that lie in two pages combined with what the context reads there: they are written as plain bytes; a peer's bytes are free values.
DESIGN CHOICE, log entry 95. -/
def mixParts (s : State) (c : Ctx) (kind w : Nat) (parts : List (Piece × List Byte)) : List (Piece × List Byte) :=
  let old := parts.flatMap fun x => if x.1.peer.isSome then (List.range x.1.len).map (fun i => (Config.freeWord (s.free + i)).truncate 8)
    else s.readLoc c (loopAddr c x.1.addr) x.1.key x.1.len
  let add := parts.flatMap fun x => x.2
  let n := add.length / w
  let new := ((chunksOf w n old).zip (chunksOf w n add)).flatMap fun x => bytesOf w (combineRed kind (8 * w) (numOf x.1) (numOf x.2))
  cutPieces (parts.map fun x => x.1) new

/-- What a run writes: stretches, their bytes, and whether they are contributions of the copy's kind (R224). -/
def runWrites (s : State) (c : Ctx) (t : Template) (cut : List (Piece × List Byte)) : List (Piece × List Byte × Option (Nat × Nat)) :=
  match t.kind with
  | none => cut.map fun x => (x.1, x.2, none)
  | some k =>
    let w := if 5 ≤ t.red then 1 else t.redWidth
    let xs := cutElems w 0 cut
    (xs.filter fun x => x.2.2).map (fun x => (x.1, x.2.1, some (k, w))) ++
      (mixParts s c k w ((xs.filter fun x => !x.2.2).map fun x => (x.1, x.2.1))).map fun x => (x.1, x.2, none)

/-- A stretch lies beyond the tile of a copy: its bytes cross the mesh. -/
def farPiece (c : Ctx) (p : Piece) : Bool := !(isLocal p.key && tileOfKey p.key == c.key.tile) && !isPlate p.key

/-- The packets of a run: a request for each unit of its source, with data in reply, and its writes, each acknowledged (R16, R18, R103, R112,
R439). A peer's are asked for, and written, apart. -/
def sendRun (s : State) (c : Ctx) (ch : Channel) (src dst : List Piece) : State :=
  let units := fun (ps : List Piece) => (ps.filter fun p => p.peer.isNone && farPiece c p).flatMap fun p => cutUnits p.key p.len
  let x := fun (k n m : Nat) => ({ owner := .copy ch.work, vc := 1, slack := ch.slack, overdue := ch.overdue, flits := n, src := c.key.tile,
                                   num := c.key.num, goal := serverOf k, reply := some m } : Parcel)
  let s := (units src).foldl (fun (s : State) u => s.send (x u.1 1 (flitsOf u.2))) s
  (units dst).foldl (fun (s : State) u => s.send (x u.1 (flitsOf u.2) 1)) s

/-- Resolve the formats of the sides, once (R222): TEMPLATE in flight where the pair is outside the rules. -/
def resolveCopy (s : State) (c : Ctx) (ch : Channel) (t : Template) : Except EngineStop Template :=
  if ch.resolved then .ok t
  else do
    let side := fun (d : Side) (write : Bool) =>
      (if d.openFmt then do
        let e ← s.engineLeaf (ch.access c) d.addr write
        return resolveFmt d.fmt d.geo (some e)
      else .ok (d.fmt, d.geo) : Except EngineStop (Nat × Nat))
    let sf ← side t.srcSide false
    let df ← side t.dstSide true
    let t := { t with sfmt := sf.1, sgeo := sf.2, dfmt := df.1, dgeo := df.2 }
    if !t.formatsOk (bitsOf t.dst 63 56 == 2) then throw (.bad fcTEMPLATE t.srcSide.addr)
    return t

/-- One run of an active copy (R221): the state after it, or why it does not go on. -/
def runCopy (s : State) (tile num : Nat) : Except EngineStop State := do
  let ch := (s.tile tile).channel num
  match ch.copy, s.member? ch.task ch.rank with
  | some t0, some c =>
    if ch.state != .active || t0.total ≤ ch.progress then throw .wait
    let t ← resolveCopy s c ch t0
    let ch := { ch with copy := some t, resolved := true }
    let src ← sidePieces s c ch t.srcSide false (t.srcPieces ch.progress)
    let dst ← sidePieces s c ch t.dstSide true (t.dstPieces ch.progress)
    if s.meshFull tile && (src.flatten ++ dst.flatten).any (farPiece c) then throw .full
    askPeers s c ch src.flatten
    let data := src.map fun ps => ps.flatMap fun p => (copyRead s c ch p).getD []
    let (out, fl) := t.convertRun data
    let cut := (dst.zip out).flatMap fun x => cutPieces x.1 x.2
    let parts := (runWrites s c t cut).flatMap fun x => (peerBlocks ((x.2.2.map fun k => k.2).getD 1) (x.1.len / 512 + 2) x.1 x.2.1).map fun y => (y.1, y.2, x.2.2)
    match parts.foldlM (init := (s, ch)) fun y x => copyWrite y.1 c y.2 t x.1 x.2.1 x.2.2 with
    | none => throw (.bad fcSTAGINGFULL (s.toHome c t.dstSide.addr))
    | some (s, ch) =>
      let (s, ch) := if t.total ≤ ch.progress + 1 then flushGather s c ch else (s, ch)
      let got := fun (q : RemoteReq) => !q.write && q.got.isSome
      let reads := s.fab.requests.filter fun q => q.id == ch.work && q.channel.isSome && got q
      let late := ch.late || reads.any fun q => s.packetsOverdue (.reply q.num)
      let s := (s.endRequests ch.work got).usePages tile ch.slack (leavesOf src.flatten) (leavesOf dst.flatten)
      let s := (sendRun s c ch src.flatten dst.flatten).forgetSeeker (.work ch.work)
      let kept := if s.packetsDone (.copy ch.work) then [] else ch.pages
      let ch := { ch with progress := ch.progress + 1, flags := Nat.lor ch.flags fl, late := late,
                          pages := (kept ++ (leavesOf (src ++ dst).flatten).map Leaf.page).dedup,
                          bytes := ch.bytes + out.foldl (fun a x => a + x.length) 0 }
      return s.updTile tile fun u => u.setChannel ch
  | _, _ => throw .wait

/-- A copy paused with its owner continues on its channel when the owner runs again and the channel is free (R234). -/
def reinstall (s : State) (tile num : Nat) : Option State :=
  let t := s.tile tile
  let ready := t.pausedCopies.find? fun p => p.num == num && (match s.member? p.task p.rank with
    | some c => !c.stopped
    | none => false)
  match ready with
  | none => none
  | some p =>
    if (t.channel num).isFree then
      some (s.setTile ({ t with pausedCopies := t.pausedCopies.filter fun q => q != p }.setChannel { p with state := .active }))
    else none

/-- COPY_RUN (R221, R231, R234): one run, or a paused copy takes its channel again. -/
def execCopyRun (s : State) : Out :=
  match reinstall s s.sel.a s.sel.b with
  | some s' => .next s'
  | none => match runCopy s s.sel.a s.sel.b with
    | .ok s' => .next s'
    | .error (.note s') => .next s'
    | .error _ => .refused (.notEnabled "COPY_RUN")

/-- COPY_INFLIGHT_FAULT (R228): the copy stops after its last whole run, in state 3. -/
def execCopyInflightFault (s : State) : Out :=
  match runCopy s s.sel.a s.sel.b with
  | .error (.bad code a) =>
    if code = s.sel.c then
      let work := ((s.tile s.sel.a).channel s.sel.b).work
      .next ((s.updTile s.sel.a fun u => u.setChannel { (u.channel s.sel.b) with state := .faulted, fault := code, faultAddr := a }).forgetSeeker
        (.work work))
    else .refused (.notEnabled "COPY_INFLIGHT_FAULT")
  | _ => .refused (.notEnabled "COPY_INFLIGHT_FAULT")

/-- Every run of a channel's copy has been made, and every packet and remote request of it is answered. -/
def copyDone (s : State) (ch : Channel) : Bool :=
  ch.state == .active && (match ch.copy with
    | some t => t.total ≤ ch.progress
    | none => false) &&
  s.packetsDone (.copy ch.work) &&
  s.fab.requests.all fun q => q.id != ch.work || q.channel.isNone || (q.got.isSome && s.packetsDone (.reply q.num))

/-- Some packet of a copy has reached its destination overdue (R114). -/
def copyLate (s : State) (ch : Channel) : Bool :=
  ch.late || s.packetsOverdue (.copy ch.work) ||
  s.fab.requests.any fun q => q.id == ch.work && q.channel.isSome && s.packetsOverdue (.reply q.num)

/-- COPY_COMPLETE (R232). -/
def execCopyComplete (s : State) : Out :=
  let ch := (s.tile s.sel.a).channel s.sel.b
  if copyDone s ch then .next (completeCopy s s.sel.a ch (copyLate s ch))
  else .refused (.notEnabled "COPY_COMPLETE")

/-! ### Instructions -/

/-- BTX (R217): a 32-bit store to a channel's place in the aperture; STW there does the same. -/
def apertureStore (s : State) (c : Ctx) (a : Word) (word : Nat) : Try (State × Ctx) := do
  requireAt ((a.toNat - 0x200000) % 4096 == 0) fcPROTECT a
  startCopy s c ((a.toNat - 0x200000) / 4096) (word % 2 ^ 32) none none

/-- The address of a Form M access: base plus signed offset (R189, R242). -/
def memAddr (base : Word) (off : BitVec 19) : Word := base + off.signExtend 64

/-- BTX (R217). -/
def execBtx (w : FormM) (s : State) : Out :=
  runUniform s w.h false none [w.data, w.base] fun s c => do
    let x ← readVal c w.data
    let b ← readVal c w.base
    let a := memAddr b w.off
    let o := a.toNat
    requireAt (o < 0x108000 || (0x200000 ≤ o && o < 0x211000)) fcUNMAPPED a
    requireAt (o % 4 == 0) fcALIGN a
    requireAt (0x200000 ≤ o && o < 0x210000) fcPROTECT a
    let (s, c) ← apertureStore s c a x.toNat
    return { s := s, c := c.clearLatch }

/-- BTXA (R218). -/
def execBtxa (w : FormX) (s : State) : Out :=
  let d := w.sub.getLsbD 1
  let sr := w.sub.getLsbD 0
  runUniform s w.h false none ([w.a] ++ (if sr then [w.b] else []) ++ (if d then [w.c] else [])) fun s c => do
    let x ← readVal c w.a
    let src ← if sr then (do let v ← readVal c w.b; return some v) else pure none
    let dst ← if d then (do let v ← readVal c w.c; return some v) else pure none
    require (bitsOf x.toNat 63 12 == 0) fcTEMPLATE
    let (s, c) ← startCopy s c (bitsOf x.toNat 11 8) (x.toNat % 256) src dst
    return { s := s, c := c.clearLatch }

/-- A channel as a context names it: its own copy that is paused, or the tile's channel (R234). -/
def State.channelFor (s : State) (c : Ctx) (num : Nat) : Channel :=
  let t := s.tile c.key.tile
  ((t.pausedCopies.find? fun p => p.num == num && p.ownedBy c)).getD (t.channel num)

/-- A channel operand; PROTECT for another context's channel (R235). -/
def namedChannel (s : State) (c : Ctx) (o : Operand) (own : Bool) : Try Nat := do
  let x ← readVal c o
  let ch := s.channelFor c (x.toNat % 16)
  require (!own || ch.state == .idle || ch.owner == c.key.num) fcPROTECT
  return x.toNat % 16

/-- BTWM (R236): the watermark of a channel. -/
def execBtwm (w : FormX) (s : State) : Out :=
  runUniform s w.h false (some w.a) [w.b] fun s c => do
    let n ← namedChannel s c w.b true
    workGate s c (.channel n)
    let c ← writeVal s c w.a (BitVec.ofNat 64 (s.channelFor c n).watermark)
    return { s := s, c := c }

/-- BTSTAT (R236): the status word of a channel. -/
def execBtstat (w : FormX) (s : State) : Out :=
  runUniform s w.h false (some w.a) [w.b] fun s c => do
    let n ← namedChannel s c w.b false
    workGate s c (.channel n)
    let c ← writeVal s c w.a (BitVec.ofNat 64 (s.channelFor c n).word)
    return { s := s, c := c }

/-- BTWAIT (R236): parks, then waits for the channel or its watermark. -/
def execBtwait (w : FormX) (s : State) : Out :=
  let all := w.sub.getLsbD 0
  runUniform s w.h false none ([w.a] ++ if all then [] else [w.b]) fun s c => do
    let n ← namedChannel s c w.a true
    let off ← if all then pure 0 else readVal c w.b
    parkGate s c
    workGate s c (.channel n)
    let ch := s.channelFor c n
    if ch.isFree || (!all && off.toNat ≤ ch.watermark) then return { s := s, c := c.clearLatch, ends := true }
    else waitEngine s c

/-- BTCAN (R236): a copy that is not free is cancelled. -/
def execBtcan (w : FormX) (s : State) : Out :=
  runUniform s w.h false none [w.a] fun s c => do
    let n ← namedChannel s c w.a true
    let ch := s.channelFor c n
    if ch.isFree then return { s := s, c := c.clearLatch }
    else
      let done := { ch with state := .cancelled, image := none, pages := [], gather := none, fault := 0 }
      let s := s.updTile c.key.tile fun t =>
        let kept := { t with pausedCopies := t.pausedCopies.filter fun p => p != ch }
        if ch.state = .paused && !(t.channel n).isFree then kept else kept.setChannel done
      let (s, _) := flushGather s c ch
      let s := ((s.endRequests ch.work fun _ => true).dropPackets (.copy ch.work)).forgetSeeker (.work ch.work)
      return { s := s, c := c.clearLatch }

end Sys2Proof.Machine
end

