-- ==== Sys2Proof/Machine/ByteCount.lean ====
section
/-! DEFINITION. Byte-count barriers (R237-R241): the unit that keeps the records, and the instructions. -/

namespace Sys2Proof.Machine

/-- A record as its fields (R237). -/
structure BcRecord where
  expected : Nat
  arrived : Nat
  phase : Bool
  posted : Bool
  carried : Bool
  ev : Bool
  poster : Nat
  excess : Nat
  deriving DecidableEq, Repr

/-- The fields of the 128 bits of a record. -/
def BcRecord.ofNum (x : Nat) : BcRecord :=
  { expected := bitsOf x 31 0, arrived := bitsOf x 63 32, phase := bitAt x 64, posted := bitAt x 65, carried := bitAt x 66, ev := bitAt x 67,
    poster := bitsOf x 70 68, excess := bitsOf x 127 96 }

/-- The 128 bits of a record: reserved bits are zero. -/
def BcRecord.num (r : BcRecord) : Nat :=
  r.expected % 2 ^ 32 + r.arrived % 2 ^ 32 * 2 ^ 32 + b2n r.phase * 2 ^ 64 + b2n r.posted * 2 ^ 65 + b2n r.carried * 2 ^ 66 +
  b2n r.ev * 2 ^ 67 + r.poster % 8 * 2 ^ 68 + r.excess % 2 ^ 32 * 2 ^ 96

/-- The unit's evaluation (R238): the record after it, and whether a phase has completed. -/
def BcRecord.evaluate (r : BcRecord) : BcRecord × Bool :=
  if r.posted && r.expected ≤ r.arrived then
    let x := r.arrived - r.expected
    ({ r with arrived := x, posted := false, phase := !r.phase, carried := r.carried || x != 0,
              excess := if x = 0 then r.excess else min (r.excess + 1) 0xFFFFFFFF }, true)
  else (r, false)

/-- A post applied (R238). -/
def BcRecord.post (r : BcRecord) (e poster : Nat) : BcRecord × Bool :=
  if r.posted then ({ r with carried := true }, false)
  else { r with expected := e, posted := true, poster := poster }.evaluate

/-- An arrival of n bytes applied (R238). -/
def BcRecord.arrive (r : BcRecord) (n : Nat) : BcRecord × Bool :=
  let r := if 0x7FFFFFFF < r.arrived + n then { r with arrived := 0x7FFFFFFF, carried := true } else { r with arrived := r.arrived + n }
  r.evaluate

/-- The record at a location. -/
def State.bcRecord (s : State) (key : Nat) : BcRecord := BcRecord.ofNum (s.mem.num key 16)

/-- Phases that a record has completed since the unit has kept it. -/
def State.bcDone (s : State) (key : Nat) : Nat :=
  (((s.tile (tileOfKey key)).bcPhases.find? fun r => r.1 == key).map fun r => r.2).getD 0

/-- Staged writes without their bytes in a range; a contribution there is gone (R237). -/
def cutStaged (k n : Nat) (es : List Staged) : List Staged :=
  es.flatMap fun e =>
    if !rangesMeet e.key e.bytes.length k n then [e]
    else if e.kind.isSome then []
    else (splitRuns e.key e.bytes fun x => k ≤ x && x < k + n).map fun r =>
      { e with key := r.1, bytes := r.2, addr := e.addr + BitVec.ofNat 64 (r.1 - e.key) }

/-- Write a record; the unit keeps its bytes from then on, outside staging (R237). -/
def State.putRecord (s : State) (key : Nat) (r : BcRecord) (phases : Nat) : State :=
  let s := { s with mem := s.mem.write key (bytesOf 16 r.num), staged := cutStaged key 16 s.staged }
  s.updTile (tileOfKey key) fun t => { t with bcPhases := (key, phases) :: t.bcPhases.filter fun x => x.1 != key }

/-- The tile-global address of a record (R200). -/
def recordAddr (key : Nat) : Word := BitVec.ofNat 64 (2 ^ 56 + tileOfKey key * 2 ^ 32 + key % 2 ^ 20)

/-- The context of a number on a tile: the one that runs there, else one that has been stopped there (R203). -/
def State.holder? (s : State) (k : CtxKey) : Option Ctx :=
  match s.ctx? k with
  | some c => some c
  | none => s.ctxs.find? fun c => c.key == k

/-- Apply what the unit received to a record, and raise PHASE where it asks for it, with the record's address as its task
forms it (R200, R238, R289). -/
def State.applyBc (s : State) (key : Nat) (res : BcRecord × Bool) : State :=
  let (r, full) := res
  let s := s.putRecord key r (s.bcDone key + b2n full)
  if full && r.ev then
    match s.holder? { tile := tileOfKey key, num := r.poster } with
    | some c => s.updCtx c fun d => d.raise { kind := 3, src := b2n r.phase, payload := s.toHome c (recordAddr key) }
    | none => s
  else s

/-- BC_POST_APPLY (R238): the unit applies the post at the head of what it received. -/
def execBcPostApply (s : State) : Out :=
  match (s.tile s.sel.a).bcq with
  | i :: r => match i.post with
    | some k =>
      let s := s.updTile s.sel.a fun t => { t with bcq := r }
      .next (s.applyBc i.key ((s.bcRecord i.key).post i.amount k.num))
    | none => .refused (.notEnabled "BC_POST_APPLY")
  | [] => .refused (.notEnabled "BC_POST_APPLY")

/-- The staged bytes of a delivery are counted by the phase that its arrival falls into (R34). -/
def State.countDelivery (s : State) (key work : Nat) : State :=
  let ph := s.bcDone key + 1
  let count := fun (es : List Staged) => es.map fun e => if e.bc = some (key, work, 0) then { e with bc := some (key, work, ph) } else e
  let cs := s.ctxs.map fun c => { c with frozen := c.frozen.map fun f => { f with staged := count f.staged } }
  { s with staged := count s.staged, ctxs := cs }

/-- BC_ARRIVAL (R238): the unit applies the arrival at the head of what it received. -/
def execBcArrival (s : State) : Out :=
  match (s.tile s.sel.a).bcq with
  | i :: r =>
    if i.post.isNone then
      let s := (s.updTile s.sel.a fun t => { t with bcq := r }).countDelivery i.key i.work
      .next (s.applyBc i.key ((s.bcRecord i.key).arrive i.amount))
    else .refused (.notEnabled "BC_ARRIVAL")
  | [] => .refused (.notEnabled "BC_ARRIVAL")

/-- Every store and reduce-write that the context issued has been placed, and those of its work (R241). -/
def State.writesPlaced (s : State) (c : Ctx) : Bool :=
  (c.outstanding.all fun t => !t.locs.isEmpty || (t.peer.isNone && t.writes.all fun q =>
    !(s.staged.any fun e => e.seq == q && e.pool == 0))) &&
  (s.mxOf c).all (fun m => m.memWrites.isEmpty) && (s.channelsOf c).isEmpty && (s.basediesOf c).isEmpty && (s.fsendsOf c).isEmpty &&
  (s.collsOf c).isEmpty

/-- BCPOST (R241): with .CLR it clears OVER before it sends the post. -/
def execBcpost (w : FormX) (s : State) : Out :=
  runUniform s w.h false none [w.a, w.b] fun s c => do
    let a ← readVal c w.a
    let n ← readVal c w.b
    let key ← recordAt s c a .tile
    let s := if w.sub.getLsbD 0 then s.putRecord key { s.bcRecord key with carried := false } (s.bcDone key) else s
    return { s := s.sendArrival key (n.toNat % 2 ^ 31) 0 (some c.key), c := c.clearLatch }

/-- BCARV (R241). -/
def execBcarv (w : FormX) (s : State) : Out :=
  runUniform s w.h false none [w.a, w.b] fun s c => do
    let a ← readVal c w.a
    let n ← readVal c w.b
    let key ← recordAt s c a .group
    if !s.writesPlaced c then stall s
    return { s := s.sendArrival key (n.toNat % 2 ^ 31) 0 none, c := c.clearLatch }

/-- The bytes of a record's completed phases become visible to the context (R34). -/
def Ctx.observe (c : Ctx) (key phases : Nat) : Ctx :=
  { c with observed := (key, phases) :: c.observed.filter fun x => x.1 != key }

/-- BCWAIT (R241). -/
def execBcwait (w : FormX) (s : State) : Out :=
  runUniform s w.h false none [w.a, w.b] fun s c => do
    let a ← readVal c w.a
    let ph ← readVal c w.b
    let key ← recordAt s c a .tile
    parkGate s c
    workGate s c (.record key)
    let r := s.bcRecord key
    if r.phase == ph.getLsbD 0 then waitEngine s c
    require (!(w.sub.getLsbD 0 && r.carried)) fcBCOVER
    return { s := s, c := (c.observe key (s.bcDone key)).clearLatch, ends := true }

/-- BCTEST (R241). -/
def execBctest (w : FormX) (s : State) : Out :=
  runUniform s w.h false (some w.a) [w.b, w.c] fun s c => do
    let a ← readVal c w.b
    let ph ← readVal c w.c
    let key ← recordAt s c a .tile
    workGate s c (.record key)
    let done := (s.bcRecord key).phase != ph.getLsbD 0
    let c ← writeVal s c w.a (if done then 1 else 0)
    return { s := s, c := if done then c.observe key (s.bcDone key) else c }

/-- BCRESET (R241): posts and arrivals that the unit received before are applied first. -/
def execBcreset (w : FormX) (s : State) : Out :=
  runUniform s w.h false none [w.a] fun s c => do
    let a ← readVal c w.a
    let key ← recordAt s c a .tile
    if (s.tile c.key.tile).bcq.any fun i => i.key == key then stall s
    let r : BcRecord := { expected := 0, arrived := 0, phase := false, posted := false, carried := false, ev := w.sub.getLsbD 0, poster := 0, excess := 0 }
    return { s := s.putRecord key r (s.bcDone key), c := c.clearLatch }

end Sys2Proof.Machine
end

