-- ==== Sys2Proof/Machine/Private.lean ====
section
/-! DEFINITION. Private memory (R24, R135, R189-R194): addresses and their checks, loads and stores. -/

namespace Sys2Proof.Machine

/-- The regions of the private alias (R24). -/
inductive Region where
  | localMem
  | window
  | aperture
  | status
  deriving DecidableEq, Repr

/-- The region of a private address, and its end; none for a hole or an address outside space 0 (R24). -/
def regionOf (a : Word) : Option (Region × Nat) :=
  let o := a.toNat
  if o < 0x100000 then some (.localMem, 0x100000)
  else if o < 0x108000 then some (.window, 0x108000)
  else if o < 0x200000 then none
  else if o < 0x210000 then some (.aperture, 0x210000)
  else if o < 0x211000 then some (.status, 0x211000)
  else none

/-- The checks of one access of n bytes, in the order of R189; the aperture takes LDW, STW and BTX alone. -/
def checkPrivate (a : Word) (n align element : Nat) (store word : Bool) : Try Region :=
  match regionOf a with
  | none => faultAt fcUNMAPPED a element
  | some (r, last) => do
    if a.toNat % align ≠ 0 then faultAt fcALIGN a element
    if last < a.toNat + n then faultAt (if r = .window then fcWINDOW else fcSTRADDLE) a element
    if (r = .aperture ∧ !word) ∨ (r = .status ∧ store) then faultAt fcPROTECT a element
    return r

/-- A window access meets a byte that is pending from a direct write in the region (R135). -/
def windowPending (c : Ctx) (a : Word) (n : Nat) : Bool :=
  match regionOf a with
  | some (.window, _) => let o := a.toNat - 0x100000; meetsAny c.pending o n || meetsAny c.pendingMx o n
  | _ => false

/-- The checks of a packet or descriptor that an instruction reads whole from local memory (R355, R395): UNMAPPED, ALIGN, STRADDLE, PROTECT; the
location of its first byte. -/
def localRange (s : State) (c : Ctx) (a : Word) (n align : Nat) : Try Nat :=
  match regionOf a with
  | none => faultAt fcUNMAPPED a
  | some (r, last) => do
    requireAt (a.toNat % align == 0) fcALIGN a
    requireAt (a.toNat + n ≤ last) fcSTRADDLE a
    requireAt (r == .localMem) fcPROTECT a
    let k := localKey c.key.tile a.toNat
    s.waitFree c { virt := false, lo := k, len := n } false
    return k

/-- One element of an access: its position, address and width. -/
structure Elem where
  pos : Nat
  addr : Word
  len : Nat
  /-- The width of one of the elements joined in it. -/
  each : Nat := 4
  deriving DecidableEq, Repr

/-- Bytes read through the window: the last window store of the region to a byte, else the register byte (R135). -/
def windowRead (c : Ctx) (o n : Nat) : List Byte :=
  (List.range n).map fun i =>
    match c.winStores.reverse.find? fun w => w.1 ≤ o + i && o + i < w.1 + w.2.length with
    | some w => w.2.getD (o + i - w.1) 0
    | none => c.rf.get (o + i)

/-- Read the bytes of an element that has been checked; it waits where a copy or a matrix command holds it back. -/
def loadElem (s : State) (c : Ctx) (a : Word) (n : Nat) : Try (List Byte) :=
  match regionOf a with
  | some (.localMem, _) => do
    let k := localKey c.key.tile a.toNat
    s.waitFree c { virt := false, lo := k, len := n } false
    return s.readLoc c false k n
  | some (.window, _) => .ok (windowRead c (a.toNat - 0x100000) n)
  | some (.aperture, _) => .ok (bytesOf n (s.channelFor c ((a.toNat - 0x200000) / 4096)).word)
  | some (.status, _) => .ok (s.mxBytes c (a.toNat - 0x210000) n)
  | none => .ok []

/-- A window store meets a byte that a matrix command has still to read, or one that a command of this region has (R134). -/
def windowRead? (s : State) (c : Ctx) (a : Word) (n : Nat) (inRegion : Bool) : Bool :=
  match regionOf a with
  | some (.window, _) => let o := a.toNat - 0x100000; meetsAny (s.readPending c) o n && (!inRegion || meetsAny c.readPend o n)
  | _ => false

/-- HAZARD before any address fault: some element meets a pending byte through the window, or a store one that a matrix command of the
region has still to read (R134, R135, R189). -/
def windowHazard (s : State) (c : Ctx) (es : List Elem) (store : Bool) : Try Unit :=
  require (!(es.any fun e => windowPending c e.addr e.len || (store && windowRead? s c e.addr e.len true))) fcHAZARD

/-- The checks of every element in position order (R189). -/
def checkElems (es : List Elem) (store : Bool) : Try Unit :=
  es.forM fun e => do
    let _ ← checkPrivate e.addr e.len e.len e.pos store false

/-- A store waits where a copy holds its bytes back, or a matrix command of an earlier region has still to read them (R134, R194). -/
def storeFree (s : State) (c : Ctx) (a : Word) (n : Nat) : Try Unit :=
  match regionOf a with
  | some (.window, _) => if windowRead? s c a n false then stall s else .ok ()
  | _ => s.waitFree c { virt := false, lo := localKey c.key.tile a.toNat, len := n } true

/-- Store bytes that have been checked: into staging, or kept until the region's end in the window (R135, R194). -/
def storeElem (s : State) (c : Ctx) (pos each : Nat) (a : Word) (bs : List Byte) : Try (State × Ctx) :=
  match regionOf a with
  | some (.window, _) => .ok (s, { c with winStores := c.winStores ++ [(a.toNat - 0x100000, bs)] })
  | _ =>
    let k := localKey c.key.tile a.toNat
    match s.placePlain (s.writer c false) k a bs with
    | some s => .ok (s, c)
    | none =>
      let i := (s.firstFull (s.writer c false) k a bs - k) / each
      faultAt fcSTAGINGFULL (a + BitVec.ofNat 64 (i * each)) (pos + i)

/-- Store elements in ascending order (R192, R193). -/
def storeElems (s : State) (c : Ctx) : List (Elem × List Byte) → Try (State × Ctx)
  | [] => .ok (s, c)
  | (e, bs) :: r => do
    let (s, c) ← storeElem s c e.pos e.each e.addr bs
    storeElems s c r

/-- Store elements once all of them may be stored: an instruction that waits has stored nothing. -/
def storeAll (s : State) (c : Ctx) (l : List (Elem × List Byte)) : Try (State × Ctx) := do
  l.forM fun x => storeFree s c x.1.addr x.2.length
  storeElems s c l

/-- Join elements that follow each other in memory, within one region (R24). -/
def joinElems : List (Elem × List Byte) → List (Elem × List Byte)
  | [] => []
  | (e, bs) :: r => match joinElems r with
    | (f, cs) :: more =>
      let region := fun (x : Elem) => (regionOf x.addr).map fun r => r.1
      if e.addr + BitVec.ofNat 64 bs.length = f.addr ∧ region e = region f then ({ e with len := e.len + f.len }, bs ++ cs) :: more
      else (e, bs) :: (f, cs) :: more
    | [] => [(e, bs)]

/-! ### Scalar accesses -/

/-- A scalar load of n bytes (R190). -/
def runLoad (s : State) (w : FormM) (n : Nat) (zext : Bool) : Out :=
  runUniform s w.h false (some w.data) [w.base] fun s c => do
    let b ← readVal c w.base
    let a := memAddr b w.off
    destHazard s c w.data 8
    windowHazard s c [{ pos := 0, addr := a, len := n }] false
    let _ ← checkPrivate a n n 0 false (n == 4)
    let x := numOf (← loadElem s c a n)
    let c ← writeVal s c w.data (if zext then BitVec.ofNat 64 x else sext64 (8 * n) x)
    return { s := s, c := c }

/-- A scalar store of n bytes (R190); STW in the aperture starts a copy. -/
def runStore (s : State) (w : FormM) (n : Nat) : Out :=
  runUniform s w.h false none [w.data, w.base] fun s c => do
    let x ← readVal c w.data
    let b ← readVal c w.base
    let a := memAddr b w.off
    windowHazard s c [{ pos := 0, addr := a, len := n }] true
    let r ← checkPrivate a n n 0 true (n == 4)
    let (s, c) ← if r = .aperture then apertureStore s c a x.toNat else storeAll s c [({ pos := 0, addr := a, len := n, each := n }, bytesOf n x.toNat)]
    return { s := s, c := c.clearLatch }

/-- LDB (R190). -/
def execLdb (w : FormM) (s : State) : Out := runLoad s w 1 (w.mod.getLsbD 0)

/-- LDH (R190). -/
def execLdh (w : FormM) (s : State) : Out := runLoad s w 2 (w.mod.getLsbD 0)

/-- LDW (R190). -/
def execLdw (w : FormM) (s : State) : Out := runLoad s w 4 (w.mod.getLsbD 0)

/-- LDD (R190). -/
def execLdd (w : FormM) (s : State) : Out := runLoad s w 8 false

/-- STB (R190). -/
def execStb (w : FormM) (s : State) : Out := runStore s w 1

/-- STH (R190). -/
def execSth (w : FormM) (s : State) : Out := runStore s w 2

/-- STW (R190). -/
def execStw (w : FormM) (s : State) : Out := runStore s w 4

/-- STD (R190). -/
def execStd (w : FormM) (s : State) : Out := runStore s w 8

/-! ### Contiguous vectors -/

/-- The lanes that a mask enables, ascending. -/
def enabledLanes (g : Word) : List Nat := (List.range 64).filter fun i => g.getLsbD i

/-- The span of the enabled lanes of a contiguous access (R191): lowest lane, and length in bytes. -/
def laneSpan (g : Word) : Option (Nat × Nat) :=
  match enabledLanes g with
  | [] => none
  | l :: r => some (l, 4 * ((l :: r).getLastD l + 1 - l))

/-- The enabled lanes of a contiguous access as elements. -/
def laneElems (a : Word) (g : Word) : List Elem :=
  (enabledLanes g).map fun i => { pos := i, addr := a + BitVec.ofNat 64 (4 * i), len := 4 }

/-- The checks of a contiguous access, over its enabled span (R189, R191). -/
def checkSpan (s : State) (c : Ctx) (a : Word) (g : Word) (store : Bool) : Try Unit := do
  windowHazard s c (laneElems a g) store
  match laneSpan g with
  | none => return ()
  | some (l, n) =>
    let _ ← checkPrivate (a + BitVec.ofNat 64 (4 * l)) n 4 l store false

/-- LDV (R191). -/
def execLdv (w : FormM) (s : State) : Out :=
  runInstr s w.h false [w.base] fun s c g => do
    let b ← readVal c w.base
    let a := memAddr b w.off
    destHazard s c w.data 256
    checkSpan s c a g false
    let xs ← (List.range 64).mapM fun i =>
      if g.getLsbD i then (do let bs ← loadElem s c (a + BitVec.ofNat 64 (4 * i)) 4; return numOf bs) else pure 0
    let c ← writeElems s c w.data 32 g xs
    return { s := s, c := c }

/-- STV (R191). -/
def execStv (w : FormM) (s : State) : Out :=
  runInstr s w.h false [w.data, w.base] fun s c g => do
    let xs ← readElems c 32 w.data
    let b ← readVal c w.base
    let a := memAddr b w.off
    checkSpan s c a g true
    let (s, c) ← storeAll s c (joinElems ((laneElems a g).map fun e => (e, bytesOf 4 (xs.getD e.pos 0))))
    return { s := s, c := c.clearLatch }

/-! ### Strided vectors, gather and scatter -/

/-- The width of an element by its code (R192): 4, 2 or 1 bytes. -/
def elemBytes (code : Nat) : Nat := if code = 0 then 4 else if code = 1 then 2 else 1

/-- The enabled positions of a strided access as elements (R192). -/
def strideElems (b : Word) (off : BitVec 19) (n : Nat) (g : Word) : List Elem :=
  ((List.range (256 / n)).filter fun p => g.getLsbD (p / (4 / n))).map fun p =>
    { pos := p, addr := b + off.signExtend 64 * BitVec.ofNat 64 p, len := n, each := n }

/-- LDVS (R192). -/
def execLdvs (w : FormM) (s : State) : Out :=
  runInstr s w.h false [w.base] fun s c g => do
    let n := elemBytes (w.mod.toNat % 4)
    let b ← readVal c w.base
    let es := strideElems b w.off n g
    destHazard s c w.data 256
    windowHazard s c es false
    checkElems es false
    let xs ← es.mapM fun e => do
      let bs ← loadElem s c e.addr n
      return (e.pos, numOf bs)
    let c ← writeElems s c w.data (8 * n) g ((List.range (256 / n)).map fun p => ((xs.find? fun x => x.1 == p).map fun x => x.2).getD 0)
    return { s := s, c := c }

/-- STVS (R192). -/
def execStvs (w : FormM) (s : State) : Out :=
  runInstr s w.h false [w.data, w.base] fun s c g => do
    let n := elemBytes (w.mod.toNat % 4)
    let xs ← readElems c (8 * n) w.data
    let b ← readVal c w.base
    let es := strideElems b w.off n g
    windowHazard s c es true
    checkElems es true
    let (s, c) ← storeAll s c (joinElems (es.map fun e => (e, bytesOf n (xs.getD e.pos 0))))
    return { s := s, c := c.clearLatch }

/-- The indices of a gather or scatter: an operand-file entry or a 256-byte latch (R193). -/
def readIndices (c : Ctx) (o : Operand) : Try (List Nat) :=
  match o, c.latch with
  | .latch, .w256 _ => readElems c 32 o
  | .latch, _ => fault fcILLEGAL
  | _, _ => readElems c 32 o

/-- The enabled lanes of a gather or scatter as elements (R193). -/
def indexElems (idx : List Nat) (off : BitVec 19) (n : Nat) (g : Word) : List Elem :=
  (enabledLanes g).map fun i => { pos := i, addr := BitVec.ofNat 64 (idx.getD i 0) + off.signExtend 64, len := n }

/-- LDVX (R193). -/
def execLdvx (w : FormM) (s : State) : Out :=
  runInstr s w.h false [w.base] fun s c g => do
    let n := elemBytes (w.mod.toNat % 4)
    let idx ← readIndices c w.base
    let es := indexElems idx w.off n g
    destHazard s c w.data 256
    windowHazard s c es false
    checkElems es false
    let xs ← es.mapM fun e => do
      let bs ← loadElem s c e.addr n
      let x := numOf bs
      return (e.pos, if w.mod.getLsbD 2 then x else (sext64 (8 * n) x).toNat % 2 ^ 32)
    let c ← writeElems s c w.data 32 g ((List.range 64).map fun p => ((xs.find? fun x => x.1 == p).map fun x => x.2).getD 0)
    return { s := s, c := c }

/-- STVX (R193). -/
def execStvx (w : FormM) (s : State) : Out :=
  runInstr s w.h false [w.data, w.base] fun s c g => do
    let n := elemBytes (w.mod.toNat % 4)
    let xs ← readElems c 32 w.data
    let idx ← readIndices c w.base
    let es := indexElems idx w.off n g
    windowHazard s c es true
    checkElems es true
    let (s, c) ← storeAll s c (es.map fun e => (e, bytesOf n (xs.getD e.pos 0)))
    return { s := s, c := c.clearLatch }

end Sys2Proof.Machine
end

