-- ==== Sys2Proof/Machine/Exchange.lean ====
section
/-! DEFINITION. Exchange access to level and virtual memory (R242-R246): its instructions, and the return of their results
(R134). -/

namespace Sys2Proof.Machine

/-- The stretches of an access and its parts: cut n bytes at a into them. -/
def cutAt (ps : List Piece) (a : Word) (n : Nat) : List (Piece × Nat) :=
  ps.filterMap fun p =>
    let lo := max p.addr.toNat a.toNat
    let hi := min (p.addr.toNat + p.len) (a.toNat + n)
    if lo < hi then some ({ p with addr := BitVec.ofNat 64 lo, key := p.key + (lo - p.addr.toNat), len := hi - lo }, lo - a.toNat) else none

/-- The location of each byte of an access. -/
def keysOf (ps : List Piece) : List Nat := ps.flatMap fun p => (List.range p.len).map fun i => p.key + i

/-- The bytes of a stretch that are known at issue: the image's, or lines of the read cache (R244, R337). -/
def State.pieceData (s : State) (c : Ctx) (p : Piece) : Option (List Byte) :=
  match p.peer with
  | some (k, o) => p.leaf.bind fun e => s.peerCached c e k o p.len
  | none => some (s.readLoc c (loopsBack c p) p.key p.len)

/-- The request packets of an access (R16, R103, R112): one for each unit (R18, R439), each answered, a load with its data. -/
def State.sendAccess (s : State) (c : Ctx) (id : Nat) (ps : List Piece) (write : Bool) (slack : Nat) : State :=
  ((ps.filter fun p => p.peer.isNone).flatMap fun p => cutUnits p.key p.len).foldl (init := s) fun s u =>
    s.send { owner := .token id, vc := 0, slack := slack, flits := if write then flitsOf u.2 else 1, src := c.key.tile, num := c.key.num,
             goal := serverOf u.1, reply := some (if write then 1 else flitsOf u.2) }

/-- Ask peers for the stretches that are not known (R386). -/
def State.askFor (s : State) (c : Ctx) (id : Nat) (ps : List Piece) (slack : Nat) : State :=
  ps.foldl (fun s p => s.askPiece c id none slack false p) s

/-- A new outstanding request (R121, R242). -/
def newToken (id : Nat) (ps : List Piece) (slack : Nat) (addr : Word) : Token :=
  { id := id, kind := if ps.any (fun p => p.peer.isSome) then 3 else 1, cells := [], locs := [], ext := none,
    pages := (leavesOf ps).map Leaf.page, writes := [], peer := none, keys := [], bad := 0, held := none, slack := slack,
    addr := addr, dead := [] }

/-- Issue a load over some stretches: `dests` names, for the bytes of each location, where they go in the register file. -/
def issueLoad (s : State) (c : Ctx) (ps : List Piece) (slack : Nat) (addr : Word)
    (fill : Token → List (Nat × Byte) → List Nat → Token) : State × Ctx :=
  let (id, s) := s.fresh
  let parts := ps.map fun p => (p, s.pieceData c p)
  let known := parts.flatMap fun x => match x.2 with
    | some bs => (keysOf [x.1]).zip bs
    | none => []
  let far := (parts.filter fun x => x.2.isNone).map fun x => x.1
  let t := { newToken id ps slack addr with data := true }
  let t := { t with peer := (far.head?.bind Piece.peer).map fun x => (x.1, s.peerDeadline) }
  let t := fill t known (keysOf far)
  let s := ((s.sendAccess c id ps false slack).askFor c id far slack).usePages c.key.tile slack (leavesOf ps) []
  (s, c.await t)

/-- XLDD (R244). -/
def execXldd (w : FormM) (s : State) : Out :=
  let n := 8 / 2 ^ (w.mod.toNat % 4)
  let zext := w.mod.getLsbD 2
  runUniform s w.h false (some w.data) [w.base] fun s c => do
    let b ← readVal c w.base
    let a := memAddr b w.off
    let slack := c.slackOf w.slack.toNat
    let ps ← s.accessPieces c a n n false slack 0
    s.waitFree c (spanAt c.key.tile (s.fromHome c a) n) false
    match c.loc w.data with
    | none => fault fcILLEGAL
    | some d =>
      let c ← writeRf s c d 8 []
      replyGate s c
      let (s, c) := issueLoad s c ps slack a fun t known far =>
        if far.isEmpty then { t with cells := ({ t with locs := (List.range 8).map (d + ·), ext := some (n, zext) } : Token).place (known.map fun x => x.2) }
        else { t with keys := far, locs := (List.range 8).map (d + ·), ext := some (n, zext) }
      return { s := s, c := c.setLatch d 8 }

/-- The enabled span of a vector access, translated and checked (R242, R245): nothing where no lane is enabled. -/
def vectorPieces (s : State) (c : Ctx) (a : Word) (g : Word) (align : Nat) (write : Bool) (slack : Nat) : Try (List Piece) :=
  match laneSpan g with
  | none => .ok []
  | some (l, n) => do
    let f := a + BitVec.ofNat 64 (4 * l)
    let ps ← s.accessPieces c f n align write slack l
    s.waitFree c (spanAt c.key.tile (s.fromHome c f) n) write
    return ps

/-- XLDV (R245). -/
def execXldv (w : FormM) (s : State) : Out :=
  runInstr s w.h false [w.base] fun s c g => do
    let b ← readVal c w.base
    let a := memAddr b w.off
    let slack := c.slackOf w.slack.toNat
    let ps ← vectorPieces s c a g 4 false slack
    match c.loc w.data with
    | none => fault fcILLEGAL
    | some d =>
      let c ← writeRf s c d 256 []
      if ps.isEmpty then return { s := s, c := c.setLatch d 256 }
      else
        replyGate s c
        -- the register byte of each byte of the enabled lanes, by location
        let dest : List (Nat × Nat) := (laneElems a g).flatMap fun e =>
          (cutAt ps e.addr 4).flatMap fun x => (List.range x.1.len).map fun i => (x.1.key + i, d + 4 * e.pos + x.2 + i)
        let (s, c) := issueLoad s c ps slack a fun t known far =>
          let goal := fun (k : Nat) => (dest.find? fun x => x.1 == k).map fun x => x.2
          let far := far.filter fun k => (goal k).isSome
          { t with mask := g, cells := known.filterMap (fun x => (goal x.1).map fun l => (l, x.2)), keys := far, locs := far.filterMap goal }
        return { s := s, c := c.setLatch d 256 }

/-- Issue a store or reduce-write over some stretches: segments of bytes, plain or contributions of a kind (R242). -/
def issueStore (s : State) (c : Ctx) (ps : List Piece) (segs : List (Word × List Byte)) (kind : Option (Nat × Nat)) (slack : Nat)
    (a : Word) (g : Word) : State × Ctx :=
  let (id, s) := s.fresh
  let cuts := segs.flatMap fun x => (cutAt ps x.1 x.2.length).map fun y => (y.1, (x.2.drop y.2).take y.1.len)
  let first := s.seq
  let s := (cuts.filter fun x => x.1.peer.isNone).foldl (init := s) fun s x =>
    s.placeLater { s.writer c (loopsBack c x.1) with direct := directWrite c.supervisor x.1.addr } x.1.key x.1.addr x.2 kind
  let seqs := (List.range (s.seq - first)).map (first + ·)
  let pk := match kind with
    | some (kd, _) => PeerKind.reduce kd
    | none => PeerKind.write
  let s := cuts.foldl (init := s) fun s x => match x.1.peer with
    | some (k, o) => (s.notePeerWrite k o x.1.len).sendRequest c id none k o x.1.addr x.1.len pk x.2 slack
    | none => s
  let s := (s.sendAccess c id (cuts.map fun x => x.1) true slack).usePages c.key.tile slack [] (leavesOf ps)
  let t := newToken id ps slack a
  let peer := (ps.findSome? Piece.peer).map fun x => (x.1, s.peerDeadline)
  (s, (s.keptImage c).await { t with writes := seqs, peer := peer, mask := g })

/-- A small constant in the element type of a reduction code: a float code converts it, which is exact (R82, R246). -/
def redConst (code : Nat) (n : BitVec 8) : Nat :=
  let f : Fmt := if code = 0x0D then bf16 else if code = 0x0E then fp16 else fp32
  if 0x0C ≤ code ∧ code ≤ 0x10 then (roundF f rne (ofIntV n.toInt)).1 else (n.signExtend 64).toNat

/-- The data of a scalar store or reduce-write. -/
def storeVal (c : Ctx) (code : Option Nat) (o : Operand) : Try Word :=
  match o, code with
  | .const n, some k => .ok (BitVec.ofNat 64 (redConst k n))
  | o, _ => readVal c o

/-- The elements of a vector store or reduce-write. -/
def storeElemsOf (c : Ctx) (code : Option Nat) (w : Nat) (o : Operand) : Try (List Nat) :=
  match o, code with
  | .const n, some k => .ok (List.replicate (2048 / w) (redConst k n % 2 ^ w))
  | o, _ => readElems c w o

/-- A scalar store of n bytes, or the reduce-write of a code. -/
def runXstore (s : State) (w : FormM) (n : Nat) (code : Option Nat) : Out :=
  let kind := code.map xredKind
  runUniform s w.h false none [w.data, w.base] fun s c => do
    let x ← storeVal c code w.data
    let b ← readVal c w.base
    let a := memAddr b w.off
    let slack := c.slackOf w.slack.toNat
    let ps ← s.accessPieces c a n n true slack 0
    s.waitFree c (spanAt c.key.tile (s.fromHome c a) n) true
    let (s, c) := issueStore s c ps [(a, bytesOf n x.toNat)] kind slack a 1
    return { s := s, c := c.clearLatch }

/-- A vector store of elements of n bytes, or the reduce-write of a code. -/
def runXstorev (s : State) (w : FormM) (n : Nat) (code : Option Nat) : Out :=
  let kind := code.map xredKind
  runInstr s w.h false [w.data, w.base] fun s c g => do
    let xs ← storeElemsOf c code (8 * n) w.data
    let b ← readVal c w.base
    let a := memAddr b w.off
    let slack := c.slackOf w.slack.toNat
    let ps ← vectorPieces s c a g n true slack
    if ps.isEmpty then return { s := s, c := c.clearLatch }
    else
      let lanes := (laneElems a g).map fun e =>
        (e, (List.range (4 / n)).flatMap fun j => bytesOf n (xs.getD (e.pos * (4 / n) + j) 0))
      let (s, c) := issueStore s c ps ((joinElems lanes).map fun x => (x.1.addr, x.2)) kind slack a g
      return { s := s, c := c.clearLatch }

/-- XSTD (R244). -/
def execXstd (w : FormM) (s : State) : Out := runXstore s w (8 / 2 ^ (w.mod.toNat % 4)) none

/-- XSTV (R245). -/
def execXstv (w : FormM) (s : State) : Out := runXstorev s w 4 none

/-- XRED (R246). -/
def execXred (w : FormM) (s : State) : Out :=
  runXstore s w (xredKind w.mod.toNat).2 (some w.mod.toNat)

/-- XREDV (R246). -/
def execXredv (w : FormM) (s : State) : Out :=
  runXstorev s w (xredKind w.mod.toNat).2 (some w.mod.toNat)

/-! ### Results -/

/-- The page of a virtual byte now has poison set (R343). -/
def State.pagePoisoned (s : State) (va : Nat) : Bool :=
  match s.walkAll va with
  | .leaf e => e.poison
  | _ => false

/-- A request's page is poisoned: it takes the fault in place of its result (R343). -/
def State.tokenPoisoned (s : State) (t : Token) : Bool := t.pages.any fun p => s.pagePoisoned p.1

/-- A request waits for the retry of a read of one of its pages, where that read may be its own (R343). -/
def State.tokenRetried (s : State) (k : CtxKey) (t : Token) : Bool :=
  s.xlat.retries.any fun r => r.access.any (fun m => m.key == k) && t.pages.any fun p => rangesMeet p.1 p.2 (65536 * r.page) 65536

/-- A request of which something is not placed (R45). -/
def State.tokenUnplaced (s : State) (t : Token) : Bool :=
  t.writes.any fun q => s.staged.any fun e => e.seq == q && e.pool == 0

/-- The bytes of a peer's replies, by location: the requests of the access in order, their data one after the other. -/
def replyBytes : List RemoteReq → List Byte → List (Nat × Byte)
  | [], _ => []
  | q :: r, bs => ((List.range q.len).map fun i => 2 ^ 70 + q.peer * 2 ^ 39 + q.phys + i).zip (bs.take q.len) ++ replyBytes r (bs.drop q.len)

/-- Lines of the read cache that a reply fills (R337). -/
def fillLines (q : RemoteReq) (bs : List Byte) : List PeerLine :=
  match q.fill with
  | some d => (List.range (q.len / 64)).map fun i => { peer := q.peer, phys := q.phys + 64 * i, domain := d, data := (bs.drop (64 * i)).take 64 }
  | none => []

/-- The lines that the cache area holds, the latest first (R337). -/
def State.cacheLines (s : State) (ls : List PeerLine) : State :=
  let old := s.xlat.peerLines.filter fun l => !(ls.any fun n => n.peer == l.peer && n.phys == l.phys && n.domain == l.domain)
  { s with xlat := { s.xlat with peerLines := (ls ++ old).take (bitsOf s.regs.peercache.toNat 63 44 * 1024) } }

/-- The data of a peer's reply may fill lines: they are of the pod step that is under way (R31, R337). -/
def State.fillNow (s : State) (q : RemoteReq) : Bool :=
  s.peerCacheOn && s.domains.any fun d => d.level == 5 && q.fill == some d.id && q.req.steps == d.counter

/-- A peer's reply goes over the mesh from its port to the tile that waits for it, on VC2 (R16), with what is left of its slack (R112). -/
def State.replyLeg (s : State) (num peer tile slack : Nat) (overdue : Bool) (bytes : Nat) : State :=
  s.send { owner := .reply num, vc := 2, slack := slack, overdue := overdue, flits := flitsOf bytes, src := portTile (directLink s.regs.podpackage peer).1,
           goal := tileGoal tile }

/-- A peer's reply to a request arrives (R386, R389): it goes on to the tile, for the copy's run or the access that made it; a migration's data go to
the engine. A late reply is discarded. The acknowledgement of an FSEND is a reply too (R397). -/
def peerReply (s : State) (data : List Byte) : Out :=
  let slack := s.sel.a
  match s.fab.requests.find? fun q => q.num == s.sel.b && !q.lost && q.got.isNone with
  | none =>
    match s.fab.fsends.find? fun m => m.id == s.sel.b && !m.acked with
    | none => .next s
    | some m =>
      let fs := s.fab.fsends.map fun x => if x.id = m.id then { x with acked := true } else x
      let s := { s with fab := { s.fab with fsends := fs } }
      .next (s.replyLeg m.id m.dpkg (((s.member? m.task m.rank).map fun c => c.key).getD m.ctx).tile slack s.sel.flag 0)
  | some q =>
    if data.length ≠ (if q.write then 0 else q.len) then .refused (.notEnabled "RESULT_RETURN")
    else
      match s.xlat.migrations.find? fun m => m.req == q.id && m.leaf.tier == 2 && m.data.isNone with
      | some m =>
        let ms := s.xlat.migrations.map fun x => if x = m then { x with data := some data } else x
        let s := { s with fab := { s.fab with requests := s.fab.requests.filter fun p => p.num != q.num }, xlat := { s.xlat with migrations := ms } }
        .next (s.send { owner := .migration m.leaf.va, vc := 2, slack := slack, overdue := s.sel.flag, flits := flitsOf data.length,
                        src := portTile (directLink s.regs.podpackage q.peer).1, goal := tileGoal (dieAnchor 0) })
      | none =>
        let s := if s.fillNow q then s.cacheLines (fillLines q data) else s
        let qs := s.fab.requests.map fun p => if p.num = q.num then { p with got := some data } else p
        .next ({ s with fab := { s.fab with requests := qs } }.replyLeg q.num q.peer q.ctx.tile slack s.sel.flag data.length)

/-- A token of a list is accepted (R414); the last one completes the list (R114). -/
def State.acceptToken (s : State) (l : RouteList) (position : Nat) (overdue : Bool) : State :=
  let left := l.unaccepted.filter fun n => n != position
  let late := l.overdue || overdue
  let ls := s.fab.lists.map fun x => if x = l then { x with unaccepted := left, overdue := late } else x
  let s := { s with fab := { s.fab with lists := ls } }
  if left.isEmpty && late then
    { s with ctxs := s.ctxs.map fun c => if c.task = l.task ∧ c.rank = l.rank then c.countOverdue 6 else c }
  else s

/-- A holding area has accepted a token of the context's list (R414). -/
def tokenAccepted (s : State) : Out :=
  match s.fab.lists.find? fun l => l.ctx == s.sel.ctx && !l.closed && l.num == s.sel.a && l.unaccepted.contains s.sel.b with
  | some l =>
    .next (s.acceptToken l s.sel.b s.sel.flag)
  | none => .refused (.notEnabled "RESULT_RETURN")

/-- The reply to a request, or one of its replies, is overdue (R112, R114). -/
def State.returnLate (s : State) (t : Token) : Bool :=
  s.packetsOverdue (.token t.id) || s.fab.requests.any fun q => q.id == t.id && q.channel.isNone && s.packetsOverdue (.reply q.num)

/-- The data that peers have sent for a request, in the order asked. -/
def State.returnData (s : State) (t : Token) : List Byte :=
  ((s.fab.requests.filter fun q => q.id == t.id && q.channel.isNone).filter fun q => !q.write).flatMap fun q => q.got.getD []

/-- The result of an outstanding request returns, with what peers have sent for it. -/
def tokenReturn (s : State) (c : Ctx) (t : Token) (data : List Byte) : Out :=
  let reqs := s.fab.requests.filter fun q => q.id == t.id && q.channel.isNone
  let o := Owner.token t.id
  if t.kind = mxKind ∨ t.bad ≠ 0 ∨ t.held.isSome ∨ !s.packetsDone o ∨ s.tokenUnplaced t ∨ s.tokenPoisoned t ∨ s.tokenRetried c.key t ∨
      data ≠ s.returnData t ∨ (reqs.any fun q => q.got.isNone || !s.packetsDone (.reply q.num)) ∨ s.sel.flag ≠ s.returnLate t then .refused (.notEnabled "RESULT_RETURN")
  else
    let reads := reqs.filter fun q => !q.write
    let got := replyBytes reads data
    let bytes := t.keys.map fun k => ((got.find? fun x => x.1 == k).map fun x => x.2).getD 0
    let cells := if t.keys.isEmpty then [] else (t.place bytes).filter fun x => !t.dead.contains x.1
    let s := reqs.foldl (fun (s : State) q => s.dropPackets (.reply q.num)) (s.acknowledge t.writes)
    let s := { s.dropPackets o with fab := { s.fab with requests := s.fab.requests.filter fun q => !(q.id == t.id && q.channel.isNone) } }
    let c := (s.keptImage c).returned s.sel.a { t with cells := t.cells ++ cells } s.sel.flag
    .next ((s.setCtx c).settle c)

/-- RESULT_RETURN (R134): a result returns and is written in program order; with c = 1, a peer's reply to request b; with c = 2, a
peer's acceptance of a routed token. -/
def execResultReturn (data : List Byte) (s : State) : Out :=
  if s.sel.c = 1 then peerReply s data
  else if s.sel.c = 2 then tokenAccepted s
  else match s.ctx? s.sel.ctx with
    | some c => match c.outstanding[s.sel.a]? with
      | some t => tokenReturn s c t data
      | none => .refused (.notEnabled "RESULT_RETURN")
    | none => .refused (.notEnabled "RESULT_RETURN")

/-- The fault that a request of an exchange instruction has found after issue (R242). -/
def State.tokenFault (s : State) (t : Token) : Nat :=
  if t.kind = mxKind ∨ t.bad ≠ 0 ∨ t.held.isSome then 0
  else if s.tokenPoisoned t then fcPOISON
  else if s.tokenUnplaced t then fcSTAGINGFULL else 0

/-- The address and element position of an access at a place that it reaches: its first lane there (R196). -/
def Token.placeOf (t : Token) (x : Nat) : Word × Nat :=
  match (enabledLanes t.mask).find? fun i => x < (t.addr + BitVec.ofNat 64 (4 * i)).toNat + 4 with
  | some i => (t.addr + BitVec.ofNat 64 (4 * i), i)
  | none => (t.addr, 0)

/-- An access has found a fault, at an address that it reaches. -/
def Token.fail (t : Token) (code : Nat) (x : Nat) : Token :=
  { t with bad := code, spot := (t.placeOf x).1, element := (t.placeOf x).2 }

/-- Where a request has found its fault: in a poisoned page, or at a write without room (R45, R343). -/
def State.tokenSpot (s : State) (t : Token) : Nat :=
  match t.pages.find? fun p => s.pagePoisoned p.1 with
  | some p => 2 ^ 63 + p.1
  | none => ((s.staged.find? fun e => e.pool == 0 && t.writes.contains e.seq).map fun e => e.addr.toNat).getD t.addr.toNat

/-- A remote request comes to nothing (R45, R389): its copy stops on the fault, its access has it as a fault found in flight, and a migration
asks again. -/
def State.requestBad (s : State) (q : RemoteReq) (code : Nat) : State :=
  let qs := s.fab.requests.map fun p => if p.num = q.num then { p with lost := true } else p
  let s := { s with fab := { s.fab with requests := qs } }
  match q.channel with
  | some n =>
    s.updTile q.ctx.tile fun t =>
      let ch := t.channel n
      if ch.work = q.id ∧ ch.state = .active then
        t.setChannel { ch with state := .faulted, fault := code, faultAddr := BitVec.ofNat 64 (2 ^ 63 + q.req.va) }
      else t
  | none =>
    if s.xlat.migrations.any fun m => m.req == q.id then s.resend none fun p => p.num == q.num
    else
      let cs := s.ctxs.map fun c =>
        { c with outstanding := c.outstanding.map fun t => if t.id = q.id ∧ t.bad = 0 then t.fail code (2 ^ 63 + q.req.va) else t }
      let s := { s with ctxs := cs }
      match s.ctxs.find? fun c => !c.stopped && c.outstanding.any fun t => t.id == q.id with
      | some c => s.settle c
      | none => s

/-- EXCHANGE_INFLIGHT_FAULT (R242): the access is held with its fault; the park that waits for it delivers it. With b above zero a peer had no
room for the write of request b - 1 (R45). -/
def execExchangeInflightFault (s : State) : Out :=
  if s.sel.b ≠ 0 then
    match s.fab.requests.find? fun q => q.num + 1 == s.sel.b && !q.lost && q.got.isNone && q.write with
    | some q => if s.sel.c = fcSTAGINGFULL then .next (s.requestBad q fcSTAGINGFULL) else .refused (.notEnabled "EXCHANGE_INFLIGHT_FAULT")
    | none => .refused (.notEnabled "EXCHANGE_INFLIGHT_FAULT")
  else match s.ctx? s.sel.ctx with
  | some c =>
    if s.sel.c ≠ 0 ∧ c.outstanding.any (fun t => s.tokenFault t == s.sel.c) then
      let c := { c with outstanding := c.outstanding.map fun t => if s.tokenFault t = s.sel.c then t.fail s.sel.c (s.tokenSpot t) else t }
      .next ((s.setCtx c).settle c)
    else .refused (.notEnabled "EXCHANGE_INFLIGHT_FAULT")
  | none => .refused (.notEnabled "EXCHANGE_INFLIGHT_FAULT")

end Sys2Proof.Machine
end

