-- ==== Sys2Proof/Machine/RegCache.lean ====
section
/-! DEFINITION. The register cache (R128): the lines that an instruction reads or writes, misses, fills and replacement. Register bytes are kept
once, in the context's register file; which lines are cached decides nothing but stalls. -/

namespace Sys2Proof.Machine

/-! ### The register bytes of an instruction -/

/-- The bytes of the register space that an operand names; an operand-file entry lies outside it (R122, R130). -/
def Ctx.span? (c : Ctx) : Operand → Option (Nat × Nat)
  | .v n => some (c.vloc n, 256)
  | .p n => some (c.ploc n, 8)
  | .s n => some (c.sloc n, 8)
  | .a n => some (c.aloc n, 4096)
  | .o _ | .latch | .const _ => none

/-- Registers beyond those named in the word (R126, R185, R310). -/
def runsOf (i : Instr) (c : Ctx) : List (Nat × Nat) :=
  match i with
  | .vmovn w => match w.dst, w.a, w.b with
    | .v d, .v a, .const n => [(c.vloc d, 256 * n.toNat), (c.vloc a, 256 * n.toNat)]
    | _, _, _ => []
  | .vzero w => match w.dst, w.a with
    | .v d, .const n => [(c.vloc d, 256 * n.toNat)]
    | _, _ => []
  | .mma w | .mmat w => match w.b with
    | .v k => if w.sub.getLsbD 12 then [(c.vloc k, 256 * (w.sub.toNat % 16 + 1))] else []
    | _ => []
  | _ => []

/-- The elements of a private access (R190-R193), as far as its operands can be read. -/
def elemsOf (i : Instr) (c : Ctx) : List Elem :=
  let g := match i.form.common? with
    | some h => (readGuard c h).toOption.getD 0
    | none => 0
  let base := fun (w : FormM) => (readVal c w.base).toOption.getD 0
  let one := fun (w : FormM) (n : Nat) => if g.getLsbD 0 then [{ pos := 0, addr := memAddr (base w) w.off, len := n : Elem }] else []
  let width := fun (w : FormM) => elemBytes (w.mod.toNat % 4)
  match i with
  | .ldb w | .stb w => one w 1
  | .ldh w | .sth w => one w 2
  | .ldw w | .stw w => one w 4
  | .ldd w | .std w => one w 8
  | .ldv w | .stv w => laneElems (memAddr (base w) w.off) g
  | .ldvs w | .stvs w => strideElems (base w) w.off (width w) g
  | .ldvx w | .stvx w => indexElems ((readIndices c w.base).toOption.getD []) w.off (width w) g
  | _ => []

/-- The bytes of the register space that an access reaches through the window (R135). -/
def windowSpan (e : Elem) : Option (Nat × Nat) :=
  match regionOf e.addr with
  | some (.window, _) => some (e.addr.toNat - 0x100000, e.len)
  | _ => none

/-- The bytes of the register space that an instruction reads or writes as it issues (R121). -/
def touchedBy (i : Instr) (c : Ctx) : List (Nat × Nat) :=
  let guard := match i, i.form.common? with
    | .blockHeader h, _ => if h.guard = 0 then [] else [(c.ploc h.guard, 8)]
    | _, some h => if h.pred = 0 then [] else [(c.ploc h.pred, 8)]
    | _, none => []
  let lane := match i.form.common? with
    | some h => h.lane
    | none => false
  let ops := i.form.operands.filter fun o => lane || o != Operand.zero
  guard ++ ops.filterMap c.span? ++ runsOf i c ++ (elemsOf i c).filterMap windowSpan

/-! ### Lines -/

/-- The lines of some bytes: offsets divided by 64. -/
def linesOf (rs : List (Nat × Nat)) : List Nat :=
  (rs.flatMap fun r => if r.2 = 0 then [] else (List.range ((r.1 + r.2 - 1) / 64 + 1 - r.1 / 64)).map (r.1 / 64 + ·)).dedup

/-- The set of a context's line, among those of its number: bits 10:6 of its offset (R128). -/
def lineSet (l : Nat) : Nat := l % 32

/-- The lines of some bytes that the cache does not hold. -/
def Ctx.missing (c : Ctx) (rs : List (Nat × Nat)) : List Nat := (linesOf rs).filter fun l => !c.lines.contains l

/-- An instruction has used its lines. -/
def Ctx.useLines (c : Ctx) (rs : List (Nat × Nat)) : Ctx :=
  let ls := (linesOf rs).filter c.lines.contains
  { c with lines := ls ++ c.lines.filter (fun l => !ls.contains l), want := none }

/-- Drop the line of a set that was used longest ago. -/
def dropOldest (set : Nat) (ls : List Nat) : List Nat :=
  match ls.reverse.find? fun l => lineSet l == set with
  | some l => ls.filter fun x => x != l
  | none => ls

/-- A line of a context enters the cache. In a set of eight ways that is full, a line of a stopped context of the same number goes first, since
STOP has marked it evictable, else the context's own that was used longest ago (R128; which one goes is log entry 88). -/
def State.fillLine (s : State) (c : Ctx) (l : Nat) : State :=
  let inSet := fun (d : Ctx) => d.lines.filter fun x => lineSet x == lineSet l
  let marked := s.ctxs.filter fun d => d.key == c.key && d.stopped && !d.same c && !(inSet d).isEmpty
  let full : Bool := 8 ≤ (inSet c).length + (marked.map fun d => (inSet d).length).sum
  let s := if full then s.updCtx (marked.headD c) fun d => { d with lines := dropOldest (lineSet l) d.lines } else s
  s.updCtx c fun c => { c with lines := l :: c.lines, want := c.want.map fun (w : List Nat) => w.filter fun x => x != l }

/-- REGISTER_CACHE_FILL (R128): a line for which a context stalls arrives from the image store. -/
def execRegisterCacheFill (s : State) : Out :=
  match s.ctx? s.sel.ctx with
  | some c =>
    if (c.want.getD []).contains s.sel.a then .next (s.fillLine c s.sel.a) else .refused (.notEnabled "REGISTER_CACHE_FILL")
  | none => .refused (.notEnabled "REGISTER_CACHE_FILL")

end Sys2Proof.Machine
end

