-- ==== Sys2Proof/Machine/Issue.lean ====
section
/-! DEFINITION. Which context issues, and what its next word comes to (R74, R88, R120, R121, R137). -/

namespace Sys2Proof.Machine

/-- An opcode that user mode may not execute (R87). -/
def opcodePrivileged (op : Nat) : Bool :=
  op == 0x1B5 || op == 0x2C5 || op == 0x2C6 || op == 0x2C7 || op == 0x2E2 || op == 0x2E3 || op == 0x3C2

/-- A CSRW, CSRS or CSRC that names a privileged register (R87, R88 check 3). -/
def csrWordPrivileged (w : Word) : Bool :=
  let op := (w.extractLsb' 54 10).toNat
  0x3C5 ≤ op && op ≤ 0x3C7 && csrExists (w.toNat % 4096) && csrPrivileged (w.toNat % 4096)

/-- Check 3 of R88 on the raw word. -/
def wordPrivileged (w : Word) : Bool := opcodePrivileged (w.extractLsb' 54 10).toNat || csrWordPrivileged w

/-- What the word at an instruction position comes to: checks 2, 3 and 4 of R88. -/
inductive Decoded where
  | run (i : Instr)
  | trap (code : Nat)
  deriving DecidableEq, Repr

/-- Decode checks 2 to 4 of a word in an instruction position, in a mode (R88). -/
def decodeIssue (w : Word) (supervisor : Bool) : Decoded :=
  match decode w with
  | .ok (.undefinedOpcode v) => .run (.undefinedOpcode v)
  | .ok (.blockHeader _) => .run (.undefinedOpcode w)
  | .ok i => if wordPrivileged w && !supervisor then .trap fcPRIV else .run i
  | .error _ => if (w.extractLsb' 54 10).toNat = 0x3FF then .run (.undefinedOpcode w)
      else if wordPrivileged w && !supervisor then .trap fcPRIV else .trap fcILLEGAL

/-- What an issue attempt comes to before anything executes. -/
inductive Front where
  | run (i : Instr) (w : Word)
  | done (s : State)
  deriving DecidableEq, Repr

/-- The fault of a word that a leader's decode checks refused, as the follower decodes it (R90): by check 2 or 5 it is ILLEGAL. -/
def refusedCode (w : Word) (supervisor : Bool) : Nat :=
  match decodeIssue w supervisor with
  | .run _ => fcILLEGAL
  | .trap code => code

/-- Issue a follower's forwarded word (R90, R137, R138): a handler entry banks at the same point of the stream. -/
def State.frontFollower (s : State) (c : Ctx) : Front :=
  match c.fwd with
  | [] => .done s
  | f :: r =>
    match f.entry with
    | some e =>
      if c.live.isEmpty then .done (s.setCtx ({ c.endRegion with fwd := r }.enterHandler e (c.saveAt c.pc false) f.addr))
      else .done s
    | none =>
      if f.refused then
        if c.live.isEmpty then .done (s.takeFault { c with fwd := r } { code := refusedCode f.word c.supervisor }) else .done s
      else if c.atHeader then
        match headerAt c.pc f.word with
        | .ok h => .run (.blockHeader h) f.word
        | .error (.trap t) => .done (s.dueFault c t)
        | .error (.stall s') => .done s'
      else match decodeIssue f.word c.supervisor with
        | .run i => .run i f.word
        | .trap code => .done (s.dueFault c { code := code })

/-- The FAULTADDR of a fault in fetching a word: that of the handler's address when its header cannot be fetched (R205), else 0 for a
translation fault. -/
def Ctx.fetchTrap (c : Ctx) (t : Trap) : Trap :=
  if t.code = fcBADTARGET ∨ (c.uleActive ∧ c.atHeader ∧ c.pc = c.ulevec) then t else { t with addr := 0 }

/-- A leader sends its followers a word that its decode checks refuse, as it takes the fault (R90). -/
def State.forwardRefused (s : State) (c : Ctx) (w : Word) : State :=
  if c.leader && c.live.isEmpty then
    s.forward c { word := w, addr := c.pc, target := none, value := 0, entry := none, refused := true, due := 0 }
  else s

/-- A header reached by falling through from a block's last instruction is reported against that instruction (R75, R211). -/
def Ctx.atFall (c : Ctx) : Ctx := if c.atHeader && c.pc == c.blockEnd then { c with pc := c.pc - 8, atHeader := false } else c

/-- What a fetched word comes to: the block header at a header's place, else the instruction, or the fault of its decoding (R75, R88). -/
def State.frontWord (s : State) (c : Ctx) (w : Word) : Front :=
  if c.atHeader then
    match headerAt c.pc w with
    | .ok h => .run (.blockHeader h) w
    | .error (.trap t) => .done (s.dueFault c.atFall t)
    | .error (.stall s') => .done s'
  else match decodeIssue w c.supervisor with
    | .run (.undefinedOpcode _) => .done ((s.forwardRefused c w).dueFault c { code := fcILLEGAL })
    | .run i => .run i w
    | .trap code => .done ((s.forwardRefused c w).dueFault c { code := code })

/-- An instruction stalls while a register line that it reads or writes is not in the register cache (R121, R128). -/
def State.withLines (s : State) (c : Ctx) : Front → Front
  | .done t => .done t
  | .run i w =>
    let ls := c.missing (touchedBy i c)
    if c.want.isSome || ls.isEmpty then .run i w else .done (s.updCtx c fun d => { d with want := some ls })

/-- Issue a context's next word: fetch it, or wait for it; take the fault of its fetch or decoding; or execute it. -/
def State.front (s : State) (k : CtxKey) : Front :=
  match s.ctx? k with
  | none => .done s
  | some c =>
    if c.follower then s.withLines c (s.frontFollower c)
    else match s.fetchAt c c.pc with
      | .error (.stall s') => .done s'
      | .error (.trap t) => .done (s.dueFault c (c.fetchTrap t))
      | .ok w => s.withLines c (s.frontWord c w)

/-- A follower's buffer of 64 instructions is full (R137): words on their way count, block headers and entries of a handler do not. DESIGN CHOICE, log
entry 107. -/
def Ctx.buffersFull (d : Ctx) : Bool :=
  64 ≤ ((d.fwd ++ d.fwdWire).filter fun f => f.entry.isNone && f.word.extractLsb' 54 10 != 0x3FF#10).length

/-- A context is ready as far as its own state, its lines on their way, a record of it that waits (R207) and its gang show (R121, R137). -/
def State.ready (s : State) (c : Ctx) : Bool :=
  !c.stopped && !c.evicted && c.faulted.isNone && (c.want.getD []).isEmpty && !(s.sfqWait.any fun r => r.ctx == some c.key) &&
  (match c.wait with
   | .none => true
   | .park => true
   | .engine _ => true
   | .action => true
   | .drain _ => false
   | .entry => false
   | .resume => false
   | .wfe _ _ => !c.evq.isEmpty
   | .yield d => d == 0) &&
  (if c.follower then !c.fwd.isEmpty
   else if c.leader then !(s.ctxs.any fun d => d.task == c.task && d.follower && !d.stopped && d.buffersFull)
   else true)

/-- The eight contexts of a tile from one on (R120). -/
def ringFrom (n : Nat) : List Nat := (List.range 8).map fun i => (n + i) % 8

/-- The first context of a tile in the order of its port's search that a test accepts (R120). -/
def State.firstOf (s : State) (tile : Nat) (ok : CtxKey → Bool) : Option CtxKey :=
  match (ringFrom (s.tile tile).rr).find? fun n => ok { tile := tile, num := n } with
  | some n => some { tile := tile, num := n }
  | none => none

/-- An event of the context's queue may be delivered at this boundary, as far as the context's own state shows (R204). -/
def Ctx.deliverable (c : Ctx) : Bool :=
  !c.evq.isEmpty && c.uleEn && !c.uleActive && !c.supervisor && !c.follower && !c.atHeader && c.wait == .none

/-- The context has taken a fault between two records of it. -/
def faultTaken (c d : Ctx) : Bool := d.faulted.isSome || (d.uleActive && !c.uleActive)

/-- A context stalls: it is where it was and has taken no fault (R121). -/
def Ctx.stalledIn (c : Ctx) (t : State) : Bool :=
  match t.member? c.task c.rank with
  | none => false
  | some d => !faultTaken c d && d.pc == c.pc && d.atHeader == c.atHeader && d.wait != .drain c.pc

/-- A context has issued: it has neither taken a fault nor stalled (R120). -/
def Ctx.issuedIn (c : Ctx) (t : State) : Bool :=
  match t.member? c.task c.rank with
  | none => true
  | some d => !faultTaken c d && !c.stalledIn t

/-- The outcome of the instruction at a boundary lets the queued event go first: it neither faults nor waits (R204). -/
def eventFirst (c : Ctx) (out : Out) : Bool :=
  match out with
  | .next t => c.issuedIn t
  | _ => false

/-- The context goes on at the word after a TRAP that has taken its fault: the TRAP has been executed (R195, R211). -/
def trapTaken (c d : Ctx) : Bool := faultTaken c d && d.faultinfo.toNat % 256 == fcTRAP && d.faultpc == c.pc + 8

/-- An instruction whose operands R88's check 5 refuses: it reads an empty latch, or in uniform class one of 256 bytes (R131). -/
def latchBad (i : Instr) (c : Ctx) : Bool :=
  i.form.operands.any Operand.isLatch && (match c.latch with
    | .empty => true
    | .w256 _ => (i.form.common?.map fun h => !h.lane).getD false
    | .w8 _ => false)

/-- Followers get a word before the entry to the handler that the word's own fault brought. -/
def beforeEntry (l : List FwdWord) (f : FwdWord) : List FwdWord :=
  match l.reverse with
  | e :: r => if e.entry.isSome then (e :: f :: r).reverse else l ++ [f]
  | [] => [f]

/-- A TRAP that has taken its fault goes to the followers too, before the handler's entry (R90, R137). -/
def State.forwardTrap (s : State) (c : Ctx) (w : Word) : State :=
  let f : FwdWord := { word := w, addr := c.pc, target := none, value := 0, entry := none, refused := false, due := 0 }
  { s with ctxs := s.ctxs.map fun d =>
      if d.task = c.task ∧ d.follower then
        { d with fwdWire := beforeEntry d.fwdWire { f with due := s.cycle + gangDelay c.key.tile d.key.tile } }
      else d }

/-- A SYNC whose arrival has been sent, now or before: what it still waits for is no decision (R137, R264). -/
def syncSent (i : Instr) (d : Ctx) : Bool :=
  match i with
  | .sync _ => match d.arrival with
    | some a => a.sync
    | none => false
  | _ => false

/-- The leader has issued a word: it goes to the followers, with the leader's decision (R137); a SYNC goes as its arrival is sent, for every
follower arrives for itself (R264). A WFE whose own guard failed sends the value that
its destination keeps, and the followers whose guard passes take that one: log entry 89. -/
def forwardIssue (c : Ctx) (i : Instr) (w : Word) (t : State) : State :=
  if !c.leader then t
  else if !c.issuedIn t then
    match t.member? c.task c.rank with
    | none => t
    | some d =>
      if trapTaken c d then t.forwardTrap c w
      else if syncSent i d && !syncSent i c then
        t.forward c { word := w, addr := c.pc, target := none, value := 0, entry := none, refused := false, due := 0 }
      else if faultTaken c d && latchBad i c then t.forwardRefused c w
      else t
  else if syncSent i c then t
  else
    let go := fun (target : Option Word) (v : Word) =>
      t.forward c { word := w, addr := c.pc, target := target, value := v, entry := none, refused := false, due := 0 }
    match t.member? c.task c.rank with
    | none => go none 0
    | some d => go (if d.atHeader && d.blockEnd == 0 then some d.pc else none) (match d.latch with
        | .w8 x => x
        | _ => 0)

/-- After an issue the search of the port moves on (R120). -/
def State.issued (s : State) (k : CtxKey) : State := s.updTile k.tile fun t => { t with rr := (k.num + 1) % 8 }

/-- A context has issued: one of its tile that yielded to it is ready again (R146). -/
def State.endYields (s : State) (k : CtxKey) : State :=
  { s with ctxs := s.ctxs.map fun d =>
      if d.key.tile = k.tile ∧ d.key ≠ k then
        (match d.wait with
         | .yield _ => { d with wait := .yield 0 }
         | _ => d)
      else d }

end Sys2Proof.Machine
end

