-- ==== Sys2Proof/Machine/Integer.lean ====
section
/-! DEFINITION. The integer instructions of both classes (R149-R166). -/

namespace Sys2Proof.Machine

/-- Element width of an integer type code (R83). -/
def intWidth (typ : Nat) : Nat :=
  match typ with
  | 0 => 64
  | 1 => 32
  | 2 => 16
  | _ => 8

/-- The option bits .SAT and .U (R152). -/
def optSat (w : FormA) : Bool := w.mod.getLsbD 6
def optU (w : FormA) : Bool := w.mod.getLsbD 5

/-- The uniform result (R150): zeros or the sign above the width. -/
def extendTo (w : Nat) (zero : Bool) (x : Nat) : Word := if zero then BitVec.ofNat 64 (x % 2 ^ w) else sext64 w x

/-- Wrap or clamp an exact result, with IOV or SAT (R68, R151). -/
def fitInt (w : Nat) (unsigned sat : Bool) (x : Int) : Nat × Nat :=
  let lo : Int := if unsigned then 0 else -(2 ^ (w - 1) : Int)
  let hi : Int := if unsigned then 2 ^ w - 1 else 2 ^ (w - 1) - 1
  let out : Bool := decide (x < lo) || decide (hi < x)
  if sat then (wrapTo w (if x < lo then lo else if hi < x then hi else x), flagIf out flagSAT)
  else (wrapTo w x, flagIf out flagIOV)

/-- An element in the signedness of the instruction (R150). -/
def readInt (w : Nat) (unsigned : Bool) (x : Nat) : Int := if unsigned then (x : Int) else signedOf w x

/-- An integer instruction of Form A (R150). -/
def runInt (s : State) (f : FormA) (srcs : List Operand) (zero : Bool) (op : Nat → List Nat → Nat × Nat) : Out :=
  let w := intWidth f.typ
  runElems s f.h f.dst srcs w (op w) (extendTo w zero)

/-- An exact operation of two or three sources with the options of R152. -/
def runExact (s : State) (f : FormA) (srcs : List Operand) (op : Int → Int → Int → Int) : Out :=
  runInt s f srcs (optU f) fun w l =>
    let x := fun k => readInt w (optU f) (l.getD k 0)
    fitInt w (optU f) (optSat f) (op (x 0) (x 1) (x 2))

/-- An instruction on unsigned elements that sets no flag. -/
def runBits (s : State) (f : FormA) (srcs : List Operand) (zero : Bool) (op : Nat → Nat → Nat → Nat → Nat) : Out :=
  runInt s f srcs zero fun w l => (op w (l.getD 0 0) (l.getD 1 0) (l.getD 2 0) % 2 ^ w, 0)

/-- The class and the immediate of a Form I instruction: 64 bits in uniform class, 32 in lane class (R159). -/
def runImm (s : State) (f : FormI) (op : Nat → Nat → Nat → Nat × Nat) (zero : Bool) : Out :=
  let w := if f.h.lane then 32 else 64
  let y := wrapTo w f.imm.toInt
  runElems s f.h f.dst [f.a] w (fun l => op w (l.getD 0 0) y) (extendTo w zero)

/-- The high half of a product (R154). -/
def mulHigh (w : Nat) (unsigned : Bool) (x y : Nat) : Nat := wrapTo w ((readInt w unsigned x * readInt w unsigned y) / 2 ^ w)

/-- Quotient or remainder (R155). -/
def divInt (w : Nat) (unsigned isRem : Bool) (x y : Nat) : Nat × Nat :=
  if y = 0 then (if isRem then x else 2 ^ w - 1, flagDZ)
  else
    let a := readInt w unsigned x
    let b := readInt w unsigned y
    if !unsigned && x == 2 ^ (w - 1) && y == 2 ^ w - 1 then (if isRem then 0 else x, flagIf (!isRem) flagIOV)
    else (wrapTo w (if isRem then a.tmod b else a.tdiv b), 0)

/-- A left shift (R157). -/
def shlInt (w : Nat) (unsigned sat : Bool) (x y : Nat) : Nat × Nat :=
  fitInt w unsigned sat (readInt w unsigned x * 2 ^ (y % w))

/-- An arithmetic right shift (R157). -/
def sarInt (w x y : Nat) : Nat := wrapTo w (signedOf w x / 2 ^ (y % w))

/-- Rotate left (R157). -/
def rolInt (w x y : Nat) : Nat := (x * 2 ^ (y % w) + x / 2 ^ (w - y % w)) % 2 ^ w

/-- Number of ones below a bit. -/
def popcount : Nat → Nat → Nat
  | 0, _ => 0
  | n + 1, x => b2n (bitAt x n) + popcount n x

/-- Zeros above the highest one (R164). -/
def clzInt : Nat → Nat → Nat
  | 0, _ => 0
  | n + 1, x => if bitAt x n then 0 else 1 + clzInt n x

/-- Reverse the low bits (R164). -/
def brevInt : Nat → Nat → Nat
  | 0, _ => 0
  | n + 1, x => b2n (bitAt x 0) * 2 ^ n + brevInt n (x / 2)

/-- Zeros below the lowest one (R164). -/
def ctzInt (w x : Nat) : Nat := clzInt w (brevInt w x)

/-- Extract a field (R165). -/
def bfxInt (w : Nat) (signed : Bool) (x y z : Nat) : Nat :=
  let len := min (z % 256) w
  let f := x / 2 ^ (y % 256) % 2 ^ len
  if signed && len != 0 && bitAt f (len - 1) then wrapTo w ((f : Int) - 2 ^ len) else f

/-- Insert a field (R165). -/
def bfiInt (w d x y z : Nat) : Nat :=
  let pos := y % 256
  let len := min (z % 256) w
  let m := (2 ^ len - 1) * 2 ^ pos % 2 ^ w
  Nat.lor (d - Nat.land d m) (Nat.land (x * 2 ^ pos) m)

/-- ADD (R153). -/
def execAdd (w : FormA) (s : State) : Out := runExact s w [w.a, w.b] fun x y _ => x + y

/-- SUB (R153). -/
def execSub (w : FormA) (s : State) : Out := runExact s w [w.a, w.b] fun x y _ => x - y

/-- MUL (R153). -/
def execMul (w : FormA) (s : State) : Out := runExact s w [w.a, w.b] fun x y _ => x * y

/-- MAD (R153). -/
def execMad (w : FormA) (s : State) : Out := runExact s w [w.a, w.b, w.c] fun x y z => x * y + z

/-- ADDI (R159). -/
def execAddi (w : FormI) (s : State) : Out :=
  runImm s w (fun n x y => fitInt n false false (signedOf n x + signedOf n y)) false

/-- MULI (R159). -/
def execMuli (w : FormI) (s : State) : Out :=
  runImm s w (fun n x y => fitInt n false false (signedOf n x * signedOf n y)) false

/-- MULHI (R154). -/
def execMulhi (w : FormA) (s : State) : Out := runBits s w [w.a, w.b] false fun n x y _ => mulHigh n false x y

/-- MULHU (R154). -/
def execMulhu (w : FormA) (s : State) : Out := runBits s w [w.a, w.b] true fun n x y _ => mulHigh n true x y

/-- DIV (R155). -/
def execDiv (w : FormA) (s : State) : Out := runInt s w [w.a, w.b] false fun n l => divInt n false false (l.getD 0 0) (l.getD 1 0)

/-- DIVU (R155). -/
def execDivu (w : FormA) (s : State) : Out := runInt s w [w.a, w.b] true fun n l => divInt n true false (l.getD 0 0) (l.getD 1 0)

/-- REM (R155). -/
def execRem (w : FormA) (s : State) : Out := runInt s w [w.a, w.b] false fun n l => divInt n false true (l.getD 0 0) (l.getD 1 0)

/-- REMU (R155). -/
def execRemu (w : FormA) (s : State) : Out := runInt s w [w.a, w.b] true fun n l => divInt n true true (l.getD 0 0) (l.getD 1 0)

/-- AND (R156). -/
def execAnd (w : FormA) (s : State) : Out := runBits s w [w.a, w.b] false fun _ x y _ => Nat.land x y

/-- ANDI (R159). -/
def execAndi (w : FormI) (s : State) : Out := runImm s w (fun _ x y => (Nat.land x y, 0)) false

/-- OR (R156). -/
def execOr (w : FormA) (s : State) : Out := runBits s w [w.a, w.b] false fun _ x y _ => Nat.lor x y

/-- ORI (R159). -/
def execOri (w : FormI) (s : State) : Out := runImm s w (fun _ x y => (Nat.lor x y, 0)) false

/-- XOR (R156). -/
def execXor (w : FormA) (s : State) : Out := runBits s w [w.a, w.b] false fun _ x y _ => Nat.xor x y

/-- XORI (R159). -/
def execXori (w : FormI) (s : State) : Out := runImm s w (fun _ x y => (Nat.xor x y, 0)) false

/-- SHL (R157). -/
def execShl (w : FormA) (s : State) : Out :=
  runInt s w [w.a, w.b] (optU w) fun n l => shlInt n (optU w) (optSat w) (l.getD 0 0) (l.getD 1 0)

/-- SHLI (R159). -/
def execShli (w : FormI) (s : State) : Out := runImm s w (fun n x y => shlInt n false false x y) false

/-- SHR (R157). -/
def execShr (w : FormA) (s : State) : Out := runBits s w [w.a, w.b] true fun n x y _ => x / 2 ^ (y % n)

/-- SHRI (R159). -/
def execShri (w : FormI) (s : State) : Out := runImm s w (fun n x y => (x / 2 ^ (y % n), 0)) true

/-- SAR (R157). -/
def execSar (w : FormA) (s : State) : Out := runBits s w [w.a, w.b] false fun n x y _ => sarInt n x y

/-- SARI (R159). -/
def execSari (w : FormI) (s : State) : Out := runImm s w (fun n x y => (sarInt n x y, 0)) false

/-- ROL (R157). -/
def execRol (w : FormA) (s : State) : Out := runBits s w [w.a, w.b] false fun n x y _ => rolInt n x y

/-- MIN (R158). -/
def execMin (w : FormA) (s : State) : Out := runBits s w [w.a, w.b] false fun n x y _ => minMaxInt false false n x y

/-- MINU (R158). -/
def execMinu (w : FormA) (s : State) : Out := runBits s w [w.a, w.b] true fun n x y _ => minMaxInt true false n x y

/-- MAX (R158). -/
def execMax (w : FormA) (s : State) : Out := runBits s w [w.a, w.b] false fun n x y _ => minMaxInt false true n x y

/-- MAXU (R158). -/
def execMaxu (w : FormA) (s : State) : Out := runBits s w [w.a, w.b] true fun n x y _ => minMaxInt true true n x y

/-- ABS (R158). -/
def execAbs (w : FormA) (s : State) : Out :=
  runInt s w [w.a] false fun n l => fitInt n false (optSat w) ((signedOf n (l.getD 0 0)).natAbs : Int)

/-- The conditions of a compare (R160). -/
def cmpHolds (cond w x y : Nat) : Bool :=
  let a := signedOf w x
  let b := signedOf w y
  match cond with
  | 0 => x == y
  | 1 => x != y
  | 2 => decide (a < b)
  | 3 => decide (b ≤ a)
  | 4 => decide (a ≤ b)
  | 5 => decide (b < a)
  | 6 => decide (x < y)
  | _ => decide (y ≤ x)

/-- A mask from the bits of a list, bit 0 first. -/
def maskOf : List Bool → Nat
  | [] => 0
  | b :: r => b2n b + 2 * maskOf r

/-- Write a compare's predicate (R136, R160): all 64 bits in uniform class, a bit for each enabled lane in lane class. -/
def runCompare (s : State) (h : Common) (dst : Operand) (srcs : List Operand) (w : Nat) (holds_ : Nat → Nat → Bool × Nat) (y : Option Nat) : Out :=
  if h.lane then
    runInstr s h false srcs fun s c g => do
      let xs : List (List Nat) ← srcs.mapM fun o => readElems c 32 o
      let a := xs.getD 0 []
      let rs : List (Bool × Nat) := (List.range 64).map fun i => holds_ (a.getD i 0) (match y with
        | some k => k
        | none => (xs.getD 1 []).getD i 0)
      let c' ← writeMask s c dst g (BitVec.ofNat 64 (maskOf (rs.map fun r => r.1)))
      return { s := s, c := c'.orFlags (laneFlags 32 g (rs.map fun r => (0, r.2))) }
  else
    runValue s h dst srcs fun _ c => do
      let xs : List Word ← srcs.mapM fun o => readVal c o
      let r := holds_ ((xs.getD 0 0).toNat % 2 ^ w) (match y with
        | some k => k
        | none => (xs.getD 1 0).toNat % 2 ^ w)
      return (if r.1 then BitVec.allOnes 64 else 0, r.2)

/-- CMP (R160). -/
def execCmp (w : FormA) (s : State) : Out :=
  let n := intWidth w.typ
  runCompare s w.h w.dst [w.a, w.b] n (fun x y => (cmpHolds w.opt n x y, 0)) none

/-- CMPI (R160): the condition is imm 26:24 and the value imm 23:0. -/
def execCmpi (w : FormI) (s : State) : Out :=
  let n := if w.h.lane then 32 else 64
  let y := wrapTo n (w.imm.extractLsb' 0 24).toInt
  runCompare s w.h w.dst [w.a] n (fun x y => (cmpHolds (w.imm.toNat / 2 ^ 24) n x y, 0)) (some y)

/-- SEL (R161). -/
def execSel (w : FormA) (s : State) : Out :=
  let n := intWidth w.typ
  if w.h.lane then
    runInstr s w.h false [w.a, w.b, w.c] fun s c g => do
      let x ← readElems c n w.a
      let y ← readElems c n w.b
      let m ← readVal c w.c
      let r := (List.range (2048 / n)).map fun e => if m.getLsbD (e / (32 / n)) then x.getD e 0 else y.getD e 0
      let c' ← writeElems s c w.dst n g r
      return { s := s, c := c' }
  else
    runValue s w.h w.dst [w.a, w.b, w.c] fun _ c => do
      let x ← readVal c w.a
      let y ← readVal c w.b
      let m ← readVal c w.c
      return (extendTo n false ((if m.getLsbD 0 then x else y).toNat % 2 ^ n), 0)

/-- MOV (R162). -/
def execMov (w : FormA) (s : State) : Out := runBits s w [w.a] false fun _ x _ _ => x

/-- MOVI (R163). -/
def execMovi (w : FormW) (s : State) : Out :=
  if w.h.lane then
    runInstr s w.h false [] fun s c g => do
      let c' ← writeElems s c w.dst 32 g (List.replicate 64 w.imm.toNat)
      return { s := s, c := c' }
  else
    runValue s w.h w.dst [] fun _ _ => .ok (if w.mod.getLsbD 0 then w.imm.zeroExtend 64 else w.imm.signExtend 64, 0)

/-- MOVHI (R163): bytes 7:4 alone are written; the latch takes all eight. -/
def execMovhi (w : FormW) (s : State) : Out :=
  runUniform s w.h false (some w.dst) [] fun s c =>
    match c.loc w.dst with
    | none => fault fcILLEGAL
    | some a => do
      let c' ← writeRf s c (a + 4) 4 (cellsAt (a + 4) (bytesOf 4 w.imm.toNat))
      return { s := s, c := c'.setLatch a 8 }

/-- POPC (R164). -/
def execPopc (w : FormA) (s : State) : Out := runBits s w [w.a] true fun n x _ _ => popcount n x

/-- CLZ (R164). -/
def execClz (w : FormA) (s : State) : Out := runBits s w [w.a] true fun n x _ _ => clzInt n x

/-- CTZ (R164). -/
def execCtz (w : FormA) (s : State) : Out := runBits s w [w.a] true fun n x _ _ => ctzInt n x

/-- BREV (R164). -/
def execBrev (w : FormA) (s : State) : Out := runBits s w [w.a] false fun n x _ _ => brevInt n x

/-- BFX (R165). -/
def execBfx (w : FormA) (s : State) : Out := runBits s w [w.a, w.b, w.c] false fun n x y z => bfxInt n true x y z

/-- BFXU (R165). -/
def execBfxu (w : FormA) (s : State) : Out := runBits s w [w.a, w.b, w.c] true fun n x y z => bfxInt n false x y z

/-- BFI (R165): the destination is a source too. -/
def execBfi (w : FormA) (s : State) : Out :=
  runInt s w [w.a, w.b, w.c, w.dst] false fun n l => (bfiInt n (l.getD 3 0) (l.getD 0 0) (l.getD 1 0) (l.getD 2 0), 0)

/-- LEA (R166). -/
def execLea (w : FormA) (s : State) : Out :=
  runBits s w [w.a, w.b, w.c] false fun _ x y z => x + y * 2 ^ w.opt + z

end Sys2Proof.Machine
end

