-- ==== Sys2Proof/Machine/FloatOps.lean ====
section
/-! DEFINITION. The floating-point instructions of both classes and the conversions (R167-R179). -/

namespace Sys2Proof.Machine

/-- The format of a float type code (R83). -/
def fltOf (typ : Nat) : Fmt :=
  match typ % 8 with
  | 5 => fp16
  | 6 => bf16
  | _ => fp32

/-- How a source is read: codes of a format, or integers. -/
inductive SrcKind where
  | flt (f : Fmt)
  | int (w : Nat)
  deriving DecidableEq, Repr

/-- The width of a source element. -/
def SrcKind.width : SrcKind → Nat
  | .flt f => f.width
  | .int w => w

/-- A small constant in a source's element type (R82). -/
def SrcKind.const (k : SrcKind) (n : BitVec 8) : Nat :=
  match k with
  | .int w => (n.signExtend 64).toNat % 2 ^ w
  | .flt f =>
    let r := roundF f rne (ofIntV n.toInt)
    if r.2 = 0 then r.1 else Config.inexactConstant f.mbits n % 2 ^ f.width

/-- The elements of a lane-class source. -/
def readLane (c : Ctx) (k : SrcKind) (o : Operand) : Try (List Nat) :=
  match o with
  | .const n => .ok (List.replicate (2048 / k.width) (k.const n))
  | o => readElems c k.width o

/-- The element of a uniform source. -/
def readUni (c : Ctx) (k : SrcKind) (o : Operand) : Try Nat :=
  match o with
  | .const n => .ok (k.const n)
  | o => do
    let x ← readVal c o
    return x.toNat % 2 ^ k.width

/-- The rounding of an instruction's element (R59, R61). -/
def rndFor (s : State) (c : Ctx) (code j : Nat) (sat nanovf : Bool) : Rnd :=
  { mode := code, sat := sat, nanovf := nanovf
    draw := if code = 4 then rsrDraw c.stpkey.toNat s.regs.podpackage c.rank c.srcnt j else 0 }

/-- SRCNT advances after an RSR instruction that executes (R62). -/
def Ctx.afterRnd (c : Ctx) (code : Nat) : Ctx :=
  if code = 4 then
    { c with srcnt := (c.srcnt + 1) % 2 ^ 32 }.orFlags (flagIf (c.srcnt + 1 == 2 ^ 32) flagSRW)
  else c

/-- A float or conversion instruction whose destination elements are as wide as its sources (R168): `op` is given the rounding at the
element's position and the sources. -/
def runFlt (s : State) (h : Common) (dst : Operand) (srcs : List Operand) (k : SrcKind) (code : Nat) (sat nanovf : Bool)
    (op : Rnd → List Nat → Nat × Nat) (ext : Nat → Word) : Out :=
  let w := k.width
  if h.lane then
    runInstr s h false srcs fun s c g => do
      let xs : List (List Nat) ← srcs.mapM fun o => readLane c k o
      let rs : List (Nat × Nat) := (List.range (2048 / w)).map fun e =>
        op (rndFor s c code e sat nanovf) (xs.map fun l => l.getD e 0)
      let c' ← writeElems s c dst w g (rs.map fun r => r.1)
      return { s := s, c := (c'.orFlags (laneFlags w g rs)).afterRnd code }
  else
    runUniform s h false (some dst) srcs fun s c => do
      let xs : List Nat ← srcs.mapM fun o => readUni c k o
      let r := op (rndFor s c code 0 sat nanovf) xs
      let c' ← writeVal s c dst (ext r.1)
      return { s := s, c := (c'.orFlags r.2).afterRnd code }

/-- The zero-filled uniform result (R167). -/
def zeroFill (x : Nat) : Word := BitVec.ofNat 64 x

/-- An arithmetic instruction of the float range (R168): the exact value with its flags, rounded once. -/
def runArith (s : State) (w : FormA) (srcs : List Operand) (op : Nat → List FV → FV × Nat) : Out :=
  let f := fltOf w.typ
  runFlt s w.h w.dst srcs (.flt f) w.opt (w.mod.getLsbD 3) false
    (fun r l => opF f r (op r.mode (l.map (decF f)))) zeroFill

/-- An instruction of the float range that does not round (R170). -/
def runNoRound (s : State) (w : FormA) (srcs : List Operand) (op : Fmt → List Nat → Nat × Nat) : Out :=
  let f := fltOf w.typ
  runFlt s w.h w.dst srcs (.flt f) 0 false false (fun _ l => op f l) zeroFill

/-- The k-th of a list of exact values. -/
def fvAt (l : List FV) (k : Nat) : FV := l.getD k (.num false 0 0)

/-- FADD (R169). -/
def execFadd (w : FormA) (s : State) : Out := runArith s w [w.a, w.b] fun m l => addV m (fvAt l 0) (fvAt l 1)

/-- FSUB (R169). -/
def execFsub (w : FormA) (s : State) : Out := runArith s w [w.a, w.b] fun m l => addV m (fvAt l 0) (fvAt l 1).neg

/-- FMUL (R169). -/
def execFmul (w : FormA) (s : State) : Out := runArith s w [w.a, w.b] fun _ l => mulV (fvAt l 0) (fvAt l 1)

/-- FMA (R169). -/
def execFma (w : FormA) (s : State) : Out :=
  runArith s w [w.a, w.b, w.c] fun m l => fmaV m (fvAt l 0) (fvAt l 1) (fvAt l 2)

/-- FMS (R169). -/
def execFms (w : FormA) (s : State) : Out :=
  runArith s w [w.a, w.b, w.c] fun m l => fmaV m (fvAt l 0) (fvAt l 1) (fvAt l 2).neg

/-- FNMA (R169). -/
def execFnma (w : FormA) (s : State) : Out :=
  runArith s w [w.a, w.b, w.c] fun m l => fmaV m (fvAt l 0).neg (fvAt l 1) (fvAt l 2)

/-- FNMS (R169). -/
def execFnms (w : FormA) (s : State) : Out :=
  runArith s w [w.a, w.b, w.c] fun m l => fmaV m (fvAt l 0).neg (fvAt l 1) (fvAt l 2).neg

/-- FMIN (R170). -/
def execFmin (w : FormA) (s : State) : Out := runNoRound s w [w.a, w.b] fun f l => minMaxF f false (l.getD 0 0) (l.getD 1 0)

/-- FMAX (R170). -/
def execFmax (w : FormA) (s : State) : Out := runNoRound s w [w.a, w.b] fun f l => minMaxF f true (l.getD 0 0) (l.getD 1 0)

/-- A code with a sign of its own; the canonical NaN for a NaN (R170). -/
def withSign (f : Fmt) (x : Nat) (neg : Bool) : Nat × Nat :=
  let v := decF f x
  if v.isNan then (f.nan, sigFlag [v]) else (x % 2 ^ (f.width - 1) + b2n neg * 2 ^ (f.width - 1), 0)

/-- FABS (R170). -/
def execFabs (w : FormA) (s : State) : Out := runNoRound s w [w.a] fun f l => withSign f (l.getD 0 0) false

/-- FNEG (R170). -/
def execFneg (w : FormA) (s : State) : Out :=
  runNoRound s w [w.a] fun f l => withSign f (l.getD 0 0) (!bitAt (l.getD 0 0) (f.width - 1))

/-- FCPYS (R170). -/
def execFcpys (w : FormA) (s : State) : Out :=
  runNoRound s w [w.a, w.b] fun f l => withSign f (l.getD 0 0) (bitAt (l.getD 1 0) (f.width - 1))

/-- The conditions of FCMP (R171), and NV for a signalling NaN. -/
def fcmpHolds (f : Fmt) (cond x y : Nat) : Bool × Nat :=
  let a := decF f x
  let b := decF f y
  let un := a.isNan || b.isNan
  let r := match cond with
    | 0 => !un && eqV a b
    | 1 => un || !eqV a b
    | 2 => !un && ltV a b
    | 3 => !un && !ltV a b
    | 4 => !un && !ltV b a
    | 5 => !un && ltV b a
    | 6 => un
    | _ => !un
  (r, sigFlag [a, b])

/-- FCMP (R171). -/
def execFcmp (w : FormA) (s : State) : Out :=
  let f := fltOf w.typ
  if w.h.lane then
    runInstr s w.h false [w.a, w.b] fun s c g => do
      let x ← readLane c (.flt f) w.a
      let y ← readLane c (.flt f) w.b
      let rs : List (Bool × Nat) := (List.range 64).map fun i => fcmpHolds f w.opt (x.getD i 0) (y.getD i 0)
      let c' ← writeMask s c w.dst g (BitVec.ofNat 64 (maskOf (rs.map fun r => r.1)))
      return { s := s, c := c'.orFlags (laneFlags 32 g (rs.map fun r => (0, r.2))) }
  else
    runValue s w.h w.dst [w.a, w.b] fun _ c => do
      let x ← readUni c (.flt f) w.a
      let y ← readUni c (.flt f) w.b
      let r := fcmpHolds f w.opt x y
      return (if r.1 then BitVec.allOnes 64 else 0, r.2)

/-- The class of a value (R172). -/
def classBit (f : Fmt) (x : Nat) : Nat :=
  match decF f x with
  | .nan sig => if sig then 8 else 9
  | .inf n => if n then 0 else 7
  | .num n m e =>
    if m = 0 then (if n then 3 else 4)
    else if below m e (1 - f.bias) then (if n then 2 else 5)
    else (if n then 1 else 6)

/-- FCLASS (R172). -/
def execFclass (w : FormA) (s : State) : Out := runNoRound s w [w.a] fun f l => (2 ^ classBit f (l.getD 0 0), 0)

/-- FDIV (R173). -/
def execFdiv (w : FormA) (s : State) : Out := runArith s w [w.a, w.b] fun _ l => divV (fvAt l 0) (fvAt l 1)

/-- FSQRT (R173). -/
def execFsqrt (w : FormA) (s : State) : Out := runArith s w [w.a] fun _ l => sqrtV (fvAt l 0)

/-- FRCP (R173). -/
def execFrcp (w : FormA) (s : State) : Out := runArith s w [w.a] fun _ l => divV (ofIntV 1) (fvAt l 0)

/-- FRSQ (R173). -/
def execFrsq (w : FormA) (s : State) : Out := runArith s w [w.a] fun _ l => rsqV (fvAt l 0)

/-- FEXP2 (R173). -/
def execFexp2 (w : FormA) (s : State) : Out := runArith s w [w.a] fun _ l => exp2V (fvAt l 0)

/-- FLOG2 (R173). -/
def execFlog2 (w : FormA) (s : State) : Out := runArith s w [w.a] fun _ l => log2V (fvAt l 0)

/-- Round to an integral value of the same format (R174). Of an inexact subnormal operand too only NX is set: R174 names no other flag, and R65's UF
is not taken to apply. DESIGN CHOICE, log entry 105. -/
def integralF (f : Fmt) (r : Rnd) (x : Nat) : Nat × Nat :=
  let v := decF f x
  match v with
  | .nan _ => (f.nan, sigFlag [v])
  | .inf _ => (x, 0)
  | .num n m e =>
    if m = 0 then (x, 0)
    else
      let (k, inexact) := scaleRound r n m e
      if inexact then ((roundF f rne (.num n k 0)).1, flagNX) else (x, 0)

/-- FRND (R174). -/
def execFrnd (w : FormA) (s : State) : Out :=
  let f := fltOf w.typ
  runFlt s w.h w.dst [w.a] (.flt f) w.opt false false (fun r l => integralF f r (l.getD 0 0)) zeroFill

/-- The formats of FCVT's pairs (R175). -/
def cvtPair (n : Nat) : Fmt × Fmt :=
  match n with
  | 0 => (fp16, bf16)
  | 1 => (bf16, fp16)
  | 2 => (e4m3, e5m2)
  | _ => (e5m2, e4m3)

/-- FCVT (R176). -/
def execFcvt (w : FormA) (s : State) : Out :=
  let p := cvtPair (w.m % 4)
  runFlt s w.h w.dst [w.a] (.flt p.1) w.opt (w.mod.getLsbD 2) (w.mod.getLsbD 3) (fun r l => cvtF p.1 p.2 r (l.getD 0 0)) zeroFill

/-- The packed formats (R175). -/
def packFmt (n : Nat) : Fmt :=
  match n with
  | 0 => fp16
  | 1 => bf16
  | 2 => e4m3
  | _ => e5m2

/-- FPACK (R177). -/
def execFpack (w : FormA) (s : State) : Out :=
  let f := packFmt (bitsOf w.m 3 2)
  let q := bitsOf w.m 1 1
  let o := w.mod.getLsbD 0
  let sat := o && f.width != 8 || o && f == e5m2
  let nanovf := o && f == e4m3
  if w.h.lane then
    runInstr s w.h false [w.a, w.b] fun s c g => do
      let x ← readLane c (.flt fp32) w.a
      let y ← readLane c (.flt fp32) w.b
      let per := 32 / f.width
      let old ← if f.width = 8 then readElems c 8 w.dst else .ok []
      let rs : List (Nat × Nat) := (List.range (2048 / f.width)).map fun e =>
        let part := if f.width = 8 then e % 4 / 2 else 0
        if f.width = 8 ∧ part ≠ q then (old.getD e 0, 0)
        else cvtF fp32 f (rndFor s c w.opt e sat nanovf) ((if e % 2 = 0 then x else y).getD (e / per) 0)
      let c' ← writeElems s c w.dst f.width g (rs.map fun r => r.1)
      return { s := s, c := (c'.orFlags (laneFlags f.width g rs)).afterRnd w.opt }
  else
    runUniform s w.h false (some w.dst) [w.a] fun s c => do
      let x ← readUni c (.flt fp32) w.a
      let r := cvtF fp32 f (rndFor s c w.opt 0 sat nanovf) x
      let c' ← writeVal s c w.dst (zeroFill r.1)
      return { s := s, c := (c'.orFlags r.2).afterRnd w.opt }

/-- FUNPK (R178). -/
def execFunpk (w : FormA) (s : State) : Out :=
  let f := packFmt (bitsOf w.m 3 2)
  let hh := w.m % 4
  if w.h.lane then
    runInstr s w.h false [w.a] fun s c g => do
      let x ← readLane c (.flt f) w.a
      let rs : List (Nat × Nat) := (List.range 64).map fun i => cvtF f fp32 rne (x.getD (32 / f.width * i + hh) 0)
      let c' ← writeElems s c w.dst 32 g (rs.map fun r => r.1)
      return { s := s, c := c'.orFlags (laneFlags 32 g rs) }
  else
    runValue s w.h w.dst [w.a] fun _ c => do
      let x ← readUni c (.flt f) w.a
      let r := cvtF f fp32 rne x
      return (zeroFill r.1, r.2)

/-- The float format of FCVTI and ICVTF (R175). -/
def intCvtFmt (n : Nat) : Fmt :=
  match n with
  | 0 => fp32
  | 1 => fp16
  | _ => bf16

/-- FCVTI (R179). -/
def execFcvti (w : FormA) (s : State) : Out :=
  let f := intCvtFmt (w.m % 4)
  let u := w.mod.getLsbD 3
  let n := if w.mod.getLsbD 2 then 64 else f.width
  let lo : Int := if u then 0 else -(2 ^ (n - 1) : Int)
  let hi : Int := if u then 2 ^ n - 1 else 2 ^ (n - 1) - 1
  runFlt s w.h w.dst [w.a] (.flt f) w.opt false false
    (fun r l => let (x, g) := cvtToInt r lo hi (decF f (l.getD 0 0)); (wrapTo n x, g)) (extendTo n u)

/-- ICVTF (R179). -/
def execIcvtf (w : FormA) (s : State) : Out :=
  let f := intCvtFmt (w.m % 4)
  let u := w.mod.getLsbD 3
  let n := if w.mod.getLsbD 2 then 64 else f.width
  runFlt s w.h w.dst [w.a] (.int n) w.opt false false
    (fun r l => roundF f r (ofIntV (readInt n u (l.getD 0 0)))) zeroFill

end Sys2Proof.Machine
end

