-- ==== Sys2Proof/Machine/Array.lean ====
section
/-! DEFINITION. The matrix array's arithmetic: bank images and the stipple generator (R305, R312), exact dot products (R309), the
results of MMA and MMAT (R310). -/

namespace Sys2Proof.Machine

/-- Bytes of a bank image (R305). -/
def imageBytes (fmt geo : Nat) : Nat :=
  let wide := geo == 2
  match fmt with
  | 7 => if wide then 12672 else 13056
  | 6 => if wide then 13824 else 15360
  | 12 => if wide then 19200 else 19968
  | 13 => if wide then 15552 else 15744
  | _ => 12288

/-- The bank format that a descriptor format gives (R305). -/
def bankFmt (fmt : Nat) : Nat := if fmt = 12 then 7 else if fmt = 13 then 2 else fmt

/-- Depth of a bank by its format (R299). -/
def bankDepth (fmt : Nat) : Nat :=
  match bankFmt fmt with
  | 2 | 3 => 96
  | 6 => 384
  | _ => 192

/-- Fields of a bank's descriptor (R306). -/
def Bank.fmt (b : Bank) : Nat := bitsOf b.mpdw0.toNat 5 0
def Bank.geo (b : Bank) : Nat := bitsOf b.mpdw0.toNat 7 6
def Bank.count (b : Bank) : Nat := bitsOf b.mpdw0.toNat 14 8
def Bank.stream (b : Bank) : Nat := bitsOf b.mpdw0.toNat 31 16
def Bank.rows (b : Bank) : Nat := bitsOf b.mpdw1.toNat 31 0
def Bank.cols (b : Bank) : Nat := bitsOf b.mpdw1.toNat 63 32
def Bank.row0 (b : Bank) : Nat := bitsOf b.mpdw2.toNat 31 0
def Bank.col0 (b : Bank) : Nat := bitsOf b.mpdw2.toNat 63 32
def Bank.depth (b : Bank) : Nat := bankDepth b.fmt

/-- Is an element of the bank within the descriptor's columns and matrix (R310)? -/
def Bank.inside (b : Bank) (j k : Nat) : Bool := j < b.count && b.row0 + k < b.rows && b.col0 + j < b.cols

/-- A byte of an image. -/
def imgByte (img : Array Byte) (i : Nat) : Nat := (img.getD i 0).toNat

/-- A nibble of an image: the low one for an even element (R57). -/
def imgNibble (img : Array Byte) (i r : Nat) : Nat := if r % 2 = 0 then imgByte img i % 16 else imgByte img i / 16

/-- A generated stipple element (R312): FP32 weight, mean scale, flags. -/
def Bank.generate (b : Bank) (img : Array Byte) (j k : Nat) : Nat × Nat × Nat :=
  let bs := geoSize b.geo
  let e := j * b.depth + k
  let off := groupOffset false b.fmt bs e
  let r := e % (64 * bs)
  let (p0, p1, p2, p3) := groupPlace b.fmt bs r
  let c := imgNibble img (off + p1) r
  let (sigma, f0) := stippleSigma c (imgByte img (off + p3))
  let index := (b.row0 + k) * b.cols + (b.col0 + j)
  let (eps, fe) := epsOf b.member b.stream index b.key.toNat
  let f0 := Nat.lor f0 fe
  if b.fmt = 12 then
    let ms := imgByte img (off + p2)
    let (mu, f1) := sp8Mean (imgByte img (off + p0)) ms
    let (w, f2) := stippleWeight mu sigma eps
    (w, ms, Nat.lor f0 (Nat.lor f1 f2))
  else
    let mu := (imgByte img (off + p0) + 256 * imgByte img (off + p0 + 1)) * 65536
    let (w, f2) := stippleWeight mu sigma eps
    (w, 0, Nat.lor f0 f2)

/-- An element of the bank as its value and the flags of its generation (R310, R312). -/
def Bank.element (b : Bank) (img : Array Byte) (j k : Nat) : FV × Nat :=
  if !b.inside j k then (.num false 0 0, 0)
  else
    let bs := geoSize b.geo
    let e := j * b.depth + k
    match b.fmt with
    | 2 => (decF bf16 (imgByte img (2 * e) + 256 * imgByte img (2 * e + 1)), 0)
    | 3 => (decF fp16 (imgByte img (2 * e) + 256 * imgByte img (2 * e + 1)), 0)
    | 4 => (decF e4m3 (imgByte img e), 0)
    | 5 => (decF e5m2 (imgByte img e), 0)
    | 8 => (ofIntV (signedOf 8 (imgByte img e)), 0)
    | 6 =>
      let off := groupOffset false 6 bs e
      let r := e % (64 * bs)
      let (p0, _, p2, p3) := groupPlace 6 bs r
      (blockValue true (imgNibble img (off + p0) r) (imgByte img (off + p2)) (imgByte img (off + p3)), 0)
    | 7 =>
      let off := groupOffset false 7 bs e
      let (p0, _, p2, _) := groupPlace 7 bs (e % (64 * bs))
      (blockValue false (imgByte img (off + p0)) (imgByte img (off + p2)) 0, 0)
    | 12 =>
      let (w, ms, f) := b.generate img j k
      let v := decF fp32 w
      if ms = 0xFF || v.isNan then (.nan false, Nat.lor f flagNV)
      else
        let (code, g) := roundF e4m3 rne (v.scale (127 - (ms : Int)))
        (blockValue false code ms 0, Nat.lor f g)
    | _ =>
      let (w, _, f) := b.generate img j k
      let (x, g) := cvtF fp32 bf16 rne w
      (decF bf16 x, Nat.lor f g)

/-- The columns of a bank: depth by depth, for columns 0 to 63. -/
def Bank.columns (b : Bank) : List (List FV) :=
  let img := b.image.toArray
  (List.range 64).map fun j => (List.range b.depth).map fun k => (b.element img j k).1

/-- The flags that loading a bank raises: those of the generator (R311). -/
def Bank.loadFlags (b : Bank) : Nat :=
  if b.fmt = 12 ∨ b.fmt = 13 then
    let img := b.image.toArray
    (List.range 64).foldl (fun a j => (List.range b.depth).foldl (fun a k => Nat.lor a (b.element img j k).2) a) 0
  else 0

/-- The values of a row of A from its bytes and its side bytes (R308, R310). -/
def rowValues (fmt geo n : Nat) (row side : List Byte) : List FV :=
  let bs := geoSize geo
  let x := numOf row
  let sd := fun (i : Nat) => (side.getD i 0).toNat
  match fmt with
  | 2 => (splitElems 16 x n).map (decF bf16)
  | 3 => (splitElems 16 x n).map (decF fp16)
  | 4 => (splitElems 8 x n).map (decF e4m3)
  | 5 => (splitElems 8 x n).map (decF e5m2)
  | 8 => (splitElems 8 x n).map fun v => ofIntV (signedOf 8 v)
  | 6 => (splitElems 4 x n).zipIdx.map fun v => blockValue true v.1 (sd (v.2 / bs)) (sd (n / bs + v.2 / bs))
  | _ => (splitElems 8 x n).zipIdx.map fun v => blockValue false v.1 (sd (v.2 / bs)) 0

/-- The exact sum of finite values: a signed integer and an exponent. -/
def sumExact (vs : List FV) : Int × Int :=
  let e := vs.foldl (fun a v => min a v.exp) 0
  (vs.foldl (fun a v => a + v.int e) 0, e)

/-- A dot product added to an FP32 accumulator, rounded once (R309). -/
def dotF (acc : Nat) (xs ys : List FV) : Nat × Nat :=
  let ps := (xs.zip ys).map fun p => (mulV p.1 p.2).1
  let a := decF fp32 acc
  let pos := ps.any fun p => p.isInf && !p.sign
  let neg := ps.any fun p => p.isInf && p.sign
  if ps.any FV.isNan || (pos && neg) || a.isNan then (fp32.nan, flagNV)
  else if pos || neg then opF fp32 rne (addV 0 a (.inf neg))
  else
    let (m, e) := sumExact ps
    opF fp32 rne (addV 0 a (.num (m < 0) m.natAbs e))

/-- A dot product of integers added to an INT32 accumulator (R309). -/
def dotI (acc : Nat) (xs ys : List FV) : Nat × Nat :=
  let s := (xs.zip ys).foldl (fun a p => a + p.1.int 0 * p.2.int 0) (signedOf 32 acc)
  (wrapTo 32 s, flagIf (signedOf 32 (wrapTo 32 s) != s) flagIOV)

/-- The dot product of a format of A. -/
def dotOf (fmt acc : Nat) (xs ys : List FV) : Nat × Nat := if fmt = 8 then dotI acc xs ys else dotF acc xs ys

/-- A and bank formats pair (R308). -/
def pairsWith (a bank : Nat) : Bool :=
  let b := bankFmt bank
  match a with
  | 2 => b == 2
  | 3 => b == 3
  | 4 | 5 | 7 => b == 4 || b == 5 || b == 7
  | 8 => b == 8
  | _ => b == 6

/-- Elements of a row of A: the bank's depth for MMA, 64 for MMAT; and its bytes (R310). -/
def rowElems (trans : Bool) (fmt : Nat) : Nat := if trans then 64 else if fmt = 2 ∨ fmt = 3 then 96 else if fmt = 6 then 384 else 192
def rowBytes (trans : Bool) (fmt : Nat) : Nat :=
  if trans then (if fmt = 2 ∨ fmt = 3 then 128 else if fmt = 6 then 32 else 64) else 192

/-- Side bytes of a row of A (R310). -/
def sideBytes (trans : Bool) (fmt geo : Nat) : Nat :=
  if fmt = 6 ∨ fmt = 7 then rowElems trans fmt / geoSize geo * (if fmt = 6 then 2 else 1) else 0

/-- Accumulator blocks of a command on a bank format (R310). -/
def mmaBlocks (trans : Bool) (bank : Nat) : Nat := if trans then (bankDepth bank + 63) / 64 else 1

/-- The register location of an accumulator element from the first block's (R123, R310). -/
def accLoc (acc i col : Nat) : Nat := acc + col / 64 * 4096 + 256 * i + col % 64 * 4

/-- What a row of MMA or MMAT writes: cells and flags (R310). -/
def mmaCells (c : Ctx) (m : MxCmd) (trans : Bool) (b : Bank) (row : Nat) : List (Nat × Byte) × Nat :=
  let cols := b.columns
  let ys : List (List FV) := if trans then (List.range b.depth).map fun k => cols.map fun l => l.getD k (.num false 0 0) else cols
  let n := if m.n = 0 then (if trans then b.depth else 64) else m.n
  let xs := rowValues m.fmt m.geo (rowElems trans m.fmt) (m.rows.getD row []) (m.sides.getD row [])
  let rs := (ys.zipIdx.filter fun y => y.2 < n && m.guard.getLsbD (y.2 % 64)).map fun y =>
    let a := accLoc m.acc row y.2
    let r := dotOf m.fmt (c.rf.num a 4) xs y.1
    (cellsAt a (bytesOf 4 r.1), r.2)
  (rs.flatMap fun r => r.1, rs.foldl (fun f r => Nat.lor f r.2) 0)

end Sys2Proof.Machine
end

