-- ==== Sys2Proof/Machine/Barrier.lean ====
section
/-! DEFINITION. The step engine (R247-R267): arrivals, the completion of a step with its visibility, counters, reductions and abort report,
absences, the step instructions and EXIT. -/

namespace Sys2Proof.Machine

/-! ### Domains and members -/

/-- The context has arrived above a level and waits there (R250). -/
def Ctx.above (c : Ctx) (level : Nat) : Bool :=
  match c.arrival with
  | some { level := l, sent := none, sync := _, done := none } => level < l
  | _ => false

/-- The contexts of a domain that are still in the task. -/
def State.membersOf (s : State) (d : Domain) : List Ctx :=
  s.ctxs.filter fun c => c.task == d.task && d.task != 0 && (d.level == 5 || unitOf d.level c.key.tile == d.unit)

/-- The ranks that have arrived at the domain's level or from above, or are absent (R250, R251). -/
def State.settledRanks (s : State) (d : Domain) : List Nat :=
  (d.arrived.map (fun a => a.rank) ++ d.absent.map (fun a => a.1) ++
    ((s.membersOf d).filter fun c => c.above d.level).map fun c => c.rank).dedup

/-- The ranks of all the members, ascending: the positions of a reduction (R254). -/
def State.positions (s : State) (d : Domain) : List Nat :=
  ascending (s.settledRanks d ++ (s.membersOf d).map fun c => c.rank).dedup

/-- A step of a level below the pod can complete: every member has arrived or is absent, and one arrived at the level itself
(R250, R251); a stopped task's cannot (R47). -/
def State.stepReady (s : State) (d : Domain) : Bool :=
  d.level ≤ 4 && !d.arrived.isEmpty && d.members ≤ (s.settledRanks d).length && (s.membersOf d).all (fun c => !c.stopped)

/-- The domains of a task in units inside a domain's unit (R251). -/
def Domain.inside (e d : Domain) (s : State) : Bool :=
  e.task == d.task && e.level < d.level && (d.level ≥ 4 || e.level ≥ 4 ||
    (s.ctxs.any fun c => c.task == d.task && unitOf e.level c.key.tile == e.unit && unitOf d.level c.key.tile == d.unit) ||
    (match s.task? d.task with
     | some t => (rectTiles t.origin t.blk.w t.blk.h).any fun n => unitOf e.level n == e.unit && unitOf d.level n == d.unit
     | none => false))

/-- Change every domain for which a test holds. -/
def State.updDomains (s : State) (p : Domain → Bool) (f : Domain → Domain) : State :=
  { s with domains := s.domains.map fun d => if p d then f d else d }

/-- Two domains are the same one. -/
def Domain.is (d e : Domain) : Bool := d.level == e.level && d.unit == e.unit && d.id == e.id

/-- The counters of the steps of a task on a tile; 0 where it has no domain. -/
def State.countersAt (s : State) (task tile : Nat) : List Nat :=
  [1, 2, 3, 4, 5].map fun l =>
    ((s.domains.find? fun d => d.task == task && d.level == l && (l == 5 || d.unit == unitOf l tile)).map fun d => d.counter).getD 0

/-! ### Reductions and reports -/

/-- The identity of a reduction (R254). -/
def termIdentity (op : Nat) : Nat :=
  match op with
  | 3 => 2 ^ 63 - 1
  | 4 => 2 ^ 63
  | 5 => 0x7F800000
  | 6 => 0xFF800000
  | 7 => 2 ^ 64 - 1
  | _ => 0

/-- Combine two terms of a reduction that does not depend on order (R253). -/
def combineTerm (op x y : Nat) : Nat :=
  match op with
  | 1 => (x + y) % 2 ^ 64
  | 3 => minMaxInt false false 64 x y
  | 4 => minMaxInt false true 64 x y
  | 5 => (minMaxF fp32 false x (y % 2 ^ 32)).1
  | 6 => (minMaxF fp32 true x (y % 2 ^ 32)).1
  | 7 => Nat.land x y
  | 8 => Nat.lor x y
  | 9 => Nat.xor x y
  | _ => 0

/-- The result and flags of a reduction over the terms at their positions (R254); a scan's result is each member's own. -/
def reduceTerms (op : Nat) (ts : List (Option Nat)) : Nat × Nat :=
  let present := ts.filterMap id
  let sig := if op = 2 ∨ op = 5 ∨ op = 6 then sigFlag (present.map fun x => decF fp32 (x % 2 ^ 32)) else 0
  match op with
  | 2 => let r := rankTree (ts.map fun t => t.map fun x => x % 2 ^ 32); (r.1, Nat.lor r.2 sig)
  | 11 => (present.headD 0, 0)
  | 10 => (0, 0)
  | _ => (present.foldl (combineTerm op) (termIdentity op), sig)

/-- The exclusive prefix sum of a member (R254): the terms below its position. -/
def scanBefore (ts : List Term) (pkg rank : Nat) : Nat :=
  (ts.filter fun t => t.package < pkg || (t.package == pkg && t.rank < rank)).foldl (fun a t => (a + t.value.toNat) % 2 ^ 64) 0

/-- Order of two members (R254). -/
def termBelow (a b : Term) : Bool := a.package < b.package || (a.package == b.package && a.rank ≤ b.rank)

/-- The first term whose operation differs from that of the lowest-ranked contributor (R255); the terms are in order. -/
def mismatch (ts : List Term) : Option Term :=
  match ts with
  | [] => none
  | t :: r => r.find? fun x => x.op != t.op

/-- What a member gets from a step: its value and the step's flags (R254, R255). -/
def termResult (ts : List Term) (tree : List (Option Nat)) (pkg rank : Nat) : Nat × Nat :=
  match ts with
  | [] => (0, 0)
  | t :: _ =>
    if (mismatch ts).isSome then (0, 0)
    else if t.op = 0 then (0, 0)
    else if t.op = 10 then (scanBefore ts pkg rank, 0)
    else reduceTerms t.op tree

/-- A candidate report that names one member (R256). -/
def oneCand (code pkg rank : Nat) : Candidate :=
  { code := code, package := pkg, rank := rank, package2 := 0, rank2 := 0, addr := 0 }

/-- The first candidate is to be reported before the second (R257). -/
def candBefore (a b : Candidate) : Bool :=
  if a.code != b.code then b.code < a.code
  else if a.code = 0x80 ∧ a.addr ≠ b.addr then a.addr.toNat < b.addr.toNat
  else if a.package ≠ b.package ∨ a.rank ≠ b.rank then a.package < b.package || (a.package == b.package && a.rank < b.rank)
  else a.package2 < b.package2 || (a.package2 == b.package2 && a.rank2 ≤ b.rank2)

/-- The candidate to report (R257). -/
def bestCandidate : List Candidate → Option Candidate
  | [] => none
  | a :: r => match bestCandidate r with
    | none => some a
    | some b => if candBefore a b then some a else some b

/-- A summary word of the report (R258). -/
def reportWord (code level pkg rank : Nat) : Word :=
  BitVec.ofNat 64 (pkg % 512 * 2 ^ 48 + rank % 8192 * 2 ^ 32 + level * 2 ^ 16 + code)

/-- The report's three words (R257, R258). -/
def reportOf (level own : Nat) (cs : List Candidate) : List Word :=
  match bestCandidate cs with
  | none => [reportWord 0 level (if level = 5 then 0 else own) 0, 0, 0]
  | some c =>
    let p := fun (x : Nat) => if level = 5 then x else own
    [reportWord c.code level (p c.package) c.rank, if c.code = 0x80 then c.addr else 0,
     if c.code = 0x80 then reportWord 0x80 level (p c.package2) c.rank2 else 0]

/-- The terms of a domain's step on this package, in rank order (R249). -/
def Domain.terms (d : Domain) (pkg : Nat) : List Term :=
  sortBy termBelow (d.arrived.map fun a => { package := pkg, rank := a.rank, op := a.op, value := a.value, code := a.code : Term })

/-- The codes that a step raises by its members' own doing on this package (R256, R259): program codes and absences. A strict exit owes
where some other member has arrived, here or, of a pod domain, perhaps on another package. -/
def Domain.codes (d : Domain) (pkg : Nat) (elsewhere : Bool) : List Candidate :=
  (d.arrived.filter fun a => a.code != 0).map (fun a => oneCand a.code pkg a.rank) ++
  d.absent.filterMap fun a => match a.2 with
    | .exit => none
    | .removed code => some (oneCand code pkg a.1)
    | .strictExit => if elsewhere || d.arrived.any (fun x => x.rank != a.1) then some (oneCand 0x84 pkg a.1) else none

/-- Operation mismatch (R255). -/
def mismatchCode (ts : List Term) : List Candidate :=
  match mismatch ts with
  | some t => [oneCand 0x82 t.package t.rank]
  | none => []

/-! ### Completion -/

/-- Staged writes that a step end of a domain concerns: those of the members, made in steps that have begun (R29, R30); at a pod step
those of peers too (R387). -/
def Staged.inStep (e : Staged) (d : Domain) : Bool :=
  e.party.task == d.task && !e.steps.isEmpty && e.pool != 8 && (d.level == 5 || (e.party.pkg.isNone && unitOf d.level e.tile == d.unit))

/-- The level at whose step end a write enters this package's memory (R32, R37). -/
def Staged.commitLevel (e : Staged) : Nat := min e.top 4

/-- The pages of package memory that a staged write touches. -/
def Staged.pages (e : Staged) : List Nat := (List.range ((e.key + e.bytes.length - 1) / 65536 + 1 - e.key / 65536)).map (e.key / 65536 + ·)

/-- The shadows that a pod task's writes add: what a page holds before the first of them in a pod step (R37). -/
def State.addShadows (s : State) (domain : Nat) (es : List Staged) : List Shadow :=
  ((es.filter fun e => e.top == 5).flatMap Staged.pages).dedup.filterMap fun p =>
    if s.fab.shadows.any fun h => h.domain == domain && h.page == p then none
    else some { domain := domain, page := p, cells := s.mem.filter fun x => x.1 / 65536 == p }

/-- A staged write of this package's own to a virtual address: its commitment is translated (R341). -/
def Staged.paged (e : Staged) : Bool := isVirtual e.addr && e.party.pkg.isNone

/-- The entry through which a write's commitment is translated; none where the address is level, or names no page of this package any more. -/
def State.landingLeaf (s : State) (e : Staged) : Option Leaf :=
  if e.paged then
    match s.walkAll (vaOf e.addr) with
    | .leaf f => if f.tier < 2 then some f else none
    | _ => none
  else none

/-- Staged writes with the locations where their commitment lands (R341). -/
def State.landing (s : State) (es : List Staged) : List Staged :=
  es.map fun e => match s.landingLeaf e with
    | some f => { e with key := f.keyOf (vaOf e.addr) }
    | none => e

/-- The pages that a commitment translates to become dirty (R332). -/
def State.landDirty (s : State) (es : List Staged) : State :=
  (pagesOnce (es.filterMap s.landingLeaf)).foldl State.setDirty s

/-- Enter staged writes into memory, where they land, with the shadows that peers read until the pod step ends, which may still find them in
conflict; what the host wrote to those bytes earlier no longer shows (R32, R36, R37, R341, R387). -/
def State.commit (s : State) (es : List Staged) (podDomain : Option Nat) : State :=
  let s := s.landDirty es
  let es := s.landing es
  let shadows := match podDomain with
    | some d => s.addShadows d es
    | none => []
  let kept := if podDomain.isSome then es.filter fun e => e.top == 5 else []
  { s with mem := commitAll s.mem es, ctxs := keepFrozen es s.ctxs,
           hostOld := s.hostOld.filter fun h => !(es.any fun e => e.party.task == h.task && e.covers h.key),
           fab := { s.fab with shadows := s.fab.shadows ++ shadows, podWrites := s.fab.podWrites ++ kept } }

/-- A staged write moves to the pool of the level at which it next becomes visible (R43, R44); it stays where no pool can take
it. -/
def State.recharge (s : State) (q : Nat) : State :=
  match s.staged.find? fun e => e.seq == q with
  | none => s
  | some e =>
    let l := s.chargeLevel e
    let rest := { s with staged := s.staged.filter fun f => f.seq != q }
    let p := if l = 9 then 9 else rest.findPool e l
    let p := if p = 0 then e.pool else p
    { s with staged := s.staged.map fun f => if f.seq = q then { f with pool := p } else f,
             spills := if p = l ∨ p = e.pool then s.spills else s.spills + 1 }

/-- The flat location of the new frame of a migration (R347). -/
def targetKey (target : Nat) : Nat :=
  let f := bitsOf target 63 16 * 65536
  if bitsOf target 15 14 = 1 then hostKey f else f

/-- A staged write goes to a page on the move: by its virtual address, or, a peer's, by the frame that its page has or gets (R341). -/
def Migration.meets (m : Migration) (e : Staged) : Bool :=
  m.status.isNone &&
  (if e.paged then rangesMeet (vaOf e.addr) e.bytes.length m.leaf.va m.leaf.size
   else e.party.pkg.isSome && (rangesMeet e.key e.bytes.length (m.leaf.keyOf m.leaf.va) m.leaf.size ||
     rangesMeet e.key e.bytes.length (targetKey m.target.toNat) m.leaf.size))

/-- The context of this package that made a staged write (R342). -/
def State.makerOf (s : State) (e : Staged) : Option Maker :=
  if e.party.pkg.isSome then none else (s.member? e.party.task e.party.rank).map s.maker

/-- Some of the staged writes that are to be committed go to a page on the move (R341). -/
def State.writesBlocked (s : State) (which : Staged → Bool) : Bool := s.xlat.migrations.any fun m => s.staged.any fun e => which e && m.meets e

/-- The writes that begin to wait so are noted (R341). -/
def State.noteWrites (s : State) (which : Staged → Bool) : State :=
  let ms := s.xlat.migrations.map fun m => match m.blocked, s.staged.find? fun e => which e && m.meets e with
    | none, some e => { m with blocked := some (s.ticks, s.makerOf e) }
    | _, _ => m
  { s with xlat := { s.xlat with migrations := ms } }

/-- A step end of a domain commits a staged write (R32). -/
def Staged.commitsAt (e : Staged) (d : Domain) : Bool := e.inStep d && e.commitLevel ≤ d.level

/-- A step end waits for a migration of a page to which it commits (R341). -/
def State.commitBlocked (s : State) (d : Domain) : Bool := s.writesBlocked fun e => e.commitsAt d

/-- The writes that begin to wait for it are noted. -/
def State.noteCommit (s : State) (d : Domain) : State := s.noteWrites fun e => e.commitsAt d

/-- Visibility at a step end (R29, R30, R32): conflicts are resolved, the writes become visible in the unit, and those that have come
as far as their commitment enter memory, all in their places among the writes made. The conflicts' candidate is given back (R39). -/
def State.climb (s : State) (d : Domain) : State × List Candidate :=
  let cf := conflictsOf d.level (s.staged.filter fun e => e.inStep d)
  let risen := s.staged.flatMap fun e =>
    if e.inStep d then (dropLosers cf [e]).map fun e => { e with vis := max e.vis d.level } else [e]
  let (done, rest) := risen.partition fun e => e.commitsAt d
  let dom := match s.domains.find? fun x => x.task == d.task && x.level == 5 with
    | some x => some x.id
    | none => none
  let s := ({ s with staged := rest }).commit done dom
  (((rest.filter fun e => e.inStep d).map fun e => e.seq).foldl State.recharge s, conflictCandidate s.regs.podpackage cf)

/-- The writes of a pod step on this package, in the order made: those of its own parties, committed or not, and those of peers, each with
its package (R387). -/
def State.podStep (s : State) (d : Domain) : List Staged :=
  let tag := fun (e : Staged) => { e with party := { e.party with pkg := some (e.party.pkg.getD s.regs.podpackage) } }
  sortBy (fun a b => decide (a.seq ≤ b.seq))
    (((s.fab.podWrites.filter fun e => e.party.task == d.task) ++ s.staged.filter fun e => e.inStep d).map tag)

/-- Memory as it stood at the start of a domain's pod step, as far as shadows tell (R37). -/
def State.podMem (s : State) (domain : Nat) : Mem :=
  (s.fab.shadows.filter fun h => h.domain == domain).foldl (fun m h =>
    h.cells.foldl (fun m x => m.set x.1 x.2) (m.filter fun x => x.1 / 65536 != h.page)) s.mem

/-- Visibility at a pod step's end (R37, R387, R391): conflicts are resolved over all the step's writes, they are committed, and shadows
and cached lines of the domain go; what peers read in the step is kept for their reads that belong to it (R31). Where a peer's write meets one
that this package has committed before, the bytes are formed anew from the shadows. -/
def State.climbPod (s : State) (d : Domain) : State :=
  let es := s.podStep d
  let kept := dropLosers (conflictsOf 5 es) es
  let past := s.fab.podWrites.filter fun e => e.party.task == d.task
  let first := s.podMem d.id
  let mixed := s.staged.any fun e => e.inStep d && e.party.pkg.isSome && past.any e.meets
  let mem := if mixed then
      let cells := past.flatMap fun e => (List.range e.bytes.length).map (e.key + ·)
      commitAll (cells.foldl (fun m k => m.set k (first.get k)) s.mem) kept
    else commitAll s.mem (kept.filter fun e => !(past.any fun f => f.seq == e.seq))
  let lines := s.xlat.peerLines.filter fun l => l.domain != d.id
  let image : Snapshot := { mem := first, staged := s.staged.filter (fun e => e.inStep d && e.party.pkg.isSome), host := s.hostOld, seq := s.seq }
  { s with mem := mem, staged := s.staged.filter (fun e => !e.inStep d), ctxs := keepFrozen (s.staged.filter fun e => e.inStep d) s.ctxs,
           fab := { s.fab with shadows := s.fab.shadows.filter (fun h => h.domain != d.id),
                               podWrites := s.fab.podWrites.filter (fun e => e.party.task != d.task),
                               ended := (d.id, image) :: s.fab.ended.filter fun x => x.1 != d.id },
           xlat := { s.xlat with peerLines := lines, peerWritten := s.xlat.peerWritten.filter fun x => x.1 != d.id } }

/-- The candidate of a pod step's conflicts on this package (R387). -/
def State.podConflict (s : State) (d : Domain) : List Candidate :=
  conflictCandidate s.regs.podpackage (conflictsOf 5 (s.podStep d))

/-- A domain's step ends (R251, R259): its counter advances, its step state is cleared, absent members are removed. -/
def Domain.ended (d : Domain) : Domain :=
  { d with counter := (d.counter + 1) % 2 ^ 32, arrived := [], members := d.members - d.absent.length, absent := [], cands := [],
           since := none, timedOut := false, contribs := [], sent := false, routing := false, closed := [] }

/-- A pod domain's step ends, with the members removed on each package. -/
def Domain.podEnded (d : Domain) (gone : List (Nat × Nat)) : Domain :=
  let n := fun (p : Nat) => (gone.filter fun g => g.1 == p).foldl (fun a g => a + g.2) 0
  { d.ended with members := d.members - gone.foldl (fun a g => a + g.2) 0, shares := d.shares.map fun x => (x.1, x.2 - n x.1) }

/-- A top-level step has ended (R35, R89, R274): host writes from before it are seen, the instruction buffers of the task's tiles are
emptied, and commit holds end. -/
def State.topStepEnd (s : State) (task : Nat) : State :=
  let host := (s.hostOld.filter fun h => !(h.task == task && h.armed)).map fun h => if h.task = task then { h with armed := true } else h
  let tiles := s.tiles.map fun t => { t with ibuf := t.ibuf.filter fun x => x.task != task }
  let defs := s.deferred.map fun x => if x.task = task then (if x.after then { x with after := false } else { x with ripe := true }) else x
  let s := s.updTask task fun t => { t with topSteps := t.topSteps + 1 }
  { s with hostOld := host, tiles := tiles, deferred := defs }

/-- The candidates of the steps of lower domains that end with a domain's (R251, R257). -/
def State.lowerCands (s : State) (d : Domain) : List Candidate :=
  (s.domains.filter fun e => e.inside d s).flatMap fun e => e.cands ++ e.codes s.regs.podpackage false

/-- The tile at whose router the combining node of a barrier of a level stands, seen from a tile (R262). -/
def barrierRoot (level tile : Nat) : Nat := dieAnchor (if level = 3 then dieOfTile tile else 0)

/-- An arrival, or a result, of a die, package or pod barrier crosses the mesh on VC5 (R16, R111); those of a tile and a group have wires of their
own. -/
def State.sendBarrier (s : State) (o : Owner) (level src dst : Nat) : State :=
  if level < 3 then s else s.send { owner := o, vc := 5, slack := 0xFFFF, flits := flitsOf 64, src := src, goal := tileGoal dst }

/-- Complete a step of a domain (R251): the step's positions (package and rank), terms and candidates are given; at pod level those of all
packages, and the members removed on each. -/
def State.completeStep (s : State) (d : Domain) (pos : List (Nat × Nat)) (ts : List Term) (gone : List (Nat × Nat))
    (cands : List Candidate) : State :=
  let own := s.regs.podpackage
  let lower := s.domains.filter fun e => e.inside d s
  let low := s.lowerCands d
  let (s, conflict) := if d.level = 5 then (s.climbPod d, []) else s.climb d
  let cands := if d.level = 5 then cands else cands ++ conflict ++ low
  let report := reportOf d.level own cands
  let ended := fun (e : Domain) => if e.is d && d.level == 5 then e.podEnded gone else e.ended
  let s := s.updDomains (fun e => e.is d || lower.any fun l => l.is e) ended
  -- writes made since the arrival belong to the steps that begin now
  let late := fun (e : Staged) => e.steps.isEmpty && e.party.task == d.task && e.party.pkg.isNone &&
    ts.any fun t => t.package == own && t.rank == e.party.rank
  let staged := s.staged.map fun e => if late e then { e with steps := s.countersAt d.task e.tile } else e
  let s := { s with staged := staged }
  let tree := pos.map fun p => (ts.find? fun t => t.package == p.1 && t.rank == p.2).map fun t => t.value.toNat
  let cs := s.ctxs.map fun c => match c.arrival with
    | some a =>
      if c.task == d.task && a.level == d.level && a.sent.isNone && a.done.isNone &&
          (ts.any fun t => t.package == own && t.rank == c.rank) && (d.level == 5 || unitOf d.level c.key.tile == d.unit) then
        let r := termResult ts tree own c.rank
        let res : StepResult := { value := BitVec.ofNat 64 r.1, flags := r.2, counters := s.countersAt c.task c.key.tile, report := report }
        { c with arrival := some { a with done := some res } }
      else c
    | none => c
  let told := cs.filter fun c => c.arrival.any (fun a => a.done.isSome) && !(s.member? c.task c.rank).any fun o => o.arrival.any fun a => a.done.isSome
  let s := told.foldl (fun s c => s.sendBarrier (.result c.task c.rank) d.level (barrierRoot d.level c.key.tile) c.key.tile) { s with ctxs := cs }
  if s.topLevel d.task = d.level then s.topStepEnd d.task else s

/-- The arrival that a context has sent reaches its domain, where there is one on its way (R249). -/
def State.arrivalReached (s : State) (c : Ctx) : Option State :=
  match c.arrival with
  | some { level := l, sent := some x, sync := y, done := none } => match s.domOf c l with
    | some d =>
      let s := s.updDomains d.is fun e => { e with arrived := e.arrived ++ [x], since := some (e.since.getD s.ticks) }
      some (s.updCtx c fun c => { c with arrival := some { level := l, sent := none, sync := y, done := none } })
    | none => none
  | _ => none

/-- BARRIER_ARRIVAL (R249): the arrival of a context reaches its domain. -/
def execBarrierArrival (s : State) : Out :=
  match s.ctx? s.sel.ctx with
  | some c =>
    let o := Owner.arrival c.task c.rank
    match s.arrivalReached c with
    | some t => if s.packetsDone o then .next (t.dropPackets o) else .refused (.notEnabled "BARRIER_ARRIVAL")
    | none => .refused (.notEnabled "BARRIER_ARRIVAL")
  | none => .refused (.notEnabled "BARRIER_ARRIVAL")

/-- The timeout of a level in slack ticks; none where it is disabled (R261). -/
def State.domTimeout (s : State) (level : Nat) : Option Nat :=
  let e := min (s.regs.domto.toNat / 2 ^ (8 * (level - 1)) % 256) 47
  if e = 0 then none else some (2 ^ e)

/-- A domain's step has timed out (R261). -/
def State.stepLate (s : State) (d : Domain) : Bool :=
  match d.since, s.domTimeout d.level with
  | some t, some e => t + e ≤ s.ticks && !d.timedOut
  | _, _ => false

/-- The members of a domain's step that are known to have arrived or to be absent: those of this package, and at a pod step's root those of the
contributions that it has received (R261, R391). -/
def State.knownThere (s : State) (d : Domain) : Nat :=
  (s.settledRanks d).length + ((d.contribs.filter fun c => c.package != s.regs.podpackage).map fun c => c.ranks.length).sum

/-- The lowest-ranked missing member, in the order of package and rank (R261). Of a package from which a pod step's contribution has not come
the rank is known there alone: a free value, log entry 91. -/
def State.lowestMissing (s : State) (d : Domain) : Nat × Nat :=
  let own := s.regs.podpackage
  let there := s.settledRanks d
  let here := (ascending (((s.membersOf d).map fun c => c.rank).filter fun r => !there.contains r)).map fun r => (own, r)
  let far := (d.shares.filter fun x => x.1 != own && x.2 != 0 && !(d.contribs.any fun c => c.package == x.1)).map fun x =>
    (x.1, (Config.freeWord s.free).toNat % 6144)
  match sortBy (fun a b => decide (a.1 < b.1 ∨ a.1 = b.1 ∧ a.2 ≤ b.2)) (here ++ far) with
  | x :: _ => x
  | [] => (0, 0)

/-- The detail of a timeout's record (R261). -/
def State.timeoutDetail (s : State) (d : Domain) : Nat :=
  let (p, r) := s.lowestMissing d
  1 * 2 ^ 176 + d.level * 2 ^ 173 + d.unit * 2 ^ 163 + d.id * 2 ^ 159 + d.counter * 2 ^ 127 + s.knownThere d * 2 ^ 105 +
    d.members * 2 ^ 83 + p * 2 ^ 74 + r * 2 ^ 61

/-- STEP_TIMEOUT (R261). -/
def execStepTimeout (s : State) : Out :=
  match s.domain? s.sel.a s.sel.b s.sel.c with
  | some d =>
    if s.stepLate d then
      .next ({ s.updDomains d.is fun e => { e with timedOut := true } with free := s.free + 1 }.postEngine none d.tid 0 (s.timeoutDetail d))
    else .refused (.notEnabled "STEP_TIMEOUT")
  | none => .refused (.notEnabled "STEP_TIMEOUT")

/-! ### Instructions -/

/-- The result of a completed step has come to the context's tile (R262). -/
def State.stepThere (s : State) (c : Ctx) (a : Arrival) : Option StepResult :=
  if s.packetsDone (.result c.task c.rank) then a.done else none

/-- Take the completion of the outstanding arrival (R252, R264). -/
def takeStep (s : State) (c : Ctx) (dst : Operand) (r : StepResult) : Try Done := do
  let s := s.dropPackets (.result c.task c.rank)
  let c := { c with snapshot := r.counters, report := r.report, arrival := none, frozen := none }.orFlags r.flags
  let c ← writeOpt s c dst r.value
  return { s := s, c := c, ends := true }

/-- A pod domain's binding is complete (R390): every announcement heard agrees, and the shares sum to the member count. -/
def Domain.complete (d : Domain) : Bool := !d.disagreed && d.members == (d.shares.map fun x => x.2).sum

/-- An announcement for a pod domain that this package has bound (R390, R440): counted where it agrees, else a record. -/
def State.hearShare (s : State) (d : Domain) (a : ShareNote) : State :=
  if a.task = d.tid ∧ a.members = d.members then
    s.updDomains d.is fun e => if e.shares.any fun x => x.1 == a.package then e else { e with shares := e.shares ++ [(a.package, a.share)] }
  else
    let s := s.updDomains d.is fun e => { e with disagreed := true }
    s.postEngine none d.tid 0 (5 * 2 ^ 176 + 1 * 2 ^ 168 + d.id * 2 ^ 164 + a.package * 2 ^ 155 + a.task.toNat * 2 ^ 123 + a.members * 2 ^ 101)

/-- A pod domain has been bound (R386, R390): announcements kept for it are examined, and its peers' writes are counted afresh. -/
def State.podBound (s : State) (d : Domain) : State :=
  if d.level ≠ 5 then s
  else
    let mine := s.fab.notes.filter fun a => a.domain == d.id
    let s := { s with fab := { s.fab with notes := s.fab.notes.filter (fun a => a.domain != d.id),
                                          peers := s.fab.peers.filter fun p => p.domain != d.id } }
    mine.foldl (fun s a => match s.domain? 5 0 d.id with
      | some e => s.hearShare e a
      | none => s) s

/-- The arrival is sent only when every earlier write has been placed, faults found in flight are delivered, and, at pod level,
the binding is complete (R31, R264, R390). -/
def arriveGate (s : State) (c : Ctx) (level : Nat) : Try Unit := do
  parkGate s c
  workGate s c .all
  if !s.workPlaced c then stall s
  match s.domOf c level with
  | some d => if level = 5 && !d.complete then stall s
  | none => fault fcILLEGAL

/-- The value and the code that an arrival carries (R264). -/
def arrivalOf (c : Ctx) (w : FormX) : Try Arrived := do
  let op := w.sub.toNat / 8 % 16
  let v ← if op = 0 then .ok 0 else readVal c w.b
  let k ← if w.sub.getLsbD 7 then readVal c w.c else .ok 0
  require (k.toNat ≤ 127) fcILLEGAL
  return { rank := c.rank, op := op, value := v, code := k.toNat }

/-- SYNC (R264). -/
def execSync (w : FormX) (s : State) : Out :=
  runUniform s w.h false (resultOf w.a) [w.b, w.c] fun s c => do
    let level := w.sub.toNat % 8
    match c.arrival with
    | some a =>
      require a.sync fcILLEGAL
      match s.stepThere c a with
      | some r => takeStep s c w.a r
      | none => stall s
    | none => do
      require (c.bound level) fcILLEGAL
      let x ← arrivalOf c w
      let _ ← writeOpt s c w.a 0
      arriveGate s c level
      let s := s.updCtx c fun c => { c with wait := .park, arrival := some { level := level, sent := some x, sync := true, done := none } }
      stall (s.sendBarrier (.arrival c.task c.rank) level c.key.tile (barrierRoot level c.key.tile))

/-- ARRIVE (R264): reads keep the image of the step being ended (R31). -/
def execArrive (w : FormX) (s : State) : Out :=
  runUniform s w.h false none [w.b, w.c] fun s c => do
    let level := w.sub.toNat % 8
    require c.arrival.isNone fcILLEGAL
    require (c.bound level) fcILLEGAL
    let x ← arrivalOf c w
    arriveGate s c level
    let t := s.sendBarrier (.arrival c.task c.rank) level c.key.tile (barrierRoot level c.key.tile)
    return { s := t, c := { c with arrival := some { level := level, sent := some x, sync := false, done := none }, frozen := some s.now }.clearLatch }

/-- WAITS (R264). -/
def execWaits (w : FormX) (s : State) : Out :=
  runUniform s w.h false (resultOf w.a) [] fun s c => do
    match c.arrival with
    | none => fault fcILLEGAL
    | some a => do
      let _ ← writeOpt s c w.a 0
      parkGate s c
      match s.stepThere c a with
      | some r => takeStep s c w.a r
      | none => stall (s.updCtx c fun c => { c with wait := .park })

/-- STEPRD (R265). -/
def execSteprd (w : FormX) (s : State) : Out :=
  runUniform s w.h false (resultOf w.a) [] fun s c => do
    let level := w.sub.toNat % 8
    let c ← writeOpt s c w.a (if c.bound level then BitVec.ofNat 64 (c.snapshot.getD (level - 1) 0) else BitVec.allOnes 64)
    return { s := s, c := c }

/-- ABORTRD (R266). -/
def execAbortrd (w : FormX) (s : State) : Out :=
  runUniform s w.h false (resultOf w.a) [] fun s c => do
    let c ← writeOpt s c w.a (c.report.getD (w.sub.toNat % 4) 0)
    return { s := s, c := c }

/-- Most members that a domain of a level may have (R267). -/
def domainMost (level : Nat) : Nat :=
  match level with
  | 1 => 8
  | 2 => 128
  | 3 => 1536
  | 4 => 6144
  | _ => 3145728

/-- Units of a level (R12). -/
def unitCount (level : Nat) : Nat :=
  match level with
  | 1 => 768
  | 2 => 48
  | 3 => 4
  | _ => 1

/-- A binding word that names no domain that could be bound (R267). -/
def bindingBad (s : State) (b : Nat) (free : Bool) : Bool :=
  let level := b % 8
  let m := bitsOf b 53 32
  bitsOf b 63 54 != 0 || bitsOf b 31 22 != 0 || bitsOf b 7 3 != 0 || level == 0 || 5 < level || unitCount level ≤ bitsOf b 21 12 ||
  (!free && (m == 0 || domainMost level < m)) || (level == 5 && s.regs.podsize == 0)

/-- The domain that a binding word names (R267). -/
def bindingDomain (s : State) (b : Nat) : Option Domain := s.domain? (b % 8) (bitsOf b 21 12) (bitsOf b 11 8)

/-- DOMBIND (R267). -/
def execDombind (w : FormX) (s : State) : Out :=
  runUniform s w.h true (resultOf w.a) [w.b, w.c] fun s c => do
    let b ← readVal c w.b
    let t ← readVal c w.c
    let bad := bindingBad s b.toNat false
    let taken := (bindingDomain s b.toNat).isSome
    let c ← writeOpt s c w.a (if bad then 2 else if taken then 1 else 0)
    if bad || taken then return { s := s, c := c }
    let tid := BitVec.ofNat 32 t.toNat
    let task := ((s.tasks.find? fun x => x.tid == tid).map fun x => x.num).getD 0
    let d : Domain := { level := b.toNat % 8, unit := bitsOf b.toNat 21 12, id := bitsOf b.toNat 11 8, task := if b.toNat % 8 = 5 then 0 else task,
                        tid := tid, members := bitsOf b.toNat 53 32 }
    return { s := { s with domains := s.domains ++ [d] }.podBound d, c := c }

/-- The current step of a domain has an arrival, its own or one from above (R250, R267). -/
def State.hasArrival (s : State) (d : Domain) : Bool :=
  !d.arrived.isEmpty || !d.contribs.isEmpty || (s.membersOf d).any fun c => c.above d.level

/-- DOMBIND.FREE (R267). -/
def execDombindFree (w : FormX) (s : State) : Out :=
  runUniform s w.h true (resultOf w.a) [w.b] fun s c => do
    let b ← readVal c w.b
    let bad := bindingBad s b.toNat true
    let st : Nat := if bad then 2 else match bindingDomain s b.toNat with
      | none => 1
      | some d => if s.hasArrival d then 3 else 0
    let c ← writeOpt s c w.a (BitVec.ofNat 64 st)
    if st ≠ 0 then return { s := s, c := c }
    let ds := s.domains.filter fun d => !(match bindingDomain s b.toNat with
      | some e => e.is d
      | none => false)
    let bound := fun (n : Nat) => ds.any fun d => d.level == 5 && d.id == n
    let f := s.fab
    let f := { f with holding := f.holding.filter (fun t => bound t.domain), early := f.early.filter fun p => bound p.id.domain }
    return { s := { s with domains := ds, fab := f }, c := c }

/-! ### Leaving a task -/

/-- Lists that a context has not closed are discarded, with their tokens (R414). -/
def State.dropLists (s : State) (c : Ctx) : State :=
  let f := s.fab
  let lists := f.lists.filter fun l => l.closed || l.task != c.task || l.rank != c.rank
  let mine := fun (t : RToken) => t.srcPkg == s.regs.podpackage && t.rank == c.rank && t.batch == c.rtBatch && c.bound 5 && t.domain == c.domId 5
  { s with fab := { f with lists := lists, holding := f.holding.filter (fun t => !mine t), loop := f.loop.filter fun t => !mine t } }

/-- A context leaves its task (R148, R259): it is absent in each of its domains, its events and its image are gone. A context of no task is a
member of none (R247). -/
def State.leave (s : State) (c : Ctx) (how : Absence) : State :=
  let gone := fun (d : Domain) => d.task == c.task && c.task != 0 && (d.level == 5 || d.unit == unitOf d.level c.key.tile)
  let s := s.updDomains gone fun d => { d with absent := d.absent ++ [(c.rank, how)] }
  let s := (s.dropLists c).forgetWalks c.key
  { s with ctxs := s.ctxs.filter fun d => !d.same c }

/-- EXIT (R148). -/
def execExit (w : FormA) (s : State) : Out :=
  runUniform s w.h false none [] fun s c => do
    parkGate s c
    workGate s c .all
    if !s.workPlaced c then stall s
    match c.arrival with
    | some { level := _, sent := some _, sync := _, done := _ } => stall s
    | _ => .ok ()
    return { s := s.leave c (if w.mod.getLsbD 0 then .strictExit else .exit), c := c, left := true }

end Sys2Proof.Machine
end

