-- ==== Sys2Proof/Machine/Links.lean ====
section
/-! DEFINITION. The optical links: the rotor schedule (R373-R375), pair links with striping and replay (R376-R379), port masks (R380, R381),
routes and relay (R382-R385). -/

namespace Sys2Proof.Machine

/-! ### Event records for the host -/

/-- Post an event record for the host's ring (R430): it waits in the on-package buffer of 1,024 records, or is lost. -/
def State.postEvent (s : State) (engine event rest : Nat) : State :=
  let h := s.host
  if h.evwait.length < 1024 then
    { s with host := { h with evwait := h.evwait ++ [bytesOf 64 (rest * 65536 + engine * 256 + event)] } }
  else { s with host := { h with evlost := min (h.evlost + 1) 0xFFFFFFFF } }

/-! ### Ports and pair links -/

/-- FPORT (R380). -/
def Port.word (p : Port) : Nat := p.enable * 2 ^ 32 + p.active * 65536 + b2n p.degraded * 4 + b2n p.lit * 2 + b2n p.down

/-- PODCFG (R375). -/
def State.podcfg (s : State) : Nat := b2n s.fab.locked * 2 ^ 31 + s.regs.podsize * 512 + s.regs.podpackage

/-- A package sends to this one on a port (R373): flight time may bring its flits in any slot. -/
def sendsOn (src package port : Nat) : Bool := (directLink src package).1 == port

/-- The wavelengths of a mask, ascending. -/
def wavelengths (mask : Nat) : List Nat := (List.range 16).filter fun i => bitAt mask i

/-- The wavelength of a data flit (R377). -/
def stripe (mask q0 q : Nat) : Nat :=
  let w := wavelengths mask
  w.getD ((q + 65536 - q0) % 65536 % max 1 w.length) 0

/-- The first number is above the second on a pair link's circle of sequence numbers. -/
def seqAfter (a b : Nat) : Bool := let d := (a + 65536 - b) % 65536; 0 < d && d < 32768

/-! ### Masks -/

/-- The active mask of a port changes (R379 items 1 to 3, R380): every pair link stripes under it from its next data flit on, after
resending the flits that were sent on a wavelength that is gone. -/
def State.setMask (s : State) (p : Port) (new : Nat) : State :=
  let links := s.fab.links.map fun l =>
    if l.port = p.num then
      let lost := (l.replay.filter fun f => !bitAt new f.wavelength && !l.resend.contains f.seq).map fun f => f.seq
      { l with q0 := l.next, resend := (l.replay.map fun f => f.seq).filter fun q => l.resend.contains q || lost.contains q }
    else l
  let down := (wavelengths new).length < 4
  ({ s with fab := { s.fab with links := links } }).setPort { p with active := new, down := down }

/-- The record of a mask change (R381). -/
def State.postMask (s : State) (port seq old new reporter event : Nat) : State :=
  s.postEvent 5 event (port * 2 ^ 370 + reporter * 2 ^ 375 + new * 2 ^ 384 + old * 2 ^ 400 + seq * 2 ^ 416 + s.podtime * 2 ^ 432)

/-- A dark report reaches a port (R379): wavelengths that are not in the mask are ignored. -/
def State.darkReport (s : State) (port reporter dark : Nat) : State :=
  let p := s.port port
  let named := Nat.land dark p.active
  if named = 0 then s
  else
    let new := p.active - named
    let seq := (s.link port (directLink s.regs.podpackage reporter).2).next
    let s' := (s.setMask p new).setPort { (s.setMask p new).port port with degraded := true }
    s'.postMask port seq p.active new reporter (if (wavelengths new).length < 4 && !p.down then 2 else 1)

/-- MASK_CHANGE (R379). -/
def execMaskChange (dark : BitVec 16) (s : State) : Out :=
  if s.sel.a < 32 ∧ s.isPeer s.sel.b then .next (s.darkReport s.sel.a s.sel.b dark.toNat) else .refused (.notEnabled "MASK_CHANGE")

/-- A write to a port's enable (R380): the wavelengths with light among those enabled become active. Which have light is not the
package's to know: log entry 9. -/
def State.enablePort (s : State) (port enable : Nat) : State :=
  let (n, s) := s.fresh
  let p := s.port port
  let light := (Config.light n).toNat
  let new := Nat.land enable light
  let p := { p with enable := enable, lit := new == enable }
  let s := s.setMask p new
  if p.active - Nat.land p.active new = 0 then s
  else s.postMask port (s.link port s.slotNow).next p.active new s.regs.podpackage (if (wavelengths new).length < 4 && !p.down then 2 else 1)

/-- WAVELENGTH_DARK (R378): the receiver of a port finds a wavelength of the sender's mask dark. -/
def execWavelengthDark (s : State) : Out :=
  let peer := s.sel.c
  let l := s.linkTo peer
  if s.sel.a < 32 ∧ s.sel.b < 16 ∧ s.isPeer peer ∧ sendsOn peer s.regs.podpackage s.sel.a ∧ bitAt l.rmask s.sel.b ∧ !bitAt l.rdark s.sel.b then
    .next (s.setLink { l with rdark := l.rdark + 2 ^ s.sel.b })
  else .refused (.notEnabled "WAVELENGTH_DARK")

/-! ### Slots -/

/-- Relay flits held from a source (R384). -/
def State.relayHeld (s : State) (src : Nat) : Nat := (s.fab.relay.filter fun x => x.p.src == src).foldl (fun a x => a + x.p.flits) 0

/-- Slots from a slot of a pair link until the reverse pair link's next one (R373). -/
def slotsBack (slot : Nat) : Nat := (45 - 2 * slot) % 16 + 1

/-- Space of the relay buffer that is reserved for what has been granted, until the end of the receiver's next connection (R384). -/
def State.relayReserved (s : State) : Nat :=
  ((s.fab.links.filter fun l => (s.slotNow + 16 - l.slot) % 16 ≤ slotsBack l.slot).map fun l => l.quotaOut).sum

/-- Free flits of the relay buffer (R384). -/
def State.relayFree (s : State) : Nat :=
  bitsOf s.regs.relaycfg.toNat 63 44 * 1024 - s.fab.relay.foldl (fun a x => a + x.p.flits) 0 - s.relayReserved

/-- The quota that a package grants to a receiver (R384). -/
def State.relayGrant (s : State) (peer : Nat) : Nat :=
  min (s.regs.relaycfg.toNat % 65536 - s.relayHeld peer) (s.relayFree / 512)

/-- A pair link as its slot begins (R384): the quota that the peer granted for this connection counts, and an earlier rest is void; the control
flit grants quota in its turn. -/
def State.startLink (s : State) (j : Nat) : State :=
  let l := s.link j s.slotNow
  let m := joinedTo s.regs.podpackage j s.slotNow
  let s := s.setLink { l with quotaIn := l.quotaNext, quotaNext := 0, quotaOut := 0 }
  if s.isPeer m && !(s.port j).down then s.setLink { s.link j s.slotNow with quotaOut := s.relayGrant m } else s

/-- SLOT_START (R374): a rotor slot begins; control flits grant relay quota, and waiting packets are tested for relay (R383, R384). -/
def execSlotStart (s : State) : Out :=
  let slot := s.podtime / 250
  if s.regs.podsize ≠ 0 ∧ s.fab.slotStarted ≠ some slot then
    let s := { s with fab := { s.fab with slotStarted := some slot } }
    if !s.fab.locked then .next s
    else
      let s := ((List.range 32).filter fun j => s.isPeer (joinedTo s.regs.podpackage j s.slotNow)).foldl State.startLink s
      let queue := s.fab.queue.map fun q => { q with via := s.relayChoice q }
      .next { s with fab := { s.fab with queue := queue } }
  else .refused (.notEnabled "SLOT_START")

/-- SLOT_CONTROL_RECEIVE (R375, R384). -/
def execSlotControlReceive (c : SlotControl) (s : State) : Out :=
  if s.isPeer c.package then
    let l := s.linkTo c.package
    let now := if c.locked || !s.fab.locked then c.podtime % 2 ^ 64 else s.podtime
    let l := { l with quotaNext := c.quota, lockedAt := if c.locked then some now else l.lockedAt }
    let absent := if c.locked then s.fab.absent.filter fun p => p != c.package else s.fab.absent
    .next ({ s with podtime := now, fab := { s.fab with absent := absent, locked := s.fab.locked || c.locked } }.setLink l)
  else .refused (.notEnabled "SLOT_CONTROL_RECEIVE")

/-- A peer has not been heard with pod time locked for one rotation (R375). -/
def State.peerSilent (s : State) (p : Nat) : Bool :=
  s.isPeer p && !s.fab.absent.contains p && (s.linkTo p).lockedAt.getD 0 + 4000 ≤ s.podtime

/-- PEER_ABSENT (R375). -/
def execPeerAbsent (s : State) : Out :=
  if s.peerSilent s.sel.a then .next { s with fab := { s.fab with absent := s.fab.absent ++ [s.sel.a] } }
  else .refused (.notEnabled "PEER_ABSENT")

/-! ### Receiving -/

/-- The input that a packet's contents are to the package's engines: the packet's slack and overdue flag come in its flits (R371, R112). -/
def State.inputsOf (s : State) (src slack : Nat) (overdue : Bool) (x : Content) : List Move :=
  let sel : Selection := { ctx := { tile := 0, num := 0 }, a := 0, b := 0, c := 0, flag := overdue }
  match x with
  | .request r => [{ sel := sel, op := .peerRequest { r with slack := slack, overdue := overdue } }]
  | .reply id data _ => [{ sel := { sel with a := slack, b := id, c := 1 }, op := .resultReturn data }]
  | .share n => [{ sel := sel, op := .shareAnnouncement n }]
  | .contribution c => [{ sel := sel, op := .podContribution c }]
  | .result r => [{ sel := sel, op := .podResult r }]
  | .fsend f => [{ sel := sel, op := .fsendDelivery { f with slack := slack } }]
  | .refusal id => [{ sel := { sel with b := id + 1, c := fcSTAGINGFULL }, op := .exchangeInflightFault }]
  | .fsendAck id full _ => if full then [{ sel := { sel with a := id, c := fcSTAGINGFULL }, op := .fsendInflightFault }]
      else [{ sel := { sel with a := slack, b := id, c := 1 }, op := .resultReturn [] }]
  | .collective p => [{ sel := sel, op := .collPacketArrival { p with slack := slack, overdue := overdue } }]
  | .token t => [{ sel := sel, op := .tokenHold { t with slack := slack, overdue := overdue } }]
  | .accepted d rank batch list position =>
    match s.fab.lists.find? fun l => l.domain == d && l.rank == rank && l.batch == batch && l.num == list with
    | some l => [{ sel := { sel with ctx := l.ctx, a := list, b := position, c := 2 }, op := .resultReturn [] }]
    | none => []
  | .round1 d ts => [{ sel := { sel with a := d, b := src }, op := .round1Done ts }]
  | .round2 d ts => [{ sel := { sel with a := d, b := src, c := 1 }, op := .round1Done ts }]
  | .relayed p => [{ sel := sel, op := .relayArrival { p with slack := slack, overdue := overdue } }]

/-- A reply brings word of a conflict in a pod step, which is a candidate of the step here too (R39, R387): log entry 117. -/
def State.hearConflict (s : State) (x : Content) : State :=
  let heard := fun (n : Nat × Nat × Candidate) =>
    { s with domains := s.domains.map fun d => if d.level = 5 ∧ d.id = n.1 ∧ d.counter = n.2.1 then { d with cands := d.cands ++ [n.2.2] } else d }
  match x with
  | .reply _ _ (some n) => heard n
  | .fsendAck _ _ (some n) => heard n
  | _ => s

/-- Flits kept that can be delivered in sequence from a number on: the next number, those delivered, those still kept (R376). -/
def inSequence : Nat → Nat → List Flit → Nat × List Flit × List Flit
  | 0, n, kept => (n, [], kept)
  | k + 1, n, kept =>
    match kept.find? fun f => f.seq.toNat == n with
    | some f =>
      let (m, got, rest) := inSequence k ((n + 1) % 65536) (kept.filter fun g => g.seq != f.seq)
      (m, f :: got, rest)
    | none => (n, [], kept)

/-- A good data flit (R376): kept, unless it has been received already, and delivered in sequence order. -/
def State.dataFlit (s : State) (src : Nat) (l : PairLink) (f : Flit) : State :=
  let old := seqAfter l.rnext f.seq.toNat || l.rkept.any fun g => g.seq == f.seq
  if old then s.setLink l
  else
    let kept := l.rkept ++ [f]
    let (n, got, rest) := inSequence kept.length l.rnext kept
    let ins := got.flatMap fun g => (g.content.map (s.inputsOf src g.slack g.overdue)).getD []
    let s := { s.setLink { l with rnext := n, rkept := rest } with agenda := ins ++ s.agenda }
    got.foldl (fun s g => (g.content.map s.hearConflict).getD s) s

/-- FLIT_RECEIVE (R371, R376, R378, R379). -/
def execFlitReceive (f : Flit) (s : State) : Out :=
  let src := s.sel.b
  if s.sel.a < 32 ∧ s.isPeer src ∧ sendsOn src s.regs.podpackage s.sel.a then
    if !f.crcGood || f.kind == 3 then .next s
    else
      let l := s.linkTo src
      let replay := l.replay.filter fun g => !seqAfter f.ack.toNat g.seq
      let l := { l with replay := replay, resend := l.resend.filter (fun q => replay.any fun g => g.seq == q), rmask := f.mask.toNat,
                        rdark := Nat.land l.rdark f.mask.toNat }
      let s := if f.kind = 0 then s.dataFlit src l f else s.setLink l
      .next (s.darkReport l.port src f.dark.toNat)
  else .refused (.notEnabled "FLIT_RECEIVE")

/-- RELAY_ARRIVAL (R384): within the quota that was granted to the source. -/
def execRelayArrival (p : RelayPacket) (s : State) : Out :=
  let l := s.linkTo p.src
  if s.isPeer p.src ∧ s.isPeer p.dst ∧ p.flits ≤ l.quotaOut then
    let s := s.setLink { l with quotaOut := l.quotaOut - p.flits }
    .next { s with fab := { s.fab with relay := s.fab.relay ++ [{ p := p, arrived := s.podtime }] } }
  else .refused (.notEnabled "RELAY_ARRIVAL")

/-! ### Sending -/

/-- A flit has not been acknowledged for one rotation (R379). -/
def State.replayDue (s : State) (l : PairLink) : Bool :=
  l.replay.any fun f => !l.resend.contains f.seq && f.sentAt + 4000 ≤ s.podtime

/-- REPLAY_RESEND (R379 item 4): such flits are to be resent before any new data. -/
def execReplayResend (s : State) : Out :=
  let l := s.link s.sel.a s.sel.b
  if s.replayDue l then
    let due := fun (f : SentFlit) => l.resend.contains f.seq || f.sentAt + 4000 ≤ s.podtime
    .next (s.setLink { l with resend := (l.replay.filter due).map fun f => f.seq })
  else .refused (.notEnabled "REPLAY_RESEND")

/-- What competes for a port: a packet of the queue, or the head of a relay queue. -/
inductive PortHead where
  | own (q : OutPacket)
  | relay (x : Relayed)
  deriving DecidableEq, Repr

/-- Flits of a head, its channel, slack, overdue flag and arrival. -/
def PortHead.flits : PortHead → Nat
  | .own q => q.flits
  | .relay x => x.p.flits
def PortHead.vc : PortHead → Nat
  | .own q => q.vc
  | .relay _ => 3
def PortHead.slack : PortHead → Nat
  | .own q => q.slack
  | .relay x => x.p.slack
def PortHead.overdue : PortHead → Bool
  | .own q => q.overdue
  | .relay x => x.p.overdue
def PortHead.arrived : PortHead → Nat
  | .own q => q.arrived
  | .relay x => x.arrived

/-- Where a packet goes next: on its direct connection, or through the intermediate that its test has chosen (R383). -/
def OutPacket.nextHop (q : OutPacket) : Nat := q.via.getD q.dst

/-- A packet that takes a relay keeps within the quota of its connection (R384). -/
def PortHead.withinQuota (l : PairLink) : PortHead → Bool
  | .own q => q.via.isNone || q.flits ≤ l.quotaIn
  | .relay _ => true

/-- The queues of a port for the package that it is joined to, one for each channel, and the relay queue (R109, R385). -/
def State.portQueues (s : State) (peer : Nat) : List (List PortHead) :=
  let mine := s.fab.queue.filter fun q => q.nextHop == peer
  (List.range 8).map (fun vc => (mine.filter fun q => q.vc == vc).map .own) ++ [(s.fab.relay.filter fun x => x.p.dst == peer).map .relay]

/-- The bid of a queue's head: the queue's least slack and overdue flag, the head's arrival; the lower source decides a tie (R109): package, tile
and context. -/
def portBid (own : Nat) (h : PortHead) (queue : List PortHead) : Bid :=
  { overdue := queue.any PortHead.overdue, slack := (queue.map PortHead.slack).foldl min h.slack, arrived := h.arrived,
    port := match h with
      | .own q => 8192 * own + q.source
      | .relay x => 8192 * x.p.src }

/-- The heads of a port's queues with their bids. -/
def State.portHeads (s : State) (peer : Nat) : List (PortHead × Bid) :=
  (s.portQueues peer).filterMap fun q => q.head?.map fun h => (h, portBid s.regs.podpackage h q)

/-- The flits of a head that may start at once: of a message of VC5 at most 8 (R111). -/
def PortHead.chunk (h : PortHead) : Nat := if h.vc = 5 then min 8 h.flits else h.flits

/-- The best of some heads (R109). -/
def bestBid : List (PortHead × Bid) → Option (PortHead × Bid)
  | [] => none
  | h :: r => match bestBid r with
    | none => some h
    | some g => if g.2.beats h.2 then some g else some h

/-- The winner among the heads at a port (R109, R111, R385). -/
def State.bestHead (s : State) (port : Nat) (hs : List (PortHead × Bid)) : Option PortHead :=
  match hs.find? fun h => h.1.vc == 7 with
  | some h => some h.1
  | none => match hs.find? fun h => h.1.vc == 5 && s.barrierMay (portArbiter port) h.1.chunk with
    | some h => some h.1
    | none => (bestBid (hs.filter fun h => h.1.vc != 5)).map fun h => h.1

/-- Remove the first element equal to a given one. -/
def dropOne {α : Type} [DecidableEq α] (x : α) : List α → List α
  | [] => []
  | y :: r => if y = x then r else y :: dropOne x r

/-- An overdue packet marks the work it belongs to (R114). -/
def State.markSent (s : State) (overdue : Bool) (content : Option Content) : State :=
  if !overdue then s
  else match content with
    | some (.collective p) =>
      { s with fab := { s.fab with colls := s.fab.colls.map fun m => if m.id = p.id then { m with overdue := true } else m } }
    | some (.token t) =>
      let mine := fun (l : RouteList) => t.overflowed.isNone && l.domain == t.domain && l.rank == t.rank && l.batch == t.batch && l.num == t.list
      { s with fab := { s.fab with lists := s.fab.lists.map fun l => if mine l then { l with overdue := true } else l } }
    | _ => s

/-- Flits of a packet enter a pair link (R376, R377), with the packet's slack (R112). -/
def State.sendFlits (s : State) (l : PairLink) (mask n slack : Nat) (overdue : Bool) (content : Option Content) (relayed : Bool) : State :=
  let new := (List.range n).map fun i =>
    let q := (l.next + i) % 65536
    ({ seq := q, wavelength := stripe mask l.q0 q, sentAt := s.podtime, slack := slack, overdue := overdue, content := content } : SentFlit)
  s.setLink { l with next := (l.next + n) % 65536, replay := l.replay ++ new, quotaIn := if relayed then l.quotaIn - n else l.quotaIn }

/-- A flit that waits to be resent is charged (R108). -/
def PairLink.tick (l : PairLink) : PairLink :=
  let charge := fun (f : SentFlit) => if l.resend.contains f.seq then
      { f with slack := (chargeSlack f.slack f.overdue).1, overdue := (chargeSlack f.slack f.overdue).2 } else f
  { l with replay := l.replay.map charge }

/-- A port can send data now (R374, R375, R380): its slot has begun and is past the dark guard and the control flit, pod time is locked, it is free. -/
def State.portOpen (s : State) (port : Nat) : Bool :=
  s.regs.podsize != 0 && s.fab.locked && s.fab.slotStarted == some (s.podtime / 250) && 8 ≤ s.podtime % 250 && !(s.port port).down &&
  s.isPeer (joinedTo s.regs.podpackage port s.slotNow) && s.outFree (portArbiter port)

/-- What a port does next: it resends a flit, or sends a packet that fits in the slot's light-on time and in the replay buffer. -/
def State.portNext (s : State) (port : Nat) : Option State :=
  if !s.portOpen port then none
  else
    let p := s.port port
    let l := s.link port s.slotNow
    let n := (wavelengths p.active).length
    let busy := fun (s : State) (flits : Nat) =>
      { s with busyOut := (portArbiter port, s.cycle + 20 * ((flits + n - 1) / n)) :: s.busyOut.filter fun b => b.1 != portArbiter port && s.cycle < b.2 }
    match l.resend with
    | q :: rest =>
      let again := l.replay.map fun f => if f.seq = q then { f with wavelength := stripe p.active l.q0 q, sentAt := s.podtime } else f
      let f := l.replay.find? fun f => f.seq == q
      some (busy ((s.setLink { l with replay := again, resend := rest }).markSent (f.any fun f => f.overdue) (f.bind fun f => f.content)) 1)
    | [] =>
      let fits := fun (x : PortHead × Bid) =>
        10 * ((x.1.chunk + n - 1) / n) ≤ 8 * (250 - s.podtime % 250) && l.replay.length + x.1.chunk ≤ 4096 && x.1.withinQuota l
      match s.bestHead port ((s.portHeads (joinedTo s.regs.podpackage port s.slotNow)).filter fits) with
      | none => none
      | some (.own q) =>
        let k := PortHead.chunk (.own q)
        let far := q.via.isSome
        let rest := if k < q.flits then s.fab.queue.map (fun x => if x = q then { q with flits := q.flits - k } else x) else dropOne q s.fab.queue
        let s' := ({ s with fab := { s.fab with queue := rest } }).noteBarrier (portArbiter port) q.vc k
        some (busy ((s'.markSent q.overdue (some q.content)).sendFlits l p.active k q.slack q.overdue (some q.content) far) k)
      | some (.relay x) =>
        let s' := { s with fab := { s.fab with relay := dropOne x s.fab.relay } }
        some (busy (s'.sendFlits l p.active x.p.flits x.p.slack x.p.overdue none false) x.p.flits)

end Sys2Proof.Machine
end

