-- ==== Sys2Proof/Machine/Pod.lean ====
section
/-! DEFINITION. Completion of steps, pod barriers (R390, R391) and the service of remote requests at the peer (R386-R389). -/

namespace Sys2Proof.Machine

/-! ### Pod steps -/

/-- The participants of a pod domain (R390). -/
def Domain.participants (d : Domain) : List Nat := ascending ((d.shares.filter fun x => x.2 != 0).map fun x => x.1)

/-- The root (R390). -/
def Domain.root (d : Domain) : Nat := d.participants.headD 0

/-- Every member on this package has arrived or is absent, no admission is under way, and the contribution has not been sent (R391, R418);
a stopped task's is not sent (R47). -/
def State.podReady (s : State) (d : Domain) : Bool :=
  d.level == 5 && d.task != 0 && d.complete && !d.sent && d.participants.contains s.regs.podpackage &&
  ((d.shares.find? fun x => x.1 == s.regs.podpackage).map fun x => x.2).getD 0 ≤ (s.settledRanks d).length &&
  (s.membersOf d).all (fun c => !c.stopped) && s.fab.admissions.all (fun a => a.domain != d.id)

/-- This package's contribution to a pod step (R391). -/
def State.contribution (s : State) (d : Domain) : PodContrib :=
  let own := s.regs.podpackage
  { domain := d.id, package := own, terms := d.terms own, ranks := s.positions d, gone := d.absent.length,
    candidates := d.cands ++ d.codes own true ++ s.lowerCands d ++ s.podConflict d, routing := d.routing, closed := d.closed }

/-- Send the contribution to the root, which keeps its own (R391). -/
def State.contribute (s : State) (d : Domain) : State :=
  let c := s.contribution d
  let s := s.updDomains d.is fun e => { e with sent := true }
  if d.root = s.regs.podpackage then s.updDomains d.is fun e => { e with contribs := e.contribs ++ [c] }
  else s.sendFrom (dieAnchor 0) 0 5 d.root 5 0xFFFF false (32 * c.terms.length + 64) (.contribution c)

/-- The root has every participant's contribution, and some member has arrived; a stopped task's step does not complete (R47). -/
def State.podFull (s : State) (d : Domain) : Bool :=
  d.level == 5 && d.sent && d.root == s.regs.podpackage && d.participants.all (fun p => d.contribs.any fun c => c.package == p) &&
  d.contribs.any (fun c => !c.terms.isEmpty) && (s.membersOf d).all fun c => !c.stopped

/-- A candidate of a strict exit stands only where some other member of the pod domain has arrived (R148, R259). -/
def owedBy (ts : List Term) (x : Candidate) : Bool := x.code != 0x84 || ts.any fun t => t.package != x.package || t.rank != x.rank

/-- The result that the root forms (R391). -/
def State.podResultOf (s : State) (d : Domain) : PodResult :=
  let cs := sortBy (fun a b => decide (a.package ≤ b.package)) d.contribs
  let ts := sortBy termBelow (cs.flatMap fun c => c.terms)
  { domain := d.id, terms := ts, positions := cs.flatMap fun c => c.ranks.map fun r => (c.package, r), gone := cs.map fun c => (c.package, c.gone),
    candidates := (cs.flatMap fun c => c.candidates.filter (owedBy ts)) ++ s.podConflict d ++ mismatchCode ts, routing := cs.any fun c => c.routing,
    closed := cs.flatMap fun c => c.closed.map fun x => (c.package, x.1, x.2) }

/-- A participant completes the pod step on receipt of the result (R391); a routing step begins an admission (R414, R416). Collectives of the
step that are complete are forgotten (R408). -/
def State.applyResult (s : State) (d : Domain) (r : PodResult) : State :=
  let s := s.completeStep d r.positions r.terms r.gone r.candidates
  let f := s.fab
  let colls := f.colls.filter fun m => !(m.task == d.task && m.status.isSome)
  let new : List Admission := if r.routing then
    [{ domain := d.id, packages := d.participants, round := 0, closed := r.closed, forwarded := [], done1 := [], done2 := [], told := [], slots := [] }] else []
  -- tokens of members that have left are removed (R414)
  let stay := fun (t : RToken) => t.domain != d.id || r.positions.contains (t.srcPkg, t.rank)
  { s with fab := { f with colls := colls, admissions := f.admissions ++ new, holding := f.holding.filter stay,
                           admittedOnce := f.admittedOnce && !r.routing } }

/-- STEP_COMPLETION (R251, R391): a step below the pod completes; at pod level this package sends its contribution, and the root, once it has
them all, the result. -/
def execStepCompletion (s : State) : Out :=
  match s.domain? s.sel.a s.sel.b s.sel.c with
  | some d =>
    if s.podReady d then .next (s.contribute d)
    else if !(s.stepReady d || s.podFull d) then .refused (.notEnabled "STEP_COMPLETION")
    else if s.commitBlocked d then
      if s.noteCommit d != s then .next (s.noteCommit d) else .refused (.notEnabled "STEP_COMPLETION")
    else if d.level = 5 then
      let r := s.podResultOf d
      let s := (d.participants.filter fun p => p != s.regs.podpackage).foldl (fun s p =>
        s.sendFrom (dieAnchor 0) 0 5 p 5 0xFFFF false (32 * r.terms.length + 64) (.result r)) s
      .next (s.applyResult d r)
    else
      let own := s.regs.podpackage
      let ts := d.terms own
      let cands := d.cands ++ d.codes own false ++ mismatchCode ts
      .next (s.completeStep d ((s.positions d).map fun r => (own, r)) ts [] cands)
  | none => .refused (.notEnabled "STEP_COMPLETION")

/-- SHARE_ANNOUNCEMENT (R390): kept until the domain is bound here. -/
def execShareAnnouncement (a : ShareNote) (s : State) : Out :=
  match s.domain? 5 0 a.domain with
  | some d => .next (s.hearShare d a)
  | none => .next { s with fab := { s.fab with notes := s.fab.notes ++ [a] } }

/-- POD_CONTRIBUTION (R391). -/
def execPodContribution (c : PodContrib) (s : State) : Out :=
  match s.domain? 5 0 c.domain with
  | some d =>
    if d.complete ∧ d.root = s.regs.podpackage ∧ d.participants.contains c.package ∧ !(d.contribs.any fun x => x.package == c.package) then
      let since := fun (e : Domain) => if c.terms.isEmpty then e.since else some (e.since.getD s.ticks)
      .next (s.updDomains d.is fun e => { e with contribs := e.contribs ++ [c], since := since e })
    else .refused (.notEnabled "POD_CONTRIBUTION")
  | none => .refused (.notEnabled "POD_CONTRIBUTION")

/-- POD_RESULT (R391): the step completes here at that moment; a commitment to a page on the move waits (R341). -/
def execPodResult (r : PodResult) (s : State) : Out :=
  match s.domain? 5 0 r.domain with
  | some d =>
    if !d.sent || d.root == s.regs.podpackage || s.commitBlocked d || (s.membersOf d).any (fun c => c.stopped) then
      .refused (.notEnabled "POD_RESULT")
    else .next (s.applyResult d r)
  | none => .refused (.notEnabled "POD_RESULT")

/-! ### Remote requests -/

/-- Writes that a party of another package has sent and this package has applied (R386). -/
def State.peerReceived (s : State) (package rank domain : Nat) : Nat :=
  ((s.fab.peers.find? fun p => p.package == package && p.rank == rank && p.domain == domain).map fun p => p.received).getD 0

/-- Count a write of such a party. -/
def State.countPeer (s : State) (package rank domain : Nat) : State :=
  let n := s.peerReceived package rank domain
  let rest := s.fab.peers.filter fun p => !(p.package == package && p.rank == rank && p.domain == domain)
  { s with fab := { s.fab with peers := { package := package, rank := rank, domain := domain, received := n + 1 } :: rest } }

/-- A byte as a pod task's parties elsewhere find it in the current pod step: its page's shadow, or memory; what the host has replaced
stays (R35, R37, R387). -/
def State.podByte (s : State) (task domain k : Nat) : Byte :=
  let m := match s.fab.shadows.find? fun h => h.domain == domain && h.page == k / 65536 with
    | some h => h.cells
    | none => s.mem
  baseByte m s.hostOld task k

/-- The bytes that a peer's party reads: its own writes of the step applied over the step's first contents (R387); a read that belongs to the
step that has ended, made between an ARRIVE and its WAITS, finds that step's (R31). -/
def State.peerRead (s : State) (d : Domain) (r : PeerReq) : List Byte :=
  let mine := fun (e : Staged) => e.party.pkg == some r.package && e.party.rank == r.rank && e.party.task == d.task
  let now := s.staged.filter mine
  let (base, es) := match s.fab.ended.find? fun x => counterBefore r.steps d.counter && x.1 == d.id with
    | some (_, im) => (baseByte im.mem im.host d.task, im.staged.filter mine ++ now)
    | none => (s.podByte d.task d.id, now)
  let w := growLoc es.length es (r.phys, r.phys + r.len)
  let es := es.filter fun e => rangesMeet e.key e.bytes.length w.1 (w.2 - w.1)
  (List.range r.len).map fun i => valueAt base es (r.phys + i)

/-- A staged write of a party of another package (R387): in the package pool until the pod step's end. -/
def State.peerEntry (s : State) (d : Domain) (package rank key : Nat) (addr : Word) (bs : List Byte) (kind : Option Nat)
    (bc : Option (Nat × Nat × Nat)) : Staged :=
  { key := key, bytes := bs, kind := kind, party := { task := d.task, rank := rank, pkg := some package }, tile := 0, vis := 4,
    steps := [0, 0, 0, 0, d.counter], addr := addr, seq := s.seq, pool := 4, top := 5, bc := bc }

/-- Enter a peer's write into the package pool; none where it has no room (R45, R387). -/
def State.enterPeer (s : State) (e : Staged) : Option State :=
  if s.poolTakes 4 e then some { s with staged := s.staged ++ [{ e with seq := s.seq }], seq := s.seq + 1 } else none

/-- Bytes of an element of a reduction kind; the bitwise kinds work byte by byte (R224). -/
def kindBytes (kind : Nat) : Nat := if 5 ≤ kind / 64 then 1 else if kind % 64 = fmtI64 then 8 else fmtBits (kind % 64) / 8

/-- The bytes of a remote write, cut as staging holds them. -/
def peerPieces (kind : PeerKind) (key : Nat) (bs : List Byte) : List (Nat × List Byte × Option Nat) :=
  match kind with
  | .reduce k =>
    let n := kindBytes k
    ((chunksOf n (bs.length / n) bs).zipIdx).map fun x => (key + n * x.2, x.1, some k)
  | _ => (linePieces (bs.length / 64 + 2) key bs).map fun x => (x.1, x.2, none)

/-- What the acknowledgement of a remote write says beside: a conflict of the pod step, where this package's contribution, which reports it, has
already gone (R39, R48, R387). Log entry 117. -/
def State.lateConflict (s : State) (d : Domain) : Option (Nat × Nat × Candidate) :=
  if d.sent then (s.podConflict d).head?.map fun c => (d.id, d.counter, c) else none

/-- Serve a remote request now (R386, R387); none where it has to wait. -/
def State.servePeer (s : State) (r : PeerReq) : Option State :=
  let reply := fun (s : State) (data : List Byte) (noted : Option (Nat × Nat × Candidate)) =>
    s.sendAfter r.package 2 r.slack r.overdue data.length (.reply r.id data noted)
  let answer := fun (s : State) (data : List Byte) => reply s data none
  match r.domain with
  | none => match r.kind with
    | .read => some (answer s (s.mem.read r.phys r.len))
    | _ => none
  | some id => match s.domain? 5 0 id with
    | none => none
    | some d =>
      let got := s.peerReceived r.package r.rank id
      if d.task = 0 || counterBefore d.counter r.steps then none
      else match r.kind with
        | .read => if got < r.prior then none else some (answer s (s.peerRead d r))
        | k =>
          if got < r.prior then none
          else if r.prior < got then some (answer s [])
          else
            let addr := fun (key : Nat) => BitVec.ofNat 64 (2 ^ 63 + r.va + (key - r.phys))
            match (peerPieces k r.phys r.data).foldlM (init := s) fun s x =>
                s.enterPeer (s.peerEntry d r.package r.rank x.1 (addr x.1) x.2.1 x.2.2 none) with
            | some s => some (reply (s.countPeer r.package r.rank id) [] (s.lateConflict d))
            | none => some (s.sendAfter r.package 2 r.slack r.overdue 0 (.refusal r.id))

/-- PEER_REQUEST (R387): a request that cannot be served yet is held; a write without room is refused (R45). -/
def execPeerRequest (r : PeerReq) (s : State) : Out :=
  let held := s.fab.heldReqs.contains r
  match s.servePeer r with
  | some t => .next { t with fab := { t.fab with heldReqs := t.fab.heldReqs.filter fun q => q != r } }
  | none =>
    if held then .refused (.notEnabled "PEER_REQUEST") else .next { s with fab := { s.fab with heldReqs := s.fab.heldReqs ++ [r] } }

/-- A remote request has waited too long for its reply (R389). -/
def State.requestLate (s : State) (q : RemoteReq) : Bool := !q.lost && q.got.isNone && q.deadline ≤ s.ticks

/-- PEER_TIMEOUT (R389): the request is abandoned, and its issuer takes PEER as a fault found in flight; a migration asks again. -/
def execPeerTimeout (s : State) : Out :=
  match s.fab.requests.find? fun q => q.num == s.sel.a && s.requestLate q with
  | none => .refused (.notEnabled "PEER_TIMEOUT")
  | some q => .next (s.requestBad q fcPEER)

end Sys2Proof.Machine
end

