-- ==== Sys2Proof/Machine/Tasks.lean ====
section
/-! DEFINITION. The dispatch engine (R271-R283, R292-R298): task control blocks, submission, commit holds, placement, active messages,
retirement, and the task instructions of user mode. -/

namespace Sys2Proof.Machine

/-! ### Control blocks -/

/-- Default values of a task record (R96). -/
def defaultViews : Word := 0x4000040002000000
def defaultSlack : List Nat := List.replicate 7 0xFFFF

/-- A virtual address (R21). -/
def properVirtual (a : Nat) : Bool := isVirtual (BitVec.ofNat 64 a) && virtualOk (BitVec.ofNat 64 a)

/-- A control block is malformed as far as its own bits show (R273). -/
def State.blockMalformed (s : State) (n : Nat) : Bool :=
  let f := fun hi lo => bitsOf n hi lo
  let w := 2 ^ f 17 15; let h := if f 20 18 = 7 then 24 else 2 ^ f 20 18
  f 1023 704 != 0 || f 133 128 != 0 || f 9 0 != 0 || bitAt n 63 || 5 < f 17 15 || f 20 18 == 5 || f 20 18 == 6 ||
  (f 20 18 == 7 && f 17 15 != 5) || !properVirtual (f 255 192) ||
  !(f 319 256 == 0 || properVirtual (f 319 256)) || !(f 383 320 == 0 || properVirtual (f 383 320)) ||
  !(f 447 384 == 0 || properVirtual (f 447 384)) || (f 319 256 == 0 && f 191 184 != 0) || (f 383 320 == 0 && f 183 176 != 0) ||
  f 255 192 % 8 != 0 || f 319 256 % 8 != 0 || f 383 320 % 16 != 0 || f 447 384 % 16 != 0 ||
  (!bitAt n 14 && f 13 10 != 0) ||
  (bitAt n 14 && !(s.domains.any fun d => d.level == 5 && d.id == f 13 10 && d.tid.toNat == f 63 32)) ||
  6144 < f 175 163 + f 162 150 || 128 < f 149 142 + f 141 134 || ((bitAt n 23 || bitAt n 25) && (16 < w || 8 < h))

/-- The view bases of a task record, as VIEWB holds them (R100, R140). -/
def recordViews (r : Nat) : Word :=
  BitVec.ofNat 64 (bitsOf r 319 304 * 2 ^ 48 + bitsOf r 335 320 * 2 ^ 32 + bitsOf r 351 336 * 2 ^ 16 + bitsOf r 367 352)

/-- A task record breaks the limits (R100, R273). -/
def recordMalformed (r : Nat) : Bool := bitsOf r 375 368 != 0 || bitsOf r 191 0 != 0 || !viewOk (recordViews r)

/-- The block as the table keeps it (R274): its bits, its successor list, its task record if it names one. -/
def blockOf (n : Nat) (succ : List Word) (rec : Option Nat) : Block :=
  let f := fun hi lo => bitsOf n hi lo
  { pc := BitVec.ofNat 64 (f 255 192)
    args := [f 511 448, f 575 512, f 639 576, f 703 640].map (BitVec.ofNat 64)
    slack := f 79 64
    viewb := (rec.map recordViews).getD defaultViews
    slktab := match rec with
      | some r => (List.range 7).map fun i => bitsOf r (207 + 16 * i) (192 + 16 * i)
      | none => defaultSlack
    w := 2 ^ f 17 15, h := if f 20 18 = 7 then 24 else 2 ^ f 20 18, k := 2 ^ f 22 21
    gang := bitAt n 23, prio := f 27 26, diemask := f 31 28, restart := bitAt n 24, reloc := bitAt n 25, preds := f 95 80
    succ := succ, inputs := [(f 383 320, f 183 176)], trace := f 127 96
    dmbase := f 175 163, dmsize := f 162 150, gmbase := f 149 142, gmsize := f 141 134
    pod := if bitAt n 14 then some (f 13 10) else none }

/-! ### Rectangles -/

/-- The origins of the aligned rectangles of a shape, ascending (R271). -/
def alignedOrigins (w h : Nat) : List Nat :=
  if h = 24 then [0]
  else (List.range 768).filter fun t => tileX t % w == 0 && tileY t % h == 0 && tileY t + h ≤ 24

/-- The tiles of a block's rectangle at an origin. -/
def Block.tiles (b : Block) (o : Nat) : List Nat := rectTiles o b.w b.h

/-- A die is in service (R433). -/
def State.dieServes (s : State) (d : Nat) : Bool := bitAt s.host.diesUp d

/-- A die is in service, or is still under self-test (R433). -/
def State.dieMay (s : State) (d : Nat) : Bool := s.dieServes d || bitAt s.host.pendingDies d

/-- A rectangle lies where the block may ever be placed (R273, R280, R433): allowed dies that may serve, no retired tile, one die where it
must. -/
def State.rectAllowed (s : State) (b : Block) (excluded : List Nat) (o : Nat) : Bool :=
  (b.tiles o).all (fun t => bitAt b.diemask (dieOfTile t) && s.dieMay (dieOfTile t) && !s.retired.contains t && !excluded.contains t) &&
  (!(b.gang || b.reloc) || (b.tiles o).all fun t => dieOfTile t == dieOfTile o)

/-- No rectangle could ever take the block (R273). -/
def State.unplaceable (s : State) (b : Block) : Bool := !((alignedOrigins b.w b.h).any fun o => s.rectAllowed b [] o)

/-- Contexts of a tile that belong to running tasks. -/
def State.busyOn (s : State) (t : Nat) : List Ctx := s.ctxs.filter fun c => c.key.tile == t && !c.stopped

/-- Numbers of the idle contexts of a tile, ascending. -/
def State.idleOn (s : State) (t : Nat) : List Nat := (List.range 8).filter fun n => !((s.busyOn t).any fun c => c.key.num == n)

/-- Image slots of a tile in use, apart from those of a task's own stopped contexts (R127). -/
def State.imagesOn (s : State) (t : Nat) (own : Nat) : Nat :=
  (s.ctxs.filter fun c => c.key.tile == t && !c.evicted && !(c.stopped && c.task == own)).length

/-- Numbers of a unit's domains that are free (R247). -/
def State.freeDomains (s : State) (level unit : Nat) : List Nat :=
  (List.range 16).filter fun i => (s.domain? level unit i).isNone

/-- The levels of the package at which a task has domains (R28). -/
def Block.levels (b : Block) (o : Nat) : List Nat :=
  (List.range (if b.pod.isSome then 4 else rectLevel o b.w b.h)).map fun i => i + 1

/-- The units of a level that a rectangle spans. -/
def unitsSpanned (level : Nat) (tiles : List Nat) : List Nat := (tiles.map (unitOf level)).dedup

/-- Some other task's reservation covers a tile (R281). -/
def State.reservedFor (s : State) (task tile : Nat) : Bool :=
  s.tasks.any fun t => t.num != task && (match t.reserved with
    | some (o, _, _) => (t.blk.tiles o).contains tile
    | none => false)

/-- Relocatable tasks have their tiles to themselves (R271, R280). -/
def State.exclusive (s : State) (task : Nat) (reloc : Bool) (tile : Nat) : Bool :=
  (s.busyOn tile).all fun c => c.task == task || (!reloc && !((s.task? c.task).any fun t => t.blk.reloc))

/-- A rectangle meets the conditions of placement that do not concern free contexts or reservations (R280, R281). -/
def State.rectFits (s : State) (t : Task) (o : Nat) : Bool :=
  s.rectAllowed t.blk t.excluded o && (t.blk.tiles o).all (fun n => s.dieServes (dieOfTile n)) && (t.blk.tiles o).all (s.exclusive t.num t.blk.reloc) &&
  (t.blk.levels o).all fun l => (unitsSpanned l (t.blk.tiles o)).all fun u => !(s.freeDomains l u).isEmpty

/-- A rectangle is a candidate (R280). -/
def State.isCandidate (s : State) (t : Task) (o : Nat) : Bool :=
  s.rectFits t o && (t.blk.tiles o).all fun n =>
    t.blk.k ≤ (s.idleOn n).length && s.imagesOn n t.num + t.blk.k ≤ 14 && !s.reservedFor t.num n

/-! ### Traces -/

/-- The trace mode: 0 off, 1 record, 2 bind (R292). -/
def State.traceMode (s : State) : Nat := bitsOf s.regs.trcctl.toNat 63 62 % 3

/-- Entries of a tile's trace that have been recorded or started. -/
def State.traceAt (s : State) (tile : Nat) : Nat := ((s.traceCount.find? fun x => x.1 == tile).map fun x => x.2).getD 0

/-- Where an entry of a tile's trace lies (R292). -/
def State.traceAddr (s : State) (tile n : Nat) : Nat :=
  bitsOf s.regs.trcctl.toNat 38 12 * 4096 + 8 * bitsOf s.regs.trcctl.toNat 61 40 * tile + 8 * n

/-- The next entry of a tile's trace in bind mode: index, origin, contexts. -/
def State.traceNext (s : State) (tile : Nat) : Option (Nat × Nat × List Nat) :=
  let n := s.traceAt tile
  if bitsOf s.regs.trcctl.toNat 61 40 ≤ n then none
  else
    let x := s.mem.num (s.traceAddr tile n) 8
    some (x % 2 ^ 32, bitsOf x 41 32, (List.range 8).filter fun i => bitAt x (42 + i))

/-- A task is the next entry of each of its tiles at an origin (R292). -/
def State.traceIsNext (s : State) (index k o : Nat) (tiles : List Nat) : Bool :=
  tiles.all fun n => match s.traceNext n with
    | some (i, p, cs) => i == index && p == o && cs.length == k
    | none => false

/-- In bind mode a start waits for its turn on each of its tiles, and for the recorded contexts (R292). -/
def State.traceAllows (s : State) (index k o : Nat) (tiles : List Nat) : Bool :=
  s.traceMode != 2 || (s.traceIsNext index k o tiles && tiles.all fun n => match s.traceNext n with
    | some (_, _, cs) => cs.all fun x => (s.idleOn n).contains x
    | none => false)

/-- The contexts that a start takes on a tile (R280, R292). -/
def State.chosen (s : State) (k tile : Nat) : List Nat :=
  if s.traceMode = 2 then ((s.traceNext tile).map fun x => x.2.2).getD [] else (s.idleOn tile).take k

/-- A start on a tile is recorded, or passed in the trace (R292). -/
def State.noteTrace (s : State) (index o tile : Nat) (cs : List Nat) : State :=
  let n := s.traceAt tile
  let next := (tile, n + 1) :: s.traceCount.filter fun x => x.1 != tile
  match s.traceMode with
  | 1 =>
    if bitsOf s.regs.trcctl.toNat 61 40 ≤ n then s
    else
      let mask := cs.foldl (fun m i => m + 2 ^ i) 0
      { s with mem := s.mem.write (s.traceAddr tile n) (bytesOf 8 (index + o * 2 ^ 32 + mask * 2 ^ 42)), traceCount := next }
  | 2 => { s with traceCount := next }
  | _ => s

/-! ### Placing and starting -/

/-- A task waits for a rectangle: it is ready, or it is to resume (R280, R281, R287). -/
def Task.waits (t : Task) : Bool := t.phase == .ready || (t.phase == .stopped && (t.resuming || t.target.isSome))

/-- It may be placed: a ready task that its own submission made ready is under hold first (R274). -/
def Task.wants (t : Task) : Bool := t.waits && t.hold.isNone

/-- Order in which the engine considers tasks (R280). -/
def Task.ahead (a b : Task) : Bool :=
  if a.blk.prio != b.blk.prio then b.blk.prio < a.blk.prio
  else if a.readyAt != b.readyAt then a.readyAt < b.readyAt else a.order ≤ b.order

/-- The origins that a waiting task may take: its reservation; its previous rectangle, or where it is moved to; any other. -/
def State.originsFor (_s : State) (t : Task) : List Nat :=
  match t.phase, t.target, t.reserved with
  | .stopped, some o, _ => [o]
  | .stopped, none, _ => [t.origin]
  | _, _, some (o, _, _) => [o]
  | _, _, none => alignedOrigins t.blk.w t.blk.h

/-- The rectangle that a waiting task would be placed on now (R280, R281, R287). -/
def State.originOf (s : State) (t : Task) : Option Nat :=
  (s.originsFor t).find? fun o => s.isCandidate t o && s.traceAllows t.blk.trace t.blk.k o (t.blk.tiles o)

/-- The task that the engine places next, and where (R280). -/
def State.nextPlaced (s : State) : Option (Task × Nat) :=
  let ws := sortBy Task.ahead (s.tasks.filter Task.wants)
  ws.findSome? fun t => (s.originOf t).map fun o => (t, o)

/-- Bind the lowest free domain of each unit that a rectangle spans; what a stop saved is restored, in the same order of units
(R260, R279, R287). -/
def State.bindUnits (s : State) (t : Task) (o : Nat) (saved : List Domain) : State :=
  let units := (t.blk.levels o).flatMap fun l => (unitsSpanned l (t.blk.tiles o)).map fun u => (l, u)
  let fresh := units.map fun x => (x, ((t.blk.tiles o).filter fun n => unitOf x.1 n == x.2).length * t.blk.k)
  let old := (t.blk.levels o).flatMap fun l => saved.filter fun d => d.level == l
  (fresh.zipIdx).foldl (init := s) fun s x =>
    let ((l, u), m) := x.1
    let id := (s.freeDomains l u).headD 0
    let d : Domain := match old[x.2]? with
      | some d => { d with unit := u, id := id }
      | none => { level := l, unit := u, id := id, task := t.num, tid := t.tid, members := m }
    { s with domains := s.domains ++ [d] }

/-- The value of STEPDOM for a context of a task on a tile (R248). -/
def State.stepdomFor (s : State) (task tile : Nat) : Word :=
  let ds := s.domains.filter fun d => d.task == task && (d.level == 5 || d.unit == unitOf d.level tile)
  BitVec.ofNat 64 (ds.foldl (fun x d => x + d.id * 2 ^ (4 * (d.level - 1)) + 2 ^ (23 + d.level)) 0)

/-- A context as it starts (R119, R279). -/
def startCtx (t : Task) (k : CtxKey) (rank : Nat) (dom : Word) : Ctx :=
  let c : Ctx := { key := k, task := t.num, rank := rank, pc := t.blk.pc, viewb := t.blk.viewb, slktab := t.blk.slktab, slk := t.blk.slack,
                   stepdom := dom, leader := t.blk.gang && rank == 0, follower := t.blk.gang && rank != 0, message := t.addr.isNone }
  { c with rf := (t.blk.args.zipIdx).foldl (fun m x => m.write (c.sbase + 8 * x.2) (bytesOf 8 x.1.toNat)) [] }

/-- Tell the fabric of this package's share of a pod domain, once (R279, R390): it goes to every other package and counts
here. -/
def State.announceShare (s : State) (t : Task) : State :=
  match t.blk.pod with
  | none => s
  | some id =>
    match s.domain? 5 0 id with
    | none => s
    | some d =>
      let me := s.regs.podpackage
      if d.shares.any fun x => x.1 == me then s.updDomains d.is fun e => { e with task := t.num }
      else
        let n := t.blk.w * t.blk.h * t.blk.k
        let note : ShareNote := { package := me, domain := id, share := n, task := d.tid, members := d.members }
        let s := s.updDomains d.is fun e => { e with task := t.num, shares := e.shares ++ [(me, n)] }
        ((List.range s.regs.podsize).filter fun p => p != me).foldl (fun s p => s.sendFrom (dieAnchor 0) 0 6 p 6 0xFFFF false 64 (.share note)) s

/-- Place a ready task on a rectangle: bind its domains and start its contexts (R279, R280). -/
def State.placeTask (s : State) (t : Task) (o : Nat) : State :=
  let picks := (t.blk.tiles o).map fun n => (n, s.chosen t.blk.k n)
  let s := picks.foldl (fun s x => s.noteTrace t.blk.trace o x.1 x.2) s
  let t := { t with phase := .running, origin := o, home := o, reserved := none, hold := none }
  let s := ((s.updTask t.num fun _ => t).bindUnits t o []).announceShare t
  let cs := picks.zipIdx.flatMap fun x => x.1.2.zipIdx.map fun y =>
    startCtx t { tile := x.1.1, num := y.1 } (x.2 * t.blk.k + y.2) (s.stepdomFor t.num x.1.1)
  { s with ctxs := s.ctxs ++ cs }

/-- TASK_PLACEMENT (R279, R280). -/
def execTaskPlacement (s : State) : Out :=
  match s.nextPlaced with
  | some (t, o) =>
    if t.num = s.sel.a ∧ t.phase = .ready then .next (s.placeTask t o) else .refused (.notEnabled "TASK_PLACEMENT")
  | none => .refused (.notEnabled "TASK_PLACEMENT")

/-- Busy contexts of a rectangle (R281). -/
def State.busyIn (s : State) (t : Task) (o : Nat) : Nat := ((t.blk.tiles o).map fun n => (s.busyOn n).length).sum

/-- The rectangle that a reservation takes (R281). -/
def State.reservationFor (s : State) (t : Task) : Option Nat :=
  let origins := if t.phase = .stopped then [t.target.getD t.origin] else alignedOrigins t.blk.w t.blk.h
  let free := origins.filter fun o => s.rectFits t o && (t.blk.tiles o).all fun n => !s.reservedFor t.num n
  let rec least : List Nat → Option Nat
    | [] => none
    | o :: r => match least r with
      | none => some o
      | some p => if s.busyIn t p < s.busyIn t o then some p else some o
  least free

/-- The limits of PLACECTL (R282). -/
def State.placeWait (s : State) : Nat := s.regs.placectl.toNat % 2 ^ 32
def State.placeLimit (s : State) : Nat := bitsOf s.regs.placectl.toNat 63 32

/-- RESERVATION (R281). -/
def execReservation (s : State) : Out :=
  match s.task? s.sel.a with
  | some t =>
    if t.waits && t.reserved.isNone && t.readyAt + s.placeWait ≤ s.ticks then
      match s.reservationFor t with
      | some o => .next (s.updTask t.num fun t => { t with reserved := some (o, s.ticks, false) })
      | none => .refused (.notEnabled "RESERVATION")
    else .refused (.notEnabled "RESERVATION")
  | none => .refused (.notEnabled "RESERVATION")

/-- The detail of a dispatch engine's record (R293). -/
def dispatchDetail (event addr tile : Nat) : Nat := 2 * 2 ^ 176 + event * 2 ^ 168 + addr % 2 ^ 64 * 2 ^ 104 + tile * 2 ^ 94

/-- Raise a record for a task (R293). -/
def State.dispatchRecord (s : State) (event : Nat) (t : Task) (tile : Nat) : State :=
  s.postEngine none t.tid 0 (dispatchDetail event ((t.addr.map fun a => a.toNat).getD 0) tile)

/-- PLACEMENT_STALL (R281). -/
def execPlacementStall (s : State) : Out :=
  match s.task? s.sel.a with
  | some t => match t.reserved with
    | some (o, since, false) =>
      if since + s.placeLimit ≤ s.ticks then
        .next ((s.updTask t.num fun t => { t with reserved := some (o, since, true) }).dispatchRecord 1 t o)
      else .refused (.notEnabled "PLACEMENT_STALL")
    | _ => .refused (.notEnabled "PLACEMENT_STALL")
  | none => .refused (.notEnabled "PLACEMENT_STALL")

/-- TRACE_MISS (R292). -/
def execTraceMiss (s : State) : Out :=
  match s.task? s.sel.a with
  | some t =>
    if s.traceMode = 2 ∧ t.waits ∧ !t.traceTold ∧ t.readyAt + s.placeLimit ≤ s.ticks ∧
        !((s.originsFor t).any fun o => s.traceIsNext t.blk.trace t.blk.k o (t.blk.tiles o)) then
      .next ((s.updTask t.num fun t => { t with traceTold := true }).dispatchRecord 8 t t.origin)
    else .refused (.notEnabled "TRACE_MISS")
  | none => .refused (.notEnabled "TRACE_MISS")

/-! ### Readiness and retirement -/

/-- A task has become ready (R274, R275). -/
def State.makeReady (s : State) (task : Nat) : State :=
  let (q, s) := s.fresh
  s.updTask task fun t => { t with phase := .ready, hold := none, readyAt := s.ticks, order := q }

/-- PREDECESSOR_DECREMENT (R275): the decrement that has waited longest is applied. -/
def execPredecessorDecrement (s : State) : Out :=
  match s.decrements with
  | [] => .refused (.notEnabled "PREDECESSOR_DECREMENT")
  | d :: r =>
    let s := { s with decrements := r }
    match s.tasks.find? fun t => t.addr == some d.addr with
    | some t =>
      if t.count = 0 then .next (s.postEngine none d.tid 0 (dispatchDetail 2 d.addr.toNat d.origin))
      else
        let s := s.updTask t.num fun t => { t with count := t.count - 1 }
        .next (if t.count = 1 then s.makeReady t.num else s)
    | none => .next (s.postEngine none d.tid 0 (dispatchDetail 2 d.addr.toNat d.origin))

/-- Nothing of a task is still on its way: no context, no work that runs beside one. -/
def State.taskIdle (s : State) (n : Nat) : Bool :=
  s.ctxs.all (fun c => c.task != n) &&
  s.tiles.all (fun t => t.channels.all (fun ch => ch.task != n || ch.isFree) && t.mq.all (fun m => m.task != n) &&
    t.mqSaved.all (fun m => m.task != n)) &&
  s.bd.cmds.all (fun m => m.task != n) && s.fab.fsends.all (fun m => m.task != n) &&
  s.fab.colls.all (fun m => m.task != n || m.status.isSome)

/-- A tile on which no context remains forgets which of its bytes were barrier records. -/
def State.forgetRecords (s : State) : State :=
  { s with tiles := s.tiles.map fun t => if s.ctxs.any fun c => c.key.tile == t.num then t else { t with bcPhases := [] } }

/-- The domains of a task below the pod are freed (R247, R276); in a pod domain it has no members here any more. -/
def State.freeDomainsOf (s : State) (n : Nat) : State :=
  { s with domains := s.domains.filter fun d => d.task != n || d.level == 5 }

/-- All staged writes of a task are committed (R36). Where no step end did so, conflicts are resolved as one would (R39). -/
def State.commitTask (s : State) (n : Nat) : State :=
  let mine := s.staged.filter fun e => e.party.task == n && e.party.pkg.isNone
  let kept := dropLosers (conflictsOf 5 mine) mine
  let dom := (s.domains.find? fun d => d.task == n && d.level == 5).map fun d => d.id
  ({ s with staged := s.staged.filter fun e => !(e.party.task == n && e.party.pkg.isNone) }).commit kept dom

/-- A staged write of a task on this package: what its retirement commits (R36). -/
def Staged.ofTask (e : Staged) (n : Nat) : Bool := e.party.task == n && e.party.pkg.isNone

/-- TASK_RETIRE (R276); a commitment to a page on the move waits (R341). -/
def execTaskRetire (s : State) : Out :=
  match s.task? s.sel.a with
  | some t =>
    if t.phase = .running ∧ t.stopping.isEmpty ∧ s.taskIdle t.num ∧ s.writesBlocked (fun e => e.ofTask t.num) then
      let noted := s.noteWrites fun e => e.ofTask t.num
      if noted != s then .next noted else .refused (.notEnabled "TASK_RETIRE")
    else if t.phase = .running ∧ t.stopping.isEmpty ∧ s.taskIdle t.num then
      let s := (s.commitTask t.num).freeDomainsOf t.num
      let tiles := s.tiles.map fun u => { u with pausedCopies := u.pausedCopies.filter fun p => p.task != t.num,
                                                 ibuf := u.ibuf.filter fun x => x.task != t.num }
      let defs := s.deferred.map fun x => if x.task = t.num then { x with ripe := true } else x
      let dec := t.blk.succ.map fun a => { addr := a, tid := t.tid, origin := t.origin : Decrement }
      let s := { s with tasks := s.tasks.filter fun u => u.num != t.num, tiles := tiles, deferred := defs,
                        decrements := s.decrements ++ dec, hostOld := s.hostOld.filter fun h => h.task != t.num }
      .next s.forgetRecords
    else .refused (.notEnabled "TASK_RETIRE")
  | none => .refused (.notEnabled "TASK_RETIRE")

/-! ### Deferred effects and active messages -/

/-- A message of 32 bytes (R277); none where its tile or a reserved field is out of range. -/
def messageOf (num : Nat) (bs : List Byte) (fromHost : Bool) : Option Msg :=
  let n := numOf bs
  if bitsOf n 31 22 < 768 ∧ bitsOf n 19 0 = 0 then
    some { num := num, arg0 := BitVec.ofNat 64 (bitsOf n 191 128), arg1 := BitVec.ofNat 64 (bitsOf n 255 192), pc := BitVec.ofNat 64 (bitsOf n 127 64),
           slack := bitsOf n 63 48, tag := bitsOf n 47 32, tile := bitsOf n 31 22, prio := bitsOf n 21 20, fromHost := fromHost }
  else none

/-- A tile's message queue is full: a sender is held (R278). -/
def State.messagesFull (s : State) (tile : Nat) : Bool := 16 ≤ (s.tile tile).msgq.length

/-- A message sets out from a tile (R278). -/
def State.sendMessage (s : State) (m : Msg) (src : Nat) : State :=
  ({ s with messages := s.messages ++ [m] }).send { owner := .message m, vc := 0, slack := m.slack, flits := flitsOf 32, src := src, goal := tileGoal m.tile }

/-- COMMIT_HOLD_END (R274): the first deferred effect of a context takes effect; a message waits for room in its tile's queue (R278). -/
def execCommitHoldEnd (s : State) : Out :=
  match s.deferred.find? fun x => x.task == s.sel.a && x.rank == s.sel.b with
  | some x =>
    if x.ripe then
      let s := { s with deferred := s.deferred.filter fun y => y != x }
      match x.what with
      | .tcb n => .next (s.updTask n fun t => { t with hold := none })
      | .decrement a => .next { s with decrements := s.decrements ++ [{ addr := a, tid := x.tid, origin := x.origin }] }
      | .message bs =>
        let (q, s) := s.fresh
        match messageOf q bs false with
        | some m => if s.messagesFull m.tile then .refused (.notEnabled "COMMIT_HOLD_END") else .next (s.sendMessage m x.origin)
        | none => .next s
    else .refused (.notEnabled "COMMIT_HOLD_END")
  | none => .refused (.notEnabled "COMMIT_HOLD_END")

/-- ACTIVE_MESSAGE_ARRIVAL (R278): a message enters the queue of its tile, of 16 entries. -/
def execActiveMessageArrival (s : State) : Out :=
  match s.messages[s.sel.a]? with
  | some m =>
    if s.packetsDone (.message m) && !s.messagesFull m.tile then
      let s := ({ s with messages := dropAt s.messages s.sel.a }).dropPackets (.message m)
      .next (s.updTile m.tile fun t => { t with msgq := t.msgq ++ [m] })
    else .refused (.notEnabled "ACTIVE_MESSAGE_ARRIVAL")
  | none => .refused (.notEnabled "ACTIVE_MESSAGE_ARRIVAL")

/-- The message that a tile's queue serves next: the highest priority, then the first to arrive (R278). -/
def headMessage (q : List Msg) : Option Msg :=
  [3, 2, 1, 0].findSome? fun p => q.find? fun m => m.prio == p

/-- A message's start is possible (R278, R292). -/
def State.messageStarts (s : State) (m : Msg) : Bool :=
  let n := m.tile
  s.dieServes (dieOfTile n) && !(s.idleOn n).isEmpty && (s.ctxs.filter fun c => c.key.tile == n && !c.evicted).length < 14 && !(s.freeDomains 1 n).isEmpty &&
  !(s.tasks.any fun t => match t.reserved with
    | some (o, _, _) => (t.blk.tiles o).contains n
    | none => false) && s.exclusive 0 false n && s.traceAllows 0xFFFFFFFF 1 n [n]

/-- ACTIVE_MESSAGE_START (R278): a task of one context. -/
def execActiveMessageStart (s : State) : Out :=
  let q := (s.tile s.sel.a).msgq
  match headMessage q with
  | some m =>
    if s.messageStarts m then
      let (id, s) := s.fresh
      let blk : Block :=
        { pc := m.pc, args := [m.arg0, m.arg1], slack := m.slack, viewb := defaultViews, slktab := defaultSlack, w := 1, h := 1, k := 1,
          gang := false, prio := m.prio, diemask := 15, restart := false, reloc := false, preds := 0, succ := [], inputs := [],
          trace := 0xFFFFFFFF, dmbase := 0, dmsize := 0, gmbase := 0, gmsize := 0, pod := none }
      let t : Task := { num := id + 1, tid := BitVec.ofNat 32 (2 ^ 31 + m.tile * 65536 + m.tag), addr := none, blk := blk, phase := .ready,
                        count := 0, readyAt := s.ticks, order := id, origin := m.tile, home := m.tile }
      let s := (s.updTile s.sel.a fun u => { u with msgq := u.msgq.filter fun x => x != m })
      .next (({ s with tasks := s.tasks ++ [t] }).placeTask t m.tile)
    else .refused (.notEnabled "ACTIVE_MESSAGE_START")
  | none => .refused (.notEnabled "ACTIVE_MESSAGE_START")

/-! ### Instructions of user mode -/

/-- A context with 16 deferred effects stalls (R274). -/
def deferGate (s : State) (c : Ctx) : Try Unit :=
  if 16 ≤ (s.deferred.filter fun x => x.task == c.task && x.rank == c.rank).length then stall s else .ok ()

/-- Defer an effect until the commit hold ends (R274). While an arrival at the top level is outstanding the writes before the effect belong to
the step that follows (R31), whose completion ends the hold. -/
def State.defer (s : State) (c : Ctx) (what : Deferred) : State :=
  let (q, s) := s.fresh
  let origin := ((s.task? c.task).map fun t => t.origin).getD c.key.tile
  let after := match c.arrival with
    | some a => a.done.isNone && a.level == s.topLevel c.task
    | none => false
  { s with deferred := s.deferred ++
      [{ task := c.task, rank := c.rank, origin := origin, seq := q, after := after, ripe := false, tid := s.tidOf c.task, what := what }] }

/-- SPAWN (R295). -/
def execSpawn (w : FormX) (s : State) : Out :=
  runUniform s w.h false none [w.a] fun s c => do
    let a ← readVal c w.a
    let r ← checkPrivate a 32 32 0 false true
    requireAt (r == .localMem) fcPROTECT a
    let k := localKey c.key.tile a.toNat
    s.waitFree c { virt := false, lo := k, len := 32 } false
    let bs := s.readLoc c false k 32
    let (q, s') := s.fresh
    match messageOf q bs false with
    | none => faultAt fcUNMAPPED a
    | some m =>
      if w.sub.getLsbD 0 then
        if s.messagesFull m.tile then stall s
        return { s := s'.sendMessage m c.key.tile, c := c.clearLatch }
      deferGate s c
      return { s := s.defer c (.message bs), c := c.clearLatch }

/-- The address of a control block: virtual and 128-byte aligned (R295, R296). -/
def blockAddr (c : Ctx) (o : Operand) : Try Word := do
  let a ← readVal c o
  requireAt (properVirtual a.toNat) fcUNMAPPED a
  requireAt (a.toNat % 128 == 0) fcALIGN a
  return a

/-- TDONE (R295). -/
def execTdone (w : FormX) (s : State) : Out :=
  runUniform s w.h false none [w.a] fun s c => do
    let a ← blockAddr c w.a
    deferGate s c
    return { s := s.defer c (.decrement a), c := c.clearLatch }

/-- Bytes that the dispatch engine reads for a context (R274). No rule gives a read of a control block in a peer page an effect:
log entry 23. -/
def readBlock (s : State) (c : Ctx) (a : Word) (n : Nat) : Try (List Byte) := do
  if n = 0 || !properVirtual a.toNat then return []
  let ps ← s.accessPieces c a n 1 false (c.slktab.headD 0xFFFF) 0
  requireAt (ps.all fun p => p.peer.isNone) fcUNMAPPED a
  return ps.flatMap fun p => s.readLoc c false p.key p.len

/-- The status of a submission after the block has been read (R294, R296). -/
def State.submitStatus (s : State) (a : Word) (malformed : Bool) (b : Block) : Nat :=
  if malformed then 1 else if s.tasks.any fun t => t.addr == some a then 4 else if s.unplaceable b then 2
  else if 65536 ≤ (s.tasks.filter fun t => t.addr.isSome).length then 3 else 0

/-- A block enters the table (R274): waiting, or ready from now on, though a hold may keep it from being placed. -/
def State.submit (s : State) (a : Word) (tid : BitVec 32) (b : Block) (holder : Option Holder) : Nat × State :=
  let (q, s) := s.fresh
  let t : Task := { num := q + 1, tid := tid, addr := some a, blk := b, phase := if b.preds = 0 then .ready else .waiting, count := b.preds,
                    readyAt := s.ticks, order := q, hold := if b.preds = 0 then holder else none }
  (q + 1, { s with tasks := s.tasks ++ [t] })

/-- The words of a list in memory. -/
def wordsOf (bs : List Byte) (n : Nat) : List Word := (List.range n).map fun i => BitVec.ofNat 64 (numOf ((bs.drop (8 * i)).take 8))

/-- TCBRDY (R296): the faults in reading the block, its successor list and its task record come before the status, of a malformed block too. -/
def execTcbrdy (w : FormX) (s : State) : Out :=
  runUniform s w.h false (some w.a) [w.b] fun s c => do
    let a ← blockAddr c w.b
    let bs ← readBlock s c a 128
    let n := numOf bs
    let nsucc := bitsOf n 191 184
    let ss ← readBlock s c (BitVec.ofNat 64 (bitsOf n 319 256)) (8 * nsucc)
    let rc := bitsOf n 447 384
    let rs ← readBlock s c (BitVec.ofNat 64 rc) (if rc = 0 then 0 else 64)
    let b := blockOf n (wordsOf ss nsucc) (if rc = 0 then none else some (numOf rs))
    let st := s.submitStatus a (s.blockMalformed n || (rc != 0 && recordMalformed (numOf rs))) b
    if st = 0 ∧ b.preds = 0 then deferGate s c
    let c ← writeVal s c w.a (BitVec.ofNat 64 st)
    if st ≠ 0 then return { s := s, c := c }
    let (id, s) := s.submit a (BitVec.ofNat 32 (bitsOf n 63 32)) b (some { task := c.task, rank := c.rank })
    return { s := if b.preds = 0 then s.defer c (.tcb id) else s, c := c }

/-- TASKID (R297). -/
def execTaskid (w : FormX) (s : State) : Out :=
  runValue s w.h w.a [] fun s c => .ok (match s.task? c.task with
    | some t => (BitVec.ofNat 64 (t.tid.toNat + t.blk.prio * 2 ^ 32 + b2n t.blk.restart * 2 ^ 34 + b2n t.blk.reloc * 2 ^ 35 +
        b2n t.rerun * 2 ^ 36), 0)
    | none => (0, 0))

/-- RANKRD (R297). -/
def execRankrd (w : FormX) (s : State) : Out := runValue s w.h w.a [] fun _ c => .ok (BitVec.ofNat 64 c.rank, 0)

/-- RANKRD.SHAPE (R297). -/
def execRankrdShape (w : FormX) (s : State) : Out :=
  runValue s w.h w.a [] fun s c => .ok (match s.task? c.task with
    | some t => (BitVec.ofNat 64 (t.blk.w + t.blk.h * 2 ^ 8 + t.blk.k * 2 ^ 16 + b2n t.blk.gang * 2 ^ 24), 0)
    | none => (0, 0))

end Sys2Proof.Machine
end

