-- ==== Sys2Proof/Machine/Preempt.lean ====
section
/-! DEFINITION. Stopping, resuming, moving and ending tasks (R284-R291, R298), and the hardware errors that lead to it (R129, R291,
R437). -/

namespace Sys2Proof.Machine

/-! ### Stopping -/

/-- An active copy pauses and leaves its channel free for others (R234). -/
def Channel.pause (ch : Channel) : Channel := { ch with state := .paused, copy := none, image := none, pages := [] }

/-- The work of a task's contexts on a tile is put aside (R234, R284, R320). -/
def Tile.putAside (t : Tile) (task : Nat) : Tile :=
  let active := fun (ch : Channel) => ch.task == task && ch.state == .active
  let aside := (t.channels.filter active).map fun ch => { ch with state := .paused }
  { t with channels := t.channels.map fun ch => if active ch then ch.pause else ch, pausedCopies := t.pausedCopies ++ aside,
           mq := t.mq.filter fun m => m.task != task, mqSaved := t.mq.filter (fun m => m.task == task) ++ t.mqSaved,
           resident := t.resident.filter fun r => r.1 != task, ibuf := t.ibuf.filter fun x => x.task != task }

/-- The bound of an engine wait does not run while its context is stopped (R214): what is left of it. -/
def Ctx.pauseWait (c : Ctx) (now : Nat) : Ctx :=
  match c.wait with
  | .engine (some d) => { c with wait := .engine (some (d - now)) }
  | _ => c

/-- What a resumed context waits for (R121, R287): the bound of an engine wait runs again, a marked instruction's park and a supervisor
instruction's action go on; else it parks until its results have returned and then executes again what it was at, a WFE with its whole limit and
a YIELD from the start (R146, R147). -/
def Ctx.goOnWait (c : Ctx) (now : Nat) : Ctx :=
  match c.wait with
  | .engine (some d) => { c with wait := .engine (some (d + now)) }
  | .engine none | .drain _ | .action => c
  | .none | .park | .wfe _ _ | .yield _ | .entry | .resume => { c with wait := .resume }

/-- STOP takes effect on a tile (R284): the task's contexts there stop, between instructions or in their waits. -/
def State.stopTile (s : State) (task tile : Nat) : State :=
  let mine := s.ctxs.filter fun c => c.task == task && c.key.tile == tile && !c.stopped
  let s := mine.foldl (fun s c => s.forgetWalks c.key) s
  let s := s.updTile tile fun t => t.putAside task
  let halt := fun (c : Ctx) => { c.pauseWait s.ticks with stopped := true, want := none }
  { s with ctxs := s.ctxs.map fun c => if c.task == task && c.key.tile == tile && !c.stopped then halt c else c }

/-- Every context of a task has stopped: the step state of its domains is saved (R260, R284). -/
def State.stopped (s : State) (n : Nat) : State :=
  let ds := s.domains.filter fun d => d.task == n && d.level != 5
  let s := s.updTask n fun t => { t with phase := .stopped, saved := ds, stopping := [], reserved := none }
  s.freeDomainsOf n

/-! ### Ending -/

/-- The numbers under which the work of contexts translates and sends packets. -/
def State.workIds (s : State) (mine : Nat → Nat → Bool) : List Nat :=
  (s.tiles.flatMap fun t => ((t.channels ++ t.pausedCopies).filter fun ch => mine ch.task ch.rank && !ch.isFree).map fun ch => ch.work) ++
  ((s.bd.cmds.filter fun m => mine m.task m.rank).map fun m => m.id) ++ ((s.fab.colls.filter fun m => mine m.task m.rank).map fun m => m.idx)

/-- What a task still has under way is discarded (R288); its packets in flight go on (R117), and a migration that one of its contexts waited for goes
on without it. -/
def State.dropWork (s : State) (mine : Nat → Nat → Bool) : State :=
  let ids := (s.ctxs.filter fun c => mine c.task c.rank).flatMap fun c => c.outstanding.map fun t => t.id
  let works := s.tiles.flatMap fun t => ((t.channels ++ t.pausedCopies).filter fun ch => mine ch.task ch.rank && !ch.isFree).map fun ch => ch.work
  let clear := fun (ch : Channel) => if mine ch.task ch.rank && !ch.isFree then ({ num := ch.num } : Channel) else ch
  let strip := fun (t : Tile) =>
    { t with channels := t.channels.map clear, pausedCopies := t.pausedCopies.filter fun ch => !mine ch.task ch.rank,
             mq := t.mq.filter fun m => !mine m.task m.rank, mqSaved := t.mqSaved.filter fun m => !mine m.task m.rank }
  let tiles := s.tiles.map strip
  let s := (s.workIds mine).foldl (fun s i => s.forgetSeeker (.work i)) s
  let left := fun (m : Migration) => if m.ctx.any fun i => mine i.task i.rank then { m with ctx := none } else m
  let migrations := (s.xlat.migrations.map left).filter fun m => m.ctx.isSome || m.status.isNone
  let f := s.fab
  let f := { f with requests := f.requests.filter fun r => !(ids.contains r.id || works.contains r.id),
                    fsends := f.fsends.filter fun m => !mine m.task m.rank, colls := f.colls.filter fun m => !mine m.task m.rank,
                    lists := f.lists.filter fun m => m.closed || !mine m.task m.rank }
  let cmds := s.bd.cmds.filter fun m => !mine m.task m.rank
  { s with tiles := tiles, bd := { s.bd with cmds := cmds }, fab := f, xlat := { s.xlat with migrations := migrations } }.sweep

/-- The contexts of a task, and what they have staged, are gone (R288, R291). -/
def State.dropTaskState (s : State) (n : Nat) : State :=
  let s := s.dropWork fun t _ => t == n
  let keys := (s.ctxs.filter fun c => c.task == n).map fun c => c.key
  let s := keys.foldl (fun s k => s.forgetWalks k) s
  let ranks := (s.ctxs.filter fun c => c.task == n).map fun c => n * 65536 + c.rank
  let tiles := s.tiles.map fun t => { t with ibuf := t.ibuf.filter fun x => x.task != n }
  -- writes that wait for no step end are in memory (R32)
  let s := s.commit (s.staged.filter fun e => e.party.task == n && e.pool == 9) none
  let staged := s.staged.filter fun e => !(e.party.task == n && e.party.pkg.isNone)
  let s := { s with staged := staged, ctxs := s.ctxs.filter fun c => c.task != n, hostOld := s.hostOld.filter fun h => h.task != n,
                    saved := s.saved.filter fun x => !ranks.contains x.1, tiles := tiles }
  (s.freeDomainsOf n).forgetRecords

/-- The code that a removed member raises (R259, R288). -/
def removalCode (c : Ctx) : Nat := if c.faulted = some fcSTAGINGFULL then 0x83 else 0x81

/-- The deferred effects of a task whose commit hold has not ended are discarded, with the tasks that they would make ready (R274,
R288). -/
def State.dropDeferred (s : State) (n : Nat) : State :=
  let held := s.deferred.filter fun x => x.task == n && !x.ripe
  let subs := held.filterMap fun x => match x.what with
    | .tcb m => some m
    | _ => none
  { s with tasks := s.tasks.filter fun u => !subs.contains u.num, deferred := s.deferred.filter fun x => !(x.task == n && !x.ripe) }

/-- Terminate a task (R288). -/
def State.terminate (s : State) (n : Nat) : State :=
  match s.task? n with
  | none => s
  | some t =>
    let s := (s.ctxs.filter fun c => c.task == n).foldl (fun s c => (s.arrivalReached c).getD s) s
    let gone := (s.ctxs.filter fun c => c.task == n).map fun c => (c.rank, Absence.removed (removalCode c))
    let s := s.updDomains (fun d => d.task == n && d.level == 5) fun d => { d with absent := d.absent ++ gone }
    let s := (s.dropTaskState n).dropDeferred n
    { s with tasks := s.tasks.filter fun u => u.num != n }.dispatchRecord 4 t t.origin

/-- The task's last tile has stopped: what the stop was for follows (R284, R288). -/
def State.afterStop (s : State) (t : Task) : State :=
  let s := s.stopped t.num
  if t.afterStop = 1 then s.terminate t.num else s

/-- TASK_STOP (R284): STOP reaches a tile. -/
def execTaskStop (s : State) : Out :=
  match s.task? s.sel.a with
  | some t =>
    if t.stopping.contains s.sel.b ∧ s.packetsDone (.stop t.num s.sel.b) then
      let s := (s.dropPackets (.stop t.num s.sel.b)).stopTile t.num s.sel.b
      let rest := t.stopping.filter fun n => n != s.sel.b
      let s := s.updTask t.num fun t => { t with stopping := rest }
      .next (if rest.isEmpty then s.afterStop t else s)
    else .refused (.notEnabled "TASK_STOP")
  | none => .refused (.notEnabled "TASK_STOP")

/-- Begin to stop a task (R284): STOP goes on VC7 to each of its tiles (R16, R111). -/
def State.beginStop (s : State) (n after : Nat) : State :=
  let tiles := ((s.task? n).map fun t => t.blk.tiles t.origin).getD []
  let s := s.updTask n fun t => { t with stopping := tiles, afterStop := after }
  tiles.foldl (fun s m => s.send { owner := .stop n m, vc := 7, slack := 0xFFFF, src := dieAnchor 0, goal := tileGoal m }) s

/-- Stop a task at once, as the handling of an error does (R291). -/
def State.stopNow (s : State) (t : Task) : State :=
  ((t.blk.tiles t.origin).foldl (fun s n => s.stopTile t.num n) s).stopped t.num

/-! ### Images -/

/-- A start that needs a context on a tile finds no free image slot there (R286). -/
def State.slotWanted (s : State) (tile : Nat) : Bool :=
  let lacks := fun (own k : Nat) => k ≤ (s.idleOn tile).length && 14 < s.imagesOn tile own + k
  (s.tasks.any fun t => t.wants && bitAt t.blk.diemask (dieOfTile tile) && lacks t.num t.blk.k) ||
  (!(s.tile tile).msgq.isEmpty && lacks 0 1)

/-- The lowest free unit of the save pool (R286). -/
def State.freeSave (s : State) : Option Nat :=
  (List.range (min (bitsOf s.regs.savepool.toNat 63 44) (s.saved.length + 1))).find? fun u => !(s.saved.any fun x => x.2 == u)

/-- Bytes of an image in the save pool: the spec gives its size and no layout. Log entry 24. -/
def poolBytes (draw n : Nat) : List Byte := (List.range n).map fun i => (Config.freeWord (draw + i)).truncate 8

/-- IMAGE_EVICT (R286). -/
def execImageEvict (s : State) : Out :=
  let who := s.ctxs.find? fun c => c.key == s.sel.ctx && c.stopped && !c.evicted && s.slotWanted c.key.tile
  match who, s.freeSave with
  | some c, some u =>
    let base := bitsOf s.regs.savepool.toNat 38 16 * 65536 + u * 65536
    let s := { s with mem := s.mem.write base (poolBytes s.free 65536), free := s.free + 65536, saved := s.saved ++ [(c.task * 65536 + c.rank, u)] }
    .next (s.updCtx c fun c => { c with evicted := true, lines := [] })
  | _, _ => .refused (.notEnabled "IMAGE_EVICT")

/-! ### Resuming -/

/-- References to a context follow it to another place. -/
def State.rekey (s : State) (old new : Ctx) : State :=
  if old.key = new.key then s
  else
    let ids := old.outstanding.map fun t => t.id
    let own := fun (t r : Nat) => t == old.task && r == old.rank
    let f := s.fab
    let works := (s.channelsOf old).map fun ch => ch.work
    let requests := f.requests.map fun r => if ids.contains r.id || works.contains r.id then { r with ctx := new.key } else r
    let fsends := f.fsends.map fun m => if own m.task m.rank then { m with ctx := new.key } else m
    let colls := f.colls.map fun m => if own m.task m.rank then { m with ctx := new.key } else m
    let lists := f.lists.map fun m => if own m.task m.rank then { m with ctx := new.key } else m
    let cmds := s.bd.cmds.map fun m => if own m.task m.rank then { m with ctx := new.key } else m
    { s with bd := { s.bd with cmds := cmds },
             fab := { f with requests := requests, fsends := fsends, colls := colls, lists := lists } }

/-- The copies and commands of a context come back to its tile's engines, with its number (R234, R320). -/
def Tile.takeBack (t : Tile) (task : Nat) (cs : List Ctx) : Tile :=
  let num := fun (r : Nat) (n : Nat) => ((cs.find? fun c => c.rank == r).map fun c => c.key.num).getD n
  let chan := fun (ch : Channel) => if ch.task = task then { ch with owner := num ch.rank ch.owner } else ch
  let cmd := fun (m : MxCmd) => { m with ctx := { tile := t.num, num := num m.rank m.ctx.num } }
  { t with channels := t.channels.map chan, pausedCopies := t.pausedCopies.map chan,
           mqSaved := t.mqSaved.map fun m => if m.task = task then cmd m else m }

/-- A stopped task runs again on a rectangle (R287): new contexts, domains bound afresh with their saved state. -/
def State.resumeAt (s : State) (t : Task) (o : Nat) : State :=
  let tiles := t.blk.tiles o
  let picks := tiles.map fun n => s.chosen t.blk.k n
  let s := (tiles.zip picks).foldl (fun s x => s.noteTrace t.blk.trace o x.1 x.2) s
  let s := s.updTask t.num fun t =>
    { t with phase := .running, origin := o, resuming := false, target := none, reserved := none, saved := [], afterStop := 0 }
  let s := s.bindUnits t o t.saved
  let place := fun (c : Ctx) =>
    let i := c.rank / t.blk.k
    let n := tiles.getD i c.key.tile
    let k : CtxKey := { tile := n, num := (picks.getD i []).getD (c.rank % t.blk.k) c.key.num }
    let c := c.goOnWait s.ticks
    { c with key := k, stopped := false, evicted := false, stepdom := s.stepdomFor t.num n, lines := if c.key = k ∧ !c.evicted then c.lines else [] }
  let old := s.ctxs.filter fun c => c.task == t.num
  let s := old.foldl (fun s c => s.rekey c (place c)) s
  let s := { s with ctxs := s.ctxs.map fun c => if c.task = t.num then place c else c,
                    saved := s.saved.filter fun x => x.1 / 65536 != t.num }
  let s : State := tiles.foldl (fun s n => s.updTile n fun u => u.takeBack t.num (s.ctxs.filter fun c => c.task == t.num)) s
  (s.ctxs.filter fun c => c.task == t.num).foldl (fun s c => s.settle (s.again c)) s

/-- TASK_RESUME (R287): a stopped task is placed on its previous rectangle. -/
def execTaskResume (s : State) : Out :=
  match s.nextPlaced with
  | some (t, o) =>
    if t.num = s.sel.a ∧ t.phase = .stopped ∧ t.resuming ∧ t.target.isNone then .next (s.resumeAt t o)
    else .refused (.notEnabled "TASK_RESUME")
  | none => .refused (.notEnabled "TASK_RESUME")

/-! ### Relocation -/

/-- The place that a location of tile, group or die memory is (R21). -/
def keySpace (k : Nat) : Option Space :=
  if isLocal k then some (.tile (tileOfKey k) (k % 2 ^ 20))
  else if isPlate k then some (.plate (tileOfKey k) (k % 2 ^ 20))
  else if 2 ^ 42 ≤ k ∧ k < 2 ^ 43 then some (.group ((k - 2 ^ 42) / 2 ^ 23) (k % 2 ^ 23))
  else if 2 ^ 43 ≤ k ∧ k < 2 ^ 44 then some (.die ((k - 2 ^ 43) / 2 ^ 29) (k % 2 ^ 29))
  else none

/-- A location in the units of a rectangle, in the corresponding units of another; none elsewhere (R289). -/
def shiftKey? (b : Block) (old new k : Nat) : Option Nat :=
  match keySpace k with
  | some sp => (shiftSpace b old new sp 1).map fun x => x.key 0
  | none => none

def shiftKey (b : Block) (old new k : Nat) : Nat := (shiftKey? b old new k).getD k

/-- The memories of the new units become copies of the old ones (R289). -/
def moveMem (b : Block) (old new : Nat) (m : Mem) : Mem :=
  let keep := m.filter fun x => (shiftKey? b new old x.1).isNone
  m.foldl (fun acc x => match shiftKey? b old new x.1 with
    | some k => acc.set k x.2
    | none => acc) keep

/-- The staged writes of a task follow its units. -/
def moveStaged (b : Block) (task old new : Nat) (es : List Staged) : List Staged :=
  es.map fun e =>
    if e.party.task = task ∧ e.party.pkg.isNone then
      { e with key := shiftKey b old new e.key, tile := e.tile + new - old,
               bc := e.bc.map fun x => (shiftKey b old new x.1, x.2.1, x.2.2) }
    else e

/-- An image kept by a context or a copy follows the units. -/
def Snapshot.move (im : Snapshot) (b : Block) (task old new : Nat) : Snapshot :=
  { im with mem := moveMem b old new im.mem, staged := moveStaged b task old new im.staged }

/-- A copy follows the units of its task. -/
def Channel.move (ch : Channel) (b : Block) (old new : Nat) : Channel :=
  let f := fun (x : Nat) => (shiftAddr b old new (BitVec.ofNat 64 x)).toNat
  let copy := ch.copy.map fun t => { t with src := f t.src, dst := f t.dst, bc := f t.bc }
  { ch with copy := copy, image := ch.image.map fun im => im.move b ch.task old new,
            observed := ch.observed.map fun x => (shiftKey b old new x.1, x.2) }

/-- A context follows the units of its task. -/
def Ctx.move (c : Ctx) (b : Block) (old new : Nat) : Ctx :=
  let out := c.outstanding.map fun t => { t with keys := t.keys.map (shiftKey b old new) }
  { c with frozen := c.frozen.map fun im => im.move b c.task old new, observed := c.observed.map fun x => (shiftKey b old new x.1, x.2),
           outstanding := out }

/-- A base-die command follows the units of its task. -/
def BdCmd.move (m : BdCmd) (b : Block) (old new : Nat) : BdCmd :=
  { m with bc := (shiftAddr b old new (BitVec.ofNat 64 m.bc)).toNat }

/-- Everything of a stopped task that lies in the units of a rectangle goes to another (R289). -/
def State.moveTask (s : State) (t : Task) (new : Nat) : State :=
  let b := t.blk
  let old := t.origin
  let k := shiftKey b old new
  let span := fun (r : Nat × Nat) => (k r.1, r.2)
  let cmd := fun (m : MxCmd) => { m with memReads := m.memReads.map span, memWrites := m.memWrites.map span }
  let item := fun (i : BcItem) => { i with key := k i.key }
  let moved := fun (u : Tile) (n : Nat) =>
    { u with num := n, msgq := (s.tile n).msgq, ibuf := [], rr := 0, channels := u.channels.map fun ch => ch.move b old new,
             pausedCopies := u.pausedCopies.map fun ch => ch.move b old new, bcq := u.bcq.map item,
             bcPhases := u.bcPhases.map fun x => (k x.1, x.2), mqSaved := u.mqSaved.map cmd }
  let cmds := s.bd.cmds.map fun m => if m.task = t.num then m.move b old new else m
  let ctxs := s.ctxs.map fun c => if c.task = t.num then c.move b old new else c
  let s' := { s with mem := moveMem b old new s.mem, staged := moveStaged b t.num old new s.staged, ctxs := ctxs, bd := { s.bd with cmds := cmds } }
  let s' := (b.tiles old).foldl (fun s n => s.setTile { num := n, msgq := (s.tile n).msgq }) s'
  (b.tiles old).foldl (fun x n => x.setTile (moved (s.tile n) (n + new - old))) s'

/-- Candidates on other dies that a relocatable task which is to resume may take in place of its previous rectangle (R287, R289). -/
def State.elsewhere (s : State) (t : Task) : List Nat :=
  if t.phase == .stopped && t.resuming && t.target.isNone && t.blk.reloc then
    (alignedOrigins t.blk.w t.blk.h).filter fun o =>
      dieOfTile o != dieOfTile t.origin && s.isCandidate t o && s.traceAllows t.blk.trace t.blk.k o (t.blk.tiles o)
  else []

/-- A stopped task's state is copied to its new rectangle, and it resumes there (R289). -/
def State.moveAndResume (s : State) (t : Task) (o : Nat) : State := (s.moveTask t o).resumeAt t o

/-- A task resumes on another die's rectangle, by the engine's choice (R287): selection b the origin, with the flag. -/
def State.resumeElsewhere (s : State) : Out :=
  match s.task? s.sel.a with
  | some t =>
    if s.sel.flag && (s.elsewhere t).contains s.sel.b then .next (s.moveAndResume t s.sel.b) else .refused (.notEnabled "TASK_RELOCATION")
  | none => .refused (.notEnabled "TASK_RELOCATION")

/-- TASK_RELOCATION (R287, R289): the stopped task's state is copied to its new rectangle, and it resumes there. -/
def execTaskRelocation (s : State) : Out :=
  match s.nextPlaced with
  | some (t, o) =>
    if t.num = s.sel.a ∧ t.phase = .stopped ∧ t.target.isSome then .next (s.moveAndResume t o) else s.resumeElsewhere
  | none => s.resumeElsewhere

/-- The origin to which a task of a busy die would move: the lowest candidate on the least busy die (R290). -/
def State.balanceTarget (s : State) (t : Task) (die : Nat) : Option Nat :=
  (alignedOrigins t.blk.w t.blk.h).find? fun o => dieOfTile o == die && s.isCandidate t o

/-- The first die in service with the largest, or smallest, figure (R433). -/
def State.extremeDie (s : State) (busy : List Nat) (largest : Bool) : Nat :=
  let on := (List.range 4).filter s.dieServes
  let best := on.foldl (fun m d => let x := busy.getD d 0; if largest then max m x else min m x) (busy.getD (on.headD 0) 0)
  (on.find? fun d => busy.getD d 0 == best).getD 0

/-- BALANCE_PERIOD (R290), with the context-cycles of each die in the period. -/
def execBalancePeriod (busy : List Nat) (s : State) : Out :=
  let v := s.regs.balctl.toNat
  if s.balancedAt + bitsOf v 39 8 ≤ s.ticks then
    let cycles := s.busyCycles
    let s := { s with balancedAt := s.ticks, busyCtx := [0, 0, 0, 0], busyCycles := 0 }
    let hi := s.extremeDie busy true
    let lo := s.extremeDie busy false
    if !bitAt v 0 || 100 * (busy.getD hi 0 - busy.getD lo 0) ≤ bitsOf v 7 1 * (1536 * cycles) then .next s
    else
      let ts := sortBy (fun a b => decide (a.origin ≤ b.origin))
        (s.tasks.filter fun t => t.phase == .running && t.blk.reloc && t.stopping.isEmpty && dieOfTile t.origin == hi)
      match ts.findSome? fun t => (s.balanceTarget t lo).map fun o => (t, o) with
      | none => .next s
      | some (t, o) =>
        let s := (s.updTask t.num fun t => { t with target := some o, readyAt := s.ticks }).beginStop t.num 0
        .next (s.dispatchRecord 7 t t.origin)
  else .refused (.notEnabled "BALANCE_PERIOD")

/-! ### Hardware errors -/

/-- Ready tasks that no rectangle can take any more are reported, once (R281). -/
def State.tellUnplaceable (s : State) : State :=
  let lost := fun (t : Task) => t.phase == .ready && !t.unplaceableTold && s.unplaceable t.blk
  let ts := s.tasks.filter lost
  let s := { s with tasks := s.tasks.map fun t => if lost t then { t with unplaceableTold := true } else t }
  ts.foldl (fun s t => s.dispatchRecord 3 t t.origin) s

/-- A tile is retired from placement (R291). -/
def State.retireTile (s : State) (tile : Nat) : State :=
  if s.retired.contains tile then s
  else ({ s with retired := s.retired ++ [tile] }.postEngine none 0 0 (dispatchDetail 6 0 tile)).tellUnplaceable

/-- A task struck by a hardware error is stopped and its uncommitted work discarded; then it starts afresh, or is terminated
(R291). Deferred effects still under hold go with that work, so that the re-run makes each of them once. -/
def State.restartOrEnd (s : State) (tile : Nat) (t : Task) : State :=
  let s := s.stopNow t
  if t.blk.restart && !t.rerun then
    let s := (s.dropTaskState t.num).dropDeferred t.num
    let (q, s) := s.fresh
    s.updTask t.num fun t => { t with phase := .ready, rerun := true, excluded := tile :: t.excluded, saved := [], readyAt := s.ticks, order := q,
                                      stopping := [], resuming := false, target := none }
  else (s.terminate t.num).dispatchRecord 5 t t.origin

/-- The tasks that run on a tile. -/
def State.tasksOn (s : State) (tile : Nat) : List Task := s.tasks.filter fun t => s.ctxs.any fun c => c.task == t.num && c.key.tile == tile && !c.stopped

/-- A hardware error of a tile strikes some tasks; the tile tests itself (R291). -/
def State.tileError (s : State) (tile : Nat) (ts : List Task) (passes : Bool) : State :=
  let s := if passes then { s with transient := s.transient + 1 } else s.retireTile tile
  ts.foldl (fun s t => s.restartOrEnd tile t) s

/-- HARDWARE_ERROR (R291). -/
def execHardwareError (selfTestPasses : Bool) (s : State) : Out :=
  if s.sel.a < 768 then .next (s.tileError s.sel.a (s.tasksOn s.sel.a) selfTestPasses) else .refused (.notEnabled "HARDWARE_ERROR")

/-- REGISTER_ECC_ERROR (R129): corrected and counted; or a hardware error of the context, which parks, with a record. With the flag the error is
in the image of a stopped context (R127). -/
def execRegisterEccError (correctable selfTestPasses : Bool) (s : State) : Out :=
  match s.ctxs.find? fun c => c.key == s.sel.ctx && c.stopped == s.sel.flag && !c.evicted with
  | none => .refused (.notEnabled "REGISTER_ECC_ERROR")
  | some c =>
    if correctable then .next { s with corrected := s.corrected + 1 }
    else
      let s := s.postEngine (some c) (s.tidOf c.task) c.rank 0
      let s := s.updCtx c fun d => { d with faulted := some (d.faulted.getD 0) }
      .next (s.tileError c.key.tile (s.tasks.filter fun t => t.num == c.task) selfTestPasses)

/-! ### Supervisor instructions -/

/-- The table's task of an identifier. -/
def State.taskByTid (s : State) (x : Word) : Option Task := s.tasks.find? fun t => t.tid.zeroExtend 64 == x

/-- The instruction has begun its action and waits for it. -/
def Ctx.acting (c : Ctx) : Bool := c.wait == .action

/-- Complete a supervisor instruction with a status (R294). -/
def giveStatus (s : State) (c : Ctx) (dst : Operand) (st : Nat) : Try Done := do
  let c ← writeVal s c dst (BitVec.ofNat 64 st)
  return { s := s, c := c, ends := true }

/-- Wait for the action that has been begun. -/
def act {α : Type} (s : State) (c : Ctx) : Try α := stall (s.updCtx c fun c => { c with wait := .action })

/-- PREEMPT and PREEMPT.KILL (R298). -/
def runPreempt (w : FormX) (kill : Bool) (s : State) : Out :=
  runUniform s w.h true (some w.a) [w.b] fun s c => do
    let b ← readVal c w.b
    if !c.acting then parkGate s c
    match s.taskByTid b with
    | none => giveStatus s c w.a (if c.acting then 0 else 1)
    | some t =>
      if t.num = c.task then giveStatus s c w.a 2
      else if !t.stopping.isEmpty then act (if kill then s.updTask t.num fun t => { t with afterStop := 1 } else s) c
      else if c.acting ∧ t.phase = .stopped then giveStatus s c w.a 0
      else if t.phase = .stopped then giveStatus s c w.a 2
      else if t.phase = .running then act (s.beginStop t.num (if kill then 1 else 0)) c
      else if kill then giveStatus (s.terminate t.num) c w.a 0
      else giveStatus s c w.a 2

/-- PREEMPT (R298). -/
def execPreempt (w : FormX) (s : State) : Out := runPreempt w false s

/-- PREEMPT.KILL (R298). -/
def execPreemptKill (w : FormX) (s : State) : Out := runPreempt w true s

/-- RESUME (R298). -/
def execResume (w : FormX) (s : State) : Out :=
  runUniform s w.h true (some w.a) [w.b] fun s c => do
    let b ← readVal c w.b
    if !c.acting then parkGate s c
    match s.taskByTid b with
    | none => giveStatus s c w.a (if c.acting then 0 else 1)
    | some t =>
      if !t.stopping.isEmpty then act s c
      if t.phase = .stopped then
        act (if t.resuming then s else s.updTask t.num fun t => { t with resuming := true, readyAt := s.ticks }) c
      else giveStatus s c w.a (if c.acting then 0 else 2)

/-- The context that a selector names (R298). -/
def selected (s : State) (x : Word) : Option Ctx := s.ctx? { tile := bitsOf x.toNat 12 3, num := x.toNat % 8 }

/-- RESUME.CTX (R197, R298): the context goes on at its restart point. -/
def execResumeCtx (w : FormX) (s : State) : Out :=
  runUniform s w.h true (some w.a) [w.b] fun s c => do
    let b ← readVal c w.b
    parkGate s c
    match selected s b with
    | none => giveStatus s c w.a 1
    | some d =>
      if d.faulted.isNone then giveStatus s c w.a 2
      else
        let d := { d with faulted := none }
        let s := (s.setCtx d).resumePark d
        giveStatus s (s.again c) w.a 0

/-- Remove a context from its task (R288): what a held store could not place is never written (R45). An arrival that it has sent stands
(R259). -/
def State.removeCtx (s : State) (d : Ctx) : State :=
  let s := (s.arrivalReached d).getD s
  let s := s.dropWork fun t r => t == d.task && r == d.rank
  let s := { s with staged := s.staged.filter fun e => !(e.pool == 0 && e.party.task == d.task && e.party.rank == d.rank && e.party.pkg.isNone) }
  s.leave d (.removed (removalCode d))

/-- RESUME.REMOVE (R298). -/
def execResumeRemove (w : FormX) (s : State) : Out :=
  runUniform s w.h true (some w.a) [w.b] fun s c => do
    let b ← readVal c w.b
    parkGate s c
    match selected s b with
    | none => giveStatus s c w.a 1
    | some d => if d.faulted.isNone then giveStatus s c w.a 2 else giveStatus (s.removeCtx d) c w.a 0

/-- RELOC (R298). -/
def execReloc (w : FormX) (s : State) : Out :=
  runUniform s w.h true (some w.a) [w.b, w.c] fun s c => do
    let b ← readVal c w.b
    let o ← readVal c w.c
    if !c.acting then parkGate s c
    match s.taskByTid b with
    | none => giveStatus s c w.a (if c.acting then 0 else 1)
    | some t =>
      if c.acting ∧ t.phase = .running ∧ t.target.isNone then giveStatus s c w.a 0
      else if c.acting then act s c
      else if !t.stopping.isEmpty then stall s
      else if !t.blk.reloc ∨ !(t.phase = .running ∨ t.phase = .stopped) then giveStatus s c w.a 3
      else if !((alignedOrigins t.blk.w t.blk.h).contains o.toNat && dieOfTile o.toNat != dieOfTile t.origin && s.isCandidate t o.toNat) then
        giveStatus s c w.a 3
      else
        let s := s.updTask t.num fun t => { t with target := some o.toNat, readyAt := s.ticks }
        act (if t.phase = .running then s.beginStop t.num 0 else s) c

end Sys2Proof.Machine
end

