-- ==== Sys2Proof/Machine/Clock.lean ====
section
/-! DEFINITION. The slack clock, arbitration, fetch replies, the supervisor fault queue and the bound of engine waits (R89, R102-R110, R207,
R214). -/

namespace Sys2Proof.Machine

/-- A slack tick in tenths of a core cycle at a clock step (R4, R102, R427): 16 cycles at 2.0 GHz. -/
def tickTenths (step : Nat) : Nat :=
  match step with
  | 0 => 160
  | 1 => 144
  | 2 => 120
  | _ => 96

/-- A tick edge has come (R102). -/
def State.tickDue (s : State) : Bool := s.tickAt ≤ 10 * s.cycle

/-- A packet in a port queue is charged, but not on the reserved channels (R108, R111). -/
def OutPacket.tick (p : OutPacket) : OutPacket :=
  if p.vc = 5 ∨ p.vc = 7 then p else { p with slack := (chargeSlack p.slack p.overdue).1, overdue := (chargeSlack p.slack p.overdue).2 }

/-- A packet in a relay buffer is charged (R108). -/
def tickRelay (p : RelayPacket) : RelayPacket :=
  { p with slack := (chargeSlack p.slack p.overdue).1, overdue := (chargeSlack p.slack p.overdue).2 }

/-- A packet in an early-arrival area or in the early pool is charged (R108). -/
def tickColl (p : CollPacket) : CollPacket :=
  { p with slack := (chargeSlack p.slack p.overdue).1, overdue := (chargeSlack p.slack p.overdue).2 }

/-- A token that waits for room in a holding area, or there for its admission, is charged (R108). -/
def tickToken (t : RToken) : RToken :=
  { t with slack := (chargeSlack t.slack t.overdue).1, overdue := (chargeSlack t.slack t.overdue).2 }

/-- A walk that waits for a walker is charged (R108, R334). -/
def Walk.tick (w : Walk) : Walk :=
  if w.running then w else { w with slack := (chargeSlack w.slack w.overdue).1, overdue := (chargeSlack w.slack w.overdue).2 }

/-- The next segment of a copy waits for the way onto the mesh (R108). -/
def segmentWaits (s : State) (tile num : Nat) : Bool :=
  match runCopy s tile num with
  | .error .full => true
  | _ => false

/-- A copy whose next segment waits is charged (R108, R112). -/
def Channel.tick (ch : Channel) (waits : Bool) : Channel :=
  if waits then { ch with slack := (chargeSlack ch.slack ch.overdue).1, overdue := (chargeSlack ch.slack ch.overdue).2 } else ch

/-- What the fabric engine holds queued is charged (R108). -/
def Fabric.tick (f : Fabric) : Fabric :=
  { f with queue := f.queue.map OutPacket.tick, relay := f.relay.map (fun x => { x with p := tickRelay x.p }), early := f.early.map tickColl,
           colls := f.colls.map (fun m => { m with area := m.area.map tickColl }), links := f.links.map PairLink.tick,
           loop := f.loop.map tickToken, holding := f.holding.map tickToken }

/-- SLACK_TICK (R102, R107, R108): everything queued is charged; slack ticks and pod time advance. -/
def execSlackTick (s : State) : Out :=
  if s.tickDue then
    let tiles := s.tiles.map fun t => { t with channels := t.channels.map fun ch => ch.tick (segmentWaits s t.num ch.num) }
    .next { s with ticks := s.ticks + 1, podtime := (s.podtime + 1) % 2 ^ 64, tickAt := s.tickAt + tickTenths s.host.clockStep,
                   packets := s.packets.map Packet.tick, tiles := tiles, xlat := { s.xlat with walks := s.xlat.walks.map Walk.tick },
                   fab := s.fab.tick }
  else .refused (.notEnabled "SLACK_TICK")

/-- PACKET_ARBITRATION (R109, R110, R385): the winner of an output takes it; the outputs after those of the routers are the optical
ports. -/
def execPacketArbitration (s : State) : Out :=
  if portArbiter 0 ≤ s.sel.a ∧ s.sel.a < portArbiter 32 then
    match s.portNext (s.sel.a - portArbiter 0) with
    | some t => .next t
    | none => .refused (.notEnabled "PACKET_ARBITRATION")
  else match s.winnerAt s.sel.a with
  | some p => if s.outFree s.sel.a then .next (s.grant s.sel.a p) else .refused (.notEnabled "PACKET_ARBITRATION")
  | none => .refused (.notEnabled "PACKET_ARBITRATION")

/-- The bytes of a code word as a task fetches them: the committed image, with a host's later writes still hidden; for a pod task also those
that its package's steps have committed since its last pod step end (R35, R37, R89). -/
def State.codeWord (s : State) (task key : Nat) : Word :=
  let domain := (s.domains.find? fun d => d.level == 5 && d.task == task && task != 0).map fun d => d.id
  let byte := fun (k : Nat) => match domain with
    | some n => s.podByte task n k
    | none => baseByte s.mem s.hostOld task k
  BitVec.ofNat 64 (numOf ((List.range 8).map fun i => byte (key + i)))

/-- The retry of a read of the page of a fetch, which may be the fetch's own (R343). -/
def State.fetchRetried (s : State) (c : Ctx) (f : FetchReq) : Bool :=
  s.xlat.retries.any fun r => r.access.any (fun m => m.key == c.key) && rangesMeet f.page.1 f.page.2 (65536 * r.page) 65536

/-- The fetches of a context whose replies are there. -/
def State.fetched (s : State) (c : Ctx) : List FetchReq :=
  c.fetches.filter fun f => s.packetsDone (.fetch c.task c.rank f.addr) && !s.fetchRetried c f

/-- The word of a fetch enters the instruction buffer of the context's tile (R89). From a page poisoned meanwhile nothing is delivered: the context
finds the fault as it fetches again (R343). -/
def State.deliverFetch (s : State) (c : Ctx) (f : FetchReq) : State :=
  if s.pagePoisoned f.page.1 then s
  else
    let w : CodeWord := { addr := f.addr, task := c.task, user := f.user, word := s.codeWord c.task f.key }
    s.updTile c.key.tile fun t => { t with ibuf := w :: t.ibuf }

/-- INSTRUCTION_FETCH_REPLY (R89): a code word enters the instruction buffer of the context's tile; an overdue one is counted (R114). -/
def execInstructionFetchReply (s : State) : Out :=
  match s.ctx? s.sel.ctx with
  | none => .refused (.notEnabled "INSTRUCTION_FETCH_REPLY")
  | some c => match s.fetched c with
    | f :: _ =>
      let o := Owner.fetch c.task c.rank f.addr
      if s.sel.flag ≠ s.packetsOverdue o then .refused (.notEnabled "INSTRUCTION_FETCH_REPLY")
      else
        .next (((s.dropPackets o).deliverFetch c f).updCtx c fun c =>
          let c := { c with fetches := c.fetches.filter fun g => g != f }
          if s.sel.flag then c.countOverdue 2 else c)
    | [] => .refused (.notEnabled "INSTRUCTION_FETCH_REPLY")

/-- The fault queue has room (R207). -/
def State.sfqRoom (s : State) : Bool :=
  s.regs.sfqsize != 0 && (s.regs.sfqtail + 2 ^ 32 - s.regs.sfqhead) % 2 ^ 32 < 2 ^ s.regs.sfqsize

/-- SFQ_POST (R207). -/
def execSfqPost (s : State) : Out :=
  match s.sfqWait with
  | r :: rest =>
    if s.sfqRoom ∧ s.packetsDone (.note r.id) then
      let s := s.dropPackets (.note r.id)
      let a := bitsOf s.regs.sfqbase.toNat 38 12 * 4096 + 64 * (s.regs.sfqtail % 2 ^ s.regs.sfqsize)
      .next { s with mem := s.mem.write a r.bytes, sfqWait := rest, regs := { s.regs with sfqtail := (s.regs.sfqtail + 1) % 2 ^ 32 } }
    else .refused (.notEnabled "SFQ_POST")
  | [] => .refused (.notEnabled "SFQ_POST")

/-- An engine wait has lasted its bound (R214). -/
def State.waitLate (s : State) (c : Ctx) : Bool :=
  match c.wait with
  | .engine (some d) => d ≤ s.ticks
  | _ => false

/-- WAIT_TIMEOUT (R214). -/
def execWaitTimeout (s : State) : Out :=
  match s.ctx? s.sel.ctx with
  | some c => if s.waitLate c && c.faulted.isNone then .next (s.dueFault c { code := fcTIMEOUT }) else .refused (.notEnabled "WAIT_TIMEOUT")
  | none => .refused (.notEnabled "WAIT_TIMEOUT")

end Sys2Proof.Machine
end

