-- ==== Sys2Proof/Machine/Pages.lean ====
section
/-! DEFINITION. The translation and migration engines at work (R334, R338-R343), and the translation instructions (R344-R347). -/

namespace Sys2Proof.Machine

/-! ### Walks and counters -/

/-- TABLE_WALK (R334): the entry that the walk of a page has asked for comes to the walker of a die; the walk goes on, or ends for every miss that
joined it. -/
def execTableWalk (s : State) : Out :=
  match s.xlat.walks.find? fun w => w.is s.sel.b s.sel.a && w.running && s.packetsDone (.walk w.die w.page) with
  | some w => .next (s.stepWalk w)
  | none => .refused (.notEnabled "TABLE_WALK")

/-- Where the count of a slot lies in the counter table (R339). -/
def State.counterAddr (s : State) (slot : Nat) : Nat := bitsOf s.regs.cntcfg.toNat 38 12 * 4096 + 2 * slot

/-- The counter of a slot: cached, or as the table holds it (R339). -/
def State.counter (s : State) (t : Nat) : Counter :=
  match s.xlat.counters.find? fun c => c.slot == t with
  | some c => c
  | none => { slot := t, va := 0, size := 0, count := s.mem.num (s.counterAddr t) 2 }

/-- A counter is written back to the table. -/
def State.writeBack (s : State) (c : Counter) : State := { s with mem := s.mem.write (s.counterAddr c.slot) (bytesOf 2 c.count) }

/-- The counter cache of a die, of 4,096 entries, without the entry of a slot. -/
def State.otherCounters (s : State) (t : Nat) : List Counter := s.xlat.counters.filter fun c => c.slot % 4 == t % 4 && c.slot != t

/-- The oldest entry in which no notification waits (R340). -/
def State.victim (s : State) (t : Nat) : Option Counter := (s.otherCounters t).find? fun d => !(s.xlat.notices.any fun n => n.slot == d.slot)

/-- A slot has a place in its home die's cache, or can get one (R339, R340). -/
def State.counterFits (s : State) (t : Nat) : Bool := (s.otherCounters t).length < 4096 || (s.victim t).isSome

/-- Keep a counter in its home die's cache; a full cache sends an entry back to the table (R339). -/
def State.keepCounter (s : State) (c : Counter) : State :=
  let old := if (s.otherCounters c.slot).length < 4096 then none else s.victim c.slot
  let s := match old with
    | some d => s.writeBack d
    | none => s
  let rest := s.xlat.counters.filter fun d => d.slot != c.slot && !(old.any fun o => o.slot == d.slot)
  { s with xlat := { s.xlat with counters := rest ++ [c] } }

/-- A notification sets out for the ring, on VC6 (R16, R340). -/
def State.notify (s : State) (t : Touch) (thresh : Nat) : State :=
  let id := s.seq
  let note : Notice := { id := id, die := t.die, slot := t.slot, va := t.va, mode := t.mode, tier := t.tier, count := thresh, cycle := s.cycle }
  let x := s.xlat
  ({ s with seq := s.seq + 1, xlat := { x with notices := x.notices ++ [note], notified := x.notified ++ [t.slot] } }).send
    { owner := .note id, vc := 6, slack := 0xFFFF, flits := flitsOf 32, src := dieAnchor t.die,
      goal := serverOf (bitsOf s.regs.nqcfg.toNat 38 12 * 4096) }

/-- COUNTER_INCREMENT (R339): the first increment that a home die has received. -/
def execCounterIncrement (s : State) : Out :=
  match s.xlat.touches.find? fun t => t.die == s.sel.a && s.packetsDone (.touch t.id) with
  | none => .refused (.notEnabled "COUNTER_INCREMENT")
  | some t =>
    if !s.counterFits t.slot then .refused (.notEnabled "COUNTER_INCREMENT")
    else
      let s := ({ s with xlat := { s.xlat with touches := s.xlat.touches.filter fun u => u.id != t.id } }).dropPackets (.touch t.id)
      let c := s.counter t.slot
      let n := min (c.count + 1) 0xFFFF
      let thresh := bitsOf s.regs.cntcfg.toNat 63 48
      let cross := n == thresh && thresh != 0 && !s.xlat.notified.contains t.slot && c.count != n
      let s := s.keepCounter { c with count := n, va := t.va, size := t.size }
      .next (if cross then s.notify t thresh else s)

/-- The size of the notification ring, as a power of two (R340). -/
def State.ringLog (s : State) : Nat := bitsOf s.regs.nqcfg.toNat 47 40

/-- The notification ring has room (R340). -/
def State.ringRoom (s : State) : Bool := (s.regs.nqtail + 2 ^ 32 - s.regs.nqhead) % 2 ^ 32 < 2 ^ s.ringLog

/-- The bytes of a notification (R340). -/
def noticeBytes (n : Notice) : List Byte :=
  bytesOf 32 (2 ^ 63 + n.va + n.slot * 2 ^ 64 + n.count * 2 ^ 88 + n.tier * 2 ^ 104 + n.mode * 2 ^ 106 + n.cycle % 2 ^ 64 * 2 ^ 128)

/-- NOTIFICATION_PUSH (R340): a home die pushes the first notification that waits there. -/
def execNotificationPush (s : State) : Out :=
  match s.xlat.notices.find? fun n => n.die == s.sel.a with
  | some n =>
    if s.ringRoom ∧ s.packetsDone (.note n.id) then
      let a := bitsOf s.regs.nqcfg.toNat 38 12 * 4096 + 32 * (s.regs.nqtail % 2 ^ s.ringLog)
      let s := s.dropPackets (.note n.id)
      .next { s with mem := s.mem.write a (noticeBytes n), regs := { s.regs with nqtail := (s.regs.nqtail + 1) % 2 ^ 32 },
                     xlat := { s.xlat with notices := s.xlat.notices.filter fun m => m.id != n.id } }
    else .refused (.notEnabled "NOTIFICATION_PUSH")
  | none => .refused (.notEnabled "NOTIFICATION_PUSH")

/-! ### Records -/

/-- The detail of a translation record (R342). -/
def pageDetail (event : Nat) (e : Leaf) : Nat :=
  3 * 2 ^ 176 + event * 2 ^ 168 + (2 ^ 63 + e.va) * 2 ^ 104 + e.tier * 2 ^ 102 + (if e.tier = 2 then e.peer else 0) * 2 ^ 93

/-- Post a translation record that names a context, or none (R342). -/
def State.pageRecord (s : State) (event : Nat) (e : Leaf) (who : Option Maker) : State := s.postMade who (pageDetail event e)

/-! ### Migration -/

/-- A copy has packets under way that were translated through a page. -/
def Channel.uses (s : State) (ch : Channel) (lo n : Nat) : Bool :=
  !s.packetsDone (.copy ch.work) && ch.pages.any fun p => rangesMeet p.1 p.2 lo n

/-- A base-die command still executes on rows of a page. -/
def BdCmd.uses (s : State) (m : BdCmd) (lo n : Nat) : Bool :=
  m.bad == 0 && !(m.left.isEmpty && s.packetsDone (.basedie m.id)) &&
  ((m.reads.any fun r => rangesMeet r.1 r.2 lo n) || m.writes.any fun w => isVirtual w.1 && rangesMeet (vaOf w.1) w.2.length lo n)

/-- An access still under way was translated through a page of a range (R341, R346). -/
def State.pageInUse (s : State) (lo n : Nat) : Bool :=
  (s.ctxs.any fun c => (c.live.any fun t => t.pages.any fun p => rangesMeet p.1 p.2 lo n) || c.fetches.any fun f => rangesMeet f.page.1 f.page.2 lo n) ||
  (s.fab.requests.any fun q => !q.lost && q.got.isNone && rangesMeet q.req.va q.len lo n && !(s.xlat.migrations.any fun m => m.req == q.id)) ||
  (s.tiles.any fun t => (t.channels ++ t.pausedCopies).any fun ch => ch.uses s lo n) || s.bd.cmds.any fun m => m.uses s lo n

/-- The bytes of a frame become those of another (R341). -/
def moveFrame (old new n : Nat) (m : Mem) : Mem :=
  let keep := m.filter fun x => !(new ≤ x.1 && x.1 < new + n)
  (m.filter fun x => old ≤ x.1 && x.1 < old + n).foldl (fun acc x => acc.set (x.1 - old + new) x.2) keep

/-- Staged writes to a page land in its new frame (R341). -/
def moveWrites (old new n : Nat) (es : List Staged) : List Staged :=
  es.map fun e => if old ≤ e.key ∧ e.key < old + n then { e with key := e.key - old + new } else e

/-- An image kept aside follows a page to its new frame: both frames hold the same bytes (R341). -/
def Snapshot.moveFrame (im : Snapshot) (old new n : Nat) : Snapshot :=
  let host := im.host.map fun h => if old ≤ h.key ∧ h.key < old + n then { h with key := h.key - old + new } else h
  { im with mem := Machine.moveFrame old new n im.mem, staged := moveWrites old new n im.staged, host := host }

/-- A shadow follows its page (R37, R341). -/
def Shadow.moveFrame (h : Shadow) (old new n : Nat) : Shadow :=
  if old ≤ h.page * 65536 ∧ h.page * 65536 < old + n then
    { h with page := h.page - old / 65536 + new / 65536, cells := Machine.moveFrame old new n h.cells }
  else h

/-- The entry after a migration (R347): frame, tier, mode, cnt and peer are new. -/
def newEntry (x target : Nat) : Nat :=
  let keep := Nat.land x (2 ^ 128 - 1 - (2 ^ 64 - 2 ^ 16) - (2 ^ 96 - 2 ^ 83) - 32)
  keep + bitsOf target 63 16 * 2 ^ 16 + bitsOf target 15 14 * 2 ^ 85 + bitsOf target 13 12 * 2 ^ 83 + bitsOf target 11 11 * 32

/-- Steps 2 to 4 of a migration (R341): the page is copied, its entry switched and its count reset. -/
def State.switchPage (s : State) (m : Migration) : State :=
  let e := m.leaf
  let n := e.size
  let old := e.keyOf e.va
  let new := targetKey m.target.toNat
  let mem := match m.data with
    | some bs => Mem.write (s.mem.filter fun x => !(new ≤ x.1 && x.1 < new + n)) new bs
    | none => moveFrame old new n s.mem
  let host := s.hostOld.map fun h => if old ≤ h.key ∧ h.key < old + n then { h with key := h.key - old + new } else h
  let ctxs := s.ctxs.map fun c => { c with frozen := c.frozen.map fun im => im.moveFrame old new n }
  let chan := fun (ch : Channel) => { ch with image := ch.image.map fun im => im.moveFrame old new n }
  let tiles := s.tiles.map fun t => { t with channels := t.channels.map chan, pausedCopies := t.pausedCopies.map chan }
  let fab := { s.fab with shadows := s.fab.shadows.map (fun h => h.moveFrame old new n), podWrites := moveWrites old new n s.fab.podWrites,
                          ended := s.fab.ended.map fun x => (x.1, x.2.moveFrame old new n) }
  let s := { s with mem := mem, staged := moveWrites old new n s.staged, hostOld := host, ctxs := ctxs, tiles := tiles, fab := fab }
  let s := { s with mem := s.mem.write e.at_ (bytesOf 16 (newEntry (s.mem.num e.at_ 16) m.target.toNat)) }
  let s := if e.cnt then
      let s := { s with mem := s.mem.write (s.counterAddr e.cslot) [0, 0] }
      { s with xlat := { s.xlat with counters := s.xlat.counters.filter (fun c => c.slot != e.cslot),
                                     notified := s.xlat.notified.filter fun n => n != e.cslot } }
    else s
  s.dropCached e.va n

/-- Change the migration of a page. -/
def State.updMigration (s : State) (page : Nat) (f : Migration → Migration) : State :=
  { s with xlat := { s.xlat with migrations := s.xlat.migrations.map fun m => if m.leaf.va = page then f m else m } }

/-- The next line of a page on the move is read from the old frame, unless a peer has sent the page, and written to the new one (R16, R341). -/
def State.sendLine (s : State) (m : Migration) : State :=
  let x := fun (k n r : Nat) => ({ owner := .migration m.leaf.va, vc := 1, slack := m.slack, flits := n, src := dieAnchor 0, goal := serverOf k,
                                   reply := some r } : Parcel)
  let s := if m.data.isSome then s else s.send (x (m.leaf.keyOf m.leaf.va + 64 * m.line) 1 (flitsOf 64))
  (s.send (x (targetKey m.target.toNat + 64 * m.line) (flitsOf 64) 1)).updMigration m.leaf.va fun m => { m with line := m.line + 1 }

/-- A migration is over with a status, and wblock is clear (R341 step 5, R347): no cached copy remains from before. One that nobody waits for is
gone. -/
def State.endMigration (s : State) (m : Migration) (status : Nat) : State :=
  let s := (s.andNotEntry m.leaf.at_ 16).dropCached m.leaf.va m.leaf.size
  let s := s.updMigration m.leaf.va fun m => { m with status := some status }
  { s with xlat := { s.xlat with migrations := s.xlat.migrations.filter fun m => m.ctx.isSome || m.status.isNone } }

/-- MIGRATION_COMPLETE (R341): the page is copied line by line; then the switch; and, once the old accesses have drained, the end. -/
def execMigrationComplete (s : State) : Out :=
  match s.xlat.migrations.find? fun m => m.leaf.va == s.sel.a && m.status.isNone with
  | none => .refused (.notEnabled "MIGRATION_COMPLETE")
  | some m =>
    let o := Owner.migration m.leaf.va
    if s.xlat.retries.any fun r => m.leaf.hasByte (65536 * r.page) then .refused (.notEnabled "MIGRATION_COMPLETE")
    else if m.step = 1 then
      if m.leaf.tier = 2 ∧ m.data.isNone then .refused (.notEnabled "MIGRATION_COMPLETE")
      else if 64 * m.line < m.leaf.size then
        if s.meshFull (dieAnchor 0) then .refused (.notEnabled "MIGRATION_COMPLETE") else .next (s.sendLine m)
      else if s.packetsDone o then .next (((s.dropPackets o).switchPage m).updMigration m.leaf.va fun m => { m with step := 4 })
      else .refused (.notEnabled "MIGRATION_COMPLETE")
    else if s.pageInUse m.leaf.va m.leaf.size then .refused (.notEnabled "MIGRATION_COMPLETE")
    else .next (s.endMigration m 0)

/-- 1 ms in slack ticks (R341). -/
def blockLimit : Nat := 125000

/-- WRITE_BLOCKED (R341, R342). -/
def execWriteBlocked (s : State) : Out :=
  match s.xlat.migrations.find? fun m => m.leaf.va == s.sel.a && !m.told && m.status.isNone with
  | some m => match m.blocked with
    | some (t, k) =>
      if t + blockLimit < s.ticks then
        .next ((s.updMigration m.leaf.va fun m => { m with told := true }).pageRecord 0x0B m.leaf k)
      else .refused (.notEnabled "WRITE_BLOCKED")
    | none => .refused (.notEnabled "WRITE_BLOCKED")
  | none => .refused (.notEnabled "WRITE_BLOCKED")

/-! ### Poison -/

/-- READ_UNCORRECTABLE (R343): a read of a page fails after correction; it is retried once. -/
def execReadUncorrectable (access : Option CtxKey) (s : State) : Out :=
  match s.walkAll (s.sel.a * 65536) with
  | .leaf _ =>
    let who := (access.bind s.holder?).map s.maker
    .next { s with xlat := { s.xlat with retries := s.xlat.retries ++ [{ page := s.sel.a, access := who }] } }
  | _ => .refused (.notEnabled "READ_UNCORRECTABLE")

/-- Add to a saturating half of ERRCNT (R343). -/
def bumpErr (x : Word) (hi : Bool) : Word :=
  let v := x.toNat
  let lo := v % 2 ^ 32
  let up := v / 2 ^ 32
  BitVec.ofNat 64 (if hi then lo + 2 ^ 32 * min (up + 1) 0xFFFFFFFF else min (lo + 1) 0xFFFFFFFF + 2 ^ 32 * up)

/-- A page is poisoned (R343): one record; a migration of it is abandoned (R347). -/
def State.poisonPage (s : State) (e : Leaf) (who : Option Maker) : State :=
  if e.poison then s
  else
    let s := (s.orEntry e.at_ 64).dropCached e.va e.size
    let s := { s with regs := { s.regs with errcnt := bumpErr s.regs.errcnt true } }
    let s := s.pageRecord 0x0C e who
    match s.xlat.migrations.find? fun m => m.leaf.va == e.va && m.status.isNone && m.step == 1 with
    | some m => s.endMigration m 4
    | none => s

/-- READ_RETRY_RESULT (R343): the result of the read retried first. -/
def execReadRetryResult (s : State) : Out :=
  match s.xlat.retries with
  | [] => .refused (.notEnabled "READ_RETRY_RESULT")
  | r :: rest =>
    let s := { s with xlat := { s.xlat with retries := rest } }
    if s.sel.flag then .next { s with regs := { s.regs with errcnt := bumpErr s.regs.errcnt false } }
    else match s.walkAll (r.page * 65536) with
      | .leaf e => .next (s.poisonPage e r.access)
      | _ => .next s

/-! ### Instructions -/

/-- An address operand of the translation instructions (R344). -/
def pageAddr (c : Ctx) (o : Operand) : Try Word := do
  let a ← readVal c o
  requireAt (isVirtual a && virtualOk a) fcUNMAPPED a
  return a

/-- The size code of a page (R345). -/
def sizeCode (n : Nat) : Nat := if n = 65536 then 0 else if n = 2 ^ 21 then 1 else 2

/-- The attributes of a page (R345). -/
def pageInfo (e : Leaf) : Nat :=
  if e.tier = 3 then 0
  else e.slackClass * 2 ^ 37 + e.mode * 2 ^ 35 + e.tier * 2 ^ 33 + e.peer * 2 ^ 24 + e.fmt * 2 ^ 18 + e.geo * 2 ^ 16 + sizeCode e.size * 2 ^ 14 +
    b2n e.dirty * 128 + b2n e.accessed * 64 + b2n e.poison * 32 + b2n e.cnt * 16 + b2n e.wblock * 8 + b2n e.user * 4 + b2n e.writable * 2 + 1

/-- The entry of a page without any fault: none, or malformed (R345). -/
def lookPage (s : State) (c : Ctx) (a : Word) : Try (Option Leaf × Bool) :=
  match s.findLeaf c a (c.slktab.headD 0xFFFF) with
  | .ok e => .ok (some e, false)
  | .error (.trap t) => .ok (none, t.code == fcPAGE)
  | .error (.stall s') => stall s'

/-- PGINFO (R345). -/
def execPginfo (w : FormX) (s : State) : Out :=
  runValue s w.h w.a [w.b] fun s c => do
    let a ← pageAddr c w.b
    let (e, bad) ← lookPage s c a
    return (BitVec.ofNat 64 (if bad then 256 else (e.map pageInfo).getD 0), 0)

/-- CNTRD (R345). -/
def execCntrd (w : FormX) (s : State) : Out :=
  runValue s w.h w.a [w.b] fun s c => do
    let a ← pageAddr c w.b
    let (e, _) ← lookPage s c a
    match e with
    | some e =>
      if e.tier = 3 ∨ !e.cnt then return (0, 0)
      let k := s.counter e.cslot
      return (BitVec.ofNat 64 (k.count + 65536 + b2n (s.xlat.notified.contains e.cslot) * 131072), 0)
    | none => return (0, 0)

/-- Invalidate the cached translations of a range, with what hangs on them, and begin the walks afresh that have read there (R346). Every line of the read cache goes, those of peer pages
outside the range too: a line holds what the peer would answer, so no result shows it. -/
def State.invalidate (s : State) (lo n : Nat) : State :=
  let s := s.dropCached lo n
  let back := s.xlat.counters.filter fun c => rangesMeet c.va c.size lo n
  let s := back.foldl State.writeBack s
  let s := { s with xlat := { s.xlat with counters := s.xlat.counters.filter (fun c => !rangesMeet c.va c.size lo n),
                                          walker := s.xlat.walker.filter (fun e => !rangesMeet e.va (2 ^ levelShift e.level) lo n),
                                          peerLines := if n = 0 then s.xlat.peerLines else [] } }
  (s.xlat.walks.filter fun w => w.hasRead lo n).foldl State.startWalk s

/-- The invalidation goes to every group on VC6 (R16): its caches, its tiles' and its die's walker. -/
def State.sendInvalidation (s : State) (c : Ctx) : State :=
  (List.range 48).foldl (init := s) fun s g =>
    s.send { owner := .inval c.key, vc := 6, slack := 0xFFFF, src := c.key.tile, num := c.key.num, goal := tileGoal (groupCorner g) }

/-- TLBINV and TLBINV.ALL: the range is invalidated, then the accesses that used it are waited for (R346). -/
def runTlbinv (s : State) (c : Ctx) (lo n : Nat) : Try Done := do
  let o := Owner.inval c.key
  if !c.acting then
    parkGate s c
    act ((s.invalidate lo n).sendInvalidation c) c
  else if s.pageInUse lo n || !s.packetsDone o then stall s
  else return { s := s.dropPackets o, c := c.clearLatch, ends := true }

/-- TLBINV (R346). -/
def execTlbinv (w : FormX) (s : State) : Out :=
  runUniform s w.h true none [w.a, w.b] fun s c => do
    let a ← pageAddr c w.a
    let n ← readVal c w.b
    runTlbinv s c (vaOf a) n.toNat

/-- TLBINV.ALL (R346). -/
def execTlbinvAll (w : FormX) (s : State) : Out :=
  runUniform s w.h true none [] fun s c => runTlbinv s c 0 (2 ^ 57)

/-- The target of a migration is not allowed (R347). -/
def targetBad (e : Leaf) (t : Nat) : Bool :=
  let tier := bitsOf t 15 14
  let f := bitsOf t 63 16 * 65536
  2 ≤ tier || !tierMode tier (bitsOf t 13 12) || bitsOf t 10 0 != 0 || f % e.size != 0 || (tier == 0 && bitsOf t 63 39 != 0) ||
  (e.tier == 2 && e.writable)

/-- The context that waits for a migration. -/
def Ctx.issuer (c : Ctx) : Issuer := { key := c.key, task := c.task, rank := c.rank }

/-- A context is the one that waits for a migration: a stopped task's may have come to another place. -/
def Issuer.is (i : Issuer) (c : Ctx) : Bool := i.task == c.task && i.rank == c.rank && (c.task != 0 || i.key == c.key)

/-- Begin a migration (R341 step 1): the page is blocked for writes. -/
def State.beginMigration (s : State) (c : Ctx) (e : Leaf) (target : Word) : State :=
  let s := (s.orEntry e.at_ 16).dropCached e.va e.size
  let (id, s) := s.fresh
  let sl := c.slackOf e.slackClass
  let s := if e.tier = 2 then s.sendRequest c id none e.peer e.frame (BitVec.ofNat 64 (2 ^ 63 + e.va)) e.size .read [] sl else s
  let m : Migration := { leaf := e, target := target, ctx := some c.issuer, step := 1, line := 0, slack := sl, req := id, data := none, blocked := none,
                         told := false, status := none }
  ({ s with xlat := { s.xlat with migrations := s.xlat.migrations ++ [m] } }).send
    { owner := .migration e.va, vc := 6, slack := sl, src := c.key.tile, num := c.key.num, goal := tileGoal (dieAnchor 0) }

/-- The entry of a page on its way to be moved: the walk that finds it sets accessed, also where a status then refuses it (R332, R347): DEDUCED, log
entry 97. -/
def State.accessLeaf (s : State) : WalkEnd → State
  | .leaf e => if e.accessed then s else s.orEntry e.at_ 128
  | _ => s

/-- MIGR (R347). -/
def execMigr (w : FormX) (s : State) : Out :=
  runUniform s w.h true (some w.a) [w.b, w.c] fun s c => do
    let a ← pageAddr c w.b
    let t ← readVal c w.c
    if c.acting then
      match s.xlat.migrations.find? fun m => m.ctx.any fun i => i.is c with
      | some m => match m.status with
        | some st =>
          giveStatus { s with xlat := { s.xlat with migrations := s.xlat.migrations.filter fun x => x != m } } c w.a st
        | none => stall s
      | none => giveStatus s c w.a 0
    else
      parkGate s c
      let r := if s.xlatOn then s.walkAll (vaOf a) else .unmapped
      let s := s.accessLeaf r
      match r with
      | .malformed => giveStatus s c w.a 5
      | .unmapped => giveStatus s c w.a 1
      | .leaf e =>
        if e.tier = 3 then giveStatus s c w.a 1
        else if e.wblock || e.poison || s.xlat.migrations.any fun m => m.leaf.va == e.va && m.status.isNone then giveStatus s c w.a 2
        else if targetBad e t.toNat then giveStatus s c w.a 3
        else if 8 ≤ (s.xlat.migrations.filter fun m => m.status.isNone).length then stall s
        else act (s.beginMigration c e t) c

end Sys2Proof.Machine
end

