-- ==== Sys2Proof/Machine/BaseDie.lean ====
section
/-! DEFINITION. The base-die engine (R351-R366): command packets and their checks, what they compute, sub-commands, completion and faults
found in flight, refresh and clock ratios, status. -/

namespace Sys2Proof.Machine

/-! ### Packets -/

/-- A command packet (R352). -/
structure BdPacket where
  base : Word
  dest : Word
  bc : Word
  op : Nat
  fmt : Nat
  ev : Bool
  count : Nat
  /-- Bytes of a row. -/
  len : Nat
  slack : Nat
  fill : Nat
  index : List Nat
  deriving DecidableEq, Repr

/-- The packet in 1024 bits (R352). -/
def BdPacket.ofNum (x : Nat) : BdPacket :=
  { base := BitVec.ofNat 64 x, dest := BitVec.ofNat 64 (bitsOf x 127 64), bc := BitVec.ofNat 64 (bitsOf x 191 128), op := bitsOf x 193 192,
    fmt := bitsOf x 195 194, ev := bitAt x 196, count := bitsOf x 201 197, len := 64 * (bitsOf x 207 202 + 1), slack := bitsOf x 223 208,
    fill := bitsOf x 255 224, index := (List.range 24).map fun n => bitsOf x (32 * n + 287) (32 * n + 256) }

/-- A malformed packet (R354). -/
def BdPacket.malformed (p : BdPacket) (op : Nat) : Bool :=
  p.op != op || 24 < p.count || (op != 2 && p.fill != 0) || (op == 2 && p.dest != 0)

/-- The address of row n (R353). -/
def BdPacket.row (p : BdPacket) (n : Nat) : Word := p.base + BitVec.ofNat 64 (p.index.getD n 0 * p.len)

/-- The address of NMCPY's destination row n (R355). -/
def BdPacket.destRow (p : BdPacket) (n : Nat) : Word := p.dest + BitVec.ofNat 64 (n * p.len)

/-- Bytes of an element (R353). -/
def BdPacket.width (p : BdPacket) : Nat := if p.fmt = 1 ∨ p.fmt = 2 then 2 else 4

/-! ### Checks at issue -/

/-- The check of a tile-global destination or record (R355 items 3 and 4); the location of its first byte. -/
def tileGlobal (s : State) (c : Ctx) (a : Word) (n align : Nat) : Try Nat := do
  if isVirtual a then
    requireAt (a.toNat % align == 0) fcALIGN a
    faultAt fcPROTECT a
  match spaceOf a with
  | none => faultAt fcUNMAPPED a
  | some (.priv _) => faultAt fcUNMAPPED a
  | some sp => do
    requireAt (a.toNat % align == 0) fcALIGN a
    match sp with
    | .tile _ o => do
      requireAt (o + n ≤ 2 ^ 20) fcSTRADDLE a
      match s.locate c sp n with
      | some (.tile t o) => do
        requireAt (c.supervisor || groupOfTile t == groupOfTile c.key.tile) fcPROTECT a
        return localKey t o
      | _ => faultAt fcPROTECT a
    | _ => faultAt fcPROTECT a

/-- The page of a row's byte, checked (R331, R355 item 5): only HBM pages serve; a write block holds the writes later, not the issue. -/
def rowLeaf (s : State) (c : Ctx) (a : Word) (write : Bool) (slack element : Nat) : Try Leaf := do
  requireAt (isVirtual a) fcUNMAPPED a
  let e ← s.findLeaf c a slack element
  if e.tier = 3 then faultAt fcUNMAPPED a element
  if e.tier ≠ 0 then faultAt fcPROTECT a element
  if (!c.supervisor && !e.user) || (write && !e.writable) then faultAt fcPROTECT a element
  if e.poison then faultAt fcPOISON a element
  return e

/-- The stretches of a row, page by page. -/
def rowPieces (s : State) (c : Ctx) (write : Bool) (slack element : Nat) : Nat → Word → Nat → Try (List Piece)
  | 0, _, _ => .ok []
  | f + 1, a, n =>
    if n = 0 then .ok []
    else do
      let e ← match rowLeaf s c a write slack element with
        | .error (.trap t) => .error (.trap { t with element := element })
        | r => r
      let k := min n (e.va + e.size - vaOf a)
      let rest ← rowPieces s c write slack element f (a + BitVec.ofNat 64 k) (n - k)
      return { key := e.keyOf (vaOf a), addr := a, len := k, leaf := some e } :: rest

/-- A packet whose rows have been translated: the stretches of each row, and of each of NMCPY's destination rows. -/
structure BdPlan where
  p : BdPacket
  rows : List (List Piece)
  drows : List (List Piece)
  deriving DecidableEq, Repr

/-- Item 5 of R355 for packet k of an instruction. -/
def planRows (s : State) (c : Ctx) (p : BdPacket) (k : Nat) : Try BdPlan := do
  let xs ← (List.range p.count).mapM fun n => do
    let e := k * 32 + n
    let r ← rowPieces s c (p.op == 2) p.slack e 3 (p.row n) p.len
    let d ← if p.op = 3 then rowPieces s c true p.slack e 3 (p.destRow n) p.len else pure []
    return (r, d)
  return { p := p, rows := xs.map fun x => x.1, drows := xs.map fun x => x.2 }

/-! ### What a command computes -/

/-- A term of a sum in FP32, exactly; an integer for INT32 (R357). -/
def sumTerm (fmt x : Nat) : Nat × Nat :=
  match fmt with
  | 0 => (x, sigFlag [decF fp32 x])
  | 1 => cvtF bf16 fp32 rne x
  | 2 => cvtF fp16 fp32 rne x
  | _ => (x, 0)

/-- Add a term to a sum that may be absent (R357), with the flags so far. -/
def addTerm (fmt : Nat) (a : Option Nat × Nat) (t : Nat × Nat) : Option Nat × Nat :=
  match a.1 with
  | none => (some t.1, Nat.lor a.2 t.2)
  | some u =>
    if fmt = 3 then (some ((u + t.1) % 2 ^ 32), Nat.lor a.2 t.2)
    else
      let r := add32 u t.1
      (some r.1, Nat.lor r.2 (Nat.lor a.2 t.2))

/-- One output element from the row's elements in index order, each with its stack (R357). -/
def foldElement (fmt : Nat) (ts : List (Nat × Nat)) : Nat × Nat :=
  let stackSum := fun (n : Nat) => (ts.filter fun t => t.1 == n).foldl (fun a t => addTerm fmt a (sumTerm fmt t.2)) (none, 0)
  let v := (List.range 8).foldl (init := ((none, 0) : Option Nat × Nat)) fun v n => match stackSum n with
    | (some u, f) => addTerm fmt v (u, f)
    | (none, _) => v
  match v.1 with
  | none => (0, 0)
  | some x =>
    let r := match fmt with
      | 1 => cvtF fp32 bf16 rne x
      | 2 => cvtF fp32 fp16 rne x
      | _ => (x, 0)
    (r.1, Nat.lor r.2 v.2)

/-- The location of byte o of a row. -/
def keyOfByte : List Piece → Nat → Nat
  | [], _ => 0
  | p :: ps, o => if o < p.len then p.key + o else keyOfByte ps (o - p.len)

/-- The stack of each element of a row, that of its first byte (R18, R351). -/
def elemStacks (p : BdPacket) (ps : List Piece) : List Nat :=
  (List.range (p.len / p.width)).map fun e => stackOf (keyOfByte ps (e * p.width))

/-- NMRED's row and flags (R357). -/
def sumRows (p : BdPacket) (rows : List (List Byte × List Nat)) : List Byte × Nat :=
  let w := p.width
  let rs := rows.map fun r => (splitElems (8 * w) (numOf r.1) (p.len / w), r.2)
  let es := (List.range (p.len / w)).map fun e => foldElement p.fmt (rs.map fun r => (r.2.getD e 0, r.1.getD e 0))
  (es.flatMap fun x => bytesOf w x.1, es.foldl (fun a x => Nat.lor a x.2) 0)

/-- The committed package image of a row (R33, R358). -/
def State.rowBytes (s : State) (ps : List Piece) : List Byte := ps.flatMap fun p => s.mem.read p.key p.len

/-- The writes of a command and its flags (R356). -/
def planWrites (s : State) (q : BdPlan) : List (Word × List Byte) × Nat :=
  let p := q.p
  let data := q.rows.map s.rowBytes
  if p.count = 0 then ([], 0)
  else match p.op with
    | 0 =>
      let r := sumRows p (data.zip (q.rows.map (elemStacks p)))
      ([(p.dest, r.1)], r.2)
    | 1 => ([(p.dest, data.flatten)], 0)
    | 2 =>
      let line := (List.replicate (p.len / p.width) (bytesOf p.width p.fill)).flatten
      ((List.range p.count).map fun n => (p.row n, line), 0)
    | _ => (data.zipIdx.map fun x => (p.destRow x.2, x.1), 0)

/-- The channels that some stretches touch (R18, R351). -/
def channelsIn (ps : List Piece) : List (Nat × Nat) :=
  (ps.flatMap fun p => (List.range ((p.key + p.len - 1) / 4096 + 1 - p.key / 4096)).map fun i =>
    let k := p.key / 4096 * 4096 + 4096 * i
    (stackOf k, channelOf k)).dedup

/-- Start a command (R355, R358): its rows are read, its packets go to the channels, each row is one touch (R338, R360). -/
def startBd (s : State) (c : Ctx) (q : BdPlan) : State :=
  let (id, s) := s.fresh
  let p := q.p
  let (ws, fl) := planWrites s q
  let subs := channelsIn (q.rows.flatten ++ q.drows.flatten)
  let reads := if p.op = 2 then [] else (List.range p.count).map fun n => (vaOf (p.row n), p.len)
  let m : BdCmd :=
    { id := id, ctx := c.key, task := c.task, rank := c.rank, supervisor := c.supervisor, slack := p.slack, ev := p.ev,
      bc := (s.fromHome c p.bc).toNat, amount := ws.foldl (fun a w => a + w.2.length) 0, flags := fl, reads := reads, writes := ws,
      subs := subs, left := subs, bad := 0, held := false }
  let s := q.rows.foldl (fun s r => match r.head?.bind fun x => x.leaf with
    | some e => s.touch c.key.tile p.slack e
    | none => s) s
  let s := s.sendBd c.key m
  { s with bd := { s.bd with cmds := s.bd.cmds ++ [m] } }

/-- Issue base-die commands of an operation (R355). -/
def runNm (w : FormX) (op : Nat) (s : State) : Out :=
  runUniform s w.h false none [w.a] fun s c => do
    let a ← readVal c w.a
    let n := w.sub.toNat % 8 + 1
    let k ← localRange s c a (128 * n) 128
    let ps := (List.range n).map fun i => BdPacket.ofNum (numOf (s.readLoc c false (k + 128 * i) 128))
    ps.forM fun p => require (!p.malformed op) fcTEMPLATE
    ps.forM fun p => do
      if p.bc != 0 then
        let _ ← tileGlobal s c p.bc 16 16
    ps.forM fun p => do
      if op < 2 then
        let _ ← tileGlobal s c p.dest (if op = 0 then p.len else p.count * p.len) 64
    let plans ← ps.zipIdx.mapM fun x => planRows s c x.1 x.2
    if 32 < (s.basediesOf c).length + n then stall s
    return { s := plans.foldl (fun s q => startBd s c q) s, c := c.clearLatch }

/-- NMRED (R355-R357). -/
def execNmred (w : FormX) (s : State) : Out := runNm w 0 s

/-- NMGATH (R355, R356). -/
def execNmgath (w : FormX) (s : State) : Out := runNm w 1 s

/-- NMFILL (R355, R356). -/
def execNmfill (w : FormX) (s : State) : Out := runNm w 2 s

/-- NMCPY (R355, R356). -/
def execNmcpy (w : FormX) (s : State) : Out := runNm w 3 s

/-! ### Channels -/

/-- The record of a channel; one that is not listed is at rest at 10.0 Gb/s. -/
def State.stackChan (s : State) (stack chan : Nat) : StackChan :=
  (s.bd.chans.find? fun x => x.stack == stack && x.chan == chan).getD { stack := stack, chan := chan, refreshDue := 0, ratio := 0 }

/-- Replace a channel's record. -/
def State.setStackChan (s : State) (x : StackChan) : State :=
  { s with bd := { s.bd with chans := x :: s.bd.chans.filter fun y => !(y.stack == x.stack && y.chan == x.chan) } }

/-- A channel changes its ratio: new requests are held upstream until its crossing FIFO is empty (R363). -/
def State.draining (s : State) (stack chan : Nat) : Bool := (s.stackChan stack chan).ratio != s.bd.target.getD stack 0

/-- Change a command's record. -/
def State.updBd (s : State) (id : Nat) (f : BdCmd → BdCmd) : State :=
  { s with bd := { s.bd with cmds := s.bd.cmds.map fun m => if m.id = id then f m else m } }

/-- The packet at the head of a channel's engine queue (R351). -/
def State.engineHead (s : State) (stack chan : Nat) : Option Packet :=
  s.packets.find? fun p => p.inEngine && p.goal == chanArbiter stack chan

/-- The command to which a packet in an engine's queue belongs. -/
def Packet.command (p : Packet) : Nat :=
  match p.owner with
  | .basedie m => m
  | _ => 0

/-- BASEDIE_SUBCOMMAND (R351, R362): the sub-command at the head of a channel's queue executes and is answered (R112); a refresh that is due goes
first. -/
def execBasedieSubcommand (s : State) : Out :=
  let k := (s.sel.b, s.sel.c)
  match s.engineHead k.1 k.2 with
  | some p =>
    let ch := s.stackChan k.1 k.2
    if p.command ≠ s.sel.a ∨ s.draining k.1 k.2 then .refused (.notEnabled "BASEDIE_SUBCOMMAND")
    else if ch.refreshDue ≠ 0 then .next (s.setStackChan { ch with refreshDue := 0 })
    else
      let s := { s with packets := dropFirst p s.packets ++ p.answer s.cycle s.regs.maxmsg }
      .next (s.updBd p.command fun m => { m with left := m.left.filter fun x => x != k })
  | none => .refused (.notEnabled "BASEDIE_SUBCOMMAND")

/-- REFRESH (R362): refresh of a channel falls due; an idle channel refreshes at once, a busy one at its next DRAM row. -/
def execRefresh (s : State) : Out :=
  if s.sel.a < 8 ∧ s.sel.b < 32 then
    if (s.engineHead s.sel.a s.sel.b).isSome then
      let ch := s.stackChan s.sel.a s.sel.b
      .next (s.setStackChan { ch with refreshDue := ch.refreshDue + 1 })
    else .next s
  else .refused (.notEnabled "REFRESH")

/-- RATE_CHANGE (R363): a channel's crossing FIFO is empty and the new ratio takes effect; once every channel has it, it is the
stack's rate. -/
def execRateChange (s : State) : Out :=
  if s.sel.a < 8 ∧ s.sel.b < 32 ∧ s.draining s.sel.a s.sel.b then
    let t := s.bd.target.getD s.sel.a 0
    let s := s.setStackChan { s.stackChan s.sel.a s.sel.b with ratio := t }
    if (List.range 32).any fun c => s.draining s.sel.a c then .next s
    else .next { s with bd := { s.bd with rate := s.bd.rate.set s.sel.a t } }
  else .refused (.notEnabled "RATE_CHANGE")

/-- STACK_THERMAL_LIMIT (R363, R365): a base die lowers its own stack's rate, with a record; HBMCLK stays. -/
def execStackThermalLimit (s : State) : Out :=
  if s.sel.a < 8 ∧ s.sel.b < 4 ∧ s.bd.target.getD s.sel.a 0 < s.sel.b then
    let s := { s with bd := { s.bd with target := s.bd.target.set s.sel.a s.sel.b } }
    .next (s.postEngine none 0 0 (4 * 2 ^ 176 + 1 * 2 ^ 168 + s.sel.a * 2 ^ 165 + s.sel.b * 2 ^ 163))
  else .refused (.notEnabled "STACK_THERMAL_LIMIT")

/-! ### Completion -/

/-- The locations of a range as it is mapped now. -/
def State.mappedAt (s : State) (c : Ctx) : Nat → Word → Nat → List (Nat × Nat)
  | 0, _, _ => []
  | f + 1, a, n =>
    if n = 0 then []
    else if !isVirtual a then [((spanAt c.key.tile (s.fromHome c a) n).lo, n)]
    else match s.walkAll (vaOf a) with
      | .leaf e =>
        let k := min n (e.va + e.size - vaOf a)
        (e.keyOf (vaOf a), k) :: s.mappedAt c f (a + BitVec.ofNat 64 k) (n - k)
      | _ => []

/-- The locations that a command writes. -/
def State.bdKeys (s : State) (c : Ctx) (m : BdCmd) : List (Nat × Nat) := m.writes.flatMap fun w => s.mappedAt c 3 w.1 w.2.length

/-- An earlier command of the context has still to write some of the same bytes (R359). -/
def State.bdBehind (s : State) (c : Ctx) (m : BdCmd) : Bool :=
  let mine := s.bdKeys c m
  (s.basediesOf c).any fun e => e.id < m.id && (s.bdKeys c e).any fun r => meetsAny mine r.1 r.2

/-- The access of a command's writes (R112). -/
def State.bdAccess (s : State) (c : Ctx) (m : BdCmd) : Access :=
  { who := .work m.id, c := c, supervisor := m.supervisor, slack := s.packetsSlack (.basedie m.id) m.slack, overdue := s.packetsOverdue (.basedie m.id) }

/-- Make one of a command's writes, to its stretches (R356, R358). -/
def placeBdWrite (c : Ctx) (m : BdCmd) (s : State) (x : (Word × List Byte) × List Piece) : Except EngineStop State :=
  let w := x.1
  let a := s.fromHome c w.1
  let bc := if m.bc = 0 then none else some (recordKey c.key.tile (BitVec.ofNat 64 (m.bc / 16 * 16)), m.id)
  let wr : Writer := { c := c, loop := loopAddr c a, steps := s.stepsOf c, bc := bc, direct := directWrite m.supervisor a }
  (cutPieces x.2 w.2).foldlM (init := s) fun s x =>
    match s.place wr x.1.key (if isVirtual a then x.1.addr else w.1) x.2 none with
    | some s => return if isVirtual a then (leavesOf [x.1]).foldl State.setDirty s else s
    | none => throw (.bad fcSTAGINGFULL w.1)

/-- Every write of a command, all translated first: the state with them, or why they do not go on. -/
def placeBd (s : State) (c : Ctx) (m : BdCmd) : Except EngineStop State := do
  let ps ← m.writes.mapM fun w => s.enginePieces (s.bdAccess c m) true (s.fromHome c w.1) w.2.length
  (m.writes.zip ps).foldlM (placeBdWrite c m) s

/-- A row that a command reads lies in a poisoned page (R343). -/
def State.rowPoisoned (s : State) (r : Nat × Nat) : Bool := s.pagePoisoned r.1 || s.pagePoisoned ((r.1 + r.2 - 1) % 2 ^ 57)

/-- Some page from which a command reads is poisoned (R343, R361). -/
def State.bdPoisoned (s : State) (m : BdCmd) : Bool := m.reads.any s.rowPoisoned

/-- Effects of completion, in the order of R358; then an overdue completion is counted (R114). -/
def finishBd (s : State) (c : Ctx) (m : BdCmd) (overdue : Bool) : State :=
  let s := s.updOwner m.task m.rank fun c => c.orFlags m.flags
  let s := if m.bc = 0 then s else s.sendArrival (recordKey c.key.tile (BitVec.ofNat 64 (m.bc / 16 * 16))) m.amount m.id none
  let s := if m.ev then s.raise m.task m.rank { kind := 2, src := 0, payload := s.toHome c (BitVec.ofNat 64 m.bc) } else s
  let s := if overdue then s.updOwner m.task m.rank fun c => c.countOverdue 5 else s
  { (s.dropPackets (.basedie m.id)).forgetSeeker (.work m.id) with bd := { s.bd with cmds := s.bd.cmds.filter fun x => x.id != m.id } }

/-- A command has executed on every channel and its packets have come back. -/
def State.bdReady (s : State) (c : Ctx) (m : BdCmd) : Bool :=
  m.bad == 0 && m.left.isEmpty && s.packetsDone (.basedie m.id) && !s.bdPoisoned m && !s.bdBehind c m

/-- BASEDIE_COMPLETE (R358): the writes are made and the completion effects follow; a write that a migration blocks waits (R341). -/
def execBasedieComplete (s : State) : Out :=
  match s.bd.cmds.find? fun m => m.id == s.sel.a with
  | some m => match s.member? m.task m.rank with
    | some c =>
      let late := s.packetsOverdue (.basedie m.id)
      if !s.bdReady c m || s.sel.flag != late then .refused (.notEnabled "BASEDIE_COMPLETE")
      else match placeBd s c m with
        | .ok s => .next (finishBd s c m late)
        | .error (.note s) => .next s
        | .error _ => .refused (.notEnabled "BASEDIE_COMPLETE")
    | none => .refused (.notEnabled "BASEDIE_COMPLETE")
  | none => .refused (.notEnabled "BASEDIE_COMPLETE")

/-- The fault that a command has found in flight, 0 for none, and its address: the row that cannot be read, or the destination without room
(R196, R361). -/
def State.bdFaultAt (s : State) (c : Ctx) (m : BdCmd) : Nat × Word :=
  if m.bad ≠ 0 then (0, 0)
  else match m.reads.find? s.rowPoisoned with
    | some r => (fcPOISON, BitVec.ofNat 64 (2 ^ 63 + r.1))
    | none =>
      if m.left.isEmpty && !s.bdBehind c m then
        match placeBd s c m with
        | .error (.bad code a) => (code, a)
        | _ => (0, 0)
      else (0, 0)

/-- The code of that fault. -/
def State.bdFault (s : State) (c : Ctx) (m : BdCmd) : Nat :=
  (s.bdFaultAt c m).1

/-- BASEDIE_INFLIGHT_FAULT (R361): the command is held, and its fault is delivered at the instruction that receives it. -/
def execBasedieInflightFault (s : State) : Out :=
  match s.bd.cmds.find? fun m => m.id == s.sel.a with
  | some m => match s.member? m.task m.rank with
    | some c =>
      if s.sel.c ≠ 0 ∧ s.bdFault c m = s.sel.c then
        .next (((s.dropPackets (.basedie m.id)).forgetSeeker (.work m.id)).updBd m.id fun m => { m with bad := s.sel.c, badAddr := (s.bdFaultAt c m).2 })
      else .refused (.notEnabled "BASEDIE_INFLIGHT_FAULT")
    | none => .refused (.notEnabled "BASEDIE_INFLIGHT_FAULT")
  | none => .refused (.notEnabled "BASEDIE_INFLIGHT_FAULT")

/-! ### Status -/

/-- Tenths of Gb/s of a rate code (R363). -/
def rateTenths (code : Nat) : Nat :=
  match code with
  | 0 => 100
  | 1 => 80
  | 2 => 64
  | _ => 50

/-- The capability word of a stack (R364): bandwidth in units of 10 GB/s. -/
def State.capability (s : State) (stack : Nat) : Nat :=
  if !bitAt s.host.stacksUp stack then 0
  else
    let ser := (Config.ser4 stack).toNat
    let rate := s.bd.rate.getD stack 0
    let units := (List.range 32).foldl (fun a c => a + (if bitAt ser c then 4 else 8)) 0
    units * rateTenths rate / 100 * 2 ^ 48 + rate * 2 ^ 40 + 2 ^ 32 + ser

/-- The status word of a context for a stack (R366). -/
def State.bdStatus (s : State) (c : Ctx) (stack : Nat) : Nat :=
  let mine := s.basediesOf c
  let queued := (s.packets.filter fun p => p.inEngine && (p.goal - chanArbiter 0 0) / 32 == stack).length
  b2n (mine.any fun m => m.bad != 0 && !m.held) * 2 ^ 40 + mine.length * 2 ^ 32 + min queued 1024

/-- NMSTAT (R366). -/
def execNmstat (w : FormX) (s : State) : Out :=
  runValue s w.h w.a [w.b] fun s c => do
    let b ← readVal c w.b
    workGate s c .basedie
    return (BitVec.ofNat 64 (s.bdStatus c (b.toNat % 8)), 0)

/-- NMSTAT.CAP (R364, R366). -/
def execNmstatCap (w : FormX) (s : State) : Out :=
  runValue s w.h w.a [w.b] fun s c => do
    let b ← readVal c w.b
    return (BitVec.ofNat 64 (s.capability (b.toNat % 8)), 0)

end Sys2Proof.Machine
end

