-- ==== Sys2Proof/Machine/Send.lean ====
section
/-! DEFINITION. FSEND (R396-R398): issue, delivery at the destination, completion and faults found in flight; FSTAT (R421). -/

namespace Sys2Proof.Machine

/-- The pod domain of FSEND, ROUTE and COLL (R395): PEER without one; a stall until its binding is complete (R390). -/
def podGate (s : State) (c : Ctx) : Try Domain := do
  require (c.bound 5) fcPEER
  match s.domOf c 5 with
  | none => fault fcPEER
  | some d => if d.complete then return d else stall s

/-- A package that takes part in a pod domain and answers (R375, R390). -/
def State.reaches (s : State) (d : Domain) (p : Nat) : Bool := s.peerThere p && d.participants.contains p

/-- An FSEND descriptor (R396). -/
structure SendDesc where
  reserved : Nat
  ordered : Bool
  rbcen : Bool
  dpkg : Nat
  dtile : Nat
  slack : Nat
  length : Nat
  rbc : Nat
  dst : Nat
  lbc : Nat
  src : Nat
  deriving DecidableEq, Repr

/-- The fields of the 512 bits of a descriptor (R396). -/
def SendDesc.ofNum (x : Nat) : SendDesc :=
  { reserved := Nat.lor (bitsOf x 511 189) (bitsOf x 87 64), ordered := bitAt x 188, rbcen := bitAt x 187, dpkg := bitsOf x 186 178,
    dtile := bitsOf x 177 168, slack := bitsOf x 167 152, length := bitsOf x 151 128, rbc := bitsOf x 127 108, dst := bitsOf x 107 88,
    lbc := bitsOf x 63 32, src := bitsOf x 31 0 }

/-- A descriptor that is malformed (R397 item 1). -/
def SendDesc.malformed (d : SendDesc) (own : Nat) : Bool :=
  d.reserved != 0 || d.length == 0 || 0x100000 < d.length || 767 < d.dtile || 0x100000 < d.dst + d.length ||
  (d.rbcen && (d.rbc % 16 != 0 || 0xFFFF0 < d.rbc)) || d.dpkg == own

/-- FSEND (R396, R397). -/
def execFsend (w : FormX) (s : State) : Out :=
  runUniform s w.h false none [w.a] fun s c => do
    let a ← readVal c w.a
    let k ← localRange s c a 64 64
    let d ← podGate s c
    let q := SendDesc.ofNum (numOf (s.readLoc c false k 64))
    require (!q.malformed s.regs.podpackage) fcTEMPLATE
    let sk ← localRange s c (BitVec.ofNat 64 q.src) q.length 1
    if q.lbc ≠ 0 then
      let _ ← recordAt s c (BitVec.ofNat 64 q.lbc) .group
    require (s.reaches d q.dpkg) fcPEER
    if 64 ≤ (s.fsendsOf c).length then stall s
    let (id, s) := s.fresh
    let m : Fsend :=
      { id := id, ctx := c.key, task := c.task, rank := c.rank, domain := d.id, dpkg := q.dpkg, dtile := q.dtile, dst := q.dst,
        rbc := if q.rbcen then some q.rbc else none, lbc := q.lbc, slack := q.slack, ordered := q.ordered,
        data := s.readLoc c false sk q.length, steps := c.remoteSteps true, prior := s.writesSent c q.dpkg, deadline := s.peerDeadline,
        bad := 0, held := false, acked := false }
    let s := (s.countWrite c q.dpkg).sendFsend m
    return { s := { s with fab := { s.fab with fsends := s.fab.fsends ++ [m] } }, c := c.clearLatch }

/-- The bytes of an FSEND enter this package's staging, as writes of its sender (R387, R397). -/
def State.stageFsend (s : State) (d : Domain) (f : FsendIn) : Option State :=
  let k := localKey f.tile f.dst
  let (work, s) := s.fresh
  let bc := f.rbc.map fun r => (localKey f.tile r, work, 0)
  let put := fun (s : State) (x : Nat × List Byte) =>
    s.enterPeer { s.peerEntry d f.package f.rank x.1 (BitVec.ofNat 64 (2 ^ 56 + f.tile * 2 ^ 32 + f.dst + (x.1 - k))) x.2 none bc with tile := f.tile }
  match (s.plainPieces k f.data).foldlM put (s.writeRecords k f.data) with
  | some s => some (match f.rbc with
    | some r => s.sendArrival (localKey f.tile r) f.data.length work none
    | none => s)
  | none => none

/-- FSEND_DELIVERY (R397, R398): the bytes are staged and acknowledged; where they find no room the sender is told. -/
def execFsendDelivery (f : FsendIn) (s : State) : Out :=
  match s.domain? 5 0 f.domain with
  | none => .refused (.notEnabled "FSEND_DELIVERY")
  | some d =>
    let got := s.peerReceived f.package f.rank f.domain
    let answer := fun (s : State) (full : Bool) =>
      s.sendAfter f.package 2 f.slack s.sel.flag 0 (.fsendAck f.id full (if full then none else s.lateConflict d))
    if d.task = 0 ∨ counterBefore d.counter f.steps ∨ got < f.prior then .refused (.notEnabled "FSEND_DELIVERY")
    else if f.prior < got then .next (answer s false)
    else match s.stageFsend d f with
      | some s => .next (answer (s.countPeer f.package f.rank f.domain) false)
      | none => .next (answer s true)

/-- FSEND_COMPLETE (R397): every byte has been acknowledged, and lbc gets its arrival. -/
def execFsendComplete (s : State) : Out :=
  match s.fab.fsends.find? fun m => m.id == s.sel.a && m.acked && m.bad == 0 && s.packetsDone (.reply m.id) with
  | some m =>
    let tile := ((s.member? m.task m.rank).map fun c => c.key.tile).getD m.ctx.tile
    let s := if m.lbc = 0 then s else s.sendArrival (recordKey tile (BitVec.ofNat 64 m.lbc)) m.data.length m.id none
    let s := s.dropPackets (.reply m.id)
    .next { s with fab := { s.fab with fsends := s.fab.fsends.filter fun x => x.id != m.id } }
  | none => .refused (.notEnabled "FSEND_COMPLETE")

/-- FSEND_INFLIGHT_FAULT (R398): no answer in time, or no room at the destination; the FSEND is held. -/
def execFsendInflightFault (s : State) : Out :=
  match s.fab.fsends.find? fun m => m.id == s.sel.a && !m.acked && m.bad == 0 with
  | some m =>
    if (s.sel.c = fcPEER ∧ m.deadline ≤ s.ticks) ∨ s.sel.c = fcSTAGINGFULL then
      let fs := s.fab.fsends.map fun x => if x.id = m.id then { x with bad := s.sel.c } else x
      .next { s with fab := { s.fab with fsends := fs } }
    else .refused (.notEnabled "FSEND_INFLIGHT_FAULT")
  | none => .refused (.notEnabled "FSEND_INFLIGHT_FAULT")

/-- The work word of a context (R421). -/
def State.fabricWord (s : State) (c : Ctx) : Nat :=
  let held := (s.fsendsOf c).any (fun m => m.bad != 0 && !m.held) || (s.collsOf c).any fun m => m.bad != 0 && !m.held
  let lists := s.fab.lists.filter fun l => c.isOwner l.task l.rank && !l.closed
  b2n held * 2 ^ 40 + (s.collsOf c).length * 2 ^ 32 + (s.fsendsOf c).length * 2 ^ 16 + lists.length

/-- FSTAT.PORT (R421). -/
def execFstatPort (w : FormX) (s : State) : Out :=
  runValue s w.h w.a [w.b] fun s c => do
    let b ← readVal c w.b
    return (BitVec.ofNat 64 (s.port (b.toNat % 32)).word, 0)

/-- FSTAT.WORK (R398, R407, R421). -/
def execFstatWork (w : FormX) (s : State) : Out :=
  runValue s w.h w.a [w.b] fun s c => do
    let _ ← readVal c w.b
    workGate s c .fabric
    return (BitVec.ofNat 64 (s.fabricWord c), 0)

/-- FSTAT.POD (R375, R421). -/
def execFstatPod (w : FormX) (s : State) : Out :=
  runValue s w.h w.a [w.b] fun s c => do
    let _ ← readVal c w.b
    return (BitVec.ofNat 64 s.podcfg, 0)

end Sys2Proof.Machine
end

