-- ==== Sys2Proof/Machine/Sha3.lean ====
section
/-! DEFINITION. SHA3-256 (FIPS 202), which the collective log, firmware and attestation use (R403, R431, R436). The state of 1600 bits is
25 lanes of 64 bits, the lane of column x and row y at x + 5 y. The offsets and the round constants are worked out as FIPS 202 defines them. -/

namespace Sys2Proof.Machine

/-- A lane turned left by n places. -/
def laneTurn (v n : Nat) : Nat := let w := v * 2 ^ (n % 64); Nat.lor (w % 2 ^ 64) (w / 2 ^ 64)

/-- The walk over the lanes that gives rho its offsets (FIPS 202, algorithm 2): step t goes from column x and row y. -/
def rhoWalk : Nat → Nat → Nat → Nat → List (Nat × Nat)
  | 0, _, _, _ => []
  | n + 1, t, x, y => (x + 5 * y, (t + 1) * (t + 2) / 2 % 64) :: rhoWalk n (t + 1) y ((2 * x + 3 * y) % 5)

/-- How far rho turns the lane at a place; the lane of column 0 and row 0 stays. -/
def rhoTurn (walk : List (Nat × Nat)) (p : Nat) : Nat := ((walk.find? fun q => q.1 == p).map fun q => q.2).getD 0

/-- The bits of the shift register behind the round constants (FIPS 202, algorithm 5), from its content on. -/
def rcBits : Nat → Nat → List Nat
  | 0, _ => []
  | n + 1, r => r % 2 :: rcBits n (if 128 ≤ r then Nat.xor (2 * r) 0x171 else 2 * r)

/-- The constant of a round: bit 2^j - 1 is the register's bit j + 7 times the round. -/
def roundConstants : Nat → List Nat → List Nat
  | 0, _ => []
  | n + 1, bits => ((bits.take 7).zipIdx.map fun b => b.1 * 2 ^ (2 ^ b.2 - 1)).sum :: roundConstants n (bits.drop 7)

/-- The parity of each column: theta adds to a lane those of the columns beside its own. -/
def columnParity (s : List Nat) (x : Nat) : Nat := ((s.drop (x % 5)).zipIdx.filter fun v => v.2 % 5 == 0).foldl (fun a v => Nat.xor a v.1) 0

/-- theta. -/
def thetaMap (s : List Nat) : List Nat :=
  let add := (List.range 5).map fun x => Nat.xor (columnParity s (x + 4)) (laneTurn (columnParity s (x + 1)) 1)
  s.zipIdx.map fun v => Nat.xor v.1 (add.getD (v.2 % 5) 0)

/-- rho and pi together: column x and row y take the turned lane of column x + 3 y and row x. -/
def rhoPi (walk : List (Nat × Nat)) (s : List Nat) : List Nat :=
  (List.range 25).map fun p =>
    let q := (p % 5 + 3 * (p / 5)) % 5 + 5 * (p % 5)
    laneTurn (s.getD q 0) (rhoTurn walk q)

/-- chi in one row of five lanes. -/
def chiRow (row : List Nat) : List Nat :=
  row.zipIdx.map fun v =>
    let one := row.getD ((v.2 + 1) % 5) 0
    let two := row.getD ((v.2 + 2) % 5) 0
    Nat.xor v.1 (two - Nat.land one two)

/-- chi, row by row. -/
def chiRows : Nat → List Nat → List Nat
  | 0, _ => []
  | n + 1, s => chiRow (s.take 5) ++ chiRows n (s.drop 5)

/-- iota: the round's constant goes into the first lane. -/
def iotaMap (rc : Nat) : List Nat → List Nat
  | [] => []
  | v :: r => Nat.xor v rc :: r

/-- Keccak-f of 1600 bits. -/
def keccak (s : List Nat) : List Nat :=
  let walk := rhoWalk 24 0 1 0
  (roundConstants 24 (rcBits 168 1)).foldl (fun s rc => iotaMap rc (chiRows 5 (rhoPi walk (thetaMap s)))) s

/-- Take in a message of n blocks of 136 bytes: a block's 17 lanes are added to the first 17. -/
def spongeTake : Nat → List Nat → List Byte → List Nat
  | 0, s, _ => s
  | n + 1, s, m =>
    let mixed := s.zipIdx.map fun v => if v.2 < 17 then Nat.xor v.1 (numOf ((m.drop (8 * v.2)).take 8)) else v.1
    spongeTake n (keccak mixed) (m.drop 136)

/-- The bytes that fill a message up to whole blocks: the suffix of SHA3, zeros, the last bit. -/
def sha3Fill (length : Nat) : List Byte :=
  let n := 136 - length % 136
  (List.range n).map fun i => BitVec.ofNat 8 ((if i = 0 then 0x06 else 0) + (if i + 1 = n then 0x80 else 0))

/-- The digest of a message, 32 bytes. -/
def sha3 (m : List Byte) : List Byte :=
  ((spongeTake (m.length / 136 + 1) (List.replicate 25 0) (m ++ sha3Fill m.length)).take 4).flatMap (bytesOf 8)

end Sys2Proof.Machine
end

