-- ==== Sys2Proof/Machine/Collective.lean ====
section
/-! DEFINITION. Collectives (R399-R410): the request block and its checks, posting, folding and delivery, completion, mismatch. -/

namespace Sys2Proof.Machine

/-! ### Request blocks -/

/-- A request block (R399-R401). -/
structure CollBlock where
  reserved : Nat
  key : BitVec 32
  count : Nat
  chunk : Nat
  kind : Nat
  type : Nat
  op : Nat
  esize : Nat
  slack : Nat
  self : Nat
  early : Word
  dst : Word
  src : Word
  /-- The node records, and the reserved bits of each. -/
  nodes : List CollNode
  nodeReserved : List Nat
  deriving DecidableEq, Repr

/-- A node record (R401): its used inputs; ninputs out of range leaves none, which is malformed. -/
def CollNode.ofNum (x : Nat) : CollNode :=
  let n := bitsOf x 169 166
  { inputs := if n ≤ 8 then (List.range n).map fun k => bitsOf x (179 + 10 * k) (170 + 10 * k) else [],
    parent := bitsOf x 165 156, package := bitsOf x 155 147 }

/-- The block from the bits of its header, of its local part and of its node records (R399-R401). -/
def CollBlock.ofNums (h l : Nat) (ns : List Nat) : CollBlock :=
  { reserved := Nat.lor (bitsOf h 255 96) (Nat.lor (bitsOf l 255 240) (bitsOf l 197 192)), key := BitVec.ofNat 32 (bitsOf h 95 64),
    count := bitsOf h 63 32, chunk := bitsOf h 31 16, kind := bitsOf h 5 4, type := bitsOf h 3 2, op := bitsOf h 1 0,
    esize := bitsOf l 239 224, slack := bitsOf l 223 208, self := bitsOf l 207 198, early := BitVec.ofNat 64 (bitsOf l 191 128),
    dst := BitVec.ofNat 64 (bitsOf l 127 64), src := BitVec.ofNat 64 (bitsOf l 63 0), nodes := ns.map CollNode.ofNum,
    nodeReserved := ns.map fun x => Nat.lor (bitsOf x 255 250) (bitsOf x 146 0) }

/-- Bytes of an element of a type (R399). -/
def collWidth (type : Nat) : Nat := if type = 1 ∨ type = 2 then 2 else 4

/-- The children of a node, ascending. -/
def childrenOf (nodes : List CollNode) (n : Nat) : List Nat :=
  (nodes.zipIdx.filter fun x => x.1.parent == n).map fun x => x.2

/-- A node's parents lead to the root (R402). -/
def reachesRoot (nodes : List CollNode) : Nat → Nat → Bool
  | 0, _ => false
  | f + 1, n => match nodes[n]? with
    | some x => x.parent == 0x3FF || reachesRoot nodes f x.parent
    | none => false

/-- The nodes form a tree, each with the right inputs (R402). -/
def treeOk (nodes : List CollNode) : Bool :=
  (nodes.filter fun x => x.parent == 0x3FF).length == 1 &&
  nodes.zipIdx.all fun x =>
    reachesRoot nodes (nodes.length + 1) x.2 &&
    ascending x.1.inputs == ascending (x.2 :: childrenOf nodes x.2)

/-- A malformed block (R402); a chunk of no elements is out of range (DEDUCED: every element lies in a chunk). -/
def CollBlock.malformed (b : CollBlock) (d : Domain) (own : Nat) : Bool :=
  let bytes := b.chunk * collWidth b.type
  b.reserved != 0 || (b.nodeReserved.any fun x => x != 0) || b.count == 0 || bytes == 0 || bytes % 64 != 0 || 4096 < bytes ||
  b.nodes.isEmpty || 512 < b.nodes.length || b.kind == 3 || b.op == 3 || (b.kind == 2 && b.op != 0) || b.esize == 0 ||
  b.early.toNat % 4096 != 0 || !treeOk b.nodes || !(b.nodes.map fun x => x.package).Nodup ||
  (b.nodes.any fun x => !d.participants.contains x.package) || (b.nodes[b.self]?.map fun x => x.package) != some own

/-! ### Posted collectives -/

/-- This package's node is the root. -/
def Coll.isRoot (m : Coll) : Bool := ((m.nodes[m.self]?).map fun x => x.parent) == some 0x3FF

/-- The children of this package's node. -/
def Coll.children (m : Coll) : List Nat := childrenOf m.nodes m.self

/-- The contribution is used: by every node but those of a BCAST below the root (R400). -/
def usesSrc (kind : Nat) (root : Bool) : Bool := kind != 2 || root

/-- The result is written here (R404). -/
def usesDst (kind : Nat) (root : Bool) : Bool :=
  match kind with
  | 0 => root
  | 1 => true
  | _ => !root

/-- Chunks of the collective (R403). -/
def Coll.chunks (m : Coll) : Nat := (m.count + m.chunk - 1) / m.chunk

/-- The first 8 bytes of the digest, which a packet carries (R405). -/
def Coll.tag (m : Coll) : Nat := m.digest % 2 ^ 64

/-- combine of R404, with its flags (R65). -/
def combineColl (type op x y : Nat) : Nat × Nat :=
  let f := if type = 0 then fp32 else if type = 1 then bf16 else fp16
  if type = 3 then
    (if op = 0 then (x + y) % 2 ^ 32 else minMaxInt false (op == 2) 32 x y, 0)
  else
    let sig := sigFlag [decF f x, decF f y]
    let r := if op = 0 then opF f rne (addV 0 (decF f x) (decF f y)) else minMaxF f (op == 2) x y
    (r.1, Nat.lor r.2 sig)

/-- Fold a further input's elements into those of a chunk (R404). -/
def foldInput (m : Coll) (acc : List Nat) (xs : List Nat) : List Nat × Nat :=
  let rs := (acc.zip xs).map fun p => combineColl m.type m.op p.1 p.2
  (rs.map fun r => r.1, rs.foldl (fun f r => Nat.lor f r.2) 0)

/-- The elements of the contribution in a chunk. -/
def Coll.ownChunk (m : Coll) (q : Nat) : List Nat := (m.src.drop (q * m.chunk)).take m.chunk

/-- The packet in the area that holds an input of a chunk. -/
def Coll.inputPacket (m : Coll) (q n : Nat) : Option CollPacket :=
  m.area.find? fun p => !p.isResult && p.chunk == q && p.fromNode == n && p.digest == m.tag && !p.mismatch

/-- Fold the inputs of a chunk that are there, in list order (R404, R406). -/
def foldChunk (q : Nat) : Nat → Coll → Coll
  | 0, m => m
  | n + 1, m =>
    let ins := ((m.nodes[m.self]?).map fun x => x.inputs).getD []
    let done := m.folds.find? fun f => f.1 == q
    let k := (done.map fun f => f.2.1).getD 0
    let take := fun (m : Coll) (xs : List Nat) =>
      let r := match done with
        | some f => foldInput m f.2.2 xs
        | none => (xs, 0)
      foldChunk q n { m with folds := (q, k + 1, r.1) :: m.folds.filter (fun f => f.1 != q), flags := Nat.lor m.flags r.2 }
    match ins[k]? with
    | none => m
    | some i =>
      if i = m.self then take m (m.ownChunk q)
      else match m.inputPacket q i with
        | some p => take { m with area := dropOne p m.area, overdue := m.overdue || p.overdue } (p.data.map fun x => x.toNat)
        | none => m

/-- The nodes of a chain from a node on, while each has one child, up to 8 (R405). -/
def chainFrom (nodes : List CollNode) : Nat → Nat → List Nat
  | 0, _ => []
  | f + 1, n => n :: (match childrenOf nodes n with
    | [c] => chainFrom nodes f c
    | _ => [])

/-- Send a collective packet to the package of a node (R405). -/
def State.sendColl (s : State) (m : Coll) (p : CollPacket) (node : Nat) : State :=
  match m.nodes[node]? with
  | some x =>
    let k := ((s.member? m.task m.rank).map fun c => c.key).getD m.ctx
    s.sendFrom k.tile k.num 4 x.package 4 p.slack p.overdue (collWidth m.type * p.data.length) (.collective p)
  | none => s

/-- A packet of the collective from this node. -/
def Coll.packet (m : Coll) (isResult mismatch : Bool) (q : Nat) (xs : List Nat) (route : List Nat) : CollPacket :=
  { id := m.id, digest := m.tag, route := route, fromNode := m.self, isResult := isResult, mismatch := mismatch, chunk := q,
    data := xs.map fun x => BitVec.ofNat 32 x, slack := m.slack, overdue := false }

/-- Send a chunk of the result to the children in new packets (R405). -/
def State.sendDown (s : State) (m : Coll) (q : Nat) (xs : List Nat) : State :=
  m.children.foldl (fun s c => s.sendColl m (m.packet true false q xs (chainFrom m.nodes 8 c)) c) s

/-- What a node does with a chunk once its fold is complete (R404): the root has the result, and sends it down in an ALLREDUCE; another
node sends its fold up. -/
def foldedChunk (s : State) (m : Coll) (q : Nat) : State × Coll :=
  let ins := ((m.nodes[m.self]?).map fun x => x.inputs.length).getD 0
  match m.folds.find? fun f => f.1 == q && f.2.1 == ins with
  | none => (s, m)
  | some f =>
    if m.isRoot then
      if m.result.any fun r => r.1 == q then (s, m)
      else
        let m := { m with result := m.result ++ [(q, f.2.2)] }
        (if m.kind = 1 then s.sendDown m q f.2.2 else s, m)
    else if m.sentUp.contains q then (s, m)
    else
      let parent := ((m.nodes[m.self]?).map fun x => x.parent).getD 0
      (s.sendColl m (m.packet false false q f.2.2 [parent]) parent, { m with sentUp := m.sentUp ++ [q] })

/-- A delivering packet in the area is taken (R405, R406): its chunk is kept, and the packet goes on to the next entry of its route, or in new
packets to the children. -/
def deliverOne (s : State) (m : Coll) (p : CollPacket) : State × Coll :=
  let xs := p.data.map fun x => x.toNat
  let m := { m with area := dropOne p m.area, result := m.result ++ [(p.chunk, xs)], overdue := m.overdue || p.overdue }
  match p.route.drop 1 with
  | n :: r => (s.sendColl m { p with route := n :: r } n, m)
  | [] => (s.sendDown m p.chunk xs, m)

/-- A collective goes on as far as its packets let it (R403-R406). -/
def advanceColl (s : State) (m : Coll) : State × Coll :=
  let down := m.area.filter fun p => p.isResult && p.digest == m.tag && !p.mismatch
  let (s, m) := down.foldl (fun (x : State × Coll) p => deliverOne x.1 x.2 p) (s, m)
  (List.range m.chunks).foldl (init := (s, m)) fun (x : State × Coll) q =>
    if x.2.kind = 2 then
      if x.2.isRoot && !(x.2.result.any fun r => r.1 == q) then
        let m := { x.2 with result := x.2.result ++ [(q, x.2.ownChunk q)] }
        (x.1.sendDown m q (m.ownChunk q), m)
      else x
    else
      let m := foldChunk q 9 x.2
      foldedChunk x.1 m q

/-- Bytes that the packets of an area or a pool hold. -/
def packetBytes (width : Nat) (ps : List CollPacket) : Nat := ps.foldl (fun a p => a + width * p.data.length) 0

/-- Replace a collective's record. -/
def State.setColl (s : State) (m : Coll) : State :=
  { s with fab := { s.fab with colls := s.fab.colls.map fun x => if x.idx = m.idx then m else x } }

/-- A packet of a collective carries other digest bytes, or is a notice of mismatch (R409). -/
def Coll.refuses (m : Coll) (p : CollPacket) : Bool := p.mismatch || p.digest != m.tag

/-- A node has met a mismatch (R409). -/
def Coll.mismatched (m : Coll) : Bool := m.status.isNone && m.area.any m.refuses

/-- Offer a packet to a posted collective: what comes of it, none where the area has no room (R406, R409). -/
def State.offerColl (s : State) (m : Coll) (p : CollPacket) : Option State :=
  if m.status.isSome then some s
  else if m.refuses p then some (s.setColl { m with area := m.area ++ [p] })
  else
    let (s', m') := advanceColl s { m with area := m.area ++ [p] }
    let w := collWidth m.type
    if packetBytes w m'.area ≤ m.areaMax ∨ packetBytes w m'.area ≤ packetBytes w m.area then some (s'.setColl m') else none

/-- Packets of the early pool move into the areas of their collective as it is posted, and as room comes (R406). -/
def State.takeEarly (s : State) : State :=
  s.fab.early.foldl (init := s) fun s p =>
    match s.fab.colls.find? fun m => m.id == p.id with
    | none => s
    | some m => match s.offerColl m p with
      | some t => { t with fab := { t.fab with early := dropOne p t.fab.early } }
      | none => s

/-! ### The log -/

/-- The collective log has room (R403, R410). -/
def State.collLogRoom (s : State) : Bool :=
  (s.regs.colltail + 2 ^ 32 - s.regs.collhead) % 2 ^ 32 < 2 ^ bitsOf s.regs.colllog.toNat 47 40

/-- Write the log record of a posting (R403, R410). -/
def State.logColl (s : State) (m : Coll) : State :=
  let own := s.regs.podpackage
  let x := m.digest * 2 ^ 256 + s.podtime % 2 ^ 64 * 2 ^ 192 + m.id.key.toNat * 2 ^ 160 + m.id.step.toNat * 2 ^ 128 + m.self * 2 ^ 118 +
    m.id.domain * 2 ^ 114 + own * 2 ^ 105
  let r := s.regs
  let at_ := bitsOf r.colllog.toNat 38 12 * 4096 + 64 * (r.colltail % 2 ^ bitsOf r.colllog.toNat 47 40)
  { s with mem := s.mem.write at_ (bytesOf 64 x), regs := { r with colltail := (r.colltail + 1) % 2 ^ 32 } }

/-! ### COLL and COLLWAIT -/

/-- The bytes of a range of pages as the context reads them. -/
def State.imageBytes (s : State) (c : Ctx) (ps : List Piece) : List Byte := ps.flatMap fun p => s.readLoc c false p.key p.len

/-- Post a collective (R403). -/
def postColl (s : State) (c : Ctx) (b : CollBlock) (id : CollId) (digest : Nat) (src : List Byte) : State :=
  let (idx, s) := s.fresh
  let w := collWidth b.type
  let m : Coll :=
    { idx := idx, id := id, ctx := c.key, task := c.task, rank := c.rank, supervisor := c.supervisor, kind := b.kind, type := b.type, op := b.op,
      count := b.count, chunk := b.chunk, nodes := b.nodes, self := b.self, src := (chunksOf w (src.length / w) src).map numOf, dst := b.dst,
      slack := b.slack, digest := digest, area := [], areaMax := b.esize * 4096, folds := [], result := [], sentUp := [], flags := 0,
      status := none, overdue := false, bad := 0, held := false }
  let s := s.logColl m
  let (s, m') := advanceColl { s with fab := { s.fab with colls := s.fab.colls ++ [m] } } m
  (s.setColl m').takeEarly

/-- COLL (R395, R402, R403). -/
def execColl (w : FormX) (s : State) : Out :=
  runUniform s w.h false (some w.a) [w.b] fun s c => do
    let a ← readVal c w.b
    let k ← localRange s c a 64 32
    let head := s.readLoc c false k 64
    let n := bitsOf (numOf head) 15 6
    let k ← localRange s c a (64 + 32 * n) 32
    let d ← podGate s c
    let recs := s.readLoc c false (k + 64) (32 * n)
    let b := CollBlock.ofNums (numOf (head.take 32)) (numOf (head.drop 32)) ((chunksOf 32 n recs).map numOf)
    require (!b.malformed d s.regs.podpackage) fcTEMPLATE
    let root := ((b.nodes[b.self]?).map fun x => x.parent) == some 0x3FF
    let len := b.count * collWidth b.type
    let src ← if usesSrc b.kind root then do
        let ps ← rowPieces s c false b.slack 0 (len / 65536 + 2) b.src len
        s.waitFree c (spanAt c.key.tile (s.fromHome c b.src) len) false
        pure (s.imageBytes c ps)
      else pure []
    if usesDst b.kind root then
      let _ ← rowPieces s c true b.slack 0 (len / 65536 + 2) b.dst len
    let id : CollId := { domain := d.id, key := b.key, step := BitVec.ofNat 32 (c.snapshot.getD 4 0) }
    if s.fab.colls.any fun m => m.id == id then
      let c ← writeVal s c w.a 1
      return { s := s, c := c }
    else
      if 64 ≤ (s.fab.colls.filter fun m => m.status.isNone).length ∨ !s.collLogRoom then stall s
      let c ← writeVal s c w.a 0
      return { s := postColl s c b id (numOf (sha3 (head.take 32 ++ recs))) src, c := c }

/-- COLLWAIT (R408). -/
def execCollwait (w : FormX) (s : State) : Out :=
  runUniform s w.h false (resultOf w.a) [w.b] fun s c => do
    let key ← readVal c w.b
    parkGate s c
    workGate s c .fabric
    let step := BitVec.ofNat 32 (c.snapshot.getD 4 0)
    let mine := s.fab.colls.find? fun m =>
      c.isOwner m.task m.rank && m.id.key == key.truncate 32 && m.id.step == step && m.id.domain == c.domId 5
    let status : Option Nat := match mine with
      | none => some 1
      | some m => m.status
    match status with
    | none => waitEngine s c
    | some x => do
      let c := c.endRegion
      let c ← writeOpt s c w.a (BitVec.ofNat 64 x)
      return { s := s, c := c, ends := true }

/-! ### Events -/

/-- A packet of a step that this package has completed: nothing waits for it any more. -/
def State.staleColl (s : State) (p : CollPacket) : Bool :=
  match s.domain? 5 0 p.id.domain with
  | some d => let behind := (d.counter + 2 ^ 32 - p.id.step.toNat) % 2 ^ 32; behind != 0 && behind < 2 ^ 31
  | none => false

/-- COLL_PACKET_ARRIVAL (R406, R409): the packet is folded, delivered, kept in the area, or in the early pool; without room it stays with its
sender. -/
def execCollPacketArrival (p : CollPacket) (s : State) : Out :=
  match s.fab.colls.find? fun m => m.id == p.id with
  | some m => match s.offerColl m p with
    | some t => .next t.takeEarly
    | none => .refused (.notEnabled "COLL_PACKET_ARRIVAL")
  | none =>
    if s.staleColl p then .next s
    else if packetBytes 4 (s.fab.early ++ [p]) ≤ bitsOf s.regs.collcfg.toNat 63 44 * 65536 then
      .next { s with fab := { s.fab with early := s.fab.early ++ [p] } }
    else .refused (.notEnabled "COLL_PACKET_ARRIVAL")

/-- COLL_MISMATCH (R409): status 2, no result, notices to the parent and the children. -/
def execCollMismatch (s : State) : Out :=
  match s.fab.colls.find? fun m => m.idx == s.sel.a && m.mismatched with
  | some m =>
    let parent := ((m.nodes[m.self]?).map fun x => x.parent).getD 0x3FF
    let near := (if parent = 0x3FF then [] else [parent]) ++ m.children
    let s := near.foldl (fun s n => s.sendColl m (m.packet false true 0 [] [n]) n) s
    .next (s.setColl { m with status := some 2, area := [], bad := 0, held := false })
  | none => .refused (.notEnabled "COLL_MISMATCH")

/-- Every chunk has been folded, sent and received, and every packet has been accepted (R407). -/
def State.collReady (s : State) (m : Coll) : Bool :=
  let qs := List.range m.chunks
  m.status.isNone && m.bad == 0 && !m.mismatched &&
  (m.kind == 2 || m.isRoot || qs.all fun q => m.sentUp.contains q) &&
  (!(usesDst m.kind m.isRoot || m.isRoot) || qs.all fun q => m.result.any fun r => r.1 == q) &&
  (s.fab.queue ++ s.fab.outbound.map fun x => x.2).all fun q => match q.content with
    | .collective p => p.id != m.id
    | _ => true

/-- The result's bytes, in order. -/
def Coll.resultBytes (m : Coll) : List Byte :=
  ((List.range m.chunks).flatMap fun q => ((m.result.find? fun r => r.1 == q).map fun r => r.2).getD []).flatMap (bytesOf (collWidth m.type))

/-- Write a node's result (R407): where a later posted collective of the context has written before, its bytes remain. -/
def placeColl (s : State) (c : Ctx) (m : Coll) : Except EngineStop State := do
  if !usesDst m.kind m.isRoot then return s
  let bs := m.resultBytes
  let ps ← s.enginePieces { who := .work m.idx, c := c, supervisor := m.supervisor, slack := m.slack, overdue := m.overdue } true m.dst bs.length
  let later := (s.fab.colls.filter fun x => x.task == m.task && x.rank == m.rank && m.idx < x.idx && x.status == some 0 &&
    usesDst x.kind x.isRoot).map fun x => (x.dst.toNat, x.count * collWidth x.type)
  let wr : Writer := { c := c, steps := s.stepsOf c, direct := directWrite m.supervisor m.dst }
  let put := fun (s : State) (x : Piece × List Byte) =>
    (splitRuns x.1.addr.toNat x.2 fun a => meetsAny later a 1).foldlM (init := s) fun (s : State) r =>
      s.place wr (x.1.key + (r.1 - x.1.addr.toNat)) (BitVec.ofNat 64 r.1) r.2 none
  match (cutPieces ps bs).foldlM put s with
  | some s => return (leavesOf ps).foldl State.setDirty s
  | none => throw (.bad fcSTAGINGFULL m.dst)

/-- COLL_NODE_COMPLETE (R407): the result is written, with the flags of the node's folds; a fault found here is held. -/
def execCollNodeComplete (s : State) : Out :=
  match s.fab.colls.find? fun m => m.idx == s.sel.a with
  | none => .refused (.notEnabled "COLL_NODE_COMPLETE")
  | some m => match s.member? m.task m.rank with
    | none => .refused (.notEnabled "COLL_NODE_COMPLETE")
    | some c =>
      if !s.collReady m || s.sel.flag != m.overdue then .refused (.notEnabled "COLL_NODE_COMPLETE")
      else match placeColl s c m with
        | .ok s =>
          let s := (s.forgetSeeker (.work m.idx)).setColl { m with status := some 0, area := [] }
          .next (s.updOwner m.task m.rank fun c =>
            let c := c.orFlags m.flags
            if m.overdue then c.countOverdue 7 else c)
        | .error (.note s) => .next s
        | .error (.bad code _) => .next ((s.forgetSeeker (.work m.idx)).setColl { m with bad := code })
        | .error _ => .refused (.notEnabled "COLL_NODE_COMPLETE")

end Sys2Proof.Machine
end

