-- ==== Sys2Proof/Machine/Control.lean ====
section
/-! DEFINITION. Transfers of control, issue control and block headers (R74, R75, R142-R147). -/

namespace Sys2Proof.Machine

/-- A relative target: the instruction's own address and a signed offset in words (R142). -/
def relTarget (pc : Word) (off : BitVec n) : Word := pc + off.signExtend 64 * 8

/-- Write the link of a call to s63: the address of the next word (R143). -/
def writeLink (s : State) (c : Ctx) : Try Ctx := writeRf s c (c.sloc 63) 8 (cellsAt (c.sloc 63) (bytesOf 8 (c.pc + 8).toNat))

/-- Make a transfer (R142): the decision is the context's own, or its leader's; a taken one checks its target, may write a link, and
empties the latch. -/
def transfer (s : State) (c : Ctx) (own : Option Word) (link : Bool) : Try Done :=
  let d := c.decide own
  match d.1 with
  | none => .ok { s := s, c := c.clearLatch.orFlags d.2 }
  | some t => do
    s.checkTarget c t
    let c' ← if link then writeLink s c else .ok c
    return { s := s, c := c'.clearLatch.orFlags d.2, jump := some t }

/-- A relative transfer (R143). -/
def runRelative (s : State) (w : FormB) (link : Bool) : Out :=
  runInstr s w.h false [] fun s c g => transfer s c (if g.getLsbD 0 then some (relTarget c.pc w.off) else none) link

/-- A transfer to the address in a source (R144). -/
def runIndirect (s : State) (w : FormA) (link : Bool) : Out :=
  runInstr s w.h false [w.a] fun s c g =>
    if g.getLsbD 0 then do
      let t ← readVal c w.a
      transfer s c (some t) link
    else transfer s c none link

/-- BR (R143). -/
def execBr (w : FormB) (s : State) : Out := runRelative s w false

/-- CALL (R143). -/
def execCall (w : FormB) (s : State) : Out := runRelative s w true

/-- BRI (R144). -/
def execBri (w : FormA) (s : State) : Out := runIndirect s w false

/-- CALLI (R144): the link is written after the target is read. -/
def execCalli (w : FormA) (s : State) : Out := runIndirect s w true

/-- RET (R144). -/
def execRet (w : FormA) (s : State) : Out := runIndirect s w false

/-- LOOP (R145). -/
def execLoop (w : FormI) (s : State) : Out :=
  runInstr s w.h false [w.a] fun s c g =>
    if g.getLsbD 0 then do
      let a ← readVal c w.a
      let n := a - 1
      let d := c.decide (if n = 0 then none else some (relTarget c.pc w.imm))
      match d.1 with
      | none => do
        let c' ← writeVal s c w.dst n
        return { s := s, c := c'.orFlags d.2 }
      | some t => do
        s.checkTarget c t
        let c' ← writeVal s c w.dst n
        return { s := s, c := c'.clearLatch.orFlags d.2, jump := some t }
    else
      let d := c.decide none
      .ok { s := s, c := (if d.1.isSome then c.clearLatch else latchUnchanged c false w.dst).orFlags d.2, jump := d.1 }

/-- NOP (R146). -/
def execNop (w : FormA) (s : State) : Out :=
  runUniform s w.h false none [] fun s c => .ok { s := s, c := c.clearLatch }

/-- PARK (R146). -/
def execPark (w : FormA) (s : State) : Out :=
  runUniform s w.h false none [] fun s c => do
    parkGate s c
    return { s := s, c := c.clearLatch, ends := true }

/-- Another context of the tile is ready, not counting those held back by a YIELD, parked, or without their next word (R121, R146). -/
def State.othersReady (s : State) (c : Ctx) : Bool :=
  s.ctxs.any fun d => d.key.tile == c.key.tile && d.key != c.key && s.ready d && d.fetches.isEmpty && d.wait == .none

/-- YIELD (R146): parks, then defers to other ready contexts for up to eight cycles. -/
def execYield (w : FormA) (s : State) : Out :=
  runUniform s w.h false none [] fun s c => do
    parkGate s c
    if c.wait != .yield 0 && s.othersReady c then
      stall (s.updCtx c fun c => match c.wait with
        | .yield _ => c
        | _ => { c with wait := .yield (s.cycle + 8) })
    return { s := s, c := c.clearLatch, ends := true }

/-- WFE (R147): parks, then waits for a queued event or the limit. A follower takes the leader's value. -/
def execWfe (w : FormA) (s : State) : Out :=
  runUniform s w.h false (some w.dst) [w.a] fun s c => do
    let a ← readVal c w.a
    parkGate s c
    let complete : Word → Try Done := fun x => do
      let c ← writeVal s c w.dst x
      return { s := s, c := c, ends := true }
    match c.forwarded with
    | some f => complete f.value
    | none =>
      if !c.evq.isEmpty then complete 1
      else
        let lim := a.toNat % 2 ^ 32
        match c.wait with
        | .wfe _ (some 0) => complete 0
        | .wfe _ _ => stall s
        | _ => stall (s.updCtx c fun c => { c with wait := .wfe w (if lim = 0 then none else some (s.cycle + lim)) })

/-- A result for the bytes of a predicate is still to come (R75). -/
def State.predicatePending (s : State) (c : Ctx) (a : Nat) : Bool :=
  c.awaits a 8 || (s.mxOf c).any fun m => meetsAny m.writes a 8

/-- The header at pc is entered (R75): where the guard's predicate is 0 in every lane, control skips to the reconvergence header. -/
def enterBlock (s : State) (c : Ctx) (h : HeaderWord) : Try Ctx := do
  require c.atHeader fcILLEGAL
  requireAt h.wf fcILLEGAL c.pc
  let a := c.ploc h.guard
  if h.guard != 0 && s.predicatePending c a then stall s
  let own : Option Word := if h.guard != 0 && c.rf.num a 8 == 0 then some (relTarget c.pc h.reconv) else none
  let d := c.decide own
  let c' := { c with fwd := if c.follower then c.fwd.drop 1 else c.fwd }.orFlags d.2
  match d.1 with
  | none =>
    let n := if h.length = 0 then 256 else h.length.toNat
    return { c' with pc := c.pc + 8, atHeader := false, blockEnd := c.pc + 8 + BitVec.ofNat 64 (8 * n) }
  | some t => do
    s.checkTarget c t
    return { c'.clearLatch with pc := t, atHeader := true, blockEnd := 0 }

/-- BLOCK_HEADER (R75). -/
def execBlockHeader (h : HeaderWord) (s : State) : Out :=
  match s.ctx? s.sel.ctx with
  | none => .fault .noContext
  | some c => match enterBlock s c h with
    | .ok c' => .next ((s.forgetWalks c.key).setCtx c')
    | .error (.trap t) => .next (s.dueFault c t)
    | .error (.stall s') => .next s'

/-- UNDEFINED_OPCODE (R85, R88 check 2). -/
def execUndefinedOpcode (_w : Word) (s : State) : Out :=
  match s.ctx? s.sel.ctx with
  | none => .fault .noContext
  | some c => .next (s.dueFault c { code := fcILLEGAL })

/-- WFE_LIMIT_EXPIRY (R147): the limit has passed and the WFE completes; a gang leader's goes to the followers (R137). -/
def execWfeLimitExpiry (s : State) : Out :=
  match s.ctx? s.sel.ctx with
  | some c => match c.wait with
    | .wfe w (some d) =>
      if d ≤ s.cycle && c.evq.isEmpty then
        match execWfe w (s.updCtx c fun c => { c with wait := .wfe w (some 0) }) with
        | .next t => .next (forwardIssue c (.wfe w) ((encode (.wfe w)).getD 0) t)
        | o => o
      else .refused (.notEnabled "WFE_LIMIT_EXPIRY")
    | _ => .refused (.notEnabled "WFE_LIMIT_EXPIRY")
  | none => .refused (.notEnabled "WFE_LIMIT_EXPIRY")

/-- YIELD_EXPIRY (R146): eight cycles have passed, or no other context is ready. -/
def execYieldExpiry (s : State) : Out :=
  match s.ctx? s.sel.ctx with
  | some c => match c.wait with
    | .yield d =>
      if d != 0 && (d ≤ s.cycle || !s.othersReady c) then .next (s.updCtx c fun c => { c with wait := .yield 0 })
      else .refused (.notEnabled "YIELD_EXPIRY")
    | _ => .refused (.notEnabled "YIELD_EXPIRY")
  | none => .refused (.notEnabled "YIELD_EXPIRY")

/-- USER_EVENT_ENTRY (R204, R205): the head of the queue is delivered at an instruction boundary, once the outstanding results have returned. -/
def execUserEventEntry (s : State) : Out :=
  match s.ctx? s.sel.ctx with
  | some c => match c.evq with
    | _ :: _ =>
      if c.deliverable then
        let c := { c with wait := .entry }
        .next ((s.setCtx c).settle c)
      else .refused (.notEnabled "USER_EVENT_ENTRY")
    | [] => .refused (.notEnabled "USER_EVENT_ENTRY")
  | none => .refused (.notEnabled "USER_EVENT_ENTRY")

/-- GANG_FORWARD_ARRIVAL (R137): the first forwarded word reaches the follower's buffer. -/
def execGangForwardArrival (s : State) : Out :=
  match s.ctx? s.sel.ctx with
  | some c => match c.fwdWire with
    | f :: r =>
      if f.due ≤ s.cycle then .next (s.updCtx c fun c => { c with fwd := c.fwd ++ [f], fwdWire := r })
      else .refused (.notEnabled "GANG_FORWARD_ARRIVAL")
    | [] => .refused (.notEnabled "GANG_FORWARD_ARRIVAL")
  | none => .refused (.notEnabled "GANG_FORWARD_ARRIVAL")

end Sys2Proof.Machine
end

