-- ==== Sys2Proof/Machine/System.lean ====
section
/-! DEFINITION. The system instructions (R206, R208-R213) and the control registers: per-context ones (R104, R105, R140, R141, R196, R198, R202,
R219, R248, R306, R316) and the package's (R46, R106, R207, R214 and the engines' chapters). -/

namespace Sys2Proof.Machine

/-! ### Control registers -/

/-- ULESTAT (R202). -/
def Ctx.ulestat (c : Ctx) : Nat := c.evq.length * 256 + b2n c.uleLost * 4 + b2n c.uleActive * 2 + b2n c.uleEn

/-- CTXSTAT (R141). -/
def Ctx.ctxstat (c : Ctx) : Nat :=
  c.key.tile * 2 ^ 38 + c.key.num * 2 ^ 35 + b2n c.supervisor * 4 + b2n c.leader * 2 + b2n c.follower

/-- A control register of a context; 0 for a number that is none of them. -/
def Ctx.csr (c : Ctx) (n : Nat) : Nat :=
  match n with
  | 0x000 => c.flags.toNat
  | 0x001 => c.flagen.toNat
  | 0x002 => c.viewb.toNat
  | 0x003 => c.ctxstat
  | 0x004 => c.ulevec.toNat
  | 0x005 => c.ulestat
  | 0x006 => c.uleen.toNat
  | 0x007 => c.fltdlg.toNat
  | 0x008 => c.faultinfo.toNat
  | 0x009 => c.faultpc.toNat
  | 0x00A => c.faultaddr.toNat
  | 0x017 => c.slk
  | 0x018 => c.slkctl.toNat
  | 0x019 => c.odcnt
  | 0x020 => c.stpkey.toNat
  | 0x021 => c.stpmem
  | 0x022 => c.srcnt
  | 0x028 => c.tmplbase.toNat
  | 0x100 => c.svec.toNat
  | 0x101 => c.svpc.toNat
  | 0x210 => c.stepdom.toNat
  | 0x230 => c.mpdw0.toNat
  | 0x231 => c.mpdw1.toNat
  | 0x232 => c.mpdw2.toNat
  | _ => if 0x010 ≤ n ∧ n ≤ 0x016 then c.slktab.getD (n - 0x010) 0xFFFF else 0

/-- A package register (R208). -/
def State.pkgCsr (s : State) (n : Nat) : Nat :=
  let r := s.regs
  match n with
  | 0x200 => r.maxmsg
  | 0x201 => r.sfqbase.toNat
  | 0x202 => r.sfqsize
  | 0x203 => r.sfqhead
  | 0x204 => r.sfqtail
  | 0x205 => s.stageUsed % 2 ^ 21 * 2 ^ 43 + r.stagebase * 2 ^ 30 + r.stagesize
  | 0x206 => r.waitto
  | 0x211 => r.domto.toNat
  | 0x220 => r.placectl.toNat
  | 0x221 => r.savepool.toNat
  | 0x222 => r.balctl.toNat
  | 0x223 => r.trcctl.toNat
  | 0x240 => r.ptroot.toNat
  | 0x241 => r.cntcfg.toNat
  | 0x242 => r.nqcfg.toNat
  | 0x243 => r.nqtail * 2 ^ 32 + r.nqhead
  | 0x245 => r.peercache.toNat
  | 0x246 => r.errcnt.toNat
  | 0x250 => r.hbmclk.toNat
  | 0x280 => r.fabctl.toNat
  | 0x281 => r.relaycfg.toNat
  | 0x282 => s.podcfg
  | 0x290 => r.rtcfg.toNat
  | 0x291 => r.rtslots.toNat
  | 0x292 => r.colllog.toNat
  | 0x293 => r.colltail * 2 ^ 32 + r.collhead
  | 0x294 => r.collcfg.toNat
  | _ => if 0x260 ≤ n ∧ n ≤ 0x27F then (s.port (n - 0x260)).word else 0

/-- A CSR number that names a register of the context. -/
def csrOfCtx (n : Nat) : Bool := n < 0x200 || n == 0x210 || (0x230 ≤ n && n ≤ 0x232)

/-- The value of a control register (R208). -/
def State.csr (s : State) (c : Ctx) (n : Nat) : Nat := if csrOfCtx n then c.csr n else s.pkgCsr n

/-- Bits of a mask of fields, each by its highest and lowest bit. -/
def fieldMask (fs : List (Nat × Nat)) : Nat := fs.foldl (fun m f => m + (2 ^ (f.1 + 1) - 2 ^ f.2)) 0

/-- A value cut to the fields of a register that can be written (R6, R7). -/
def rwOf (fs : List (Nat × Nat)) (x : Nat) : Word := BitVec.ofNat 64 (Nat.land x (fieldMask fs))

/-- Write a control register of the context: `v` gives its RW fields and `w` has a 1 for each W1C field to clear; ILLEGAL where the result is
not allowed (R210). -/
def Ctx.setCsr (c : Ctx) (n v w : Nat) : Try Ctx :=
  let x := BitVec.ofNat 64 v
  match n with
  | 0x000 => .ok { c with flags := x &&& flagMask }
  | 0x001 => .ok { c with flagen := x &&& flagMask }
  | 0x002 => if viewOk x then .ok { c with viewb := x } else fault fcILLEGAL
  | 0x004 => .ok { c with ulevec := x }
  | 0x005 => .ok { c with uleEn := bitAt v 0, uleLost := c.uleLost && !bitAt w 2 }
  | 0x006 => .ok { c with uleen := rwOf [(5, 5), (3, 1)] v }
  | 0x007 => .ok { c with fltdlg := rwOf [(20, 12), (10, 1)] v }
  | 0x017 => .ok { c with slk := v % 2 ^ 16 }
  | 0x018 => .ok { c with slkctl := rwOf [(0, 0)] v }
  | 0x019 => .ok { c with odcnt := v % 2 ^ 32 }
  | 0x020 => .ok { c with stpkey := x }
  | 0x021 => if v % 2 ^ 16 ≤ 0xFFFE then .ok { c with stpmem := v % 2 ^ 16 } else fault fcILLEGAL
  | 0x022 => .ok { c with srcnt := v % 2 ^ 32 }
  | 0x028 => .ok { c with tmplbase := rwOf [(19, 8)] v }
  | 0x100 => .ok { c with svec := x }
  | 0x101 => .ok { c with svpc := x }
  | _ => .ok (if 0x010 ≤ n ∧ n ≤ 0x016 then { c with slktab := c.slktab.set (n - 0x010) (v % 2 ^ 16) } else c)

/-- Fields of the registers that hold a base in bits 38:16 and a size in bits 63:44. -/
def sizedBase : List (Nat × Nat) := [(63, 44), (38, 16)]

/-- A written head of the fault queue is taken unless it lies above the tail (R207). -/
def headTaken (old new tail : Nat) : Bool := (new + 2 ^ 32 - old) % 2 ^ 32 ≤ (tail + 2 ^ 32 - old) % 2 ^ 32

/-- STAGECFG written (R46). -/
def State.setStagecfg (s : State) (v : Nat) : State :=
  let size := max 1 (min 64 (v % 2 ^ 7))
  { s with regs := { s.regs with stagesize := size, stagebase := if s.stageUsed = 0 then bitsOf v 38 30 else s.regs.stagebase } }

/-- FPORT of a port written (R380). -/
def State.setFport (s : State) (port v w : Nat) (named : Bool) : State :=
  let s := if bitAt w 2 then s.setPort { s.port port with degraded := false } else s
  if named then s.enablePort port (bitsOf v 47 32) else s

/-- Write a package register: `v` gives its RW fields, `w` the W1C fields to clear, `named` whether the write names an RW field (R208). -/
def State.setPkgCsr (s : State) (n v w : Nat) (named : Bool) : State :=
  let r := s.regs
  match n with
  | 0x200 => { s with regs := { r with maxmsg := max 2 (min 9 (v % 16)) } }
  | 0x201 => { s with regs := { r with sfqbase := rwOf [(38, 12)] v } }
  | 0x202 => { s with regs := { r with sfqsize := if v % 32 = 0 then 0 else max 6 (min 16 (v % 32)) } }
  | 0x203 => { s with regs := { r with sfqhead := if headTaken r.sfqhead (v % 2 ^ 32) r.sfqtail then v % 2 ^ 32 else r.sfqhead } }
  | 0x205 => s.setStagecfg v
  | 0x206 => { s with regs := { r with waitto := v % 256 } }
  | 0x211 => { s with regs := { r with domto := rwOf [(39, 0)] v } }
  | 0x220 => { s with regs := { r with placectl := BitVec.ofNat 64 v } }
  | 0x221 => { s with regs := { r with savepool := rwOf sizedBase v } }
  | 0x222 => { s with regs := { r with balctl := rwOf [(39, 0)] v } }
  | 0x223 => { s with regs := { r with trcctl := rwOf [(63, 40), (38, 12)] v }, traceCount := [] }
  | 0x240 => { s with regs := { r with ptroot := rwOf [(38, 13), (0, 0)] v } }
  | 0x241 => { s with regs := { r with cntcfg := rwOf [(63, 40), (38, 12)] v } }
  | 0x242 => { s with regs := { r with nqcfg := rwOf [(47, 40), (38, 12)] v } }
  | 0x243 => { s with regs := { r with nqhead := v % 2 ^ 32 } }
  | 0x245 => { s with regs := { r with peercache := rwOf sizedBase v } }
  | 0x246 => { s with regs := { r with errcnt := BitVec.ofNat 64 v } }
  | 0x250 =>
    let s := { s with regs := { r with hbmclk := rwOf [(15, 0)] v } }
    { s with bd := { s.bd with target := (List.range 8).map fun k => bitsOf v (2 * k + 1) (2 * k) } }
  | 0x280 => { s with regs := { r with fabctl := rwOf [(7, 0)] v } }
  | 0x281 => { s with regs := { r with relaycfg := rwOf ((15, 0) :: sizedBase) v } }
  | 0x282 => { s with regs := { r with podsize := bitsOf v 18 9, podpackage := bitsOf v 8 0 } }
  | 0x290 => { s with regs := { r with rtcfg := rwOf sizedBase v } }
  | 0x291 => { s with regs := { r with rtslots := rwOf [(38, 11)] v } }
  | 0x292 => { s with regs := { r with colllog := rwOf [(47, 40), (38, 12)] v } }
  | 0x293 => { s with regs := { r with collhead := v % 2 ^ 32 } }
  | 0x294 => { s with regs := { r with collcfg := rwOf sizedBase v } }
  | _ => if 0x260 ≤ n ∧ n ≤ 0x27F then s.setFport (n - 0x260) v w named else s

/-- Write a control register (R208, R210). -/
def setCsr (s : State) (c : Ctx) (n v w : Nat) (named : Bool) : Try (State × Ctx) :=
  if csrOfCtx n then do
    let c ← c.setCsr n v w
    return (s, c)
  else .ok (s.setPkgCsr n v w named, c)

/-- Reads of FLAGS wait for the flags of the context's matrix commands (R199). -/
def flagsReady (s : State) (c : Ctx) : Try Unit := if (s.mxOf c).isEmpty then .ok () else stall s

/-- CSRR (R210). -/
def execCsrr (w : FormI) (s : State) : Out :=
  runValue s w.h w.dst [] fun s c => do
    let n := w.imm.toNat % 4096
    if n = 0 then flagsReady s c
    return (BitVec.ofNat 64 (s.csr c n), 0)

/-- CSRW (R210). -/
def execCsrw (w : FormI) (s : State) : Out :=
  let n := w.imm.toNat % 4096
  runUniform s w.h (csrPrivileged n) none [w.a] fun s c => do
    let a ← readVal c w.a
    let (s, c) ← setCsr s c n a.toNat a.toNat true
    return { s := s, c := c.clearLatch }

/-- CSRS (R210): RW fields only. -/
def execCsrs (w : FormI) (s : State) : Out :=
  let n := w.imm.toNat % 4096
  runUniform s w.h (csrPrivileged n) none [w.a] fun s c => do
    let a ← readVal c w.a
    if n = 0 then flagsReady s c
    let (s, c) ← setCsr s c n (Nat.lor (s.csr c n) a.toNat) 0 (bitsOf a.toNat 47 32 != 0)
    return { s := s, c := c.clearLatch }

/-- CSRC (R210): RW fields, and W1C fields by a 1. -/
def execCsrc (w : FormI) (s : State) : Out :=
  let n := w.imm.toNat % 4096
  runUniform s w.h (csrPrivileged n) none [w.a] fun s c => do
    let a ← readVal c w.a
    if n = 0 then flagsReady s c
    let (s, c) ← setCsr s c n (Nat.land (s.csr c n) (2 ^ 64 - 1 - a.toNat)) a.toNat (bitsOf a.toNat 47 32 != 0)
    return { s := s, c := c.clearLatch }

/-! ### Flags, views, slack, clocks -/

/-- TFENCE (R210). -/
def execTfence (w : FormA) (s : State) : Out :=
  runUniform s w.h false none [] fun s c => do
    flagsReady s c
    let hit := (c.flags &&& c.flagen).toNat
    if hit ≠ 0 then .error (.trap { code := fcARITH, detail := hit })
    return { s := s, c := c.clearLatch }

/-- FLAGRD (R210). -/
def execFlagrd (w : FormA) (s : State) : Out :=
  runValue s w.h w.dst [] fun s c => do
    flagsReady s c
    return (c.flags, 0)

/-- FLAGCLR (R210). -/
def execFlagclr (w : FormA) (s : State) : Out :=
  runUniform s w.h false none [w.a] fun s c => do
    let a ← readVal c w.a
    flagsReady s c
    return { s := s, c := { c with flags := c.flags &&& ~~~a }.clearLatch }

/-- The view bases after VIEW (R210): field f is bits 16 f + 15 to 16 f. -/
def viewOf (old new : Word) (fields : Nat) : Word :=
  let pick := fun (f : Nat) => bitsOf (if bitAt fields f then new else old).toNat (16 * f + 15) (16 * f) * 2 ^ (16 * f)
  BitVec.ofNat 64 (pick 0 + pick 1 + pick 2 + pick 3)

/-- VIEW (R125, R210). -/
def execView (w : FormI) (s : State) : Out :=
  runUniform s w.h false none [w.a] fun s c => do
    let a ← readVal c w.a
    let v := viewOf c.viewb a (w.imm.toNat % 16)
    require (viewOk v) fcILLEGAL
    parkGate s c
    return { s := s, c := { c with viewb := v }.clearLatch, ends := true }

/-- SETSLK (R104, R210). -/
def execSetslk (w : FormA) (s : State) : Out :=
  runUniform s w.h false none [w.a] fun s c => do
    let a ← readVal c w.a
    return { s := s, c := { c with slk := a.toNat % 2 ^ 16 }.clearLatch }

/-- CYCLE (R213). -/
def execCycle (w : FormA) (s : State) : Out := runValue s w.h w.dst [] fun s _ => .ok (BitVec.ofNat 64 s.cycle, 0)

/-- PODTIME (R213). -/
def execPodtime (w : FormA) (s : State) : Out := runValue s w.h w.dst [] fun s _ => .ok (BitVec.ofNat 64 s.podtime, 0)

/-! ### Traps and returns -/

/-- Entry to supervisor mode (R206). -/
def Ctx.enterSupervisor (c : Ctx) (code : Nat) (arg : Word) : Ctx :=
  { c with svSaved := some (c.saveAt (c.pc + 8) true), svpc := c.pc + 8, supervisor := true,
           rf := c.rf.write supervisorBase (bytesOf 8 code ++ bytesOf 8 arg.toNat), latch := .empty, latchTok := none }

/-- TRAP (R206, R211). -/
def execTrap (w : FormI) (s : State) : Out :=
  runUniform s w.h false none [w.a] fun s c => do
    let a ← readVal c w.a
    let code := w.imm.toNat % 2 ^ 16
    if code < 0x8000 ∨ c.supervisor ∨ c.svec = 0 then
      .error (.trap { code := fcTRAP, detail := code, addr := a, nextPc := true })
    else
      parkGate s c
      return { s := s, c := c.enterSupervisor code a, jump := some c.svec, ends := true }

/-- Return to a place (R212): the saved place with its latch, or a block header with the latch empty. -/
def Ctx.comeBack (c : Ctx) (sv : Saved) (t : Word) : Ctx :=
  if t = sv.pc then
    { c with latch := sv.latch, latchTok := sv.latchTok, pc := (sv.next).getD t, blockEnd := sv.blockEnd, atHeader := sv.atHeader,
             wait := if sv.next.isSome then .drain t else .none }.refreshLatch
  else { c with latch := .empty, latchTok := none, pc := t, blockEnd := 0, atHeader := true, wait := .none }

/-- Complete a return: control is at the place returned to, and a marked instruction's park that goes on there is looked at (R242). -/
def finishReturn (s : State) (c : Ctx) : State :=
  let c := { c.endRegion with fwd := if c.follower then c.fwd.drop 1 else c.fwd }
  ((s.forgetWalks c.key).setCtx c).resumePark c

/-- ERETU (R212). A follower returns where its leader does, with DIV where its own place differs (R137, R138). -/
def execEretu (w : FormA) (s : State) : Out :=
  runUniform s w.h false none [] fun s c => do
    parkGate s c
    require c.uleActive fcILLEGAL
    match c.uleSaved with
    | none => fault fcILLEGAL
    | some sv => do
      let own := BitVec.ofNat 64 (c.rf.num (handlerBase + 16) 8)
      let t := match c.forwarded with
        | some f => f.target.getD sv.pc
        | none => own
      if t ≠ sv.pc then s.checkTarget c t
      let c := ({ c with uleActive := false, uleKind := 0, uleSaved := none }.orFlags (flagIf (own != t) flagDIV)).comeBack sv t
      return { s := finishReturn s c, c := c, left := true }

/-- ERET (R212). -/
def execEret (w : FormA) (s : State) : Out :=
  runUniform s w.h true none [] fun s c => do
    parkGate s c
    match c.svSaved with
    | none => fault fcILLEGAL
    | some sv => do
      if c.svpc ≠ sv.pc then s.checkTarget c c.svpc
      let c := { c with supervisor := false, svSaved := none }.comeBack sv c.svpc
      return { s := finishReturn s c, c := c, left := true }

end Sys2Proof.Machine
end

