-- ==== Sys2Proof/Machine/HostLink.lean ====
section
/-! DEFINITION. The host link and the control window (R425-R430), firmware (R431, R432), staged bring-up and the boot record (R433-R435), attestation
(R436), errors (R437), power and heat (R438). -/

namespace Sys2Proof.Machine

/-- Change the record of the host link. -/
def State.updHost (s : State) (f : HostLink → HostLink) : State := { s with host := f s.host }

/-! ### HOSTSTAT and submissions -/

/-- Count a discarded access in the field of HOSTSTAT at a bit position (R429). -/
def State.countHost (s : State) (at_ : Nat) : State :=
  let v := s.host.hoststat.toNat
  if bitsOf v (at_ + 15) at_ = 0xFFFF then s else s.updHost fun h => { h with hoststat := BitVec.ofNat 64 (v + 2 ^ at_) }

/-- A write to HOSTSTAT (R429): whole, or one half. -/
def State.setHoststat (s : State) (half : Option Bool) (v : Word) : State :=
  let old := s.host.hoststat
  s.updHost fun h => { h with hoststat := match half with
    | none => v
    | some false => (old.extractLsb' 32 32) ++ (v.extractLsb' 0 32)
    | some true => (v.extractLsb' 0 32) ++ (old.extractLsb' 0 32) }

/-- A write to the active-message window (R428); none where the tile's queue is full and the write waits for credit. -/
def State.hostMessage (s : State) (offset : Nat) (data : List Byte) : Option State :=
  if !s.host.ready then some (s.countHost 48)
  else if data.length ≠ 32 ∨ offset % 32 ≠ 0 then some (s.countHost 32)
  else
    let (q, t) := s.fresh
    match messageOf q data true with
    | none => some (s.countHost 32)
    | some m => if s.messagesFull m.tile then none else some (t.sendMessage m (dieAnchor 0))

/-- The page of the dispatch engine's read for the host, walked at once (R331, R332): DESIGN CHOICE, log entry 98. -/
def State.hostLeaf (s : State) (a : Word) : Option (Leaf × State) :=
  if !(virtualOk a && s.xlatOn) then none
  else match s.walkAll (vaOf a) with
    | .leaf e => if 2 ≤ e.tier || e.poison then none else some (e, if e.accessed then s else s.orEntry e.at_ 128)
    | _ => none

/-- The bytes that it reads, page by page. -/
def State.hostPages (s : State) : Nat → Word → Nat → Option (List Byte × State)
  | 0, _, _ => some ([], s)
  | f + 1, a, n =>
    if n = 0 then some ([], s)
    else do
      let (e, t) ← s.hostLeaf a
      let k := min n (e.va + e.size - vaOf a)
      let (rest, t) ← t.hostPages f (a + BitVec.ofNat 64 k) (n - k)
      return (s.mem.read (e.keyOf (vaOf a)) k ++ rest, t)

/-- The dispatch engine's read for the host (R428): the committed image, checked as a supervisor-mode read; none where it cannot be
translated or read. -/
def State.hostRead (s : State) (a : Word) (n : Nat) : Option (List Byte × State) :=
  if n = 0 || !properVirtual a.toNat then some ([], s) else s.hostPages (n / 65536 + 2) a n

/-- TCBSUB while the supervisor accepts work (R428): the status and the state. -/
def State.hostSubmit (s : State) (a : Word) : Nat × State :=
  if !properVirtual a.toNat || a.toNat % 128 != 0 then (5, s)
  else match s.hostRead a 128 with
    | none => (5, s)
    | some (bs, s1) =>
      let n := numOf bs
      let nsucc := bitsOf n 191 184
      let rc := bitsOf n 447 384
      match s1.hostRead (BitVec.ofNat 64 (bitsOf n 319 256)) (8 * nsucc) with
      | none => (5, s1)
      | some (ss, s2) => match s2.hostRead (BitVec.ofNat 64 rc) (if rc = 0 then 0 else 64) with
        | none => (5, s2)
        | some (rs, s3) =>
          let b := blockOf n (wordsOf ss nsucc) (if rc = 0 then none else some (numOf rs))
          let st := s3.submitStatus a (s3.blockMalformed n || (rc != 0 && recordMalformed (numOf rs))) b
          if st ≠ 0 then (st, s3) else (0, (s3.submit a (BitVec.ofNat 32 (bitsOf n 63 32)) b none).2)

/-- A write to TCBSUB (R428). -/
def State.tcbWrite (s : State) (a : Word) : State :=
  if !s.host.ready then s.countHost 48
  else
    let (st, s) := s.hostSubmit a
    s.updHost fun h => { h with tcbCount := (h.tcbCount + 1) % 2 ^ 32, tcbStatus := st }

/-- TCBSUB (R428). -/
def execTcbsub (addr : Word) (s : State) : Out :=
  if s.host.linkUp then .next (s.tcbWrite addr) else .refused (.notEnabled "TCBSUB")

/-- HOST_ACTIVE_MESSAGE (R428). -/
def execHostActiveMessage (offset : Nat) (data : List Byte) (s : State) : Out :=
  if !s.host.linkUp then .refused (.notEnabled "HOST_ACTIVE_MESSAGE")
  else match s.hostMessage offset data with
    | some t => .next t
    | none => .refused (.notEnabled "HOST_ACTIVE_MESSAGE")

/-- HOSTSTAT_WRITE (R429). -/
def execHoststatWrite (half : Option Bool) (value : Word) (s : State) : Out :=
  if s.host.linkUp then .next (s.setHoststat half value) else .refused (.notEnabled "HOSTSTAT_WRITE")

/-- HOST_BAR2_ACCESS (R426): a read gives the committed image and changes nothing. -/
def execHostBar2Access (offset : Nat) (write : Bool) (data : List Byte) (s : State) : Out :=
  let a := s.host.bar2base + offset
  if !s.host.linkUp then .refused (.notEnabled "HOST_BAR2_ACCESS")
  else if 2 ^ 39 < a + data.length then .next (s.countHost 16)
  else if write then .next (s.hostWrite a data) else .next s

/-- What a host read through BAR2 returns (R426): all ones where it reaches beyond 512 GiB. -/
def State.bar2Read (s : State) (offset n : Nat) : List Byte :=
  let a := s.host.bar2base + offset
  if 2 ^ 39 < a + n then List.replicate n 0xFF else s.mem.read a n

/-! ### The event ring -/

/-- The event ring has room (R430). -/
def State.eventRoom (s : State) : Bool :=
  (s.host.evtail + 2 ^ 32 - s.host.evhead) % 2 ^ 32 < 2 ^ (s.host.evcfg.toNat % 32)

/-- The first record that waits is written to the ring (R430); none where none waits, the link is down, or there is no room. -/
def State.postRing (s : State) : Option State :=
  match s.host.evwait with
  | [] => none
  | r :: rest =>
    if s.host.linkUp && s.eventRoom then
      let h := s.host
      let a := h.evbase.toNat + 64 * (h.evtail % 2 ^ (h.evcfg.toNat % 32))
      let irq := bitAt h.evcfg.toNat 8
      some { s with mem := s.mem.write (hostKey a) r,
                    host := { h with evwait := rest, evtail := (h.evtail + 1) % 2 ^ 32, msix := h.msix + b2n irq } }
    else none

/-- EVENT_RECORD_POST (R430). -/
def execEventRecordPost (s : State) : Out :=
  match s.postRing with
  | some t => .next t
  | none => .refused (.notEnabled "EVENT_RECORD_POST")

/-- A write to EVHEAD (R430). -/
def State.setEvhead (s : State) (v : Nat) : State :=
  s.updHost fun h => { h with evhead := if headTaken h.evhead (v % 2 ^ 32) h.evtail then v % 2 ^ 32 else h.evhead }

/-- EVHEAD_WRITE (R430). -/
def execEvheadWrite (value : Word) (s : State) : Out :=
  if s.host.linkUp then .next (s.setEvhead value.toNat) else .refused (.notEnabled "EVHEAD_WRITE")

/-- A write to EVLOST (R6, R430): a 1 clears the bit. -/
def State.clearEvlost (s : State) (v : Nat) : State :=
  s.updHost fun h => { h with evlost := Nat.land h.evlost (Nat.xor (v % 2 ^ 32) 0xFFFFFFFF) }

/-- EVLOST_CLEAR (R430). -/
def execEvlostClear (value : Word) (s : State) : Out :=
  if s.host.linkUp then .next (s.clearEvlost value.toNat) else .refused (.notEnabled "EVLOST_CLEAR")

/-! ### Firmware -/

/-- A flash slot: A or B (R431). -/
def HostLink.slot (h : HostLink) (n : Nat) : List Byte := if n = 0 then h.slotA else h.slotB

/-- An image is accepted (R431): a header of 64 bytes, the payload, the public key, the signature. -/
def imageAccepted (fusedMin : Nat) (img : List Byte) : Bool :=
  let n := img.length - 1312 - 2420
  let key := (img.drop n).take 1312
  64 + 1312 + 2420 ≤ img.length && sha3 key == Config.rootDigest &&
  Config.mldsaVerify key (img.drop (n + 1312)) (sha3 (img.take n)) && fusedMin ≤ (Config.imageVersion (img.take 64)).toNat

/-- The running image's security version (R431, R436). -/
def HostLink.version (h : HostLink) : Nat := (Config.imageVersion ((h.slot h.running).take 64)).toNat

/-- A write to FWCTL (R432). -/
def State.setFwctl (s : State) (length : Nat) (verify raisemin : Bool) : State :=
  let h := s.host
  if verify && raisemin then s
  else if verify then
    (if h.fwStatus = 3 then s else { s with host := { h with fwLength := length, fwStatus := 3, fwJob := some length } })
  else if raisemin then { s with host := { h with fwLength := length, fusedMin := max h.fusedMin h.version, fwStatus := 4 } }
  else { s with host := { h with fwLength := length } }

/-- FWCTL_VERIFY (R432). -/
def execFwctlVerify (length : BitVec 32) (s : State) : Out :=
  if s.host.linkUp then .next (s.setFwctl length.toNat true false) else .refused (.notEnabled "FWCTL_VERIFY")

/-- FWCTL_RAISEMIN (R432). -/
def execFwctlRaisemin (s : State) : Out :=
  if s.host.linkUp then .next (s.setFwctl s.host.fwLength false true) else .refused (.notEnabled "FWCTL_RAISEMIN")

/-- FIRMWARE_VERIFIED (R432): an image that passes goes to the slot that is not running, which is preferred from then on. -/
def execFirmwareVerified (s : State) : Out :=
  let h := s.host
  match h.fwJob with
  | none => .refused (.notEnabled "FIRMWARE_VERIFIED")
  | some n =>
    let img := h.staging.read 0 n
    if n ≤ 48 * 2 ^ 20 && imageAccepted h.fusedMin img then
      let h := if h.running = 0 then { h with slotB := img, preferred := 1 } else { h with slotA := img, preferred := 0 }
      .next { s with host := { h with fwStatus := 1, fwJob := none } }
    else .next { s with host := { h with fwStatus := 2, fwJob := none } }

/-! ### Staged bring-up -/

/-- The identifiers of the steps of a start, in the order of their entries in the boot record (R434, R435). -/
def bootSteps : List Nat :=
  [0x001, 0x002] ++ (List.range 4).map (0x010 + ·) ++ (List.range 8).map (0x020 + ·) ++ [0x030] ++ (List.range 32).map (0x040 + ·)

/-- A step's entry of the boot record, if it has run (R434). -/
def HostLink.entry (h : HostLink) (step : Nat) : Option BootEntry := h.boot.find? fun e => e.step == step

/-- A step's alternative is in force: it failed, or has been replaced before (R435). -/
def HostLink.altOf (h : HostLink) (step : Nat) : Bool :=
  match h.entry step with
  | some e => e.alt || e.outcome == 1
  | none => false

/-- Note the outcome of a step in this start (R434). -/
def HostLink.note (h : HostLink) (step : Nat) (ran alt pass : Bool) : HostLink :=
  let old := ((h.entry step).map fun e => e.attempts).getD 0
  let e : BootEntry :=
    { step := step, attempts := if ran then old + 1 else old, alt := alt, outcome := if !ran then 2 else if !pass then 1 else if alt then 3 else 0 }
  { h with boot := h.boot.filter (fun x => x.step != step) ++ [e] }

/-- The 64 entries of the boot record (R434). -/
def HostLink.bootBytes (h : HostLink) : List Byte :=
  (List.range 64).flatMap fun i => bytesOf 16 (match (bootSteps[i]?).bind h.entry with
    | some e => e.attempts * 2 ^ 32 + b2n e.alt * 2 ^ 14 + e.outcome * 2 ^ 12 + e.step
    | none => 0)

/-- BRSTAT (R433). -/
def State.brstat (s : State) : Nat :=
  let h := s.host
  h.stacksUp * 2 ^ 40 + h.diesUp * 2 ^ 36 + h.clockStep * 2 ^ 34 + h.pendingDies * 2 ^ 28 + b2n h.ready

/-- The supervisor accepts work once die 0 and a stack are in service (R433). -/
def State.checkReady (s : State) : State :=
  let h := s.host
  if h.started && !h.ready && bitAt h.diesUp 0 && h.stacksUp != 0 then ({ s with host := { h with ready := true } }).postEvent 6 4 0 else s

/-- A unit's self-test is skipped at this start, since it failed before (R435). -/
def HostLink.skipUnit (h : HostLink) (step : Nat) (isStack : Bool) (unit : Nat) : HostLink :=
  if h.altOf step then
    let h := h.note step false true false
    if isStack then { h with pendingStacks := h.pendingStacks - 2 ^ unit } else { h with pendingDies := h.pendingDies - 2 ^ unit }
  else h

/-- The fabric ports' part of a start (R380, R435): a port that failed before is left down; one that passes is lit. -/
def State.startPort (s : State) (pass : Nat → Bool) (p : Nat) : State :=
  let step := 0x040 + p
  if s.host.altOf step then s.updHost fun h => h.note step false true false
  else
    let s := s.updHost fun h => h.note step true false (pass step)
    if pass step then s.enablePort p 0xFFFF else s

/-- What survives a reset (R432, R434): flash, the fused minimum, the boot record; memory, where power was not removed. Host memory
is the host's. -/
def State.afterReset (s : State) : State :=
  let h := s.host
  { State.reset with
    sel := s.sel, free := s.free, seq := s.seq, agenda := s.agenda,
    mem := if s.off then s.mem.filter (fun x => isHostMem x.1) else s.mem
    host := { slotA := h.slotA, slotB := h.slotB, preferred := h.preferred, running := h.running, fusedMin := h.fusedMin,
              boot := if h.brclr then [] else h.boot, calibrated := if h.brclr then 0 else h.calibrated } }

/-- The firmware starts the supervisor on die 0 (R433). -/
def State.startFirmware (s : State) (fw : Firmware) : State :=
  let s := fw.csrs.foldl (fun s x => s.setPkgCsr x.1 x.2.toNat x.2.toNat true) s
  let cs := (fw.contexts.filter fun x => x.1 < 768 && dieOfTile x.1 == 0 && x.2.1 < 8).zipIdx.map fun x =>
    ({ key := { tile := x.1.1, num := x.1.2.1 }, task := 0, rank := x.2, pc := x.1.2.2, supervisor := true } : Ctx)
  { s with ctxs := cs }

/-- DEVICE_RESET (R431, R433, R435): the boot ROM verifies a slot; the supervisor starts, the link trains, the clock is calibrated, the ports
are tested, and the self-tests of dies and stacks begin. -/
def execDeviceReset (outcome : List (Nat × Bool)) (fw : Firmware) (s : State) : Out :=
  let pass := fun (step : Nat) => ((outcome.find? fun x => x.1 == step).map fun x => x.2).getD true
  let s := s.afterReset
  let h := s.host
  let alt := h.altOf 0x001
  let slot := if alt then 1 - h.preferred else h.preferred
  let ok := imageAccepted h.fusedMin (h.slot slot)
  let h := h.note 0x001 true alt ok
  if !ok then .next { s with host := h }
  else
    let altLink := h.altOf 0x002
    let altClock := h.altOf 0x030
    let failed := ((h.entry 0x030).map fun e => e.outcome) == some 1
    let cal := if failed then min 3 (h.calibrated + 1) else h.calibrated
    let up := pass 0x002
    let h := (h.note 0x002 true altLink up).note 0x030 true altClock (pass 0x030)
    let h := { h with running := slot, calibrated := cal, clockStep := cal, linkUp := up, rate := if up then (if altLink then 64 else 128) else 0,
                      width := if up then 16 else 0, started := pass 0x030 }
    let h := (List.range 4).foldl (fun h d => h.skipUnit (0x010 + d) false d) h
    let h := (List.range 8).foldl (fun h d => h.skipUnit (0x020 + d) true d) h
    let s := { s with host := h, tickAt := tickTenths cal }
    .next (if pass 0x030 then ((List.range 32).foldl (fun s p => s.startPort pass p) s).startFirmware fw else s)

/-- UNIT_SELF_TEST_DONE (R433): a unit joins service or is held out, with a record. -/
def execUnitSelfTestDone (isStack pass : Bool) (s : State) : Out :=
  let h := s.host
  let n := s.sel.a
  let pending := if isStack then h.pendingStacks else h.pendingDies
  if !h.started || !bitAt pending n then .refused (.notEnabled "UNIT_SELF_TEST_DONE")
  else if isStack then
    let h := h.note (0x020 + n) true false pass
    let h := { h with pendingStacks := h.pendingStacks - 2 ^ n, stacksUp := h.stacksUp + (if pass then 2 ^ n else 0) }
    let s := { s with host := h }
    .next (if pass then s.checkReady else s.postEvent 6 3 n)
  else
    let h := h.note (0x010 + n) true false pass
    let h := { h with pendingDies := h.pendingDies - 2 ^ n, diesUp := h.diesUp + (if pass then 2 ^ n else 0) }
    let s := ({ s with host := h }).postEvent 6 (if pass then 1 else 2) n
    .next (if pass then s.checkReady else s.tellUnplaceable)

/-- BRCLR (R435): a write of 1 clears every entry of the boot record for the next start. -/
def State.setBrclr (s : State) (v : Word) : State := if v = 1 then s.updHost fun h => { h with brclr := true } else s

/-- BRCLR (R435). -/
def execBrclr (value : Word) (s : State) : Out :=
  if s.host.linkUp then .next (s.setBrclr value) else .refused (.notEnabled "BRCLR")

/-! ### Attestation -/

/-- A write to ATTCTL (R436). -/
def State.setAttctl (s : State) (v : Nat) : State :=
  if v = 1 ∧ s.host.att ≠ 1 then s.updHost fun h => { h with att := 1 } else s

/-- ATTESTATION_REQUEST (R436). -/
def execAttestationRequest (s : State) : Out :=
  if s.host.linkUp then .next (s.setAttctl 1) else .refused (.notEnabled "ATTESTATION_REQUEST")

/-- The body of a report (R436). -/
def State.attestBody (s : State) : List Byte :=
  let h := s.host
  (h.nonce ++ List.replicate 32 0).take 32 ++ sha3 (h.slot h.running) ++ bytesOf 8 h.version ++ bytesOf 8 h.fusedMin ++
  bytesOf 8 Config.serial.toNat ++ bytesOf 8 s.brstat ++ sha3 h.bootBytes

/-- ATTESTATION_DONE (R436). -/
def execAttestationDone (s : State) : Out :=
  if s.host.att = 1 then
    let body := s.attestBody
    .next (s.updHost fun h => { h with att := 2, attBody := body, attSig := (List.range 2420).map (Config.mldsaSign (sha3 body)) })
  else .refused (.notEnabled "ATTESTATION_DONE")

/-! ### The control window -/

/-- An offset is that of a register of the control window (R427). -/
def isRegister (o : Nat) : Bool :=
  o < 0x20 || (0x1000 ≤ o && o < 0x1028) || (0x2000 ≤ o && o < 0x2018) || (0x3020 ≤ o && o < 0x3030) || (0x10400 ≤ o && o < 0x10408)

/-- The value of a register of the control window (R427). -/
def State.windowReg (s : State) (o : Nat) : Nat :=
  let h := s.host
  match o with
  | 0x0 => s.brstat
  | 0x8 => h.hoststat.toNat
  | 0x10 => h.bar2base
  | 0x18 => Config.serial.toNat
  | 0x1000 => h.evbase.toNat
  | 0x1008 => h.evcfg.toNat
  | 0x1010 => h.evtail
  | 0x1018 => h.evhead
  | 0x1020 => h.evlost
  | 0x2008 => h.tcbCount * 2 ^ 32 + h.tcbStatus
  | 0x2010 => h.fwStatus * 2 ^ 60 + h.fwLength
  | 0x3020 => h.att
  | 0x3028 => Config.certificateLength % 2 ^ 16
  | _ => 0

/-- A byte of the control window as the host reads it, outside the registers (R427, R434, R436). -/
def State.windowByte (s : State) (o : Nat) : Byte :=
  let h := s.host
  if 0x3000 ≤ o ∧ o < 0x3020 then h.nonce.getD (o - 0x3000) 0
  else if 0x3100 ≤ o ∧ o < 0x3180 then h.attBody.getD (o - 0x3100) 0
  else if 0x3200 ≤ o ∧ o < 0x3B74 then h.attSig.getD (o - 0x3200) 0
  else if 0x4000 ≤ o ∧ o < 0x4520 then Config.identityKey (o - 0x4000)
  else if 0x4800 ≤ o ∧ o < 0x6000 then (if o - 0x4800 < Config.certificateLength then Config.certificate (o - 0x4800) else 0)
  else if 0x10000 ≤ o ∧ o < 0x10400 then h.bootBytes.getD (o - 0x10000) 0
  else if 0x1000000 ≤ o then h.staging.get (o - 0x1000000)
  else 0

/-- What a host read of the control window returns (R427); a register access of a wrong size or alignment is ignored and gives no value
of the register's. -/
def State.windowRead (s : State) (o n : Nat) : List Byte :=
  if isRegister o then (if o % 8 = 0 ∧ (n = 4 ∨ n = 8) then bytesOf n (s.windowReg o) else List.replicate n 0)
  else (List.range n).map fun i => s.windowByte (o + i)

/-- A write of 4 or 8 bytes to a register of the control window (R427): a write of 4 bytes covers the low half. -/
def State.windowWrite (s : State) (o n x : Nat) : State :=
  let v := if n = 8 then x else s.windowReg o / 2 ^ 32 * 2 ^ 32 + x
  match o with
  | 0x8 => s.setHoststat (if n = 8 then none else some false) (BitVec.ofNat 64 x)
  | 0x10 => s.updHost fun h => { h with bar2base := bitsOf v 38 30 * 2 ^ 30 }
  | 0x1000 => s.updHost fun h => { h with evbase := rwOf [(63, 12)] v }
  | 0x1008 => s.updHost fun h => { h with evcfg := rwOf [(8, 8), (4, 0)] v }
  | 0x1018 => s.setEvhead x
  | 0x1020 => s.clearEvlost x
  | 0x2000 => if n = 8 then s.tcbWrite (BitVec.ofNat 64 x) else s
  | 0x2010 => s.setFwctl (x % 2 ^ 32) (n == 8 && bitAt x 63) (n == 8 && bitAt x 59)
  | 0x3020 => s.setAttctl x
  | 0x10400 => s.setBrclr (BitVec.ofNat 64 x)
  | _ => s

/-- Replace bytes of a list of 32. -/
def setBytes (l : List Byte) (at_ : Nat) (bs : List Byte) : List Byte :=
  ((l ++ List.replicate 32 0).take 32).zipIdx.map fun (x : Byte × Nat) => if at_ ≤ x.2 ∧ x.2 < at_ + bs.length then bs.getD (x.2 - at_) x.1 else x.1

/-- CONTROL_WINDOW_ACCESS (R427): any access of the host to the control window; one to a register of a wrong size or alignment is ignored and
counted. A read changes nothing. -/
def execControlWindowAccess (offset : Nat) (write : Bool) (data : List Byte) (s : State) : Out :=
  let n := data.length
  if !s.host.linkUp ∨ 2 ^ 26 < offset + n then .refused (.notEnabled "CONTROL_WINDOW_ACCESS")
  else if isRegister offset then
    (if offset % 8 ≠ 0 ∨ (n ≠ 4 ∧ n ≠ 8) then .next (s.countHost 0)
     else if write then .next (s.windowWrite offset n (numOf data)) else .next s)
  else if !write then .next s
  else if 0x100000 ≤ offset ∧ offset < 0x200000 then
    match s.hostMessage offset data with
    | some t => .next t
    | none => .refused (.notEnabled "CONTROL_WINDOW_ACCESS")
  else if 0x3000 ≤ offset ∧ offset < 0x3020 then .next (s.updHost fun h => { h with nonce := setBytes h.nonce (offset - 0x3000) data })
  else if 0x1000000 ≤ offset then .next (s.updHost fun h => { h with staging := h.staging.write (offset - 0x1000000) data })
  else .next s

/-! ### The link, errors, power and heat -/

/-- HOST_LINK_TRAINED (R425): the link trains again, perhaps at a lower rate or width. -/
def execHostLinkTrained (rate width : Nat) (s : State) : Out :=
  let h := s.host
  if h.linkUp ∨ !h.started ∨ !([128, 64, 32, 16, 8, 5, 2].contains rate) ∨ !([16, 8, 4, 2, 1].contains width) then
    .refused (.notEnabled "HOST_LINK_TRAINED")
  else .next { s with host := { h with linkUp := true, rate := rate, width := width } }

/-- HOST_LINK_DOWN (R430). -/
def execHostLinkDown (s : State) : Out :=
  if s.host.linkUp then .next (s.updHost fun h => { h with linkUp := false, rate := 0, width := 0 }) else .refused (.notEnabled "HOST_LINK_DOWN")

/-- HOST_LINK_ERROR (R437): the replay succeeds, or the error is reported through advanced error reporting. -/
def execHostLinkError (replayGood : Bool) (s : State) : Out :=
  if !s.host.linkUp then .refused (.notEnabled "HOST_LINK_ERROR")
  else .next (if replayGood then { s with transient := s.transient + 1 } else s.updHost fun h => { h with aerErrors := h.aerErrors + 1 })

/-- MESH_LINK_ERROR (R437): the replay succeeds, or the tasks of the die are stopped and restarted (R291). -/
def execMeshLinkError (replayGood : Bool) (s : State) : Out :=
  if 4 ≤ s.sel.a then .refused (.notEnabled "MESH_LINK_ERROR")
  else if replayGood then .next { s with transient := s.transient + 1 }
  else
    let here := fun (t : Task) => s.ctxs.any fun c => c.task == t.num && dieOfTile c.key.tile == s.sel.a && !c.stopped
    .next ((s.tasks.filter here).foldl (fun s t => s.restartOrEnd 768 t) s)

/-- Slack ticks in 1 ms and in 100 ms (R102). -/
def ticksPerMs : Nat := 125000

/-- THROTTLE_TEMPERATURE (R438): a die is at its throttle temperature; the clock step is lowered, once per 1 ms at most. -/
def execThrottleTemperature (s : State) : Out :=
  if 4 ≤ s.sel.a then .refused (.notEnabled "THROTTLE_TEMPERATURE")
  else
    let h := s.host
    let free : Bool := match h.loweredAt with
      | some t => decide (t + ticksPerMs ≤ s.ticks)
      | none => true
    if h.clockStep < 3 && free then
      .next (({ s with host := { h with hotAt := s.ticks, loweredAt := some s.ticks, clockStep := h.clockStep + 1 } }).postEvent 7 1 0)
    else .next { s with host := { h with hotAt := s.ticks } }

/-- The clock step is to be raised again (R438). -/
def State.coolEnough (s : State) : Bool := s.host.calibrated < s.host.clockStep && s.host.hotAt + 100 * ticksPerMs ≤ s.ticks

/-- STEP_RAISED (R438). -/
def execStepRaised (s : State) : Out :=
  if s.coolEnough then
    .next ((s.updHost fun h => { h with clockStep := h.clockStep - 1, hotAt := s.ticks }).postEvent 7 2 0)
  else .refused (.notEnabled "STEP_RAISED")

/-- Write waiting records to the ring as far as they go. -/
def State.flushRing : Nat → State → State
  | 0, s => s
  | n + 1, s => match s.postRing with
    | some t => State.flushRing n t
    | none => s

/-- TRIP (R438): the record is posted, and power is removed. -/
def execTrip (s : State) : Out :=
  if 4 ≤ s.sel.a then .refused (.notEnabled "TRIP")
  else .next { State.flushRing 1025 (s.postEvent 7 3 0) with off := true }

end Sys2Proof.Machine
end

