-- ==== Sys2Proof/Machine/Matrix.lean ====
section
/-! DEFINITION. Matrix instructions (R300-R320): the command queue and its commands, the descriptor and the generator's registers,
conversions on the vector unit. -/

namespace Sys2Proof.Machine

/-! ### Queueing -/

/-- A command of a context, as it is queued. -/
def newCmd (c : Ctx) (id : Nat) (op : MxOp) (g : Word) : MxCmd :=
  { id := id, ctx := c.key, task := c.task, rank := c.rank, op := op, guard := g, acc := 0, src := 0, side := 0, stride := 0, n := 0, m := 0,
    fmt := 0, geo := 0, vsrc := none, count := 0, plate := 0, bank := none, writes := [], reads := [], memReads := [], memWrites := [],
    rows := [], sides := [] }

/-- Issue stalls while the queue of 16 commands is full, or while commands of the context that a stop put aside wait for it (R300, R320). -/
def queueGate (s : State) (c : Ctx) : Try Unit :=
  if 16 ≤ (s.tile c.key.tile).mq.length || (s.tile c.key.tile).mqSaved.any (fun m => m.task == c.task && m.rank == c.rank) then stall s else .ok ()

/-- The register bytes of a command's named sources, which it reads later (R134, R300). -/
def sourceRanges (c : Ctx) (ops : List Operand) : List (Nat × Nat) :=
  ops.filterMap fun o => match o with
    | .s n => some (c.sloc n, 8)
    | .o n => some (oloc n, 8)
    | .p n => some (c.ploc n, 8)
    | _ => none

/-- A check that a rule makes before HAZARD (R310, R314): then the instruction's frame. -/
def runMx (s : State) (h : Common) (ops : List Operand) (pre : Ctx → Try Unit) (body : State → Ctx → Word → Try Done) : Out :=
  match s.ctx? s.sel.ctx with
  | none => .fault .noContext
  | some c => match pre c with
    | .error (.trap t) => .next (s.dueFault c t)
    | _ => runInstr s h false ops body

/-- Queue a command: its register destinations are pending and its result outstanding, its sources read-pending (R133, R134, R300). -/
def queueCmd (s : State) (c : Ctx) (m : MxCmd) : State × Ctx :=
  let s := s.updTile c.key.tile fun t => { t with mq := t.mq ++ [m] }
  let c := { c with pendingMx := m.writes ++ c.pendingMx, readPend := m.reads ++ c.readPend, strictPend := m.strict ++ c.strictPend }
  let c := if m.writes.isEmpty then c else
    c.await { newToken m.id [] 0 0 with kind := mxKind, spans := m.writes }
  (s, c.clearLatch)

/-- A block run that goes past the register space is ILLEGAL (R126, R310, R314). -/
def checkRun (c : Ctx) (o : Operand) (blocks : Nat) : Try Unit := require ((c.loc o).getD 0 + 4096 * blocks ≤ 0x8000) fcILLEGAL

/-- Register bytes that an earlier command of the region has still to read, and that a command may not write either (R134, R302). -/
def strictUnread (s : State) (c : Ctx) (a n : Nat) : Bool :=
  ((s.mxOf c).any fun m => meetsAny m.strict a n) && meetsAny c.strictPend a n

/-- Accumulator blocks as a source or destination of a command: HAZARD where a byte is pending from an instruction that is no command (R302),
was stored through the window (R135), or has still to be read by an earlier command of the region (R134). -/
def checkAcc (s : State) (c : Ctx) (acc blocks : Nat) (read write : Bool) : Try Unit := do
  require (!(read && meetsAny c.pending acc (4096 * blocks))) fcHAZARD
  require (!(write && meetsAny c.winRanges acc (4096 * blocks))) fcHAZARD
  require (!(write && strictUnread s c acc (4096 * blocks))) fcHAZARD

/-- The checks of an access to private local memory by a command (R189, R310). -/
def checkLocal (a : Word) (n align element : Nat) : Try Unit := do
  let r ← checkPrivate a n align element false true
  if r != .localMem then faultAt fcPROTECT a element

/-- Local bytes that a command reads, as the context reads them at issue (R301). -/
def readLocal (s : State) (c : Ctx) (a : Word) (n : Nat) : Try (List Byte) := do
  let k := localKey c.key.tile a.toNat
  s.waitFree c { virt := false, lo := k, len := n } false
  return s.readLoc c false k n

/-! ### Multiply -/

/-- The blocks that MMA or MMAT writes on the front bank; where that is not valid the run of MMAT is not checked (R310). -/
def mmaRun (trans : Bool) (a : Operand) (c : Ctx) : Try Unit :=
  match c.front with
  | some b => checkRun c a (mmaBlocks trans b.fmt)
  | none => if trans then .ok () else checkRun c a 1

/-- MMA and MMAT at issue (R310). -/
def runMma (s : State) (w : FormX) (trans : Bool) : Out :=
  let n0 := w.sub.toNat
  let vsel := w.sub.getLsbD 12
  let geo := bitsOf n0 11 10
  let fmt := bitsOf n0 9 4
  let m := n0 % 16 + 1
  runMx s w.h ((if vsel then [] else [w.b]) ++ [w.c]) (mmaRun trans w.a) fun s c g => do
    queueGate s c
    let acc := (c.loc w.a).getD 0
    let ctl := (← readVal c w.c).toNat
    let base ← if vsel then pure 0 else readVal c w.b
    let rb := rowBytes trans fmt
    let vregs : List Nat := if vsel then (match w.b with
      | .v k => (List.range m).map fun i => c.vloc (k + i)
      | _ => []) else []
    let vrows ← vregs.mapM fun a => readRf c a rb
    let blocks := match c.front with
      | some b => mmaBlocks trans b.fmt
      | none => 1
    checkAcc s c acc blocks true true
    let side := bitsOf ctl 51 32
    let stride := bitsOf ctl 31 16
    let n := bitsOf ctl 8 0
    require (bitsOf ctl 63 52 == 0 && bitsOf ctl 15 9 == 0) fcDESC
    require (!(vsel && (stride != 0 || side != 0))) fcDESC
    match c.front with
    | none => fault fcDESC
    | some b => do
      require (n ≤ (if trans then b.depth else 64)) fcDESC
      require (pairsWith fmt b.fmt) fcDESC
      let q := sideBytes trans fmt geo
      let rowAt := fun (i : Nat) => base + BitVec.ofNat 64 (i * stride)
      let sideAt := fun (i : Nat) => BitVec.ofNat 64 (side + i * q)
      let width := if fmt = 2 ∨ fmt = 3 then 2 else 1
      let idx := List.range m
      if !vsel then
        idx.forM fun i => do
          checkLocal (rowAt i) rb width i
          if q != 0 then checkLocal (sideAt i) q 1 i
      let rows ← if vsel then pure vrows else idx.mapM fun i => readLocal s c (rowAt i) rb
      let sides ← if q = 0 then pure [] else idx.mapM fun i => readLocal s c (sideAt i) q
      let (id, s) := s.fresh
      let lk := fun (a : Word) (n : Nat) => (localKey c.key.tile a.toNat, n)
      let cmd := { newCmd c id (.mma trans) g with
        acc := acc, n := n, m := m, fmt := fmt, geo := geo, bank := some b, writes := [(acc, 4096 * blocks)],
        reads := (acc, 4096 * blocks) :: (vregs.map (fun a => (a, rb)) ++ sourceRanges c [w.b, w.c]),
        strict := vregs.map (fun a => (a, rb)) ++ sourceRanges c [w.b, w.c],
        memReads := (if vsel then [] else idx.map fun i => lk (rowAt i) rb) ++ (if q = 0 then [] else idx.map fun i => lk (sideAt i) q),
        rows := rows, sides := sides }
      let (s, c) := queueCmd s c cmd
      return { s := s, c := c }

/-- MMA (R310). -/
def execMma (w : FormX) (s : State) : Out := runMma s w false

/-- MMAT (R310). -/
def execMmat (w : FormX) (s : State) : Out := runMma s w true

/-! ### Banks and the plate -/

/-- Some valid bank pins a byte of a plate range (R303), but for one bank of a context. -/
def State.pinned (s : State) (tile lo n : Nat) (but : Option (Ctx × Bool)) : Bool :=
  s.ctxs.any fun d => d.key.tile == tile && ([(false, d.back), (true, d.front)].any fun x => match x.2 with
    | some b => rangesMeet b.offset b.image.length lo n && !(match but with
      | some (c, f) => c.same d && f == x.1
      | none => false)
    | none => false)

/-- MBLD (R311): records the provenance and the pin, and queues the load. -/
def execMbld (w : FormX) (s : State) : Out :=
  let front := w.sub.getLsbD 0
  runUniform s w.h false none [w.a] fun s c => do
    let a ← readVal c w.a
    queueGate s c
    let fmt := bitsOf c.mpdw0.toNat 5 0
    require (fmt != 0) fcDESC
    let n := imageBytes fmt (bitsOf c.mpdw0.toNat 7 6)
    requireAt (a.toNat % 64 == 0) fcALIGN a
    requireAt (a.toNat + n ≤ 0x100000) fcSTRADDLE a
    requireAt (!s.pinned c.key.tile a.toNat n (some (c, front))) fcPROTECT a
    let k := plateKey c.key.tile a.toNat
    s.waitFree c { virt := false, lo := k, len := n } false
    let b : Bank := { offset := a.toNat, mpdw0 := c.mpdw0, mpdw1 := c.mpdw1, mpdw2 := c.mpdw2, key := c.stpkey, member := c.stpmem,
                      image := s.readLoc c false k n }
    let (id, s) := s.fresh
    let c := if front then { c with front := some b } else { c with back := some b }
    let (s, c) := queueCmd s c { newCmd c id (.mbld (!front)) 0 with bank := some b, reads := sourceRanges c [w.a], strict := sourceRanges c [w.a] }
    return { s := s, c := c }

/-- MBLD.FREE (R311): the bank is invalid from its issue on, and its pin is released. -/
def execMbldFree (w : FormX) (s : State) : Out :=
  runUniform s w.h false none [] fun s c => do
    queueGate s c
    return { s := s, c := (if w.sub.getLsbD 0 then { c with front := none } else { c with back := none }).clearLatch }

/-- MBSWAP (R311): exchanges the banks in queue order. -/
def execMbswap (w : FormX) (s : State) : Out :=
  runUniform s w.h false none [] fun s c => do
    queueGate s c
    let (id, s) := s.fresh
    let (s, c) := queueCmd s { c with front := c.back, back := c.front } (newCmd c id .mbswap 0)
    return { s := s, c := c }

/-- MPLW (R304): local bytes are read and the plate's are staged as at issue (R301). -/
def execMplw (w : FormX) (s : State) : Out :=
  runUniform s w.h false none [w.a, w.b, w.c] fun s c => do
    let pl ← readVal c w.a
    let src ← readVal c w.b
    let cnt ← readVal c w.c
    queueGate s c
    let n := cnt.toNat
    requireAt (src.toNat < 2 ^ 56) fcUNMAPPED src
    requireAt (pl.toNat % 64 == 0 && src.toNat % 64 == 0 && n % 64 == 0 && n != 0) fcALIGN src
    requireAt (src.toNat + n ≤ 0x100000 && pl.toNat + n ≤ 0x100000) fcSTRADDLE src
    requireAt (!s.pinned c.key.tile pl.toNat n none) fcPROTECT pl
    let bs ← readLocal s c src n
    s.waitFree c { virt := false, lo := plateKey c.key.tile pl.toNat, len := n } true
    match s.placePlain (s.writer c false) (plateKey c.key.tile pl.toNat) pl bs with
    | none => faultAt fcSTAGINGFULL pl
    | some s => do
      let (id, s) := s.fresh
      let (s, c) := queueCmd s (s.keptImage c) { newCmd c id .mplw 0 with
        plate := pl.toNat, count := n, memReads := [(localKey c.key.tile src.toNat, n)],
        reads := sourceRanges c [w.a, w.b, w.c], strict := sourceRanges c [w.a, w.b, w.c] }
      return { s := s, c := c }

/-- MPDESC (R307). -/
def execMpdesc (w : FormX) (s : State) : Out :=
  runUniform s w.h false none [w.a, w.b, w.c] fun s c => do
    let x ← readVal c w.a
    let y ← readVal c w.b
    let z ← readVal c w.c
    let fmt := bitsOf x.toNat 5 0
    let cnt := bitsOf x.toNat 14 8
    let rows := bitsOf y.toNat 31 0
    let cols := bitsOf y.toNat 63 32
    require (bitsOf x.toNat 63 32 == 0 && !bitAt x.toNat 15) fcDESC
    require ((2 ≤ fmt && fmt ≤ 8) || fmt == 12 || fmt == 13) fcDESC
    require (fmtOk fmt (bitsOf x.toNat 7 6)) fcDESC
    require (1 ≤ cnt && cnt ≤ 64) fcDESC
    require (rows != 0 && cols != 0 && rows * cols ≤ 2 ^ 32) fcDESC
    return { s := s, c := { c with mpdw0 := x, mpdw1 := y, mpdw2 := z }.clearLatch }

/-! ### Accumulator blocks -/

/-- ACCZ (R314). -/
def execAccz (w : FormX) (s : State) : Out :=
  let b := w.sub.toNat % 8 + 1
  runMx s w.h [] (fun c => checkRun c w.a b) fun s c g => do
    queueGate s c
    let acc := (c.loc w.a).getD 0
    checkAcc s c acc b false true
    let (id, s) := s.fresh
    let (s, c) := queueCmd s c { newCmd c id .accz g with acc := acc, m := b, writes := [(acc, 4096 * b)] }
    return { s := s, c := c }

/-- The enabled span of the row of ACCLD or ACCST at an address (R314): address and length. -/
def rowSpan (a : Word) (g : Word) : Option (Word × Nat × Nat) :=
  (laneSpan g).map fun x => (a + BitVec.ofNat 64 (4 * x.1), x.2, x.1)

/-- The row addresses of ACCLD or ACCST, checked (R314). -/
def accRows (base stride : Word) (r : Nat) (g : Word) : Try (List (Word × Nat × Nat)) := do
  let rows := (List.range r).filterMap fun i => rowSpan (base + stride * BitVec.ofNat 64 i) g
  rows.forM fun x => checkLocal x.1 x.2.1 4 x.2.2
  return rows

/-- ACCLD (R314). -/
def execAccld (w : FormX) (s : State) : Out :=
  runMx s w.h [w.b, w.c] (fun c => checkRun c w.a 1) fun s c g => do
    queueGate s c
    let acc := (c.loc w.a).getD 0
    let a ← readVal c w.b
    let st ← readVal c w.c
    let r := w.sub.toNat % 16 + 1
    checkAcc s c acc 1 false true
    let rows ← accRows a st r g
    let data ← rows.mapM fun x => readLocal s c x.1 x.2.1
    let (id, s) := s.fresh
    let (s, c) := queueCmd s c { newCmd c id .accld g with
      acc := acc, m := r, writes := [(acc, 4096)], rows := data, memReads := rows.map fun x => (localKey c.key.tile x.1.toNat, x.2.1),
      reads := sourceRanges c [w.b, w.c], strict := sourceRanges c [w.b, w.c] }
    return { s := s, c := c }

/-- The bytes of the enabled lanes of a row, as stretches: offset from the first enabled lane and length. -/
def laneRuns (g : Word) : List (Nat × Nat) :=
  match enabledLanes g with
  | [] => []
  | l :: r => (joinElems ((l :: r).map fun i => ({ pos := i, addr := BitVec.ofNat 64 (4 * (i - l)), len := 4 }, [0, 0, 0, 0]))).map fun x =>
      (x.1.addr.toNat, x.2.length)

/-- Stage the rows that ACCST writes: the rows' spans with their bytes (R314). -/
def stageRows (s : State) (c : Ctx) (g : Word) (rows : List ((Nat × Nat) × List Byte)) : Option State :=
  rows.foldlM (init := s) fun s x => (laneRuns g).foldlM (init := s) fun s r =>
    s.placePlain (s.writer c false) (x.1.1 + r.1) (BitVec.ofNat 64 (x.1.1 % 2 ^ 20 + r.1)) ((x.2.drop r.1).take r.2)

/-- ACCST (R314): its rows are stored when the command executes; room for them is found at issue (R300). -/
def execAccst (w : FormX) (s : State) : Out :=
  runMx s w.h [w.b, w.c] (fun c => checkRun c w.a 1) fun s c g => do
    queueGate s c
    let acc := (c.loc w.a).getD 0
    let a ← readVal c w.b
    let st ← readVal c w.c
    let r := w.sub.toNat % 16 + 1
    checkAcc s c acc 1 true false
    let rows ← accRows a st r g
    rows.forM fun x => s.waitFree c { virt := false, lo := localKey c.key.tile x.1.toNat, len := x.2.1 } true
    let spans := rows.map fun x => (localKey c.key.tile x.1.toNat, x.2.1)
    if (stageRows s c g (spans.map fun x => (x, List.replicate x.2 0))).isNone then faultAt fcSTAGINGFULL a
    let (id, s) := s.fresh
    let reads := (acc, 4096) :: sourceRanges c [w.b, w.c]
    let kept := (c.winRanges.filter fun x => rangesMeet x.1 x.2 acc 4096).flatMap fun x => (List.range x.2).map fun i => (x.1 + i, c.rf.get (x.1 + i))
    let (s, c) := queueCmd s c { newCmd c id .accst g with acc := acc, m := r, reads := reads, strict := reads, kept := kept, memWrites := spans }
    return { s := s, c := c }

/-! ### Execution -/

/-- Register bytes that a command writes: those that a later write replaced keep their value (R134). -/
def mxWrite (c : Ctx) (m : MxCmd) (cells : List (Nat × Byte)) : Ctx :=
  let dead := ((c.outstanding.find? fun t => t.id == m.id && t.kind == mxKind).map fun t => t.dead).getD []
  { c with rf := (cells.filter fun (x : Nat × Byte) => !dead.contains x.1).foldl (fun (r : Mem) (x : Nat × Byte) => r.set x.1 x.2) c.rf }

/-- A command is complete (R133, R199): its results have returned and its flags are raised. -/
def mxDone (c : Ctx) (m : MxCmd) : Ctx :=
  ({ c with outstanding := c.outstanding.filter fun t => !(t.id == m.id && t.kind == mxKind) }.refreshLatch).orFlags m.flags

/-- A bank comes into a physical bank of the tile: there are two (R299). -/
def Tile.load (t : Tile) (task rank : Nat) (b : Bank) : Tile :=
  { t with resident := ((task, rank, b) :: t.resident.filter fun x => x != (task, rank, b)).take 2 }

/-- Register bytes as ACCST reads them: before the window stores of its region (R135). -/
def MxCmd.readRow (m : MxCmd) (c : Ctx) (a n : Nat) : List Byte :=
  (List.range n).map fun i => ((m.kept.find? fun x => x.1 == a + i).map fun x => x.2).getD (c.rf.get (a + i))

/-- What a command comes to when it executes, an MMA, MMAT, ACCLD or ACCST one row at a time (R320): the state, the context, and the command as it
goes on, if it does; none while it has to wait. -/
def runCmd (s : State) (c : Ctx) (m : MxCmd) : Option (State × Ctx × Option MxCmd) :=
  let row := fun (s : State) (c : Ctx) (m : MxCmd) (last : Nat) =>
    let m := { m with next := m.next + 1 }
    if last ≤ m.next then (s, mxDone c m, none) else (s, c, some m)
  let whole := fun (s : State) (c : Ctx) => some (s, mxDone c m, none)
  match m.op with
  | .mma tr => match m.bank with
    | some b =>
      if (s.tile c.key.tile).resident.contains (c.task, c.rank, b) then
        let (cells, f) := mmaCells c m tr b m.next
        some (row s (mxWrite c m cells) { m with flags := Nat.lor m.flags f } m.m)
      else none
    | none => whole s c
  | .mbld _ => match m.bank with
    | some b => some (s.updTile c.key.tile fun t => t.load c.task c.rank b, c.orFlags b.loadFlags, none)
    | none => some (s, c, none)
  | .mbswap => some (s, c, none)
  | .mplw => some (s, c, none)
  | .accz =>
    whole s (mxWrite c m ((List.range m.m).flatMap fun b => (List.range 16).flatMap fun i => (enabledLanes m.guard).flatMap fun j =>
      cellsAt (accLoc m.acc i (64 * b + j)) [0, 0, 0, 0]))
  | .accld => match m.rows[m.next]? with
    | none => whole s c
    | some bs =>
      let first := (enabledLanes m.guard).headD 0
      let cells := (enabledLanes m.guard).flatMap fun j => cellsAt (accLoc m.acc m.next j) ((bs.drop (4 * (j - first))).take 4)
      some (row s (mxWrite c m cells) m m.rows.length)
  | .accst => match m.memWrites with
    | [] => whole s c
    | x :: r =>
      let first := (enabledLanes m.guard).headD 0
      (stageRows s c m.guard [(x, m.readRow c (accLoc m.acc m.next first) x.2)]).map fun s => row s c { m with memWrites := r } (m.next + 1 + r.length)

/-- Commands that a stop put aside follow, in order, once their contexts run again and the queue has room (R320). -/
def State.refillQueue (s : State) (tile : Nat) : State :=
  let t := s.tile tile
  let runs := fun (m : MxCmd) => (s.member? m.task m.rank).any fun c => !c.stopped
  let go := (t.mqSaved.filter runs).take (16 - t.mq.length)
  if go.isEmpty then s else s.setTile { t with mq := t.mq ++ go, mqSaved := t.mqSaved.filter fun m => !go.contains m }

/-- MATRIX_COMMAND_EXECUTE (R300): the command at the head of a tile's queue executes, or its next row does (R320), and its results return. -/
def execMatrixCommandExecute (s : State) : Out :=
  let s := s.refillQueue s.sel.a
  match (s.tile s.sel.a).mq with
  | m :: r => match s.member? m.task m.rank with
    | some c => match runCmd s c m with
      | some (s, c, rest) =>
        let s := s.updTile s.sel.a fun t => { t with mq := rest.toList ++ r }
        .next ((s.setCtx c).settle c)
      | none => .refused (.notEnabled "MATRIX_COMMAND_EXECUTE")
    | none => .refused (.notEnabled "MATRIX_COMMAND_EXECUTE")
  | [] => .refused (.notEnabled "MATRIX_COMMAND_EXECUTE")

/-- The bank that a replay would load for a context (R320): the one that the command at the head of the queue needs, or a valid bank
while a physical bank is free. -/
def replayBank (s : State) (c : Ctx) (back : Bool) : Option Bank :=
  let t := s.tile c.key.tile
  let away := fun (b : Bank) => !t.resident.contains (c.task, c.rank, b)
  let need := match t.mq with
    | m :: _ => if m.task = c.task ∧ m.rank = c.rank then (match m.op with
      | .mma _ => m.bank.filter away
      | _ => none) else none
    | [] => none
  match need with
  | some b => if back then none else some b
  | none => if t.resident.length < 2 && (s.mxOf c).isEmpty then (if back then c.back else c.front).filter away else none

/-- BANK_REPLAY (R320): a bank is loaded again from its provenance; no flag is raised. -/
def execBankReplay (s : State) : Out :=
  match s.ctx? s.sel.ctx with
  | some c => match replayBank s c s.sel.flag with
    | some b => .next (s.updTile c.key.tile fun t => t.load c.task c.rank b)
    | none => .refused (.notEnabled "BANK_REPLAY")
  | none => .refused (.notEnabled "BANK_REPLAY")

/-! ### Direct instructions -/

/-- MQWAIT (R315): stalls while the context has more unfinished commands than its limit. -/
def execMqwait (w : FormX) (s : State) : Out :=
  runUniform s w.h false none [w.a] fun s c => do
    let l ← readVal c w.a
    if l.toNat % 32 < (s.mxOf c).length then stall s
    return { s := s, c := c.clearLatch }

/-- MSTAT (R315). -/
def execMstat (w : FormX) (s : State) : Out :=
  runUniform s w.h false (some w.a) [] fun s c => do
    let c ← writeVal s c w.a (BitVec.ofNat 64 (s.mxStatus c (w.sub.toNat % 512)))
    return { s := s, c := c }

/-- STPKEY (R316). -/
def execStpkey (w : FormX) (s : State) : Out :=
  runUniform s w.h false none [w.a] fun s c => do
    let x ← readVal c w.a
    return { s := s, c := { c with stpkey := x }.clearLatch }

/-- Set the member: ILLEGAL outside 0 to 0xFFFE (R316). -/
def setMember (c : Ctx) (x : Int) : Try Ctx := do
  require (0 ≤ x && x ≤ 0xFFFE) fcILLEGAL
  return { c with stpmem := x.toNat }.clearLatch

/-- STPMEM (R316). -/
def execStpmem (w : FormX) (s : State) : Out :=
  runUniform s w.h false none [w.a] fun s c => do
    let x ← readVal c w.a
    return { s := s, c := ← setMember c x.toInt }

/-- STPMEM.ADD (R316). -/
def execStpmemAdd (w : FormX) (s : State) : Out :=
  runUniform s w.h false none [w.a] fun s c => do
    let x ← readVal c w.a
    return { s := s, c := ← setMember c (c.stpmem + x.toInt) }

/-! ### The vector unit -/

/-- The conversion of an accumulator element by ACCCVT's format code (R317): element width and result. -/
def accWidth (f : Nat) : Nat := if f = 0 then 32 else if f = 1 ∨ f = 2 ∨ f = 6 then 16 else 8

def accConvert (f : Nat) (r : Rnd) (x : Nat) : Nat × Nat :=
  let clamp := fun (lo hi : Int) (w : Nat) =>
    let v := signedOf 32 x
    let y := clampInt lo hi v
    (wrapTo w y, flagIf (y != v) flagSAT)
  match f with
  | 0 => (x, 0)
  | 1 => cvtF fp32 fp16 r x
  | 2 => cvtF fp32 bf16 r x
  | 3 => cvtF fp32 e4m3 r x
  | 4 => cvtF fp32 e5m2 r x
  | 5 => clamp (-128) 127 8
  | _ => clamp (-32768) 32767 16

/-- ACCCVT (R317). -/
def execAcccvt (w : FormA) (s : State) : Out :=
  let f := w.m % 8
  runInstr s w.h false [] fun s c g => do
    let row := match w.b with
      | .const r => r.toNat
      | _ => 0
    let bs ← readRf c ((c.loc w.a).getD 0 + 256 * row) (256 * cvtRows f)
    let xs := valuesOf 4 bs
    let rs := xs.zipIdx.map fun x => accConvert f (rndFor s c w.opt x.2 (w.mod.getLsbD 3) false) x.1
    let c' ← writeElems s c w.dst (accWidth f) g (rs.map fun r => r.1)
    return { s := s, c := (c'.orFlags (laneFlags (accWidth f) g rs)).afterRnd w.opt }

/-- STPGEN (R318). -/
def execStpgen (w : FormA) (s : State) : Out :=
  runInstr s w.h false [w.a, w.b] fun s c g => do
    let b ← readVal c w.a
    let st ← readVal c w.b
    let xs := (List.range 64).map fun i => stippleEps c.stpmem (st.toNat % 65536) ((b.toNat + i) % 2 ^ 32) c.stpkey.toNat
    let c ← writeElems s c w.dst 32 g xs
    return { s := s, c := c }

/-- LN2 as FP32 (R318). -/
def ln2F32 : Nat := 0x3F317218

/-- STPMUL (R318). -/
def execStpmul (w : FormA) (s : State) : Out :=
  runInstr s w.h false [w.a, w.b, w.c] fun s c g => do
    let gs ← readElems c 32 w.a
    let es ← readElems c 32 w.b
    let ss ← readElems c 32 w.c
    let rs := (List.range 64).map fun i =>
      let (x, f1) := mul32 (es.getD i 0) (ss.getD i 0)
      let (y, f2) := mul32 x ln2F32
      let (z, f3) := mul32 (gs.getD i 0) y
      (z, Nat.lor f1 (Nat.lor f2 f3))
    let c' ← writeElems s c w.dst 32 g (rs.map fun r => r.1)
    return { s := s, c := c'.orFlags (laneFlags 32 g rs) }

/-- The elements of a pair of v registers (R319). -/
def readPair (c : Ctx) (o : Operand) : Try (List Nat) :=
  match o with
  | .v k => do
    let bs ← readRf c (c.vloc k) 512
    return valuesOf 4 bs
  | _ => fault fcILLEGAL

/-- QCVT (R319). -/
def execQcvt (w : FormA) (s : State) : Out :=
  let e2 := w.mod.getLsbD 1
  let b := if w.mod.getLsbD 0 then 32 else 16
  let had := bitsOf w.m 3 2
  runInstr s w.h false [] fun s c _ => do
    let xs ← readPair c w.a
    let qs := (chunksOf b (128 / b) xs).zipIdx.map fun x =>
      let (ys, f) := if had = 0 then (x.1, 0) else hadamard (if had = 1 then 2 else 3) x.1
      let q := quantBlock e2 (fun i => rndFor s c w.opt (x.2 * b + i) false false) ys
      (q, Nat.lor f q.flags)
    let codes := qs.flatMap fun q => q.1.codes
    let bytes := if e2 then bytesOf 256 (encodeBlock.numNibbles codes) else bytesOf 256 (numOf (codes.map (BitVec.ofNat 8)))
    let side := bytesOf 16 (numOf (qs.map (fun q => BitVec.ofNat 8 q.1.scale) ++
      (if e2 then qs.map fun q => BitVec.ofNat 8 q.1.spare else [])))
    let d := (c.loc w.dst).getD 0
    let o := (c.loc w.b).getD 0
    let c' ← writeRf s c d 256 (cellsAt d bytes)
    let c' ← writeRf s c' o 16 (cellsAt o side)
    return { s := s, c := ((c'.orFlags (qs.foldl (fun f q => Nat.lor f q.2) 0)).afterRnd w.opt).clearLatch }

/-- DQCVT (R319). -/
def execDqcvt (w : FormA) (s : State) : Out :=
  let e2 := w.mod.getLsbD 1
  let b := if w.mod.getLsbD 0 then 32 else 16
  runInstr s w.h false [] fun s c _ => do
    let bs ← readRf c ((c.loc w.a).getD 0) (if e2 then 64 else 128)
    let side ← readRf c ((c.loc w.b).getD 0) 16
    let sd := fun (i : Nat) => (side.getD i 0).toNat
    let rs := (codesOf e2 bs).zipIdx.map fun x => blockDec32 e2 x.1 (sd (x.2 / b)) (sd (128 / b + x.2 / b))
    let d := (c.loc w.dst).getD 0
    let c' ← writeRf s c d 512 (cellsAt d (rs.flatMap fun r => bytesOf 4 r.1))
    return { s := s, c := (c'.orFlags (orAll rs)).clearLatch }

/-- HADV (R319). -/
def execHadv (w : FormA) (s : State) : Out :=
  let b := if w.mod.getLsbD 0 then 32 else 16
  let k := if w.mod.getLsbD 1 then 2 else if b = 16 then 2 else 3
  runInstr s w.h false [w.a] fun s c g => do
    let xs ← readElems c 32 w.a
    let rs := (chunksOf b (64 / b) xs).map fun x => hadamard k x
    let c' ← writeElems s c w.dst 32 g (rs.flatMap fun r => r.1)
    return { s := s, c := c'.orFlags (rs.foldl (fun f r => Nat.lor f r.2) 0) }

end Sys2Proof.Machine
end

