-- ==== Sys2Proof/Machine/Predicate.lean ====
section
/-! DEFINITION. The predicate instructions (R186-R188). -/

namespace Sys2Proof.Machine

/-- A predicate instruction of two masks (R187). -/
def runMask (s : State) (w : FormA) (srcs : List Operand) (f : Word → Word → Word) : Out :=
  runValue s w.h w.dst srcs fun _ c => do
    let xs : List Word ← srcs.mapM fun o => readVal c o
    return (f (xs.getD 0 0) (xs.getD 1 0), 0)

/-- PAND (R187). -/
def execPand (w : FormA) (s : State) : Out := runMask s w [w.a, w.b] fun x y => x &&& y

/-- PANDN (R187). -/
def execPandn (w : FormA) (s : State) : Out := runMask s w [w.a, w.b] fun x y => x &&& ~~~y

/-- POR (R187). -/
def execPor (w : FormA) (s : State) : Out := runMask s w [w.a, w.b] fun x y => x ||| y

/-- PXOR (R187). -/
def execPxor (w : FormA) (s : State) : Out := runMask s w [w.a, w.b] fun x y => x ^^^ y

/-- PNOT (R187). -/
def execPnot (w : FormA) (s : State) : Out := runMask s w [w.a] fun x _ => ~~~x

/-- PMOV (R187). -/
def execPmov (w : FormA) (s : State) : Out := runMask s w [w.a] fun x _ => x

/-- PSET (R188): a count or a pattern. -/
def execPset (w : FormW) (s : State) : Out :=
  runValue s w.h w.dst [] fun _ _ =>
    .ok (if w.mod.getLsbD 0 then w.imm ++ w.imm else BitVec.ofNat 64 (2 ^ min w.imm.toNat 64 - 1), 0)

/-- PCNT (R187). -/
def execPcnt (w : FormA) (s : State) : Out := runMask s w [w.a] fun x _ => BitVec.ofNat 64 (popcount 64 x.toNat)

/-- PANY (R187). -/
def execPany (w : FormA) (s : State) : Out := runMask s w [w.a] fun x _ => if x = 0 then 0 else BitVec.allOnes 64

/-- PALL (R187). -/
def execPall (w : FormA) (s : State) : Out := runMask s w [w.a] fun x _ => if x = BitVec.allOnes 64 then BitVec.allOnes 64 else 0

/-- PFIRST (R187). -/
def execPfirst (w : FormA) (s : State) : Out := runMask s w [w.a] fun x _ => x &&& (-x)

/-- PFROMS (R187). -/
def execPfroms (w : FormA) (s : State) : Out := runMask s w [w.a] fun x _ => x

/-- PTOS (R187). -/
def execPtos (w : FormA) (s : State) : Out := runMask s w [w.a] fun x _ => x

end Sys2Proof.Machine
end

