-- ==== Sys2Proof/Machine/Routing.lean ====
section
/-! DEFINITION. The routing engine (R411-R420, R441): ROUTE, RTCLOSE, RTRECV, holding areas, the two rounds of an admission and its
writes. -/

namespace Sys2Proof.Machine

/-! ### Sending lists -/

/-- A send list entry (R411). -/
structure SendEntry where
  id : Nat
  gate : Nat
  pkg2 : Nat
  slot2 : Nat
  pkg1 : Nat
  slot1 : Nat
  reserved : Nat
  nosecond : Bool
  /-- Length in 64-byte units, 1 to 256. -/
  len : Nat
  offset : Nat
  deriving DecidableEq, Repr

/-- The fields of an entry (R411). -/
def SendEntry.ofNum (x : Nat) : SendEntry :=
  let n := bitsOf x 39 32
  { id := bitsOf x 127 112, gate := bitsOf x 111 96, pkg2 := bitsOf x 95 87, slot2 := bitsOf x 86 81, pkg1 := bitsOf x 80 72,
    slot1 := bitsOf x 71 66, reserved := bitsOf x 65 41, nosecond := bitAt x 40, len := if n = 0 then 256 else n, offset := bitsOf x 31 0 }

/-- The number of the requests by which ROUTE reads peer pages: no access has it. -/
def routeReq : Nat := 2 ^ 64

/-- The context's request for a stretch of a peer page, made in this step after the same writes (R386). -/
def State.farReq (s : State) (c : Ctx) (p : Piece) : Option RemoteReq :=
  match p.peer with
  | none => none
  | some (k, o) => s.fab.requests.find? fun q =>
      q.id == routeReq && q.ctx == c.key && q.peer == k && q.phys == o && q.len == p.len && q.req.rank == c.rank &&
      q.req.domain == s.podDomain c && q.req.steps == c.remoteSteps false && q.req.prior == s.writesSent c k

/-- The bytes of some stretches as ROUTE reads them at issue: it waits for those of peer pages (R386, R413). -/
def State.routeBytes (s : State) (c : Ctx) (slack : Nat) (ps : List Piece) : Try (List Byte) :=
  let have_ := fun (p : Piece) => match s.pieceData c p with
    | some bs => some bs
    | none => (s.farReq c p).bind fun q => if s.packetsDone (.reply q.num) then q.got else none
  let ask := ps.filter fun p => (have_ p).isNone && (s.farReq c p).isNone
  let send := fun (s : State) (p : Piece) => match p.peer with
    | some (k, o) => s.sendRequest c routeReq none k o p.addr p.len .read [] slack
    | none => s
  if !ask.isEmpty then stall (ask.foldl send s)
  else if ps.any fun p => (have_ p).isNone then stall (s.resend none fun q => q.id == routeReq && q.ctx == c.key)
  else .ok (ps.flatMap fun p => (have_ p).getD [])

/-- Read n bytes for ROUTE (R413). -/
def State.routeRead (s : State) (c : Ctx) (slack : Nat) (a : Word) (n : Nat) : Try (List Byte) := do
  let ps ← s.pagePieces c false slack 0 (n / 65536 + 2) a n
  if n ≠ 0 then s.waitFree c (spanAt c.key.tile (s.fromHome c a) n) false
  s.routeBytes c slack ps

/-- A package can hold tokens of a pod domain (R413, R416). -/
def State.routable (s : State) (d : Domain) (p : Nat) : Bool := d.participants.contains p && (p == s.regs.podpackage || s.peerThere p)

/-- The token of an entry (R413, R417). -/
def tokenOf (s : State) (c : Ctx) (d : Domain) (list : Nat) (e : SendEntry) (position : Nat) (data : List Byte) : RToken :=
  { domain := d.id, dstPkg := e.pkg1, srcPkg := s.regs.podpackage, rank := c.rank, batch := c.rtBatch, list := list, position := position,
    id := e.id, gate := e.gate, len := e.len, slot1 := e.slot1, pkg2 := e.pkg2, slot2 := e.slot2, nosecond := e.nosecond,
    overflowed := none, bounced := none, supervisor := c.supervisor, slack := 0, overdue := false, data := data }

/-- Lists of a context in the current routing step: not yet closed, or closed in this pod step (R413, R414). -/
def State.listsOf (s : State) (c : Ctx) (d : Domain) : List RouteList :=
  s.fab.lists.filter fun l => c.isOwner l.task l.rank && (!l.closed || d.closed.contains (l.rank, l.batch))

/-- A token sets out (R413): to its first choice, by way of this package's own holding area where that is here; with no such package it
overflows at once, and is kept for the forwarding of round 1. -/
def State.sendToken (s : State) (c : Ctx) (d : Domain) (slack : Nat) (t : RToken) : State :=
  let t := { t with slack := slack }
  if !s.routable d t.dstPkg then
    { s with fab := { s.fab with holding := s.fab.holding ++ [{ t with overflowed := some 3 }] } }
  else if t.dstPkg = s.regs.podpackage then { s with fab := { s.fab with loop := s.fab.loop ++ [t] } }
  else s.sendFrom c.key.tile c.key.num 1 t.dstPkg 1 slack false (32 + t.data.length) (.token t)

/-- ROUTE (R411-R413). -/
def execRoute (w : FormX) (s : State) : Out :=
  runUniform s w.h false none [w.a] fun s c => do
    let a ← readVal c w.a
    let k ← localRange s c a 64 64
    let d ← podGate s c
    let x := numOf (s.readLoc c false k 64)
    let bounce := BitVec.ofNat 64 (bitsOf x 255 192)
    let tokbase := BitVec.ofNat 64 (bitsOf x 127 64)
    let bcap := bitsOf x 47 32
    let count := bitsOf x 31 16
    let slack := bitsOf x 15 0
    require (bitsOf x 511 256 == 0 && bitsOf x 63 48 == 0 && count ≤ bcap && (s.listsOf c d).length < 256) fcTEMPLATE
    let bytes ← s.routeRead c slack (BitVec.ofNat 64 (bitsOf x 191 128)) (16 * count)
    let raw := chunksOf 16 count bytes
    let es := raw.map fun b => SendEntry.ofNum (numOf b)
    require (es.all fun e => e.reserved == 0 && e.offset % 64 == 0) fcTEMPLATE
    let data : List (List Byte) ← es.mapM fun e => s.routeRead c slack (tokbase + BitVec.ofNat 64 e.offset) (64 * e.len)
    let _ ← s.pagePieces c true slack 0 (16 * bcap / 65536 + 3) bounce (16 + 16 * bcap)
    let num := (s.fab.lists.filter fun l => c.isOwner l.task l.rank && !l.closed).length
    let ts := (es.zip data).zipIdx.map fun y => tokenOf s c d num y.1.1 y.2 y.1.2
    let l : RouteList :=
      { ctx := c.key, task := c.task, rank := c.rank, supervisor := c.supervisor, domain := d.id, batch := c.rtBatch, num := num, entries := raw,
        bounce := bounce, closed := false, unaccepted := (ts.filter fun t => s.routable d t.dstPkg).map fun t => t.position, bounced := [],
        slack := slack, overdue := false }
    let f := s.fab
    let mine := fun (q : RemoteReq) => q.id == routeReq && q.ctx == c.key
    let replies := f.requests.filter mine
    let c := replies.foldl (fun (c : Ctx) q => if s.packetsOverdue (.reply q.num) then c.countOverdue 3 else c) c
    let s := replies.foldl (fun (s : State) q => s.dropPackets (.reply q.num))
      { s with fab := { f with lists := f.lists ++ [l], requests := f.requests.filter fun q => !mine q } }
    return { s := ts.foldl (fun s t => s.sendToken c d slack t) s, c := c.clearLatch }

/-- RTCLOSE (R414): the lists closed belong to the current pod step; while the context's own arrival in a pod step is outstanding, that is
the step that follows. -/
def execRtclose (w : FormX) (s : State) : Out :=
  runUniform s w.h false (resultOf w.a) [] fun s c => do
    parkGate s c
    let mine := fun (l : RouteList) => c.isOwner l.task l.rank && !l.closed
    let lists := s.fab.lists.filter mine
    if lists.any fun l => !l.unaccepted.isEmpty then waitEngine s c
    match c.arrival with
    | some { level := 5, sent := _, sync := _, done := none } => waitEngine s c
    | _ => .ok ()
    let closed := s.fab.lists.map fun l => if mine l then { l with closed := true } else l
    let s := { s with fab := { s.fab with lists := closed } }
    let s := match s.domOf c 5 with
      | some d => s.updDomains d.is fun e => { e with routing := true, closed := e.closed ++ [(c.rank, c.rtBatch)] }
      | none => s
    let c ← writeOpt s { c.endRegion with rtBatch := c.rtBatch + 1 } w.a (BitVec.ofNat 64 lists.length)
    return { s := s, c := c, ends := true }

/-! ### Slots -/

/-- A slot of the table in memory (R415). Its reserved bits are not looked at: R7 would have the record malformed, and no rule names a fault or an
effect for that here. DESIGN CHOICE, log entry 104. -/
def State.slotEntry (s : State) (n : Nat) : Slot :=
  let x := s.mem.num (bitsOf s.regs.rtslots.toNat 38 11 * 2048 + 32 * n) 32
  { num := n, base := BitVec.ofNat 64 (bitsOf x 255 192), bc := bitsOf x 191 128, capacity := bitsOf x 127 112, stride := bitsOf x 111 104,
    ntile := bitsOf x 103 94, nctx := bitsOf x 93 91, ev := bitAt x 90, count := 0, second := 0 }

/-- The state word of a slot (R420). -/
def Slot.word (x : Slot) (done : Bool) : Nat :=
  b2n (x.count == x.capacity && x.capacity != 0) * 2 ^ 49 + b2n done * 2 ^ 48 + x.capacity * 2 ^ 32 + x.second * 65536 + x.count

/-- A slot as RTRECV shows it, and whether the latest admission has ended here (R420). -/
def State.slotState (s : State) (n : Nat) : Slot × Bool :=
  match (s.fab.admissions.filter fun a => a.round < 3).getLast? with
  | some a => ((a.slots.find? fun x => x.num == n).getD (s.slotEntry n), false)
  | none => ((s.fab.slots.find? fun x => x.num == n).getD (s.slotEntry n), s.fab.admittedOnce)

/-- RTRECV (R420). -/
def execRtrecv (w : FormX) (s : State) : Out :=
  runValue s w.h w.a [w.b] fun s c => do
    let b ← readVal c w.b
    let x := s.slotState (b.toNat % 64)
    return (BitVec.ofNat 64 (x.1.word x.2), 0)

/-! ### Holding areas -/

/-- Bytes that a token takes in a holding area: its header and its data (R413, R417). -/
def heldBytes (t : RToken) : Nat := 32 + t.data.length

/-- Further tokens find room in this package's holding area (R414, R415). -/
def State.holdRoom (s : State) (ts : List RToken) : Bool :=
  let ahead := s.fab.admissions.flatMap fun a => a.forwarded
  (ts ++ ahead ++ s.fab.holding.filter fun t => t.overflowed.isNone).foldl (fun a t => a + heldBytes t) 0 ≤ bitsOf s.regs.rtcfg.toNat 63 44 * 65536

/-- The list of this package that a token belongs to. -/
def State.listOf (s : State) (t : RToken) : Option RouteList :=
  s.fab.lists.find? fun l => l.domain == t.domain && l.rank == t.rank && l.batch == t.batch && l.num == t.list

/-- TOKEN_HOLD (R413, R414): the holding area accepts a token; its sender is told, with the token's slack and overdue flag (R112). One that comes
from another package and finds no room waits for it here (R108). -/
def execTokenHold (t : RToken) (s : State) : Out :=
  let own := t.srcPkg == s.regs.podpackage
  let waits := s.fab.loop.contains t
  if t.dstPkg ≠ s.regs.podpackage ∨ (own ∧ !waits) then .refused (.notEnabled "TOKEN_HOLD")
  else if !s.holdRoom [t] then
    if waits then .refused (.notEnabled "TOKEN_HOLD") else .next { s with fab := { s.fab with loop := s.fab.loop ++ [t] } }
  else
    let f := s.fab
    let s := { s with fab := { f with holding := f.holding ++ [t], loop := dropOne t f.loop } }
    if own then
      .next (match s.listOf t with
        | some l => s.acceptToken l t.position t.overdue
        | none => s)
    else .next (s.sendAfter t.srcPkg 2 t.slack t.overdue 0 (.accepted t.domain t.rank t.batch t.list t.position))

/-! ### Admission -/

/-- The place of a token in canonical order (R416). -/
def canonPlace (t : RToken) : Nat := (((t.srcPkg * 2 ^ 16 + t.rank) * 2 ^ 64 + t.batch) * 2 ^ 16 + t.list) * 2 ^ 20 + t.position

/-- Canonical order (R416). -/
def canonical (ts : List RToken) : List RToken := sortBy (fun a b => decide (canonPlace a ≤ canonPlace b)) ts

/-- The header and the padding of an admitted token (R417). -/
def tokenHeader (t : RToken) (round slot index : Nat) : List Byte :=
  bytesOf 64 (t.id * 2 ^ 112 + t.gate * 2 ^ 96 + t.position * 2 ^ 80 + t.list % 256 * 2 ^ 72 + t.rank * 2 ^ 59 + t.srcPkg * 2 ^ 50 +
    round * 2 ^ 49 + t.len % 256 * 2 ^ 41 + slot * 2 ^ 35 + index)

/-- A context that only names a writer to the translation of an admission's write. -/
def admitCtx (rank : Nat) : Ctx := { key := { tile := 0, num := 0 }, task := 0, rank := rank }

/-- The record of a page whose bytes an admission does not write (R440, R441). -/
def State.postDropped (s : State) (d : Domain) (pkg page : Nat) (slot : Option Nat) : State :=
  let where_ := match slot with
    | some n => n * 2 ^ 30
    | none => 2 ^ 36
  s.postEngine none (s.tidOf d.task) 0
    (5 * 2 ^ 176 + 2 * 2 ^ 168 + d.id * 2 ^ 164 + pkg * 2 ^ 155 + (2 ^ 63 + page) % 2 ^ 64 * 2 ^ 37 + where_)

/-- What an admission's writes come to: the state, that in which they are translated, and the pages recorded. -/
structure Admitting where
  s : State
  base : State
  told : List Nat
  deriving DecidableEq, Repr

/-- The page of an admission's write (R441): none where its bytes are not written. -/
def State.admitPage (s : State) (domain : Nat) (supervisor : Bool) (rank : Nat) (a : Word) : Except EngineStop (Option Leaf) :=
  match s.engineLeaf { who := .admission domain, c := admitCtx rank, supervisor := supervisor, slack := 0xFFFF } a true with
  | .ok e => .ok (if e.tier = 0 then some e else none)
  | .error (.bad _ _) => .ok none
  | .error x => .error x

/-- One page's part of an admission's write, as a write of its sender (R387, R418, R441). -/
def admitPart (d : Domain) (pkg rank : Nat) (supervisor : Bool) (slot : Option Nat) (x : Admitting) (a : Word) (n : Nat) (bs : List Byte) :
    Except EngineStop (Admitting × Nat) := do
  let s := x.s
  let page ← x.base.admitPage d.id supervisor rank a
  match page with
  | some e =>
    let k := min n (e.va + e.size - vaOf a)
    let key := e.keyOf (vaOf a)
    let put := fun (s : State) (p : Nat × List Byte) => s.enterPeer (s.peerEntry d pkg rank p.1 (a + BitVec.ofNat 64 (p.1 - key)) p.2 none none)
    match (linePieces (k / 64 + 2) key (bs.take k)).foldlM put s with
    | some s => return ({ x with s := s.setDirty e }, k)
    | none => throw .wait
  | none =>
    let base := vaOf a / 65536 * 65536
    let page := match s.walkAll (vaOf a) with
      | .leaf e => e.va
      | _ => base
    let k := min n (base + 65536 - vaOf a)
    if x.told.contains page then return ({ x with s := s }, k)
    else return ({ x with s := s.postDropped d pkg page slot, told := x.told ++ [page] }, k)

/-- A write of an admission, page by page. -/
def admitWrite (d : Domain) (pkg rank : Nat) (supervisor : Bool) (slot : Option Nat) : Nat → Admitting → Word → List Byte →
    Except EngineStop Admitting
  | 0, x, _, _ => .ok x
  | f + 1, x, a, bs =>
    if bs.isEmpty then .ok x
    else do
      let (x, k) ← admitPart d pkg rank supervisor slot x a bs.length bs
      admitWrite d pkg rank supervisor slot f x (a + BitVec.ofNat 64 k) (bs.drop k)

/-- An admission under way: its record, with the bounced tokens so far. -/
structure Rounds where
  x : Admitting
  a : Admission
  bounced : List RToken
  deriving DecidableEq, Repr

/-- bounce(t, r) of R416. -/
def Rounds.bounce (r : Rounds) (t : RToken) (reason : Nat) : Rounds := { r with bounced := r.bounced ++ [{ t with bounced := some reason }] }

/-- One token takes its place in a buffer (R416), with its arrival (R418). -/
def Rounds.takeToken (r : Rounds) (d : Domain) (t : RToken) (slot : Slot) (round : Nat) : Except EngineStop Rounds := do
  let a := slot.base + BitVec.ofNat 64 (64 * slot.stride * slot.count)
  let bs := tokenHeader t round slot.num slot.count ++ t.data
  let x ← admitWrite d t.srcPkg t.rank t.supervisor (some slot.num) (bs.length / 65536 + 2) r.x a bs
  let s := match spaceOf (BitVec.ofNat 64 slot.bc) with
    | some (.tile n o) => if slot.bc ≠ 0 ∧ n < 768 then x.s.sendArrival (localKey n (o / 16 * 16)) bs.length x.s.seq none else x.s
    | _ => x.s
  let slot := { slot with count := slot.count + 1, second := slot.second + round }
  return { r with x := { x with s := s }, a := { r.a with slots := r.a.slots.map fun y => if y.num = slot.num then slot else y } }

/-- A slot of an admission. -/
def Rounds.slot (r : Rounds) (n : Nat) : Option Slot := r.a.slots.find? fun x => x.num == n

/-- A token does not fit the slot's pitch, or the slot is disabled (R416). -/
def Slot.refuses (x : Slot) (t : RToken) : Bool := x.capacity == 0 || 64 * x.stride < 64 + 64 * t.len

/-- overflow(t, reason) of R416: the tokens that are forwarded, by package. -/
def Rounds.overflow (r : Rounds) (t : RToken) (reason : Nat) : Rounds × List RToken :=
  if t.nosecond then (r.bounce t (if reason = 1 then 2 else 3), [])
  else if r.a.packages.contains t.pkg2 then (r, [{ t with overflowed := some reason, dstPkg := t.pkg2 }])
  else (r.bounce t 3, [])

/-- Round 1 (R416): its result and the tokens forwarded. -/
def roundOne (d : Domain) : List RToken → Rounds × List RToken → Except EngineStop (Rounds × List RToken)
  | [], r => .ok r
  | t :: ts, (r, fwd) => do
    let spill := fun (reason : Nat) =>
      let (r', more) := r.overflow t reason
      roundOne d ts (r', fwd ++ more)
    match t.overflowed with
    | some reason => spill reason
    | none => match r.slot t.slot1 with
      | none => spill 3
      | some x =>
        if x.refuses t then spill 3
        else if x.count < x.capacity then do
          let r' ← r.takeToken d t x 0
          roundOne d ts (r', fwd)
        else spill 1

/-- Round 2 (R416). -/
def roundTwo (d : Domain) : List RToken → Rounds → Except EngineStop Rounds
  | [], r => .ok r
  | t :: ts, r =>
    match r.slot t.slot2 with
    | none => roundTwo d ts (r.bounce t 3)
    | some x =>
      if x.refuses t then roundTwo d ts (r.bounce t 3)
      else if x.count < x.capacity then do
        let r' ← r.takeToken d t x 1
        roundTwo d ts r'
      else roundTwo d ts (r.bounce t 1)

/-- Replace the record of an admission of a domain, or remove it. -/
def State.setAdmission (s : State) (domain : Nat) (a : Option Admission) : State :=
  let as := s.fab.admissions.filterMap fun x => if x.domain = domain then a else some x
  { s with fab := { s.fab with admissions := as } }

/-- Note tokens that have bounced to this package in the records of their lists (R419). -/
def State.noteBounced (s : State) (ts : List RToken) : State :=
  let mine := fun (l : RouteList) => (ts.filter fun t => l.domain == t.domain && l.rank == t.rank && l.batch == t.batch && l.num == t.list).filterMap
    fun t => t.bounced.map fun r => (t.position, r)
  { s with fab := { s.fab with lists := s.fab.lists.map fun l => { l with bounced := l.bounced ++ mine l } } }

/-- Tell the other participants that a round is done, with the tokens that go to each (R416). -/
def State.tellRound (s : State) (d : Domain) (a : Admission) (ts : Nat → List RToken) (second : Bool) : State :=
  (a.packages.filter fun p => p != s.regs.podpackage).foldl (init := s) fun s p =>
    let m := ts p
    let n := m.foldl (fun k t => k + heldBytes t) 0
    s.sendAfter p 1 ((m.map fun t => t.slack).foldl min 0xFFFF) (m.any fun t => t.overdue) n (if second then .round2 d.id m else .round1 d.id m)

/-- Tokens of closed lists that are held here (R414, R416). -/
def Admission.held (a : Admission) (ts : List RToken) : List RToken :=
  ts.filter fun t => t.domain == a.domain && a.closed.contains (t.srcPkg, t.rank, t.batch)

/-- ADMISSION_ROUND1 (R416): the slot table is read, the tokens held are admitted, overflow is forwarded. -/
def execAdmissionRound1 (s : State) : Out :=
  match s.fab.admissions.find? fun a => a.domain == s.sel.a && a.round == 0, s.domain? 5 0 s.sel.a with
  | some a, some d =>
    let own := s.regs.podpackage
    let held := a.held s.fab.holding
    let a := { a with slots := (List.range 64).map s.slotEntry }
    match roundOne d (canonical held) ({ x := { s := s, base := s, told := a.told }, a := a, bounced := [] }, []) with
    | .ok (r, fwd) =>
      let send := fun (p : Nat) => (fwd.filter fun t => t.dstPkg == p) ++ r.bounced.filter fun t => t.srcPkg == p
      let s := { r.x.s.forgetSeeker (.admission d.id) with fab := { r.x.s.fab with holding := r.x.s.fab.holding.filter fun t => !held.contains t } }
      let a := { r.a with round := 2, told := r.x.told, done1 := r.a.done1 ++ [own],
                          forwarded := r.a.forwarded ++ fwd.filter fun t => t.dstPkg == own }
      let s := (s.setAdmission d.id (some a)).noteBounced (r.bounced.filter fun t => t.srcPkg == own)
      .next (s.tellRound d a send false)
    | .error (.note s) => .next s
    | .error _ => .refused (.notEnabled "ADMISSION_ROUND1")
  | _, _ => .refused (.notEnabled "ADMISSION_ROUND1")

/-- ROUND1_DONE (R416): a participant has ended round 1, or with c = 1 round 2; the tokens forwarded or bounced to this package come with
the message, and need room. -/
def execRound1Done (ts : List RToken) (s : State) : Out :=
  match s.fab.admissions.find? fun a => a.domain == s.sel.a with
  | none => .refused (.notEnabled "ROUND1_DONE")
  | some a =>
    let fwd := ts.filter fun t => t.bounced.isNone
    let heard := if s.sel.c = 1 then a.done2 else a.done1
    if !a.packages.contains s.sel.b ∨ heard.contains s.sel.b ∨ !s.holdRoom fwd then .refused (.notEnabled "ROUND1_DONE")
    else
      let a := if s.sel.c = 1 then { a with done2 := a.done2 ++ [s.sel.b] }
        else { a with done1 := a.done1 ++ [s.sel.b], forwarded := a.forwarded ++ fwd }
      .next ((s.setAdmission a.domain (some a)).noteBounced (ts.filter fun t => t.bounced.isSome))

/-- The ROUTING events at the end of an admission (R418). -/
def State.raiseRouting (s : State) (slots : List Slot) : State :=
  (slots.filter fun x => x.ev).foldl (init := s) fun s x =>
    match s.holder? { tile := x.ntile, num := x.nctx } with
    | some c => s.raise c.task c.rank { kind := 5, src := x.num, payload := BitVec.ofNat 64 (x.word true) }
    | none => s

/-- The bytes of a list's bounce area (R419). -/
def RouteList.bounceBytes (l : RouteList) : List Byte :=
  let bs := sortBy (fun a b => decide (a.1 ≤ b.1)) l.bounced
  bytesOf 16 bs.length ++ bs.flatMap fun b => bytesOf 16 (numOf (l.entries.getD b.1 []) + b.2 * 2 ^ 41)

/-- Write the bounce areas of this package's lists, as writes of their contexts (R418, R419, R441). -/
def writeBounces (d : Domain) (own : Nat) : List RouteList → Admitting → Except EngineStop Admitting
  | [], x => .ok x
  | l :: ls, x => do
    let bs := l.bounceBytes
    let x ← admitWrite d own l.rank l.supervisor none (bs.length / 65536 + 2) x l.bounce bs
    writeBounces d own ls x

/-- ADMISSION_ROUND2 (R416-R419): the forwarded tokens are admitted or bounced; once every participant has ended both rounds, the bounce
areas are written and the admission is over. -/
def execAdmissionRound2 (s : State) : Out :=
  match s.fab.admissions.find? fun a => a.domain == s.sel.a, s.domain? 5 0 s.sel.a with
  | some a, some d =>
    let own := s.regs.podpackage
    if a.round = 2 ∧ a.packages.all (fun p => a.done1.contains p) then
      match roundTwo d (canonical a.forwarded) { x := { s := s, base := s, told := a.told }, a := a, bounced := [] } with
      | .ok r =>
        let a := { r.a with round := 3, told := r.x.told, forwarded := [], done2 := r.a.done2 ++ [own] }
        let s := (r.x.s.setAdmission d.id (some a)).noteBounced (r.bounced.filter fun t => t.srcPkg == own)
        let s := { s.forgetSeeker (.admission d.id) with fab := { s.fab with slots := a.slots, admittedOnce := true } }
        .next ((s.tellRound d a (fun p => r.bounced.filter fun t => t.srcPkg == p) true).raiseRouting a.slots)
      | .error (.note s) => .next s
      | .error _ => .refused (.notEnabled "ADMISSION_ROUND2")
    else if a.round = 3 ∧ a.packages.all (fun p => a.done2.contains p) then
      let mine := fun (l : RouteList) => l.domain == d.id && l.closed && a.closed.contains (own, l.rank, l.batch)
      match writeBounces d own (s.fab.lists.filter mine) { s := s, base := s, told := a.told } with
      | .ok x =>
        let s := { x.s with fab := { x.s.fab with lists := x.s.fab.lists.filter fun l => !mine l } }
        .next ((s.forgetSeeker (.admission d.id)).setAdmission d.id none)
      | .error (.note s) => .next s
      | .error _ => .refused (.notEnabled "ADMISSION_ROUND2")
    else .refused (.notEnabled "ADMISSION_ROUND2")
  | _, _ => .refused (.notEnabled "ADMISSION_ROUND2")

end Sys2Proof.Machine
end

