-- ==== Sys2Proof/Machine/Vector.lean ====
section
/-! DEFINITION. Lane movement and reduction (R180-R185). -/

namespace Sys2Proof.Machine

/-- Element width of a vector type code (R180). -/
def vecWidth (typ : Nat) : Nat :=
  match typ with
  | 1 => 32
  | 4 => 32
  | 3 => 8
  | _ => 16

/-- A vector instruction that computes a whole register from its operands (R180). -/
def runVec (s : State) (w : FormA) (width : Nat) (ops : List Operand) (f : Ctx → Try (List Nat)) : Out :=
  runInstr s w.h false ops fun s c g => do
    let xs ← f c
    let c' ← writeElems s c w.dst width g xs
    return { s := s, c := c' }

/-- VBCAST (R181). -/
def execVbcast (w : FormA) (s : State) : Out :=
  let n := vecWidth w.typ
  let e := 2048 / n
  runVec s w n [w.a, w.b] fun c => do
    let a ← readElems c n w.a
    let i ← readVal c w.b
    return List.replicate e (a.getD (i.toNat % 256 % e) 0)

/-- VEXT (R181). -/
def execVext (w : FormA) (s : State) : Out :=
  let n := vecWidth w.typ
  let e := 2048 / n
  runVec s w n [w.a, w.b, w.c] fun c => do
    let a ← readElems c n w.a
    let b ← readElems c n w.b
    let i ← readVal c w.c
    let k := i.toNat % 512
    return (List.range e).map fun p => (a ++ b).getD (p + k) 0

/-- VINS (R181): the destination is read too. -/
def execVins (w : FormA) (s : State) : Out :=
  let n := vecWidth w.typ
  let e := 2048 / n
  runVec s w n [w.a, w.b] fun c => do
    let x ← readVal c w.a
    let i ← readVal c w.b
    let d ← readElems c n w.dst
    return d.set (i.toNat % 256 % e) (x.toNat % 2 ^ n)

/-- VPERM (R182). -/
def execVperm (w : FormA) (s : State) : Out :=
  runVec s w 32 [w.a, w.b] fun c => do
    let a ← readElems c 32 w.a
    let b ← readElems c 32 w.b
    return b.map fun k => a.getD (k % 128) 0

/-- VSHUF (R182). -/
def execVshuf (w : FormA) (s : State) : Out :=
  runVec s w 32 [w.a, w.b, w.c] fun c => do
    let a ← readElems c 32 w.a
    let b ← readElems c 32 w.b
    let k ← readElems c 32 w.c
    return k.map fun k => (a ++ b).getD (k % 128) 0

/-- VSEL (R182). -/
def execVsel (w : FormA) (s : State) : Out :=
  let n := vecWidth w.typ
  runVec s w n [w.a, w.b, w.c] fun c => do
    let a ← readElems c n w.a
    let b ← readElems c n w.b
    let k ← readElems c n w.c
    return (List.range (2048 / n)).map fun p => if k.getD p 0 ≠ 0 then a.getD p 0 else b.getD p 0

/-- An integer reduction step (R183). -/
def reduceInt (op w x y : Nat) : Nat :=
  match op with
  | 0 => (x + y) % 2 ^ w
  | 1 => minMaxInt false false w x y
  | 2 => minMaxInt false true w x y
  | 3 => minMaxInt true false w x y
  | 4 => minMaxInt true true w x y
  | 5 => Nat.land x y
  | 6 => Nat.lor x y
  | _ => Nat.xor x y

/-- The identity of an integer reduction (R183). -/
def identityInt (op w : Nat) : Nat :=
  match op with
  | 1 => 2 ^ (w - 1) - 1
  | 2 => 2 ^ (w - 1)
  | 3 => 2 ^ w - 1
  | 5 => 2 ^ w - 1
  | _ => 0

/-- The identity of a float minimum or maximum (R183). -/
def identityF (f : Fmt) (op : Nat) : Nat := f.inf.getD 0 + (if op = 2 then 2 ^ (f.width - 1) else 0)

/-- The selected elements of a source, in position order: none where the mask's lane bit is 0 (R183). -/
def selectElems (w : Nat) (m : Word) (xs : List Nat) : List (Option Nat) :=
  xs.zipIdx.map fun x => if m.getLsbD (x.2 / (32 / w)) then some x.1 else none

/-- NV for signalling NaNs among selected elements (R183). -/
def selectedSig (f : Fmt) (sel : List (Option Nat)) : Nat :=
  sigFlag ((sel.filterMap id).map (decF f))

/-- An element as FP32, exactly (R71). -/
def widen32 (f : Fmt) (x : Nat) : Nat := if f.width = 32 then x else (cvtF f fp32 rne x).1

/-- FP32 rounded to the element format (R71). -/
def narrow32 (f : Fmt) (x : Nat) : Nat × Nat := if f.width = 32 then (x, 0) else roundF f rne (decF fp32 x)

/-- VREDU over the selected elements: the result and its flags (R71, R183). -/
def reduceAll (typ op w : Nat) (sel : List (Option Nat)) : Nat × Nat :=
  if 4 ≤ typ then
    let f := fltOf typ
    if op = 0 then
      let t := rankTree (sel.map fun x => x.map (widen32 f))
      let r := narrow32 f t.1
      (r.1, Nat.lor (Nat.lor t.2 r.2) (selectedSig f sel))
    else ((sel.filterMap id).foldl (fun a x => (minMaxF f (op == 2) a x).1) (identityF f op), selectedSig f sel)
  else ((sel.filterMap id).foldl (reduceInt op w) (identityInt op w), 0)

/-- VREDU (R183). -/
def execVredu (w : FormA) (s : State) : Out :=
  let n := vecWidth w.typ
  runInstr s w.h false [w.a, w.b] fun s c g => do
    let a ← readElems c n w.a
    let m ← readVal c w.b
    let r := reduceAll w.typ w.opt n (selectElems n m a)
    let c' ← writeElems s c w.dst n g (List.replicate (2048 / n) r.1)
    return { s := s, c := c'.orFlags r.2 }

/-- The running values of a scan: at each position the fold so far, if an element has been selected, and the flags of its
roundings (R183). -/
def scanFold (step : Nat → Nat → Nat × Nat) : List (Option Nat) → Option Nat → Nat → List (Option Nat) × Nat
  | [], _, f => ([], f)
  | x :: r, acc, f =>
    let (acc, f) := match acc, x with
      | none, x => (x, f)
      | some a, none => (some a, f)
      | some a, some b => let (v, g) := step a b; (some v, Nat.lor f g)
    let (l, f) := scanFold step r acc f
    (acc :: l, f)

/-- VSCAN over the selected elements: each position's value with the flags of its own rounding, and the flags of the fold (R71,
R183). -/
def scanAll (typ op w : Nat) (sel : List (Option Nat)) : List (Nat × Nat) × Nat :=
  if 4 ≤ typ then
    let f := fltOf typ
    if op = 0 then
      let (l, g) := scanFold add32 (sel.map fun x => x.map (widen32 f)) none 0
      (l.map fun x => match x with
        | some v => narrow32 f v
        | none => (0, 0), Nat.lor g (selectedSig f sel))
    else
      let (l, _) := scanFold (fun a b => minMaxF f (op == 2) a b) (some (identityF f op) :: sel) none 0
      ((l.drop 1).map fun x => (x.getD 0, 0), selectedSig f sel)
  else
    let (l, _) := scanFold (fun a b => (reduceInt op w a b, 0)) (some (identityInt op w) :: sel) none 0
    ((l.drop 1).map fun x => (x.getD 0, 0), 0)

/-- VSCAN (R183). -/
def execVscan (w : FormA) (s : State) : Out :=
  let n := vecWidth w.typ
  runInstr s w.h false [w.a, w.b] fun s c g => do
    let a ← readElems c n w.a
    let m ← readVal c w.b
    let r := scanAll w.typ w.opt n (selectElems n m a)
    let c' ← writeElems s c w.dst n g (r.1.map fun x => x.1)
    return { s := s, c := c'.orFlags (Nat.lor r.2 (laneFlags n g r.1)) }

/-- The selected lanes, moved to the low ones (R184). -/
def compressLanes (m : Word) (a : List Nat) : List Nat :=
  let l := (selectElems 32 m a).filterMap id
  l ++ List.replicate (64 - l.length) 0

/-- The low lanes, moved to the selected ones: n lanes from lane i on (R184). -/
def expandLanes (m : Word) : Nat → Nat → List Nat → List Nat
  | 0, _, _ => []
  | n + 1, i, a =>
    if m.getLsbD i then a.headD 0 :: expandLanes m n (i + 1) (a.drop 1) else 0 :: expandLanes m n (i + 1) a

/-- VCPRS (R184). -/
def execVcprs (w : FormA) (s : State) : Out :=
  runVec s w 32 [w.a, w.b] fun c => do
    let a ← readElems c 32 w.a
    let m ← readVal c w.b
    return compressLanes m a

/-- VEXPD (R184). -/
def execVexpd (w : FormA) (s : State) : Out :=
  runVec s w 32 [w.a, w.b] fun c => do
    let a ← readElems c 32 w.a
    let m ← readVal c w.b
    return expandLanes m 64 0 a

/-- VIOTA (R184). -/
def execViota (w : FormA) (s : State) : Out :=
  runVec s w 32 [w.a] fun c => do
    let m ← readVal c w.a
    return (List.range 64).map fun i => popcount i m.toNat

/-- Write whole registers from one on, the enabled lanes of each; the latch is empty (R131, R185). -/
def writeRegs (s : State) (c : Ctx) (first : Nat) (g : Word) (vs : List (List Nat)) : Try Ctx := do
  let a := c.vloc first
  let c' ← writeRf s c a (256 * vs.length) (vs.zipIdx.flatMap fun v => enabledCells (a + 256 * v.2) 32 g v.1)
  return c'.clearLatch

/-- VMOVN (R185). -/
def execVmovn (w : FormA) (s : State) : Out :=
  runInstr s w.h false [] fun s c g =>
    match w.dst, w.a, w.b with
    | .v d, .v a, .const n => do
      let b ← readRf c (c.vloc a) (256 * n.toNat)
      let vs := (List.range n.toNat).map fun m => splitElems 32 (numOf ((b.drop (256 * m)).take 256)) 64
      let c' ← writeRegs s c d g vs
      return { s := s, c := c' }
    | _, _, _ => fault fcILLEGAL

/-- VZERO (R185). -/
def execVzero (w : FormA) (s : State) : Out :=
  runInstr s w.h false [] fun s c g =>
    match w.dst, w.a with
    | .v d, .const n => do
      let c' ← writeRegs s c d g (List.replicate n.toNat (List.replicate 64 0))
      return { s := s, c := c' }
    | _, _ => fault fcILLEGAL

end Sys2Proof.Machine
end

