-- ==== Sys2Proof/Machine/Dispatch.lean ====
section
/-! DEFINITION. One arm for each operation: the meaning it has. -/

namespace Sys2Proof.Machine

/-- What an operation does in a state. -/
def exec (i : Instr) (s : State) : Host.Outcome State Fault Refusal :=
  match i with
  | .nop w => Sys2Proof.Machine.execNop w s
  | .br w => Sys2Proof.Machine.execBr w s
  | .bri w => Sys2Proof.Machine.execBri w s
  | .call w => Sys2Proof.Machine.execCall w s
  | .calli w => Sys2Proof.Machine.execCalli w s
  | .ret w => Sys2Proof.Machine.execRet w s
  | .loop w => Sys2Proof.Machine.execLoop w s
  | .exit w => Sys2Proof.Machine.execExit w s
  | .park w => Sys2Proof.Machine.execPark w s
  | .yield w => Sys2Proof.Machine.execYield w s
  | .wfe w => Sys2Proof.Machine.execWfe w s
  | .add w => Sys2Proof.Machine.execAdd w s
  | .addi w => Sys2Proof.Machine.execAddi w s
  | .sub w => Sys2Proof.Machine.execSub w s
  | .mul w => Sys2Proof.Machine.execMul w s
  | .muli w => Sys2Proof.Machine.execMuli w s
  | .mulhi w => Sys2Proof.Machine.execMulhi w s
  | .mulhu w => Sys2Proof.Machine.execMulhu w s
  | .mad w => Sys2Proof.Machine.execMad w s
  | .div w => Sys2Proof.Machine.execDiv w s
  | .divu w => Sys2Proof.Machine.execDivu w s
  | .rem w => Sys2Proof.Machine.execRem w s
  | .remu w => Sys2Proof.Machine.execRemu w s
  | .and w => Sys2Proof.Machine.execAnd w s
  | .andi w => Sys2Proof.Machine.execAndi w s
  | .or w => Sys2Proof.Machine.execOr w s
  | .ori w => Sys2Proof.Machine.execOri w s
  | .xor w => Sys2Proof.Machine.execXor w s
  | .xori w => Sys2Proof.Machine.execXori w s
  | .shl w => Sys2Proof.Machine.execShl w s
  | .shli w => Sys2Proof.Machine.execShli w s
  | .shr w => Sys2Proof.Machine.execShr w s
  | .shri w => Sys2Proof.Machine.execShri w s
  | .sar w => Sys2Proof.Machine.execSar w s
  | .sari w => Sys2Proof.Machine.execSari w s
  | .rol w => Sys2Proof.Machine.execRol w s
  | .min w => Sys2Proof.Machine.execMin w s
  | .minu w => Sys2Proof.Machine.execMinu w s
  | .max w => Sys2Proof.Machine.execMax w s
  | .maxu w => Sys2Proof.Machine.execMaxu w s
  | .abs w => Sys2Proof.Machine.execAbs w s
  | .cmp w => Sys2Proof.Machine.execCmp w s
  | .cmpi w => Sys2Proof.Machine.execCmpi w s
  | .sel w => Sys2Proof.Machine.execSel w s
  | .mov w => Sys2Proof.Machine.execMov w s
  | .movi w => Sys2Proof.Machine.execMovi w s
  | .movhi w => Sys2Proof.Machine.execMovhi w s
  | .popc w => Sys2Proof.Machine.execPopc w s
  | .clz w => Sys2Proof.Machine.execClz w s
  | .ctz w => Sys2Proof.Machine.execCtz w s
  | .brev w => Sys2Proof.Machine.execBrev w s
  | .bfx w => Sys2Proof.Machine.execBfx w s
  | .bfxu w => Sys2Proof.Machine.execBfxu w s
  | .bfi w => Sys2Proof.Machine.execBfi w s
  | .lea w => Sys2Proof.Machine.execLea w s
  | .fadd w => Sys2Proof.Machine.execFadd w s
  | .fsub w => Sys2Proof.Machine.execFsub w s
  | .fmul w => Sys2Proof.Machine.execFmul w s
  | .fma w => Sys2Proof.Machine.execFma w s
  | .fms w => Sys2Proof.Machine.execFms w s
  | .fnma w => Sys2Proof.Machine.execFnma w s
  | .fnms w => Sys2Proof.Machine.execFnms w s
  | .fmin w => Sys2Proof.Machine.execFmin w s
  | .fmax w => Sys2Proof.Machine.execFmax w s
  | .fabs w => Sys2Proof.Machine.execFabs w s
  | .fneg w => Sys2Proof.Machine.execFneg w s
  | .fcpys w => Sys2Proof.Machine.execFcpys w s
  | .fcmp w => Sys2Proof.Machine.execFcmp w s
  | .fclass w => Sys2Proof.Machine.execFclass w s
  | .fdiv w => Sys2Proof.Machine.execFdiv w s
  | .fsqrt w => Sys2Proof.Machine.execFsqrt w s
  | .frcp w => Sys2Proof.Machine.execFrcp w s
  | .frsq w => Sys2Proof.Machine.execFrsq w s
  | .fexp2 w => Sys2Proof.Machine.execFexp2 w s
  | .flog2 w => Sys2Proof.Machine.execFlog2 w s
  | .frnd w => Sys2Proof.Machine.execFrnd w s
  | .fcvt w => Sys2Proof.Machine.execFcvt w s
  | .fcvti w => Sys2Proof.Machine.execFcvti w s
  | .icvtf w => Sys2Proof.Machine.execIcvtf w s
  | .fpack w => Sys2Proof.Machine.execFpack w s
  | .funpk w => Sys2Proof.Machine.execFunpk w s
  | .vbcast w => Sys2Proof.Machine.execVbcast w s
  | .vext w => Sys2Proof.Machine.execVext w s
  | .vins w => Sys2Proof.Machine.execVins w s
  | .vperm w => Sys2Proof.Machine.execVperm w s
  | .vshuf w => Sys2Proof.Machine.execVshuf w s
  | .vsel w => Sys2Proof.Machine.execVsel w s
  | .vredu w => Sys2Proof.Machine.execVredu w s
  | .vscan w => Sys2Proof.Machine.execVscan w s
  | .vcprs w => Sys2Proof.Machine.execVcprs w s
  | .vexpd w => Sys2Proof.Machine.execVexpd w s
  | .viota w => Sys2Proof.Machine.execViota w s
  | .vmovn w => Sys2Proof.Machine.execVmovn w s
  | .vzero w => Sys2Proof.Machine.execVzero w s
  | .pand w => Sys2Proof.Machine.execPand w s
  | .pandn w => Sys2Proof.Machine.execPandn w s
  | .por w => Sys2Proof.Machine.execPor w s
  | .pxor w => Sys2Proof.Machine.execPxor w s
  | .pnot w => Sys2Proof.Machine.execPnot w s
  | .pmov w => Sys2Proof.Machine.execPmov w s
  | .pset w => Sys2Proof.Machine.execPset w s
  | .pcnt w => Sys2Proof.Machine.execPcnt w s
  | .pany w => Sys2Proof.Machine.execPany w s
  | .pall w => Sys2Proof.Machine.execPall w s
  | .pfirst w => Sys2Proof.Machine.execPfirst w s
  | .pfroms w => Sys2Proof.Machine.execPfroms w s
  | .ptos w => Sys2Proof.Machine.execPtos w s
  | .ldb w => Sys2Proof.Machine.execLdb w s
  | .ldh w => Sys2Proof.Machine.execLdh w s
  | .ldw w => Sys2Proof.Machine.execLdw w s
  | .ldd w => Sys2Proof.Machine.execLdd w s
  | .stb w => Sys2Proof.Machine.execStb w s
  | .sth w => Sys2Proof.Machine.execSth w s
  | .stw w => Sys2Proof.Machine.execStw w s
  | .std w => Sys2Proof.Machine.execStd w s
  | .ldv w => Sys2Proof.Machine.execLdv w s
  | .stv w => Sys2Proof.Machine.execStv w s
  | .ldvs w => Sys2Proof.Machine.execLdvs w s
  | .stvs w => Sys2Proof.Machine.execStvs w s
  | .ldvx w => Sys2Proof.Machine.execLdvx w s
  | .stvx w => Sys2Proof.Machine.execStvx w s
  | .xldd w => Sys2Proof.Machine.execXldd w s
  | .xldv w => Sys2Proof.Machine.execXldv w s
  | .xstd w => Sys2Proof.Machine.execXstd w s
  | .xstv w => Sys2Proof.Machine.execXstv w s
  | .xred w => Sys2Proof.Machine.execXred w s
  | .xredv w => Sys2Proof.Machine.execXredv w s
  | .btx w => Sys2Proof.Machine.execBtx w s
  | .btxa w => Sys2Proof.Machine.execBtxa w s
  | .btwm w => Sys2Proof.Machine.execBtwm w s
  | .btwait w => Sys2Proof.Machine.execBtwait w s
  | .btcan w => Sys2Proof.Machine.execBtcan w s
  | .btstat w => Sys2Proof.Machine.execBtstat w s
  | .bcpost w => Sys2Proof.Machine.execBcpost w s
  | .bcarv w => Sys2Proof.Machine.execBcarv w s
  | .bcwait w => Sys2Proof.Machine.execBcwait w s
  | .bctest w => Sys2Proof.Machine.execBctest w s
  | .bcreset w => Sys2Proof.Machine.execBcreset w s
  | .sync w => Sys2Proof.Machine.execSync w s
  | .arrive w => Sys2Proof.Machine.execArrive w s
  | .waits w => Sys2Proof.Machine.execWaits w s
  | .steprd w => Sys2Proof.Machine.execSteprd w s
  | .abortrd w => Sys2Proof.Machine.execAbortrd w s
  | .dombind w => Sys2Proof.Machine.execDombind w s
  | .dombindFree w => Sys2Proof.Machine.execDombindFree w s
  | .mma w => Sys2Proof.Machine.execMma w s
  | .mmat w => Sys2Proof.Machine.execMmat w s
  | .mbld w => Sys2Proof.Machine.execMbld w s
  | .mbldFree w => Sys2Proof.Machine.execMbldFree w s
  | .mbswap w => Sys2Proof.Machine.execMbswap w s
  | .mplw w => Sys2Proof.Machine.execMplw w s
  | .mpdesc w => Sys2Proof.Machine.execMpdesc w s
  | .accz w => Sys2Proof.Machine.execAccz w s
  | .accld w => Sys2Proof.Machine.execAccld w s
  | .accst w => Sys2Proof.Machine.execAccst w s
  | .acccvt w => Sys2Proof.Machine.execAcccvt w s
  | .mqwait w => Sys2Proof.Machine.execMqwait w s
  | .mstat w => Sys2Proof.Machine.execMstat w s
  | .stpkey w => Sys2Proof.Machine.execStpkey w s
  | .stpmem w => Sys2Proof.Machine.execStpmem w s
  | .stpmemAdd w => Sys2Proof.Machine.execStpmemAdd w s
  | .stpgen w => Sys2Proof.Machine.execStpgen w s
  | .stpmul w => Sys2Proof.Machine.execStpmul w s
  | .qcvt w => Sys2Proof.Machine.execQcvt w s
  | .dqcvt w => Sys2Proof.Machine.execDqcvt w s
  | .hadv w => Sys2Proof.Machine.execHadv w s
  | .nmred w => Sys2Proof.Machine.execNmred w s
  | .nmgath w => Sys2Proof.Machine.execNmgath w s
  | .nmfill w => Sys2Proof.Machine.execNmfill w s
  | .nmcpy w => Sys2Proof.Machine.execNmcpy w s
  | .nmstat w => Sys2Proof.Machine.execNmstat w s
  | .nmstatCap w => Sys2Proof.Machine.execNmstatCap w s
  | .fsend w => Sys2Proof.Machine.execFsend w s
  | .route w => Sys2Proof.Machine.execRoute w s
  | .rtclose w => Sys2Proof.Machine.execRtclose w s
  | .rtrecv w => Sys2Proof.Machine.execRtrecv w s
  | .coll w => Sys2Proof.Machine.execColl w s
  | .collwait w => Sys2Proof.Machine.execCollwait w s
  | .fstatPort w => Sys2Proof.Machine.execFstatPort w s
  | .fstatWork w => Sys2Proof.Machine.execFstatWork w s
  | .fstatPod w => Sys2Proof.Machine.execFstatPod w s
  | .spawn w => Sys2Proof.Machine.execSpawn w s
  | .tcbrdy w => Sys2Proof.Machine.execTcbrdy w s
  | .tdone w => Sys2Proof.Machine.execTdone w s
  | .taskid w => Sys2Proof.Machine.execTaskid w s
  | .rankrd w => Sys2Proof.Machine.execRankrd w s
  | .rankrdShape w => Sys2Proof.Machine.execRankrdShape w s
  | .preempt w => Sys2Proof.Machine.execPreempt w s
  | .preemptKill w => Sys2Proof.Machine.execPreemptKill w s
  | .resume w => Sys2Proof.Machine.execResume w s
  | .resumeCtx w => Sys2Proof.Machine.execResumeCtx w s
  | .resumeRemove w => Sys2Proof.Machine.execResumeRemove w s
  | .reloc w => Sys2Proof.Machine.execReloc w s
  | .pginfo w => Sys2Proof.Machine.execPginfo w s
  | .cntrd w => Sys2Proof.Machine.execCntrd w s
  | .tlbinv w => Sys2Proof.Machine.execTlbinv w s
  | .tlbinvAll w => Sys2Proof.Machine.execTlbinvAll w s
  | .migr w => Sys2Proof.Machine.execMigr w s
  | .tfence w => Sys2Proof.Machine.execTfence w s
  | .trap w => Sys2Proof.Machine.execTrap w s
  | .eret w => Sys2Proof.Machine.execEret w s
  | .eretu w => Sys2Proof.Machine.execEretu w s
  | .csrr w => Sys2Proof.Machine.execCsrr w s
  | .csrw w => Sys2Proof.Machine.execCsrw w s
  | .csrs w => Sys2Proof.Machine.execCsrs w s
  | .csrc w => Sys2Proof.Machine.execCsrc w s
  | .flagrd w => Sys2Proof.Machine.execFlagrd w s
  | .flagclr w => Sys2Proof.Machine.execFlagclr w s
  | .view w => Sys2Proof.Machine.execView w s
  | .setslk w => Sys2Proof.Machine.execSetslk w s
  | .cycle w => Sys2Proof.Machine.execCycle w s
  | .podtime w => Sys2Proof.Machine.execPodtime w s
  | .blockHeader h => Sys2Proof.Machine.execBlockHeader h s
  | .resultReturn data => Sys2Proof.Machine.execResultReturn data s
  | .registerEccError correctable selfTestPasses => Sys2Proof.Machine.execRegisterEccError correctable selfTestPasses s
  | .balancePeriod busy => Sys2Proof.Machine.execBalancePeriod busy s
  | .hardwareError selfTestPasses => Sys2Proof.Machine.execHardwareError selfTestPasses s
  | .readUncorrectable access => Sys2Proof.Machine.execReadUncorrectable access s
  | .slotControlReceive c => Sys2Proof.Machine.execSlotControlReceive c s
  | .flitReceive f => Sys2Proof.Machine.execFlitReceive f s
  | .maskChange dark => Sys2Proof.Machine.execMaskChange dark s
  | .relayArrival p => Sys2Proof.Machine.execRelayArrival p s
  | .peerRequest r => Sys2Proof.Machine.execPeerRequest r s
  | .shareAnnouncement a => Sys2Proof.Machine.execShareAnnouncement a s
  | .podContribution c => Sys2Proof.Machine.execPodContribution c s
  | .podResult r => Sys2Proof.Machine.execPodResult r s
  | .fsendDelivery f => Sys2Proof.Machine.execFsendDelivery f s
  | .collPacketArrival p => Sys2Proof.Machine.execCollPacketArrival p s
  | .tokenHold t => Sys2Proof.Machine.execTokenHold t s
  | .round1Done ts => Sys2Proof.Machine.execRound1Done ts s
  | .hostBar2Access offset write data => Sys2Proof.Machine.execHostBar2Access offset write data s
  | .hostActiveMessage offset data => Sys2Proof.Machine.execHostActiveMessage offset data s
  | .tcbsub addr => Sys2Proof.Machine.execTcbsub addr s
  | .hoststatWrite half value => Sys2Proof.Machine.execHoststatWrite half value s
  | .evheadWrite value => Sys2Proof.Machine.execEvheadWrite value s
  | .evlostClear value => Sys2Proof.Machine.execEvlostClear value s
  | .fwctlVerify length => Sys2Proof.Machine.execFwctlVerify length s
  | .brclr value => Sys2Proof.Machine.execBrclr value s
  | .deviceReset outcome fw => Sys2Proof.Machine.execDeviceReset outcome fw s
  | .unitSelfTestDone isStack pass => Sys2Proof.Machine.execUnitSelfTestDone isStack pass s
  | .hostLinkError replayGood => Sys2Proof.Machine.execHostLinkError replayGood s
  | .meshLinkError replayGood => Sys2Proof.Machine.execMeshLinkError replayGood s
  | .undefinedOpcode w => Sys2Proof.Machine.execUndefinedOpcode w s
  | .controlWindowAccess offset write data => Sys2Proof.Machine.execControlWindowAccess offset write data s
  | .hostLinkTrained rate width => Sys2Proof.Machine.execHostLinkTrained rate width s
  | .instructionFetchReply => Sys2Proof.Machine.execInstructionFetchReply s
  | .gangForwardArrival => Sys2Proof.Machine.execGangForwardArrival s
  | .registerCacheFill => Sys2Proof.Machine.execRegisterCacheFill s
  | .wfeLimitExpiry => Sys2Proof.Machine.execWfeLimitExpiry s
  | .yieldExpiry => Sys2Proof.Machine.execYieldExpiry s
  | .userEventEntry => Sys2Proof.Machine.execUserEventEntry s
  | .sfqPost => Sys2Proof.Machine.execSfqPost s
  | .waitTimeout => Sys2Proof.Machine.execWaitTimeout s
  | .slackTick => Sys2Proof.Machine.execSlackTick s
  | .packetArbitration => Sys2Proof.Machine.execPacketArbitration s
  | .barrierArrival => Sys2Proof.Machine.execBarrierArrival s
  | .stepCompletion => Sys2Proof.Machine.execStepCompletion s
  | .stepTimeout => Sys2Proof.Machine.execStepTimeout s
  | .copyRun => Sys2Proof.Machine.execCopyRun s
  | .copyInflightFault => Sys2Proof.Machine.execCopyInflightFault s
  | .copyComplete => Sys2Proof.Machine.execCopyComplete s
  | .bcPostApply => Sys2Proof.Machine.execBcPostApply s
  | .bcArrival => Sys2Proof.Machine.execBcArrival s
  | .exchangeInflightFault => Sys2Proof.Machine.execExchangeInflightFault s
  | .commitHoldEnd => Sys2Proof.Machine.execCommitHoldEnd s
  | .predecessorDecrement => Sys2Proof.Machine.execPredecessorDecrement s
  | .taskRetire => Sys2Proof.Machine.execTaskRetire s
  | .activeMessageArrival => Sys2Proof.Machine.execActiveMessageArrival s
  | .activeMessageStart => Sys2Proof.Machine.execActiveMessageStart s
  | .taskPlacement => Sys2Proof.Machine.execTaskPlacement s
  | .reservation => Sys2Proof.Machine.execReservation s
  | .placementStall => Sys2Proof.Machine.execPlacementStall s
  | .taskStop => Sys2Proof.Machine.execTaskStop s
  | .imageEvict => Sys2Proof.Machine.execImageEvict s
  | .taskResume => Sys2Proof.Machine.execTaskResume s
  | .taskRelocation => Sys2Proof.Machine.execTaskRelocation s
  | .traceMiss => Sys2Proof.Machine.execTraceMiss s
  | .matrixCommandExecute => Sys2Proof.Machine.execMatrixCommandExecute s
  | .bankReplay => Sys2Proof.Machine.execBankReplay s
  | .tableWalk => Sys2Proof.Machine.execTableWalk s
  | .counterIncrement => Sys2Proof.Machine.execCounterIncrement s
  | .notificationPush => Sys2Proof.Machine.execNotificationPush s
  | .migrationComplete => Sys2Proof.Machine.execMigrationComplete s
  | .writeBlocked => Sys2Proof.Machine.execWriteBlocked s
  | .readRetryResult => Sys2Proof.Machine.execReadRetryResult s
  | .basedieSubcommand => Sys2Proof.Machine.execBasedieSubcommand s
  | .basedieComplete => Sys2Proof.Machine.execBasedieComplete s
  | .basedieInflightFault => Sys2Proof.Machine.execBasedieInflightFault s
  | .refresh => Sys2Proof.Machine.execRefresh s
  | .rateChange => Sys2Proof.Machine.execRateChange s
  | .stackThermalLimit => Sys2Proof.Machine.execStackThermalLimit s
  | .slotStart => Sys2Proof.Machine.execSlotStart s
  | .peerAbsent => Sys2Proof.Machine.execPeerAbsent s
  | .wavelengthDark => Sys2Proof.Machine.execWavelengthDark s
  | .replayResend => Sys2Proof.Machine.execReplayResend s
  | .peerTimeout => Sys2Proof.Machine.execPeerTimeout s
  | .fsendComplete => Sys2Proof.Machine.execFsendComplete s
  | .fsendInflightFault => Sys2Proof.Machine.execFsendInflightFault s
  | .collNodeComplete => Sys2Proof.Machine.execCollNodeComplete s
  | .collMismatch => Sys2Proof.Machine.execCollMismatch s
  | .admissionRound1 => Sys2Proof.Machine.execAdmissionRound1 s
  | .admissionRound2 => Sys2Proof.Machine.execAdmissionRound2 s
  | .eventRecordPost => Sys2Proof.Machine.execEventRecordPost s
  | .firmwareVerified => Sys2Proof.Machine.execFirmwareVerified s
  | .fwctlRaisemin => Sys2Proof.Machine.execFwctlRaisemin s
  | .attestationRequest => Sys2Proof.Machine.execAttestationRequest s
  | .attestationDone => Sys2Proof.Machine.execAttestationDone s
  | .throttleTemperature => Sys2Proof.Machine.execThrottleTemperature s
  | .stepRaised => Sys2Proof.Machine.execStepRaised s
  | .trip => Sys2Proof.Machine.execTrip s
  | .hostLinkDown => Sys2Proof.Machine.execHostLinkDown s

end Sys2Proof.Machine
end

