-- ==== Sys2Proof/Machine/Schedule.lean ====
section
/-! DEFINITION. What may happen next by itself: the events of the package's engines, each as the move that names it; and the clock
(R102, R120, R290). -/

namespace Sys2Proof.Machine

/-- A move that concerns a context. -/
def ctxMove (k : CtxKey) (a b c : Nat) (flag : Bool) (i : Instr) : Move := { sel := { ctx := k, a := a, b := b, c := c, flag := flag }, op := i }

/-- A move that concerns a unit of the package. -/
def unitMove (i : Instr) (a : Nat) (b : Nat := 0) (c : Nat := 0) (flag : Bool := false) : Move :=
  ctxMove { tile := 0, num := 0 } a b c flag i

/-- The selection of a context. -/
def selCtx (k : CtxKey) : Selection := { ctx := k, a := 0, b := 0, c := 0, flag := false }

/-! ### Contexts -/

/-- The results that may return to a context, and the faults that its requests may have found. -/
def State.resultMoves (s : State) (c : Ctx) : List Move :=
  c.outstanding.zipIdx.flatMap fun x =>
    let code := s.tokenFault x.1
    ctxMove c.key x.2 0 0 (s.returnLate x.1) (.resultReturn (s.returnData x.1)) ::
    (if code = 0 then [] else [ctxMove c.key 0 0 code false .exchangeInflightFault])

/-- The events that end a wait of a context. -/
def State.waitMoves (s : State) (c : Ctx) : List Move :=
  match c.wait with
  | .wfe _ (some _) => [ctxMove c.key 0 0 0 false .wfeLimitExpiry]
  | .yield d => if d = 0 then [] else [ctxMove c.key 0 0 0 false .yieldExpiry]
  | .engine (some _) => if s.waitLate c then [ctxMove c.key 0 0 0 false .waitTimeout] else []
  | _ => []

/-- The events of a context. -/
def State.ctxMoves (s : State) (c : Ctx) : List Move :=
  if c.stopped then (if c.evicted then [] else [ctxMove c.key 0 0 0 false .imageEvict])
  else
    s.resultMoves c ++ s.waitMoves c ++
    (match s.fetched c with
     | f :: _ => [ctxMove c.key 0 0 0 (s.packetsOverdue (.fetch c.task c.rank f.addr)) .instructionFetchReply]
     | [] => []) ++
    (match c.want with
     | some (l :: _) => [ctxMove c.key l 0 0 false .registerCacheFill]
     | _ => []) ++
    (if c.fwdWire.isEmpty then [] else [ctxMove c.key 0 0 0 false .gangForwardArrival]) ++
    (match c.arrival with
     | some { level := _, sent := some _, sync := _, done := none } => [ctxMove c.key 0 0 0 false .barrierArrival]
     | _ => []) ++
    (if c.front.isNone && c.back.isNone && (s.tile c.key.tile).mq.isEmpty then []
     else [ctxMove c.key 0 0 0 false .bankReplay, ctxMove c.key 0 0 0 true .bankReplay])

/-! ### Tiles -/

/-- The code of the fault that the next run of a copy finds, 0 for none. -/
def State.copyFault (s : State) (tile num : Nat) : Nat :=
  match runCopy s tile num with
  | .error (.bad code _) => code
  | _ => 0

/-- The events of a tile's engines. -/
def State.tileMoves (s : State) (t : Tile) : List Move :=
  ((t.channels ++ t.pausedCopies).map fun ch => ch.num).dedup.flatMap (fun n =>
    [unitMove .copyRun t.num n, unitMove .copyInflightFault t.num n (s.copyFault t.num n), unitMove .copyComplete t.num n]) ++
  (if t.bcq.isEmpty then [] else [unitMove .bcPostApply t.num, unitMove .bcArrival t.num]) ++
  (if t.msgq.isEmpty then [] else [unitMove .activeMessageStart t.num]) ++
  (if t.mq.isEmpty && t.mqSaved.isEmpty then [] else [unitMove .matrixCommandExecute t.num])

/-! ### Tasks and steps -/

/-- The events that concern a task of the table. -/
def taskMoves (t : Task) : List Move :=
  match t.phase with
  | .waiting => []
  | .ready => [unitMove .taskPlacement t.num, unitMove .reservation t.num, unitMove .placementStall t.num, unitMove .traceMiss t.num]
  | .running => t.stopping.map (fun n => unitMove .taskStop t.num n) ++ [unitMove .taskRetire t.num]
  | .stopped => [unitMove .taskResume t.num, unitMove .taskRelocation t.num, unitMove .reservation t.num, unitMove .placementStall t.num,
                 unitMove .traceMiss t.num]

/-- The events of the dispatch engine that concern no single task, and the resumptions elsewhere. -/
def State.dispatchMoves (s : State) : List Move :=
  s.tasks.flatMap (fun t => (s.elsewhere t).map fun o => unitMove .taskRelocation t.num o 0 true) ++
  (s.deferred.map fun x => (x.task, x.rank)).dedup.map (fun x => unitMove .commitHoldEnd x.1 x.2) ++
  (if s.decrements.isEmpty then [] else [unitMove .predecessorDecrement 0]) ++
  (List.range s.messages.length).map (fun i => unitMove .activeMessageArrival i) ++
  (if s.balancedAt + bitsOf s.regs.balctl.toNat 39 8 ≤ s.ticks then [unitMove (.balancePeriod s.busyCtx) 0] else [])

/-- The events of a barrier domain. -/
def State.domainMoves (s : State) (d : Domain) : List Move :=
  unitMove .stepCompletion d.level d.unit d.id :: (if s.stepLate d then [unitMove .stepTimeout d.level d.unit d.id] else [])

/-! ### Translation and the base dies -/

/-- The events of the translation and migration engines. -/
def State.pageMoves (s : State) : List Move :=
  let x := s.xlat
  (x.walks.filter fun w => w.running).map (fun w => unitMove .tableWalk w.page w.die) ++
  (x.touches.map fun t => t.die).dedup.map (fun d => unitMove .counterIncrement d) ++
  (x.notices.map fun n => n.die).dedup.map (fun d => unitMove .notificationPush d) ++
  x.migrations.flatMap (fun m => [unitMove .migrationComplete m.leaf.va, unitMove .writeBlocked m.leaf.va]) ++
  (if x.retries.isEmpty then [] else [unitMove .readRetryResult 0 0 0 false, unitMove .readRetryResult 0 0 0 true])

/-- The events of a base-die command. -/
def State.bdMoves (s : State) (m : BdCmd) : List Move :=
  let code := match s.member? m.task m.rank with
    | some c => s.bdFault c m
    | none => 0
  [unitMove .basedieComplete m.id 0 0 (s.packetsOverdue (.basedie m.id))] ++
  (if code = 0 then [] else [unitMove .basedieInflightFault m.id 0 code])

/-- The sub-commands at the heads of the engines' queues. -/
def State.engineMoves (s : State) : List Move :=
  (s.packets.filter Packet.inEngine).map fun p => unitMove .basedieSubcommand p.command ((p.goal - chanArbiter 0 0) / 32) ((p.goal - chanArbiter 0 0) % 32)

/-- The stacks whose channels may be on their way to another clock ratio. -/
def State.changingStacks (s : State) : List Nat :=
  if s.bd.chans.isEmpty && s.bd.target == s.bd.rate then []
  else (List.range 8).filter fun n => s.bd.target.getD n 0 != s.bd.rate.getD n 0 || s.bd.chans.any fun x => x.stack == n

/-- Channels that take a new clock ratio. -/
def State.rateMoves (s : State) : List Move :=
  s.changingStacks.flatMap fun n => ((List.range 32).filter fun c => s.draining n c).map fun c => unitMove .rateChange n c

/-! ### The fabric -/

/-- The events of the optical ports. -/
def State.portMoves (s : State) : List Move :=
  if s.regs.podsize = 0 then []
  else
    (s.fab.links.filter fun l => s.replayDue l).map (fun l => unitMove .replayResend l.port l.slot) ++
    ((List.range s.regs.podsize).filter s.peerSilent).map fun p => unitMove .peerAbsent p

/-- The events of remote access, collectives and routing. -/
def State.fabricMoves (s : State) : List Move :=
  let f := s.fab
  (f.heldReqs.filter fun r => (s.servePeer r).isSome).map (fun r => unitMove (.peerRequest r) 0) ++
  (f.requests.filter s.requestLate).map (fun q => unitMove .peerTimeout q.num) ++
  f.fsends.flatMap (fun m => [unitMove .fsendComplete m.id, unitMove .fsendInflightFault m.id 0 fcPEER]) ++
  f.colls.flatMap (fun m => if m.status.isSome then [] else [unitMove .collNodeComplete m.idx 0 0 m.overdue, unitMove .collMismatch m.idx]) ++
  f.loop.map (fun t => unitMove (.tokenHold t) 0) ++
  f.admissions.flatMap fun a => [unitMove .admissionRound1 a.domain, unitMove .admissionRound2 a.domain]

/-! ### The whole package -/

/-- The events of the supervisor's queue and of the host link. -/
def State.hostMoves (s : State) : List Move :=
  (if s.sfqWait.isEmpty then [] else [unitMove .sfqPost 0]) ++
  (if s.host.evwait.isEmpty then [] else [unitMove .eventRecordPost 0]) ++
  (if s.host.fwJob.isSome then [unitMove .firmwareVerified 0] else []) ++
  (if s.host.att = 1 then [unitMove .attestationDone 0] else []) ++
  (if s.coolEnough then [unitMove .stepRaised 0] else [])

/-- The moves that name events which may have come about in a state. -/
def State.eventMoves (s : State) : List Move :=
  s.ctxs.flatMap s.ctxMoves ++ s.tiles.flatMap s.tileMoves ++ s.tasks.flatMap taskMoves ++ s.dispatchMoves ++
  s.domains.flatMap s.domainMoves ++ s.pageMoves ++ s.bd.cmds.flatMap s.bdMoves ++ s.engineMoves ++ s.rateMoves ++ s.portMoves ++ s.fabricMoves ++ s.hostMoves

/-! ### What the clock drives -/

/-- A rotor slot begins (R374). -/
def State.slotDue (s : State) : Bool := s.regs.podsize != 0 && s.fab.slotStarted != some (s.podtime / 250)

/-- An output that is free and has a winner takes it (R109, R110). -/
def State.grantable (s : State) (a : Nat) : Bool := s.outFree a && (s.winnerAt a).isSome

/-- The ports that send now (R385). -/
def State.portsReady (s : State) : List Nat := if s.regs.podsize = 0 then [] else (List.range 32).filter fun p => (s.portNext p).isSome

/-- What the clock brings about before anything else happens in a cycle: a tick edge that has come (R102), the start of a slot, the arbitration of
each free output (R107, R110, R374). -/
def State.clocked (s : State) : Option Move :=
  if s.tickDue then some (unitMove .slackTick 0)
  else if s.slotDue then some (unitMove .slotStart 0)
  else match s.arbiters.find? s.grantable with
    | some a => some (unitMove .packetArbitration a)
    | none => s.portsReady.head?.map fun p => unitMove .packetArbitration (portArbiter p)

/-! ### The clock -/

/-- The contexts of a die that tasks occupy (R290). -/
def State.occupied (s : State) (die : Nat) : Nat := (s.ctxs.filter fun c => c.task != 0 && !c.stopped && dieOfTile c.key.tile == die).length

/-- Cycles pass: the balance period's account of each die goes on (R290). -/
def State.pass (s : State) (n : Nat) : State :=
  { s with cycle := s.cycle + n, busyCycles := s.busyCycles + n,
           busyCtx := (List.range 4).map fun d => s.busyCtx.getD d 0 + n * s.occupied d }

/-- The clock after a step: a step takes a cycle, and may take more (log entry 3). -/
def State.advance (s : State) : State := { s.pass (1 + Config.extraCycles s.free) with free := s.free + 1 }

end Sys2Proof.Machine
end

