-- ==== Sys2Proof/Machine/Run.lean ====
section
/-! DEFINITION. What a step takes up: an issue, an event of the machine, an input from outside; and what follows it (R120, R137, R204). -/

namespace Sys2Proof.Machine

/-- What one step takes up. -/
inductive Action where
  /-- A tile's issue port takes a context. -/
  | issue (k : CtxKey)
  /-- An event of the machine happens. -/
  | event (m : Move)
  /-- An input from outside arrives: the first one of the agenda that can. -/
  | input
  deriving DecidableEq, Repr

/-- A move may happen in a state. -/
def State.may (s : State) (m : Move) : Bool :=
  match exec m.op { s with sel := m.sel } with
  | .next _ => true
  | _ => false

/-- What the inputs of the agenda come to, in their order: the first one that may happen does, and the others wait. The inputs passed over are
given first. -/
def State.takeInput (s : State) : List Move → List Move → Option State
  | _, [] => none
  | passed, m :: rest =>
    match exec m.op { s with sel := m.sel, agenda := passed.reverse ++ rest } with
    | .next t => some t
    | _ => s.takeInput (m :: passed) rest


/-- Which of several comes next is left open (R48, R120): log entry 2. -/
def pickAction (n : Nat) : List Action → Option Action
  | [] => none
  | [a] => some a
  | l => l[Config.sched n % l.length]?

/-- Map the next state of an outcome. -/
def mapNext (o : Out) (f : State → State) : Out :=
  match o with
  | .next s => .next (f s)
  | .fault r => .fault r
  | .refused r => .refused r

/-- What follows an attempt to issue: after an issue the port moves on and yields end; a gang leader's word is forwarded; the instruction has used
its register lines; the clock goes on. -/
def afterIssue (k : CtxKey) (c : Ctx) (i : Instr) (w : Word) (t : State) : State :=
  let t := if c.issuedIn t then (t.endYields k).issued k else t
  let t := if c.stalledIn t then t else t.updCtx c fun d => d.useLines (touchedBy i c)
  (forwardIssue c i w t).advance

/-- Execute the word that a context issues; a user event at this boundary goes first where the instruction neither faults nor waits
(R204). -/
def runIssue (s : State) (k : CtxKey) (c : Ctx) (i : Instr) (w : Word) : Out :=
  let out := exec i { s with sel := selCtx k }
  if c.deliverable && eventFirst c out then
    mapNext (exec .userEventEntry { s with sel := selCtx k }) State.advance
  else mapNext out (afterIssue k c i w)

/-- One attempt of an issue port. -/
def stepIssue (s : State) (k : CtxKey) : Out :=
  match s.ctx? k with
  | none => .next s.advance
  | some c =>
    match s.front k with
    | .done t => .next t.advance
    | .run i w => runIssue s k c i w

/-- An attempt of a context would stall (R121). -/
def State.stalls (s : State) (k : CtxKey) : Bool :=
  match s.ctx? k with
  | none => true
  | some c => match stepIssue s k with
    | .next t => c.stalledIn t
    | _ => false

/-- The contexts that may issue as far as their own state shows. -/
def State.candidates (s : State) : List CtxKey := (s.ctxs.filter s.ready).map fun c => c.key

/-- The contexts that the tiles' ports choose: of those ready, the first in the order of the search (R120). -/
def State.issuers (s : State) : List CtxKey :=
  let ready := s.candidates.filter fun k => !s.stalls k
  (ready.map fun k => k.tile).dedup.filterMap fun n => s.firstOf n ready.contains

/-- What may happen next. A stalled context's next word is looked at too, which starts what it then waits for. -/
def State.actions (s : State) : List Action :=
  (s.issuers ++ s.candidates.filter s.stalls).map .issue ++ (s.eventMoves.filter s.may).map .event ++ (if s.agenda.isEmpty then [] else [.input])

/-- One action. -/
def State.act (s : State) : Action → Out
  | .issue k => stepIssue s k
  | .event m => mapNext (exec m.op { s with sel := m.sel }) State.advance
  | .input => .next ((s.takeInput [] s.agenda).getD s).advance

/-- An input is a device reset, which alone reaches a package whose power has been removed. -/
def isReset (m : Move) : Bool :=
  match m.op with
  | .deviceReset _ _ => true
  | _ => false

/-- A step without power (R438): nothing happens before a reset. -/
def State.stepOff (s : State) : Out :=
  match s.agenda.dropWhile fun m => !isReset m with
  | [] => .fault .powerOff
  | m :: rest => mapNext (exec m.op { s with sel := m.sel, agenda := rest }) State.advance

/-- A step with power: what the clock brings about takes no time of its own. -/
def State.stepOn (s : State) : Out :=
  match s.clocked with
  | some m => exec m.op { s with sel := m.sel }
  | none => match pickAction s.free s.actions with
    | none => .next s.advance
    | some a => s.act a

end Sys2Proof.Machine
end

