-- ==== Sys2Proof/Machine/Step.lean ====
section
/-! DEFINITION. One step of the machine, and the placing of a word where the next step fetches it. -/

namespace Sys2Proof.Machine

/-- One step. -/
def step (s : State) : Host.Outcome State Fault Refusal := if s.off then s.stepOff else s.stepOn

/-- The address of the word that withFetchWord places, and of its block's header. -/
def fetchBase : Word := 0x8000000000001000

/-- The task of the context that runs a placed word. -/
def placedTask : Task :=
  { num := 1, tid := 1, addr := none, phase := .running, count := 0,
    blk := { pc := fetchBase, args := [], slack := 0xFFFF, viewb := 0x4000040002000000, slktab := List.replicate 7 0xFFFF, w := 1, h := 1, k := 1,
             gang := false, prio := 0, diemask := 15, restart := false, reloc := false, preds := 0, succ := [], inputs := [],
             trace := 0, dmbase := 0, dmsize := 0, gmbase := 0, gmsize := 0, pod := none } }

/-- A state in which a word stands where the next step fetches: the one context of a task that has been placed stands at it, in
the middle of a block, or at a block header for the word of one. The tile's instruction buffer holds the word,
and its register lines are there. -/
def State.withFetchWord (s : State) (nbits w : Nat) : State :=
  let word : Word := BitVec.ofNat 64 (w % 2 ^ nbits)
  let head := word.extractLsb' 54 10 == 0x3FF#10
  let pc := if head then fetchBase else fetchBase + 8
  let c : Ctx := { key := { tile := 0, num := 0 }, task := 1, rank := 0, pc := pc, atHeader := head,
                   blockEnd := if head then 0 else fetchBase + 2056, want := some [] }
  { s with ctxs := [c], tasks := [placedTask], tiles := [{ num := 0, ibuf := [{ addr := pc.toNat, task := 1, user := true, word := word }] }] }

end Sys2Proof.Machine
end

