-- ==== Sys2Proof/Safety.lean ====
section
/-! DEFINITION. What counts as a safe step. -/

namespace Sys2Proof

/-- A step is safe: it gives a next state, or power has been removed (R438). -/
def Machine.State.stepSafe (s : Machine.State) : Prop :=
  (∃ t, Machine.step s = .next t) ∨ (s.off = true ∧ Machine.step s = .fault .powerOff)

/-- Memory has its canonical form. -/
def Machine.State.memOk (s : Machine.State) : Prop := Machine.Mem.wf s.mem = true

end Sys2Proof
end

