-- ==== Sys2Proof/Certificates/Slice0/Obligations.lean ====
section
/-! DEFINITION. What is claimed of the Z2 for the provers. Every statement is about the step and the meanings themselves, for every state
and operands that meet its hypotheses. -/

namespace Sys2Proof.Claims

open Sys2Proof.Machine

/-! ### The words of the statements -/

/-- A context issues an instruction: it is there, its latch can be read by these operands, and its guard reads as g (R88, R131, R136). -/
def Issues (s : State) (c : Ctx) (h : Common) (ops : List Operand) (g : Word) : Prop :=
  s.ctx? s.sel.ctx = some c ∧ latchReady s c h.lane ops = .ok () ∧ readGuard c h = .ok g

/-- Control may go on to the next word: if a block ends there, the next header is in order (R74, R75). -/
def Falls (s : State) (c : Ctx) : Prop := c.pc + 8 = c.blockEnd → s.checkFall c (c.pc + 8) = .ok ()

/-- A uniform instruction issues with its guard set, and control may go on. -/
def Fires (s : State) (c : Ctx) (h : Common) (ops : List Operand) : Prop :=
  (∃ g, Issues s c h ops g ∧ g.getLsbD 0 = true) ∧ Falls s c

/-- An instruction answers a next state: the machine t it leaves, with the context's record d, completed as FinishOfAnInstruction says. -/
def Completes (i : Instr) (s : State) (c : Ctx) (h : Common) (t : State) (d : Ctx) : Prop :=
  exec i s = .next (({ s := t, c := d } : Done).finish c h)

/-- As Completes, for an instruction that is itself a park and ends the region (R132). -/
def CompletesPark (i : Instr) (s : State) (c : Ctx) (h : Common) (t : State) (d : Ctx) : Prop :=
  exec i s = .next (({ s := t, c := d, ends := true } : Done).finish c h)

/-- As Completes, for an instruction that transfers control to t. -/
def Jumps (i : Instr) (s : State) (c : Ctx) (h : Common) (d : Ctx) (t : Word) : Prop :=
  exec i s = .next (({ s := s, c := d, jump := some t } : Done).finish c h)

/-- The precise fault of a code is taken, or waits for earlier results (R195). -/
def Faults (i : Instr) (s : State) (c : Ctx) (t : Trap) : Prop := exec i s = .next (s.dueFault c t)

/-- An event of the machine is enabled in s and leaves t. -/
def Happens (i : Instr) (s t : State) : Prop := exec i s = .next t

/-- The uniform instruction i writes x to dst, raises the flags fl and completes. -/
def GivesValue (i : Instr) (h : Common) (dst : Operand) (srcs : List Operand) (s : State) (c : Ctx) (x : Word) (fl : Nat) : Prop :=
  Fires s c h srcs → ∀ c', writeVal s c dst x = .ok c' → Completes i s c h s (c'.orFlags fl)

/-- A result of n bits as a uniform destination holds it: extended with zeros or with its sign (R150). -/
def widen (n : Nat) (zero : Bool) (r : Nat) : Word :=
  if zero then (BitVec.ofNat n r).setWidth 64 else (BitVec.ofNat n r).signExtend 64

/-- The instruction i computes f on elements of n bits of its sources. In uniform class one element is computed and widened; in lane class
every element is computed and the enabled ones are written (R136, R150, R168). -/
def Elementwise (i : Instr) (h : Common) (dst : Operand) (srcs : List Operand) (n : Nat) (zero : Bool) (f : List Nat → Nat × Nat) : Prop :=
  i.wf = true → ∀ (s : State) (c : Ctx) (g : Word), Issues s c h srcs g → Falls s c →
    (h.lane = false → g.getLsbD 0 = true → ∀ xs, srcs.mapM (fun o => readVal c o) = .ok xs →
      ∀ c', writeVal s c dst (widen n zero (f (xs.map fun x => x.toNat % 2 ^ n)).1) = .ok c' →
      Completes i s c h s (c'.orFlags (f (xs.map fun x => x.toNat % 2 ^ n)).2)) ∧
    (h.lane = true → ∀ ls, srcs.mapM (fun o => readElems c n o) = .ok ls →
      ∀ c', writeElems s c dst n g ((List.range (2048 / n)).map fun e => (f (ls.map fun l => l.getD e 0)).1) = .ok c' →
      Completes i s c h s (c'.orFlags (laneFlags n g ((List.range (2048 / n)).map fun e => f (ls.map fun l => l.getD e 0)))))

/-- A direct write to n register bytes waits for nothing and is no HAZARD: no window store of the region and no matrix command meets them (R134,
R135). -/
def Free (s : State) (c : Ctx) (a n : Nat) : Prop := meetsAny c.winRanges a n = false ∧ meetsAny (s.readPending c) a n = false

/-! ### Private stores -/

/-- n bytes at a private address take a store: they are aligned, and lie in local memory where nothing holds the store back, or in the register window
where they are neither pending nor still to be read by a matrix command (R24, R134, R135, R189, R230, R231). -/
def Takes (s : State) (c : Ctx) (a : Word) (n : Nat) : Prop :=
  a.toNat % n = 0 ∧
  ((a.toNat + n ≤ 0x100000 ∧ s.heldBack c { virt := false, lo := localKey c.key.tile a.toNat, len := n } true = false) ∨
   (0x100000 ≤ a.toNat ∧ a.toNat + n ≤ 0x108000 ∧ windowPending c a n = false ∧ meetsAny (s.readPending c) (a.toNat - 0x100000) n = false))

/-- What is staged at a byte are plain writes, none of a step after the context's own, so that a write it makes now is the newest (R31, R38). -/
def Newest (s : State) (c : Ctx) (k : Nat) : Prop :=
  ∀ e ∈ s.staged, e.covers k = true → e.kind = none ∧ ∀ l, 1 ≤ l → l ≤ 5 → e.stepLe l { e with steps := s.stepsOf c } = true

/-- The byte that stores made one after the other leave at an address: none where none of them writes it. -/
def storedAt (es : List (Word × List Byte)) (a : Nat) : Option Byte :=
  (es.reverse.find? fun e => decide (e.1.toNat ≤ a ∧ a < e.1.toNat + e.2.length)).map fun e => e.2.getD (a - e.1.toNat) 0

/-- The instruction i stores the elements es one after the other and completes, in every state in which their places take them and the package pool has
256 pages free: in the window they are kept until the region's end, and in local memory the context reads them back (R29, R45, R135, R194). -/
def Stores (i : Instr) (s : State) (c : Ctx) (h : Common) (es : List (Word × List Byte)) : Prop :=
  (∀ e ∈ es, Takes s c e.1 e.2.length) → s.stageUsed + 256 ≤ s.poolCap 4 →
  ∃ t d, Completes i s c h t d ∧ d = { c with winStores := d.winStores, latch := .empty, latchTok := none } ∧ t.ctxs = s.ctxs ∧ t.regs = s.regs ∧
    (∀ o, o < 0x8000 → windowRead d o 1 = match storedAt es (0x100000 + o) with
      | some b => [b]
      | none => windowRead c o 1) ∧
    (s.mem.wf = true → c.frozen = none → (∀ x, x < 0x100000 → (storedAt es x).isSome = true → Newest s c (localKey c.key.tile x)) →
      (∀ x b, x < 0x100000 → storedAt es x = some b → t.readLoc c false (localKey c.key.tile x) 1 = [b]) ∧
      ∀ k, (∀ x, x < 0x100000 → (storedAt es x).isSome = true → k ≠ localKey c.key.tile x) → t.readLoc c false k 1 = s.readLoc c false k 1)

/-! ### Level and virtual addresses -/

/-- An access of the context at a virtual address may use the page entry e: the entry is at hand, and every check of R331, R388 and R389 passes. -/
def Opens (s : State) (c : Ctx) (a : Word) (write : Bool) (slack : Nat) (e : Leaf) : Prop :=
  s.look (.ctx c.key) c.key.tile (vaOf a) slack false = .leaf e ∧ e.tier ≠ 3 ∧ (c.supervisor = true ∨ e.user = true) ∧ e.poison = false ∧
  (write = true → e.writable = true ∧ e.wblock = false) ∧ s.peerOk c e write = true

/-- The stretches of n bytes at a virtual address, page by page (R331). -/
def InPages (s : State) (c : Ctx) (write : Bool) (slack : Nat) : Word → Nat → List Piece → Prop
  | _, n, [] => n = 0
  | a, n, p :: r => 0 < p.len ∧ (∃ e, Opens s c a write slack e ∧
      p = { key := e.keyOf (vaOf a), addr := a, len := min n (e.va + e.size - vaOf a), leaf := some e }) ∧
      InPages s c write slack (a + BitVec.ofNat 64 p.len) (n - p.len) r

/-- An access of n bytes passes every check of R242 and has the stretches ps: one in a level memory that the context may use, or those in at most two
pages. -/
def Reach (s : State) (c : Ctx) (a : Word) (n align : Nat) (write : Bool) (slack : Nat) (ps : List Piece) : Prop :=
  a.toNat % align = 0 ∧
  ((isVirtual a = false ∧ ∃ sp sp', spaceOf a = some sp ∧ (∀ o, sp ≠ .priv o) ∧ sp.offset + n ≤ sp.extent ∧ s.locate c sp n = some sp' ∧
      sp'.allowed c.key.tile c.supervisor = true ∧ ps = [{ key := sp'.key c.key.tile, addr := a, len := n, leaf := none }]) ∨
   (isVirtual a = true ∧ virtualOk a = true ∧ vaOf a + n ≤ 2 ^ 57 ∧ s.xlatOn = true ∧ ps.length ≤ 2 ∧ InPages s c write slack a n ps))

/-- Lane l is the lowest and u the highest lane that a mask enables. -/
def LaneSpan (g : Word) (l u : Nat) : Prop := g.getLsbD l = true ∧ g.getLsbD u = true ∧ ∀ i, g.getLsbD i = true → l ≤ i ∧ i ≤ u

/-! ### Integer elements -/

/-- The width of an integer type code: 64, 32, 16 or 8 bits (R83). -/
def width (typ : Nat) : Nat := 2 ^ (6 - typ)

/-- An element as a number (R150). -/
def value (n : Nat) (unsigned : Bool) (x : Nat) : Int := if unsigned then (x : Int) else (BitVec.ofNat n x).toInt

/-- An exact result as an element: one outside the range is clamped with SAT set, or wrapped with IOV set (R68, R151). -/
def fit (n : Nat) (unsigned sat : Bool) (v : Int) : Nat × Nat :=
  let lo : Int := if unsigned then 0 else -(2 ^ (n - 1))
  let hi : Int := if unsigned then 2 ^ n - 1 else 2 ^ (n - 1) - 1
  if lo ≤ v ∧ v ≤ hi then ((BitVec.ofInt n v).toNat, 0)
  else if sat then ((BitVec.ofInt n (max lo (min hi v))).toNat, flagSAT)
  else ((BitVec.ofInt n v).toNat, flagIOV)

/-- Element k of a list of sources, as bits. -/
def el (n : Nat) (l : List Nat) (k : Nat) : BitVec n := BitVec.ofNat n (l.getD k 0)

/-- The value of a Form I immediate as an element (R159). -/
def immOf (w : FormI) (n : Nat) : BitVec n := w.imm.signExtend n

/-- The condition of a comparison code (R160). -/
def compares (k n : Nat) (x y : BitVec n) : Bool :=
  match k with
  | 0 => decide (x = y)
  | 1 => decide (x ≠ y)
  | 2 => x.slt y
  | 3 => y.sle x
  | 4 => x.sle y
  | 5 => y.slt x
  | 6 => x.ult y
  | _ => y.ule x

/-- The width on which a Form I instruction works (R159). -/
def immWidth (w : FormI) : Nat := if w.h.lane then 32 else 64

end Sys2Proof.Claims

open Sys2Proof Sys2Proof.Machine Sys2Proof.Claims

/-! ### Integers -/

/-- ADD, SUB, MUL and MAD compute the exact result in the signedness of the instruction, and wrap it with IOV or clamp it with SAT; ADDI and MULI
are the signed forms with an immediate (R150, R151, R153, R159). MULHI and MULHU give the high half of the exact product; DIV, DIVU, REM and REMU
divide towards zero, and division by zero sets DZ and gives all ones or the dividend (R154, R155). -/
def Obligations.IntegerArithmetic : Prop :=
  ((∀ w : FormA,
      let n := width w.typ
      let u := w.mod.getLsbD 5
      let sat := w.mod.getLsbD 6
      let x := fun (l : List Nat) (k : Nat) => value n u (l.getD k 0)
      Elementwise (.add w) w.h w.dst [w.a, w.b] n u (fun l => fit n u sat (x l 0 + x l 1)) ∧
      Elementwise (.sub w) w.h w.dst [w.a, w.b] n u (fun l => fit n u sat (x l 0 - x l 1)) ∧
      Elementwise (.mul w) w.h w.dst [w.a, w.b] n u (fun l => fit n u sat (x l 0 * x l 1)) ∧
      Elementwise (.mad w) w.h w.dst [w.a, w.b, w.c] n u (fun l => fit n u sat (x l 0 * x l 1 + x l 2))) ∧
    (∀ w : FormI,
      let n := immWidth w
      Elementwise (.addi w) w.h w.dst [w.a] n false (fun l => fit n false false ((el n l 0).toInt + (immOf w n).toInt)) ∧
      Elementwise (.muli w) w.h w.dst [w.a] n false (fun l => fit n false false ((el n l 0).toInt * (immOf w n).toInt)))) ∧
  (∀ w : FormA,
      let n := width w.typ
      let x := fun l => el n l 0
      let y := fun l => el n l 1
      Elementwise (.mulhi w) w.h w.dst [w.a, w.b] n false (fun l => ((BitVec.ofInt n ((x l).toInt * (y l).toInt / 2 ^ n)).toNat, 0)) ∧
      Elementwise (.mulhu w) w.h w.dst [w.a, w.b] n true (fun l => ((x l).toNat * (y l).toNat / 2 ^ n, 0)) ∧
      Elementwise (.divu w) w.h w.dst [w.a, w.b] n true (fun l =>
        if y l = 0 then ((BitVec.allOnes n).toNat, flagDZ) else ((x l).toNat / (y l).toNat, 0)) ∧
      Elementwise (.remu w) w.h w.dst [w.a, w.b] n true (fun l =>
        if y l = 0 then ((x l).toNat, flagDZ) else ((x l).toNat % (y l).toNat, 0)) ∧
      Elementwise (.div w) w.h w.dst [w.a, w.b] n false (fun l =>
        if y l = 0 then ((BitVec.allOnes n).toNat, flagDZ)
        else ((BitVec.ofInt n ((x l).toInt.tdiv (y l).toInt)).toNat, if x l = BitVec.intMin n ∧ y l = BitVec.allOnes n then flagIOV else 0)) ∧
      Elementwise (.rem w) w.h w.dst [w.a, w.b] n false (fun l =>
        if y l = 0 then ((x l).toNat, flagDZ) else ((BitVec.ofInt n ((x l).toInt.tmod (y l).toInt)).toNat, 0)))

/-- AND, OR and XOR work bit by bit, and set no flag (R156). The shifts and the rotation take their amount modulo the width; only SHL can set IOV
or SAT (R157). MIN, MAX and ABS, and LEA (R158, R166). -/
def Obligations.IntegerLogicShiftsAndExtremes : Prop :=
  (∀ w : FormA,
      let n := width w.typ
      let x := fun l => el n l 0
      let y := fun l => el n l 1
      Elementwise (.and w) w.h w.dst [w.a, w.b] n false (fun l => ((x l &&& y l).toNat, 0)) ∧
      Elementwise (.or w) w.h w.dst [w.a, w.b] n false (fun l => ((x l ||| y l).toNat, 0)) ∧
      Elementwise (.xor w) w.h w.dst [w.a, w.b] n false (fun l => ((x l ^^^ y l).toNat, 0))) ∧
  (∀ w : FormA,
      let n := width w.typ
      let u := w.mod.getLsbD 5
      let sat := w.mod.getLsbD 6
      let x := fun l => el n l 0
      let y := fun l => el n l 1
      Elementwise (.shl w) w.h w.dst [w.a, w.b] n u (fun l => fit n u sat (value n u (x l).toNat * 2 ^ ((y l).toNat % n))) ∧
      Elementwise (.shr w) w.h w.dst [w.a, w.b] n true (fun l => ((x l >>> ((y l).toNat % n)).toNat, 0)) ∧
      Elementwise (.sar w) w.h w.dst [w.a, w.b] n false (fun l => (((x l).sshiftRight ((y l).toNat % n)).toNat, 0)) ∧
      Elementwise (.rol w) w.h w.dst [w.a, w.b] n false (fun l => (((x l).rotateLeft ((y l).toNat % n)).toNat, 0)) ∧
      Elementwise (.min w) w.h w.dst [w.a, w.b] n false (fun l => ((if (x l).toInt ≤ (y l).toInt then x l else y l).toNat, 0)) ∧
      Elementwise (.max w) w.h w.dst [w.a, w.b] n false (fun l => ((if (x l).toInt ≤ (y l).toInt then y l else x l).toNat, 0)) ∧
      Elementwise (.minu w) w.h w.dst [w.a, w.b] n true (fun l => (min (x l).toNat (y l).toNat, 0)) ∧
      Elementwise (.maxu w) w.h w.dst [w.a, w.b] n true (fun l => (max (x l).toNat (y l).toNat, 0)) ∧
      Elementwise (.abs w) w.h w.dst [w.a] n false (fun l => fit n false sat |(x l).toInt|) ∧
      Elementwise (.lea w) w.h w.dst [w.a, w.b, w.c] n false (fun l => ((x l + y l <<< (w.mod.toNat / 16) + el n l 2).toNat, 0)))

/-- POPC, CLZ, CTZ and BREV (R164); the bit fields BFX, BFXU and BFI (R165). Every Form I instruction of the integer range is its Form A
instruction on 64 bits, or 32 in lane class, with the immediate as the second source (R159); ADDI and MULI stand in IntegerArithmetic. -/
def Obligations.IntegerFieldsAndImmediates : Prop :=
  (∀ w : FormA,
      let n := width w.typ
      let x := fun l => el n l 0
      let pos := fun l => (el n l 1).toNat % 256
      let len := fun l => min ((el n l 2).toNat % 256) n
      Elementwise (.popc w) w.h w.dst [w.a] n true (fun l => (((List.range n).filter fun k => (x l).getLsbD k).length, 0)) ∧
      Elementwise (.clz w) w.h w.dst [w.a] n true (fun l => (n - Nat.size (x l).toNat, 0)) ∧
      Elementwise (.ctz w) w.h w.dst [w.a] n true (fun l => (((List.range n).takeWhile fun k => !(x l).getLsbD k).length, 0)) ∧
      Elementwise (.brev w) w.h w.dst [w.a] n false (fun l => ((x l).reverse.toNat, 0)) ∧
      Elementwise (.bfxu w) w.h w.dst [w.a, w.b, w.c] n true (fun l => ((x l).toNat / 2 ^ pos l % 2 ^ len l, 0)) ∧
      Elementwise (.bfx w) w.h w.dst [w.a, w.b, w.c] n false (fun l =>
        (((BitVec.ofNat (len l) ((x l).toNat / 2 ^ pos l)).signExtend n).toNat, 0)) ∧
      Elementwise (.bfi w) w.h w.dst [w.a, w.b, w.c, w.dst] n false (fun l =>
        let m : BitVec n := BitVec.ofNat n (2 ^ len l - 1) <<< pos l
        ((el n l 3 &&& ~~~m ||| x l <<< pos l &&& m).toNat, 0))) ∧
  (∀ w : FormI,
      let n := immWidth w
      let x := fun l => el n l 0
      let y := immOf w n
      Elementwise (.andi w) w.h w.dst [w.a] n false (fun l => ((x l &&& y).toNat, 0)) ∧
      Elementwise (.ori w) w.h w.dst [w.a] n false (fun l => ((x l ||| y).toNat, 0)) ∧
      Elementwise (.xori w) w.h w.dst [w.a] n false (fun l => ((x l ^^^ y).toNat, 0)) ∧
      Elementwise (.shli w) w.h w.dst [w.a] n false (fun l => fit n false false ((x l).toInt * 2 ^ (y.toNat % n))) ∧
      Elementwise (.shri w) w.h w.dst [w.a] n true (fun l => ((x l >>> (y.toNat % n)).toNat, 0)) ∧
      Elementwise (.sari w) w.h w.dst [w.a] n false (fun l => (((x l).sshiftRight (y.toNat % n)).toNat, 0)))

/-- MOV and SEL copy elements (R161, R162); MOVI writes its immediate, and MOVHI bytes 7 to 4 alone (R163). CMP and CMPI: a uniform compare writes
64 ones or 64 zeros; a lane compare writes one bit for each enabled lane and keeps the others (R136, R160). -/
def Obligations.MovesAndCompares : Prop :=
  ((∀ w : FormA, Elementwise (.mov w) w.h w.dst [w.a] (width w.typ) false fun l => (l.getD 0 0, 0)) ∧
    (∀ (w : FormA) (s : State) (c c' : Ctx) (g : Word), (Instr.sel w).wf = true → Issues s c w.h [w.a, w.b, w.c] g → Falls s c →
      ∀ m, readVal c w.c = .ok m →
      (w.h.lane = false → g.getLsbD 0 = true → ∀ x y, readVal c w.a = .ok x → readVal c w.b = .ok y →
        writeVal s c w.dst (widen (width w.typ) false (if m.getLsbD 0 then x else y).toNat) = .ok c' → Completes (.sel w) s c w.h s c') ∧
      (w.h.lane = true → ∀ xs ys, readElems c (width w.typ) w.a = .ok xs → readElems c (width w.typ) w.b = .ok ys →
        writeElems s c w.dst (width w.typ) g
          ((List.range (2048 / width w.typ)).map fun e => if m.getLsbD (e * width w.typ / 32) then xs.getD e 0 else ys.getD e 0) = .ok c' →
        Completes (.sel w) s c w.h s c')) ∧
    (∀ (w : FormW) (s : State) (c c' : Ctx) (g : Word), Issues s c w.h [] g → Falls s c →
      (w.h.lane = false → g.getLsbD 0 = true →
        writeVal s c w.dst (if w.mod.getLsbD 0 then w.imm.setWidth 64 else w.imm.signExtend 64) = .ok c' → Completes (.movi w) s c w.h s c') ∧
      (w.h.lane = true → writeElems s c w.dst 32 g (List.replicate 64 w.imm.toNat) = .ok c' → Completes (.movi w) s c w.h s c')) ∧
    (∀ (w : FormW) (s : State) (c c' : Ctx) (a : Nat), Fires s c w.h [] → c.loc w.dst = some a →
      writeRf s c (a + 4) 4 (cellsAt (a + 4) (bytesOf 4 w.imm.toNat)) = .ok c' → Completes (.movhi w) s c w.h s (c'.setLatch a 8))) ∧
  ((∀ (w : FormA) (s : State) (c c' : Ctx) (g : Word), (Instr.cmp w).wf = true → Issues s c w.h [w.a, w.b] g → Falls s c →
      (w.h.lane = false → g.getLsbD 0 = true → ∀ x y, readVal c w.a = .ok x → readVal c w.b = .ok y →
        let n := width w.typ
        writeVal s c w.dst (if compares (w.mod.toNat / 16) n (x.setWidth n) (y.setWidth n) then BitVec.allOnes 64 else 0) = .ok c' →
        Completes (.cmp w) s c w.h s (c'.orFlags 0)) ∧
      (w.h.lane = true → ∀ xs ys, readElems c 32 w.a = .ok xs → readElems c 32 w.b = .ok ys →
        ∀ m : Word, (∀ i, i < 64 → m.getLsbD i = compares (w.mod.toNat / 16) 32 (el 32 xs i) (el 32 ys i)) →
        writeMask s c w.dst g m = .ok c' → Completes (.cmp w) s c w.h s (c'.orFlags 0))) ∧
    (∀ (w : FormI) (s : State) (c c' : Ctx) (g : Word), (Instr.cmpi w).wf = true → Issues s c w.h [w.a] g → Falls s c →
      let k := (w.imm.extractLsb' 24 3).toNat
      (w.h.lane = false → g.getLsbD 0 = true → ∀ x, readVal c w.a = .ok x →
        writeVal s c w.dst (if compares k 64 x ((w.imm.extractLsb' 0 24).signExtend 64) then BitVec.allOnes 64 else 0) = .ok c' →
        Completes (.cmpi w) s c w.h s (c'.orFlags 0)) ∧
      (w.h.lane = true → ∀ xs, readElems c 32 w.a = .ok xs →
        ∀ m : Word, (∀ i, i < 64 → m.getLsbD i = compares k 32 (el 32 xs i) ((w.imm.extractLsb' 0 24).signExtend 32)) →
        writeMask s c w.dst g m = .ok c' → Completes (.cmpi w) s c w.h s (c'.orFlags 0))))

/-! ### Predicates -/

/-- The instructions of two masks or one write the mask that R187 gives, and PSET a count or a pattern (R188); they set no flag. -/
def Obligations.Predicates : Prop :=
  (∀ (w : FormA) (s : State) (c : Ctx) (x y : Word), readVal c w.a = .ok x → readVal c w.b = .ok y →
    GivesValue (.pand w) w.h w.dst [w.a, w.b] s c (x &&& y) 0 ∧ GivesValue (.pandn w) w.h w.dst [w.a, w.b] s c (x &&& ~~~y) 0 ∧
    GivesValue (.por w) w.h w.dst [w.a, w.b] s c (x ||| y) 0 ∧ GivesValue (.pxor w) w.h w.dst [w.a, w.b] s c (x ^^^ y) 0) ∧
  (∀ (w : FormA) (s : State) (c : Ctx) (x : Word), readVal c w.a = .ok x →
    GivesValue (.pnot w) w.h w.dst [w.a] s c (~~~x) 0 ∧ GivesValue (.pmov w) w.h w.dst [w.a] s c x 0 ∧
    GivesValue (.pcnt w) w.h w.dst [w.a] s c (BitVec.ofNat 64 ((List.range 64).filter fun k => x.getLsbD k).length) 0 ∧
    GivesValue (.pany w) w.h w.dst [w.a] s c (if x = 0 then 0 else BitVec.allOnes 64) 0 ∧
    GivesValue (.pall w) w.h w.dst [w.a] s c (if x = BitVec.allOnes 64 then BitVec.allOnes 64 else 0) 0 ∧
    GivesValue (.pfirst w) w.h w.dst [w.a] s c
      (match (List.range 64).find? fun k => x.getLsbD k with
       | some k => BitVec.ofNat 64 (2 ^ k)
       | none => 0) 0 ∧
    GivesValue (.pfroms w) w.h w.dst [w.a] s c x 0 ∧ GivesValue (.ptos w) w.h w.dst [w.a] s c x 0) ∧
  (∀ (w : FormW) (s : State) (c : Ctx),
    (w.mod.getLsbD 0 = false → ∀ m : Word, (∀ k, k < 64 → m.getLsbD k = decide (k < w.imm.toNat)) →
      GivesValue (.pset w) w.h w.dst [] s c m 0) ∧
    (w.mod.getLsbD 0 = true → ∀ m : Word, (∀ k, k < 64 → m.getLsbD k = w.imm.getLsbD (k % 32)) →
      GivesValue (.pset w) w.h w.dst [] s c m 0))

/-! ### Control -/

/-- The transfers of a context that is no gang follower (R142 to R145): BR and CALL go to pc plus eight times the offset, BRI, CALLI and RET to
the address in the source, LOOP to its own while the decremented count is not zero. Each checks the target first; a call writes the next word's
address to s63; a taken transfer empties the latch; one whose guard fails, and a LOOP that ends, go on to the next word. A gang follower goes
where its leader went, and DIV records that its own condition would have decided otherwise (R137, R138). -/
def Obligations.Transfers : Prop :=
  ((∀ (w : FormB) (s : State) (c : Ctx) (g : Word), Issues s c w.h [] g → c.forwarded = none →
      let t := c.pc + w.off.signExtend 64 * 8
      (g.getLsbD 0 = true → s.checkTarget c t = .ok () → Jumps (.br w) s c w.h c.clearLatch t ∧
        ∀ c', writeRf s c (c.sloc 63) 8 (cellsAt (c.sloc 63) (bytesOf 8 (c.pc + 8).toNat)) = .ok c' → Jumps (.call w) s c w.h c'.clearLatch t) ∧
      (g.getLsbD 0 = false → Falls s c → Completes (.br w) s c w.h s c.clearLatch ∧ Completes (.call w) s c w.h s c.clearLatch)) ∧
    (∀ (w : FormA) (s : State) (c : Ctx) (g : Word), Issues s c w.h [w.a] g → c.forwarded = none →
      (g.getLsbD 0 = true → ∀ t, readVal c w.a = .ok t → s.checkTarget c t = .ok () →
        Jumps (.bri w) s c w.h c.clearLatch t ∧ Jumps (.ret w) s c w.h c.clearLatch t ∧
        ∀ c', writeRf s c (c.sloc 63) 8 (cellsAt (c.sloc 63) (bytesOf 8 (c.pc + 8).toNat)) = .ok c' → Jumps (.calli w) s c w.h c'.clearLatch t) ∧
      (g.getLsbD 0 = false → Falls s c → Completes (.bri w) s c w.h s c.clearLatch ∧ Completes (.ret w) s c w.h s c.clearLatch ∧
        Completes (.calli w) s c w.h s c.clearLatch)) ∧
    (∀ (w : FormI) (s : State) (c c' : Ctx) (g x : Word), Issues s c w.h [w.a] g → c.forwarded = none → g.getLsbD 0 = true →
      readVal c w.a = .ok x → writeVal s c w.dst (x - 1) = .ok c' →
      let t := c.pc + w.imm.signExtend 64 * 8
      (x ≠ 1 → s.checkTarget c t = .ok () → Jumps (.loop w) s c w.h c'.clearLatch t) ∧
      (x = 1 → Falls s c → Completes (.loop w) s c w.h s c'))) ∧
  ((∀ (w : FormB) (s : State) (c : Ctx) (g : Word) (f : FwdWord), Issues s c w.h [] g → c.forwarded = some f →
      let own := if g.getLsbD 0 then some (c.pc + w.off.signExtend 64 * 8) else none
      let d := c.clearLatch.orFlags (if own = f.target then 0 else flagDIV)
      (∀ t, f.target = some t → Jumps (.br w) s c w.h d t) ∧ (f.target = none → Falls s c → Completes (.br w) s c w.h s d)) ∧
    (∀ (w : FormI) (s : State) (c c' : Ctx) (g x : Word) (f : FwdWord), Issues s c w.h [w.a] g → c.forwarded = some f → g.getLsbD 0 = true →
      readVal c w.a = .ok x → writeVal s c w.dst (x - 1) = .ok c' →
      let own := if x = 1 then none else some (c.pc + w.imm.signExtend 64 * 8)
      let fl := if own = f.target then 0 else flagDIV
      (∀ t, f.target = some t → Jumps (.loop w) s c w.h (c'.clearLatch.orFlags fl) t) ∧
      (f.target = none → Falls s c → Completes (.loop w) s c w.h s (c'.orFlags fl))))

/-- A block header goes on into its block, whose end its length gives; where its guard's predicate is 0 in every lane it skips to the header that
its reconvergence offset names (R73, R75). NOP only empties the latch; PARK and YIELD wait until every outstanding result has returned and end the
region, and YIELD first gives way for eight cycles to another ready context of its tile (R146). WFE answers 1 when an event is queued (R147), and
0 at its limit, which WFE_LIMIT_EXPIRY brings. -/
def Obligations.BlocksAndIssueControl : Prop :=
  (∀ (h : HeaderWord) (s : State) (c : Ctx), s.ctx? s.sel.ctx = some c → c.follower = false → c.atHeader = true → h.wf = true →
      (h.guard = 0 ∨ s.predicatePending c (c.ploc h.guard) = false) →
      let len := if h.length = 0 then 256 else h.length.toNat
      let skips := h.guard ≠ 0 ∧ c.rf.num (c.ploc h.guard) 8 = 0
      let t := c.pc + h.reconv.signExtend 64 * 8
      (¬skips → exec (.blockHeader h) s = .next ((s.forgetWalks c.key).setCtx
        { c with pc := c.pc + 8, atHeader := false, blockEnd := c.pc + 8 + BitVec.ofNat 64 (8 * len) })) ∧
      (skips → s.checkTarget c t = .ok () → exec (.blockHeader h) s = .next ((s.forgetWalks c.key).setCtx
        { c.clearLatch with pc := t, atHeader := true, blockEnd := 0 }))) ∧
  ((∀ (w : FormA) (s : State) (c : Ctx), Fires s c w.h [] → Completes (.nop w) s c w.h s c.clearLatch) ∧
    (∀ (w : FormA) (s : State) (c : Ctx), Fires s c w.h [] → parkGate s c = .ok () →
      CompletesPark (.park w) s c w.h s c.clearLatch ∧
      (c.wait = .yield 0 ∨ s.othersReady c = false → CompletesPark (.yield w) s c w.h s c.clearLatch) ∧
      (s.othersReady c = true → (∀ d, c.wait ≠ .yield d) →
        exec (.yield w) s = .next (s.updCtx c fun d => match d.wait with
          | .yield _ => d
          | _ => { d with wait := .yield (s.cycle + 8) }))) ∧
    (∀ (w : FormA) (s : State) (c c' : Ctx) (x : Word), Fires s c w.h [w.a] → readVal c w.a = .ok x → parkGate s c = .ok () → c.follower = false →
      (c.evq ≠ [] → writeVal s c w.dst 1 = .ok c' → CompletesPark (.wfe w) s c w.h s c') ∧
      (c.evq = [] → c.wait = .wfe w (some 0) → writeVal s c w.dst 0 = .ok c' → CompletesPark (.wfe w) s c w.h s c')))

/-! ### System -/

/-- CSRR gives the register's value, CSRW writes it, CSRS and CSRC set and clear its bits; the privileged ones need supervisor mode (R87, R208,
R210). What the fields of a context's control registers keep: FLAGS and FLAGEN their nine bits, VIEWB only bases that R140 accepts, ULESTAT its
enable and a lost bit that a 1 clears, FLTDLG no bit 11 (R140, R198, R202). -/
def Obligations.ControlRegisters : Prop :=
  ((∀ (w : FormI) (s : State) (c : Ctx), (w.imm.toNat % 4096 ≠ 0 ∨ s.mxOf c = []) →
      GivesValue (.csrr w) w.h w.dst [] s c (BitVec.ofNat 64 (s.csr c (w.imm.toNat % 4096))) 0) ∧
    (∀ (w : FormI) (s t : State) (c d : Ctx) (x : Word),
      let n := w.imm.toNat % 4096
      Fires s c w.h [w.a] → readVal c w.a = .ok x → (csrPrivileged n = true → c.supervisor = true) →
      (setCsr s c n x.toNat x.toNat true = .ok (t, d) → Completes (.csrw w) s c w.h t d.clearLatch) ∧
      (n ≠ 0 ∨ s.mxOf c = [] →
        (setCsr s c n (s.csr c n ||| x.toNat) 0 (bitsOf x.toNat 47 32 != 0) = .ok (t, d) → Completes (.csrs w) s c w.h t d.clearLatch) ∧
        (setCsr s c n (s.csr c n &&& (2 ^ 64 - 1 - x.toNat)) x.toNat (bitsOf x.toNat 47 32 != 0) = .ok (t, d) →
          Completes (.csrc w) s c w.h t d.clearLatch)))) ∧
  (∀ (c d : Ctx) (v w : Nat),
      (c.setCsr 0x000 v w = .ok d → d = { c with flags := BitVec.ofNat 64 v &&& 0x1FF }) ∧
      (c.setCsr 0x001 v w = .ok d → d = { c with flagen := BitVec.ofNat 64 v &&& 0x1FF }) ∧
      (c.setCsr 0x002 v w = .ok d → viewOk (BitVec.ofNat 64 v) = true ∧ d = { c with viewb := BitVec.ofNat 64 v }) ∧
      (viewOk (BitVec.ofNat 64 v) = false → c.setCsr 0x002 v w = fault fcILLEGAL) ∧
      (c.setCsr 0x005 v w = .ok d → d = { c with uleEn := v.testBit 0, uleLost := c.uleLost && !w.testBit 2 }) ∧
      (c.setCsr 0x006 v w = .ok d → ∃ x, d = { c with uleen := x } ∧ ∀ k, x.getLsbD k = (v.testBit k && (k == 1 || k == 2 || k == 3 || k == 5))) ∧
      (c.setCsr 0x007 v w = .ok d → ∃ x, d = { c with fltdlg := x } ∧
        ∀ k, x.getLsbD k = (v.testBit k && decide (1 ≤ k ∧ k ≤ 20 ∧ k ≠ 11))) ∧
      (c.setCsr 0x019 v w = .ok d → d = { c with odcnt := v % 2 ^ 32 }))

/-- FLAGRD reads the flags and FLAGCLR clears those named, once the context's matrix commands are done; TFENCE takes ARITH with the flags that are
set and enabled (R199, R210). VIEW takes the named fields of its operand as view bases, or faults on bases that are not allowed; SETSLK writes
SLK; CYCLE and PODTIME read the clocks (R104, R125, R210, R213). -/
def Obligations.FlagsViewsSlackAndClocks : Prop :=
  (∀ (w : FormA) (s : State) (c : Ctx), s.mxOf c = [] →
      GivesValue (.flagrd w) w.h w.dst [] s c c.flags 0 ∧
      (∀ x, Fires s c w.h [w.a] → readVal c w.a = .ok x →
        Completes (.flagclr w) s c w.h s { c with flags := c.flags &&& ~~~x, latch := .empty, latchTok := none }) ∧
      (Fires s c w.h [] → c.flags &&& c.flagen = 0 → Completes (.tfence w) s c w.h s c.clearLatch) ∧
      (Fires s c w.h [] → c.flags &&& c.flagen ≠ 0 → Faults (.tfence w) s c { code := fcARITH, detail := (c.flags &&& c.flagen).toNat })) ∧
  ((∀ (w : FormI) (s : State) (c : Ctx) (x v : Word), Fires s c w.h [w.a] → readVal c w.a = .ok x →
      (∀ k, k < 64 → v.getLsbD k = if w.imm.getLsbD (k / 16) then x.getLsbD k else c.viewb.getLsbD k) →
      (viewOk v = true → parkGate s c = .ok () → CompletesPark (.view w) s c w.h s { c with viewb := v, latch := .empty, latchTok := none }) ∧
      (viewOk v = false → Faults (.view w) s c { code := fcILLEGAL })) ∧
    (∀ (w : FormA) (s : State) (c : Ctx) (x : Word), Fires s c w.h [w.a] → readVal c w.a = .ok x →
      Completes (.setslk w) s c w.h s { c with slk := x.toNat % 2 ^ 16, latch := .empty, latchTok := none }) ∧
    (∀ (w : FormA) (s : State) (c : Ctx), GivesValue (.cycle w) w.h w.dst [] s c (BitVec.ofNat 64 s.cycle) 0 ∧
      GivesValue (.podtime w) w.h w.dst [] s c (BitVec.ofNat 64 s.podtime) 0))

/-- TRAP takes the precise fault TRAP with its code and argument, to be resumed after it; with a code of 0x8000 or more, in user mode and with
SVEC set, it enters supervisor mode instead. ERET and ERETU return to the place saved, with its latch, which takes a result that has returned
meanwhile (R206, R211, R212). A privileged instruction in user mode takes PRIV, whatever its operands (R87, R88); a write of a privileged register
is one where there is such a register. -/
def Obligations.TrapsPrivilegeAndReturns : Prop :=
  ((∀ (w : FormI) (s : State) (c : Ctx) (x : Word), Fires s c w.h [w.a] → readVal c w.a = .ok x →
      let code := w.imm.toNat % 2 ^ 16
      (code < 0x8000 ∨ c.supervisor = true ∨ c.svec = 0 →
        Faults (.trap w) s c { code := fcTRAP, detail := code, addr := x, nextPc := true }) ∧
      (0x8000 ≤ code → c.supervisor = false → c.svec ≠ 0 → parkGate s c = .ok () →
        exec (.trap w) s = .next (({
          s := s, ends := true, jump := some c.svec,
          c := { c with svSaved := some (c.saveAt (c.pc + 8) true), svpc := c.pc + 8, supervisor := true, latch := .empty, latchTok := none,
                        rf := c.rf.write 0x8840 (bytesOf 8 code ++ bytesOf 8 x.toNat) } } : Done).finish c w.h))) ∧
    (∀ (w : FormA) (s : State) (c : Ctx) (sv : Saved), Fires s c w.h [] → parkGate s c = .ok () → c.follower = false → sv.next = none →
      (c.supervisor = true → c.svSaved = some sv → c.svpc = sv.pc →
        exec (.eret w) s = .next ((s.forgetWalks c.key).setCtx
          { c with supervisor := false, svSaved := none, latch := sv.latch, latchTok := sv.latchTok, pc := sv.pc, blockEnd := sv.blockEnd,
                     atHeader := sv.atHeader, wait := .none }.refreshLatch.endRegion)) ∧
      (c.uleActive = true → c.uleSaved = some sv → c.rf.num (0x8800 + 16) 8 = sv.pc.toNat →
        exec (.eretu w) s = .next ((s.forgetWalks c.key).setCtx
          { c with uleActive := false, uleKind := 0, uleSaved := none, latch := sv.latch, latchTok := sv.latchTok, pc := sv.pc,
                     blockEnd := sv.blockEnd, atHeader := sv.atHeader, wait := .none }.refreshLatch.endRegion)) ∧
      (c.uleActive = false → Faults (.eretu w) s c { code := fcILLEGAL }))) ∧
  (∀ (s : State) (c : Ctx), s.ctx? s.sel.ctx = some c → c.supervisor = false →
      (∀ w : FormA, Faults (.eret w) s c { code := fcPRIV }) ∧
      (∀ w : FormI, csrExists (w.imm.toNat % 4096) = true → csrPrivileged (w.imm.toNat % 4096) = true →
        Faults (.csrw w) s c { code := fcPRIV } ∧ Faults (.csrs w) s c { code := fcPRIV } ∧ Faults (.csrc w) s c { code := fcPRIV }) ∧
      (∀ w : FormX, ∀ i ∈ [Instr.dombind w, .dombindFree w, .preempt w, .preemptKill w, .resume w, .resumeCtx w, .resumeRemove w, .reloc w, .tlbinv w,
        .tlbinvAll w, .migr w], Faults i s c { code := fcPRIV }))

/-! ### Steps -/

/-- STEPRD writes the snapshot value of the context's domain at the level, and all ones for a level with no domain; ABORTRD writes the selected
word of the abort report. Neither sets a flag; a zero result field names no result (R263, R265, R266). DOMBIND binds a free domain with a counter
of 0 and answers 0; it answers 1 for a domain in use and 2 for a bad binding word. DOMBIND.FREE unbinds a domain whose current step has no arrival
(R267). A zero result field names no result (R263). -/
def Obligations.StepStateAndDomains : Prop :=
  (∀ (w : FormX) (s : State) (c c' : Ctx), Fires s c w.h [] →
      (writeOpt s c w.a (if c.bound (w.sub.toNat % 8) then BitVec.ofNat 64 (c.snapshot.getD (w.sub.toNat % 8 - 1) 0) else 0xFFFFFFFFFFFFFFFF) = .ok c' →
        Completes (.steprd w) s c w.h s c') ∧
      (writeOpt s c w.a (c.report.getD (w.sub.toNat % 4) 0) = .ok c' → Completes (.abortrd w) s c w.h s c') ∧
      (noResult w.a = true → Completes (.steprd w) s c w.h s c.clearLatch ∧ Completes (.abortrd w) s c w.h s c.clearLatch)) ∧
  (∀ (w : FormX) (s : State) (c c' : Ctx) (b : Word), c.supervisor = true → readVal c w.b = .ok b →
      (∀ t, Fires s c w.h [w.b, w.c] → readVal c w.c = .ok t →
        (bindingBad s b.toNat false = true → writeOpt s c w.a 2 = .ok c' → Completes (.dombind w) s c w.h s c') ∧
        (bindingBad s b.toNat false = false → (bindingDomain s b.toNat).isSome = true → writeOpt s c w.a 1 = .ok c' →
          Completes (.dombind w) s c w.h s c') ∧
        (bindingBad s b.toNat false = false → bindingDomain s b.toNat = none → b.toNat % 8 ≠ 5 → writeOpt s c w.a 0 = .ok c' →
          ∃ d : Domain, d.level = b.toNat % 8 ∧ d.unit = bitsOf b.toNat 21 12 ∧ d.id = bitsOf b.toNat 11 8 ∧ d.members = bitsOf b.toNat 53 32 ∧
            d.tid = t.setWidth 32 ∧ d.counter = 0 ∧ d.arrived = [] ∧ d.absent = [] ∧
            Completes (.dombind w) s c w.h { s with domains := s.domains ++ [d] } c')) ∧
      (Fires s c w.h [w.b] → bindingBad s b.toNat true = false →
        (bindingDomain s b.toNat = none → writeOpt s c w.a 1 = .ok c' → Completes (.dombindFree w) s c w.h s c') ∧
        (∀ d, bindingDomain s b.toNat = some d →
          (s.hasArrival d = true → writeOpt s c w.a 3 = .ok c' → Completes (.dombindFree w) s c w.h s c') ∧
          (s.hasArrival d = false → writeOpt s c w.a 0 = .ok c' → ∃ t, t.domains = s.domains.filter (fun e => !d.is e) ∧ t.mem = s.mem ∧
            t.ctxs = s.ctxs ∧ Completes (.dombindFree w) s c w.h t c'))))

/-- SYNC and ARRIVE send an arrival once earlier writes are placed, and WAITS or the same SYNC take the completion once its result has come: the
result, the step's flags, the counter snapshot and the abort report (R252, R262, R264). What SYNC, ARRIVE and WAITS may not do is ILLEGAL: a
second arrival, a level above the task's top level, a WAITS with nothing outstanding (R264). EXIT takes the context out of its task once all its
work is placed: its record is gone, and it is absent in each of its domains, strictly so with .STRICT; a context of no task is in none (R148,
R247, R259). -/
def Obligations.ArrivingWaitingAndLeaving : Prop :=
  ((∀ (w : FormX) (s : State) (c : Ctx) (x : Arrived), Fires s c w.h [w.b, w.c] → c.arrival = none → c.bound (w.sub.toNat % 8) = true →
      arrivalOf c w = .ok x → arriveGate s c (w.sub.toNat % 8) = .ok () →
      let a := fun (y : Bool) => some ({ level := w.sub.toNat % 8, sent := some x, sync := y, done := none } : Arrival)
      let send := fun (t : State) => t.sendBarrier (.arrival c.task c.rank) (w.sub.toNat % 8) c.key.tile (barrierRoot (w.sub.toNat % 8) c.key.tile)
      Completes (.arrive w) s c w.h (send s) { c with arrival := a false, frozen := some s.now, latch := .empty, latchTok := none } ∧
      ((∃ c', writeOpt s c w.a 0 = .ok c') →
        exec (.sync w) s = .next (send (s.updCtx c fun d => { d with wait := .park, arrival := a true })))) ∧
    (∀ (w : FormX) (s : State) (c : Ctx) (a : Arrival) (r : StepResult), c.arrival = some a → a.done = some r →
      s.packetsDone (.result c.task c.rank) = true →
      let t := s.dropPackets (.result c.task c.rank)
      let c1 := { c with snapshot := r.counters, report := r.report, arrival := none, frozen := none }.orFlags r.flags
      (a.sync = true → Fires s c w.h [w.b, w.c] →
        (noResult w.a = true → CompletesPark (.sync w) s c w.h t c1.clearLatch) ∧
        (noResult w.a = false → ∀ d, writeVal t c1 w.a r.value = .ok d → CompletesPark (.sync w) s c w.h t d)) ∧
      (Fires s c w.h [] → parkGate s c = .ok () →
        (noResult w.a = true → CompletesPark (.waits w) s c w.h t c1.clearLatch) ∧
        (noResult w.a = false → (∃ d, writeVal s c w.a 0 = .ok d) → ∀ d, writeVal t c1 w.a r.value = .ok d → CompletesPark (.waits w) s c w.h t d)))) ∧
  ((∀ (w : FormX) (s : State) (c : Ctx) (a : Arrival), Fires s c w.h [w.b, w.c] → c.arrival = some a → a.sync = false →
      Faults (.sync w) s c { code := fcILLEGAL } ∧ Faults (.arrive w) s c { code := fcILLEGAL }) ∧
    (∀ (w : FormX) (s : State) (c : Ctx), Fires s c w.h [w.b, w.c] → c.arrival = none → c.bound (w.sub.toNat % 8) = false →
      Faults (.sync w) s c { code := fcILLEGAL } ∧ Faults (.arrive w) s c { code := fcILLEGAL }) ∧
    (∀ (w : FormX) (s : State) (c : Ctx), Fires s c w.h [] → c.arrival = none → Faults (.waits w) s c { code := fcILLEGAL })) ∧
  (∀ (w : FormA) (s : State) (c : Ctx), Fires s c w.h [] → parkGate s c = .ok () → workGate s c .all = .ok () → s.workPlaced c = true →
      (∀ a, c.arrival = some a → a.sent = none) →
      ∃ t, exec (.exit w) s = .next t ∧ t.ctxs = s.ctxs.filter (fun d => !d.same c) ∧ t.mem = s.mem ∧ t.staged = s.staged ∧
        t.domains = s.domains.map fun d =>
          if d.task = c.task ∧ c.task ≠ 0 ∧ (d.level = 5 ∨ d.unit = unitOf d.level c.key.tile) then
            { d with absent := d.absent ++ [(c.rank, if w.mod.getLsbD 0 then .strictExit else .exit)] }
          else d)

/-! ### Private memory -/

/-- A scalar load of an aligned address gives the bytes that the context reads there, extended to 64 bits: local memory as the step rule shows it,
register bytes through the window, the matrix status range, and for LDW a channel's status word (R24, R189, R190). A scalar store of an aligned
address stages its bytes in local memory, or keeps them until the region's end in the window; STW in the aperture starts a copy. Where no staging
entry is free it takes STAGING_FULL (R45, R135, R190, R217). -/
def Obligations.PrivateScalarAccesses : Prop :=
  (∀ (w : FormM) (s : State) (c c' : Ctx) (b : Word), Fires s c w.h [w.base] → readVal c w.base = .ok b →
      let a := b + w.off.signExtend 64
      let ext := fun (n : Nat) (bs : List Byte) =>
        if w.mod.getLsbD 0 then BitVec.ofNat 64 (numOf bs) else (BitVec.ofNat (8 * n) (numOf bs)).signExtend 64
      ∀ p ∈ [(Instr.ldb w, 1), (.ldh w, 2), (.ldw w, 4), (.ldd w, 8)], a.toNat % p.2 = 0 →
        (a.toNat < 0x100000 → s.heldBack c { virt := false, lo := localKey c.key.tile a.toNat, len := p.2 } false = false →
          writeVal s c w.data (ext p.2 (s.readLoc c false (localKey c.key.tile a.toNat) p.2)) = .ok c' → Completes p.1 s c w.h s c') ∧
        (0x100000 ≤ a.toNat → a.toNat < 0x108000 → windowPending c a p.2 = false →
          writeVal s c w.data (ext p.2 (windowRead c (a.toNat - 0x100000) p.2)) = .ok c' → Completes p.1 s c w.h s c') ∧
        (0x210000 ≤ a.toNat → a.toNat < 0x211000 →
          writeVal s c w.data (ext p.2 (s.mxBytes c (a.toNat - 0x210000) p.2)) = .ok c' → Completes p.1 s c w.h s c') ∧
        (0x200000 ≤ a.toNat → a.toNat < 0x210000 → p.2 = 4 →
          writeVal s c w.data (ext 4 (bytesOf 4 (s.channelFor c ((a.toNat - 0x200000) / 4096)).word)) = .ok c' → Completes p.1 s c w.h s c')) ∧
  (∀ (w : FormM) (s t : State) (c d : Ctx) (b x : Word), Fires s c w.h [w.data, w.base] → readVal c w.data = .ok x → readVal c w.base = .ok b →
      let a := b + w.off.signExtend 64
      ∀ p ∈ [(Instr.stb w, 1), (.sth w, 2), (.stw w, 4), (.std w, 8)], a.toNat % p.2 = 0 →
        (a.toNat < 0x100000 → s.heldBack c { virt := false, lo := localKey c.key.tile a.toNat, len := p.2 } true = false →
          (s.placePlain (s.writer c false) (localKey c.key.tile a.toNat) a (bytesOf p.2 x.toNat) = some t → Completes p.1 s c w.h t c.clearLatch) ∧
          (s.placePlain (s.writer c false) (localKey c.key.tile a.toNat) a (bytesOf p.2 x.toNat) = none →
            Faults p.1 s c { code := fcSTAGINGFULL, addr := a })) ∧
        (0x100000 ≤ a.toNat → a.toNat < 0x108000 → windowPending c a p.2 = false →
          meetsAny (s.readPending c) (a.toNat - 0x100000) p.2 = false →
          Completes p.1 s c w.h s { c with winStores := c.winStores ++ [(a.toNat - 0x100000, bytesOf p.2 x.toNat)], latch := .empty, latchTok := none }) ∧
        (0x200000 ≤ a.toNat → a.toNat < 0x210000 → p.2 = 4 → apertureStore s c a x.toNat = .ok (t, d) → Completes p.1 s c w.h t d.clearLatch))

/-- The checks of a scalar private access, in their order: HAZARD of the destination or of a pending window byte, UNMAPPED for a hole, ALIGN, PROTECT for the
aperture but for words and for a store to the status range (R24, R134, R135, R189). -/
def Obligations.PrivateAccessFaults : Prop :=
  ∀ (w : FormM) (s : State) (c : Ctx) (b : Word),
    let a := b + w.off.signExtend 64
    let hole := (0x108000 ≤ a.toNat ∧ a.toNat < 0x200000) ∨ 0x211000 ≤ a.toNat
    let aperture := 0x200000 ≤ a.toNat ∧ a.toNat < 0x210000
    let ls := [(Instr.ldb w, 1), (.ldh w, 2), (.ldw w, 4), (.ldd w, 8)]
    let ss := [(Instr.stb w, 1), (.sth w, 2), (.stw w, 4), (.std w, 8)]
    (Fires s c w.h [w.base] → readVal c w.base = .ok b → ∀ p ∈ ls,
      (∀ d, c.loc w.data = some d → w.data ≠ .p 0 → meetsAny c.winRanges d 8 = true → Faults p.1 s c { code := fcHAZARD }) ∧
      (∀ d, c.loc w.data = some d → Free s c d 8 →
        (windowPending c a p.2 = true → Faults p.1 s c { code := fcHAZARD }) ∧
        (hole → Faults p.1 s c { code := fcUNMAPPED, addr := a }) ∧
        (¬hole → a.toNat % p.2 ≠ 0 → windowPending c a p.2 = false → Faults p.1 s c { code := fcALIGN, addr := a }) ∧
        (aperture → a.toNat % p.2 = 0 → p.2 ≠ 4 → Faults p.1 s c { code := fcPROTECT, addr := a }))) ∧
    (Fires s c w.h [w.data, w.base] → readVal c w.base = .ok b → (∃ x, readVal c w.data = .ok x) → ∀ p ∈ ss,
      (windowPending c a p.2 = true → Faults p.1 s c { code := fcHAZARD }) ∧
      (hole → Faults p.1 s c { code := fcUNMAPPED, addr := a }) ∧
      (¬hole → a.toNat % p.2 ≠ 0 → windowPending c a p.2 = false → meetsAny (s.readPending c) (a.toNat - 0x100000) p.2 = false →
        Faults p.1 s c { code := fcALIGN, addr := a }) ∧
      (aperture → a.toNat % p.2 = 0 → p.2 ≠ 4 → Faults p.1 s c { code := fcPROTECT, addr := a }) ∧
      (0x210000 ≤ a.toNat → a.toNat < 0x211000 → a.toNat % p.2 = 0 → Faults p.1 s c { code := fcPROTECT, addr := a }))

/-- LDV reads four bytes for each enabled lane i, from the address plus 4 i: in local memory those that the context reads there, and so in every
region that the checks let it read (R189, R191). The strided and indexed loads read an element for each enabled position, from base plus offset
times position (R192) or from the lane's index plus offset (R193), after the checks of all of them. -/
def Obligations.VectorLoads : Prop :=
  (∀ (w : FormM) (s : State) (c c' : Ctx) (g b : Word) (xs : List Nat), Issues s c w.h [w.base] g → Falls s c → readVal c w.base = .ok b →
      let a := b + w.off.signExtend 64
      let k := fun (i : Nat) => localKey c.key.tile (a.toNat + 4 * i)
      (a.toNat % 4 = 0 →
        (∀ i, i < 64 → g.getLsbD i = true → a.toNat + 4 * i < 0x100000 ∧ s.heldBack c { virt := false, lo := k i, len := 4 } false = false) →
        xs = (List.range 64).map (fun i => if g.getLsbD i then numOf (s.readLoc c false (k i) 4) else 0) →
        writeElems s c w.data 32 g xs = .ok c' → Completes (.ldv w) s c w.h s c') ∧
      (checkSpan s c a g false = .ok () → ∀ read : Nat → List Byte,
        (∀ i, i < 64 → g.getLsbD i = true → loadElem s c (a + BitVec.ofNat 64 (4 * i)) 4 = .ok (read i)) →
        writeElems s c w.data 32 g ((List.range 64).map fun i => if g.getLsbD i then numOf (read i) else 0) = .ok c' → Completes (.ldv w) s c w.h s c')) ∧
  ((∀ (w : FormM) (s : State) (c c' : Ctx) (g b : Word), Issues s c w.h [w.base] g → Falls s c → readVal c w.base = .ok b →
      let n := elemBytes (w.mod.toNat % 4)
      let addr := fun (p : Nat) => b + w.off.signExtend 64 * BitVec.ofNat 64 p
      let es := ((List.range (256 / n)).filter fun p => g.getLsbD (p / (4 / n))).map fun p => ({ pos := p, addr := addr p, len := n, each := n } : Elem)
      windowHazard s c es false = .ok () → checkElems es false = .ok () →
      ∀ read : Nat → List Byte, (∀ e ∈ es, loadElem s c e.addr n = .ok (read e.pos)) →
      writeElems s c w.data (8 * n) g ((List.range (256 / n)).map fun p => if g.getLsbD (p / (4 / n)) then numOf (read p) else 0) = .ok c' →
      Completes (.ldvs w) s c w.h s c') ∧
    (∀ (w : FormM) (s : State) (c c' : Ctx) (g : Word) (idx : List Nat), Issues s c w.h [w.base] g → Falls s c → readIndices c w.base = .ok idx →
      let n := elemBytes (w.mod.toNat % 4)
      let es := ((List.range 64).filter fun i => g.getLsbD i).map fun i =>
        ({ pos := i, addr := BitVec.ofNat 64 (idx.getD i 0) + w.off.signExtend 64, len := n } : Elem)
      windowHazard s c es false = .ok () → checkElems es false = .ok () →
      ∀ read : Nat → List Byte, (∀ e ∈ es, loadElem s c e.addr n = .ok (read e.pos)) →
      let x := fun (i : Nat) => BitVec.ofNat (8 * n) (numOf (read i))
      writeElems s c w.data 32 g ((List.range 64).map fun i =>
        if g.getLsbD i then (if w.mod.getLsbD 2 then numOf (read i) else ((x i).signExtend 32).toNat) else 0) = .ok c' →
      Completes (.ldvx w) s c w.h s c'))

/-- STV, STVS and STVX store the enabled lanes or elements of their source in ascending order, at the address plus 4 times the lane, at base plus offset times
position, or at the lane's index plus offset, wherever the places of all of them take them; of STV, which has one span, all in one region (R191, R192, R193,
R194). -/
def Obligations.VectorStores : Prop :=
  ∀ (w : FormM) (s : State) (c : Ctx) (g : Word), Issues s c w.h [w.data, w.base] g → Falls s c →
    (∀ b xs, readVal c w.base = .ok b → readElems c 32 w.data = .ok xs →
      let addr := fun (i : Nat) => b + w.off.signExtend 64 + BitVec.ofNat 64 (4 * i)
      let lanes := (List.range 64).filter fun i => g.getLsbD i
      (∀ i ∈ lanes, (addr i).toNat < 0x100000) ∨ (∀ i ∈ lanes, 0x100000 ≤ (addr i).toNat) →
      Stores (.stv w) s c w.h (lanes.map fun i => (addr i, bytesOf 4 (xs.getD i 0)))) ∧
    (∀ b xs, readVal c w.base = .ok b →
      let n := elemBytes (w.mod.toNat % 4)
      readElems c (8 * n) w.data = .ok xs →
      Stores (.stvs w) s c w.h (((List.range (256 / n)).filter fun p => g.getLsbD (p / (4 / n))).map fun p =>
        (b + w.off.signExtend 64 * BitVec.ofNat 64 p, bytesOf n (xs.getD p 0)))) ∧
    (∀ idx xs, readIndices c w.base = .ok idx → readElems c 32 w.data = .ok xs →
      Stores (.stvx w) s c w.h (((List.range 64).filter fun i => g.getLsbD i).map fun i =>
        (BitVec.ofNat 64 (idx.getD i 0) + w.off.signExtend 64, bytesOf (elemBytes (w.mod.toNat % 4)) (xs.getD i 0))))

/-- Bytes that a context stores read back by it at once, and every byte outside them reads as before (R29). The state is one in which no split barrier
keeps an image, and what is staged at the stored bytes are plain writes of no later step; the stored address is the one given. -/
def Obligations.StoredBytesReadBack : Prop :=
  ∀ (s t : State) (c : Ctx) (k : Nat) (a : Word) (bs : List Byte), s.mem.wf = true → c.frozen = none →
    (∀ x, k ≤ x → x < k + bs.length → isPlate x = false ∧ Newest s c x) →
    s.placePlain (s.writer c false) k a bs = some t →
    (∀ x, k ≤ x → x < k + bs.length → t.readLoc c false x 1 = [bs.getD (x - k) 0]) ∧
    (∀ x, x < k ∨ k + bs.length ≤ x → t.readLoc c false x 1 = s.readLoc c false x 1) ∧
    t.ctxs = s.ctxs ∧ t.mem.wf = true

/-! ### The exchange -/

/-- XLDD and XLDV send one request and go on: the destination is pending, the latch waits for it, and the request holds the bytes that were read, or names
those that a peer has still to send (R242, R244, R245). The bytes reach the register with RESULT_RETURN. -/
def Obligations.ExchangeLoads : Prop :=
  (∀ (w : FormM) (s : State) (c : Ctx) (b : Word) (p : Piece) (d : Nat), Fires s c w.h [w.base] → readVal c w.base = .ok b →
    let n := 8 / 2 ^ (w.mod.toNat % 4)
    let a := b + w.off.signExtend 64
    Reach s c a n n false (c.slackOf w.slack.toNat) [p] → s.heldBack c (spanAt c.key.tile (s.fromHome c a) n) false = false →
    c.loc w.data = some d → Free s c d 8 → c.repliesFull = false →
    ∃ t tok c1, writeRf s c d 8 [] = .ok c1 ∧ Completes (.xldd w) s c w.h t ({ c1 with outstanding := c1.outstanding ++ [tok] }.setLatch d 8) ∧
      t.mem = s.mem ∧ t.staged = s.staged ∧ t.ctxs = s.ctxs ∧ tok.bad = 0 ∧ tok.held = none ∧ tok.dead = [] ∧
      (p.peer = none →
        let x := numOf (s.readLoc c (loopsBack c p) p.key n)
        let v := if w.mod.getLsbD 2 then BitVec.ofNat 64 x else (BitVec.ofNat (8 * n) x).signExtend 64
        tok.cells = ((List.range 8).map (d + ·)).zip (bytesOf 8 v.toNat) ∧ tok.keys = []) ∧
      (s.pieceData c p = none → tok.cells = [] ∧ tok.keys = (List.range n).map (p.key + ·) ∧ tok.locs = (List.range 8).map (d + ·) ∧
        tok.ext = some (n, w.mod.getLsbD 2))) ∧
  (∀ (w : FormM) (s : State) (c : Ctx) (g b : Word) (d : Nat), Issues s c w.h [w.base] g → Falls s c → readVal c w.base = .ok b →
    c.loc w.data = some d → Free s c d 256 →
    let a := b + w.off.signExtend 64
    (g = 0 → ∃ c1, writeRf s c d 256 [] = .ok c1 ∧ Completes (.xldv w) s c w.h s (c1.setLatch d 256)) ∧
    (∀ l u ps, LaneSpan g l u → let f := a + BitVec.ofNat 64 (4 * l); let n := 4 * (u + 1 - l)
      Reach s c f n 4 false (c.slackOf w.slack.toNat) ps → (keysOf ps).Nodup →
      s.heldBack c (spanAt c.key.tile (s.fromHome c f) n) false = false → c.repliesFull = false →
      ∃ t tok c1, writeRf s c d 256 [] = .ok c1 ∧ Completes (.xldv w) s c w.h t ({ c1 with outstanding := c1.outstanding ++ [tok] }.setLatch d 256) ∧
        t.mem = s.mem ∧ t.staged = s.staged ∧ t.ctxs = s.ctxs ∧ tok.bad = 0 ∧ tok.held = none ∧ tok.dead = [] ∧
        ((∀ p ∈ ps, p.peer = none) → tok.keys = [] ∧
          let bs := ps.flatMap fun p => s.readLoc c (loopsBack c p) p.key p.len
          ∀ x, x ∈ tok.cells ↔ ∃ i j, i < 64 ∧ j < 4 ∧ g.getLsbD i = true ∧ x = (d + 4 * i + j, bs.getD (4 * (i - l) + j) 0))))

/-! ### Transfers and byte counts -/

/-- BTX, and STW in the aperture alike, and BTXA start a copy on a free channel of the tile, which the context then owns (R217, R218). BTWM and
BTSTAT read a channel's watermark and status word, BTWAIT waits until the copy is done or has come as far as its operand, and BTCAN cancels a
copy: none of its runs is made any more (R235, R236). -/
def Obligations.CopiesAndChannels : Prop :=
  ((∀ (w : FormM) (s t : State) (c d : Ctx) (b x : Word), Fires s c w.h [w.data, w.base] → readVal c w.data = .ok x → readVal c w.base = .ok b →
      let a := b + w.off.signExtend 64
      let n := (a.toNat - 0x200000) / 4096
      0x200000 ≤ a.toNat → a.toNat < 0x210000 → a.toNat % 4096 = 0 → startCopy s c n (x.toNat % 2 ^ 32) none none = .ok (t, d) →
      Completes (.btx w) s c w.h t d.clearLatch ∧ ((s.tile c.key.tile).channel n).isFree = true ∧
        ((t.tile c.key.tile).channel n).task = c.task ∧ ((t.tile c.key.tile).channel n).rank = c.rank ∧
        ((t.tile c.key.tile).channel n).owner = c.key.num ∧ ((t.tile c.key.tile).channel n).template = x.toNat % 64) ∧
    (∀ (w : FormX) (s t : State) (c d : Ctx) (x : Word) (src dst : Option Word),
      Fires s c w.h ([w.a] ++ (if w.sub.getLsbD 0 then [w.b] else []) ++ (if w.sub.getLsbD 1 then [w.c] else [])) → readVal c w.a = .ok x →
      (if w.sub.getLsbD 0 then ∃ v, readVal c w.b = .ok v ∧ src = some v else src = none) →
      (if w.sub.getLsbD 1 then ∃ v, readVal c w.c = .ok v ∧ dst = some v else dst = none) →
      x.toNat < 4096 → startCopy s c (x.toNat / 256) (x.toNat % 256) src dst = .ok (t, d) →
      Completes (.btxa w) s c w.h t d.clearLatch ∧ ((s.tile c.key.tile).channel (x.toNat / 256)).isFree = true)) ∧
  (∀ (w : FormX) (s : State) (c c' : Ctx) (n : Nat),
      (Fires s c w.h [w.b] → namedChannel s c w.b true = .ok n → workGate s c (.channel n) = .ok () →
        writeVal s c w.a (BitVec.ofNat 64 (s.channelFor c n).watermark) = .ok c' → Completes (.btwm w) s c w.h s c') ∧
      (Fires s c w.h [w.b] → namedChannel s c w.b false = .ok n → workGate s c (.channel n) = .ok () →
        writeVal s c w.a (BitVec.ofNat 64 (s.channelFor c n).word) = .ok c' → Completes (.btstat w) s c w.h s c') ∧
      (Fires s c w.h ([w.a] ++ if w.sub.getLsbD 0 then [] else [w.b]) → namedChannel s c w.a true = .ok n → parkGate s c = .ok () →
        workGate s c (.channel n) = .ok () →
        (w.sub.getLsbD 0 = true → (s.channelFor c n).isFree = true → CompletesPark (.btwait w) s c w.h s c.clearLatch) ∧
        (w.sub.getLsbD 0 = false → ∀ x, readVal c w.b = .ok x → ((s.channelFor c n).isFree = true ∨ x.toNat ≤ (s.channelFor c n).watermark) →
          CompletesPark (.btwait w) s c w.h s c.clearLatch)) ∧
      (Fires s c w.h [w.a] → namedChannel s c w.a true = .ok n →
        ((s.channelFor c n).isFree = true → Completes (.btcan w) s c w.h s c.clearLatch) ∧
        (s.channelFor c n = (s.tile c.key.tile).channel n → ((s.tile c.key.tile).channel n).num = n →
          ((s.tile c.key.tile).channel n).state = .active → (s.tile c.key.tile).pausedCopies = [] →
          ∃ t, ((t.tile c.key.tile).channel n).state = .cancelled ∧ t.mem = s.mem ∧ t.staged = s.staged ∧ t.ctxs = s.ctxs ∧
            Completes (.btcan w) s c w.h t c.clearLatch)))

/-- BCPOST, which with .CLR clears OVER first, and BCARV hand the byte-count unit of the record's tile a post or an arrival; BCWAIT and BCTEST answer whether the record has left the phase
named, and observe its deliveries; BCRESET clears the record (R34, R240, R241). -/
def Obligations.ByteCountInstructions : Prop :=
  ∀ (w : FormX) (s : State) (c c' : Ctx) (a n : Word) (key : Nat),
    (Fires s c w.h [w.a, w.b] → readVal c w.a = .ok a → readVal c w.b = .ok n →
      (recordAt s c a .tile = .ok key →
        (w.sub.getLsbD 0 = false → Completes (.bcpost w) s c w.h (s.sendArrival key (n.toNat % 2 ^ 31) 0 (some c.key)) c.clearLatch) ∧
        (w.sub.getLsbD 0 = true →
          let cleared := s.putRecord key { s.bcRecord key with carried := false } (s.bcDone key)
          Completes (.bcpost w) s c w.h (cleared.sendArrival key (n.toNat % 2 ^ 31) 0 (some c.key)) c.clearLatch) ∧
        (parkGate s c = .ok () → workGate s c (.record key) = .ok () → (s.bcRecord key).phase ≠ n.getLsbD 0 →
          ((w.sub.getLsbD 0 && (s.bcRecord key).carried) = false →
            CompletesPark (.bcwait w) s c w.h s (c.observe key (s.bcDone key)).clearLatch) ∧
          ((w.sub.getLsbD 0 && (s.bcRecord key).carried) = true → Faults (.bcwait w) s c { code := fcBCOVER }))) ∧
      (recordAt s c a .group = .ok key → s.writesPlaced c = true →
        Completes (.bcarv w) s c w.h (s.sendArrival key (n.toNat % 2 ^ 31) 0 none) c.clearLatch)) ∧
    (Fires s c w.h [w.b, w.c] → readVal c w.b = .ok a → readVal c w.c = .ok n → recordAt s c a .tile = .ok key → workGate s c (.record key) = .ok () →
      ((s.bcRecord key).phase ≠ n.getLsbD 0 → writeVal s c w.a 1 = .ok c' → Completes (.bctest w) s c w.h s (c'.observe key (s.bcDone key))) ∧
      ((s.bcRecord key).phase = n.getLsbD 0 → writeVal s c w.a 0 = .ok c' → Completes (.bctest w) s c w.h s c')) ∧
    (Fires s c w.h [w.a] → readVal c w.a = .ok a → recordAt s c a .tile = .ok key → (∀ i ∈ (s.tile c.key.tile).bcq, i.key ≠ key) →
      s.mem.wf = true → ∃ t, Completes (.bcreset w) s c w.h t c.clearLatch ∧ t.ctxs = s.ctxs ∧ t.mem.num key 16 = b2n (w.sub.getLsbD 0) * 2 ^ 67 ∧
        ∀ x, x < key ∨ key + 16 ≤ x → t.mem.get x = s.mem.get x)

/-- The byte-count unit: a post sets the expected count and the poster, an arrival adds its bytes; once posted, a record whose arrived bytes reach the
expected ones completes a phase: the phase bit turns, posted is cleared, and an excess is carried into the next phase (R238). -/
def Obligations.ByteCountUnit : Prop :=
  (∀ (r : BcRecord) (e poster : Nat), r.posted = false →
    (r.arrived < e → r.post e poster = ({ r with expected := e, posted := true, poster := poster }, false)) ∧
    (r.arrived = e → r.post e poster = ({ r with expected := e, arrived := 0, posted := false, poster := poster, phase := !r.phase }, true)) ∧
    (e < r.arrived → r.post e poster =
      ({ r with expected := e, arrived := r.arrived - e, posted := false, poster := poster, phase := !r.phase, carried := true,
                excess := min (r.excess + 1) 0xFFFFFFFF }, true))) ∧
  (∀ (r : BcRecord) (e poster : Nat), r.posted = true → r.post e poster = ({ r with carried := true }, false)) ∧
  (∀ (r : BcRecord) (n : Nat), r.arrived + n ≤ 0x7FFFFFFF →
    (r.posted = false → r.arrive n = ({ r with arrived := r.arrived + n }, false)) ∧
    (r.posted = true → r.arrived + n < r.expected → r.arrive n = ({ r with arrived := r.arrived + n }, false)) ∧
    (r.posted = true → r.arrived + n = r.expected → r.arrive n = ({ r with arrived := 0, posted := false, phase := !r.phase }, true))) ∧
  (∀ r : BcRecord, r.expected < 2 ^ 32 → r.arrived < 2 ^ 32 → r.poster < 8 → r.excess < 2 ^ 32 → BcRecord.ofNum r.num = r)

/-! ### Floating point -/

namespace Sys2Proof.Claims

open Sys2Proof.Machine

/-- SRCNT after an instruction: one on for the rounding mode RSR (code 4), with SRW set when it wraps (R62). -/
def counted (code : Nat) (c : Ctx) : Ctx :=
  if code ≠ 4 then c
  else if c.srcnt + 1 = 2 ^ 32 then { c with srcnt := 0, flags := c.flags ||| 0x80 }
  else { c with srcnt := (c.srcnt + 1) % 2 ^ 32 }

/-- The instruction i computes f of its sources, each read in the element type k, with the rounding mode of a code: one element in uniform class, every
element of w bits with the rounding of its own position in lane class (R59, R61, R136, R168). -/
def Rounded (i : Instr) (h : Common) (dst : Operand) (srcs : List Operand) (k : SrcKind) (code : Nat) (sat nanovf : Bool)
    (ext : Nat → Word) (f : Rnd → List Nat → Nat × Nat) : Prop :=
  i.wf = true → ∀ (s : State) (c : Ctx) (g : Word), Issues s c h srcs g → Falls s c →
    (h.lane = false → g.getLsbD 0 = true → ∀ xs, srcs.mapM (fun o => readUni c k o) = .ok xs →
      let r := f (rndFor s c code 0 sat nanovf) xs
      ∀ c', writeVal s c dst (ext r.1) = .ok c' → Completes i s c h s (counted code (c'.orFlags r.2))) ∧
    (h.lane = true → ∀ ls, srcs.mapM (fun o => readLane c k o) = .ok ls →
      let rs := (List.range (2048 / k.width)).map fun e => f (rndFor s c code e sat nanovf) (ls.map fun l => l.getD e 0)
      ∀ c', writeElems s c dst k.width g (rs.map fun r => r.1) = .ok c' →
      Completes i s c h s (counted code (c'.orFlags (laneFlags k.width g rs))))

/-- One rounding of an exact result, with the flags of both (R59, R65). -/
def onceRounded (f : Fmt) (r : Rnd) (v : FV × Nat) : Nat × Nat := ((roundF f r v.1).1, (roundF f r v.1).2 ||| v.2)

/-- The exact value of element k of a list of codes. -/
def fv (f : Fmt) (l : List Nat) (k : Nat) : FV := if k < l.length then decF f (l.getD k 0) else .num false 0 0

/-- A finite value as a rational number. -/
def FV.rat : FV → ℚ
  | .num n m e => (if n then -1 else 1) * (m : ℚ) * (2 : ℚ) ^ e
  | _ => 0

/-- A value is finite. -/
def FV.finite : FV → Bool
  | .num _ _ _ => true
  | _ => false

/-- A magnitude kept for a later rounding: exact when its last bit is 0, and otherwise strictly between the even neighbours of its last bit. -/
def Keeps (v : FV) (P : ℚ → Prop) : Prop :=
  match v with
  | .num _ m e => if m % 2 = 0 then P ((m : ℚ) * (2 : ℚ) ^ e)
      else ∃ q : ℚ, ((m : ℚ) - 1) * (2 : ℚ) ^ e < q ∧ q < ((m : ℚ) + 1) * (2 : ℚ) ^ e ∧ P q
  | _ => False

/-- rne32 of the sum of two FP32 codes, with its flags (R70). -/
def sum32 (x y : Nat) : Nat × Nat := onceRounded fp32 rne (addV 0 (decF fp32 x) (decF fp32 y))

/-- The node of the rank tree over the first 2 to the k terms, and the flags of the roundings in it (R70). -/
def node : Nat → List (Option Nat) → Option Nat × Nat
  | 0, l => (l.headD none, 0)
  | k + 1, l =>
    match node k (l.take (2 ^ k)), node k (l.drop (2 ^ k)) with
    | (none, f), (y, g) => (y, f ||| g)
    | (x, f), (none, g) => (x, f ||| g)
    | (some x, f), (some y, g) => (some (sum32 x y).1, f ||| g ||| (sum32 x y).2)

/-- The sequential sum of FP32 codes from the first, unchanged, and the flags of its roundings (R71). -/
def prefixSums : List Nat → Option Nat × Nat
  | [] => (none, 0)
  | x :: r => let z := r.foldl (fun a y => ((sum32 a.1 y).1, a.2 ||| (sum32 a.1 y).2)) (x, 0); (some z.1, z.2)

/-- A vector instruction writes a whole register from its operands (R180). -/
def WritesLanes (i : Instr) (h : Common) (dst : Operand) (srcs : List Operand) (n : Nat) (s : State) (c : Ctx) (xs : List Nat) : Prop :=
  ∀ g, Issues s c h srcs g → Falls s c → ∀ c', writeElems s c dst n g xs = .ok c' → Completes i s c h s c'

end Sys2Proof.Claims

/-- FADD, FSUB, FMUL and the four multiply-adds compute their exact result and round it once; so do FDIV, FSQRT, FRCP, FRSQ, FEXP2 and FLOG2 (R168, R169,
R173). -/
def Obligations.FloatArithmetic : Prop :=
  ∀ w : FormA,
    let f := fltOf w.typ
    let op := fun (i : Instr) (srcs : List Operand) (v : Nat → (Nat → FV) → FV × Nat) =>
      Rounded i w.h w.dst srcs (.flt f) w.opt (w.mod.getLsbD 3) false (BitVec.ofNat 64) fun r l => onceRounded f r (v r.mode (fv f l))
    op (.fadd w) [w.a, w.b] (fun m x => addV m (x 0) (x 1)) ∧ op (.fsub w) [w.a, w.b] (fun m x => addV m (x 0) (x 1).neg) ∧
    op (.fmul w) [w.a, w.b] (fun _ x => mulV (x 0) (x 1)) ∧ op (.fma w) [w.a, w.b, w.c] (fun m x => fmaV m (x 0) (x 1) (x 2)) ∧
    op (.fms w) [w.a, w.b, w.c] (fun m x => fmaV m (x 0) (x 1) (x 2).neg) ∧
    op (.fnma w) [w.a, w.b, w.c] (fun m x => fmaV m (x 0).neg (x 1) (x 2)) ∧
    op (.fnms w) [w.a, w.b, w.c] (fun m x => fmaV m (x 0).neg (x 1) (x 2).neg) ∧
    op (.fdiv w) [w.a, w.b] (fun _ x => divV (x 0) (x 1)) ∧ op (.fsqrt w) [w.a] (fun _ x => sqrtV (x 0)) ∧
    op (.frcp w) [w.a] (fun _ x => divV (.num false 1 0) (x 0)) ∧ op (.frsq w) [w.a] (fun _ x => rsqV (x 0)) ∧
    op (.fexp2 w) [w.a] (fun _ x => exp2V (x 0)) ∧ op (.flog2 w) [w.a] (fun _ x => log2V (x 0))

/-- What the arithmetic computes on finite operands before its one rounding: the exact sum, product and fused product, and a quotient and a square root kept so
that every later rounding is that of the exact one (R169, R173). -/
def Obligations.FloatResultsAreExact : Prop :=
  (∀ (mode : Nat) (x y z : FV), FV.finite x = true → FV.finite y = true → FV.finite z = true →
    FV.finite (addV mode x y).1 = true ∧ FV.rat (addV mode x y).1 = FV.rat x + FV.rat y ∧
    FV.finite (mulV x y).1 = true ∧ FV.rat (mulV x y).1 = FV.rat x * FV.rat y ∧
    FV.finite (fmaV mode x y z).1 = true ∧ FV.rat (fmaV mode x y z).1 = FV.rat x * FV.rat y + FV.rat z ∧
    (addV mode x y).2 = 0 ∧ (mulV x y).2 = 0 ∧ (fmaV mode x y z).2 = 0) ∧
  (∀ x y : FV, FV.finite x = true → FV.finite y = true → FV.rat x ≠ 0 → FV.rat y ≠ 0 →
    (divV x y).1.sign = (x.sign != y.sign) ∧ Keeps (divV x y).1 (fun q => q * |FV.rat y| = |FV.rat x|) ∧ (divV x y).2 = 0) ∧
  (∀ x : FV, FV.finite x = true → 0 < FV.rat x → (sqrtV x).2 = 0 ∧ (sqrtV x).1.sign = false ∧
    ∃ (m : Nat) (e : Int), (sqrtV x).1 = .num false m e ∧
      (if m % 2 = 0 then ((m : ℚ) * (2 : ℚ) ^ e) ^ 2 = FV.rat x
       else (((m : ℚ) - 1) * (2 : ℚ) ^ e) ^ 2 < FV.rat x ∧ FV.rat x < (((m : ℚ) + 1) * (2 : ℚ) ^ e) ^ 2))

/-- XSTD and XRED, and XSTV and XREDV for their enabled lanes, stage their bytes, plain or as contributions of their code's kind, and send one
request, whose acknowledgement is outstanding; they read no result and empty the latch (R242, R244 to R246). A small constant as the data of XRED
or XREDV: a float code takes it as that number in the element's format, an integer code as its bits, sign-extended (R82, R246). -/
def Obligations.ExchangeStores : Prop :=
  (let sent := fun (i : Instr) (s : State) (c : Ctx) (h : Common) (tok : Token) (t : State) (new : List Staged) =>
      Completes i s c h t { t.keptImage c with outstanding := c.outstanding ++ [tok], latch := .empty, latchTok := none } ∧
      t.staged = s.staged ++ new ∧ (∀ e ∈ new, e.seq ∈ tok.writes ∧ e.party.task = c.task ∧ e.party.rank = c.rank) ∧ tok.bad = 0 ∧ tok.held = none
    let holding := fun (new : List Staged) (kind : Option Nat) (k : Nat) (b : Byte) =>
      ∃ e ∈ new, e.covers k = true ∧ e.bytes.getD (k - e.key) 0 = b ∧ e.kind = kind
    (∀ (w : FormM) (s : State) (c : Ctx) (b x : Word), Fires s c w.h [w.data, w.base] → readVal c w.base = .ok b →
      ∀ q ∈ [(Instr.xstd w, 8 / 2 ^ (w.mod.toNat % 4), none), (.xred w, (xredKind w.mod.toNat).2, some w.mod.toNat)], ∀ p,
        let a := b + w.off.signExtend 64
        let kind := q.2.2.map fun m => (xredKind m).1
        storeVal c q.2.2 w.data = .ok x → Reach s c a q.2.1 q.2.1 true (c.slackOf w.slack.toNat) [p] →
        s.heldBack c (spanAt c.key.tile (s.fromHome c a) q.2.1) true = false →
        ∃ t tok new, sent q.1 s c w.h tok t new ∧ (p.leaf = none → (∀ e ∈ s.ctxs, e.frozen = none) → t.ctxs = s.ctxs) ∧
          (p.peer = none → (∀ j, j < p.len → s.isRecordByte (p.key + j) = false ∧ isPlate (p.key + j) = false) →
            ∀ j, j < q.2.1 → holding new kind (p.key + j) ((bytesOf q.2.1 x.toNat).getD j 0))) ∧
    (∀ (w : FormM) (s : State) (c : Ctx) (g b : Word), Issues s c w.h [w.data, w.base] g → Falls s c → readVal c w.base = .ok b →
      ∀ q ∈ [(Instr.xstv w, 4, none), (.xredv w, (xredKind w.mod.toNat).2, some w.mod.toNat)], ∀ xs, q.1.wf = true →
        storeElemsOf c q.2.2 (8 * q.2.1) w.data = .ok xs →
        let a := b + w.off.signExtend 64
        let kind := q.2.2.map fun m => (xredKind m).1
        (g = 0 → Completes q.1 s c w.h s c.clearLatch) ∧
        (∀ l u ps, LaneSpan g l u → let f := a + BitVec.ofNat 64 (4 * l); let n := 4 * (u + 1 - l)
          Reach s c f n q.2.1 true (c.slackOf w.slack.toNat) ps → s.heldBack c (spanAt c.key.tile (s.fromHome c f) n) true = false →
          ∃ t tok new, sent q.1 s c w.h tok t new ∧ ((∀ p ∈ ps, p.leaf = none) → (∀ e ∈ s.ctxs, e.frozen = none) → t.ctxs = s.ctxs) ∧
            ((∀ p ∈ ps, p.addr.toNat % 4 = 0 ∧ p.len % 4 = 0) → ∀ p ∈ ps, p.peer = none →
              (∀ j, j < p.len → s.isRecordByte (p.key + j) = false ∧ isPlate (p.key + j) = false) →
              ∀ i j, i < 64 → j < 4 → g.getLsbD i = true → let y := (a + BitVec.ofNat 64 (4 * i)).toNat + j
                p.addr.toNat ≤ y → y < p.addr.toNat + p.len →
                holding new kind (p.key + (y - p.addr.toNat)) ((bytesOf q.2.1 (xs.getD ((4 * i + j) / q.2.1) 0)).getD (j % q.2.1) 0))))) ∧
  (∀ (c : Ctx) (code : Nat) (k : BitVec 8),
      let f := if code = 0x0D then bf16 else if code = 0x0E then fp16 else fp32
      (0x0C ≤ code → code ≤ 0x10 → ∃ x, storeVal c (some code) (.const k) = .ok x ∧ FV.finite (decF f x.toNat) = true ∧ FV.rat (decF f x.toNat) = (k.toInt : ℚ) ∧
        ∀ xs, storeElemsOf c (some code) f.width (.const k) = .ok xs → xs = List.replicate (2048 / f.width) x.toNat) ∧
      (code < 0x0C → storeVal c (some code) (.const k) = .ok (k.signExtend 64) ∧
        ∀ n, storeElemsOf c (some code) n (.const k) = .ok (List.replicate (2048 / n) ((k.signExtend 64).toNat % 2 ^ n))) ∧
      ∀ o, (∀ k, o ≠ .const k) → ∀ n, storeVal c (some code) o = readVal c o ∧ storeElemsOf c (some code) n o = readElems c n o)

/-- The five rounding modes on a magnitude m divided by 2 to the n: RNE gives a nearest integer and the even one of a tie, RTZ the integer below,
RUP and RDN the neighbour upwards and downwards of a value with the sign, and RSR the upper one where its draw is below the fraction; the flag says whether
the value was no integer (R59, R61, R65). -/
def Obligations.RoundingModes : Prop :=
  ∀ (r : Rnd) (neg : Bool) (m n : Nat),
    let k := (roundShift r neg m n).1
    let low := m / 2 ^ n
    ((roundShift r neg m n).2 = true ↔ ¬2 ^ n ∣ m) ∧ (2 ^ n ∣ m → k * 2 ^ n = m) ∧ (k = low ∨ k = low + 1) ∧
    (r.mode = 0 → 2 * (k * 2 ^ n) ≤ 2 * m + 2 ^ n ∧ 2 * m ≤ 2 * (k * 2 ^ n) + 2 ^ n ∧
      (2 * m % 2 ^ n = 0 → 2 * m / 2 ^ n % 2 = 1 → k % 2 = 0)) ∧
    (r.mode = 1 → k = low) ∧
    (¬2 ^ n ∣ m → (r.mode = 2 → k = if neg then low else low + 1) ∧ (r.mode = 3 → k = if neg then low + 1 else low) ∧
      (r.mode = 4 → k = if r.draw * 2 ^ n < m % 2 ^ n * 2 ^ 32 then low + 1 else low))

/-- The instructions that do not round: FMIN and FMAX with the canonical NaN for a NaN and -0 below +0, FABS, FNEG and FCPYS with the canonical
NaN for a NaN, FCLASS with one of ten bits (R170, R172); FRND gives an integral value of the format (R174). FCMP: a uniform compare writes 64 ones
or 64 zeros, a lane compare one bit for each enabled lane (R136, R171). -/
def Obligations.FloatSelectionAndCompares : Prop :=
  (∀ w : FormA,
      let f := fltOf w.typ
      let sig := fun v : FV => if v = .nan true then flagNV else 0
      let less := fun x y => ltV (decF f x) (decF f y) || ((decF f x).isZero && (decF f y).isZero && (decF f x).sign && !(decF f y).sign)
      let mm := fun (l : List Nat) (p : Bool) =>
        let x := decF f (l.getD 0 0); let y := decF f (l.getD 1 0)
        if x.isNan || y.isNan then (f.nan, sig x ||| sig y) else (if p then l.getD 0 0 else l.getD 1 0, 0)
      let sgn := fun (x : Nat) (neg : Bool) =>
        if (decF f x).isNan then (f.nan, sig (decF f x)) else (x % 2 ^ (f.width - 1) + if neg then 2 ^ (f.width - 1) else 0, 0)
      let op := fun (i : Instr) (srcs : List Operand) (g : List Nat → Nat × Nat) =>
        Rounded i w.h w.dst srcs (.flt f) 0 false false (BitVec.ofNat 64) fun _ l => g l
      op (.fmin w) [w.a, w.b] (fun l => mm l (less (l.getD 0 0) (l.getD 1 0))) ∧
      op (.fmax w) [w.a, w.b] (fun l => mm l (!less (l.getD 0 0) (l.getD 1 0))) ∧
      op (.fabs w) [w.a] (fun l => sgn (l.getD 0 0) false) ∧
      op (.fneg w) [w.a] (fun l => sgn (l.getD 0 0) (!(l.getD 0 0).testBit (f.width - 1))) ∧
      op (.fcpys w) [w.a, w.b] (fun l => sgn (l.getD 0 0) ((l.getD 1 0).testBit (f.width - 1))) ∧
      op (.fclass w) [w.a] (fun l => (2 ^ classBit f (l.getD 0 0), 0)) ∧
      Rounded (.frnd w) w.h w.dst [w.a] (.flt f) w.opt false false (BitVec.ofNat 64) fun r l => integralF f r (l.getD 0 0)) ∧
  (∀ (w : FormA) (s : State) (c c' : Ctx) (g : Word), (Instr.fcmp w).wf = true → Issues s c w.h [w.a, w.b] g → Falls s c →
      let f := fltOf w.typ
      let cond := fun x y =>
        let un := (decF f x).isNan || (decF f y).isNan
        let lt := ltV (decF f x) (decF f y)
        let gt := ltV (decF f y) (decF f x)
        [!un && !lt && !gt, un || lt || gt, lt, !un && !lt, !un && !gt, gt, un, !un].getD w.opt false
      let sig := fun x y : Nat => if decF f x = .nan true ∨ decF f y = .nan true then 1 else 0
      (w.h.lane = false → g.getLsbD 0 = true → ∀ x y, readUni c (.flt f) w.a = .ok x → readUni c (.flt f) w.b = .ok y →
        writeVal s c w.dst (if cond x y then BitVec.allOnes 64 else 0) = .ok c' → Completes (.fcmp w) s c w.h s (c'.orFlags (sig x y))) ∧
      (w.h.lane = true → ∀ xs ys, readLane c (.flt f) w.a = .ok xs → readLane c (.flt f) w.b = .ok ys →
        ∀ m : Word, (∀ i, i < 64 → m.getLsbD i = cond (xs.getD i 0) (ys.getD i 0)) → writeMask s c w.dst g m = .ok c' →
        ∃ fl, (fl = 1 ↔ ∃ i, i < 64 ∧ g.getLsbD i = true ∧ sig (xs.getD i 0) (ys.getD i 0) = 1) ∧ (fl = 0 ∨ fl = 1) ∧
          Completes (.fcmp w) s c w.h s (c'.orFlags fl)))

/-- The conversions: FCVT between formats of one width, FCVTI to an integer clamped with NV, ICVTF from an integer (R66, R67, R175, R176, R179).
FPACK rounds elements of FP32 into two or four to a lane, the eight-bit forms keeping the other half of the lane; FUNPK takes one of them out of
each lane as FP32 (R175, R177, R178). -/
def Obligations.Conversions : Prop :=
  (∀ w : FormA,
      let p := [(fp16, bf16), (bf16, fp16), (e4m3, e5m2), (e5m2, e4m3)].getD (w.mod.toNat % 4) (fp16, bf16)
      let f := [fp32, fp16, bf16].getD (w.mod.toNat % 4) bf16
      let u := w.mod.getLsbD 3
      let n := if w.mod.getLsbD 2 then 64 else f.width
      let lo : Int := if u then 0 else -(2 ^ (n - 1))
      let hi : Int := if u then 2 ^ n - 1 else 2 ^ (n - 1) - 1
      Rounded (.fcvt w) w.h w.dst [w.a] (.flt p.1) w.opt (w.mod.getLsbD 2) (w.mod.getLsbD 3) (BitVec.ofNat 64) (fun r l =>
        onceRounded p.2 r (decF p.1 (l.getD 0 0), if decF p.1 (l.getD 0 0) = .nan true then 1 else 0)) ∧
      Rounded (.fcvti w) w.h w.dst [w.a] (.flt f) w.opt false false (fun x => widen n u x) (fun r l =>
        match decF f (l.getD 0 0) with
        | .nan _ => (0, flagNV)
        | .inf neg => ((BitVec.ofInt n (if neg then lo else hi)).toNat, flagNV)
        | .num neg m e =>
          let k := scaleRound r neg m e
          let v : Int := if neg then -(k.1 : Int) else k.1
          if lo ≤ v ∧ v ≤ hi then ((BitVec.ofInt n v).toNat, if k.2 then flagNX else 0)
          else ((BitVec.ofInt n (max lo (min hi v))).toNat, flagNV)) ∧
      Rounded (.icvtf w) w.h w.dst [w.a] (.int n) w.opt false false (BitVec.ofNat 64) (fun r l =>
        roundF f r (.num (value n u (l.getD 0 0) < 0) (value n u (l.getD 0 0)).natAbs 0))) ∧
  (∀ (w : FormA) (s : State) (c : Ctx),
      let f := [fp16, bf16, e4m3, e5m2].getD (w.mod.toNat / 4 % 4) fp16
      let cv := fun (src dst : Fmt) (r : Rnd) (x : Nat) => onceRounded dst r (decF src x, if decF src x = .nan true then 1 else 0)
      let o := w.mod.getLsbD 0
      let r := fun j => rndFor s c w.opt j (o && f != e4m3) (o && f == e4m3)
      ((Instr.fpack w).wf = true → ∀ (g : Word) (c' : Ctx), Issues s c w.h [w.a, w.b] g → Falls s c → w.h.lane = true →
        ∀ xs ys old, readLane c (.flt fp32) w.a = .ok xs → readLane c (.flt fp32) w.b = .ok ys →
        (f.width = 8 → readElems c 8 w.dst = .ok old) →
        let rs : List (Nat × Nat) := (List.range (2048 / f.width)).map fun e =>
          if f.width = 16 then cv fp32 f (r e) (if e % 2 = 0 then xs.getD (e / 2) 0 else ys.getD (e / 2) 0)
          else if e % 4 / 2 = (if w.mod.getLsbD 1 then 1 else 0) then cv fp32 f (r e) (if e % 2 = 0 then xs.getD (e / 4) 0 else ys.getD (e / 4) 0)
          else (old.getD e 0, 0)
        writeElems s c w.dst f.width g (rs.map fun x => x.1) = .ok c' →
        Completes (.fpack w) s c w.h s (counted w.opt (c'.orFlags (laneFlags f.width g rs)))) ∧
      ((Instr.fpack w).wf = true → ∀ c' : Ctx, Fires s c w.h [w.a] → w.h.lane = false → ∀ x, readUni c (.flt fp32) w.a = .ok x →
        writeVal s c w.dst (BitVec.ofNat 64 (cv fp32 f (r 0) x).1) = .ok c' →
        Completes (.fpack w) s c w.h s (counted w.opt (c'.orFlags (cv fp32 f (r 0) x).2))) ∧
      ((Instr.funpk w).wf = true → ∀ (g : Word) (c' : Ctx), Issues s c w.h [w.a] g → Falls s c →
        (w.h.lane = true → ∀ xs, readLane c (.flt f) w.a = .ok xs →
          let rs : List (Nat × Nat) := (List.range 64).map fun i => cv f fp32 rne (xs.getD (32 / f.width * i + w.mod.toNat % 4) 0)
          writeElems s c w.dst 32 g (rs.map fun x => x.1) = .ok c' → Completes (.funpk w) s c w.h s (c'.orFlags (laneFlags 32 g rs))) ∧
        (w.h.lane = false → g.getLsbD 0 = true → ∀ x, readUni c (.flt f) w.a = .ok x →
          writeVal s c w.dst (BitVec.ofNat 64 (cv f fp32 rne x).1) = .ok c' → Completes (.funpk w) s c w.h s (c'.orFlags (cv f fp32 rne x).2))))

/-! ### Vectors -/

/-- VREDU gives every element whose lane the guard enables the fold of the selected ones, VSCAN each element the fold up to it; the destination
takes both. What the folds are follows (R71, R183). What the integer folds of VREDU and VSCAN are: the sum modulo 2 to the width, the extremes and
the bitwise folds of the selected elements, each from its identity; position p of a scan is the reduction of positions 0 to p, and no flag is set
(R183). What the float folds of VREDU and VSCAN are. The sum of VREDU goes by the rank tree of R70 over the positions, in FP32 with one rounding
for each node that has two values, and one of the root to the element format. That of VSCAN goes in order from the first selected element,
unchanged. Where nothing is selected the sum is +0. Minimum and maximum are the FMIN and FMAX of the selected elements: the canonical NaN if one
is a NaN, else the infinity or a selected element, and none of those is below, or above, it. A signalling NaN among them sets NV (R63, R70, R71,
R170, R183). -/
def Obligations.VectorReductions : Prop :=
  (∀ (w : FormA) (s : State) (c : Ctx) (xs : List Nat) (m g : Word) (d : Nat),
      let n := vecWidth w.typ
      let sel := (List.range (2048 / n)).map fun e => if m.getLsbD (e * n / 32) then some (xs.getD e 0) else none
      readElems c n w.a = .ok xs → readVal c w.b = .ok m → Issues s c w.h [w.a, w.b] g → Falls s c → c.loc w.dst = some d → Free s c d 256 →
      (∃ c', writeElems s c w.dst n g (List.replicate (2048 / n) (reduceAll w.typ w.opt n sel).1) = .ok c' ∧
        Completes (.vredu w) s c w.h s (c'.orFlags (reduceAll w.typ w.opt n sel).2)) ∧
      (let r := scanAll w.typ w.opt n sel
       ∃ c', writeElems s c w.dst n g (r.1.map fun x => x.1) = .ok c' ∧ Completes (.vscan w) s c w.h s (c'.orFlags (r.2 ||| laneFlags n g r.1)))) ∧
  (∀ (n : Nat) (l : List (Option Nat)), 0 < n → (∀ x ∈ l, ∀ v, x = some v → v < 2 ^ n) →
      let vs := l.filterMap id
      (reduceAll 1 0 n l).1 = vs.sum % 2 ^ n ∧
      (∀ v ∈ vs, (reduceAll 1 3 n l).1 ≤ v ∧ v ≤ (reduceAll 1 4 n l).1) ∧
      (∀ k, (reduceAll 1 5 n l).1.testBit k = (decide (k < n) && vs.all fun v => v.testBit k)) ∧
      (∀ k, (reduceAll 1 6 n l).1.testBit k = vs.any fun v => v.testBit k) ∧
      (∀ v ∈ vs, (BitVec.ofNat n (reduceAll 1 1 n l).1).sle (BitVec.ofNat n v) = true ∧ (BitVec.ofNat n v).sle (BitVec.ofNat n (reduceAll 1 2 n l).1) = true) ∧
      (∀ k, (reduceAll 1 7 n l).1.testBit k = decide ((vs.filter fun v => v.testBit k).length % 2 = 1)) ∧
      (vs ≠ [] → ∀ op, op ∈ [1, 2, 3, 4] → (reduceAll 1 op n l).1 ∈ vs) ∧
      (vs = [] → (reduceAll 1 1 n l).1 = 2 ^ (n - 1) - 1 ∧ (reduceAll 1 2 n l).1 = 2 ^ (n - 1) ∧ (reduceAll 1 3 n l).1 = 2 ^ n - 1 ∧
        (reduceAll 1 4 n l).1 = 0) ∧
      (∀ op, op < 8 → (reduceAll 1 op n l).2 = 0 ∧ (scanAll 1 op n l).2 = 0 ∧
        ∀ p, p < l.length → (scanAll 1 op n l).1[p]? = some ((reduceAll 1 op n (l.take (p + 1))).1, 0))) ∧
  (∀ typ, typ ∈ [4, 5, 6] →
      let f := fltOf typ
      let n := vecWidth typ
      let to32 := fun x => if n = 32 then x else (onceRounded fp32 rne (decF f x, 0)).1
      let back := fun (v : Option Nat) => match v with
        | some x => if n = 32 then (x, 0) else onceRounded f rne (decF fp32 x, 0)
        | none => (0, 0)
      ∀ l : List (Option Nat), l.length = 2048 / n → (∀ x ∈ l, ∀ v, x = some v → v < 2 ^ n) →
        let vs := l.filterMap id
        let nv := if ∃ v ∈ vs, decF f v = .nan true then flagNV else 0
        let root := node (Nat.log2 (2048 / n)) (l.map fun x => x.map to32)
        (reduceAll typ 0 n l).1 = (back root.1).1 ∧ (reduceAll typ 0 n l).2 = root.2 ||| (back root.1).2 ||| nv ∧
        (∀ p, p < 2048 / n → (scanAll typ 0 n l).1[p]? = some (back ((prefixSums ((l.take (p + 1)).filterMap id |>.map to32)).1))) ∧
        (scanAll typ 0 n l).2 = (prefixSums (vs.map to32)).2 ||| nv ∧
        (∀ op, op = 1 ∨ op = 2 → ∀ p, p < 2048 / n →
          (scanAll typ op n l).1[p]? = some ((reduceAll typ op n (l.take (p + 1))).1, 0) ∧ (scanAll typ op n l).2 = nv ∧ (reduceAll typ op n l).2 = nv) ∧
        (∀ op, op = 1 ∨ op = 2 → let r := (reduceAll typ op n l).1
          ((∃ v ∈ vs, (decF f v).isNan = true) → r = f.nan) ∧
          ((∀ v ∈ vs, (decF f v).isNan = false) → (r ∈ vs ∨ decF f r = .inf (op == 2)) ∧
            ∀ v ∈ vs, (if op = 1 then ltV (decF f v) (decF f r) else ltV (decF f r) (decF f v)) = false)))

/-- VBCAST, VEXT and VINS by index, VPERM and VSHUF lane by lane, VSEL element by element (R181, R182); VCPRS, VEXPD and VIOTA under a mask
(R184). VMOVN and VZERO write consecutive registers, lane by lane under the guard, and empty the latch (R131, R185). -/
def Obligations.VectorMovement : Prop :=
  (∀ (w : FormA) (s : State) (c : Ctx),
      let n := [16, 32, 16, 8, 32, 16, 16].getD w.typ 16
      let e := 2048 / n
      (∀ xs x, readElems c n w.a = .ok xs → readVal c w.b = .ok x → (Instr.vbcast w).wf = true →
        WritesLanes (.vbcast w) w.h w.dst [w.a, w.b] n s c (List.replicate e (xs.getD (x.toNat % 256 % e) 0))) ∧
      (∀ xs ys x, readElems c n w.a = .ok xs → readElems c n w.b = .ok ys → readVal c w.c = .ok x → (Instr.vext w).wf = true →
        WritesLanes (.vext w) w.h w.dst [w.a, w.b, w.c] n s c ((List.range e).map fun p => (xs ++ ys).getD (p + x.toNat % 512) 0)) ∧
      (∀ x y ds, readVal c w.a = .ok x → readVal c w.b = .ok y → readElems c n w.dst = .ok ds → (Instr.vins w).wf = true →
        WritesLanes (.vins w) w.h w.dst [w.a, w.b] n s c (ds.set (y.toNat % 256 % e) (x.toNat % 2 ^ n))) ∧
      (∀ xs ys, readElems c 32 w.a = .ok xs → readElems c 32 w.b = .ok ys →
        WritesLanes (.vperm w) w.h w.dst [w.a, w.b] 32 s c (ys.map fun k => xs.getD (k % 128) 0) ∧
        ∀ ks, readElems c 32 w.c = .ok ks →
          WritesLanes (.vshuf w) w.h w.dst [w.a, w.b, w.c] 32 s c (ks.map fun k => (xs ++ ys).getD (k % 128) 0)) ∧
      (∀ xs ys ks, readElems c n w.a = .ok xs → readElems c n w.b = .ok ys → readElems c n w.c = .ok ks → (Instr.vsel w).wf = true →
        WritesLanes (.vsel w) w.h w.dst [w.a, w.b, w.c] n s c
          ((List.range e).map fun p => if ks.getD p 0 = 0 then ys.getD p 0 else xs.getD p 0)) ∧
      (∀ xs m, readElems c 32 w.a = .ok xs → readVal c w.b = .ok m →
        let lanes := (List.range 64).filter fun i => m.getLsbD i
        WritesLanes (.vcprs w) w.h w.dst [w.a, w.b] 32 s c
          ((List.range 64).map fun j => if j < lanes.length then xs.getD (lanes.getD j 0) 0 else 0) ∧
        WritesLanes (.vexpd w) w.h w.dst [w.a, w.b] 32 s c
          ((List.range 64).map fun i => if m.getLsbD i then xs.getD ((List.range i).filter fun j => m.getLsbD j).length 0 else 0)) ∧
      (∀ m, readVal c w.a = .ok m →
        WritesLanes (.viota w) w.h w.dst [w.a] 32 s c ((List.range 64).map fun i => ((List.range i).filter fun j => m.getLsbD j).length))) ∧
  (∀ (w : FormA) (s : State) (c c' : Ctx) (g : Word) (d k : Fin 48) (n : BitVec 8), Issues s c w.h [] g → Falls s c → w.dst = .v d →
      let cells := fun (vs : List (List Nat)) => vs.zipIdx.flatMap fun v => enabledCells (c.vloc d + 256 * v.2) 32 g v.1
      (∀ bs vs, w.a = .v k → w.b = .const n → readRf c (c.vloc k) (256 * n.toNat) = .ok bs →
        vs = (List.range n.toNat).map (fun m => splitElems 32 (numOf ((bs.drop (256 * m)).take 256)) 64) →
        writeRf s c (c.vloc d) (256 * n.toNat) (cells vs) = .ok c' → Completes (.vmovn w) s c w.h s c'.clearLatch) ∧
      (w.a = .const n → writeRf s c (c.vloc d) (256 * n.toNat) (cells (List.replicate n.toNat (List.replicate 64 0))) = .ok c' →
        Completes (.vzero w) s c w.h s c'.clearLatch))

/-! ### The matrix engine -/

namespace Sys2Proof.Claims

open Sys2Proof.Machine

/-- A tile's queue takes a command of the context: it holds fewer than 16, and a stop has put none of the context's aside (R300, R320). -/
def QueueRoom (s : State) (c : Ctx) : Prop :=
  (s.tile c.key.tile).mq.length < 16 ∧ ∀ m ∈ (s.tile c.key.tile).mqSaved, ¬(m.task = c.task ∧ m.rank = c.rank)

end Sys2Proof.Claims

/-- Queueing a matrix command: it goes behind the commands of its tile, its register destinations become pending and its result outstanding, its sources are
read-pending, and the latch is emptied; a tile holds 16 commands, and issue waits while they are there, or while a stop has put commands of the context
aside (R133, R134, R300, R320). -/
def Obligations.MatrixQueue : Prop :=
  (∀ (s : State) (c : Ctx) (m : MxCmd),
    ((queueCmd s c m).1.tile c.key.tile).mq = (s.tile c.key.tile).mq ++ [m] ∧
    (queueCmd s c m).1.mem = s.mem ∧ (queueCmd s c m).1.ctxs = s.ctxs ∧ (queueCmd s c m).2.rf = c.rf ∧ (queueCmd s c m).2.latch = .empty ∧
    (queueCmd s c m).2.pendingMx = m.writes ++ c.pendingMx ∧ (queueCmd s c m).2.readPend = m.reads ++ c.readPend ∧
    (queueCmd s c m).2.strictPend = m.strict ++ c.strictPend ∧
    (m.writes = [] → (queueCmd s c m).2.outstanding = c.outstanding) ∧
    (m.writes ≠ [] → ∃ t, (queueCmd s c m).2.outstanding = c.outstanding ++ [t] ∧ t.id = m.id)) ∧
  (∀ (w : FormX) (s : State) (c : Ctx) (acc : Nat), ¬QueueRoom s c → c.loc w.a = some acc →
    (∀ g, Issues s c w.h [] g → acc + 4096 * (w.sub.toNat % 8 + 1) ≤ 0x8000 → exec (.accz w) s = .next s) ∧
    (∀ g, Issues s c w.h [w.b, w.c] g → acc + 4096 ≤ 0x8000 → exec (.accld w) s = .next s ∧ exec (.accst w) s = .next s)) ∧
  (∀ (w : FormX) (s : State) (c : Ctx), ¬QueueRoom s c →
    (Fires s c w.h [] → exec (.mbswap w) s = .next s ∧ exec (.mbldFree w) s = .next s))

/-- MMA and MMAT queue the product of up to 16 rows with the front bank: the rows come from v registers or from local memory, and what the command
needs is fixed at issue (R301, R308, R310). -/
def Obligations.MatrixMultiplyIssue : Prop :=
  ∀ (w : FormX) (tr : Bool) (s : State) (c : Ctx) (g ctl base : Word) (b : Bank) (acc : Nat) (vregs : List Nat) (vrows rows sides : List (List Byte)),
    let fmt := w.sub.toNat / 16 % 64
    let geo := w.sub.toNat / 1024 % 4
    let m := w.sub.toNat % 16 + 1
    let stride := ctl.toNat / 2 ^ 16 % 2 ^ 16
    let side := ctl.toNat / 2 ^ 32 % 2 ^ 20
    let n := ctl.toNat % 512
    let rb := rowBytes tr fmt
    let q := sideBytes tr fmt geo
    let blocks := mmaBlocks tr b.fmt
    let rowAt := fun (i : Nat) => base + BitVec.ofNat 64 (i * stride)
    let sideAt := fun (i : Nat) => BitVec.ofNat 64 (side + i * q)
    let wide := if fmt = 2 ∨ fmt = 3 then 2 else 1
    let here := fun (a : Word) (k : Nat) => (localKey c.key.tile a.toNat, k)
    Issues s c w.h ((if w.sub.getLsbD 12 then [] else [w.b]) ++ [w.c]) g → Falls s c → QueueRoom s c →
    c.loc w.a = some acc → c.front = some b → acc + 4096 * blocks ≤ 0x8000 → meetsAny c.pending acc (4096 * blocks) = false →
    meetsAny c.winRanges acc (4096 * blocks) = false → strictUnread s c acc (4096 * blocks) = false → readVal c w.c = .ok ctl → ctl.toNat / 2 ^ 52 = 0 → ctl.toNat / 2 ^ 9 % 2 ^ 7 = 0 →
    n ≤ (if tr then b.depth else 64) → pairsWith fmt b.fmt = true →
    (q ≠ 0 → ∀ i, i < m → checkLocal (sideAt i) q 1 i = .ok ()) →
    (if q = 0 then sides = [] else (List.range m).mapM (fun i => readLocal s c (sideAt i) q) = .ok sides) →
    (if w.sub.getLsbD 12 then
       stride = 0 ∧ side = 0 ∧ (∃ k, w.b = .v k ∧ vregs = (List.range m).map fun i => c.vloc (k + i)) ∧
       vregs.mapM (fun a => readRf c a rb) = .ok vrows ∧ rows = vrows ∧ base = 0
     else readVal c w.b = .ok base ∧ vregs = [] ∧ (∀ i, i < m → checkLocal (rowAt i) rb wide i = .ok ()) ∧
       (List.range m).mapM (fun i => readLocal s c (rowAt i) rb) = .ok rows) →
    let cmd := { newCmd c s.seq (.mma tr) g with
      acc := acc, n := n, m := m, fmt := fmt, geo := geo, bank := some b, writes := [(acc, 4096 * blocks)],
      reads := (acc, 4096 * blocks) :: (vregs.map (fun a => (a, rb)) ++ sourceRanges c [w.b, w.c]),
      strict := vregs.map (fun a => (a, rb)) ++ sourceRanges c [w.b, w.c],
      memReads := (if w.sub.getLsbD 12 then [] else (List.range m).map fun i => here (rowAt i) rb) ++
        (if q = 0 then [] else (List.range m).map fun i => here (sideAt i) q),
      rows := rows, sides := sides }
    let r := queueCmd { s with seq := s.seq + 1 } c cmd
    Completes (if tr then .mmat w else .mma w) s c w.h r.1 r.2

/-- MBLD records the provenance of a bank from the descriptor registers and queues its load, MBLD.FREE gives up a bank, MBSWAP exchanges the
banks; MPLW copies local memory to the plate (R303, R304, R311). ACCZ, ACCLD and ACCST queue the clearing, the loading and the storing of
accumulator blocks (R314). -/
def Obligations.BanksPlateAndAccumulators : Prop :=
  (∀ (w : FormX) (s : State) (c : Ctx), QueueRoom s c →
      (∀ a : Word, Fires s c w.h [w.a] → readVal c w.a = .ok a →
        let n := imageBytes (c.mpdw0.toNat % 64) (c.mpdw0.toNat / 64 % 4)
        let k := plateKey c.key.tile a.toNat
        let back := !w.sub.getLsbD 0
        c.mpdw0.toNat % 64 ≠ 0 → a.toNat % 64 = 0 → a.toNat + n ≤ 0x100000 → s.pinned c.key.tile a.toNat n (some (c, !back)) = false →
        s.waitFree c { virt := false, lo := k, len := n } false = .ok () →
        let b : Bank := {
          offset := a.toNat, mpdw0 := c.mpdw0, mpdw1 := c.mpdw1, mpdw2 := c.mpdw2, key := c.stpkey, member := c.stpmem, image := s.readLoc c false k n }
        let d := if back then { c with back := some b } else { c with front := some b }
        let r := queueCmd { s with seq := s.seq + 1 } d { newCmd c s.seq (.mbld back) 0 with
          bank := some b, reads := sourceRanges c [w.a], strict := sourceRanges c [w.a] }
        Completes (.mbld w) s c w.h r.1 r.2) ∧
      (Fires s c w.h [] →
        Completes (.mbldFree w) s c w.h s (if w.sub.getLsbD 0 then { c with front := none } else { c with back := none }).clearLatch ∧
        let r := queueCmd { s with seq := s.seq + 1 } { c with front := c.back, back := c.front } (newCmd c s.seq .mbswap 0)
        Completes (.mbswap w) s c w.h r.1 r.2) ∧
      (∀ (pl src n : Word) (bs : List Byte) (t : State), Fires s c w.h [w.a, w.b, w.c] → readVal c w.a = .ok pl → readVal c w.b = .ok src →
        readVal c w.c = .ok n → pl.toNat % 64 = 0 → src.toNat % 64 = 0 → n.toNat % 64 = 0 → n ≠ 0 → src.toNat + n.toNat ≤ 0x100000 →
        pl.toNat + n.toNat ≤ 0x100000 → s.pinned c.key.tile pl.toNat n.toNat none = false → readLocal s c src n.toNat = .ok bs →
        s.heldBack c { virt := false, lo := plateKey c.key.tile pl.toNat, len := n.toNat } true = false →
        s.placePlain (s.writer c false) (plateKey c.key.tile pl.toNat) pl bs = some t →
        let r := queueCmd { t with seq := t.seq + 1 } (t.keptImage c) { newCmd c t.seq .mplw 0 with
          plate := pl.toNat, count := n.toNat, memReads := [(localKey c.key.tile src.toNat, n.toNat)],
          reads := sourceRanges c [w.a, w.b, w.c], strict := sourceRanges c [w.a, w.b, w.c] }
        Completes (.mplw w) s c w.h r.1 r.2)) ∧
  (∀ (w : FormX) (s : State) (c : Ctx) (g : Word) (acc : Nat), QueueRoom s c → c.loc w.a = some acc →
      (Issues s c w.h [] g → Falls s c →
        let k := w.sub.toNat % 8 + 1
        acc + 4096 * k ≤ 0x8000 → meetsAny c.winRanges acc (4096 * k) = false → strictUnread s c acc (4096 * k) = false →
        let r := queueCmd { s with seq := s.seq + 1 } c { newCmd c s.seq .accz g with acc := acc, m := k, writes := [(acc, 4096 * k)] }
        Completes (.accz w) s c w.h r.1 r.2) ∧
      (∀ (a st : Word) (rows : List (Word × Nat × Nat)), Issues s c w.h [w.b, w.c] g → Falls s c → readVal c w.b = .ok a → readVal c w.c = .ok st →
        acc + 4096 ≤ 0x8000 → rows = ((List.range (w.sub.toNat % 16 + 1)).filterMap fun i => rowSpan (a + st * BitVec.ofNat 64 i) g) →
        (∀ x ∈ rows, checkLocal x.1 x.2.1 4 x.2.2 = .ok ()) →
        let spans := rows.map fun x => (localKey c.key.tile x.1.toNat, x.2.1)
        (∀ data, meetsAny c.winRanges acc 4096 = false → strictUnread s c acc 4096 = false → rows.mapM (fun x => readLocal s c x.1 x.2.1) = .ok data →
          let r := queueCmd { s with seq := s.seq + 1 } c { newCmd c s.seq .accld g with
            acc := acc, m := w.sub.toNat % 16 + 1, writes := [(acc, 4096)], rows := data, memReads := spans,
            reads := sourceRanges c [w.b, w.c], strict := sourceRanges c [w.b, w.c] }
          Completes (.accld w) s c w.h r.1 r.2) ∧
        (meetsAny c.pending acc 4096 = false →
          (∀ x ∈ rows, s.waitFree c { virt := false, lo := localKey c.key.tile x.1.toNat, len := x.2.1 } true = .ok ()) →
          (stageRows s c g (spans.map fun x => (x, List.replicate x.2 0))).isSome = true →
          let reads := (acc, 4096) :: sourceRanges c [w.b, w.c]
          let kept := (c.winRanges.filter fun x => rangesMeet x.1 x.2 acc 4096).flatMap fun x => (List.range x.2).map fun i => (x.1 + i, c.rf.get (x.1 + i))
          let r := queueCmd { s with seq := s.seq + 1 } c { newCmd c s.seq .accst g with
            acc := acc, m := w.sub.toNat % 16 + 1, reads := reads, strict := reads, kept := kept, memWrites := spans }
          Completes (.accst w) s c w.h r.1 r.2)))

/-- MPDESC writes the descriptor registers or takes DESC; MQWAIT waits for its limit of unfinished commands; MSTAT reads the status range; STPKEY and both forms
of STPMEM write the generator's registers, a member outside 0 to 0xFFFE being ILLEGAL (R306, R307, R315, R316). -/
def Obligations.MatrixRegisters : Prop :=
  ∀ (w : FormX) (s : State) (c : Ctx) (x : Word), readVal c w.a = .ok x →
    (∀ y z : Word, Fires s c w.h [w.a, w.b, w.c] → readVal c w.b = .ok y → readVal c w.c = .ok z →
      let fmt := x.toNat % 64
      let cnt := x.toNat / 256 % 128
      let rows := y.toNat % 2 ^ 32
      let cols := y.toNat / 2 ^ 32
      let ok := x.toNat / 2 ^ 32 = 0 ∧ x.getLsbD 15 = false ∧ fmt ∈ [2, 3, 4, 5, 6, 7, 8, 12, 13] ∧ fmtOk fmt (x.toNat / 64 % 4) = true ∧
        1 ≤ cnt ∧ cnt ≤ 64 ∧ rows ≠ 0 ∧ cols ≠ 0 ∧ rows * cols ≤ 2 ^ 32
      (ok → Completes (.mpdesc w) s c w.h s { c with mpdw0 := x, mpdw1 := y, mpdw2 := z, latch := .empty, latchTok := none }) ∧
      (¬ok → Faults (.mpdesc w) s c { code := fcDESC })) ∧
    (Fires s c w.h [w.a] →
      ((s.mxOf c).length ≤ x.toNat % 32 → Completes (.mqwait w) s c w.h s c.clearLatch) ∧
      (x.toNat % 32 < (s.mxOf c).length → exec (.mqwait w) s = .next s) ∧
      Completes (.stpkey w) s c w.h s { c with stpkey := x, latch := .empty, latchTok := none } ∧
      (0 ≤ x.toInt → x.toInt ≤ 0xFFFE → Completes (.stpmem w) s c w.h s { c with stpmem := x.toNat, latch := .empty, latchTok := none }) ∧
      (x.toInt < 0 ∨ 0xFFFE < x.toInt → Faults (.stpmem w) s c { code := fcILLEGAL }) ∧
      (0 ≤ c.stpmem + x.toInt → c.stpmem + x.toInt ≤ 0xFFFE →
        Completes (.stpmemAdd w) s c w.h s { c with stpmem := (c.stpmem + x.toInt).toNat, latch := .empty, latchTok := none }) ∧
      (c.stpmem + x.toInt < 0 ∨ 0xFFFE < c.stpmem + x.toInt → Faults (.stpmemAdd w) s c { code := fcILLEGAL })) ∧
    (∀ c', Fires s c w.h [] → writeVal s c w.a (BitVec.ofNat 64 (s.mxStatus c (w.sub.toNat % 512))) = .ok c' → Completes (.mstat w) s c w.h s c')

/-- The matrix instructions of the vector unit: ACCCVT converts accumulator rows, STPGEN and STPMUL generate and apply perturbations, HADV
transforms blocks (R312, R317, R318, R319). QCVT quantises 128 FP32 values to blocks with their scale bytes, DQCVT decodes 128 elements to FP32;
both write whole registers and empty the latch (R54, R55, R319). -/
def Obligations.MatrixVectorUnit : Prop :=
  (∀ (w : FormA) (s : State) (c c' : Ctx) (g : Word),
      (∀ (a : Nat) (r : BitVec 8) (bs : List Byte), Issues s c w.h [] g → Falls s c → (Instr.acccvt w).wf = true →
        c.loc w.a = some a → w.b = .const r → readRf c (a + 256 * r.toNat) (256 * cvtRows (w.mod.toNat % 8)) = .ok bs →
        let f := w.mod.toNat % 8
        let n := [32, 16, 16, 8, 8, 8, 16].getD f 16
        let sat := w.mod.getLsbD 3
        let cv := fun (dst : Fmt) (x j : Nat) =>
          onceRounded dst (rndFor s c w.opt j sat false) (decF fp32 x, if decF fp32 x = .nan true then flagNV else 0)
        let clamped := fun (k x : Nat) =>
          let v := (BitVec.ofNat 32 x).toInt
          let y := max (-(2 ^ (k - 1)) : Int) (min (2 ^ (k - 1) - 1) v)
          ((BitVec.ofInt k y).toNat, if y = v then 0 else flagSAT)
        let rs := (splitElems 32 (numOf bs) (bs.length / 4)).zipIdx.map fun x =>
          [(x.1, 0), cv fp16 x.1 x.2, cv bf16 x.1 x.2, cv e4m3 x.1 x.2, cv e5m2 x.1 x.2, clamped 8 x.1, clamped 16 x.1].getD f (0, 0)
        writeElems s c w.dst n g (rs.map fun x => x.1) = .ok c' →
        Completes (.acccvt w) s c w.h s (counted w.opt (c'.orFlags (laneFlags n g rs)))) ∧
      (∀ b st : Word, Issues s c w.h [w.a, w.b] g → Falls s c → readVal c w.a = .ok b → readVal c w.b = .ok st →
        writeElems s c w.dst 32 g ((List.range 64).map fun i => stippleEps c.stpmem (st.toNat % 2 ^ 16) ((b.toNat + i) % 2 ^ 32) c.stpkey.toNat) = .ok c' →
        Completes (.stpgen w) s c w.h s c') ∧
      (∀ gs es ss : List Nat, Issues s c w.h [w.a, w.b, w.c] g → Falls s c → readElems c 32 w.a = .ok gs → readElems c 32 w.b = .ok es →
        readElems c 32 w.c = .ok ss →
        let rs := (List.range 64).map fun i =>
          let x := mul32 (es.getD i 0) (ss.getD i 0)
          let y := mul32 x.1 0x3F317218
          let z := mul32 (gs.getD i 0) y.1
          (z.1, x.2 ||| y.2 ||| z.2)
        writeElems s c w.dst 32 g (rs.map fun r => r.1) = .ok c' → Completes (.stpmul w) s c w.h s (c'.orFlags (laneFlags 32 g rs))) ∧
      (∀ xs : List Nat, Issues s c w.h [w.a] g → Falls s c → readElems c 32 w.a = .ok xs →
        let n := if w.mod.getLsbD 0 then 32 else 16
        let rs := (List.range (64 / n)).map fun k => hadamard (if w.mod.getLsbD 1 || !w.mod.getLsbD 0 then 2 else 3) ((xs.drop (n * k)).take n)
        writeElems s c w.dst 32 g (rs.flatMap fun r => r.1) = .ok c' →
        Completes (.hadv w) s c w.h s (c'.orFlags (rs.foldl (fun f r => f ||| r.2) 0)))) ∧
  (∀ (w : FormA) (s : State) (c c1 c2 : Ctx) (g : Word) (d o : Nat),
      let e2 := w.mod.getLsbD 1
      let n := if w.mod.getLsbD 0 then 32 else 16
      Issues s c w.h [] g → Falls s c → c.loc w.dst = some d → c.loc w.b = some o →
      (∀ (k : Fin 48) (bs : List Byte), w.a = .v k → readRf c (c.vloc k) 512 = .ok bs →
        let had := w.mod.toNat / 4 % 4
        let qs := (List.range (128 / n)).map fun i =>
          let ys := ((splitElems 32 (numOf bs) 128).drop (n * i)).take n
          let t := if had = 0 then (ys, 0) else hadamard (if had = 1 then 2 else 3) ys
          (quantBlock e2 (fun j => rndFor s c w.opt (i * n + j) false false) t.1, t.2)
        let codes := qs.flatMap fun q => q.1.codes
        let bytes := bytesOf 256 (if e2 then encodeBlock.numNibbles codes else numOf (codes.map (BitVec.ofNat 8)))
        let side := bytesOf 16 (numOf (qs.map (fun q => BitVec.ofNat 8 q.1.scale) ++ (if e2 then qs.map fun q => BitVec.ofNat 8 q.1.spare else [])))
        bs.length = 512 → writeRf s c d 256 (cellsAt d bytes) = .ok c1 → writeRf s c1 o 16 (cellsAt o side) = .ok c2 →
        Completes (.qcvt w) s c w.h s (counted w.opt (c2.orFlags (qs.foldl (fun f q => f ||| (q.2 ||| q.1.flags)) 0))).clearLatch) ∧
      (∀ (a : Nat) (bs side : List Byte), c.loc w.a = some a → readRf c a (if e2 then 64 else 128) = .ok bs → readRf c o 16 = .ok side →
        let codes := if e2 then splitElems 4 (numOf bs) 128 else bs.map fun x => x.toNat
        let at_ := fun (i : Nat) => (side.getD i 0).toNat
        let rs := codes.zipIdx.map fun x => blockDec32 e2 x.1 (at_ (x.2 / n)) (at_ (128 / n + x.2 / n))
        bs.length = (if e2 then 64 else 128) → writeRf s c d 512 (cellsAt d (rs.flatMap fun r => bytesOf 4 r.1)) = .ok c1 →
        Completes (.dqcvt w) s c w.h s (c1.orFlags (rs.foldl (fun f r => f ||| r.2) 0)).clearLatch))

/-- The integer dot product is the exact sum of the accumulator and the products, wrapped to 32 bits, with IOV where that changes it (R309). The
floating dot product of finite values adds their exact sum to the accumulator and rounds once; the order of the terms does not matter (R309). -/
def Obligations.DotProducts : Prop :=
  (∀ (acc : Nat) (xs ys : List (BitVec 8)), xs.length = ys.length →
      let code := fun x : BitVec 8 => ofIntV x.toInt
      let sum := (BitVec.ofNat 32 acc).toInt + ((List.range xs.length).map fun i => (xs.getD i 0).toInt * (ys.getD i 0).toInt).sum
      (dotI acc (xs.map code) (ys.map code)).1 = (BitVec.ofInt 32 sum).toNat ∧
      ((dotI acc (xs.map code) (ys.map code)).2 = flagIOV ↔ (sum < -(2 ^ 31) ∨ 2 ^ 31 ≤ sum))) ∧
  ((∀ (acc : Nat) (xs ys : List FV), xs.length = ys.length → (∀ v ∈ xs ++ ys, FV.finite v = true) → FV.finite (decF fp32 acc) = true →
      ∃ v : FV, FV.finite v = true ∧ FV.rat v = FV.rat (decF fp32 acc) + ((xs.zip ys).map fun p => FV.rat p.1 * FV.rat p.2).sum ∧
        (dotF acc xs ys).1 = (roundF fp32 rne v).1) ∧
    (∀ (acc : Nat) (ps qs : List (FV × FV)), ps.Perm qs → dotF acc (ps.map fun p => p.1) (ps.map fun p => p.2) =
      dotF acc (qs.map fun p => p.1) (qs.map fun p => p.2)))

/-! ### Base dies, the fabric, tasks -/

/-- NMRED, NMGATH, NMFILL and NMCPY read one to eight packets from local memory, check them all, and give the base-die engine one command for each; they wait
while 32 commands would be exceeded. A malformed packet takes TEMPLATE. NMSTAT and NMSTAT.CAP read a stack's words (R352-R355, R364, R366). -/
def Obligations.NearMemoryInstructions : Prop :=
  (∀ (w : FormX) (s : State) (c : Ctx) (a : Word) (k : Nat) (plans : List BdPlan),
    let n := w.sub.toNat % 8 + 1
    let ps := (List.range n).map fun i => BdPacket.ofNum (numOf (s.readLoc c false (k + 128 * i) 128))
    Fires s c w.h [w.a] → readVal c w.a = .ok a → localRange s c a (128 * n) 128 = .ok k →
    ∀ x ∈ [(Instr.nmred w, 0), (.nmgath w, 1), (.nmfill w, 2), (.nmcpy w, 3)],
      ((∃ p ∈ ps, p.malformed x.2 = true) → Faults x.1 s c { code := fcTEMPLATE }) ∧
      ((∀ p ∈ ps, p.malformed x.2 = false) → (∀ p ∈ ps, p.bc ≠ 0 → ∃ r, tileGlobal s c p.bc 16 16 = .ok r) →
        (x.2 < 2 → ∀ p ∈ ps, ∃ r, tileGlobal s c p.dest (if x.2 = 0 then p.len else p.count * p.len) 64 = .ok r) →
        ps.zipIdx.mapM (fun y => planRows s c y.1 y.2) = .ok plans →
        ((s.basediesOf c).length + n ≤ 32 → Completes x.1 s c w.h (plans.foldl (fun t q => startBd t c q) s) c.clearLatch) ∧
        (32 < (s.basediesOf c).length + n → exec x.1 s = .next s))) ∧
  (∀ (s : State) (c : Ctx) (q : BdPlan), (startBd s c q).mem = s.mem ∧ (startBd s c q).staged = s.staged ∧ (startBd s c q).ctxs = s.ctxs ∧
    ∃ m, (startBd s c q).bd.cmds = s.bd.cmds ++ [m] ∧ m.task = c.task ∧ m.rank = c.rank ∧ m.left = m.subs ∧ m.bad = 0) ∧
  (∀ (w : FormX) (s : State) (c : Ctx) (b : Word), readVal c w.b = .ok b →
    (workGate s c .basedie = .ok () → GivesValue (.nmstat w) w.h w.a [w.b] s c (BitVec.ofNat 64 (s.bdStatus c (b.toNat % 8))) 0) ∧
    GivesValue (.nmstatCap w) w.h w.a [w.b] s c (BitVec.ofNat 64 (s.capability (b.toNat % 8))) 0)

/-- FSEND sends the bytes of a local range, as they are read at issue, to a package that takes part in the pod domain; it takes PEER without such a domain, and
waits while 64 are under way. FSTAT and RTRECV read status words (R395-R397, R420, R421). -/
def Obligations.SendingAndStatus : Prop :=
  (∀ (w : FormX) (s : State) (c : Ctx) (a : Word) (k : Nat), Fires s c w.h [w.a] → readVal c w.a = .ok a → localRange s c a 64 64 = .ok k →
    (c.bound 5 = false → Faults (.fsend w) s c { code := fcPEER }) ∧
    (∀ (d : Domain) (sk : Nat), podGate s c = .ok d →
      let q := SendDesc.ofNum (numOf (s.readLoc c false k 64))
      (q.malformed s.regs.podpackage = true → Faults (.fsend w) s c { code := fcTEMPLATE }) ∧
      (q.malformed s.regs.podpackage = false → localRange s c (BitVec.ofNat 64 q.src) q.length 1 = .ok sk →
        (q.lbc ≠ 0 → ∃ r, recordAt s c (BitVec.ofNat 64 q.lbc) .group = .ok r) →
        (s.reaches d q.dpkg = false → Faults (.fsend w) s c { code := fcPEER }) ∧
        (s.reaches d q.dpkg = true → 64 ≤ (s.fsendsOf c).length → exec (.fsend w) s = .next s) ∧
        (s.reaches d q.dpkg = true → (s.fsendsOf c).length < 64 → ∃ t m n p, Completes (.fsend w) s c w.h t c.clearLatch ∧
          t.mem = s.mem ∧ t.staged = s.staged ∧ t.ctxs = s.ctxs ∧ t.fab.fsends = s.fab.fsends ++ [m] ∧ m.data = s.readLoc c false sk q.length ∧
          m.dpkg = q.dpkg ∧ m.dtile = q.dtile ∧ m.dst = q.dst ∧ m.lbc = q.lbc ∧ t.fab.outbound = s.fab.outbound ++ [(n, p)] ∧ p.dst = q.dpkg ∧
          p.vc = (if q.ordered then 0 else 1) ∧ p.slack = q.slack)))) ∧
  (∀ (w : FormX) (s : State) (c : Ctx) (b : Word), readVal c w.b = .ok b →
    GivesValue (.fstatPort w) w.h w.a [w.b] s c (BitVec.ofNat 64 (s.port (b.toNat % 32)).word) 0 ∧
    (workGate s c .fabric = .ok () → GivesValue (.fstatWork w) w.h w.a [w.b] s c (BitVec.ofNat 64 (s.fabricWord c)) 0) ∧
    GivesValue (.fstatPod w) w.h w.a [w.b] s c (BitVec.ofNat 64 s.podcfg) 0 ∧
    GivesValue (.rtrecv w) w.h w.a [w.b] s c (BitVec.ofNat 64 ((s.slotState (b.toNat % 64)).1.word (s.slotState (b.toNat % 64)).2)) 0)

/-- ROUTE makes a list of tokens from entries in memory, which stays with the context until it is closed, and counts an overdue reply of a peer that it read
from; RTCLOSE closes the context's lists once every token has been
accepted, and writes how many there were (R411-R414). -/
def Obligations.Routing : Prop :=
  (∀ (w : FormX) (s : State) (c : Ctx) (a : Word) (k : Nat) (d : Domain) (bytes : List Byte) (data : List (List Byte)) (room : List Piece),
    Fires s c w.h [w.a] → readVal c w.a = .ok a → localRange s c a 64 64 = .ok k → podGate s c = .ok d →
    let x := numOf (s.readLoc c false k 64)
    let bounce := BitVec.ofNat 64 (bitsOf x 255 192)
    let tokbase := BitVec.ofNat 64 (bitsOf x 127 64)
    let bcap := bitsOf x 47 32
    let count := bitsOf x 31 16
    let slack := bitsOf x 15 0
    let raw := chunksOf 16 count bytes
    let es := raw.map fun b => SendEntry.ofNum (numOf b)
    bitsOf x 511 256 = 0 → bitsOf x 63 48 = 0 → count ≤ bcap → (s.listsOf c d).length < 256 →
    s.routeRead c slack (BitVec.ofNat 64 (bitsOf x 191 128)) (16 * count) = .ok bytes →
    (∀ e ∈ es, e.reserved = 0 ∧ e.offset % 64 = 0) →
    es.mapM (fun e => s.routeRead c slack (tokbase + BitVec.ofNat 64 e.offset) (64 * e.len)) = .ok data →
    s.pagePieces c true slack 0 (16 * bcap / 65536 + 3) bounce (16 + 16 * bcap) = .ok room →
    ∃ t l d', Completes (.route w) s c w.h t d'.clearLatch ∧ d'.rf = c.rf ∧
      ((∀ q ∈ s.fab.requests, q.id = routeReq → q.ctx = c.key → s.packetsOverdue (.reply q.num) = false) → d' = c) ∧ t.mem = s.mem ∧ t.staged = s.staged ∧ t.ctxs = s.ctxs ∧ t.fab.lists = s.fab.lists ++ [l] ∧
      l.task = c.task ∧ l.rank = c.rank ∧ l.domain = d.id ∧ l.entries = raw ∧ l.bounce = bounce ∧ l.closed = false) ∧
  (∀ (w : FormX) (s : State) (c d' : Ctx),
    let mine := fun (l : RouteList) => l.task = c.task ∧ l.rank = c.rank ∧ l.closed = false
    Fires s c w.h [] → parkGate s c = .ok () → (∀ l ∈ s.fab.lists, mine l → l.unaccepted = []) →
    (∀ r, c.arrival = some r → r.level = 5 → r.done.isSome = true) →
    writeOpt s { c.endRegion with rtBatch := c.rtBatch + 1 } w.a (BitVec.ofNat 64 (s.fab.lists.filter fun l => decide (mine l)).length) = .ok d' →
    ∃ t, CompletesPark (.rtclose w) s c w.h t d' ∧ t.mem = s.mem ∧ t.staged = s.staged ∧ t.ctxs = s.ctxs ∧
      t.fab.lists = s.fab.lists.map (fun l => if mine l then { l with closed := true } else l) ∧
      (∀ d, s.domOf c 5 = some d → t.domains = s.domains.map fun e =>
        if d.is e then { e with routing := true, closed := e.closed ++ [(c.rank, c.rtBatch)] } else e) ∧
      (s.domOf c 5 = none → t.domains = s.domains))

/-- COLL posts a collective from its block and answers 0, or answers 1 where its key is in use in this step; a malformed block takes TEMPLATE. COLLWAIT answers
the status of the collective of a key, once it has one (R399-R403, R408). -/
def Obligations.Collectives : Prop :=
  (∀ (w : FormX) (s : State) (c c' : Ctx) (a : Word) (k k2 : Nat) (d : Domain) (src : List Byte), Fires s c w.h [w.b] → readVal c w.b = .ok a →
    localRange s c a 64 32 = .ok k →
    let head := s.readLoc c false k 64
    let n := bitsOf (numOf head) 15 6
    let recs := s.readLoc c false (k2 + 64) (32 * n)
    let b := CollBlock.ofNums (numOf (head.take 32)) (numOf (head.drop 32)) ((chunksOf 32 n recs).map numOf)
    let root := ((b.nodes[b.self]?).map fun x => x.parent) == some 0x3FF
    let len := b.count * collWidth b.type
    let id : CollId := { domain := d.id, key := b.key, step := BitVec.ofNat 32 (c.snapshot.getD 4 0) }
    localRange s c a (64 + 32 * n) 32 = .ok k2 → podGate s c = .ok d →
    (b.malformed d s.regs.podpackage = true → Faults (.coll w) s c { code := fcTEMPLATE }) ∧
    (b.malformed d s.regs.podpackage = false →
      (if usesSrc b.kind root then ∃ ps, rowPieces s c false b.slack 0 (len / 65536 + 2) b.src len = .ok ps ∧
          s.waitFree c (spanAt c.key.tile (s.fromHome c b.src) len) false = .ok () ∧ src = s.imageBytes c ps
        else src = []) →
      (usesDst b.kind root = true → ∃ ps, rowPieces s c true b.slack 0 (len / 65536 + 2) b.dst len = .ok ps) →
      ((∃ m ∈ s.fab.colls, m.id = id) → writeVal s c w.a 1 = .ok c' → Completes (.coll w) s c w.h s c') ∧
      ((∀ m ∈ s.fab.colls, m.id ≠ id) → (s.fab.colls.filter fun m => m.status.isNone).length < 64 → s.collLogRoom = true →
        writeVal s c w.a 0 = .ok c' → Completes (.coll w) s c w.h (postColl s c' b id (numOf (sha3 (head.take 32 ++ recs))) src) c'))) ∧
  (∀ (w : FormX) (s : State) (c d : Ctx) (key : Word) (x : Nat), Fires s c w.h [w.b] → readVal c w.b = .ok key → parkGate s c = .ok () →
    workGate s c .fabric = .ok () →
    let mine := fun (m : Coll) => c.isOwner m.task m.rank && m.id.key == key.truncate 32 && m.id.step == BitVec.ofNat 32 (c.snapshot.getD 4 0) &&
      m.id.domain == c.domId 5
    (s.fab.colls.find? mine = none ∧ x = 1 ∨ ∃ m, s.fab.colls.find? mine = some m ∧ m.status = some x) →
    writeOpt s c.endRegion w.a (BitVec.ofNat 64 x) = .ok d → CompletesPark (.collwait w) s c w.h s d)

/-- SPAWN sends an active message at once, or defers it with the step; TDONE defers a decrement of a successor; TCBRDY answers the status of a submission, and
enters the task in the table on 0; TASKID and RANKRD describe the task (R274, R294-R297). -/
def Obligations.TaskInstructions : Prop :=
  (∀ (w : FormX) (s : State) (c : Ctx) (a : Word), Fires s c w.h [w.a] → readVal c w.a = .ok a →
    checkPrivate a 32 32 0 false true = .ok .localMem →
    let k := localKey c.key.tile a.toNat
    let bs := s.readLoc c false k 32
    s.waitFree c { virt := false, lo := k, len := 32 } false = .ok () →
    (messageOf s.seq bs false = none → Faults (.spawn w) s c { code := fcUNMAPPED, addr := a }) ∧
    (∀ m, messageOf s.seq bs false = some m →
      (w.sub.getLsbD 0 = true → (s.tile m.tile).msgq.length < 16 → Completes (.spawn w) s c w.h ({ s with seq := s.seq + 1 }.sendMessage m c.key.tile) c.clearLatch) ∧
      (w.sub.getLsbD 0 = false → deferGate s c = .ok () → Completes (.spawn w) s c w.h (s.defer c (.message bs)) c.clearLatch))) ∧
  (∀ (w : FormX) (s : State) (c : Ctx) (a : Word), Fires s c w.h [w.a] → blockAddr c w.a = .ok a → deferGate s c = .ok () →
    Completes (.tdone w) s c w.h (s.defer c (.decrement a)) c.clearLatch) ∧
  (∀ (w : FormX) (s : State) (c c' : Ctx) (a : Word) (bs ss rs : List Byte), Fires s c w.h [w.b] → blockAddr c w.b = .ok a →
    readBlock s c a 128 = .ok bs →
    let n := numOf bs
    let rc := bitsOf n 447 384
    let nsucc := bitsOf n 191 184
    readBlock s c (BitVec.ofNat 64 (bitsOf n 319 256)) (8 * nsucc) = .ok ss → readBlock s c (BitVec.ofNat 64 rc) (if rc = 0 then 0 else 64) = .ok rs →
    let b := blockOf n (wordsOf ss nsucc) (if rc = 0 then none else some (numOf rs))
    let st := s.submitStatus a (s.blockMalformed n || (rc != 0 && recordMalformed (numOf rs))) b
    let r := s.submit a (BitVec.ofNat 32 (bitsOf n 63 32)) b (some { task := c.task, rank := c.rank })
    (s.blockMalformed n = true → st = 1) ∧
    (writeVal s c w.a (BitVec.ofNat 64 st) = .ok c' →
      (st ≠ 0 → Completes (.tcbrdy w) s c w.h s c') ∧
      (st = 0 → b.preds ≠ 0 → Completes (.tcbrdy w) s c w.h r.2 c') ∧
      (st = 0 → b.preds = 0 → deferGate s c = .ok () → Completes (.tcbrdy w) s c w.h (r.2.defer c' (.tcb r.1)) c'))) ∧
  (∀ (w : FormX) (s : State) (c : Ctx),
    GivesValue (.rankrd w) w.h w.a [] s c (BitVec.ofNat 64 c.rank) 0 ∧
    (∀ t, s.task? c.task = some t →
      GivesValue (.taskid w) w.h w.a [] s c (BitVec.ofNat 64 (t.tid.toNat + t.blk.prio * 2 ^ 32 + (if t.blk.restart then 2 ^ 34 else 0) +
        (if t.blk.reloc then 2 ^ 35 else 0) + (if t.rerun then 2 ^ 36 else 0))) 0 ∧
      GivesValue (.rankrdShape w) w.h w.a [] s c (BitVec.ofNat 64 (t.blk.w + t.blk.h * 2 ^ 8 + t.blk.k * 2 ^ 16 +
        if t.blk.gang then 2 ^ 24 else 0)) 0) ∧
    (s.task? c.task = none → GivesValue (.taskid w) w.h w.a [] s c 0 0 ∧ GivesValue (.rankrdShape w) w.h w.a [] s c 0 0))

/-! ### The supervisor's instructions -/

/-- PREEMPT, RESUME and RELOC begin their action on a task and wait for it, and answer 0 when it is done; they answer 1 where no task has the
identifier, and another status where the task's phase does not allow the action (R284, R287-R289, R298). RESUME.CTX lets a faulted context go on
at its restart point, RESUME.REMOVE takes it out of its task; both answer 1 for no context and 2 for one that has not faulted (R197, R288, R298). -/
def Obligations.TaskControl : Prop :=
  (∀ (w : FormX) (s : State) (c c' : Ctx) (b : Word), c.supervisor = true → readVal c w.b = .ok b →
      let gives := fun (i : Instr) (t : State) (st : Nat) => writeVal t c w.a (BitVec.ofNat 64 st) = .ok c' → CompletesPark i s c w.h t c'
      let waits := fun (i : Instr) (t : State) => exec i s = .next (t.updCtx c fun d => { d with wait := .action })
      (Fires s c w.h [w.b] → parkGate s c = .ok () → c.wait ≠ .action →
        (s.taskByTid b = none → gives (.preempt w) s 1 ∧ gives (.preemptKill w) s 1 ∧ gives (.resume w) s 1) ∧
        (∀ t, s.taskByTid b = some t → t.stopping = [] →
          (t.phase = .stopped ∨ t.num = c.task → gives (.preempt w) s 2 ∧ gives (.preemptKill w) s 2) ∧
          (t.phase = .running → t.num ≠ c.task → waits (.preempt w) (s.beginStop t.num 0) ∧ waits (.preemptKill w) (s.beginStop t.num 1)) ∧
          (t.phase = .waiting ∨ t.phase = .ready → t.num ≠ c.task → gives (.preempt w) s 2 ∧ gives (.preemptKill w) (s.terminate t.num) 0) ∧
          (t.phase ≠ .stopped → gives (.resume w) s 2) ∧
          (t.phase = .stopped → t.resuming = false →
            waits (.resume w) (s.updTask t.num fun u => { u with resuming := true, readyAt := s.ticks })))) ∧
      (Fires s c w.h [w.b] → c.wait = .action →
        (s.taskByTid b = none → gives (.preempt w) s 0 ∧ gives (.preemptKill w) s 0 ∧ gives (.resume w) s 0) ∧
        (∀ t, s.taskByTid b = some t → t.stopping = [] →
          (t.phase = .stopped → t.num ≠ c.task → gives (.preempt w) s 0 ∧ gives (.preemptKill w) s 0) ∧ (t.phase ≠ .stopped → gives (.resume w) s 0))) ∧
      (∀ o : Word, Fires s c w.h [w.b, w.c] → readVal c w.c = .ok o →
        (parkGate s c = .ok () → c.wait ≠ .action →
          (s.taskByTid b = none → gives (.reloc w) s 1) ∧
          (∀ t, s.taskByTid b = some t → t.stopping = [] →
            (t.blk.reloc = false ∨ t.phase = .waiting ∨ t.phase = .ready → gives (.reloc w) s 3) ∧
            (t.blk.reloc = true → t.phase = .running → o.toNat ∈ alignedOrigins t.blk.w t.blk.h → dieOfTile o.toNat ≠ dieOfTile t.origin →
              s.isCandidate t o.toNat = true →
              waits (.reloc w) ((s.updTask t.num fun u => { u with target := some o.toNat, readyAt := s.ticks }).beginStop t.num 0)))) ∧
        (c.wait = .action → ∀ t, s.taskByTid b = some t → t.phase = .running → t.target = none → gives (.reloc w) s 0))) ∧
  (∀ (w : FormX) (s : State) (c c' : Ctx) (b : Word), c.supervisor = true → readVal c w.b = .ok b → Fires s c w.h [w.b] → parkGate s c = .ok () →
      let named := s.ctx? { tile := bitsOf b.toNat 12 3, num := b.toNat % 8 }
      let gives := fun (i : Instr) (t : State) (own : Ctx) (st : Nat) => writeVal t own w.a (BitVec.ofNat 64 st) = .ok c' → CompletesPark i s c w.h t c'
      (named = none → gives (.resumeCtx w) s c 1 ∧ gives (.resumeRemove w) s c 1) ∧
      (∀ d, named = some d →
        (d.faulted = none → gives (.resumeCtx w) s c 2 ∧ gives (.resumeRemove w) s c 2) ∧
        (d.faulted ≠ none →
          let t := (s.setCtx { d with faulted := none }).resumePark { d with faulted := none }
          gives (.resumeCtx w) t (t.again c) 0 ∧ gives (.resumeRemove w) (s.removeCtx d) c 0)))

/-- PGINFO and CNTRD describe a page; TLBINV invalidates cached translations and waits until the accesses that used them are done; MIGR begins a migration, or
answers why it cannot, and answers its status when it has ended (R341, R345-R347). That its walk sets accessed where a status refuses the migration is the
model's reading (log entry 97). -/
def Obligations.TranslationInstructions : Prop :=
  (∀ (w : FormX) (s : State) (c : Ctx) (a : Word) (e : Option Leaf) (bad : Bool), pageAddr c w.b = .ok a → lookPage s c a = .ok (e, bad) →
    GivesValue (.pginfo w) w.h w.a [w.b] s c (if bad then 256 else BitVec.ofNat 64 ((e.map pageInfo).getD 0)) 0 ∧
    (∀ l, e = some l → l.tier ≠ 3 → l.cnt = true →
      let k := s.counter l.cslot
      GivesValue (.cntrd w) w.h w.a [w.b] s c (BitVec.ofNat 64 (k.count + 2 ^ 16 + if l.cslot ∈ s.xlat.notified then 2 ^ 17 else 0)) 0) ∧
    (e = none ∨ (∃ l, e = some l ∧ (l.tier = 3 ∨ l.cnt = false)) → GivesValue (.cntrd w) w.h w.a [w.b] s c 0 0)) ∧
  (∀ (w : FormX) (s : State) (c : Ctx), c.supervisor = true →
    let inv := fun (i : Instr) (lo n : Nat) =>
      (c.wait ≠ .action → parkGate s c = .ok () →
        exec i s = .next (((s.invalidate lo n).sendInvalidation c).updCtx c fun d => { d with wait := .action })) ∧
      (c.wait = .action → s.pageInUse lo n = true ∨ s.packetsDone (.inval c.key) = false → exec i s = .next s) ∧
      (c.wait = .action → s.pageInUse lo n = false → s.packetsDone (.inval c.key) = true →
        CompletesPark i s c w.h (s.dropPackets (.inval c.key)) c.clearLatch)
    (∀ a n : Word, Fires s c w.h [w.a, w.b] → pageAddr c w.a = .ok a → readVal c w.b = .ok n → inv (.tlbinv w) (vaOf a) n.toNat) ∧
    (Fires s c w.h [] → inv (.tlbinvAll w) 0 (2 ^ 57))) ∧
  (∀ (w : FormX) (s : State) (c c' : Ctx) (a t : Word), c.supervisor = true → Fires s c w.h [w.b, w.c] → pageAddr c w.b = .ok a → readVal c w.c = .ok t →
    let gives := fun (u : State) (st : Nat) => writeVal u c w.a (BitVec.ofNat 64 st) = .ok c' → CompletesPark (.migr w) s c w.h u c'
    (c.wait ≠ .action → parkGate s c = .ok () →
      (s.xlatOn = false ∨ s.walkAll (vaOf a) = .unmapped → gives s 1) ∧ (s.xlatOn = true → s.walkAll (vaOf a) = .malformed → gives s 5) ∧
      (∀ e, s.xlatOn = true → s.walkAll (vaOf a) = .leaf e →
        let u := if e.accessed then s else s.orEntry e.at_ 128
        let taken := e.wblock = true ∨ e.poison = true ∨ ∃ m ∈ s.xlat.migrations, m.leaf.va = e.va ∧ m.status = none
        (e.tier = 3 → gives u 1) ∧ (e.tier ≠ 3 → taken → gives u 2) ∧ (e.tier ≠ 3 → ¬taken → targetBad e t.toNat = true → gives u 3) ∧
        (e.tier ≠ 3 → ¬taken → targetBad e t.toNat = false → (s.xlat.migrations.filter fun m => m.status.isNone).length < 8 →
          exec (.migr w) s = .next ((u.beginMigration c e t).updCtx c fun d => { d with wait := .action })))) ∧
    (c.wait = .action →
      (∀ m st, s.xlat.migrations.find? (fun m => m.ctx.any fun i => i.is c) = some m → m.status = some st →
        gives { s with xlat := { s.xlat with migrations := s.xlat.migrations.filter fun x => x != m } } st) ∧
      ((∀ m ∈ s.xlat.migrations, ∀ i, m.ctx = some i → i.is c = false) → gives s 0)))

/-! ### Events -/

/-- The events of a context: an undefined opcode is ILLEGAL (R85, R88); a register line is filled (R128); an error of a register is corrected and counted,
or a hardware error (R129); the end of a WFE or YIELD (R146, R147), the entry of its handler with the first queued event (R204, R205), forwarded words
(R137), the bound of an engine wait (R214), the return of results and the faults that requests find (R134, R242, R386, R414). -/
def Obligations.ContextEvents : Prop :=
  ∀ s : State,
    (∀ c, s.ctx? s.sel.ctx = some c →
      (∀ w, (c.live = [] → Happens (.undefinedOpcode w) s (s.takeFault c { code := fcILLEGAL })) ∧ (c.live ≠ [] → Happens (.undefinedOpcode w) s s)) ∧
      (∀ ls, c.want = some ls → s.sel.a ∈ ls → ∃ t, Happens .registerCacheFill s t ∧ t = s.fillLine c s.sel.a ∧
        (∀ d ∈ t.ctxs, d.same c = true → s.sel.a ∈ d.lines) ∧ t.ctxs.map (fun d => d.rf) = s.ctxs.map (fun d => d.rf)) ∧
      (∀ (w : FormA) (d : Nat) (x : Word) (c' : Ctx), c.wait = .wfe w (some d) → d ≤ s.cycle → c.evq = [] → c.follower = false →
        let s1 := s.updCtx c fun e => { e with wait := .wfe w (some 0) }
        let c1 := { c with wait := .wfe w (some 0) }
        Fires s1 c1 w.h [w.a] → readVal c1 w.a = .ok x → c.heldAt c.pc = false → c.live = [] → c.badToken = none → writeVal s1 c1 w.dst 0 = .ok c' →
        Happens .wfeLimitExpiry s
          (forwardIssue c (.wfe w) ((encode (.wfe w)).getD 0) (({ s := s1, c := c', ends := true } : Done).finish c1 w.h))) ∧
      (∀ d, c.wait = .yield d → d ≠ 0 → (d ≤ s.cycle ∨ s.othersReady c = false) →
        Happens .yieldExpiry s (s.updCtx c fun x => { x with wait := .yield 0 })) ∧
      (∀ e r, c.evq = e :: r → c.deliverable = true → c.faulted = none →
        let cw := { c with wait := .entry }
        let c1 := { c with evq := r }.endRegion
        let d := { c1 with
          uleSaved := some { pc := c.pc, latch := c.latch, latchTok := c.latchTok, blockEnd := c.blockEnd, atHeader := c.atHeader, next := none },
          uleKind := e.kind, uleActive := true, pc := c.ulevec, atHeader := true, blockEnd := 0, latch := .empty, latchTok := none, wait := .none,
          want := none,
          rf := c1.rf.write 0x8800 (bytesOf 8 (e.kind + 256 * (e.src % 256)) ++ bytesOf 8 e.payload.toNat ++ bytesOf 8 c.pc.toNat) }
        (c.live ≠ [] → Happens .userEventEntry s (s.setCtx cw)) ∧
        (∀ t, c.live = [] → c.badToken = some t → Happens .userEventEntry s
          ((s.setCtx cw).takeFault cw { code := t.bad, inflight := true, addr := t.spot, element := t.element })) ∧
        (c.live = [] → c.badToken = none → Happens .userEventEntry s ((s.setCtx d).forwardEntry d e))) ∧
      (∀ f r, c.fwdWire = f :: r → f.due ≤ s.cycle →
        Happens .gangForwardArrival s (s.updCtx c fun x => { x with fwd := x.fwd ++ [f], fwdWire := r })) ∧
      (∀ d, c.wait = .engine (some d) → d ≤ s.ticks → c.faulted = none → Faults .waitTimeout s c { code := fcTIMEOUT }) ∧
      (∀ t ∈ c.outstanding, s.sel.b = 0 → s.sel.c ≠ 0 → s.tokenFault t = s.sel.c →
        let c' := { c with outstanding := c.outstanding.map fun u => if s.tokenFault u = s.sel.c then u.fail s.sel.c (s.tokenSpot u) else u }
        Happens .exchangeInflightFault s ((s.setCtx c').settle c')) ∧
      (∀ t, c.outstanding[s.sel.a]? = some t → s.sel.c = 0 → t.kind ≠ mxKind → t.bad = 0 → t.held = none → s.packetsDone (.token t.id) = true →
        s.tokenUnplaced t = false → s.tokenPoisoned t = false → s.tokenRetried c.key t = false →
        (∀ q ∈ s.fab.requests, q.id = t.id → q.channel = none → q.got.isSome = true ∧ s.packetsDone (.reply q.num) = true) → s.sel.flag = s.returnLate t →
        ∃ u, Happens (.resultReturn (s.returnData t)) s u ∧ (t.writes = [] → u.mem = s.mem) ∧
          (c.wait = .none → ∃ d, u.ctx? s.sel.ctx = some d ∧ d.outstanding = c.outstanding.eraseIdx s.sel.a ∧ d.pc = c.pc ∧
            (t.keys = [] → c.rf.wf = true → ∀ x, d.rf.get x = ((t.cells.reverse.find? fun y => y.1 == x).map fun y => y.2).getD (c.rf.get x))))) ∧
    (∀ c ∈ s.ctxs, s.ctxs.find? (fun d => d.key == s.sel.ctx && d.stopped == s.sel.flag && !d.evicted) = some c →
      (∀ p, Happens (.registerEccError true p) s { s with corrected := s.corrected + 1 }) ∧
      ∀ p, Happens (.registerEccError false p) s
        (((s.postEngine (some c) (s.tidOf c.task) c.rank 0).updCtx c fun d => { d with faulted := some (d.faulted.getD 0) }).tileError c.key.tile
          (s.tasks.filter fun t => t.num == c.task) p)) ∧
    (∀ q, s.fab.requests.find? (fun q => q.num + 1 == s.sel.b && !q.lost && q.got.isNone && q.write) = some q → s.sel.c = fcSTAGINGFULL →
      Happens .exchangeInflightFault s (s.requestBad q fcSTAGINGFULL)) ∧
    (s.sel.c = 1 →
      (∀ q data, s.fab.requests.find? (fun q => q.num == s.sel.b && !q.lost && q.got.isNone) = some q → data.length = (if q.write then 0 else q.len) →
        (∀ m ∈ s.xlat.migrations, m.req ≠ q.id) →
        let s0 := if s.fillNow q then s.cacheLines (fillLines q data) else s
        let s1 := { s0 with fab := { s0.fab with requests := s0.fab.requests.map fun (p : RemoteReq) => if p.num = q.num then { p with got := some data } else p } }
        Happens (.resultReturn data) s (s1.replyLeg q.num q.peer q.ctx.tile s.sel.a s.sel.flag data.length)) ∧
      ∀ data, (∀ q ∈ s.fab.requests, q.num ≠ s.sel.b) → (∀ m ∈ s.fab.fsends, m.id ≠ s.sel.b) → Happens (.resultReturn data) s s) ∧
    (∀ l data, s.sel.c = 2 →
      s.fab.lists.find? (fun l => l.ctx == s.sel.ctx && !l.closed && l.num == s.sel.a && l.unaccepted.contains s.sel.b) = some l →
      Happens (.resultReturn data) s (s.acceptToken l s.sel.b s.sel.flag))

/-- The events of the package's thread engines: a tick charges what is queued and moves the clocks on, an arbiter grants its winner, a fetched word
enters the instruction buffer, unless its page has been poisoned, and a fault record enters the supervisor's queue (R89, R102, R107 to R110, R207, R343). -/
def Obligations.PackageEvents : Prop :=
  ∀ s : State,
    (s.tickAt ≤ 10 * s.cycle → ∃ t, Happens .slackTick s t ∧ t.ticks = s.ticks + 1 ∧ t.podtime = (s.podtime + 1) % 2 ^ 64 ∧
      t.packets = s.packets.map Packet.tick ∧ t.xlat.walks = s.xlat.walks.map Walk.tick ∧ t.fab = s.fab.tick ∧ t.mem = s.mem ∧ t.ctxs = s.ctxs ∧
      t.tiles = s.tiles.map (fun u => { u with channels := u.channels.map fun ch => ch.tick (segmentWaits s u.num ch.num) }) ∧
      t.tickAt = s.tickAt + tickTenths s.host.clockStep) ∧
    (∀ p, s.sel.a < portArbiter 0 ∨ portArbiter 32 ≤ s.sel.a → s.winnerAt s.sel.a = some p → s.outFree s.sel.a = true →
      Happens .packetArbitration s (s.grant s.sel.a p)) ∧
    (∀ t n, n < 32 → s.sel.a = portArbiter n → s.portNext n = some t → Happens .packetArbitration s t) ∧
    (∀ c f r, s.ctx? s.sel.ctx = some c → s.fetched c = f :: r → s.sel.flag = s.packetsOverdue (.fetch c.task c.rank f.addr) →
      ∃ t, Happens .instructionFetchReply s t ∧ t.mem = s.mem ∧ (s.pagePoisoned f.page.1 = true → t.tiles = s.tiles) ∧
        (s.pagePoisoned f.page.1 = false → ({ addr := f.addr, task := c.task, user := f.user, word := s.codeWord c.task f.key } : CodeWord) ∈
          (t.tile c.key.tile).ibuf)) ∧
    (∀ r rest, s.sfqWait = r :: rest → s.regs.sfqsize ≠ 0 → (s.regs.sfqtail + 2 ^ 32 - s.regs.sfqhead) % 2 ^ 32 < 2 ^ s.regs.sfqsize →
      s.packetsDone (.note r.id) = true →
      Happens .sfqPost s
        { s.dropPackets (.note r.id) with
          mem := s.mem.write (bitsOf s.regs.sfqbase.toNat 38 12 * 4096 + 64 * (s.regs.sfqtail % 2 ^ s.regs.sfqsize)) r.bytes,
          sfqWait := rest, regs := { s.regs with sfqtail := (s.regs.sfqtail + 1) % 2 ^ 32 } })

/-- The events of the step engine and the block transfer engine: an arrival reaches its domain; a step whose members have all arrived or are absent ends,
and its counter advances, unless a migration holds back what it would commit; a late one is reported; a copy makes its runs, stops at a fault, completes;
the byte-count unit applies what it received (R221, R228, R232, R238, R249, R251, R261, R341, R391). -/
def Obligations.StepAndTransferEvents : Prop :=
  ∀ s : State,
    (∀ c l x y d, s.ctx? s.sel.ctx = some c → c.arrival = some { level := l, sent := some x, sync := y, done := none } → s.domOf c l = some d →
      s.packetsDone (.arrival c.task c.rank) = true →
      Happens .barrierArrival s
        (((s.updDomains d.is fun e => { e with arrived := e.arrived ++ [x], since := some (e.since.getD s.ticks) }).updCtx c
          fun u => { u with arrival := some { level := l, sent := none, sync := y, done := none } }).dropPackets (.arrival c.task c.rank))) ∧
    (∀ d, s.domain? s.sel.a s.sel.b s.sel.c = some d →
      (s.stepReady d = true → s.commitBlocked d = false → ∃ t e, Happens .stepCompletion s t ∧ t.domain? s.sel.a s.sel.b s.sel.c = some e ∧
        e.counter = (d.counter + 1) % 2 ^ 32 ∧ e.arrived = [] ∧ e.absent = []) ∧
      (s.stepReady d = true → s.commitBlocked d = true → s.noteCommit d ≠ s → Happens .stepCompletion s (s.noteCommit d)) ∧
      (s.podReady d = true → Happens .stepCompletion s (s.contribute d)) ∧
      (s.stepLate d = true → Happens .stepTimeout s
        ({ s.updDomains d.is fun e => { e with timedOut := true } with free := s.free + 1 }.postEngine none d.tid 0 (s.timeoutDetail d)))) ∧
    (∀ t, reinstall s s.sel.a s.sel.b = none → (runCopy s s.sel.a s.sel.b = .ok t ∨ runCopy s s.sel.a s.sel.b = .error (.note t)) →
      Happens .copyRun s t) ∧
    (∀ t, reinstall s s.sel.a s.sel.b = some t → Happens .copyRun s t) ∧
    (∀ code a, runCopy s s.sel.a s.sel.b = .error (.bad code a) → s.sel.c = code → ∃ t, Happens .copyInflightFault s t ∧ t.mem = s.mem ∧
      ((t.tile s.sel.a).channel s.sel.b).state = .faulted ∧ ((t.tile s.sel.a).channel s.sel.b).fault = code ∧
      ((t.tile s.sel.a).channel s.sel.b).faultAddr = a) ∧
    (copyDone s ((s.tile s.sel.a).channel s.sel.b) = true →
      ∃ t, Happens .copyComplete s t ∧ t.mem = s.mem ∧ ((t.tile s.sel.a).channel s.sel.b).state = .complete) ∧
    (∀ i r, (s.tile s.sel.a).bcq = i :: r →
      let s1 := s.updTile s.sel.a fun t => { t with bcq := r }
      (∀ k, i.post = some k → Happens .bcPostApply s (s1.applyBc i.key ((s1.bcRecord i.key).post i.amount k.num))) ∧
      (i.post = none → let s2 := s1.countDelivery i.key i.work
        Happens .bcArrival s (s2.applyBc i.key ((s2.bcRecord i.key).arrive i.amount))))

/-- The events of the dispatch engine: placing, resuming and moving tasks, reservations and their reports, stopping, retirement, images, commit holds,
predecessors, active messages, balancing, and hardware errors (R274-R281, R284-R292). -/
def Obligations.DispatchEvents : Prop :=
  ∀ s : State,
    (∀ t o, s.nextPlaced = some (t, o) → t.num = s.sel.a →
      (t.phase = .ready → Happens .taskPlacement s (s.placeTask t o)) ∧
      (t.phase = .stopped → t.resuming = true → t.target = none → Happens .taskResume s (s.resumeAt t o)) ∧
      (t.phase = .stopped → t.target.isSome = true → Happens .taskRelocation s (s.moveAndResume t o))) ∧
    (∀ t, s.task? s.sel.a = some t →
      (∀ o, t.waits = true → t.reserved = none → t.readyAt + s.placeWait ≤ s.ticks → s.reservationFor t = some o →
        Happens .reservation s (s.updTask t.num fun u => { u with reserved := some (o, s.ticks, false) })) ∧
      (∀ o since, t.reserved = some (o, since, false) → since + s.placeLimit ≤ s.ticks →
        Happens .placementStall s ((s.updTask t.num fun u => { u with reserved := some (o, since, true) }).dispatchRecord 1 t o)) ∧
      (s.traceMode = 2 → t.waits = true → t.traceTold = false → t.readyAt + s.placeLimit ≤ s.ticks →
        (∀ o ∈ s.originsFor t, s.traceIsNext t.blk.trace t.blk.k o (t.blk.tiles o) = false) →
        Happens .traceMiss s ((s.updTask t.num fun u => { u with traceTold := true }).dispatchRecord 8 t t.origin)) ∧
      (s.sel.b ∈ t.stopping → s.packetsDone (.stop t.num s.sel.b) = true → ∃ u, Happens .taskStop s u ∧ ∀ c ∈ u.ctxs, c.task = t.num → c.key.tile = s.sel.b → c.stopped = true) ∧
      (t.phase = .running → t.stopping = [] → s.taskIdle t.num = true → s.writesBlocked (fun e => e.ofTask t.num) = false →
        ∃ u, Happens .taskRetire s u ∧ u.task? t.num = none ∧ u.decrements = s.decrements ++ t.blk.succ.map fun a => { addr := a, tid := t.tid, origin := t.origin })) ∧
    (∀ x, s.deferred.find? (fun x => x.task == s.sel.a && x.rank == s.sel.b) = some x → x.ripe = true →
      let s1 := { s with deferred := s.deferred.filter fun y => y != x }
      (∀ n, x.what = .tcb n → Happens .commitHoldEnd s (s1.updTask n fun t => { t with hold := none })) ∧
      (∀ a, x.what = .decrement a →
        Happens .commitHoldEnd s { s1 with decrements := s1.decrements ++ [{ addr := a, tid := x.tid, origin := x.origin }] }) ∧
      (∀ bs m, x.what = .message bs → messageOf s.seq bs false = some m → s.messagesFull m.tile = false →
        Happens .commitHoldEnd s ({ s1 with seq := s.seq + 1 }.sendMessage m x.origin))) ∧
    (∀ d r, s.decrements = d :: r →
      let s1 := { s with decrements := r }
      (∀ t, s.tasks.find? (fun t => t.addr == some d.addr) = some t → t.count ≠ 0 →
        let s2 := s1.updTask t.num fun u => { u with count := u.count - 1 }
        Happens .predecessorDecrement s (if t.count = 1 then s2.makeReady t.num else s2)) ∧
      ((∀ t ∈ s.tasks, t.addr ≠ some d.addr) →
        Happens .predecessorDecrement s (s1.postEngine none d.tid 0 (dispatchDetail 2 d.addr.toNat d.origin)))) ∧
    (∀ m, s.messages[s.sel.a]? = some m → s.packetsDone (.message m) = true → s.messagesFull m.tile = false →
      ∃ t, Happens .activeMessageArrival s t ∧ (t.tile m.tile).msgq = (s.tile m.tile).msgq ++ [m]) ∧
    (∀ m, headMessage (s.tile s.sel.a).msgq = some m → s.messageStarts m = true →
      ∃ t, Happens .activeMessageStart s t ∧ t.tasks.length = s.tasks.length + 1) ∧
    (∀ c u, s.ctxs.find? (fun c => c.key == s.sel.ctx && c.stopped && !c.evicted && s.slotWanted c.key.tile) = some c → s.freeSave = some u →
      ∃ t, Happens .imageEvict s t ∧ t.saved = s.saved ++ [(c.task * 65536 + c.rank, u)]) ∧
    (∀ busy, s.balancedAt + bitsOf s.regs.balctl.toNat 39 8 ≤ s.ticks → ∃ t, Happens (.balancePeriod busy) s t ∧ t.balancedAt = s.ticks) ∧
    (∀ p, s.sel.a < 768 → Happens (.hardwareError p) s (s.tileError s.sel.a (s.tasksOn s.sel.a) p))

/-- The events of the matrix engine, of translation and migration, and of the base dies (R300, R320, R334, R339-R343, R351, R358, R361-R363). -/
def Obligations.MemorySystemEvents : Prop :=
  ∀ s : State,
    (∀ m r c t d rest, let s1 := s.refillQueue s.sel.a
      (s1.tile s1.sel.a).mq = m :: r → s1.member? m.task m.rank = some c → runCmd s1 c m = some (t, d, rest) →
      Happens .matrixCommandExecute s (((t.updTile t.sel.a fun u => { u with mq := rest.toList ++ r }).setCtx d).settle d)) ∧
    (∀ c b, s.ctx? s.sel.ctx = some c → replayBank s c s.sel.flag = some b →
      Happens .bankReplay s (s.updTile c.key.tile fun t => t.load c.task c.rank b)) ∧
    (∀ w, s.xlat.walks.find? (fun w => w.is s.sel.b s.sel.a && w.running && s.packetsDone (.walk w.die w.page)) = some w →
      Happens .tableWalk s (s.stepWalk w)) ∧
    (∀ t, s.xlat.touches.find? (fun t => t.die == s.sel.a && s.packetsDone (.touch t.id)) = some t → s.counterFits t.slot = true →
      ∃ u, Happens .counterIncrement s u ∧ (u.counter t.slot).count = min ((s.counter t.slot).count + 1) 0xFFFF) ∧
    (∀ n, s.xlat.notices.find? (fun n => n.die == s.sel.a) = some n → s.ringRoom = true → s.packetsDone (.note n.id) = true →
      ∃ u, Happens .notificationPush s u ∧ u.regs.nqtail = (s.regs.nqtail + 1) % 2 ^ 32 ∧
        u.mem = s.mem.write (bitsOf s.regs.nqcfg.toNat 38 12 * 4096 + 32 * (s.regs.nqtail % 2 ^ s.ringLog)) (noticeBytes n)) ∧
    (∀ m, s.xlat.migrations.find? (fun m => m.leaf.va == s.sel.a && m.status.isNone) = some m →
      (∀ r ∈ s.xlat.retries, m.leaf.hasByte (65536 * r.page) = false) →
      (m.step = 1 → (m.leaf.tier ≠ 2 ∨ m.data.isSome = true) →
        (64 * m.line < m.leaf.size → s.meshFull (dieAnchor 0) = false → Happens .migrationComplete s (s.sendLine m)) ∧
        (m.leaf.size ≤ 64 * m.line → s.packetsDone (.migration m.leaf.va) = true → Happens .migrationComplete s
          (((s.dropPackets (.migration m.leaf.va)).switchPage m).updMigration m.leaf.va fun m => { m with step := 4 }))) ∧
      (m.step ≠ 1 → s.pageInUse m.leaf.va m.leaf.size = false → Happens .migrationComplete s (s.endMigration m 0))) ∧
    (∀ m t k, s.xlat.migrations.find? (fun m => m.leaf.va == s.sel.a && !m.told && m.status.isNone) = some m → m.blocked = some (t, k) →
      t + 125000 < s.ticks →
      Happens .writeBlocked s ((s.updMigration m.leaf.va fun m => { m with told := true }).pageRecord 0x0B m.leaf k)) ∧
    (∀ access e, s.walkAll (s.sel.a * 65536) = .leaf e →
      Happens (.readUncorrectable access) s { s with xlat := { s.xlat with retries := s.xlat.retries ++ [{ page := s.sel.a, access := (access.bind s.holder?).map s.maker }] } }) ∧
    (∀ r rest, s.xlat.retries = r :: rest →
      let s1 := { s with xlat := { s.xlat with retries := rest } }
      (s.sel.flag = true → ∃ t, Happens .readRetryResult s t ∧ t.mem = s.mem ∧
        t.regs.errcnt.toNat % 2 ^ 32 = min (s.regs.errcnt.toNat % 2 ^ 32 + 1) 0xFFFFFFFF ∧ t.regs.errcnt.toNat / 2 ^ 32 = s.regs.errcnt.toNat / 2 ^ 32) ∧
      (s.sel.flag = false → ∀ e, s1.walkAll (r.page * 65536) = .leaf e → Happens .readRetryResult s (s1.poisonPage e r.access))) ∧
    (∀ p, s.engineHead s.sel.b s.sel.c = some p → p.command = s.sel.a → s.draining s.sel.b s.sel.c = false →
      ((s.stackChan s.sel.b s.sel.c).refreshDue = 0 →
        Happens .basedieSubcommand s ({ s with packets := dropFirst p s.packets ++ p.answer s.cycle s.regs.maxmsg }.updBd s.sel.a
          fun m => { m with left := m.left.filter fun x => x != (s.sel.b, s.sel.c) })) ∧
      ((s.stackChan s.sel.b s.sel.c).refreshDue ≠ 0 →
        Happens .basedieSubcommand s (s.setStackChan { s.stackChan s.sel.b s.sel.c with refreshDue := 0 }))) ∧
    (∀ m c, s.bd.cmds.find? (fun m => m.id == s.sel.a) = some m → s.member? m.task m.rank = some c →
      (∀ t, s.bdReady c m = true → s.sel.flag = s.packetsOverdue (.basedie m.id) →
        (placeBd s c m = .ok t → Happens .basedieComplete s (finishBd t c m s.sel.flag)) ∧
        (placeBd s c m = .error (.note t) → Happens .basedieComplete s t)) ∧
      (s.sel.c ≠ 0 → s.bdFault c m = s.sel.c →
        Happens .basedieInflightFault s (((s.dropPackets (.basedie m.id)).forgetSeeker (.work m.id)).updBd m.id
          fun x => { x with bad := s.sel.c, badAddr := (s.bdFaultAt c m).2 }))) ∧
    (s.sel.a < 8 → s.sel.b < 32 →
      (s.engineHead s.sel.a s.sel.b = none → Happens .refresh s s) ∧
      (∀ p, s.engineHead s.sel.a s.sel.b = some p → Happens .refresh s
        (s.setStackChan { s.stackChan s.sel.a s.sel.b with refreshDue := (s.stackChan s.sel.a s.sel.b).refreshDue + 1 })) ∧
      (s.draining s.sel.a s.sel.b = true → ∃ t, Happens .rateChange s t ∧ t.draining s.sel.a s.sel.b = false ∧ t.mem = s.mem)) ∧
    (s.sel.a < 8 → s.sel.b < 4 → s.bd.target.getD s.sel.a 0 < s.sel.b →
      ∃ t, Happens .stackThermalLimit s t ∧ t.bd.target = s.bd.target.set s.sel.a s.sel.b ∧ t.regs = s.regs)

/-- The events of the optical links and of remote access: slots and control flits, received flits, dark wavelengths, replay, relay, absent peers, requests and
their timeouts (R373-R389). -/
def Obligations.LinkEvents : Prop :=
  ∀ s : State,
    (s.regs.podsize ≠ 0 → s.fab.slotStarted ≠ some (s.podtime / 250) →
      ∃ t, Happens .slotStart s t ∧ t.fab.slotStarted = some (s.podtime / 250) ∧ t.mem = s.mem ∧ t.fab.queue.length = s.fab.queue.length) ∧
    (∀ c : SlotControl, s.isPeer c.package = true → ∃ t, Happens (.slotControlReceive c) s t ∧ t.mem = s.mem ∧
      (c.locked = true → t.podtime = c.podtime % 2 ^ 64 ∧ c.package ∉ t.fab.absent ∧ t.fab.locked = true) ∧ (t.linkTo c.package).quotaNext = c.quota) ∧
    (∀ f : Flit, s.sel.a < 32 → s.isPeer s.sel.b = true → sendsOn s.sel.b s.regs.podpackage s.sel.a = true →
      (f.crcGood = false ∨ f.kind = 3 → Happens (.flitReceive f) s s) ∧ ∃ t, Happens (.flitReceive f) s t ∧ t.mem = s.mem) ∧
    (∀ dark : BitVec 16, s.sel.a < 32 → s.isPeer s.sel.b = true → Happens (.maskChange dark) s (s.darkReport s.sel.a s.sel.b dark.toNat)) ∧
    (s.sel.a < 32 → s.sel.b < 16 → s.isPeer s.sel.c = true → sendsOn s.sel.c s.regs.podpackage s.sel.a = true →
      (s.linkTo s.sel.c).rmask.testBit s.sel.b = true → (s.linkTo s.sel.c).rdark.testBit s.sel.b = false →
      ∃ t, Happens .wavelengthDark s t ∧ (t.linkTo s.sel.c).rdark = (s.linkTo s.sel.c).rdark + 2 ^ s.sel.b) ∧
    (s.replayDue (s.link s.sel.a s.sel.b) = true → ∃ t, Happens .replayResend s t ∧ t.mem = s.mem ∧
      ∀ f ∈ (s.link s.sel.a s.sel.b).replay, f.sentAt + 4000 ≤ s.podtime → f.seq ∈ (t.link s.sel.a s.sel.b).resend) ∧
    (∀ p : RelayPacket, s.isPeer p.src = true → s.isPeer p.dst = true → p.flits ≤ (s.linkTo p.src).quotaOut →
      ∃ t, Happens (.relayArrival p) s t ∧ t.fab.relay = s.fab.relay ++ [{ p := p, arrived := s.podtime }] ∧
        (t.linkTo p.src).quotaOut = (s.linkTo p.src).quotaOut - p.flits) ∧
    (s.peerSilent s.sel.a = true → Happens .peerAbsent s { s with fab := { s.fab with absent := s.fab.absent ++ [s.sel.a] } }) ∧
    (∀ (r : PeerReq) (t : State), s.servePeer r = some t →
      Happens (.peerRequest r) s { t with fab := { t.fab with heldReqs := t.fab.heldReqs.filter fun q => q != r } }) ∧
    (∀ r : PeerReq, s.servePeer r = none → r ∉ s.fab.heldReqs →
      Happens (.peerRequest r) s { s with fab := { s.fab with heldReqs := s.fab.heldReqs ++ [r] } }) ∧
    (∀ q, s.fab.requests.find? (fun q => q.num == s.sel.a && s.requestLate q) = some q → Happens .peerTimeout s (s.requestBad q fcPEER))

/-- The events of pod barriers, FSEND, collectives and routing (R390, R391, R397, R398, R403-R409, R413-R419). -/
def Obligations.FabricEvents : Prop :=
  ∀ s : State,
    (∀ a : ShareNote, (∀ d, s.domain? 5 0 a.domain = some d → Happens (.shareAnnouncement a) s (s.hearShare d a)) ∧
      (s.domain? 5 0 a.domain = none → Happens (.shareAnnouncement a) s { s with fab := { s.fab with notes := s.fab.notes ++ [a] } })) ∧
    (∀ (c : PodContrib) (d : Domain), s.domain? 5 0 c.domain = some d → d.complete = true → d.root = s.regs.podpackage →
      c.package ∈ d.participants → (∀ x ∈ d.contribs, x.package ≠ c.package) →
      Happens (.podContribution c) s (s.updDomains d.is fun e =>
        { e with contribs := e.contribs ++ [c], since := if c.terms = [] then e.since else some (e.since.getD s.ticks) })) ∧
    (∀ (r : PodResult) (d : Domain), s.domain? 5 0 r.domain = some d → d.sent = true → d.root ≠ s.regs.podpackage → s.commitBlocked d = false →
      (∀ c ∈ s.membersOf d, c.stopped = false) → Happens (.podResult r) s (s.applyResult d r)) ∧
    (∀ (f : FsendIn) (d : Domain), s.domain? 5 0 f.domain = some d → d.task ≠ 0 → counterBefore d.counter f.steps = false →
      let answer := fun (t : State) (full : Bool) =>
        t.sendAfter f.package 2 f.slack s.sel.flag 0 (.fsendAck f.id full (if full then none else t.lateConflict d))
      (f.prior < s.peerReceived f.package f.rank f.domain → Happens (.fsendDelivery f) s (answer s false)) ∧
      (f.prior = s.peerReceived f.package f.rank f.domain →
        (s.stageFsend d f = none → Happens (.fsendDelivery f) s (answer s true)) ∧
        ∀ t, s.stageFsend d f = some t → Happens (.fsendDelivery f) s (answer (t.countPeer f.package f.rank f.domain) false) ∧
          (s.mem.wf = true → ∀ k, s.isRecordByte k = false → t.mem.get k = s.mem.get k))) ∧
    (∀ m, s.fab.fsends.find? (fun m => m.id == s.sel.a && m.acked && m.bad == 0 && s.packetsDone (.reply m.id)) = some m →
      ∃ t, Happens .fsendComplete s t ∧ t.fab.fsends = s.fab.fsends.filter fun x => x.id != m.id) ∧
    (∀ m, s.fab.fsends.find? (fun m => m.id == s.sel.a && !m.acked && m.bad == 0) = some m →
      (s.sel.c = fcPEER ∧ m.deadline ≤ s.ticks ∨ s.sel.c = fcSTAGINGFULL) →
      Happens .fsendInflightFault s
        { s with fab := { s.fab with fsends := s.fab.fsends.map fun x => if x.id = m.id then { x with bad := s.sel.c } else x } }) ∧
    (∀ (p : CollPacket) (m : Coll), s.fab.colls.find? (fun m => m.id == p.id) = some m → ∀ t, s.offerColl m p = some t →
      Happens (.collPacketArrival p) s t.takeEarly) ∧
    (∀ p : CollPacket, (∀ m ∈ s.fab.colls, m.id ≠ p.id) → s.staleColl p = false →
      packetBytes 4 (s.fab.early ++ [p]) ≤ bitsOf s.regs.collcfg.toNat 63 44 * 65536 →
      Happens (.collPacketArrival p) s { s with fab := { s.fab with early := s.fab.early ++ [p] } }) ∧
    (∀ m c t, s.fab.colls.find? (fun m => m.idx == s.sel.a) = some m → s.member? m.task m.rank = some c → s.collReady m = true →
      s.sel.flag = m.overdue → placeColl s c m = .ok t → ∃ u, Happens .collNodeComplete s u ∧ u.mem = t.mem ∧ u.staged = t.staged) ∧
    (∀ m, s.fab.colls.find? (fun m => m.idx == s.sel.a && m.mismatched) = some m →
      ∃ t, Happens .collMismatch s t ∧ t.mem = s.mem ∧ t.staged = s.staged ∧ ∀ x ∈ t.fab.colls, x.idx = m.idx → x.status = some 2) ∧
    (∀ t : RToken, t.dstPkg = s.regs.podpackage → t.srcPkg ≠ s.regs.podpackage → s.holdRoom [t] = true →
      ∃ u, Happens (.tokenHold t) s u ∧ u.fab.holding = s.fab.holding ++ [t] ∧ u.mem = s.mem) ∧
    (∀ a d r fwd, s.fab.admissions.find? (fun a => a.domain == s.sel.a && a.round == 0) = some a → s.domain? 5 0 s.sel.a = some d →
      roundOne d (canonical (a.held s.fab.holding))
        ({ x := { s := s, base := s, told := a.told }, a := { a with slots := (List.range 64).map s.slotEntry }, bounced := [] }, []) = .ok (r, fwd) →
      ∃ t, Happens .admissionRound1 s t ∧ t.mem = r.x.s.mem ∧ t.staged = r.x.s.staged) ∧
    (∀ ts a, s.fab.admissions.find? (fun a => a.domain == s.sel.a) = some a → s.sel.b ∈ a.packages →
      s.sel.b ∉ (if s.sel.c = 1 then a.done2 else a.done1) → s.holdRoom (ts.filter fun t => t.bounced.isNone) = true →
      ∃ t, Happens (.round1Done ts) s t ∧ t.mem = s.mem ∧ t.staged = s.staged) ∧
    (∀ a d, s.fab.admissions.find? (fun a => a.domain == s.sel.a) = some a → s.domain? 5 0 s.sel.a = some d →
      (∀ r, a.round = 2 → (∀ p ∈ a.packages, p ∈ a.done1) →
        roundTwo d (canonical a.forwarded) { x := { s := s, base := s, told := a.told }, a := a, bounced := [] } = .ok r →
        ∃ t, Happens .admissionRound2 s t ∧ t.mem = r.x.s.mem ∧ t.staged = r.x.s.staged ∧ t.fab.admittedOnce = true) ∧
      (∀ x, a.round = 3 → (∀ p ∈ a.packages, p ∈ a.done2) →
        writeBounces d s.regs.podpackage (s.fab.lists.filter fun l =>
          l.domain == d.id && l.closed && a.closed.contains (s.regs.podpackage, l.rank, l.batch)) { s := s, base := s, told := a.told } = .ok x →
        ∃ t, Happens .admissionRound2 s t ∧ t.mem = x.s.mem ∧ t.staged = x.s.staged))

/-- What the host does to the package, and the firmware, error and power events (R425-R438). A memory access beyond the window is discarded and counted;
the boot and self-test events bring units into service; TRIP removes power. -/
def Obligations.HostEvents : Prop :=
  ∀ s : State,
    (s.host.linkUp = true →
      (∀ o data, s.host.bar2base + o + data.length ≤ 2 ^ 39 → Happens (.hostBar2Access o false data) s s ∧
        Happens (.hostBar2Access o true data) s (s.hostWrite (s.host.bar2base + o) data)) ∧
      (∀ o w data, 2 ^ 39 < s.host.bar2base + o + data.length → Happens (.hostBar2Access o w data) s (s.countHost 16)) ∧
      (∀ o data t, s.hostMessage o data = some t → Happens (.hostActiveMessage o data) s t) ∧
      (s.host.ready = false → ∀ a, Happens (.tcbsub a) s (s.countHost 48)) ∧
      (s.host.ready = true → ∀ a, ∃ t, Happens (.tcbsub a) s t ∧ t.host.tcbCount = (s.host.tcbCount + 1) % 2 ^ 32) ∧
      (∀ v, Happens (.hoststatWrite none v) s { s with host := { s.host with hoststat := v } }) ∧
      (∀ b v, ∃ t, Happens (.hoststatWrite (some b) v) s t ∧
        t.host.hoststat.toNat = (if b then v.toNat % 2 ^ 32 * 2 ^ 32 + s.host.hoststat.toNat % 2 ^ 32
          else s.host.hoststat.toNat / 2 ^ 32 * 2 ^ 32 + v.toNat % 2 ^ 32)) ∧
      (∀ v, ∃ t, Happens (.evheadWrite v) s t ∧ t.mem = s.mem ∧ t.host.evhead =
        (if headTaken s.host.evhead (v.toNat % 2 ^ 32) s.host.evtail then v.toNat % 2 ^ 32 else s.host.evhead)) ∧
      (∀ v, ∃ t, Happens (.evlostClear v) s t ∧ ∀ k, k < 32 → t.host.evlost.testBit k = (s.host.evlost.testBit k && !v.getLsbD k)) ∧
      (∀ n, s.host.fwStatus ≠ 3 → ∃ t, Happens (.fwctlVerify n) s t ∧ t.host.fwStatus = 3 ∧ t.host.fwJob = some n.toNat) ∧
      (∃ t, Happens .fwctlRaisemin s t ∧ t.host.fusedMin = max s.host.fusedMin s.host.version ∧ t.host.fwStatus = 4) ∧
      (∀ v, ∃ t, Happens (.brclr v) s t ∧ t.host.brclr = (s.host.brclr || v == 1)) ∧
      (∃ t, Happens .attestationRequest s t ∧ t.host.att = 1) ∧
      (∀ o data, o + data.length ≤ 2 ^ 26 → Happens (.controlWindowAccess o false data) s
        (if isRegister o ∧ (o % 8 ≠ 0 ∨ data.length ≠ 4 ∧ data.length ≠ 8) then s.countHost 0 else s)) ∧
      (∀ o data, isRegister o = true → o % 8 = 0 → data.length = 4 ∨ data.length = 8 →
        Happens (.controlWindowAccess o true data) s (s.windowWrite o data.length (numOf data))) ∧
      Happens .hostLinkDown s { s with host := { s.host with linkUp := false, rate := 0, width := 0 } } ∧
      Happens (.hostLinkError true) s { s with transient := s.transient + 1 } ∧
      Happens (.hostLinkError false) s { s with host := { s.host with aerErrors := s.host.aerErrors + 1 } } ∧
      (∀ r rest, s.host.evwait = r :: rest → s.eventRoom = true → ∃ t, Happens .eventRecordPost s t ∧ t.host.evwait = rest ∧
        t.host.evtail = (s.host.evtail + 1) % 2 ^ 32 ∧
        t.mem = s.mem.write (hostKey (s.host.evbase.toNat + 64 * (s.host.evtail % 2 ^ (s.host.evcfg.toNat % 32)))) r)) ∧
    (s.host.linkUp = false → s.host.started = true → ∀ r ∈ [128, 64, 32, 16, 8, 5, 2], ∀ n ∈ [16, 8, 4, 2, 1],
      Happens (.hostLinkTrained r n) s { s with host := { s.host with linkUp := true, rate := r, width := n } }) ∧
    (∀ n, s.host.fwJob = some n → ∃ t, Happens .firmwareVerified s t ∧ t.host.fwJob = none ∧
      let img := s.host.staging.read 0 n
      let good := n ≤ 48 * 2 ^ 20 ∧ imageAccepted s.host.fusedMin img = true
      (good → t.host.fwStatus = 1 ∧ t.host.slot t.host.preferred = img ∧ t.host.slot s.host.running = s.host.slot s.host.running ∨ 1 < s.host.running) ∧
      (¬good → t.host.fwStatus = 2 ∧ t.host.slotA = s.host.slotA ∧ t.host.slotB = s.host.slotB)) ∧
    (s.host.att = 1 → ∃ t, Happens .attestationDone s t ∧ t.host.att = 2 ∧ t.host.attBody = s.attestBody) ∧
    (∀ outcome fw, ∃ t, Happens (.deviceReset outcome fw) s t) ∧
    (∀ pass, s.host.started = true →
      (s.host.pendingStacks.testBit s.sel.a = true → ∃ t, Happens (.unitSelfTestDone true pass) s t ∧
        t.host.stacksUp = s.host.stacksUp + (if pass then 2 ^ s.sel.a else 0)) ∧
      (s.host.pendingDies.testBit s.sel.a = true → ∃ t, Happens (.unitSelfTestDone false pass) s t ∧
        t.host.diesUp = s.host.diesUp + (if pass then 2 ^ s.sel.a else 0))) ∧
    (s.sel.a < 4 → Happens (.meshLinkError true) s { s with transient := s.transient + 1 } ∧ (∃ t, Happens (.meshLinkError false) s t) ∧
      (∃ t, Happens .throttleTemperature s t ∧ t.host.hotAt = s.ticks ∧ s.host.clockStep ≤ t.host.clockStep) ∧
      ∃ t, Happens .trip s t ∧ t.off = true) ∧
    (s.host.calibrated < s.host.clockStep → s.host.hotAt + 100 * 125000 ≤ s.ticks →
      ∃ t, Happens .stepRaised s t ∧ t.host.clockStep = s.host.clockStep - 1)

/-! ### The machine as a whole -/

namespace Sys2Proof.Claims

open Sys2Proof.Machine

/-- The integer instructions of Form A. -/
def integerForms (w : FormA) : List Instr :=
  [.add w, .sub w, .mul w, .mad w, .mulhi w, .mulhu w, .div w, .divu w, .rem w, .remu w, .and w, .or w, .xor w, .shl w, .shr w, .sar w, .rol w,
   .min w, .max w, .minu w, .maxu w, .abs w, .mov w, .sel w, .popc w, .clz w, .ctz w, .brev w, .bfx w, .bfxu w, .bfi w, .lea w, .cmp w]

/-- Instructions of masks, and those that read the clocks. -/
def maskForms (w : FormA) : List Instr :=
  [.pand w, .pandn w, .por w, .pxor w, .pnot w, .pmov w, .pcnt w, .pany w, .pall w, .pfirst w, .pfroms w, .ptos w, .cycle w, .podtime w]

/-- The floating-point instructions. -/
def floatForms (w : FormA) : List Instr :=
  [.fadd w, .fsub w, .fmul w, .fma w, .fms w, .fnma w, .fnms w, .fdiv w, .fsqrt w, .frcp w, .frsq w, .fexp2 w, .flog2 w, .fmin w, .fmax w, .fabs w,
   .fneg w, .fcpys w, .fclass w, .frnd w, .fcmp w, .fcvt w, .fcvti w, .icvtf w, .fpack w, .funpk w]

/-- Instructions that compute from registers and write one destination. -/
def registerForms (w : FormA) : List Instr := integerForms w ++ maskForms w ++ floatForms w

/-- The bytes of a destination (R122, R130). -/
def destBytes (w : FormA) : Nat :=
  match w.dst with
  | .p _ => 8
  | _ => if w.h.lane then 256 else 8

end Sys2Proof.Claims

/-- The decoder reads back what the encoder writes, for every well-formed instruction with every operand; and every word that decodes to an instruction is
that instruction's encoding, which is well formed (R72, R77-R86). -/
def Obligations.DecodeAndEncodeAgree : Prop :=
  (∀ (i : Instr) (w : Word), i.wf = true → encode i = some w → decode w = .ok i) ∧
  (∀ (i : Instr) (w : Word), decode w = .ok i → i.wf = true ∧ encode i = some w)

/-- Words written out from the encoding tables of the spec decode to the instructions they stand for (R77-R86). -/
def Obligations.DecodeWords : Prop :=
  let h : Common := { sw := false, pred := 0, inv := false, lane := false }
  let marked : Common := { h with sw := true }
  let lanes : Common := { h with lane := true }
  decode 0x0840118467FFFFFF = .ok (.addi { h := h, dst := .s 12, a := .s 12, imm := -1 }) ∧
  decode 0x00407FFFFFFFFF00 = .ok (.br { h := h, off := -8, mod := 0 }) ∧
  decode 0x00E0000000000060 = .ok (.call { h := marked, off := 3, mod := 0 }) ∧
  decode 0x2080808009140004 = .ok (.fmul { h := lanes, dst := .v 4, a := .v 1, b := .s 10, c := .zero, mod := 4 }) ∧
  decode 0x1086128000000140 = .ok (.movi { h := { h with pred := 3 }, dst := .s 20, imm := 10, mod := 0 }) ∧
  decode 0x4E20804420000000 = .ok (.ldv { h := { lanes with sw := true }, data := .v 2, base := .s 4, off := 0, slack := 0, mod := 0 }) ∧
  decode 0xF120178000000008 = .ok (.csrr { h := marked, dst := .s 60, a := .zero, imm := 8 }) ∧
  decode 0x6C0010B808000009 = .ok (.sync { h := h, a := .s 5, b := .const 1, c := .zero, sub := 9 }) ∧
  decode 0xFFC0C00000030000 = .ok (.blockHeader { length := 3, guard := 0, reconv := 0, livein := 0xC, prefetch := 0, rsv := 0 })

/-- A step at which a tile's port issues a context runs the word at its pc: the instruction that the word decodes to, with the port, the gang and the clock
moved on afterwards; at a block's start, the header (R72, R74, R88, R120). A privileged word is one that the mode may run; nothing is due by the clock, the
register lines are there (R128), and no event of the handler is due. An undefined opcode is ILLEGAL, and a leader's followers get the word too (R85, R90). -/
def Obligations.StepRunsTheDecodedInstruction : Prop :=
  ∀ (s : State) (k : CtxKey) (c : Ctx) (w : Word), s.off = false → s.clocked = none → pickAction s.free s.actions = some (.issue k) → s.ctx? k = some c →
    c.follower = false → c.deliverable = false → s.buffered c c.pc = some w →
    let lined := fun (i : Instr) => c.want.isSome = true ∨ c.missing (touchedBy i c) = []
    (c.atHeader = false → ∀ i, decode w = .ok i → (∀ h, i ≠ .blockHeader h) → (∀ v, i ≠ .undefinedOpcode v) →
      (wordPrivileged w = true → c.supervisor = true) → lined i →
      step s = mapNext (exec i { s with sel := selCtx k }) (afterIssue k c i w)) ∧
    (c.atHeader = false → ∀ v, decode w = .ok (.undefinedOpcode v) →
      step s = .next ((s.forwardRefused c w).dueFault c { code := fcILLEGAL }).advance) ∧
    (c.atHeader = true → ∀ h, decode w = .ok (.blockHeader h) → lined (.blockHeader h) →
      step s = mapNext (exec (.blockHeader h) { s with sel := selCtx k }) (afterIssue k c (.blockHeader h) w))

/-- Every step keeps the canonical form of memory: addresses strictly rising and no entry equal to what an unlisted byte reads as. -/
def Obligations.StepsKeepMemoryCanonical : Prop := ∀ s t : State, s.mem.wf = true → step s = .next t → t.mem.wf = true

/-- After reset no context runs and memory, which lists nothing, has its canonical form; the package registers hold the values of the register tables
(R106, R207, R214, R261, R282, R290, R339, R340, R384, R389). -/
def Obligations.ResetState : Prop :=
  let s := State.reset
  let r := s.regs
  s.mem = [] ∧ s.mem.wf = true ∧ s.ctxs = [] ∧ s.tasks = [] ∧ s.staged = [] ∧ s.domains = [] ∧ s.cycle = 0 ∧ s.podtime = 0 ∧ s.off = false ∧
  r.maxmsg = 9 ∧ r.sfqbase = 0 ∧ r.sfqhead = 0 ∧ r.sfqtail = 0 ∧ r.waitto = 0 ∧ (∀ l, l < 5 → bitsOf r.domto.toNat (8 * l + 7) (8 * l) = 27) ∧
  bitsOf r.placectl.toNat 31 0 = 250000 ∧ bitsOf r.placectl.toNat 63 32 = 6250000 ∧ bitsOf r.balctl.toNat 39 8 = 125000 ∧
  bitsOf r.balctl.toNat 7 1 = 25 ∧ bitsOf r.balctl.toNat 0 0 = 1 ∧ r.fabctl = 20 ∧ r.relaycfg = 4096 ∧ r.podsize = 0 ∧ r.ptroot = 0

/-- What completes an instruction leaves: the next word or the target, the end of the block seen, and with the switch marker or a park the
region's window stores written and nothing pending (R72, R77, R132, R135). Registers, memory and every other context stay as the instruction left
them. The marker parks a context whose results are still to come: the instruction has run, its region goes on, and nothing else issues until they
have returned (R77, R121, R132). -/
def Obligations.FinishOfAnInstruction : Prop :=
  (∀ (d : Done) (c0 : Ctx) (h : Common), d.left = false → d.c.live = [] → d.c.badToken = none → d.c.faulted = none →
      let e := if d.ends = true ∨ h.sw = true then d.c.endRegion else d.c
      let fwd := if d.c.follower then d.c.fwd.drop 1 else d.c.fwd
      d.finish c0 h = (d.s.forgetWalks c0.key).setCtx (match d.jump with
        | some t => { e with wait := .none, fwd := fwd, pc := t, atHeader := true, blockEnd := 0 }
        | none => { e with wait := .none, fwd := fwd, pc := c0.pc + 8, atHeader := decide (c0.pc + 8 = c0.blockEnd) })) ∧
  (∀ (d : Done) (c0 : Ctx) (h : Common), d.left = false → d.jump = none → d.ends = false → h.sw = true → d.c.live ≠ [] →
      d.finish c0 h = (d.s.forgetWalks c0.key).setCtx
        { d.c with wait := .drain c0.pc, fwd := if d.c.follower then d.c.fwd.drop 1 else d.c.fwd, pc := c0.pc + 8,
                   atHeader := decide (c0.pc + 8 = c0.blockEnd) } ∧
      ∀ (s : State) (c : Ctx) (a : Word), c.wait = .drain a → s.ready c = false)

/-- What the well-formed instructions of registerForms leave unchanged when they go on to the next word: all of memory and what is staged, the package
registers, every other context, every register byte outside the destination, and every other field of the context but the latch, the pc, what is
pending or outstanding, FLAGS, in which bits are only set, and SRCNT (R62, R131, R133, R198, R199). -/
def Obligations.RegisterInstructionFrame : Prop :=
  ∀ (w : FormA), ∀ i ∈ registerForms w, i.wf = true → ∀ (s t : State) (c d : Ctx), w.h.sw = false → c.rf.wf = true → s.ctx? s.sel.ctx = some c →
    exec i s = .next t → t.ctx? s.sel.ctx = some d → d.pc = c.pc + 8 → d.uleActive = c.uleActive →
    t.mem = s.mem ∧ t.staged = s.staged ∧ t.regs = s.regs ∧ (∀ e ∈ s.ctxs, e.same c = false → e ∈ t.ctxs) ∧
    (∀ x, (∀ a, c.loc w.dst = some a → x < a ∨ a + destBytes w ≤ x) → d.rf.get x = c.rf.get x) ∧
    d.flags ||| c.flags = d.flags ∧
    d = { c with rf := d.rf, latch := d.latch, latchTok := d.latchTok, pending := d.pending, pc := d.pc, atHeader := d.atHeader, flags := d.flags,
                 srcnt := d.srcnt, outstanding := d.outstanding, fwd := d.fwd, wait := .none }

/-- A value written to a register: its eight bytes are the value, and every byte of the register file outside them stays; a write to p0 is discarded. Lane
elements write the enabled lanes only, and so does a mask. A destination that no window store and no matrix command meets takes what is written, but a
mask for some lanes waits until the old one is there (R77, R82, R122, R131, R133 to R136). -/
def Obligations.RegisterWrites : Prop :=
  (∀ (s : State) (c d : Ctx) (o : Operand) (x : Word) (a : Nat), c.rf.wf = true → c.loc o = some a → o ≠ .p 0 → writeVal s c o x = .ok d →
    d.rf.num a 8 = x.toNat ∧ (∀ y, y < a ∨ a + 8 ≤ y → d.rf.get y = c.rf.get y) ∧ d.rf.wf = true ∧ d.pending = (a, 8) :: c.pending) ∧
  (∀ (s : State) (c d : Ctx) (x : Word), writeVal s c (.p 0) x = .ok d → d = { c with latch := .w8 (BitVec.allOnes 64), latchTok := none }) ∧
  (∀ (s : State) (c d : Ctx) (o : Operand) (n : Nat) (g : Word) (xs : List Nat) (a : Nat), c.rf.wf = true → c.loc o = some a → n ∈ [8, 16, 32] →
    xs.length = 2048 / n → (∀ x ∈ xs, x < 2 ^ n) → writeElems s c o n g xs = .ok d →
    (∀ e, e < 2048 / n → d.rf.num (a + e * (n / 8)) (n / 8) =
      if g.getLsbD (e * n / 32) then xs.getD e 0 else c.rf.num (a + e * (n / 8)) (n / 8)) ∧
    (∀ y, y < a ∨ a + 256 ≤ y → d.rf.get y = c.rf.get y) ∧ d.rf.wf = true) ∧
  (∀ (s : State) (c : Ctx) (o : Operand) (a : Nat), c.loc o = some a →
    (∀ x, Free s c a 8 → ∃ d, writeVal s c o x = .ok d) ∧
    (∀ n g xs, Free s c a 256 → ∃ d, writeElems s c o n g xs = .ok d) ∧
    (∀ g m, Free s c a 8 → c.awaits a 8 = false ∨ g = BitVec.allOnes 64 →
      ∃ d, writeMask s c o g m = .ok d ∧ (o ≠ .p 0 → writeVal s c o ((m &&& g) ||| (BitVec.ofNat 64 (c.rf.num a 8) &&& ~~~g)) = .ok d)))

/-- An instruction whose uniform guard fails does nothing: it writes no register and no memory and goes on; a latch that it would have set holds the
destination's unchanged value (R131, R136). -/
def Obligations.FailedGuards : Prop :=
  (∀ (w : FormA) (s : State) (c : Ctx) (g : Word), w.h.lane = false → g.getLsbD 0 = false → Falls s c →
    (Issues s c w.h [w.a, w.b] g → ∀ i ∈ [Instr.add w, .sub w, .mul w, .and w, .or w, .xor w, .min w, .max w, .div w, .rem w, .fmin w, .pand w, .por w],
      i.wf = true → Completes i s c w.h s (latchUnchanged c false w.dst)) ∧
    (Issues s c w.h [w.a] g → ∀ i ∈ [Instr.mov w, .popc w, .pmov w, .pcnt w], i.wf = true → Completes i s c w.h s (latchUnchanged c false w.dst))) ∧
  (∀ (w : FormM) (s : State) (c : Ctx) (g : Word), g.getLsbD 0 = false → Falls s c →
    (Issues s c w.h [w.data, w.base] g → ∀ i ∈ [Instr.stb w, .sth w, .stw w, .std w, .xstd w, .xred w], Completes i s c w.h s c.clearLatch) ∧
    (Issues s c w.h [w.base] g → ∀ i ∈ [Instr.ldb w, .ldh w, .ldw w, .ldd w, .xldd w], Completes i s c w.h s (latchUnchanged c false w.data)))

/-- A precise fault: once earlier results have returned, the region ends and the record is written: FAULTPC, FAULTADDR and FAULTINFO with its fields. A
delegated fault enters the user handler with the event's words in its bank and the place to return to saved; any other parks the context with a record
for the supervisor (R195-R197, R201, R205, R207). -/
def Obligations.TakingAFault : Prop :=
  (∀ (c : Ctx) (code : Nat), c.delegates code = true ↔ (bitAt c.fltdlg.toNat code = true ∧ c.uleEn = true ∧ c.uleActive = false ∧ c.supervisor = false ∧
    c.follower = false ∧ code ≠ 0x0B)) ∧
  (∀ t : Trap, t.info.toNat % 256 = t.code % 256 ∧ t.info.getLsbD 11 = t.inflight ∧ bitsOf t.info.toNat 15 12 = t.channel % 16 ∧
    bitsOf t.info.toNat 23 16 = t.element % 256 ∧ bitsOf t.info.toNat 63 32 = t.detail % 2 ^ 32) ∧
  (∀ (s : State) (c : Ctx) (t : Trap), c.live ≠ [] → s.dueFault c t = s) ∧
  (∀ (s : State) (c : Ctx) (t : Trap), c.live = [] → s.member? c.task c.rank = some c → c.rf.wf = true → c.wait = .none →
    let u := s.dueFault c t
    let r := if t.nextPc then c.pc + 8 else c.pc
    u.mem = s.mem ∧ u.staged = s.staged ∧ ∃ d, u.member? c.task c.rank = some d ∧
      d.faultpc = r ∧ d.faultaddr = t.addr ∧ d.faultinfo = t.info ∧ d.pending = [] ∧ d.winStores = [] ∧
      (c.delegates t.code = false → d.faulted = some t.code ∧ d.pc = r ∧ d.latch = c.latch ∧ d.rf = c.endRegion.rf ∧
        ∃ n, u.sfqWait = s.sfqWait ++
          [{ id := n, bytes := sfqBytes s.cycle t.addr r t.info (s.tidOf c.task) c.rank c.key.tile c.key.num 1 0, ctx := some c.key }]) ∧
      (c.delegates t.code = true → d.faulted = c.faulted ∧ u.sfqWait = s.sfqWait ∧ d.uleActive = true ∧ d.pc = c.ulevec ∧ d.atHeader = true ∧
        d.latch = .empty ∧ d.rf.num 0x8800 8 = 6 + 256 * (t.code % 256) ∧ d.rf.num 0x8808 8 = t.addr.toNat ∧ d.rf.num 0x8810 8 = r.toNat ∧
        ∃ sv, d.uleSaved = some sv ∧ sv.pc = r ∧ sv.latch = c.latch ∧ sv.blockEnd = c.blockEnd ∧ sv.next = none))
end

