-- ==== Sys2Proof/Laws/Exec.lean ====
section
/-! SUPPORT. What exec answers for each instruction: its meaning. Proofs rewrite with these and never unfold exec. -/

namespace Sys2Proof.Machine

@[simp] theorem exec_nop (w : FormA) (s : State) : exec (.nop w) s = execNop w s := rfl
@[simp] theorem exec_br (w : FormB) (s : State) : exec (.br w) s = execBr w s := rfl
@[simp] theorem exec_bri (w : FormA) (s : State) : exec (.bri w) s = execBri w s := rfl
@[simp] theorem exec_call (w : FormB) (s : State) : exec (.call w) s = execCall w s := rfl
@[simp] theorem exec_calli (w : FormA) (s : State) : exec (.calli w) s = execCalli w s := rfl
@[simp] theorem exec_ret (w : FormA) (s : State) : exec (.ret w) s = execRet w s := rfl
@[simp] theorem exec_loop (w : FormI) (s : State) : exec (.loop w) s = execLoop w s := rfl
@[simp] theorem exec_exit (w : FormA) (s : State) : exec (.exit w) s = execExit w s := rfl
@[simp] theorem exec_park (w : FormA) (s : State) : exec (.park w) s = execPark w s := rfl
@[simp] theorem exec_yield (w : FormA) (s : State) : exec (.yield w) s = execYield w s := rfl
@[simp] theorem exec_wfe (w : FormA) (s : State) : exec (.wfe w) s = execWfe w s := rfl
@[simp] theorem exec_add (w : FormA) (s : State) : exec (.add w) s = execAdd w s := rfl
@[simp] theorem exec_addi (w : FormI) (s : State) : exec (.addi w) s = execAddi w s := rfl
@[simp] theorem exec_sub (w : FormA) (s : State) : exec (.sub w) s = execSub w s := rfl
@[simp] theorem exec_mul (w : FormA) (s : State) : exec (.mul w) s = execMul w s := rfl
@[simp] theorem exec_muli (w : FormI) (s : State) : exec (.muli w) s = execMuli w s := rfl
@[simp] theorem exec_mulhi (w : FormA) (s : State) : exec (.mulhi w) s = execMulhi w s := rfl
@[simp] theorem exec_mulhu (w : FormA) (s : State) : exec (.mulhu w) s = execMulhu w s := rfl
@[simp] theorem exec_mad (w : FormA) (s : State) : exec (.mad w) s = execMad w s := rfl
@[simp] theorem exec_div (w : FormA) (s : State) : exec (.div w) s = execDiv w s := rfl
@[simp] theorem exec_divu (w : FormA) (s : State) : exec (.divu w) s = execDivu w s := rfl
@[simp] theorem exec_rem (w : FormA) (s : State) : exec (.rem w) s = execRem w s := rfl
@[simp] theorem exec_remu (w : FormA) (s : State) : exec (.remu w) s = execRemu w s := rfl
@[simp] theorem exec_and (w : FormA) (s : State) : exec (.and w) s = execAnd w s := rfl
@[simp] theorem exec_andi (w : FormI) (s : State) : exec (.andi w) s = execAndi w s := rfl
@[simp] theorem exec_or (w : FormA) (s : State) : exec (.or w) s = execOr w s := rfl
@[simp] theorem exec_ori (w : FormI) (s : State) : exec (.ori w) s = execOri w s := rfl
@[simp] theorem exec_xor (w : FormA) (s : State) : exec (.xor w) s = execXor w s := rfl
@[simp] theorem exec_xori (w : FormI) (s : State) : exec (.xori w) s = execXori w s := rfl
@[simp] theorem exec_shl (w : FormA) (s : State) : exec (.shl w) s = execShl w s := rfl
@[simp] theorem exec_shli (w : FormI) (s : State) : exec (.shli w) s = execShli w s := rfl
@[simp] theorem exec_shr (w : FormA) (s : State) : exec (.shr w) s = execShr w s := rfl
@[simp] theorem exec_shri (w : FormI) (s : State) : exec (.shri w) s = execShri w s := rfl
@[simp] theorem exec_sar (w : FormA) (s : State) : exec (.sar w) s = execSar w s := rfl
@[simp] theorem exec_sari (w : FormI) (s : State) : exec (.sari w) s = execSari w s := rfl
@[simp] theorem exec_rol (w : FormA) (s : State) : exec (.rol w) s = execRol w s := rfl
@[simp] theorem exec_min (w : FormA) (s : State) : exec (.min w) s = execMin w s := rfl
@[simp] theorem exec_minu (w : FormA) (s : State) : exec (.minu w) s = execMinu w s := rfl
@[simp] theorem exec_max (w : FormA) (s : State) : exec (.max w) s = execMax w s := rfl
@[simp] theorem exec_maxu (w : FormA) (s : State) : exec (.maxu w) s = execMaxu w s := rfl
@[simp] theorem exec_abs (w : FormA) (s : State) : exec (.abs w) s = execAbs w s := rfl
@[simp] theorem exec_cmp (w : FormA) (s : State) : exec (.cmp w) s = execCmp w s := rfl
@[simp] theorem exec_cmpi (w : FormI) (s : State) : exec (.cmpi w) s = execCmpi w s := rfl
@[simp] theorem exec_sel (w : FormA) (s : State) : exec (.sel w) s = execSel w s := rfl
@[simp] theorem exec_mov (w : FormA) (s : State) : exec (.mov w) s = execMov w s := rfl
@[simp] theorem exec_movi (w : FormW) (s : State) : exec (.movi w) s = execMovi w s := rfl
@[simp] theorem exec_movhi (w : FormW) (s : State) : exec (.movhi w) s = execMovhi w s := rfl
@[simp] theorem exec_popc (w : FormA) (s : State) : exec (.popc w) s = execPopc w s := rfl
@[simp] theorem exec_clz (w : FormA) (s : State) : exec (.clz w) s = execClz w s := rfl
@[simp] theorem exec_ctz (w : FormA) (s : State) : exec (.ctz w) s = execCtz w s := rfl
@[simp] theorem exec_brev (w : FormA) (s : State) : exec (.brev w) s = execBrev w s := rfl
@[simp] theorem exec_bfx (w : FormA) (s : State) : exec (.bfx w) s = execBfx w s := rfl
@[simp] theorem exec_bfxu (w : FormA) (s : State) : exec (.bfxu w) s = execBfxu w s := rfl
@[simp] theorem exec_bfi (w : FormA) (s : State) : exec (.bfi w) s = execBfi w s := rfl
@[simp] theorem exec_lea (w : FormA) (s : State) : exec (.lea w) s = execLea w s := rfl
@[simp] theorem exec_fadd (w : FormA) (s : State) : exec (.fadd w) s = execFadd w s := rfl
@[simp] theorem exec_fsub (w : FormA) (s : State) : exec (.fsub w) s = execFsub w s := rfl
@[simp] theorem exec_fmul (w : FormA) (s : State) : exec (.fmul w) s = execFmul w s := rfl
@[simp] theorem exec_fma (w : FormA) (s : State) : exec (.fma w) s = execFma w s := rfl
@[simp] theorem exec_fms (w : FormA) (s : State) : exec (.fms w) s = execFms w s := rfl
@[simp] theorem exec_fnma (w : FormA) (s : State) : exec (.fnma w) s = execFnma w s := rfl
@[simp] theorem exec_fnms (w : FormA) (s : State) : exec (.fnms w) s = execFnms w s := rfl
@[simp] theorem exec_fmin (w : FormA) (s : State) : exec (.fmin w) s = execFmin w s := rfl
@[simp] theorem exec_fmax (w : FormA) (s : State) : exec (.fmax w) s = execFmax w s := rfl
@[simp] theorem exec_fabs (w : FormA) (s : State) : exec (.fabs w) s = execFabs w s := rfl
@[simp] theorem exec_fneg (w : FormA) (s : State) : exec (.fneg w) s = execFneg w s := rfl
@[simp] theorem exec_fcpys (w : FormA) (s : State) : exec (.fcpys w) s = execFcpys w s := rfl
@[simp] theorem exec_fcmp (w : FormA) (s : State) : exec (.fcmp w) s = execFcmp w s := rfl
@[simp] theorem exec_fclass (w : FormA) (s : State) : exec (.fclass w) s = execFclass w s := rfl
@[simp] theorem exec_fdiv (w : FormA) (s : State) : exec (.fdiv w) s = execFdiv w s := rfl
@[simp] theorem exec_fsqrt (w : FormA) (s : State) : exec (.fsqrt w) s = execFsqrt w s := rfl
@[simp] theorem exec_frcp (w : FormA) (s : State) : exec (.frcp w) s = execFrcp w s := rfl
@[simp] theorem exec_frsq (w : FormA) (s : State) : exec (.frsq w) s = execFrsq w s := rfl
@[simp] theorem exec_fexp2 (w : FormA) (s : State) : exec (.fexp2 w) s = execFexp2 w s := rfl
@[simp] theorem exec_flog2 (w : FormA) (s : State) : exec (.flog2 w) s = execFlog2 w s := rfl
@[simp] theorem exec_frnd (w : FormA) (s : State) : exec (.frnd w) s = execFrnd w s := rfl
@[simp] theorem exec_fcvt (w : FormA) (s : State) : exec (.fcvt w) s = execFcvt w s := rfl
@[simp] theorem exec_fcvti (w : FormA) (s : State) : exec (.fcvti w) s = execFcvti w s := rfl
@[simp] theorem exec_icvtf (w : FormA) (s : State) : exec (.icvtf w) s = execIcvtf w s := rfl
@[simp] theorem exec_fpack (w : FormA) (s : State) : exec (.fpack w) s = execFpack w s := rfl
@[simp] theorem exec_funpk (w : FormA) (s : State) : exec (.funpk w) s = execFunpk w s := rfl
@[simp] theorem exec_vbcast (w : FormA) (s : State) : exec (.vbcast w) s = execVbcast w s := rfl
@[simp] theorem exec_vext (w : FormA) (s : State) : exec (.vext w) s = execVext w s := rfl
@[simp] theorem exec_vins (w : FormA) (s : State) : exec (.vins w) s = execVins w s := rfl
@[simp] theorem exec_vperm (w : FormA) (s : State) : exec (.vperm w) s = execVperm w s := rfl
@[simp] theorem exec_vshuf (w : FormA) (s : State) : exec (.vshuf w) s = execVshuf w s := rfl
@[simp] theorem exec_vsel (w : FormA) (s : State) : exec (.vsel w) s = execVsel w s := rfl
@[simp] theorem exec_vredu (w : FormA) (s : State) : exec (.vredu w) s = execVredu w s := rfl
@[simp] theorem exec_vscan (w : FormA) (s : State) : exec (.vscan w) s = execVscan w s := rfl
@[simp] theorem exec_vcprs (w : FormA) (s : State) : exec (.vcprs w) s = execVcprs w s := rfl
@[simp] theorem exec_vexpd (w : FormA) (s : State) : exec (.vexpd w) s = execVexpd w s := rfl
@[simp] theorem exec_viota (w : FormA) (s : State) : exec (.viota w) s = execViota w s := rfl
@[simp] theorem exec_vmovn (w : FormA) (s : State) : exec (.vmovn w) s = execVmovn w s := rfl
@[simp] theorem exec_vzero (w : FormA) (s : State) : exec (.vzero w) s = execVzero w s := rfl
@[simp] theorem exec_pand (w : FormA) (s : State) : exec (.pand w) s = execPand w s := rfl
@[simp] theorem exec_pandn (w : FormA) (s : State) : exec (.pandn w) s = execPandn w s := rfl
@[simp] theorem exec_por (w : FormA) (s : State) : exec (.por w) s = execPor w s := rfl
@[simp] theorem exec_pxor (w : FormA) (s : State) : exec (.pxor w) s = execPxor w s := rfl
@[simp] theorem exec_pnot (w : FormA) (s : State) : exec (.pnot w) s = execPnot w s := rfl
@[simp] theorem exec_pmov (w : FormA) (s : State) : exec (.pmov w) s = execPmov w s := rfl
@[simp] theorem exec_pset (w : FormW) (s : State) : exec (.pset w) s = execPset w s := rfl
@[simp] theorem exec_pcnt (w : FormA) (s : State) : exec (.pcnt w) s = execPcnt w s := rfl
@[simp] theorem exec_pany (w : FormA) (s : State) : exec (.pany w) s = execPany w s := rfl
@[simp] theorem exec_pall (w : FormA) (s : State) : exec (.pall w) s = execPall w s := rfl
@[simp] theorem exec_pfirst (w : FormA) (s : State) : exec (.pfirst w) s = execPfirst w s := rfl
@[simp] theorem exec_pfroms (w : FormA) (s : State) : exec (.pfroms w) s = execPfroms w s := rfl
@[simp] theorem exec_ptos (w : FormA) (s : State) : exec (.ptos w) s = execPtos w s := rfl
@[simp] theorem exec_ldb (w : FormM) (s : State) : exec (.ldb w) s = execLdb w s := rfl
@[simp] theorem exec_ldh (w : FormM) (s : State) : exec (.ldh w) s = execLdh w s := rfl
@[simp] theorem exec_ldw (w : FormM) (s : State) : exec (.ldw w) s = execLdw w s := rfl
@[simp] theorem exec_ldd (w : FormM) (s : State) : exec (.ldd w) s = execLdd w s := rfl
@[simp] theorem exec_stb (w : FormM) (s : State) : exec (.stb w) s = execStb w s := rfl
@[simp] theorem exec_sth (w : FormM) (s : State) : exec (.sth w) s = execSth w s := rfl
@[simp] theorem exec_stw (w : FormM) (s : State) : exec (.stw w) s = execStw w s := rfl
@[simp] theorem exec_std (w : FormM) (s : State) : exec (.std w) s = execStd w s := rfl
@[simp] theorem exec_ldv (w : FormM) (s : State) : exec (.ldv w) s = execLdv w s := rfl
@[simp] theorem exec_stv (w : FormM) (s : State) : exec (.stv w) s = execStv w s := rfl
@[simp] theorem exec_ldvs (w : FormM) (s : State) : exec (.ldvs w) s = execLdvs w s := rfl
@[simp] theorem exec_stvs (w : FormM) (s : State) : exec (.stvs w) s = execStvs w s := rfl
@[simp] theorem exec_ldvx (w : FormM) (s : State) : exec (.ldvx w) s = execLdvx w s := rfl
@[simp] theorem exec_stvx (w : FormM) (s : State) : exec (.stvx w) s = execStvx w s := rfl
@[simp] theorem exec_xldd (w : FormM) (s : State) : exec (.xldd w) s = execXldd w s := rfl
@[simp] theorem exec_xldv (w : FormM) (s : State) : exec (.xldv w) s = execXldv w s := rfl
@[simp] theorem exec_xstd (w : FormM) (s : State) : exec (.xstd w) s = execXstd w s := rfl
@[simp] theorem exec_xstv (w : FormM) (s : State) : exec (.xstv w) s = execXstv w s := rfl
@[simp] theorem exec_xred (w : FormM) (s : State) : exec (.xred w) s = execXred w s := rfl
@[simp] theorem exec_xredv (w : FormM) (s : State) : exec (.xredv w) s = execXredv w s := rfl
@[simp] theorem exec_btx (w : FormM) (s : State) : exec (.btx w) s = execBtx w s := rfl
@[simp] theorem exec_btxa (w : FormX) (s : State) : exec (.btxa w) s = execBtxa w s := rfl
@[simp] theorem exec_btwm (w : FormX) (s : State) : exec (.btwm w) s = execBtwm w s := rfl
@[simp] theorem exec_btwait (w : FormX) (s : State) : exec (.btwait w) s = execBtwait w s := rfl
@[simp] theorem exec_btcan (w : FormX) (s : State) : exec (.btcan w) s = execBtcan w s := rfl
@[simp] theorem exec_btstat (w : FormX) (s : State) : exec (.btstat w) s = execBtstat w s := rfl
@[simp] theorem exec_bcpost (w : FormX) (s : State) : exec (.bcpost w) s = execBcpost w s := rfl
@[simp] theorem exec_bcarv (w : FormX) (s : State) : exec (.bcarv w) s = execBcarv w s := rfl
@[simp] theorem exec_bcwait (w : FormX) (s : State) : exec (.bcwait w) s = execBcwait w s := rfl
@[simp] theorem exec_bctest (w : FormX) (s : State) : exec (.bctest w) s = execBctest w s := rfl
@[simp] theorem exec_bcreset (w : FormX) (s : State) : exec (.bcreset w) s = execBcreset w s := rfl
@[simp] theorem exec_sync (w : FormX) (s : State) : exec (.sync w) s = execSync w s := rfl
@[simp] theorem exec_arrive (w : FormX) (s : State) : exec (.arrive w) s = execArrive w s := rfl
@[simp] theorem exec_waits (w : FormX) (s : State) : exec (.waits w) s = execWaits w s := rfl
@[simp] theorem exec_steprd (w : FormX) (s : State) : exec (.steprd w) s = execSteprd w s := rfl
@[simp] theorem exec_abortrd (w : FormX) (s : State) : exec (.abortrd w) s = execAbortrd w s := rfl
@[simp] theorem exec_dombind (w : FormX) (s : State) : exec (.dombind w) s = execDombind w s := rfl
@[simp] theorem exec_dombindFree (w : FormX) (s : State) : exec (.dombindFree w) s = execDombindFree w s := rfl
@[simp] theorem exec_mma (w : FormX) (s : State) : exec (.mma w) s = execMma w s := rfl
@[simp] theorem exec_mmat (w : FormX) (s : State) : exec (.mmat w) s = execMmat w s := rfl
@[simp] theorem exec_mbld (w : FormX) (s : State) : exec (.mbld w) s = execMbld w s := rfl
@[simp] theorem exec_mbldFree (w : FormX) (s : State) : exec (.mbldFree w) s = execMbldFree w s := rfl
@[simp] theorem exec_mbswap (w : FormX) (s : State) : exec (.mbswap w) s = execMbswap w s := rfl
@[simp] theorem exec_mplw (w : FormX) (s : State) : exec (.mplw w) s = execMplw w s := rfl
@[simp] theorem exec_mpdesc (w : FormX) (s : State) : exec (.mpdesc w) s = execMpdesc w s := rfl
@[simp] theorem exec_accz (w : FormX) (s : State) : exec (.accz w) s = execAccz w s := rfl
@[simp] theorem exec_accld (w : FormX) (s : State) : exec (.accld w) s = execAccld w s := rfl
@[simp] theorem exec_accst (w : FormX) (s : State) : exec (.accst w) s = execAccst w s := rfl
@[simp] theorem exec_acccvt (w : FormA) (s : State) : exec (.acccvt w) s = execAcccvt w s := rfl
@[simp] theorem exec_mqwait (w : FormX) (s : State) : exec (.mqwait w) s = execMqwait w s := rfl
@[simp] theorem exec_mstat (w : FormX) (s : State) : exec (.mstat w) s = execMstat w s := rfl
@[simp] theorem exec_stpkey (w : FormX) (s : State) : exec (.stpkey w) s = execStpkey w s := rfl
@[simp] theorem exec_stpmem (w : FormX) (s : State) : exec (.stpmem w) s = execStpmem w s := rfl
@[simp] theorem exec_stpmemAdd (w : FormX) (s : State) : exec (.stpmemAdd w) s = execStpmemAdd w s := rfl
@[simp] theorem exec_stpgen (w : FormA) (s : State) : exec (.stpgen w) s = execStpgen w s := rfl
@[simp] theorem exec_stpmul (w : FormA) (s : State) : exec (.stpmul w) s = execStpmul w s := rfl
@[simp] theorem exec_qcvt (w : FormA) (s : State) : exec (.qcvt w) s = execQcvt w s := rfl
@[simp] theorem exec_dqcvt (w : FormA) (s : State) : exec (.dqcvt w) s = execDqcvt w s := rfl
@[simp] theorem exec_hadv (w : FormA) (s : State) : exec (.hadv w) s = execHadv w s := rfl
@[simp] theorem exec_nmred (w : FormX) (s : State) : exec (.nmred w) s = execNmred w s := rfl
@[simp] theorem exec_nmgath (w : FormX) (s : State) : exec (.nmgath w) s = execNmgath w s := rfl
@[simp] theorem exec_nmfill (w : FormX) (s : State) : exec (.nmfill w) s = execNmfill w s := rfl
@[simp] theorem exec_nmcpy (w : FormX) (s : State) : exec (.nmcpy w) s = execNmcpy w s := rfl
@[simp] theorem exec_nmstat (w : FormX) (s : State) : exec (.nmstat w) s = execNmstat w s := rfl
@[simp] theorem exec_nmstatCap (w : FormX) (s : State) : exec (.nmstatCap w) s = execNmstatCap w s := rfl
@[simp] theorem exec_fsend (w : FormX) (s : State) : exec (.fsend w) s = execFsend w s := rfl
@[simp] theorem exec_route (w : FormX) (s : State) : exec (.route w) s = execRoute w s := rfl
@[simp] theorem exec_rtclose (w : FormX) (s : State) : exec (.rtclose w) s = execRtclose w s := rfl
@[simp] theorem exec_rtrecv (w : FormX) (s : State) : exec (.rtrecv w) s = execRtrecv w s := rfl
@[simp] theorem exec_coll (w : FormX) (s : State) : exec (.coll w) s = execColl w s := rfl
@[simp] theorem exec_collwait (w : FormX) (s : State) : exec (.collwait w) s = execCollwait w s := rfl
@[simp] theorem exec_fstatPort (w : FormX) (s : State) : exec (.fstatPort w) s = execFstatPort w s := rfl
@[simp] theorem exec_fstatWork (w : FormX) (s : State) : exec (.fstatWork w) s = execFstatWork w s := rfl
@[simp] theorem exec_fstatPod (w : FormX) (s : State) : exec (.fstatPod w) s = execFstatPod w s := rfl
@[simp] theorem exec_spawn (w : FormX) (s : State) : exec (.spawn w) s = execSpawn w s := rfl
@[simp] theorem exec_tcbrdy (w : FormX) (s : State) : exec (.tcbrdy w) s = execTcbrdy w s := rfl
@[simp] theorem exec_tdone (w : FormX) (s : State) : exec (.tdone w) s = execTdone w s := rfl
@[simp] theorem exec_taskid (w : FormX) (s : State) : exec (.taskid w) s = execTaskid w s := rfl
@[simp] theorem exec_rankrd (w : FormX) (s : State) : exec (.rankrd w) s = execRankrd w s := rfl
@[simp] theorem exec_rankrdShape (w : FormX) (s : State) : exec (.rankrdShape w) s = execRankrdShape w s := rfl
@[simp] theorem exec_preempt (w : FormX) (s : State) : exec (.preempt w) s = execPreempt w s := rfl
@[simp] theorem exec_preemptKill (w : FormX) (s : State) : exec (.preemptKill w) s = execPreemptKill w s := rfl
@[simp] theorem exec_resume (w : FormX) (s : State) : exec (.resume w) s = execResume w s := rfl
@[simp] theorem exec_resumeCtx (w : FormX) (s : State) : exec (.resumeCtx w) s = execResumeCtx w s := rfl
@[simp] theorem exec_resumeRemove (w : FormX) (s : State) : exec (.resumeRemove w) s = execResumeRemove w s := rfl
@[simp] theorem exec_reloc (w : FormX) (s : State) : exec (.reloc w) s = execReloc w s := rfl
@[simp] theorem exec_pginfo (w : FormX) (s : State) : exec (.pginfo w) s = execPginfo w s := rfl
@[simp] theorem exec_cntrd (w : FormX) (s : State) : exec (.cntrd w) s = execCntrd w s := rfl
@[simp] theorem exec_tlbinv (w : FormX) (s : State) : exec (.tlbinv w) s = execTlbinv w s := rfl
@[simp] theorem exec_tlbinvAll (w : FormX) (s : State) : exec (.tlbinvAll w) s = execTlbinvAll w s := rfl
@[simp] theorem exec_migr (w : FormX) (s : State) : exec (.migr w) s = execMigr w s := rfl
@[simp] theorem exec_tfence (w : FormA) (s : State) : exec (.tfence w) s = execTfence w s := rfl
@[simp] theorem exec_trap (w : FormI) (s : State) : exec (.trap w) s = execTrap w s := rfl
@[simp] theorem exec_eret (w : FormA) (s : State) : exec (.eret w) s = execEret w s := rfl
@[simp] theorem exec_eretu (w : FormA) (s : State) : exec (.eretu w) s = execEretu w s := rfl
@[simp] theorem exec_csrr (w : FormI) (s : State) : exec (.csrr w) s = execCsrr w s := rfl
@[simp] theorem exec_csrw (w : FormI) (s : State) : exec (.csrw w) s = execCsrw w s := rfl
@[simp] theorem exec_csrs (w : FormI) (s : State) : exec (.csrs w) s = execCsrs w s := rfl
@[simp] theorem exec_csrc (w : FormI) (s : State) : exec (.csrc w) s = execCsrc w s := rfl
@[simp] theorem exec_flagrd (w : FormA) (s : State) : exec (.flagrd w) s = execFlagrd w s := rfl
@[simp] theorem exec_flagclr (w : FormA) (s : State) : exec (.flagclr w) s = execFlagclr w s := rfl
@[simp] theorem exec_view (w : FormI) (s : State) : exec (.view w) s = execView w s := rfl
@[simp] theorem exec_setslk (w : FormA) (s : State) : exec (.setslk w) s = execSetslk w s := rfl
@[simp] theorem exec_cycle (w : FormA) (s : State) : exec (.cycle w) s = execCycle w s := rfl
@[simp] theorem exec_podtime (w : FormA) (s : State) : exec (.podtime w) s = execPodtime w s := rfl
@[simp] theorem exec_blockHeader (h : HeaderWord) (s : State) : exec (.blockHeader h) s = execBlockHeader h s := rfl
@[simp] theorem exec_resultReturn (data : List Byte) (s : State) : exec (.resultReturn data) s = execResultReturn data s := rfl
@[simp] theorem exec_registerEccError (correctable : Bool) (selfTestPasses : Bool) (s : State) : exec (.registerEccError correctable selfTestPasses) s = execRegisterEccError correctable selfTestPasses s := rfl
@[simp] theorem exec_balancePeriod (busy : List Nat) (s : State) : exec (.balancePeriod busy) s = execBalancePeriod busy s := rfl
@[simp] theorem exec_hardwareError (selfTestPasses : Bool) (s : State) : exec (.hardwareError selfTestPasses) s = execHardwareError selfTestPasses s := rfl
@[simp] theorem exec_readUncorrectable (access : Option CtxKey) (s : State) : exec (.readUncorrectable access) s = execReadUncorrectable access s := rfl
@[simp] theorem exec_slotControlReceive (c : SlotControl) (s : State) : exec (.slotControlReceive c) s = execSlotControlReceive c s := rfl
@[simp] theorem exec_flitReceive (f : Flit) (s : State) : exec (.flitReceive f) s = execFlitReceive f s := rfl
@[simp] theorem exec_maskChange (dark : BitVec 16) (s : State) : exec (.maskChange dark) s = execMaskChange dark s := rfl
@[simp] theorem exec_relayArrival (p : RelayPacket) (s : State) : exec (.relayArrival p) s = execRelayArrival p s := rfl
@[simp] theorem exec_peerRequest (r : PeerReq) (s : State) : exec (.peerRequest r) s = execPeerRequest r s := rfl
@[simp] theorem exec_shareAnnouncement (a : ShareNote) (s : State) : exec (.shareAnnouncement a) s = execShareAnnouncement a s := rfl
@[simp] theorem exec_podContribution (c : PodContrib) (s : State) : exec (.podContribution c) s = execPodContribution c s := rfl
@[simp] theorem exec_podResult (r : PodResult) (s : State) : exec (.podResult r) s = execPodResult r s := rfl
@[simp] theorem exec_fsendDelivery (f : FsendIn) (s : State) : exec (.fsendDelivery f) s = execFsendDelivery f s := rfl
@[simp] theorem exec_collPacketArrival (p : CollPacket) (s : State) : exec (.collPacketArrival p) s = execCollPacketArrival p s := rfl
@[simp] theorem exec_tokenHold (t : RToken) (s : State) : exec (.tokenHold t) s = execTokenHold t s := rfl
@[simp] theorem exec_round1Done (ts : List RToken) (s : State) : exec (.round1Done ts) s = execRound1Done ts s := rfl
@[simp] theorem exec_hostBar2Access (offset : Nat) (write : Bool) (data : List Byte) (s : State) : exec (.hostBar2Access offset write data) s = execHostBar2Access offset write data s := rfl
@[simp] theorem exec_hostActiveMessage (offset : Nat) (data : List Byte) (s : State) : exec (.hostActiveMessage offset data) s = execHostActiveMessage offset data s := rfl
@[simp] theorem exec_tcbsub (addr : Word) (s : State) : exec (.tcbsub addr) s = execTcbsub addr s := rfl
@[simp] theorem exec_hoststatWrite (half : Option Bool) (value : Word) (s : State) : exec (.hoststatWrite half value) s = execHoststatWrite half value s := rfl
@[simp] theorem exec_evheadWrite (value : Word) (s : State) : exec (.evheadWrite value) s = execEvheadWrite value s := rfl
@[simp] theorem exec_evlostClear (value : Word) (s : State) : exec (.evlostClear value) s = execEvlostClear value s := rfl
@[simp] theorem exec_fwctlVerify (length : BitVec 32) (s : State) : exec (.fwctlVerify length) s = execFwctlVerify length s := rfl
@[simp] theorem exec_brclr (value : Word) (s : State) : exec (.brclr value) s = execBrclr value s := rfl
@[simp] theorem exec_deviceReset (outcome : List (Nat × Bool)) (fw : Firmware) (s : State) : exec (.deviceReset outcome fw) s = execDeviceReset outcome fw s := rfl
@[simp] theorem exec_unitSelfTestDone (isStack : Bool) (pass : Bool) (s : State) : exec (.unitSelfTestDone isStack pass) s = execUnitSelfTestDone isStack pass s := rfl
@[simp] theorem exec_hostLinkError (replayGood : Bool) (s : State) : exec (.hostLinkError replayGood) s = execHostLinkError replayGood s := rfl
@[simp] theorem exec_meshLinkError (replayGood : Bool) (s : State) : exec (.meshLinkError replayGood) s = execMeshLinkError replayGood s := rfl
@[simp] theorem exec_undefinedOpcode (w : Word) (s : State) : exec (.undefinedOpcode w) s = execUndefinedOpcode w s := rfl
@[simp] theorem exec_controlWindowAccess (offset : Nat) (write : Bool) (data : List Byte) (s : State) : exec (.controlWindowAccess offset write data) s = execControlWindowAccess offset write data s := rfl
@[simp] theorem exec_hostLinkTrained (rate : Nat) (width : Nat) (s : State) : exec (.hostLinkTrained rate width) s = execHostLinkTrained rate width s := rfl
@[simp] theorem exec_instructionFetchReply (s : State) : exec .instructionFetchReply s = execInstructionFetchReply s := rfl
@[simp] theorem exec_gangForwardArrival (s : State) : exec .gangForwardArrival s = execGangForwardArrival s := rfl
@[simp] theorem exec_registerCacheFill (s : State) : exec .registerCacheFill s = execRegisterCacheFill s := rfl
@[simp] theorem exec_wfeLimitExpiry (s : State) : exec .wfeLimitExpiry s = execWfeLimitExpiry s := rfl
@[simp] theorem exec_yieldExpiry (s : State) : exec .yieldExpiry s = execYieldExpiry s := rfl
@[simp] theorem exec_userEventEntry (s : State) : exec .userEventEntry s = execUserEventEntry s := rfl
@[simp] theorem exec_sfqPost (s : State) : exec .sfqPost s = execSfqPost s := rfl
@[simp] theorem exec_waitTimeout (s : State) : exec .waitTimeout s = execWaitTimeout s := rfl
@[simp] theorem exec_slackTick (s : State) : exec .slackTick s = execSlackTick s := rfl
@[simp] theorem exec_packetArbitration (s : State) : exec .packetArbitration s = execPacketArbitration s := rfl
@[simp] theorem exec_barrierArrival (s : State) : exec .barrierArrival s = execBarrierArrival s := rfl
@[simp] theorem exec_stepCompletion (s : State) : exec .stepCompletion s = execStepCompletion s := rfl
@[simp] theorem exec_stepTimeout (s : State) : exec .stepTimeout s = execStepTimeout s := rfl
@[simp] theorem exec_copyRun (s : State) : exec .copyRun s = execCopyRun s := rfl
@[simp] theorem exec_copyInflightFault (s : State) : exec .copyInflightFault s = execCopyInflightFault s := rfl
@[simp] theorem exec_copyComplete (s : State) : exec .copyComplete s = execCopyComplete s := rfl
@[simp] theorem exec_bcPostApply (s : State) : exec .bcPostApply s = execBcPostApply s := rfl
@[simp] theorem exec_bcArrival (s : State) : exec .bcArrival s = execBcArrival s := rfl
@[simp] theorem exec_exchangeInflightFault (s : State) : exec .exchangeInflightFault s = execExchangeInflightFault s := rfl
@[simp] theorem exec_commitHoldEnd (s : State) : exec .commitHoldEnd s = execCommitHoldEnd s := rfl
@[simp] theorem exec_predecessorDecrement (s : State) : exec .predecessorDecrement s = execPredecessorDecrement s := rfl
@[simp] theorem exec_taskRetire (s : State) : exec .taskRetire s = execTaskRetire s := rfl
@[simp] theorem exec_activeMessageArrival (s : State) : exec .activeMessageArrival s = execActiveMessageArrival s := rfl
@[simp] theorem exec_activeMessageStart (s : State) : exec .activeMessageStart s = execActiveMessageStart s := rfl
@[simp] theorem exec_taskPlacement (s : State) : exec .taskPlacement s = execTaskPlacement s := rfl
@[simp] theorem exec_reservation (s : State) : exec .reservation s = execReservation s := rfl
@[simp] theorem exec_placementStall (s : State) : exec .placementStall s = execPlacementStall s := rfl
@[simp] theorem exec_taskStop (s : State) : exec .taskStop s = execTaskStop s := rfl
@[simp] theorem exec_imageEvict (s : State) : exec .imageEvict s = execImageEvict s := rfl
@[simp] theorem exec_taskResume (s : State) : exec .taskResume s = execTaskResume s := rfl
@[simp] theorem exec_taskRelocation (s : State) : exec .taskRelocation s = execTaskRelocation s := rfl
@[simp] theorem exec_traceMiss (s : State) : exec .traceMiss s = execTraceMiss s := rfl
@[simp] theorem exec_matrixCommandExecute (s : State) : exec .matrixCommandExecute s = execMatrixCommandExecute s := rfl
@[simp] theorem exec_bankReplay (s : State) : exec .bankReplay s = execBankReplay s := rfl
@[simp] theorem exec_tableWalk (s : State) : exec .tableWalk s = execTableWalk s := rfl
@[simp] theorem exec_counterIncrement (s : State) : exec .counterIncrement s = execCounterIncrement s := rfl
@[simp] theorem exec_notificationPush (s : State) : exec .notificationPush s = execNotificationPush s := rfl
@[simp] theorem exec_migrationComplete (s : State) : exec .migrationComplete s = execMigrationComplete s := rfl
@[simp] theorem exec_writeBlocked (s : State) : exec .writeBlocked s = execWriteBlocked s := rfl
@[simp] theorem exec_readRetryResult (s : State) : exec .readRetryResult s = execReadRetryResult s := rfl
@[simp] theorem exec_basedieSubcommand (s : State) : exec .basedieSubcommand s = execBasedieSubcommand s := rfl
@[simp] theorem exec_basedieComplete (s : State) : exec .basedieComplete s = execBasedieComplete s := rfl
@[simp] theorem exec_basedieInflightFault (s : State) : exec .basedieInflightFault s = execBasedieInflightFault s := rfl
@[simp] theorem exec_refresh (s : State) : exec .refresh s = execRefresh s := rfl
@[simp] theorem exec_rateChange (s : State) : exec .rateChange s = execRateChange s := rfl
@[simp] theorem exec_stackThermalLimit (s : State) : exec .stackThermalLimit s = execStackThermalLimit s := rfl
@[simp] theorem exec_slotStart (s : State) : exec .slotStart s = execSlotStart s := rfl
@[simp] theorem exec_peerAbsent (s : State) : exec .peerAbsent s = execPeerAbsent s := rfl
@[simp] theorem exec_wavelengthDark (s : State) : exec .wavelengthDark s = execWavelengthDark s := rfl
@[simp] theorem exec_replayResend (s : State) : exec .replayResend s = execReplayResend s := rfl
@[simp] theorem exec_peerTimeout (s : State) : exec .peerTimeout s = execPeerTimeout s := rfl
@[simp] theorem exec_fsendComplete (s : State) : exec .fsendComplete s = execFsendComplete s := rfl
@[simp] theorem exec_fsendInflightFault (s : State) : exec .fsendInflightFault s = execFsendInflightFault s := rfl
@[simp] theorem exec_collNodeComplete (s : State) : exec .collNodeComplete s = execCollNodeComplete s := rfl
@[simp] theorem exec_collMismatch (s : State) : exec .collMismatch s = execCollMismatch s := rfl
@[simp] theorem exec_admissionRound1 (s : State) : exec .admissionRound1 s = execAdmissionRound1 s := rfl
@[simp] theorem exec_admissionRound2 (s : State) : exec .admissionRound2 s = execAdmissionRound2 s := rfl
@[simp] theorem exec_eventRecordPost (s : State) : exec .eventRecordPost s = execEventRecordPost s := rfl
@[simp] theorem exec_firmwareVerified (s : State) : exec .firmwareVerified s = execFirmwareVerified s := rfl
@[simp] theorem exec_fwctlRaisemin (s : State) : exec .fwctlRaisemin s = execFwctlRaisemin s := rfl
@[simp] theorem exec_attestationRequest (s : State) : exec .attestationRequest s = execAttestationRequest s := rfl
@[simp] theorem exec_attestationDone (s : State) : exec .attestationDone s = execAttestationDone s := rfl
@[simp] theorem exec_throttleTemperature (s : State) : exec .throttleTemperature s = execThrottleTemperature s := rfl
@[simp] theorem exec_stepRaised (s : State) : exec .stepRaised s = execStepRaised s := rfl
@[simp] theorem exec_trip (s : State) : exec .trip s = execTrip s := rfl
@[simp] theorem exec_hostLinkDown (s : State) : exec .hostLinkDown s = execHostLinkDown s := rfl

end Sys2Proof.Machine
end

