-- ==== Sys2Proof/Laws/Memory.lean ====
section
/-! SUPPORT. The laws of memory: the canonical form and what keeps it, read after write, numbers as bytes. -/

namespace Sys2Proof.Machine

/-! ### The canonical form -/

theorem Mem.wfFrom_mono {n k : Nat} (h : n ≤ k) : ∀ {m : Mem}, m.wfFrom k = true → m.wfFrom n = true
  | [], _ => rfl
  | (_, _) :: _, w => by
    simp only [Mem.wfFrom, Bool.and_eq_true, decide_eq_true_eq] at w ⊢
    exact ⟨⟨by omega, w.1.2⟩, w.2⟩

theorem Mem.wfFrom_put {n a : Nat} {b : Byte} {r : Mem} (hn : n ≤ a) (w : r.wfFrom (a + 1) = true) :
    (Mem.put a b r).wfFrom n = true := by
  unfold Mem.put
  split
  · exact Mem.wfFrom_mono (by omega) w
  · simp [Mem.wfFrom, *]

theorem Mem.wfFrom_set {a : Nat} {b : Byte} : ∀ {m : Mem} {n : Nat}, m.wfFrom n = true → n ≤ a → (m.set a b).wfFrom n = true
  | [], _, w, hn => Mem.wfFrom_put hn rfl
  | (k, c) :: r, n, w, hn => by
    simp only [Mem.wfFrom, Bool.and_eq_true, decide_eq_true_eq] at w
    unfold Mem.set
    split
    · refine Mem.wfFrom_put hn ?_
      simp only [Mem.wfFrom, Bool.and_eq_true, decide_eq_true_eq]
      exact ⟨⟨by omega, w.1.2⟩, w.2⟩
    · split
      · subst_vars; exact Mem.wfFrom_put hn w.2
      · simp only [Mem.wfFrom, Bool.and_eq_true, decide_eq_true_eq]
        exact ⟨w.1, Mem.wfFrom_set w.2 (by omega)⟩

/-- Writing one byte keeps the canonical form. -/
theorem Mem.wf_set {m : Mem} (w : m.wf = true) (a : Nat) (b : Byte) : (m.set a b).wf = true := Mem.wfFrom_set w (Nat.zero_le a)

/-- Writing bytes keeps the canonical form. -/
theorem Mem.wf_write : ∀ (bs : List Byte) {m : Mem} (_ : m.wf = true) (a : Nat), (m.write a bs).wf = true
  | [], _, w, _ => w
  | b :: r, _, w, a => Mem.wf_write r (Mem.wf_set w a b) (a + 1)

/-- Writing single bytes one after the other keeps the canonical form. -/
theorem Mem.wf_foldl_set {α : Type} (key : α → Nat) (val : α → Byte) : ∀ (l : List α) {m : Mem}, m.wf = true →
    (l.foldl (fun acc x => acc.set (key x) (val x)) m).wf = true
  | [], _, w => w
  | _ :: r, _, w => Mem.wf_foldl_set key val r (Mem.wf_set w _ _)

theorem Mem.wfFrom_filter (p : Host.Cell → Bool) : ∀ {m : Mem} {n : Nat}, m.wfFrom n = true → Mem.wfFrom n (m.filter p) = true
  | [], _, _ => rfl
  | (k, c) :: r, n, w => by
    simp only [Mem.wfFrom, Bool.and_eq_true, decide_eq_true_eq] at w
    rw [List.filter_cons]
    split
    · simp only [Mem.wfFrom, Bool.and_eq_true, decide_eq_true_eq]
      exact ⟨w.1, Mem.wfFrom_filter p w.2⟩
    · exact Mem.wfFrom_filter p (Mem.wfFrom_mono (by omega) w.2)

/-- Forgetting bytes keeps the canonical form. -/
theorem Mem.wf_filter {m : Mem} (w : m.wf = true) (p : Host.Cell → Bool) : Mem.wf (m.filter p) = true := Mem.wfFrom_filter p w


/-- Moving a page keeps the canonical form. -/
theorem wf_moveFrame {m : Mem} (w : m.wf = true) (old new n : Nat) : (moveFrame old new n m).wf = true :=
  Mem.wf_foldl_set _ _ _ (Mem.wf_filter w _)

/-- A fold whose every step keeps the canonical form keeps it. -/
theorem wf_foldl {α : Type} (f : Mem → α → Mem) (hf : ∀ m x, m.wf = true → (f m x).wf = true) :
    ∀ (l : List α) {m : Mem}, m.wf = true → (l.foldl f m).wf = true
  | [], _, w => w
  | x :: r, m, w => wf_foldl f hf r (hf m x w)

/-- Committing a step keeps the canonical form. -/
theorem wf_commitAll {m : Mem} (w : m.wf = true) (es : List Staged) : (commitAll m es).wf = true :=
  wf_foldl _ (fun _ _ h => Mem.wf_foldl_set _ _ _ h) es w

/-- Moving the memories of a task's units keeps the canonical form. -/
theorem wf_moveMem {m : Mem} (w : m.wf = true) (b : Block) (old new : Nat) : (moveMem b old new m).wf = true := by
  unfold moveMem
  refine wf_foldl _ (fun acc x h => ?_) m (Mem.wf_filter w _)
  split
  · exact Mem.wf_set h _ _
  · exact h

/-! ### One byte -/

theorem Mem.get_of_lt {a : Nat} : ∀ {m : Mem} {n : Nat}, m.wfFrom n = true → a < n → m.get a = Mem.unlisted
  | [], _, _, _ => rfl
  | (k, c) :: r, n, w, h => by
    simp only [Mem.wfFrom, Bool.and_eq_true, decide_eq_true_eq] at w
    unfold Mem.get
    rw [if_neg (by omega), if_pos (by omega)]

theorem Mem.get_put {a x : Nat} {b : Byte} {r : Mem} (w : r.wfFrom (a + 1) = true) :
    (Mem.put a b r).get x = if x = a then b else r.get x := by
  unfold Mem.put
  split
  · split
    · subst_vars; exact Mem.get_of_lt w (by omega)
    · rfl
  · simp only [Mem.get]
    split
    · rfl
    · split
      · exact (Mem.get_of_lt w (by omega)).symm
      · rfl

theorem Mem.get_set_from {a x : Nat} {b : Byte} : ∀ {m : Mem} {n : Nat}, m.wfFrom n = true →
    (m.set a b).get x = if x = a then b else m.get x
  | [], _, _ => Mem.get_put rfl
  | (k, c) :: r, n, w => by
    have w' := w
    simp only [Mem.wfFrom, Bool.and_eq_true, decide_eq_true_eq] at w'
    unfold Mem.set
    split
    · refine Mem.get_put ?_
      simp only [Mem.wfFrom, Bool.and_eq_true, decide_eq_true_eq]
      exact ⟨⟨by omega, w'.1.2⟩, w'.2⟩
    · split
      · subst_vars
        rw [Mem.get_put w'.2]
        split
        · rfl
        · conv_rhs => unfold Mem.get
          rw [if_neg ‹_›]
          split
          · exact Mem.get_of_lt w'.2 (by omega)
          · rfl
      · simp only [Mem.get]
        rw [Mem.get_set_from w'.2]
        split
        · rw [if_neg (by omega)]
        · split
          · rw [if_neg (by omega)]
          · rfl

/-- Reading a byte after writing one. -/
theorem Mem.get_set {m : Mem} (w : m.wf = true) (a x : Nat) (b : Byte) : (m.set a b).get x = if x = a then b else m.get x :=
  Mem.get_set_from w

/-- Two memories in canonical form that read alike are equal. -/
theorem Mem.ext_from : ∀ {m r : Mem} {n : Nat}, m.wfFrom n = true → r.wfFrom n = true → (∀ a, m.get a = r.get a) → m = r
  | [], [], _, _, _, _ => rfl
  | [], (k, c) :: r, _, _, w, h => by
    have := h k
    simp [Mem.get, Mem.wfFrom] at this w
    exact absurd this.symm w.1.2
  | (k, c) :: r, [], _, w, _, h => by
    have := h k
    simp [Mem.get, Mem.wfFrom] at this w
    exact absurd this w.1.2
  | (k, c) :: r, (k', c') :: r', n, w, w', h => by
    simp only [Mem.wfFrom, Bool.and_eq_true, decide_eq_true_eq, bne_iff_ne, ne_eq] at w w'
    have hk : k = k' := by
      rcases Nat.lt_trichotomy k k' with g | g | g
      · have := h k
        simp only [Mem.get, if_pos, if_neg (Nat.ne_of_lt g), if_pos g] at this
        exact absurd this w.1.2
      · exact g
      · have := h k'
        simp only [Mem.get, if_pos, if_neg (Nat.ne_of_lt g), if_pos g] at this
        exact absurd this.symm w'.1.2
    subst hk
    have hc : c = c' := by have := h k; simpa [Mem.get] using this
    subst hc
    refine congrArg _ (Mem.ext_from w.2 w'.2 fun a => ?_)
    have := h a
    simp only [Mem.get] at this
    by_cases e : a = k
    · rw [Mem.get_of_lt w.2 (by omega), Mem.get_of_lt w'.2 (by omega)]
    · by_cases l : a < k
      · rw [Mem.get_of_lt w.2 (by omega), Mem.get_of_lt w'.2 (by omega)]
      · simpa [e, l] using this

theorem Mem.ext {m r : Mem} (w : m.wf = true) (w' : r.wf = true) (h : ∀ a, m.get a = r.get a) : m = r := Mem.ext_from w w' h

/-! ### Several bytes -/

@[simp] theorem Mem.read_length (m : Mem) : ∀ (n a : Nat), (m.read a n).length = n
  | 0, _ => rfl
  | n + 1, a => by simp [Mem.read, Mem.read_length m n]

/-- A byte after a write of several. -/
theorem Mem.get_write : ∀ (bs : List Byte) {m : Mem} (_ : m.wf = true) (a x : Nat),
    (m.write a bs).get x = if a ≤ x ∧ x < a + bs.length then bs.getD (x - a) 0 else m.get x
  | [], _, _, a, x => by
    rw [if_neg (fun h => absurd h.2 (by simpa using h.1))]; rfl
  | b :: r, m, w, a, x => by
    unfold Mem.write
    rw [Mem.get_write r (Mem.wf_set w a b), Mem.get_set w]
    by_cases e : x = a
    · subst e
      rw [if_neg (by omega), if_pos rfl, if_pos (by simp)]
      simp
    · rw [if_neg e]
      by_cases h : a + 1 ≤ x ∧ x < a + 1 + r.length
      · rw [if_pos h, if_pos (by simp; omega)]
        obtain ⟨k, rfl⟩ : ∃ k, x = a + 1 + k := ⟨x - (a + 1), by omega⟩
        have e1 : a + 1 + k - (a + 1) = k := by omega
        have e2 : a + 1 + k - a = k + 1 := by omega
        rw [e1, e2, List.getD_cons_succ]
      · rw [if_neg h, if_neg (by simp at h ⊢; omega)]

/-- A write leaves every byte outside it alone. -/
theorem Mem.get_write_other {m : Mem} (w : m.wf = true) {a x : Nat} {bs : List Byte} (h : x < a ∨ a + bs.length ≤ x) :
    (m.write a bs).get x = m.get x := by
  rw [Mem.get_write bs w, if_neg (by omega)]

theorem Mem.read_congr {m r : Mem} : ∀ (n a : Nat), (∀ x, a ≤ x → x < a + n → m.get x = r.get x) → m.read a n = r.read a n
  | 0, _, _ => rfl
  | n + 1, a, h => by
    unfold Mem.read
    rw [h a (Nat.le_refl a) (by omega), Mem.read_congr n (a + 1) fun x g g' => h x (by omega) (by omega)]

/-- A read outside the bytes of a write gives what it gave before. -/
theorem Mem.read_write_other {m : Mem} (w : m.wf = true) {a x n : Nat} {bs : List Byte} (h : x + n ≤ a ∨ a + bs.length ≤ x) :
    (m.write a bs).read x n = m.read x n :=
  Mem.read_congr n x fun _ _ _ => Mem.get_write_other w (by omega)

/-- A read of the bytes of a write gives them back. -/
theorem Mem.read_write : ∀ (bs : List Byte) {m : Mem} (_ : m.wf = true) (a : Nat), (m.write a bs).read a bs.length = bs
  | [], _, _, _ => rfl
  | b :: r, m, w, a => by
    simp only [Mem.write, List.length_cons, Mem.read]
    rw [Mem.read_write r (Mem.wf_set w a b), Mem.get_write_other (Mem.wf_set w a b) (by omega), Mem.get_set w, if_pos rfl]

/-! ### Numbers as bytes -/

@[simp] theorem bytesOf_length : ∀ (n x : Nat), (bytesOf n x).length = n
  | 0, _ => rfl
  | n + 1, x => by simp [bytesOf, bytesOf_length n]

theorem numOf_lt : ∀ (l : List Byte), numOf l < 256 ^ l.length
  | [] => by simp [numOf]
  | b :: r => by
    have := numOf_lt r
    have hb := b.isLt
    simp only [numOf, List.length_cons, Nat.pow_succ]
    omega

/-- The number of the bytes of a number. -/
theorem numOf_bytesOf : ∀ (n x : Nat), numOf (bytesOf n x) = x % 256 ^ n
  | 0, x => by simp [bytesOf, numOf, Nat.mod_one]
  | n + 1, x => by
    simp only [bytesOf, numOf, numOf_bytesOf n, BitVec.toNat_ofNat]
    rw [show (256 : Nat) ^ (n + 1) = 2 ^ 8 * 256 ^ n by rw [Nat.pow_succ, Nat.mul_comm]; rfl, Nat.mod_mul]
    rfl

/-- A number written reads back. -/
theorem Mem.num_write_bytesOf {m : Mem} (w : m.wf = true) (a n x : Nat) : (m.write a (bytesOf n x)).num a n = x % 256 ^ n := by
  have h := Mem.read_write (bytesOf n x) w a
  rw [bytesOf_length] at h
  rw [Mem.num, h, numOf_bytesOf]

end Sys2Proof.Machine
end

