-- ==== Sys2Proof/Laws/State.lean ====
section
/-! SUPPORT. What each update of the state and of a context's record leaves alone: one lemma per field per update, so that no
proof unfolds a record update. -/

namespace Sys2Proof.Machine

/-! ### Replacing a context's record -/

@[simp] theorem State.setCtx_sel (s : State) (c : Ctx) : (s.setCtx c).sel = s.sel := rfl
@[simp] theorem State.setCtx_cycle (s : State) (c : Ctx) : (s.setCtx c).cycle = s.cycle := rfl
@[simp] theorem State.setCtx_ticks (s : State) (c : Ctx) : (s.setCtx c).ticks = s.ticks := rfl
@[simp] theorem State.setCtx_podtime (s : State) (c : Ctx) : (s.setCtx c).podtime = s.podtime := rfl
@[simp] theorem State.setCtx_tickAt (s : State) (c : Ctx) : (s.setCtx c).tickAt = s.tickAt := rfl
@[simp] theorem State.setCtx_free (s : State) (c : Ctx) : (s.setCtx c).free = s.free := rfl
@[simp] theorem State.setCtx_seq (s : State) (c : Ctx) : (s.setCtx c).seq = s.seq := rfl
@[simp] theorem State.setCtx_off (s : State) (c : Ctx) : (s.setCtx c).off = s.off := rfl
@[simp] theorem State.setCtx_tiles (s : State) (c : Ctx) : (s.setCtx c).tiles = s.tiles := rfl
@[simp] theorem State.setCtx_retired (s : State) (c : Ctx) : (s.setCtx c).retired = s.retired := rfl
@[simp] theorem State.setCtx_mem (s : State) (c : Ctx) : (s.setCtx c).mem = s.mem := rfl
@[simp] theorem State.setCtx_staged (s : State) (c : Ctx) : (s.setCtx c).staged = s.staged := rfl
@[simp] theorem State.setCtx_hostOld (s : State) (c : Ctx) : (s.setCtx c).hostOld = s.hostOld := rfl
@[simp] theorem State.setCtx_domains (s : State) (c : Ctx) : (s.setCtx c).domains = s.domains := rfl
@[simp] theorem State.setCtx_tasks (s : State) (c : Ctx) : (s.setCtx c).tasks = s.tasks := rfl
@[simp] theorem State.setCtx_messages (s : State) (c : Ctx) : (s.setCtx c).messages = s.messages := rfl
@[simp] theorem State.setCtx_deferred (s : State) (c : Ctx) : (s.setCtx c).deferred = s.deferred := rfl
@[simp] theorem State.setCtx_decrements (s : State) (c : Ctx) : (s.setCtx c).decrements = s.decrements := rfl
@[simp] theorem State.setCtx_spills (s : State) (c : Ctx) : (s.setCtx c).spills = s.spills := rfl
@[simp] theorem State.setCtx_corrected (s : State) (c : Ctx) : (s.setCtx c).corrected = s.corrected := rfl
@[simp] theorem State.setCtx_transient (s : State) (c : Ctx) : (s.setCtx c).transient = s.transient := rfl
@[simp] theorem State.setCtx_traceCount (s : State) (c : Ctx) : (s.setCtx c).traceCount = s.traceCount := rfl
@[simp] theorem State.setCtx_balancedAt (s : State) (c : Ctx) : (s.setCtx c).balancedAt = s.balancedAt := rfl
@[simp] theorem State.setCtx_busyCtx (s : State) (c : Ctx) : (s.setCtx c).busyCtx = s.busyCtx := rfl
@[simp] theorem State.setCtx_busyCycles (s : State) (c : Ctx) : (s.setCtx c).busyCycles = s.busyCycles := rfl
@[simp] theorem State.setCtx_packets (s : State) (c : Ctx) : (s.setCtx c).packets = s.packets := rfl
@[simp] theorem State.setCtx_busyOut (s : State) (c : Ctx) : (s.setCtx c).busyOut = s.busyOut := rfl
@[simp] theorem State.setCtx_barrierFlits (s : State) (c : Ctx) : (s.setCtx c).barrierFlits = s.barrierFlits := rfl
@[simp] theorem State.setCtx_saved (s : State) (c : Ctx) : (s.setCtx c).saved = s.saved := rfl
@[simp] theorem State.setCtx_sfqWait (s : State) (c : Ctx) : (s.setCtx c).sfqWait = s.sfqWait := rfl
@[simp] theorem State.setCtx_regs (s : State) (c : Ctx) : (s.setCtx c).regs = s.regs := rfl
@[simp] theorem State.setCtx_xlat (s : State) (c : Ctx) : (s.setCtx c).xlat = s.xlat := rfl
@[simp] theorem State.setCtx_bd (s : State) (c : Ctx) : (s.setCtx c).bd = s.bd := rfl
@[simp] theorem State.setCtx_fab (s : State) (c : Ctx) : (s.setCtx c).fab = s.fab := rfl
@[simp] theorem State.setCtx_host (s : State) (c : Ctx) : (s.setCtx c).host = s.host := rfl
@[simp] theorem State.setCtx_agenda (s : State) (c : Ctx) : (s.setCtx c).agenda = s.agenda := rfl

/-! ### Changing a context's record -/

@[simp] theorem State.updCtx_sel (s : State) (c : Ctx) (f : Ctx → Ctx) : (s.updCtx c f).sel = s.sel := rfl
@[simp] theorem State.updCtx_cycle (s : State) (c : Ctx) (f : Ctx → Ctx) : (s.updCtx c f).cycle = s.cycle := rfl
@[simp] theorem State.updCtx_ticks (s : State) (c : Ctx) (f : Ctx → Ctx) : (s.updCtx c f).ticks = s.ticks := rfl
@[simp] theorem State.updCtx_podtime (s : State) (c : Ctx) (f : Ctx → Ctx) : (s.updCtx c f).podtime = s.podtime := rfl
@[simp] theorem State.updCtx_tickAt (s : State) (c : Ctx) (f : Ctx → Ctx) : (s.updCtx c f).tickAt = s.tickAt := rfl
@[simp] theorem State.updCtx_free (s : State) (c : Ctx) (f : Ctx → Ctx) : (s.updCtx c f).free = s.free := rfl
@[simp] theorem State.updCtx_seq (s : State) (c : Ctx) (f : Ctx → Ctx) : (s.updCtx c f).seq = s.seq := rfl
@[simp] theorem State.updCtx_off (s : State) (c : Ctx) (f : Ctx → Ctx) : (s.updCtx c f).off = s.off := rfl
@[simp] theorem State.updCtx_tiles (s : State) (c : Ctx) (f : Ctx → Ctx) : (s.updCtx c f).tiles = s.tiles := rfl
@[simp] theorem State.updCtx_retired (s : State) (c : Ctx) (f : Ctx → Ctx) : (s.updCtx c f).retired = s.retired := rfl
@[simp] theorem State.updCtx_mem (s : State) (c : Ctx) (f : Ctx → Ctx) : (s.updCtx c f).mem = s.mem := rfl
@[simp] theorem State.updCtx_staged (s : State) (c : Ctx) (f : Ctx → Ctx) : (s.updCtx c f).staged = s.staged := rfl
@[simp] theorem State.updCtx_hostOld (s : State) (c : Ctx) (f : Ctx → Ctx) : (s.updCtx c f).hostOld = s.hostOld := rfl
@[simp] theorem State.updCtx_domains (s : State) (c : Ctx) (f : Ctx → Ctx) : (s.updCtx c f).domains = s.domains := rfl
@[simp] theorem State.updCtx_tasks (s : State) (c : Ctx) (f : Ctx → Ctx) : (s.updCtx c f).tasks = s.tasks := rfl
@[simp] theorem State.updCtx_messages (s : State) (c : Ctx) (f : Ctx → Ctx) : (s.updCtx c f).messages = s.messages := rfl
@[simp] theorem State.updCtx_deferred (s : State) (c : Ctx) (f : Ctx → Ctx) : (s.updCtx c f).deferred = s.deferred := rfl
@[simp] theorem State.updCtx_decrements (s : State) (c : Ctx) (f : Ctx → Ctx) : (s.updCtx c f).decrements = s.decrements := rfl
@[simp] theorem State.updCtx_spills (s : State) (c : Ctx) (f : Ctx → Ctx) : (s.updCtx c f).spills = s.spills := rfl
@[simp] theorem State.updCtx_corrected (s : State) (c : Ctx) (f : Ctx → Ctx) : (s.updCtx c f).corrected = s.corrected := rfl
@[simp] theorem State.updCtx_transient (s : State) (c : Ctx) (f : Ctx → Ctx) : (s.updCtx c f).transient = s.transient := rfl
@[simp] theorem State.updCtx_traceCount (s : State) (c : Ctx) (f : Ctx → Ctx) : (s.updCtx c f).traceCount = s.traceCount := rfl
@[simp] theorem State.updCtx_balancedAt (s : State) (c : Ctx) (f : Ctx → Ctx) : (s.updCtx c f).balancedAt = s.balancedAt := rfl
@[simp] theorem State.updCtx_busyCtx (s : State) (c : Ctx) (f : Ctx → Ctx) : (s.updCtx c f).busyCtx = s.busyCtx := rfl
@[simp] theorem State.updCtx_busyCycles (s : State) (c : Ctx) (f : Ctx → Ctx) : (s.updCtx c f).busyCycles = s.busyCycles := rfl
@[simp] theorem State.updCtx_packets (s : State) (c : Ctx) (f : Ctx → Ctx) : (s.updCtx c f).packets = s.packets := rfl
@[simp] theorem State.updCtx_busyOut (s : State) (c : Ctx) (f : Ctx → Ctx) : (s.updCtx c f).busyOut = s.busyOut := rfl
@[simp] theorem State.updCtx_barrierFlits (s : State) (c : Ctx) (f : Ctx → Ctx) : (s.updCtx c f).barrierFlits = s.barrierFlits := rfl
@[simp] theorem State.updCtx_saved (s : State) (c : Ctx) (f : Ctx → Ctx) : (s.updCtx c f).saved = s.saved := rfl
@[simp] theorem State.updCtx_sfqWait (s : State) (c : Ctx) (f : Ctx → Ctx) : (s.updCtx c f).sfqWait = s.sfqWait := rfl
@[simp] theorem State.updCtx_regs (s : State) (c : Ctx) (f : Ctx → Ctx) : (s.updCtx c f).regs = s.regs := rfl
@[simp] theorem State.updCtx_xlat (s : State) (c : Ctx) (f : Ctx → Ctx) : (s.updCtx c f).xlat = s.xlat := rfl
@[simp] theorem State.updCtx_bd (s : State) (c : Ctx) (f : Ctx → Ctx) : (s.updCtx c f).bd = s.bd := rfl
@[simp] theorem State.updCtx_fab (s : State) (c : Ctx) (f : Ctx → Ctx) : (s.updCtx c f).fab = s.fab := rfl
@[simp] theorem State.updCtx_host (s : State) (c : Ctx) (f : Ctx → Ctx) : (s.updCtx c f).host = s.host := rfl
@[simp] theorem State.updCtx_agenda (s : State) (c : Ctx) (f : Ctx → Ctx) : (s.updCtx c f).agenda = s.agenda := rfl

/-! ### Changing a task's record -/

@[simp] theorem State.updTask_sel (s : State) (n : Nat) (f : Task → Task) : (s.updTask n f).sel = s.sel := rfl
@[simp] theorem State.updTask_cycle (s : State) (n : Nat) (f : Task → Task) : (s.updTask n f).cycle = s.cycle := rfl
@[simp] theorem State.updTask_ticks (s : State) (n : Nat) (f : Task → Task) : (s.updTask n f).ticks = s.ticks := rfl
@[simp] theorem State.updTask_podtime (s : State) (n : Nat) (f : Task → Task) : (s.updTask n f).podtime = s.podtime := rfl
@[simp] theorem State.updTask_tickAt (s : State) (n : Nat) (f : Task → Task) : (s.updTask n f).tickAt = s.tickAt := rfl
@[simp] theorem State.updTask_free (s : State) (n : Nat) (f : Task → Task) : (s.updTask n f).free = s.free := rfl
@[simp] theorem State.updTask_seq (s : State) (n : Nat) (f : Task → Task) : (s.updTask n f).seq = s.seq := rfl
@[simp] theorem State.updTask_off (s : State) (n : Nat) (f : Task → Task) : (s.updTask n f).off = s.off := rfl
@[simp] theorem State.updTask_ctxs (s : State) (n : Nat) (f : Task → Task) : (s.updTask n f).ctxs = s.ctxs := rfl
@[simp] theorem State.updTask_tiles (s : State) (n : Nat) (f : Task → Task) : (s.updTask n f).tiles = s.tiles := rfl
@[simp] theorem State.updTask_retired (s : State) (n : Nat) (f : Task → Task) : (s.updTask n f).retired = s.retired := rfl
@[simp] theorem State.updTask_mem (s : State) (n : Nat) (f : Task → Task) : (s.updTask n f).mem = s.mem := rfl
@[simp] theorem State.updTask_staged (s : State) (n : Nat) (f : Task → Task) : (s.updTask n f).staged = s.staged := rfl
@[simp] theorem State.updTask_hostOld (s : State) (n : Nat) (f : Task → Task) : (s.updTask n f).hostOld = s.hostOld := rfl
@[simp] theorem State.updTask_domains (s : State) (n : Nat) (f : Task → Task) : (s.updTask n f).domains = s.domains := rfl
@[simp] theorem State.updTask_messages (s : State) (n : Nat) (f : Task → Task) : (s.updTask n f).messages = s.messages := rfl
@[simp] theorem State.updTask_deferred (s : State) (n : Nat) (f : Task → Task) : (s.updTask n f).deferred = s.deferred := rfl
@[simp] theorem State.updTask_decrements (s : State) (n : Nat) (f : Task → Task) : (s.updTask n f).decrements = s.decrements := rfl
@[simp] theorem State.updTask_spills (s : State) (n : Nat) (f : Task → Task) : (s.updTask n f).spills = s.spills := rfl
@[simp] theorem State.updTask_corrected (s : State) (n : Nat) (f : Task → Task) : (s.updTask n f).corrected = s.corrected := rfl
@[simp] theorem State.updTask_transient (s : State) (n : Nat) (f : Task → Task) : (s.updTask n f).transient = s.transient := rfl
@[simp] theorem State.updTask_traceCount (s : State) (n : Nat) (f : Task → Task) : (s.updTask n f).traceCount = s.traceCount := rfl
@[simp] theorem State.updTask_balancedAt (s : State) (n : Nat) (f : Task → Task) : (s.updTask n f).balancedAt = s.balancedAt := rfl
@[simp] theorem State.updTask_busyCtx (s : State) (n : Nat) (f : Task → Task) : (s.updTask n f).busyCtx = s.busyCtx := rfl
@[simp] theorem State.updTask_busyCycles (s : State) (n : Nat) (f : Task → Task) : (s.updTask n f).busyCycles = s.busyCycles := rfl
@[simp] theorem State.updTask_packets (s : State) (n : Nat) (f : Task → Task) : (s.updTask n f).packets = s.packets := rfl
@[simp] theorem State.updTask_busyOut (s : State) (n : Nat) (f : Task → Task) : (s.updTask n f).busyOut = s.busyOut := rfl
@[simp] theorem State.updTask_barrierFlits (s : State) (n : Nat) (f : Task → Task) : (s.updTask n f).barrierFlits = s.barrierFlits := rfl
@[simp] theorem State.updTask_saved (s : State) (n : Nat) (f : Task → Task) : (s.updTask n f).saved = s.saved := rfl
@[simp] theorem State.updTask_sfqWait (s : State) (n : Nat) (f : Task → Task) : (s.updTask n f).sfqWait = s.sfqWait := rfl
@[simp] theorem State.updTask_regs (s : State) (n : Nat) (f : Task → Task) : (s.updTask n f).regs = s.regs := rfl
@[simp] theorem State.updTask_xlat (s : State) (n : Nat) (f : Task → Task) : (s.updTask n f).xlat = s.xlat := rfl
@[simp] theorem State.updTask_bd (s : State) (n : Nat) (f : Task → Task) : (s.updTask n f).bd = s.bd := rfl
@[simp] theorem State.updTask_fab (s : State) (n : Nat) (f : Task → Task) : (s.updTask n f).fab = s.fab := rfl
@[simp] theorem State.updTask_host (s : State) (n : Nat) (f : Task → Task) : (s.updTask n f).host = s.host := rfl
@[simp] theorem State.updTask_agenda (s : State) (n : Nat) (f : Task → Task) : (s.updTask n f).agenda = s.agenda := rfl

/-! ### Replacing a tile's record -/

@[simp] theorem State.setTile_sel (s : State) (t : Tile) : (s.setTile t).sel = s.sel := by
  unfold State.setTile; split <;> rfl
@[simp] theorem State.setTile_cycle (s : State) (t : Tile) : (s.setTile t).cycle = s.cycle := by
  unfold State.setTile; split <;> rfl
@[simp] theorem State.setTile_ticks (s : State) (t : Tile) : (s.setTile t).ticks = s.ticks := by
  unfold State.setTile; split <;> rfl
@[simp] theorem State.setTile_podtime (s : State) (t : Tile) : (s.setTile t).podtime = s.podtime := by
  unfold State.setTile; split <;> rfl
@[simp] theorem State.setTile_tickAt (s : State) (t : Tile) : (s.setTile t).tickAt = s.tickAt := by
  unfold State.setTile; split <;> rfl
@[simp] theorem State.setTile_free (s : State) (t : Tile) : (s.setTile t).free = s.free := by
  unfold State.setTile; split <;> rfl
@[simp] theorem State.setTile_seq (s : State) (t : Tile) : (s.setTile t).seq = s.seq := by
  unfold State.setTile; split <;> rfl
@[simp] theorem State.setTile_off (s : State) (t : Tile) : (s.setTile t).off = s.off := by
  unfold State.setTile; split <;> rfl
@[simp] theorem State.setTile_ctxs (s : State) (t : Tile) : (s.setTile t).ctxs = s.ctxs := by
  unfold State.setTile; split <;> rfl
@[simp] theorem State.setTile_retired (s : State) (t : Tile) : (s.setTile t).retired = s.retired := by
  unfold State.setTile; split <;> rfl
@[simp] theorem State.setTile_mem (s : State) (t : Tile) : (s.setTile t).mem = s.mem := by
  unfold State.setTile; split <;> rfl
@[simp] theorem State.setTile_staged (s : State) (t : Tile) : (s.setTile t).staged = s.staged := by
  unfold State.setTile; split <;> rfl
@[simp] theorem State.setTile_hostOld (s : State) (t : Tile) : (s.setTile t).hostOld = s.hostOld := by
  unfold State.setTile; split <;> rfl
@[simp] theorem State.setTile_domains (s : State) (t : Tile) : (s.setTile t).domains = s.domains := by
  unfold State.setTile; split <;> rfl
@[simp] theorem State.setTile_tasks (s : State) (t : Tile) : (s.setTile t).tasks = s.tasks := by
  unfold State.setTile; split <;> rfl
@[simp] theorem State.setTile_messages (s : State) (t : Tile) : (s.setTile t).messages = s.messages := by
  unfold State.setTile; split <;> rfl
@[simp] theorem State.setTile_deferred (s : State) (t : Tile) : (s.setTile t).deferred = s.deferred := by
  unfold State.setTile; split <;> rfl
@[simp] theorem State.setTile_decrements (s : State) (t : Tile) : (s.setTile t).decrements = s.decrements := by
  unfold State.setTile; split <;> rfl
@[simp] theorem State.setTile_spills (s : State) (t : Tile) : (s.setTile t).spills = s.spills := by
  unfold State.setTile; split <;> rfl
@[simp] theorem State.setTile_corrected (s : State) (t : Tile) : (s.setTile t).corrected = s.corrected := by
  unfold State.setTile; split <;> rfl
@[simp] theorem State.setTile_transient (s : State) (t : Tile) : (s.setTile t).transient = s.transient := by
  unfold State.setTile; split <;> rfl
@[simp] theorem State.setTile_traceCount (s : State) (t : Tile) : (s.setTile t).traceCount = s.traceCount := by
  unfold State.setTile; split <;> rfl
@[simp] theorem State.setTile_balancedAt (s : State) (t : Tile) : (s.setTile t).balancedAt = s.balancedAt := by
  unfold State.setTile; split <;> rfl
@[simp] theorem State.setTile_busyCtx (s : State) (t : Tile) : (s.setTile t).busyCtx = s.busyCtx := by
  unfold State.setTile; split <;> rfl
@[simp] theorem State.setTile_busyCycles (s : State) (t : Tile) : (s.setTile t).busyCycles = s.busyCycles := by
  unfold State.setTile; split <;> rfl
@[simp] theorem State.setTile_packets (s : State) (t : Tile) : (s.setTile t).packets = s.packets := by
  unfold State.setTile; split <;> rfl
@[simp] theorem State.setTile_busyOut (s : State) (t : Tile) : (s.setTile t).busyOut = s.busyOut := by
  unfold State.setTile; split <;> rfl
@[simp] theorem State.setTile_barrierFlits (s : State) (t : Tile) : (s.setTile t).barrierFlits = s.barrierFlits := by
  unfold State.setTile; split <;> rfl
@[simp] theorem State.setTile_saved (s : State) (t : Tile) : (s.setTile t).saved = s.saved := by
  unfold State.setTile; split <;> rfl
@[simp] theorem State.setTile_sfqWait (s : State) (t : Tile) : (s.setTile t).sfqWait = s.sfqWait := by
  unfold State.setTile; split <;> rfl
@[simp] theorem State.setTile_regs (s : State) (t : Tile) : (s.setTile t).regs = s.regs := by
  unfold State.setTile; split <;> rfl
@[simp] theorem State.setTile_xlat (s : State) (t : Tile) : (s.setTile t).xlat = s.xlat := by
  unfold State.setTile; split <;> rfl
@[simp] theorem State.setTile_bd (s : State) (t : Tile) : (s.setTile t).bd = s.bd := by
  unfold State.setTile; split <;> rfl
@[simp] theorem State.setTile_fab (s : State) (t : Tile) : (s.setTile t).fab = s.fab := by
  unfold State.setTile; split <;> rfl
@[simp] theorem State.setTile_host (s : State) (t : Tile) : (s.setTile t).host = s.host := by
  unfold State.setTile; split <;> rfl
@[simp] theorem State.setTile_agenda (s : State) (t : Tile) : (s.setTile t).agenda = s.agenda := by
  unfold State.setTile; split <;> rfl

/-! ### Changing a tile's record -/

@[simp] theorem State.updTile_sel (s : State) (n : Nat) (f : Tile → Tile) : (s.updTile n f).sel = s.sel := by
  unfold State.updTile; simp
@[simp] theorem State.updTile_cycle (s : State) (n : Nat) (f : Tile → Tile) : (s.updTile n f).cycle = s.cycle := by
  unfold State.updTile; simp
@[simp] theorem State.updTile_ticks (s : State) (n : Nat) (f : Tile → Tile) : (s.updTile n f).ticks = s.ticks := by
  unfold State.updTile; simp
@[simp] theorem State.updTile_podtime (s : State) (n : Nat) (f : Tile → Tile) : (s.updTile n f).podtime = s.podtime := by
  unfold State.updTile; simp
@[simp] theorem State.updTile_tickAt (s : State) (n : Nat) (f : Tile → Tile) : (s.updTile n f).tickAt = s.tickAt := by
  unfold State.updTile; simp
@[simp] theorem State.updTile_free (s : State) (n : Nat) (f : Tile → Tile) : (s.updTile n f).free = s.free := by
  unfold State.updTile; simp
@[simp] theorem State.updTile_seq (s : State) (n : Nat) (f : Tile → Tile) : (s.updTile n f).seq = s.seq := by
  unfold State.updTile; simp
@[simp] theorem State.updTile_off (s : State) (n : Nat) (f : Tile → Tile) : (s.updTile n f).off = s.off := by
  unfold State.updTile; simp
@[simp] theorem State.updTile_ctxs (s : State) (n : Nat) (f : Tile → Tile) : (s.updTile n f).ctxs = s.ctxs := by
  unfold State.updTile; simp
@[simp] theorem State.updTile_retired (s : State) (n : Nat) (f : Tile → Tile) : (s.updTile n f).retired = s.retired := by
  unfold State.updTile; simp
@[simp] theorem State.updTile_mem (s : State) (n : Nat) (f : Tile → Tile) : (s.updTile n f).mem = s.mem := by
  unfold State.updTile; simp
@[simp] theorem State.updTile_staged (s : State) (n : Nat) (f : Tile → Tile) : (s.updTile n f).staged = s.staged := by
  unfold State.updTile; simp
@[simp] theorem State.updTile_hostOld (s : State) (n : Nat) (f : Tile → Tile) : (s.updTile n f).hostOld = s.hostOld := by
  unfold State.updTile; simp
@[simp] theorem State.updTile_domains (s : State) (n : Nat) (f : Tile → Tile) : (s.updTile n f).domains = s.domains := by
  unfold State.updTile; simp
@[simp] theorem State.updTile_tasks (s : State) (n : Nat) (f : Tile → Tile) : (s.updTile n f).tasks = s.tasks := by
  unfold State.updTile; simp
@[simp] theorem State.updTile_messages (s : State) (n : Nat) (f : Tile → Tile) : (s.updTile n f).messages = s.messages := by
  unfold State.updTile; simp
@[simp] theorem State.updTile_deferred (s : State) (n : Nat) (f : Tile → Tile) : (s.updTile n f).deferred = s.deferred := by
  unfold State.updTile; simp
@[simp] theorem State.updTile_decrements (s : State) (n : Nat) (f : Tile → Tile) : (s.updTile n f).decrements = s.decrements := by
  unfold State.updTile; simp
@[simp] theorem State.updTile_spills (s : State) (n : Nat) (f : Tile → Tile) : (s.updTile n f).spills = s.spills := by
  unfold State.updTile; simp
@[simp] theorem State.updTile_corrected (s : State) (n : Nat) (f : Tile → Tile) : (s.updTile n f).corrected = s.corrected := by
  unfold State.updTile; simp
@[simp] theorem State.updTile_transient (s : State) (n : Nat) (f : Tile → Tile) : (s.updTile n f).transient = s.transient := by
  unfold State.updTile; simp
@[simp] theorem State.updTile_traceCount (s : State) (n : Nat) (f : Tile → Tile) : (s.updTile n f).traceCount = s.traceCount := by
  unfold State.updTile; simp
@[simp] theorem State.updTile_balancedAt (s : State) (n : Nat) (f : Tile → Tile) : (s.updTile n f).balancedAt = s.balancedAt := by
  unfold State.updTile; simp
@[simp] theorem State.updTile_busyCtx (s : State) (n : Nat) (f : Tile → Tile) : (s.updTile n f).busyCtx = s.busyCtx := by
  unfold State.updTile; simp
@[simp] theorem State.updTile_busyCycles (s : State) (n : Nat) (f : Tile → Tile) : (s.updTile n f).busyCycles = s.busyCycles := by
  unfold State.updTile; simp
@[simp] theorem State.updTile_packets (s : State) (n : Nat) (f : Tile → Tile) : (s.updTile n f).packets = s.packets := by
  unfold State.updTile; simp
@[simp] theorem State.updTile_busyOut (s : State) (n : Nat) (f : Tile → Tile) : (s.updTile n f).busyOut = s.busyOut := by
  unfold State.updTile; simp
@[simp] theorem State.updTile_barrierFlits (s : State) (n : Nat) (f : Tile → Tile) : (s.updTile n f).barrierFlits = s.barrierFlits := by
  unfold State.updTile; simp
@[simp] theorem State.updTile_saved (s : State) (n : Nat) (f : Tile → Tile) : (s.updTile n f).saved = s.saved := by
  unfold State.updTile; simp
@[simp] theorem State.updTile_sfqWait (s : State) (n : Nat) (f : Tile → Tile) : (s.updTile n f).sfqWait = s.sfqWait := by
  unfold State.updTile; simp
@[simp] theorem State.updTile_regs (s : State) (n : Nat) (f : Tile → Tile) : (s.updTile n f).regs = s.regs := by
  unfold State.updTile; simp
@[simp] theorem State.updTile_xlat (s : State) (n : Nat) (f : Tile → Tile) : (s.updTile n f).xlat = s.xlat := by
  unfold State.updTile; simp
@[simp] theorem State.updTile_bd (s : State) (n : Nat) (f : Tile → Tile) : (s.updTile n f).bd = s.bd := by
  unfold State.updTile; simp
@[simp] theorem State.updTile_fab (s : State) (n : Nat) (f : Tile → Tile) : (s.updTile n f).fab = s.fab := by
  unfold State.updTile; simp
@[simp] theorem State.updTile_host (s : State) (n : Nat) (f : Tile → Tile) : (s.updTile n f).host = s.host := by
  unfold State.updTile; simp
@[simp] theorem State.updTile_agenda (s : State) (n : Nat) (f : Tile → Tile) : (s.updTile n f).agenda = s.agenda := by
  unfold State.updTile; simp

/-! ### Taking a fresh number -/

@[simp] theorem State.fresh_sel (s : State) : (s.fresh.2).sel = s.sel := rfl
@[simp] theorem State.fresh_cycle (s : State) : (s.fresh.2).cycle = s.cycle := rfl
@[simp] theorem State.fresh_ticks (s : State) : (s.fresh.2).ticks = s.ticks := rfl
@[simp] theorem State.fresh_podtime (s : State) : (s.fresh.2).podtime = s.podtime := rfl
@[simp] theorem State.fresh_tickAt (s : State) : (s.fresh.2).tickAt = s.tickAt := rfl
@[simp] theorem State.fresh_free (s : State) : (s.fresh.2).free = s.free := rfl
@[simp] theorem State.fresh_off (s : State) : (s.fresh.2).off = s.off := rfl
@[simp] theorem State.fresh_ctxs (s : State) : (s.fresh.2).ctxs = s.ctxs := rfl
@[simp] theorem State.fresh_tiles (s : State) : (s.fresh.2).tiles = s.tiles := rfl
@[simp] theorem State.fresh_retired (s : State) : (s.fresh.2).retired = s.retired := rfl
@[simp] theorem State.fresh_mem (s : State) : (s.fresh.2).mem = s.mem := rfl
@[simp] theorem State.fresh_staged (s : State) : (s.fresh.2).staged = s.staged := rfl
@[simp] theorem State.fresh_hostOld (s : State) : (s.fresh.2).hostOld = s.hostOld := rfl
@[simp] theorem State.fresh_domains (s : State) : (s.fresh.2).domains = s.domains := rfl
@[simp] theorem State.fresh_tasks (s : State) : (s.fresh.2).tasks = s.tasks := rfl
@[simp] theorem State.fresh_messages (s : State) : (s.fresh.2).messages = s.messages := rfl
@[simp] theorem State.fresh_deferred (s : State) : (s.fresh.2).deferred = s.deferred := rfl
@[simp] theorem State.fresh_decrements (s : State) : (s.fresh.2).decrements = s.decrements := rfl
@[simp] theorem State.fresh_spills (s : State) : (s.fresh.2).spills = s.spills := rfl
@[simp] theorem State.fresh_corrected (s : State) : (s.fresh.2).corrected = s.corrected := rfl
@[simp] theorem State.fresh_transient (s : State) : (s.fresh.2).transient = s.transient := rfl
@[simp] theorem State.fresh_traceCount (s : State) : (s.fresh.2).traceCount = s.traceCount := rfl
@[simp] theorem State.fresh_balancedAt (s : State) : (s.fresh.2).balancedAt = s.balancedAt := rfl
@[simp] theorem State.fresh_busyCtx (s : State) : (s.fresh.2).busyCtx = s.busyCtx := rfl
@[simp] theorem State.fresh_busyCycles (s : State) : (s.fresh.2).busyCycles = s.busyCycles := rfl
@[simp] theorem State.fresh_packets (s : State) : (s.fresh.2).packets = s.packets := rfl
@[simp] theorem State.fresh_busyOut (s : State) : (s.fresh.2).busyOut = s.busyOut := rfl
@[simp] theorem State.fresh_barrierFlits (s : State) : (s.fresh.2).barrierFlits = s.barrierFlits := rfl
@[simp] theorem State.fresh_saved (s : State) : (s.fresh.2).saved = s.saved := rfl
@[simp] theorem State.fresh_sfqWait (s : State) : (s.fresh.2).sfqWait = s.sfqWait := rfl
@[simp] theorem State.fresh_regs (s : State) : (s.fresh.2).regs = s.regs := rfl
@[simp] theorem State.fresh_xlat (s : State) : (s.fresh.2).xlat = s.xlat := rfl
@[simp] theorem State.fresh_bd (s : State) : (s.fresh.2).bd = s.bd := rfl
@[simp] theorem State.fresh_fab (s : State) : (s.fresh.2).fab = s.fab := rfl
@[simp] theorem State.fresh_host (s : State) : (s.fresh.2).host = s.host := rfl
@[simp] theorem State.fresh_agenda (s : State) : (s.fresh.2).agenda = s.agenda := rfl
@[simp] theorem State.fresh_fst (s : State) : s.fresh.1 = s.seq := rfl
@[simp] theorem State.fresh_seq (s : State) : s.fresh.2.seq = s.seq + 1 := rfl

/-! ### Raising a user event -/

@[simp] theorem State.raise_sel (s : State) (task rank : Nat) (e : UEvent) : (s.raise task rank e).sel = s.sel := rfl
@[simp] theorem State.raise_cycle (s : State) (task rank : Nat) (e : UEvent) : (s.raise task rank e).cycle = s.cycle := rfl
@[simp] theorem State.raise_ticks (s : State) (task rank : Nat) (e : UEvent) : (s.raise task rank e).ticks = s.ticks := rfl
@[simp] theorem State.raise_podtime (s : State) (task rank : Nat) (e : UEvent) : (s.raise task rank e).podtime = s.podtime := rfl
@[simp] theorem State.raise_tickAt (s : State) (task rank : Nat) (e : UEvent) : (s.raise task rank e).tickAt = s.tickAt := rfl
@[simp] theorem State.raise_free (s : State) (task rank : Nat) (e : UEvent) : (s.raise task rank e).free = s.free := rfl
@[simp] theorem State.raise_seq (s : State) (task rank : Nat) (e : UEvent) : (s.raise task rank e).seq = s.seq := rfl
@[simp] theorem State.raise_off (s : State) (task rank : Nat) (e : UEvent) : (s.raise task rank e).off = s.off := rfl
@[simp] theorem State.raise_tiles (s : State) (task rank : Nat) (e : UEvent) : (s.raise task rank e).tiles = s.tiles := rfl
@[simp] theorem State.raise_retired (s : State) (task rank : Nat) (e : UEvent) : (s.raise task rank e).retired = s.retired := rfl
@[simp] theorem State.raise_mem (s : State) (task rank : Nat) (e : UEvent) : (s.raise task rank e).mem = s.mem := rfl
@[simp] theorem State.raise_staged (s : State) (task rank : Nat) (e : UEvent) : (s.raise task rank e).staged = s.staged := rfl
@[simp] theorem State.raise_hostOld (s : State) (task rank : Nat) (e : UEvent) : (s.raise task rank e).hostOld = s.hostOld := rfl
@[simp] theorem State.raise_domains (s : State) (task rank : Nat) (e : UEvent) : (s.raise task rank e).domains = s.domains := rfl
@[simp] theorem State.raise_tasks (s : State) (task rank : Nat) (e : UEvent) : (s.raise task rank e).tasks = s.tasks := rfl
@[simp] theorem State.raise_messages (s : State) (task rank : Nat) (e : UEvent) : (s.raise task rank e).messages = s.messages := rfl
@[simp] theorem State.raise_deferred (s : State) (task rank : Nat) (e : UEvent) : (s.raise task rank e).deferred = s.deferred := rfl
@[simp] theorem State.raise_decrements (s : State) (task rank : Nat) (e : UEvent) : (s.raise task rank e).decrements = s.decrements := rfl
@[simp] theorem State.raise_spills (s : State) (task rank : Nat) (e : UEvent) : (s.raise task rank e).spills = s.spills := rfl
@[simp] theorem State.raise_corrected (s : State) (task rank : Nat) (e : UEvent) : (s.raise task rank e).corrected = s.corrected := rfl
@[simp] theorem State.raise_transient (s : State) (task rank : Nat) (e : UEvent) : (s.raise task rank e).transient = s.transient := rfl
@[simp] theorem State.raise_traceCount (s : State) (task rank : Nat) (e : UEvent) : (s.raise task rank e).traceCount = s.traceCount := rfl
@[simp] theorem State.raise_balancedAt (s : State) (task rank : Nat) (e : UEvent) : (s.raise task rank e).balancedAt = s.balancedAt := rfl
@[simp] theorem State.raise_busyCtx (s : State) (task rank : Nat) (e : UEvent) : (s.raise task rank e).busyCtx = s.busyCtx := rfl
@[simp] theorem State.raise_busyCycles (s : State) (task rank : Nat) (e : UEvent) : (s.raise task rank e).busyCycles = s.busyCycles := rfl
@[simp] theorem State.raise_packets (s : State) (task rank : Nat) (e : UEvent) : (s.raise task rank e).packets = s.packets := rfl
@[simp] theorem State.raise_busyOut (s : State) (task rank : Nat) (e : UEvent) : (s.raise task rank e).busyOut = s.busyOut := rfl
@[simp] theorem State.raise_barrierFlits (s : State) (task rank : Nat) (e : UEvent) : (s.raise task rank e).barrierFlits = s.barrierFlits := rfl
@[simp] theorem State.raise_saved (s : State) (task rank : Nat) (e : UEvent) : (s.raise task rank e).saved = s.saved := rfl
@[simp] theorem State.raise_sfqWait (s : State) (task rank : Nat) (e : UEvent) : (s.raise task rank e).sfqWait = s.sfqWait := rfl
@[simp] theorem State.raise_regs (s : State) (task rank : Nat) (e : UEvent) : (s.raise task rank e).regs = s.regs := rfl
@[simp] theorem State.raise_xlat (s : State) (task rank : Nat) (e : UEvent) : (s.raise task rank e).xlat = s.xlat := rfl
@[simp] theorem State.raise_bd (s : State) (task rank : Nat) (e : UEvent) : (s.raise task rank e).bd = s.bd := rfl
@[simp] theorem State.raise_fab (s : State) (task rank : Nat) (e : UEvent) : (s.raise task rank e).fab = s.fab := rfl
@[simp] theorem State.raise_host (s : State) (task rank : Nat) (e : UEvent) : (s.raise task rank e).host = s.host := rfl
@[simp] theorem State.raise_agenda (s : State) (task rank : Nat) (e : UEvent) : (s.raise task rank e).agenda = s.agenda := rfl

/-! ### Posting the record of a fault -/

@[simp] theorem State.postFault_sel (s : State) (c : Ctx) : (s.postFault c).sel = s.sel := rfl
@[simp] theorem State.postFault_cycle (s : State) (c : Ctx) : (s.postFault c).cycle = s.cycle := rfl
@[simp] theorem State.postFault_ticks (s : State) (c : Ctx) : (s.postFault c).ticks = s.ticks := rfl
@[simp] theorem State.postFault_podtime (s : State) (c : Ctx) : (s.postFault c).podtime = s.podtime := rfl
@[simp] theorem State.postFault_tickAt (s : State) (c : Ctx) : (s.postFault c).tickAt = s.tickAt := rfl
@[simp] theorem State.postFault_free (s : State) (c : Ctx) : (s.postFault c).free = s.free := rfl
@[simp] theorem State.postFault_off (s : State) (c : Ctx) : (s.postFault c).off = s.off := rfl
@[simp] theorem State.postFault_ctxs (s : State) (c : Ctx) : (s.postFault c).ctxs = s.ctxs := rfl
@[simp] theorem State.postFault_tiles (s : State) (c : Ctx) : (s.postFault c).tiles = s.tiles := rfl
@[simp] theorem State.postFault_retired (s : State) (c : Ctx) : (s.postFault c).retired = s.retired := rfl
@[simp] theorem State.postFault_mem (s : State) (c : Ctx) : (s.postFault c).mem = s.mem := rfl
@[simp] theorem State.postFault_staged (s : State) (c : Ctx) : (s.postFault c).staged = s.staged := rfl
@[simp] theorem State.postFault_hostOld (s : State) (c : Ctx) : (s.postFault c).hostOld = s.hostOld := rfl
@[simp] theorem State.postFault_domains (s : State) (c : Ctx) : (s.postFault c).domains = s.domains := rfl
@[simp] theorem State.postFault_tasks (s : State) (c : Ctx) : (s.postFault c).tasks = s.tasks := rfl
@[simp] theorem State.postFault_messages (s : State) (c : Ctx) : (s.postFault c).messages = s.messages := rfl
@[simp] theorem State.postFault_deferred (s : State) (c : Ctx) : (s.postFault c).deferred = s.deferred := rfl
@[simp] theorem State.postFault_decrements (s : State) (c : Ctx) : (s.postFault c).decrements = s.decrements := rfl
@[simp] theorem State.postFault_spills (s : State) (c : Ctx) : (s.postFault c).spills = s.spills := rfl
@[simp] theorem State.postFault_corrected (s : State) (c : Ctx) : (s.postFault c).corrected = s.corrected := rfl
@[simp] theorem State.postFault_transient (s : State) (c : Ctx) : (s.postFault c).transient = s.transient := rfl
@[simp] theorem State.postFault_traceCount (s : State) (c : Ctx) : (s.postFault c).traceCount = s.traceCount := rfl
@[simp] theorem State.postFault_balancedAt (s : State) (c : Ctx) : (s.postFault c).balancedAt = s.balancedAt := rfl
@[simp] theorem State.postFault_busyCtx (s : State) (c : Ctx) : (s.postFault c).busyCtx = s.busyCtx := rfl
@[simp] theorem State.postFault_busyCycles (s : State) (c : Ctx) : (s.postFault c).busyCycles = s.busyCycles := rfl
@[simp] theorem State.postFault_busyOut (s : State) (c : Ctx) : (s.postFault c).busyOut = s.busyOut := rfl
@[simp] theorem State.postFault_barrierFlits (s : State) (c : Ctx) : (s.postFault c).barrierFlits = s.barrierFlits := rfl
@[simp] theorem State.postFault_saved (s : State) (c : Ctx) : (s.postFault c).saved = s.saved := rfl
@[simp] theorem State.postFault_regs (s : State) (c : Ctx) : (s.postFault c).regs = s.regs := rfl
@[simp] theorem State.postFault_xlat (s : State) (c : Ctx) : (s.postFault c).xlat = s.xlat := rfl
@[simp] theorem State.postFault_bd (s : State) (c : Ctx) : (s.postFault c).bd = s.bd := rfl
@[simp] theorem State.postFault_fab (s : State) (c : Ctx) : (s.postFault c).fab = s.fab := rfl
@[simp] theorem State.postFault_host (s : State) (c : Ctx) : (s.postFault c).host = s.host := rfl
@[simp] theorem State.postFault_agenda (s : State) (c : Ctx) : (s.postFault c).agenda = s.agenda := rfl

/-! ### Posting an engine's record -/

@[simp] theorem State.postEngine_sel (s : State) (c : Option Ctx) (tid : BitVec 32) (rank detail : Nat) : (s.postEngine c tid rank detail).sel = s.sel := rfl
@[simp] theorem State.postEngine_cycle (s : State) (c : Option Ctx) (tid : BitVec 32) (rank detail : Nat) : (s.postEngine c tid rank detail).cycle = s.cycle := rfl
@[simp] theorem State.postEngine_ticks (s : State) (c : Option Ctx) (tid : BitVec 32) (rank detail : Nat) : (s.postEngine c tid rank detail).ticks = s.ticks := rfl
@[simp] theorem State.postEngine_podtime (s : State) (c : Option Ctx) (tid : BitVec 32) (rank detail : Nat) : (s.postEngine c tid rank detail).podtime = s.podtime := rfl
@[simp] theorem State.postEngine_tickAt (s : State) (c : Option Ctx) (tid : BitVec 32) (rank detail : Nat) : (s.postEngine c tid rank detail).tickAt = s.tickAt := rfl
@[simp] theorem State.postEngine_free (s : State) (c : Option Ctx) (tid : BitVec 32) (rank detail : Nat) : (s.postEngine c tid rank detail).free = s.free := rfl
@[simp] theorem State.postEngine_off (s : State) (c : Option Ctx) (tid : BitVec 32) (rank detail : Nat) : (s.postEngine c tid rank detail).off = s.off := rfl
@[simp] theorem State.postEngine_ctxs (s : State) (c : Option Ctx) (tid : BitVec 32) (rank detail : Nat) : (s.postEngine c tid rank detail).ctxs = s.ctxs := rfl
@[simp] theorem State.postEngine_tiles (s : State) (c : Option Ctx) (tid : BitVec 32) (rank detail : Nat) : (s.postEngine c tid rank detail).tiles = s.tiles := rfl
@[simp] theorem State.postEngine_retired (s : State) (c : Option Ctx) (tid : BitVec 32) (rank detail : Nat) : (s.postEngine c tid rank detail).retired = s.retired := rfl
@[simp] theorem State.postEngine_mem (s : State) (c : Option Ctx) (tid : BitVec 32) (rank detail : Nat) : (s.postEngine c tid rank detail).mem = s.mem := rfl
@[simp] theorem State.postEngine_staged (s : State) (c : Option Ctx) (tid : BitVec 32) (rank detail : Nat) : (s.postEngine c tid rank detail).staged = s.staged := rfl
@[simp] theorem State.postEngine_hostOld (s : State) (c : Option Ctx) (tid : BitVec 32) (rank detail : Nat) : (s.postEngine c tid rank detail).hostOld = s.hostOld := rfl
@[simp] theorem State.postEngine_domains (s : State) (c : Option Ctx) (tid : BitVec 32) (rank detail : Nat) : (s.postEngine c tid rank detail).domains = s.domains := rfl
@[simp] theorem State.postEngine_tasks (s : State) (c : Option Ctx) (tid : BitVec 32) (rank detail : Nat) : (s.postEngine c tid rank detail).tasks = s.tasks := rfl
@[simp] theorem State.postEngine_messages (s : State) (c : Option Ctx) (tid : BitVec 32) (rank detail : Nat) : (s.postEngine c tid rank detail).messages = s.messages := rfl
@[simp] theorem State.postEngine_deferred (s : State) (c : Option Ctx) (tid : BitVec 32) (rank detail : Nat) : (s.postEngine c tid rank detail).deferred = s.deferred := rfl
@[simp] theorem State.postEngine_decrements (s : State) (c : Option Ctx) (tid : BitVec 32) (rank detail : Nat) : (s.postEngine c tid rank detail).decrements = s.decrements := rfl
@[simp] theorem State.postEngine_spills (s : State) (c : Option Ctx) (tid : BitVec 32) (rank detail : Nat) : (s.postEngine c tid rank detail).spills = s.spills := rfl
@[simp] theorem State.postEngine_corrected (s : State) (c : Option Ctx) (tid : BitVec 32) (rank detail : Nat) : (s.postEngine c tid rank detail).corrected = s.corrected := rfl
@[simp] theorem State.postEngine_transient (s : State) (c : Option Ctx) (tid : BitVec 32) (rank detail : Nat) : (s.postEngine c tid rank detail).transient = s.transient := rfl
@[simp] theorem State.postEngine_traceCount (s : State) (c : Option Ctx) (tid : BitVec 32) (rank detail : Nat) : (s.postEngine c tid rank detail).traceCount = s.traceCount := rfl
@[simp] theorem State.postEngine_balancedAt (s : State) (c : Option Ctx) (tid : BitVec 32) (rank detail : Nat) : (s.postEngine c tid rank detail).balancedAt = s.balancedAt := rfl
@[simp] theorem State.postEngine_busyCtx (s : State) (c : Option Ctx) (tid : BitVec 32) (rank detail : Nat) : (s.postEngine c tid rank detail).busyCtx = s.busyCtx := rfl
@[simp] theorem State.postEngine_busyCycles (s : State) (c : Option Ctx) (tid : BitVec 32) (rank detail : Nat) : (s.postEngine c tid rank detail).busyCycles = s.busyCycles := rfl
@[simp] theorem State.postEngine_busyOut (s : State) (c : Option Ctx) (tid : BitVec 32) (rank detail : Nat) : (s.postEngine c tid rank detail).busyOut = s.busyOut := rfl
@[simp] theorem State.postEngine_barrierFlits (s : State) (c : Option Ctx) (tid : BitVec 32) (rank detail : Nat) : (s.postEngine c tid rank detail).barrierFlits = s.barrierFlits := rfl
@[simp] theorem State.postEngine_saved (s : State) (c : Option Ctx) (tid : BitVec 32) (rank detail : Nat) : (s.postEngine c tid rank detail).saved = s.saved := rfl
@[simp] theorem State.postEngine_regs (s : State) (c : Option Ctx) (tid : BitVec 32) (rank detail : Nat) : (s.postEngine c tid rank detail).regs = s.regs := rfl
@[simp] theorem State.postEngine_xlat (s : State) (c : Option Ctx) (tid : BitVec 32) (rank detail : Nat) : (s.postEngine c tid rank detail).xlat = s.xlat := rfl
@[simp] theorem State.postEngine_bd (s : State) (c : Option Ctx) (tid : BitVec 32) (rank detail : Nat) : (s.postEngine c tid rank detail).bd = s.bd := rfl
@[simp] theorem State.postEngine_fab (s : State) (c : Option Ctx) (tid : BitVec 32) (rank detail : Nat) : (s.postEngine c tid rank detail).fab = s.fab := rfl
@[simp] theorem State.postEngine_host (s : State) (c : Option Ctx) (tid : BitVec 32) (rank detail : Nat) : (s.postEngine c tid rank detail).host = s.host := rfl
@[simp] theorem State.postEngine_agenda (s : State) (c : Option Ctx) (tid : BitVec 32) (rank detail : Nat) : (s.postEngine c tid rank detail).agenda = s.agenda := rfl

/-! ### Dropping a context's failed walks -/

@[simp] theorem State.forgetWalks_sel (s : State) (k : CtxKey) : (s.forgetWalks k).sel = s.sel := by
  unfold State.forgetWalks State.forgetSeeker; split <;> rfl
@[simp] theorem State.forgetWalks_cycle (s : State) (k : CtxKey) : (s.forgetWalks k).cycle = s.cycle := by
  unfold State.forgetWalks State.forgetSeeker; split <;> rfl
@[simp] theorem State.forgetWalks_ticks (s : State) (k : CtxKey) : (s.forgetWalks k).ticks = s.ticks := by
  unfold State.forgetWalks State.forgetSeeker; split <;> rfl
@[simp] theorem State.forgetWalks_podtime (s : State) (k : CtxKey) : (s.forgetWalks k).podtime = s.podtime := by
  unfold State.forgetWalks State.forgetSeeker; split <;> rfl
@[simp] theorem State.forgetWalks_tickAt (s : State) (k : CtxKey) : (s.forgetWalks k).tickAt = s.tickAt := by
  unfold State.forgetWalks State.forgetSeeker; split <;> rfl
@[simp] theorem State.forgetWalks_free (s : State) (k : CtxKey) : (s.forgetWalks k).free = s.free := by
  unfold State.forgetWalks State.forgetSeeker; split <;> rfl
@[simp] theorem State.forgetWalks_seq (s : State) (k : CtxKey) : (s.forgetWalks k).seq = s.seq := by
  unfold State.forgetWalks State.forgetSeeker; split <;> rfl
@[simp] theorem State.forgetWalks_off (s : State) (k : CtxKey) : (s.forgetWalks k).off = s.off := by
  unfold State.forgetWalks State.forgetSeeker; split <;> rfl
@[simp] theorem State.forgetWalks_ctxs (s : State) (k : CtxKey) : (s.forgetWalks k).ctxs = s.ctxs := by
  unfold State.forgetWalks State.forgetSeeker; split <;> rfl
@[simp] theorem State.forgetWalks_tiles (s : State) (k : CtxKey) : (s.forgetWalks k).tiles = s.tiles := by
  unfold State.forgetWalks State.forgetSeeker; split <;> rfl
@[simp] theorem State.forgetWalks_retired (s : State) (k : CtxKey) : (s.forgetWalks k).retired = s.retired := by
  unfold State.forgetWalks State.forgetSeeker; split <;> rfl
@[simp] theorem State.forgetWalks_mem (s : State) (k : CtxKey) : (s.forgetWalks k).mem = s.mem := by
  unfold State.forgetWalks State.forgetSeeker; split <;> rfl
@[simp] theorem State.forgetWalks_staged (s : State) (k : CtxKey) : (s.forgetWalks k).staged = s.staged := by
  unfold State.forgetWalks State.forgetSeeker; split <;> rfl
@[simp] theorem State.forgetWalks_hostOld (s : State) (k : CtxKey) : (s.forgetWalks k).hostOld = s.hostOld := by
  unfold State.forgetWalks State.forgetSeeker; split <;> rfl
@[simp] theorem State.forgetWalks_domains (s : State) (k : CtxKey) : (s.forgetWalks k).domains = s.domains := by
  unfold State.forgetWalks State.forgetSeeker; split <;> rfl
@[simp] theorem State.forgetWalks_tasks (s : State) (k : CtxKey) : (s.forgetWalks k).tasks = s.tasks := by
  unfold State.forgetWalks State.forgetSeeker; split <;> rfl
@[simp] theorem State.forgetWalks_messages (s : State) (k : CtxKey) : (s.forgetWalks k).messages = s.messages := by
  unfold State.forgetWalks State.forgetSeeker; split <;> rfl
@[simp] theorem State.forgetWalks_deferred (s : State) (k : CtxKey) : (s.forgetWalks k).deferred = s.deferred := by
  unfold State.forgetWalks State.forgetSeeker; split <;> rfl
@[simp] theorem State.forgetWalks_decrements (s : State) (k : CtxKey) : (s.forgetWalks k).decrements = s.decrements := by
  unfold State.forgetWalks State.forgetSeeker; split <;> rfl
@[simp] theorem State.forgetWalks_spills (s : State) (k : CtxKey) : (s.forgetWalks k).spills = s.spills := by
  unfold State.forgetWalks State.forgetSeeker; split <;> rfl
@[simp] theorem State.forgetWalks_corrected (s : State) (k : CtxKey) : (s.forgetWalks k).corrected = s.corrected := by
  unfold State.forgetWalks State.forgetSeeker; split <;> rfl
@[simp] theorem State.forgetWalks_transient (s : State) (k : CtxKey) : (s.forgetWalks k).transient = s.transient := by
  unfold State.forgetWalks State.forgetSeeker; split <;> rfl
@[simp] theorem State.forgetWalks_traceCount (s : State) (k : CtxKey) : (s.forgetWalks k).traceCount = s.traceCount := by
  unfold State.forgetWalks State.forgetSeeker; split <;> rfl
@[simp] theorem State.forgetWalks_balancedAt (s : State) (k : CtxKey) : (s.forgetWalks k).balancedAt = s.balancedAt := by
  unfold State.forgetWalks State.forgetSeeker; split <;> rfl
@[simp] theorem State.forgetWalks_busyCtx (s : State) (k : CtxKey) : (s.forgetWalks k).busyCtx = s.busyCtx := by
  unfold State.forgetWalks State.forgetSeeker; split <;> rfl
@[simp] theorem State.forgetWalks_busyCycles (s : State) (k : CtxKey) : (s.forgetWalks k).busyCycles = s.busyCycles := by
  unfold State.forgetWalks State.forgetSeeker; split <;> rfl
@[simp] theorem State.forgetWalks_packets (s : State) (k : CtxKey) : (s.forgetWalks k).packets = s.packets := by
  unfold State.forgetWalks State.forgetSeeker; split <;> rfl
@[simp] theorem State.forgetWalks_busyOut (s : State) (k : CtxKey) : (s.forgetWalks k).busyOut = s.busyOut := by
  unfold State.forgetWalks State.forgetSeeker; split <;> rfl
@[simp] theorem State.forgetWalks_barrierFlits (s : State) (k : CtxKey) : (s.forgetWalks k).barrierFlits = s.barrierFlits := by
  unfold State.forgetWalks State.forgetSeeker; split <;> rfl
@[simp] theorem State.forgetWalks_saved (s : State) (k : CtxKey) : (s.forgetWalks k).saved = s.saved := by
  unfold State.forgetWalks State.forgetSeeker; split <;> rfl
@[simp] theorem State.forgetWalks_sfqWait (s : State) (k : CtxKey) : (s.forgetWalks k).sfqWait = s.sfqWait := by
  unfold State.forgetWalks State.forgetSeeker; split <;> rfl
@[simp] theorem State.forgetWalks_regs (s : State) (k : CtxKey) : (s.forgetWalks k).regs = s.regs := by
  unfold State.forgetWalks State.forgetSeeker; split <;> rfl
@[simp] theorem State.forgetWalks_bd (s : State) (k : CtxKey) : (s.forgetWalks k).bd = s.bd := by
  unfold State.forgetWalks State.forgetSeeker; split <;> rfl
@[simp] theorem State.forgetWalks_fab (s : State) (k : CtxKey) : (s.forgetWalks k).fab = s.fab := by
  unfold State.forgetWalks State.forgetSeeker; split <;> rfl
@[simp] theorem State.forgetWalks_host (s : State) (k : CtxKey) : (s.forgetWalks k).host = s.host := by
  unfold State.forgetWalks State.forgetSeeker; split <;> rfl
@[simp] theorem State.forgetWalks_agenda (s : State) (k : CtxKey) : (s.forgetWalks k).agenda = s.agenda := by
  unfold State.forgetWalks State.forgetSeeker; split <;> rfl

/-! ### Sending a message onto the mesh -/

@[simp] theorem State.send_sel (s : State) (x : Parcel) : (s.send x).sel = s.sel := rfl
@[simp] theorem State.send_cycle (s : State) (x : Parcel) : (s.send x).cycle = s.cycle := rfl
@[simp] theorem State.send_ticks (s : State) (x : Parcel) : (s.send x).ticks = s.ticks := rfl
@[simp] theorem State.send_podtime (s : State) (x : Parcel) : (s.send x).podtime = s.podtime := rfl
@[simp] theorem State.send_tickAt (s : State) (x : Parcel) : (s.send x).tickAt = s.tickAt := rfl
@[simp] theorem State.send_free (s : State) (x : Parcel) : (s.send x).free = s.free := rfl
@[simp] theorem State.send_seq (s : State) (x : Parcel) : (s.send x).seq = s.seq := rfl
@[simp] theorem State.send_off (s : State) (x : Parcel) : (s.send x).off = s.off := rfl
@[simp] theorem State.send_ctxs (s : State) (x : Parcel) : (s.send x).ctxs = s.ctxs := rfl
@[simp] theorem State.send_tiles (s : State) (x : Parcel) : (s.send x).tiles = s.tiles := rfl
@[simp] theorem State.send_retired (s : State) (x : Parcel) : (s.send x).retired = s.retired := rfl
@[simp] theorem State.send_mem (s : State) (x : Parcel) : (s.send x).mem = s.mem := rfl
@[simp] theorem State.send_staged (s : State) (x : Parcel) : (s.send x).staged = s.staged := rfl
@[simp] theorem State.send_hostOld (s : State) (x : Parcel) : (s.send x).hostOld = s.hostOld := rfl
@[simp] theorem State.send_domains (s : State) (x : Parcel) : (s.send x).domains = s.domains := rfl
@[simp] theorem State.send_tasks (s : State) (x : Parcel) : (s.send x).tasks = s.tasks := rfl
@[simp] theorem State.send_messages (s : State) (x : Parcel) : (s.send x).messages = s.messages := rfl
@[simp] theorem State.send_deferred (s : State) (x : Parcel) : (s.send x).deferred = s.deferred := rfl
@[simp] theorem State.send_decrements (s : State) (x : Parcel) : (s.send x).decrements = s.decrements := rfl
@[simp] theorem State.send_spills (s : State) (x : Parcel) : (s.send x).spills = s.spills := rfl
@[simp] theorem State.send_corrected (s : State) (x : Parcel) : (s.send x).corrected = s.corrected := rfl
@[simp] theorem State.send_transient (s : State) (x : Parcel) : (s.send x).transient = s.transient := rfl
@[simp] theorem State.send_traceCount (s : State) (x : Parcel) : (s.send x).traceCount = s.traceCount := rfl
@[simp] theorem State.send_balancedAt (s : State) (x : Parcel) : (s.send x).balancedAt = s.balancedAt := rfl
@[simp] theorem State.send_busyCtx (s : State) (x : Parcel) : (s.send x).busyCtx = s.busyCtx := rfl
@[simp] theorem State.send_busyCycles (s : State) (x : Parcel) : (s.send x).busyCycles = s.busyCycles := rfl
@[simp] theorem State.send_busyOut (s : State) (x : Parcel) : (s.send x).busyOut = s.busyOut := rfl
@[simp] theorem State.send_barrierFlits (s : State) (x : Parcel) : (s.send x).barrierFlits = s.barrierFlits := rfl
@[simp] theorem State.send_saved (s : State) (x : Parcel) : (s.send x).saved = s.saved := rfl
@[simp] theorem State.send_sfqWait (s : State) (x : Parcel) : (s.send x).sfqWait = s.sfqWait := rfl
@[simp] theorem State.send_regs (s : State) (x : Parcel) : (s.send x).regs = s.regs := rfl
@[simp] theorem State.send_xlat (s : State) (x : Parcel) : (s.send x).xlat = s.xlat := rfl
@[simp] theorem State.send_bd (s : State) (x : Parcel) : (s.send x).bd = s.bd := rfl
@[simp] theorem State.send_fab (s : State) (x : Parcel) : (s.send x).fab = s.fab := rfl
@[simp] theorem State.send_host (s : State) (x : Parcel) : (s.send x).host = s.host := rfl
@[simp] theorem State.send_agenda (s : State) (x : Parcel) : (s.send x).agenda = s.agenda := rfl

/-! ### Dropping packets that have arrived -/

@[simp] theorem State.dropPackets_sel (s : State) (o : Owner) : (s.dropPackets o).sel = s.sel := rfl
@[simp] theorem State.dropPackets_cycle (s : State) (o : Owner) : (s.dropPackets o).cycle = s.cycle := rfl
@[simp] theorem State.dropPackets_ticks (s : State) (o : Owner) : (s.dropPackets o).ticks = s.ticks := rfl
@[simp] theorem State.dropPackets_podtime (s : State) (o : Owner) : (s.dropPackets o).podtime = s.podtime := rfl
@[simp] theorem State.dropPackets_tickAt (s : State) (o : Owner) : (s.dropPackets o).tickAt = s.tickAt := rfl
@[simp] theorem State.dropPackets_free (s : State) (o : Owner) : (s.dropPackets o).free = s.free := rfl
@[simp] theorem State.dropPackets_seq (s : State) (o : Owner) : (s.dropPackets o).seq = s.seq := rfl
@[simp] theorem State.dropPackets_off (s : State) (o : Owner) : (s.dropPackets o).off = s.off := rfl
@[simp] theorem State.dropPackets_ctxs (s : State) (o : Owner) : (s.dropPackets o).ctxs = s.ctxs := rfl
@[simp] theorem State.dropPackets_tiles (s : State) (o : Owner) : (s.dropPackets o).tiles = s.tiles := rfl
@[simp] theorem State.dropPackets_retired (s : State) (o : Owner) : (s.dropPackets o).retired = s.retired := rfl
@[simp] theorem State.dropPackets_mem (s : State) (o : Owner) : (s.dropPackets o).mem = s.mem := rfl
@[simp] theorem State.dropPackets_staged (s : State) (o : Owner) : (s.dropPackets o).staged = s.staged := rfl
@[simp] theorem State.dropPackets_hostOld (s : State) (o : Owner) : (s.dropPackets o).hostOld = s.hostOld := rfl
@[simp] theorem State.dropPackets_domains (s : State) (o : Owner) : (s.dropPackets o).domains = s.domains := rfl
@[simp] theorem State.dropPackets_tasks (s : State) (o : Owner) : (s.dropPackets o).tasks = s.tasks := rfl
@[simp] theorem State.dropPackets_messages (s : State) (o : Owner) : (s.dropPackets o).messages = s.messages := rfl
@[simp] theorem State.dropPackets_deferred (s : State) (o : Owner) : (s.dropPackets o).deferred = s.deferred := rfl
@[simp] theorem State.dropPackets_decrements (s : State) (o : Owner) : (s.dropPackets o).decrements = s.decrements := rfl
@[simp] theorem State.dropPackets_spills (s : State) (o : Owner) : (s.dropPackets o).spills = s.spills := rfl
@[simp] theorem State.dropPackets_corrected (s : State) (o : Owner) : (s.dropPackets o).corrected = s.corrected := rfl
@[simp] theorem State.dropPackets_transient (s : State) (o : Owner) : (s.dropPackets o).transient = s.transient := rfl
@[simp] theorem State.dropPackets_traceCount (s : State) (o : Owner) : (s.dropPackets o).traceCount = s.traceCount := rfl
@[simp] theorem State.dropPackets_balancedAt (s : State) (o : Owner) : (s.dropPackets o).balancedAt = s.balancedAt := rfl
@[simp] theorem State.dropPackets_busyCtx (s : State) (o : Owner) : (s.dropPackets o).busyCtx = s.busyCtx := rfl
@[simp] theorem State.dropPackets_busyCycles (s : State) (o : Owner) : (s.dropPackets o).busyCycles = s.busyCycles := rfl
@[simp] theorem State.dropPackets_busyOut (s : State) (o : Owner) : (s.dropPackets o).busyOut = s.busyOut := rfl
@[simp] theorem State.dropPackets_barrierFlits (s : State) (o : Owner) : (s.dropPackets o).barrierFlits = s.barrierFlits := rfl
@[simp] theorem State.dropPackets_saved (s : State) (o : Owner) : (s.dropPackets o).saved = s.saved := rfl
@[simp] theorem State.dropPackets_sfqWait (s : State) (o : Owner) : (s.dropPackets o).sfqWait = s.sfqWait := rfl
@[simp] theorem State.dropPackets_regs (s : State) (o : Owner) : (s.dropPackets o).regs = s.regs := rfl
@[simp] theorem State.dropPackets_xlat (s : State) (o : Owner) : (s.dropPackets o).xlat = s.xlat := rfl
@[simp] theorem State.dropPackets_bd (s : State) (o : Owner) : (s.dropPackets o).bd = s.bd := rfl
@[simp] theorem State.dropPackets_fab (s : State) (o : Owner) : (s.dropPackets o).fab = s.fab := rfl
@[simp] theorem State.dropPackets_host (s : State) (o : Owner) : (s.dropPackets o).host = s.host := rfl
@[simp] theorem State.dropPackets_agenda (s : State) (o : Owner) : (s.dropPackets o).agenda = s.agenda := rfl
@[simp] theorem State.sweep_sel (s : State) : (s.sweep).sel = s.sel := rfl
@[simp] theorem State.sweep_cycle (s : State) : (s.sweep).cycle = s.cycle := rfl
@[simp] theorem State.sweep_ticks (s : State) : (s.sweep).ticks = s.ticks := rfl
@[simp] theorem State.sweep_podtime (s : State) : (s.sweep).podtime = s.podtime := rfl
@[simp] theorem State.sweep_tickAt (s : State) : (s.sweep).tickAt = s.tickAt := rfl
@[simp] theorem State.sweep_free (s : State) : (s.sweep).free = s.free := rfl
@[simp] theorem State.sweep_seq (s : State) : (s.sweep).seq = s.seq := rfl
@[simp] theorem State.sweep_off (s : State) : (s.sweep).off = s.off := rfl
@[simp] theorem State.sweep_ctxs (s : State) : (s.sweep).ctxs = s.ctxs := rfl
@[simp] theorem State.sweep_tiles (s : State) : (s.sweep).tiles = s.tiles := rfl
@[simp] theorem State.sweep_retired (s : State) : (s.sweep).retired = s.retired := rfl
@[simp] theorem State.sweep_mem (s : State) : (s.sweep).mem = s.mem := rfl
@[simp] theorem State.sweep_staged (s : State) : (s.sweep).staged = s.staged := rfl
@[simp] theorem State.sweep_hostOld (s : State) : (s.sweep).hostOld = s.hostOld := rfl
@[simp] theorem State.sweep_domains (s : State) : (s.sweep).domains = s.domains := rfl
@[simp] theorem State.sweep_tasks (s : State) : (s.sweep).tasks = s.tasks := rfl
@[simp] theorem State.sweep_messages (s : State) : (s.sweep).messages = s.messages := rfl
@[simp] theorem State.sweep_deferred (s : State) : (s.sweep).deferred = s.deferred := rfl
@[simp] theorem State.sweep_decrements (s : State) : (s.sweep).decrements = s.decrements := rfl
@[simp] theorem State.sweep_spills (s : State) : (s.sweep).spills = s.spills := rfl
@[simp] theorem State.sweep_corrected (s : State) : (s.sweep).corrected = s.corrected := rfl
@[simp] theorem State.sweep_transient (s : State) : (s.sweep).transient = s.transient := rfl
@[simp] theorem State.sweep_traceCount (s : State) : (s.sweep).traceCount = s.traceCount := rfl
@[simp] theorem State.sweep_balancedAt (s : State) : (s.sweep).balancedAt = s.balancedAt := rfl
@[simp] theorem State.sweep_busyCtx (s : State) : (s.sweep).busyCtx = s.busyCtx := rfl
@[simp] theorem State.sweep_busyCycles (s : State) : (s.sweep).busyCycles = s.busyCycles := rfl
@[simp] theorem State.sweep_busyOut (s : State) : (s.sweep).busyOut = s.busyOut := rfl
@[simp] theorem State.sweep_barrierFlits (s : State) : (s.sweep).barrierFlits = s.barrierFlits := rfl
@[simp] theorem State.sweep_saved (s : State) : (s.sweep).saved = s.saved := rfl
@[simp] theorem State.sweep_sfqWait (s : State) : (s.sweep).sfqWait = s.sfqWait := rfl
@[simp] theorem State.sweep_regs (s : State) : (s.sweep).regs = s.regs := rfl
@[simp] theorem State.sweep_xlat (s : State) : (s.sweep).xlat = s.xlat := rfl
@[simp] theorem State.sweep_bd (s : State) : (s.sweep).bd = s.bd := rfl
@[simp] theorem State.sweep_fab (s : State) : (s.sweep).fab = s.fab := rfl
@[simp] theorem State.sweep_host (s : State) : (s.sweep).host = s.host := rfl
@[simp] theorem State.sweep_agenda (s : State) : (s.sweep).agenda = s.agenda := rfl

/-! ### Ending an engine's part in the walks -/

@[simp] theorem State.forgetSeeker_sel (s : State) (w : Seeker) : (s.forgetSeeker w).sel = s.sel := by
  unfold State.forgetSeeker; split <;> rfl
@[simp] theorem State.forgetSeeker_cycle (s : State) (w : Seeker) : (s.forgetSeeker w).cycle = s.cycle := by
  unfold State.forgetSeeker; split <;> rfl
@[simp] theorem State.forgetSeeker_ticks (s : State) (w : Seeker) : (s.forgetSeeker w).ticks = s.ticks := by
  unfold State.forgetSeeker; split <;> rfl
@[simp] theorem State.forgetSeeker_podtime (s : State) (w : Seeker) : (s.forgetSeeker w).podtime = s.podtime := by
  unfold State.forgetSeeker; split <;> rfl
@[simp] theorem State.forgetSeeker_tickAt (s : State) (w : Seeker) : (s.forgetSeeker w).tickAt = s.tickAt := by
  unfold State.forgetSeeker; split <;> rfl
@[simp] theorem State.forgetSeeker_free (s : State) (w : Seeker) : (s.forgetSeeker w).free = s.free := by
  unfold State.forgetSeeker; split <;> rfl
@[simp] theorem State.forgetSeeker_seq (s : State) (w : Seeker) : (s.forgetSeeker w).seq = s.seq := by
  unfold State.forgetSeeker; split <;> rfl
@[simp] theorem State.forgetSeeker_off (s : State) (w : Seeker) : (s.forgetSeeker w).off = s.off := by
  unfold State.forgetSeeker; split <;> rfl
@[simp] theorem State.forgetSeeker_ctxs (s : State) (w : Seeker) : (s.forgetSeeker w).ctxs = s.ctxs := by
  unfold State.forgetSeeker; split <;> rfl
@[simp] theorem State.forgetSeeker_tiles (s : State) (w : Seeker) : (s.forgetSeeker w).tiles = s.tiles := by
  unfold State.forgetSeeker; split <;> rfl
@[simp] theorem State.forgetSeeker_retired (s : State) (w : Seeker) : (s.forgetSeeker w).retired = s.retired := by
  unfold State.forgetSeeker; split <;> rfl
@[simp] theorem State.forgetSeeker_mem (s : State) (w : Seeker) : (s.forgetSeeker w).mem = s.mem := by
  unfold State.forgetSeeker; split <;> rfl
@[simp] theorem State.forgetSeeker_staged (s : State) (w : Seeker) : (s.forgetSeeker w).staged = s.staged := by
  unfold State.forgetSeeker; split <;> rfl
@[simp] theorem State.forgetSeeker_hostOld (s : State) (w : Seeker) : (s.forgetSeeker w).hostOld = s.hostOld := by
  unfold State.forgetSeeker; split <;> rfl
@[simp] theorem State.forgetSeeker_domains (s : State) (w : Seeker) : (s.forgetSeeker w).domains = s.domains := by
  unfold State.forgetSeeker; split <;> rfl
@[simp] theorem State.forgetSeeker_tasks (s : State) (w : Seeker) : (s.forgetSeeker w).tasks = s.tasks := by
  unfold State.forgetSeeker; split <;> rfl
@[simp] theorem State.forgetSeeker_messages (s : State) (w : Seeker) : (s.forgetSeeker w).messages = s.messages := by
  unfold State.forgetSeeker; split <;> rfl
@[simp] theorem State.forgetSeeker_deferred (s : State) (w : Seeker) : (s.forgetSeeker w).deferred = s.deferred := by
  unfold State.forgetSeeker; split <;> rfl
@[simp] theorem State.forgetSeeker_decrements (s : State) (w : Seeker) : (s.forgetSeeker w).decrements = s.decrements := by
  unfold State.forgetSeeker; split <;> rfl
@[simp] theorem State.forgetSeeker_spills (s : State) (w : Seeker) : (s.forgetSeeker w).spills = s.spills := by
  unfold State.forgetSeeker; split <;> rfl
@[simp] theorem State.forgetSeeker_corrected (s : State) (w : Seeker) : (s.forgetSeeker w).corrected = s.corrected := by
  unfold State.forgetSeeker; split <;> rfl
@[simp] theorem State.forgetSeeker_transient (s : State) (w : Seeker) : (s.forgetSeeker w).transient = s.transient := by
  unfold State.forgetSeeker; split <;> rfl
@[simp] theorem State.forgetSeeker_traceCount (s : State) (w : Seeker) : (s.forgetSeeker w).traceCount = s.traceCount := by
  unfold State.forgetSeeker; split <;> rfl
@[simp] theorem State.forgetSeeker_balancedAt (s : State) (w : Seeker) : (s.forgetSeeker w).balancedAt = s.balancedAt := by
  unfold State.forgetSeeker; split <;> rfl
@[simp] theorem State.forgetSeeker_busyCtx (s : State) (w : Seeker) : (s.forgetSeeker w).busyCtx = s.busyCtx := by
  unfold State.forgetSeeker; split <;> rfl
@[simp] theorem State.forgetSeeker_busyCycles (s : State) (w : Seeker) : (s.forgetSeeker w).busyCycles = s.busyCycles := by
  unfold State.forgetSeeker; split <;> rfl
@[simp] theorem State.forgetSeeker_packets (s : State) (w : Seeker) : (s.forgetSeeker w).packets = s.packets := by
  unfold State.forgetSeeker; split <;> rfl
@[simp] theorem State.forgetSeeker_busyOut (s : State) (w : Seeker) : (s.forgetSeeker w).busyOut = s.busyOut := by
  unfold State.forgetSeeker; split <;> rfl
@[simp] theorem State.forgetSeeker_barrierFlits (s : State) (w : Seeker) : (s.forgetSeeker w).barrierFlits = s.barrierFlits := by
  unfold State.forgetSeeker; split <;> rfl
@[simp] theorem State.forgetSeeker_saved (s : State) (w : Seeker) : (s.forgetSeeker w).saved = s.saved := by
  unfold State.forgetSeeker; split <;> rfl
@[simp] theorem State.forgetSeeker_sfqWait (s : State) (w : Seeker) : (s.forgetSeeker w).sfqWait = s.sfqWait := by
  unfold State.forgetSeeker; split <;> rfl
@[simp] theorem State.forgetSeeker_regs (s : State) (w : Seeker) : (s.forgetSeeker w).regs = s.regs := by
  unfold State.forgetSeeker; split <;> rfl
@[simp] theorem State.forgetSeeker_bd (s : State) (w : Seeker) : (s.forgetSeeker w).bd = s.bd := by
  unfold State.forgetSeeker; split <;> rfl
@[simp] theorem State.forgetSeeker_fab (s : State) (w : Seeker) : (s.forgetSeeker w).fab = s.fab := by
  unfold State.forgetSeeker; split <;> rfl
@[simp] theorem State.forgetSeeker_host (s : State) (w : Seeker) : (s.forgetSeeker w).host = s.host := by
  unfold State.forgetSeeker; split <;> rfl
@[simp] theorem State.forgetSeeker_agenda (s : State) (w : Seeker) : (s.forgetSeeker w).agenda = s.agenda := by
  unfold State.forgetSeeker; split <;> rfl

/-! ### Ending the yields of a tile -/

@[simp] theorem State.endYields_sel (s : State) (k : CtxKey) : (s.endYields k).sel = s.sel := rfl
@[simp] theorem State.endYields_cycle (s : State) (k : CtxKey) : (s.endYields k).cycle = s.cycle := rfl
@[simp] theorem State.endYields_ticks (s : State) (k : CtxKey) : (s.endYields k).ticks = s.ticks := rfl
@[simp] theorem State.endYields_podtime (s : State) (k : CtxKey) : (s.endYields k).podtime = s.podtime := rfl
@[simp] theorem State.endYields_tickAt (s : State) (k : CtxKey) : (s.endYields k).tickAt = s.tickAt := rfl
@[simp] theorem State.endYields_free (s : State) (k : CtxKey) : (s.endYields k).free = s.free := rfl
@[simp] theorem State.endYields_seq (s : State) (k : CtxKey) : (s.endYields k).seq = s.seq := rfl
@[simp] theorem State.endYields_off (s : State) (k : CtxKey) : (s.endYields k).off = s.off := rfl
@[simp] theorem State.endYields_tiles (s : State) (k : CtxKey) : (s.endYields k).tiles = s.tiles := rfl
@[simp] theorem State.endYields_retired (s : State) (k : CtxKey) : (s.endYields k).retired = s.retired := rfl
@[simp] theorem State.endYields_mem (s : State) (k : CtxKey) : (s.endYields k).mem = s.mem := rfl
@[simp] theorem State.endYields_staged (s : State) (k : CtxKey) : (s.endYields k).staged = s.staged := rfl
@[simp] theorem State.endYields_hostOld (s : State) (k : CtxKey) : (s.endYields k).hostOld = s.hostOld := rfl
@[simp] theorem State.endYields_domains (s : State) (k : CtxKey) : (s.endYields k).domains = s.domains := rfl
@[simp] theorem State.endYields_tasks (s : State) (k : CtxKey) : (s.endYields k).tasks = s.tasks := rfl
@[simp] theorem State.endYields_messages (s : State) (k : CtxKey) : (s.endYields k).messages = s.messages := rfl
@[simp] theorem State.endYields_deferred (s : State) (k : CtxKey) : (s.endYields k).deferred = s.deferred := rfl
@[simp] theorem State.endYields_decrements (s : State) (k : CtxKey) : (s.endYields k).decrements = s.decrements := rfl
@[simp] theorem State.endYields_spills (s : State) (k : CtxKey) : (s.endYields k).spills = s.spills := rfl
@[simp] theorem State.endYields_corrected (s : State) (k : CtxKey) : (s.endYields k).corrected = s.corrected := rfl
@[simp] theorem State.endYields_transient (s : State) (k : CtxKey) : (s.endYields k).transient = s.transient := rfl
@[simp] theorem State.endYields_traceCount (s : State) (k : CtxKey) : (s.endYields k).traceCount = s.traceCount := rfl
@[simp] theorem State.endYields_balancedAt (s : State) (k : CtxKey) : (s.endYields k).balancedAt = s.balancedAt := rfl
@[simp] theorem State.endYields_busyCtx (s : State) (k : CtxKey) : (s.endYields k).busyCtx = s.busyCtx := rfl
@[simp] theorem State.endYields_busyCycles (s : State) (k : CtxKey) : (s.endYields k).busyCycles = s.busyCycles := rfl
@[simp] theorem State.endYields_packets (s : State) (k : CtxKey) : (s.endYields k).packets = s.packets := rfl
@[simp] theorem State.endYields_busyOut (s : State) (k : CtxKey) : (s.endYields k).busyOut = s.busyOut := rfl
@[simp] theorem State.endYields_barrierFlits (s : State) (k : CtxKey) : (s.endYields k).barrierFlits = s.barrierFlits := rfl
@[simp] theorem State.endYields_saved (s : State) (k : CtxKey) : (s.endYields k).saved = s.saved := rfl
@[simp] theorem State.endYields_sfqWait (s : State) (k : CtxKey) : (s.endYields k).sfqWait = s.sfqWait := rfl
@[simp] theorem State.endYields_regs (s : State) (k : CtxKey) : (s.endYields k).regs = s.regs := rfl
@[simp] theorem State.endYields_xlat (s : State) (k : CtxKey) : (s.endYields k).xlat = s.xlat := rfl
@[simp] theorem State.endYields_bd (s : State) (k : CtxKey) : (s.endYields k).bd = s.bd := rfl
@[simp] theorem State.endYields_fab (s : State) (k : CtxKey) : (s.endYields k).fab = s.fab := rfl
@[simp] theorem State.endYields_host (s : State) (k : CtxKey) : (s.endYields k).host = s.host := rfl
@[simp] theorem State.endYields_agenda (s : State) (k : CtxKey) : (s.endYields k).agenda = s.agenda := rfl

/-! ### The search of an issue port moves on -/

@[simp] theorem State.issued_sel (s : State) (k : CtxKey) : (s.issued k).sel = s.sel := by
  unfold State.issued; simp
@[simp] theorem State.issued_cycle (s : State) (k : CtxKey) : (s.issued k).cycle = s.cycle := by
  unfold State.issued; simp
@[simp] theorem State.issued_ticks (s : State) (k : CtxKey) : (s.issued k).ticks = s.ticks := by
  unfold State.issued; simp
@[simp] theorem State.issued_podtime (s : State) (k : CtxKey) : (s.issued k).podtime = s.podtime := by
  unfold State.issued; simp
@[simp] theorem State.issued_tickAt (s : State) (k : CtxKey) : (s.issued k).tickAt = s.tickAt := by
  unfold State.issued; simp
@[simp] theorem State.issued_free (s : State) (k : CtxKey) : (s.issued k).free = s.free := by
  unfold State.issued; simp
@[simp] theorem State.issued_seq (s : State) (k : CtxKey) : (s.issued k).seq = s.seq := by
  unfold State.issued; simp
@[simp] theorem State.issued_off (s : State) (k : CtxKey) : (s.issued k).off = s.off := by
  unfold State.issued; simp
@[simp] theorem State.issued_ctxs (s : State) (k : CtxKey) : (s.issued k).ctxs = s.ctxs := by
  unfold State.issued; simp
@[simp] theorem State.issued_retired (s : State) (k : CtxKey) : (s.issued k).retired = s.retired := by
  unfold State.issued; simp
@[simp] theorem State.issued_mem (s : State) (k : CtxKey) : (s.issued k).mem = s.mem := by
  unfold State.issued; simp
@[simp] theorem State.issued_staged (s : State) (k : CtxKey) : (s.issued k).staged = s.staged := by
  unfold State.issued; simp
@[simp] theorem State.issued_hostOld (s : State) (k : CtxKey) : (s.issued k).hostOld = s.hostOld := by
  unfold State.issued; simp
@[simp] theorem State.issued_domains (s : State) (k : CtxKey) : (s.issued k).domains = s.domains := by
  unfold State.issued; simp
@[simp] theorem State.issued_tasks (s : State) (k : CtxKey) : (s.issued k).tasks = s.tasks := by
  unfold State.issued; simp
@[simp] theorem State.issued_messages (s : State) (k : CtxKey) : (s.issued k).messages = s.messages := by
  unfold State.issued; simp
@[simp] theorem State.issued_deferred (s : State) (k : CtxKey) : (s.issued k).deferred = s.deferred := by
  unfold State.issued; simp
@[simp] theorem State.issued_decrements (s : State) (k : CtxKey) : (s.issued k).decrements = s.decrements := by
  unfold State.issued; simp
@[simp] theorem State.issued_spills (s : State) (k : CtxKey) : (s.issued k).spills = s.spills := by
  unfold State.issued; simp
@[simp] theorem State.issued_corrected (s : State) (k : CtxKey) : (s.issued k).corrected = s.corrected := by
  unfold State.issued; simp
@[simp] theorem State.issued_transient (s : State) (k : CtxKey) : (s.issued k).transient = s.transient := by
  unfold State.issued; simp
@[simp] theorem State.issued_traceCount (s : State) (k : CtxKey) : (s.issued k).traceCount = s.traceCount := by
  unfold State.issued; simp
@[simp] theorem State.issued_balancedAt (s : State) (k : CtxKey) : (s.issued k).balancedAt = s.balancedAt := by
  unfold State.issued; simp
@[simp] theorem State.issued_busyCtx (s : State) (k : CtxKey) : (s.issued k).busyCtx = s.busyCtx := by
  unfold State.issued; simp
@[simp] theorem State.issued_busyCycles (s : State) (k : CtxKey) : (s.issued k).busyCycles = s.busyCycles := by
  unfold State.issued; simp
@[simp] theorem State.issued_packets (s : State) (k : CtxKey) : (s.issued k).packets = s.packets := by
  unfold State.issued; simp
@[simp] theorem State.issued_busyOut (s : State) (k : CtxKey) : (s.issued k).busyOut = s.busyOut := by
  unfold State.issued; simp
@[simp] theorem State.issued_barrierFlits (s : State) (k : CtxKey) : (s.issued k).barrierFlits = s.barrierFlits := by
  unfold State.issued; simp
@[simp] theorem State.issued_saved (s : State) (k : CtxKey) : (s.issued k).saved = s.saved := by
  unfold State.issued; simp
@[simp] theorem State.issued_sfqWait (s : State) (k : CtxKey) : (s.issued k).sfqWait = s.sfqWait := by
  unfold State.issued; simp
@[simp] theorem State.issued_regs (s : State) (k : CtxKey) : (s.issued k).regs = s.regs := by
  unfold State.issued; simp
@[simp] theorem State.issued_xlat (s : State) (k : CtxKey) : (s.issued k).xlat = s.xlat := by
  unfold State.issued; simp
@[simp] theorem State.issued_bd (s : State) (k : CtxKey) : (s.issued k).bd = s.bd := by
  unfold State.issued; simp
@[simp] theorem State.issued_fab (s : State) (k : CtxKey) : (s.issued k).fab = s.fab := by
  unfold State.issued; simp
@[simp] theorem State.issued_host (s : State) (k : CtxKey) : (s.issued k).host = s.host := by
  unfold State.issued; simp
@[simp] theorem State.issued_agenda (s : State) (k : CtxKey) : (s.issued k).agenda = s.agenda := by
  unfold State.issued; simp

/-! ### The clock after a step -/

@[simp] theorem State.advance_sel (s : State) : (s.advance).sel = s.sel := rfl
@[simp] theorem State.advance_ticks (s : State) : (s.advance).ticks = s.ticks := rfl
@[simp] theorem State.advance_podtime (s : State) : (s.advance).podtime = s.podtime := rfl
@[simp] theorem State.advance_tickAt (s : State) : (s.advance).tickAt = s.tickAt := rfl
@[simp] theorem State.advance_seq (s : State) : (s.advance).seq = s.seq := rfl
@[simp] theorem State.advance_off (s : State) : (s.advance).off = s.off := rfl
@[simp] theorem State.advance_ctxs (s : State) : (s.advance).ctxs = s.ctxs := rfl
@[simp] theorem State.advance_tiles (s : State) : (s.advance).tiles = s.tiles := rfl
@[simp] theorem State.advance_retired (s : State) : (s.advance).retired = s.retired := rfl
@[simp] theorem State.advance_mem (s : State) : (s.advance).mem = s.mem := rfl
@[simp] theorem State.advance_staged (s : State) : (s.advance).staged = s.staged := rfl
@[simp] theorem State.advance_hostOld (s : State) : (s.advance).hostOld = s.hostOld := rfl
@[simp] theorem State.advance_domains (s : State) : (s.advance).domains = s.domains := rfl
@[simp] theorem State.advance_tasks (s : State) : (s.advance).tasks = s.tasks := rfl
@[simp] theorem State.advance_messages (s : State) : (s.advance).messages = s.messages := rfl
@[simp] theorem State.advance_deferred (s : State) : (s.advance).deferred = s.deferred := rfl
@[simp] theorem State.advance_decrements (s : State) : (s.advance).decrements = s.decrements := rfl
@[simp] theorem State.advance_spills (s : State) : (s.advance).spills = s.spills := rfl
@[simp] theorem State.advance_corrected (s : State) : (s.advance).corrected = s.corrected := rfl
@[simp] theorem State.advance_transient (s : State) : (s.advance).transient = s.transient := rfl
@[simp] theorem State.advance_traceCount (s : State) : (s.advance).traceCount = s.traceCount := rfl
@[simp] theorem State.advance_balancedAt (s : State) : (s.advance).balancedAt = s.balancedAt := rfl
@[simp] theorem State.advance_packets (s : State) : (s.advance).packets = s.packets := rfl
@[simp] theorem State.advance_busyOut (s : State) : (s.advance).busyOut = s.busyOut := rfl
@[simp] theorem State.advance_barrierFlits (s : State) : (s.advance).barrierFlits = s.barrierFlits := rfl
@[simp] theorem State.advance_saved (s : State) : (s.advance).saved = s.saved := rfl
@[simp] theorem State.advance_sfqWait (s : State) : (s.advance).sfqWait = s.sfqWait := rfl
@[simp] theorem State.advance_regs (s : State) : (s.advance).regs = s.regs := rfl
@[simp] theorem State.advance_xlat (s : State) : (s.advance).xlat = s.xlat := rfl
@[simp] theorem State.advance_bd (s : State) : (s.advance).bd = s.bd := rfl
@[simp] theorem State.advance_fab (s : State) : (s.advance).fab = s.fab := rfl
@[simp] theorem State.advance_host (s : State) : (s.advance).host = s.host := rfl
@[simp] theorem State.advance_agenda (s : State) : (s.advance).agenda = s.agenda := rfl

/-! ### Setting flags -/

@[simp] theorem Ctx.orFlags_key (c : Ctx) (n : Nat) : (c.orFlags n).key = c.key := rfl
@[simp] theorem Ctx.orFlags_task (c : Ctx) (n : Nat) : (c.orFlags n).task = c.task := rfl
@[simp] theorem Ctx.orFlags_rank (c : Ctx) (n : Nat) : (c.orFlags n).rank = c.rank := rfl
@[simp] theorem Ctx.orFlags_stopped (c : Ctx) (n : Nat) : (c.orFlags n).stopped = c.stopped := rfl
@[simp] theorem Ctx.orFlags_evicted (c : Ctx) (n : Nat) : (c.orFlags n).evicted = c.evicted := rfl
@[simp] theorem Ctx.orFlags_faulted (c : Ctx) (n : Nat) : (c.orFlags n).faulted = c.faulted := rfl
@[simp] theorem Ctx.orFlags_pc (c : Ctx) (n : Nat) : (c.orFlags n).pc = c.pc := rfl
@[simp] theorem Ctx.orFlags_atHeader (c : Ctx) (n : Nat) : (c.orFlags n).atHeader = c.atHeader := rfl
@[simp] theorem Ctx.orFlags_blockEnd (c : Ctx) (n : Nat) : (c.orFlags n).blockEnd = c.blockEnd := rfl
@[simp] theorem Ctx.orFlags_rf (c : Ctx) (n : Nat) : (c.orFlags n).rf = c.rf := rfl
@[simp] theorem Ctx.orFlags_latch (c : Ctx) (n : Nat) : (c.orFlags n).latch = c.latch := rfl
@[simp] theorem Ctx.orFlags_latchTok (c : Ctx) (n : Nat) : (c.orFlags n).latchTok = c.latchTok := rfl
@[simp] theorem Ctx.orFlags_pending (c : Ctx) (n : Nat) : (c.orFlags n).pending = c.pending := rfl
@[simp] theorem Ctx.orFlags_pendingMx (c : Ctx) (n : Nat) : (c.orFlags n).pendingMx = c.pendingMx := rfl
@[simp] theorem Ctx.orFlags_readPend (c : Ctx) (n : Nat) : (c.orFlags n).readPend = c.readPend := rfl
@[simp] theorem Ctx.orFlags_strictPend (c : Ctx) (n : Nat) : (c.orFlags n).strictPend = c.strictPend := rfl
@[simp] theorem Ctx.orFlags_winStores (c : Ctx) (n : Nat) : (c.orFlags n).winStores = c.winStores := rfl
@[simp] theorem Ctx.orFlags_outstanding (c : Ctx) (n : Nat) : (c.orFlags n).outstanding = c.outstanding := rfl
@[simp] theorem Ctx.orFlags_fetches (c : Ctx) (n : Nat) : (c.orFlags n).fetches = c.fetches := rfl
@[simp] theorem Ctx.orFlags_wait (c : Ctx) (n : Nat) : (c.orFlags n).wait = c.wait := rfl
@[simp] theorem Ctx.orFlags_viewb (c : Ctx) (n : Nat) : (c.orFlags n).viewb = c.viewb := rfl
@[simp] theorem Ctx.orFlags_supervisor (c : Ctx) (n : Nat) : (c.orFlags n).supervisor = c.supervisor := rfl
@[simp] theorem Ctx.orFlags_leader (c : Ctx) (n : Nat) : (c.orFlags n).leader = c.leader := rfl
@[simp] theorem Ctx.orFlags_follower (c : Ctx) (n : Nat) : (c.orFlags n).follower = c.follower := rfl
@[simp] theorem Ctx.orFlags_flagen (c : Ctx) (n : Nat) : (c.orFlags n).flagen = c.flagen := rfl
@[simp] theorem Ctx.orFlags_ulevec (c : Ctx) (n : Nat) : (c.orFlags n).ulevec = c.ulevec := rfl
@[simp] theorem Ctx.orFlags_uleEn (c : Ctx) (n : Nat) : (c.orFlags n).uleEn = c.uleEn := rfl
@[simp] theorem Ctx.orFlags_uleActive (c : Ctx) (n : Nat) : (c.orFlags n).uleActive = c.uleActive := rfl
@[simp] theorem Ctx.orFlags_uleKind (c : Ctx) (n : Nat) : (c.orFlags n).uleKind = c.uleKind := rfl
@[simp] theorem Ctx.orFlags_uleLost (c : Ctx) (n : Nat) : (c.orFlags n).uleLost = c.uleLost := rfl
@[simp] theorem Ctx.orFlags_uleen (c : Ctx) (n : Nat) : (c.orFlags n).uleen = c.uleen := rfl
@[simp] theorem Ctx.orFlags_fltdlg (c : Ctx) (n : Nat) : (c.orFlags n).fltdlg = c.fltdlg := rfl
@[simp] theorem Ctx.orFlags_evq (c : Ctx) (n : Nat) : (c.orFlags n).evq = c.evq := rfl
@[simp] theorem Ctx.orFlags_faultinfo (c : Ctx) (n : Nat) : (c.orFlags n).faultinfo = c.faultinfo := rfl
@[simp] theorem Ctx.orFlags_faultpc (c : Ctx) (n : Nat) : (c.orFlags n).faultpc = c.faultpc := rfl
@[simp] theorem Ctx.orFlags_faultaddr (c : Ctx) (n : Nat) : (c.orFlags n).faultaddr = c.faultaddr := rfl
@[simp] theorem Ctx.orFlags_slktab (c : Ctx) (n : Nat) : (c.orFlags n).slktab = c.slktab := rfl
@[simp] theorem Ctx.orFlags_slk (c : Ctx) (n : Nat) : (c.orFlags n).slk = c.slk := rfl
@[simp] theorem Ctx.orFlags_slkctl (c : Ctx) (n : Nat) : (c.orFlags n).slkctl = c.slkctl := rfl
@[simp] theorem Ctx.orFlags_odcnt (c : Ctx) (n : Nat) : (c.orFlags n).odcnt = c.odcnt := rfl
@[simp] theorem Ctx.orFlags_stpkey (c : Ctx) (n : Nat) : (c.orFlags n).stpkey = c.stpkey := rfl
@[simp] theorem Ctx.orFlags_stpmem (c : Ctx) (n : Nat) : (c.orFlags n).stpmem = c.stpmem := rfl
@[simp] theorem Ctx.orFlags_srcnt (c : Ctx) (n : Nat) : (c.orFlags n).srcnt = c.srcnt := rfl
@[simp] theorem Ctx.orFlags_tmplbase (c : Ctx) (n : Nat) : (c.orFlags n).tmplbase = c.tmplbase := rfl
@[simp] theorem Ctx.orFlags_mpdw0 (c : Ctx) (n : Nat) : (c.orFlags n).mpdw0 = c.mpdw0 := rfl
@[simp] theorem Ctx.orFlags_mpdw1 (c : Ctx) (n : Nat) : (c.orFlags n).mpdw1 = c.mpdw1 := rfl
@[simp] theorem Ctx.orFlags_mpdw2 (c : Ctx) (n : Nat) : (c.orFlags n).mpdw2 = c.mpdw2 := rfl
@[simp] theorem Ctx.orFlags_svec (c : Ctx) (n : Nat) : (c.orFlags n).svec = c.svec := rfl
@[simp] theorem Ctx.orFlags_svpc (c : Ctx) (n : Nat) : (c.orFlags n).svpc = c.svpc := rfl
@[simp] theorem Ctx.orFlags_uleSaved (c : Ctx) (n : Nat) : (c.orFlags n).uleSaved = c.uleSaved := rfl
@[simp] theorem Ctx.orFlags_svSaved (c : Ctx) (n : Nat) : (c.orFlags n).svSaved = c.svSaved := rfl
@[simp] theorem Ctx.orFlags_stepdom (c : Ctx) (n : Nat) : (c.orFlags n).stepdom = c.stepdom := rfl
@[simp] theorem Ctx.orFlags_snapshot (c : Ctx) (n : Nat) : (c.orFlags n).snapshot = c.snapshot := rfl
@[simp] theorem Ctx.orFlags_report (c : Ctx) (n : Nat) : (c.orFlags n).report = c.report := rfl
@[simp] theorem Ctx.orFlags_arrival (c : Ctx) (n : Nat) : (c.orFlags n).arrival = c.arrival := rfl
@[simp] theorem Ctx.orFlags_frozen (c : Ctx) (n : Nat) : (c.orFlags n).frozen = c.frozen := rfl
@[simp] theorem Ctx.orFlags_front (c : Ctx) (n : Nat) : (c.orFlags n).front = c.front := rfl
@[simp] theorem Ctx.orFlags_back (c : Ctx) (n : Nat) : (c.orFlags n).back = c.back := rfl
@[simp] theorem Ctx.orFlags_observed (c : Ctx) (n : Nat) : (c.orFlags n).observed = c.observed := rfl
@[simp] theorem Ctx.orFlags_fwd (c : Ctx) (n : Nat) : (c.orFlags n).fwd = c.fwd := rfl
@[simp] theorem Ctx.orFlags_fwdWire (c : Ctx) (n : Nat) : (c.orFlags n).fwdWire = c.fwdWire := rfl
@[simp] theorem Ctx.orFlags_lines (c : Ctx) (n : Nat) : (c.orFlags n).lines = c.lines := rfl
@[simp] theorem Ctx.orFlags_want (c : Ctx) (n : Nat) : (c.orFlags n).want = c.want := rfl
@[simp] theorem Ctx.orFlags_message (c : Ctx) (n : Nat) : (c.orFlags n).message = c.message := rfl
@[simp] theorem Ctx.orFlags_rtBatch (c : Ctx) (n : Nat) : (c.orFlags n).rtBatch = c.rtBatch := rfl

/-! ### Emptying the latch -/

@[simp] theorem Ctx.clearLatch_key (c : Ctx) : (c.clearLatch).key = c.key := rfl
@[simp] theorem Ctx.clearLatch_task (c : Ctx) : (c.clearLatch).task = c.task := rfl
@[simp] theorem Ctx.clearLatch_rank (c : Ctx) : (c.clearLatch).rank = c.rank := rfl
@[simp] theorem Ctx.clearLatch_stopped (c : Ctx) : (c.clearLatch).stopped = c.stopped := rfl
@[simp] theorem Ctx.clearLatch_evicted (c : Ctx) : (c.clearLatch).evicted = c.evicted := rfl
@[simp] theorem Ctx.clearLatch_faulted (c : Ctx) : (c.clearLatch).faulted = c.faulted := rfl
@[simp] theorem Ctx.clearLatch_pc (c : Ctx) : (c.clearLatch).pc = c.pc := rfl
@[simp] theorem Ctx.clearLatch_atHeader (c : Ctx) : (c.clearLatch).atHeader = c.atHeader := rfl
@[simp] theorem Ctx.clearLatch_blockEnd (c : Ctx) : (c.clearLatch).blockEnd = c.blockEnd := rfl
@[simp] theorem Ctx.clearLatch_rf (c : Ctx) : (c.clearLatch).rf = c.rf := rfl
@[simp] theorem Ctx.clearLatch_pending (c : Ctx) : (c.clearLatch).pending = c.pending := rfl
@[simp] theorem Ctx.clearLatch_pendingMx (c : Ctx) : (c.clearLatch).pendingMx = c.pendingMx := rfl
@[simp] theorem Ctx.clearLatch_readPend (c : Ctx) : (c.clearLatch).readPend = c.readPend := rfl
@[simp] theorem Ctx.clearLatch_strictPend (c : Ctx) : (c.clearLatch).strictPend = c.strictPend := rfl
@[simp] theorem Ctx.clearLatch_winStores (c : Ctx) : (c.clearLatch).winStores = c.winStores := rfl
@[simp] theorem Ctx.clearLatch_outstanding (c : Ctx) : (c.clearLatch).outstanding = c.outstanding := rfl
@[simp] theorem Ctx.clearLatch_fetches (c : Ctx) : (c.clearLatch).fetches = c.fetches := rfl
@[simp] theorem Ctx.clearLatch_wait (c : Ctx) : (c.clearLatch).wait = c.wait := rfl
@[simp] theorem Ctx.clearLatch_viewb (c : Ctx) : (c.clearLatch).viewb = c.viewb := rfl
@[simp] theorem Ctx.clearLatch_supervisor (c : Ctx) : (c.clearLatch).supervisor = c.supervisor := rfl
@[simp] theorem Ctx.clearLatch_leader (c : Ctx) : (c.clearLatch).leader = c.leader := rfl
@[simp] theorem Ctx.clearLatch_follower (c : Ctx) : (c.clearLatch).follower = c.follower := rfl
@[simp] theorem Ctx.clearLatch_flags (c : Ctx) : (c.clearLatch).flags = c.flags := rfl
@[simp] theorem Ctx.clearLatch_flagen (c : Ctx) : (c.clearLatch).flagen = c.flagen := rfl
@[simp] theorem Ctx.clearLatch_ulevec (c : Ctx) : (c.clearLatch).ulevec = c.ulevec := rfl
@[simp] theorem Ctx.clearLatch_uleEn (c : Ctx) : (c.clearLatch).uleEn = c.uleEn := rfl
@[simp] theorem Ctx.clearLatch_uleActive (c : Ctx) : (c.clearLatch).uleActive = c.uleActive := rfl
@[simp] theorem Ctx.clearLatch_uleKind (c : Ctx) : (c.clearLatch).uleKind = c.uleKind := rfl
@[simp] theorem Ctx.clearLatch_uleLost (c : Ctx) : (c.clearLatch).uleLost = c.uleLost := rfl
@[simp] theorem Ctx.clearLatch_uleen (c : Ctx) : (c.clearLatch).uleen = c.uleen := rfl
@[simp] theorem Ctx.clearLatch_fltdlg (c : Ctx) : (c.clearLatch).fltdlg = c.fltdlg := rfl
@[simp] theorem Ctx.clearLatch_evq (c : Ctx) : (c.clearLatch).evq = c.evq := rfl
@[simp] theorem Ctx.clearLatch_faultinfo (c : Ctx) : (c.clearLatch).faultinfo = c.faultinfo := rfl
@[simp] theorem Ctx.clearLatch_faultpc (c : Ctx) : (c.clearLatch).faultpc = c.faultpc := rfl
@[simp] theorem Ctx.clearLatch_faultaddr (c : Ctx) : (c.clearLatch).faultaddr = c.faultaddr := rfl
@[simp] theorem Ctx.clearLatch_slktab (c : Ctx) : (c.clearLatch).slktab = c.slktab := rfl
@[simp] theorem Ctx.clearLatch_slk (c : Ctx) : (c.clearLatch).slk = c.slk := rfl
@[simp] theorem Ctx.clearLatch_slkctl (c : Ctx) : (c.clearLatch).slkctl = c.slkctl := rfl
@[simp] theorem Ctx.clearLatch_odcnt (c : Ctx) : (c.clearLatch).odcnt = c.odcnt := rfl
@[simp] theorem Ctx.clearLatch_stpkey (c : Ctx) : (c.clearLatch).stpkey = c.stpkey := rfl
@[simp] theorem Ctx.clearLatch_stpmem (c : Ctx) : (c.clearLatch).stpmem = c.stpmem := rfl
@[simp] theorem Ctx.clearLatch_srcnt (c : Ctx) : (c.clearLatch).srcnt = c.srcnt := rfl
@[simp] theorem Ctx.clearLatch_tmplbase (c : Ctx) : (c.clearLatch).tmplbase = c.tmplbase := rfl
@[simp] theorem Ctx.clearLatch_mpdw0 (c : Ctx) : (c.clearLatch).mpdw0 = c.mpdw0 := rfl
@[simp] theorem Ctx.clearLatch_mpdw1 (c : Ctx) : (c.clearLatch).mpdw1 = c.mpdw1 := rfl
@[simp] theorem Ctx.clearLatch_mpdw2 (c : Ctx) : (c.clearLatch).mpdw2 = c.mpdw2 := rfl
@[simp] theorem Ctx.clearLatch_svec (c : Ctx) : (c.clearLatch).svec = c.svec := rfl
@[simp] theorem Ctx.clearLatch_svpc (c : Ctx) : (c.clearLatch).svpc = c.svpc := rfl
@[simp] theorem Ctx.clearLatch_uleSaved (c : Ctx) : (c.clearLatch).uleSaved = c.uleSaved := rfl
@[simp] theorem Ctx.clearLatch_svSaved (c : Ctx) : (c.clearLatch).svSaved = c.svSaved := rfl
@[simp] theorem Ctx.clearLatch_stepdom (c : Ctx) : (c.clearLatch).stepdom = c.stepdom := rfl
@[simp] theorem Ctx.clearLatch_snapshot (c : Ctx) : (c.clearLatch).snapshot = c.snapshot := rfl
@[simp] theorem Ctx.clearLatch_report (c : Ctx) : (c.clearLatch).report = c.report := rfl
@[simp] theorem Ctx.clearLatch_arrival (c : Ctx) : (c.clearLatch).arrival = c.arrival := rfl
@[simp] theorem Ctx.clearLatch_frozen (c : Ctx) : (c.clearLatch).frozen = c.frozen := rfl
@[simp] theorem Ctx.clearLatch_front (c : Ctx) : (c.clearLatch).front = c.front := rfl
@[simp] theorem Ctx.clearLatch_back (c : Ctx) : (c.clearLatch).back = c.back := rfl
@[simp] theorem Ctx.clearLatch_observed (c : Ctx) : (c.clearLatch).observed = c.observed := rfl
@[simp] theorem Ctx.clearLatch_fwd (c : Ctx) : (c.clearLatch).fwd = c.fwd := rfl
@[simp] theorem Ctx.clearLatch_fwdWire (c : Ctx) : (c.clearLatch).fwdWire = c.fwdWire := rfl
@[simp] theorem Ctx.clearLatch_lines (c : Ctx) : (c.clearLatch).lines = c.lines := rfl
@[simp] theorem Ctx.clearLatch_want (c : Ctx) : (c.clearLatch).want = c.want := rfl
@[simp] theorem Ctx.clearLatch_message (c : Ctx) : (c.clearLatch).message = c.message := rfl
@[simp] theorem Ctx.clearLatch_rtBatch (c : Ctx) : (c.clearLatch).rtBatch = c.rtBatch := rfl
@[simp] theorem Ctx.clearLatch_latch (c : Ctx) : c.clearLatch.latch = .empty := rfl
@[simp] theorem Ctx.clearLatch_latchTok (c : Ctx) : c.clearLatch.latchTok = none := rfl

/-! ### Setting the latch to a value of 8 bytes -/

@[simp] theorem Ctx.latch8_key (c : Ctx) (x : Word) : (c.latch8 x).key = c.key := rfl
@[simp] theorem Ctx.latch8_task (c : Ctx) (x : Word) : (c.latch8 x).task = c.task := rfl
@[simp] theorem Ctx.latch8_rank (c : Ctx) (x : Word) : (c.latch8 x).rank = c.rank := rfl
@[simp] theorem Ctx.latch8_stopped (c : Ctx) (x : Word) : (c.latch8 x).stopped = c.stopped := rfl
@[simp] theorem Ctx.latch8_evicted (c : Ctx) (x : Word) : (c.latch8 x).evicted = c.evicted := rfl
@[simp] theorem Ctx.latch8_faulted (c : Ctx) (x : Word) : (c.latch8 x).faulted = c.faulted := rfl
@[simp] theorem Ctx.latch8_pc (c : Ctx) (x : Word) : (c.latch8 x).pc = c.pc := rfl
@[simp] theorem Ctx.latch8_atHeader (c : Ctx) (x : Word) : (c.latch8 x).atHeader = c.atHeader := rfl
@[simp] theorem Ctx.latch8_blockEnd (c : Ctx) (x : Word) : (c.latch8 x).blockEnd = c.blockEnd := rfl
@[simp] theorem Ctx.latch8_rf (c : Ctx) (x : Word) : (c.latch8 x).rf = c.rf := rfl
@[simp] theorem Ctx.latch8_pending (c : Ctx) (x : Word) : (c.latch8 x).pending = c.pending := rfl
@[simp] theorem Ctx.latch8_pendingMx (c : Ctx) (x : Word) : (c.latch8 x).pendingMx = c.pendingMx := rfl
@[simp] theorem Ctx.latch8_readPend (c : Ctx) (x : Word) : (c.latch8 x).readPend = c.readPend := rfl
@[simp] theorem Ctx.latch8_strictPend (c : Ctx) (x : Word) : (c.latch8 x).strictPend = c.strictPend := rfl
@[simp] theorem Ctx.latch8_winStores (c : Ctx) (x : Word) : (c.latch8 x).winStores = c.winStores := rfl
@[simp] theorem Ctx.latch8_outstanding (c : Ctx) (x : Word) : (c.latch8 x).outstanding = c.outstanding := rfl
@[simp] theorem Ctx.latch8_fetches (c : Ctx) (x : Word) : (c.latch8 x).fetches = c.fetches := rfl
@[simp] theorem Ctx.latch8_wait (c : Ctx) (x : Word) : (c.latch8 x).wait = c.wait := rfl
@[simp] theorem Ctx.latch8_viewb (c : Ctx) (x : Word) : (c.latch8 x).viewb = c.viewb := rfl
@[simp] theorem Ctx.latch8_supervisor (c : Ctx) (x : Word) : (c.latch8 x).supervisor = c.supervisor := rfl
@[simp] theorem Ctx.latch8_leader (c : Ctx) (x : Word) : (c.latch8 x).leader = c.leader := rfl
@[simp] theorem Ctx.latch8_follower (c : Ctx) (x : Word) : (c.latch8 x).follower = c.follower := rfl
@[simp] theorem Ctx.latch8_flags (c : Ctx) (x : Word) : (c.latch8 x).flags = c.flags := rfl
@[simp] theorem Ctx.latch8_flagen (c : Ctx) (x : Word) : (c.latch8 x).flagen = c.flagen := rfl
@[simp] theorem Ctx.latch8_ulevec (c : Ctx) (x : Word) : (c.latch8 x).ulevec = c.ulevec := rfl
@[simp] theorem Ctx.latch8_uleEn (c : Ctx) (x : Word) : (c.latch8 x).uleEn = c.uleEn := rfl
@[simp] theorem Ctx.latch8_uleActive (c : Ctx) (x : Word) : (c.latch8 x).uleActive = c.uleActive := rfl
@[simp] theorem Ctx.latch8_uleKind (c : Ctx) (x : Word) : (c.latch8 x).uleKind = c.uleKind := rfl
@[simp] theorem Ctx.latch8_uleLost (c : Ctx) (x : Word) : (c.latch8 x).uleLost = c.uleLost := rfl
@[simp] theorem Ctx.latch8_uleen (c : Ctx) (x : Word) : (c.latch8 x).uleen = c.uleen := rfl
@[simp] theorem Ctx.latch8_fltdlg (c : Ctx) (x : Word) : (c.latch8 x).fltdlg = c.fltdlg := rfl
@[simp] theorem Ctx.latch8_evq (c : Ctx) (x : Word) : (c.latch8 x).evq = c.evq := rfl
@[simp] theorem Ctx.latch8_faultinfo (c : Ctx) (x : Word) : (c.latch8 x).faultinfo = c.faultinfo := rfl
@[simp] theorem Ctx.latch8_faultpc (c : Ctx) (x : Word) : (c.latch8 x).faultpc = c.faultpc := rfl
@[simp] theorem Ctx.latch8_faultaddr (c : Ctx) (x : Word) : (c.latch8 x).faultaddr = c.faultaddr := rfl
@[simp] theorem Ctx.latch8_slktab (c : Ctx) (x : Word) : (c.latch8 x).slktab = c.slktab := rfl
@[simp] theorem Ctx.latch8_slk (c : Ctx) (x : Word) : (c.latch8 x).slk = c.slk := rfl
@[simp] theorem Ctx.latch8_slkctl (c : Ctx) (x : Word) : (c.latch8 x).slkctl = c.slkctl := rfl
@[simp] theorem Ctx.latch8_odcnt (c : Ctx) (x : Word) : (c.latch8 x).odcnt = c.odcnt := rfl
@[simp] theorem Ctx.latch8_stpkey (c : Ctx) (x : Word) : (c.latch8 x).stpkey = c.stpkey := rfl
@[simp] theorem Ctx.latch8_stpmem (c : Ctx) (x : Word) : (c.latch8 x).stpmem = c.stpmem := rfl
@[simp] theorem Ctx.latch8_srcnt (c : Ctx) (x : Word) : (c.latch8 x).srcnt = c.srcnt := rfl
@[simp] theorem Ctx.latch8_tmplbase (c : Ctx) (x : Word) : (c.latch8 x).tmplbase = c.tmplbase := rfl
@[simp] theorem Ctx.latch8_mpdw0 (c : Ctx) (x : Word) : (c.latch8 x).mpdw0 = c.mpdw0 := rfl
@[simp] theorem Ctx.latch8_mpdw1 (c : Ctx) (x : Word) : (c.latch8 x).mpdw1 = c.mpdw1 := rfl
@[simp] theorem Ctx.latch8_mpdw2 (c : Ctx) (x : Word) : (c.latch8 x).mpdw2 = c.mpdw2 := rfl
@[simp] theorem Ctx.latch8_svec (c : Ctx) (x : Word) : (c.latch8 x).svec = c.svec := rfl
@[simp] theorem Ctx.latch8_svpc (c : Ctx) (x : Word) : (c.latch8 x).svpc = c.svpc := rfl
@[simp] theorem Ctx.latch8_uleSaved (c : Ctx) (x : Word) : (c.latch8 x).uleSaved = c.uleSaved := rfl
@[simp] theorem Ctx.latch8_svSaved (c : Ctx) (x : Word) : (c.latch8 x).svSaved = c.svSaved := rfl
@[simp] theorem Ctx.latch8_stepdom (c : Ctx) (x : Word) : (c.latch8 x).stepdom = c.stepdom := rfl
@[simp] theorem Ctx.latch8_snapshot (c : Ctx) (x : Word) : (c.latch8 x).snapshot = c.snapshot := rfl
@[simp] theorem Ctx.latch8_report (c : Ctx) (x : Word) : (c.latch8 x).report = c.report := rfl
@[simp] theorem Ctx.latch8_arrival (c : Ctx) (x : Word) : (c.latch8 x).arrival = c.arrival := rfl
@[simp] theorem Ctx.latch8_frozen (c : Ctx) (x : Word) : (c.latch8 x).frozen = c.frozen := rfl
@[simp] theorem Ctx.latch8_front (c : Ctx) (x : Word) : (c.latch8 x).front = c.front := rfl
@[simp] theorem Ctx.latch8_back (c : Ctx) (x : Word) : (c.latch8 x).back = c.back := rfl
@[simp] theorem Ctx.latch8_observed (c : Ctx) (x : Word) : (c.latch8 x).observed = c.observed := rfl
@[simp] theorem Ctx.latch8_fwd (c : Ctx) (x : Word) : (c.latch8 x).fwd = c.fwd := rfl
@[simp] theorem Ctx.latch8_fwdWire (c : Ctx) (x : Word) : (c.latch8 x).fwdWire = c.fwdWire := rfl
@[simp] theorem Ctx.latch8_lines (c : Ctx) (x : Word) : (c.latch8 x).lines = c.lines := rfl
@[simp] theorem Ctx.latch8_want (c : Ctx) (x : Word) : (c.latch8 x).want = c.want := rfl
@[simp] theorem Ctx.latch8_message (c : Ctx) (x : Word) : (c.latch8 x).message = c.message := rfl
@[simp] theorem Ctx.latch8_rtBatch (c : Ctx) (x : Word) : (c.latch8 x).rtBatch = c.rtBatch := rfl
@[simp] theorem Ctx.latch8_latch (c : Ctx) (x : Word) : (c.latch8 x).latch = .w8 x := rfl
@[simp] theorem Ctx.latch8_latchTok (c : Ctx) (x : Word) : (c.latch8 x).latchTok = none := rfl

/-! ### Setting the latch to a register's value -/

@[simp] theorem Ctx.setLatch_key (c : Ctx) (a n : Nat) : (c.setLatch a n).key = c.key := rfl
@[simp] theorem Ctx.setLatch_task (c : Ctx) (a n : Nat) : (c.setLatch a n).task = c.task := rfl
@[simp] theorem Ctx.setLatch_rank (c : Ctx) (a n : Nat) : (c.setLatch a n).rank = c.rank := rfl
@[simp] theorem Ctx.setLatch_stopped (c : Ctx) (a n : Nat) : (c.setLatch a n).stopped = c.stopped := rfl
@[simp] theorem Ctx.setLatch_evicted (c : Ctx) (a n : Nat) : (c.setLatch a n).evicted = c.evicted := rfl
@[simp] theorem Ctx.setLatch_faulted (c : Ctx) (a n : Nat) : (c.setLatch a n).faulted = c.faulted := rfl
@[simp] theorem Ctx.setLatch_pc (c : Ctx) (a n : Nat) : (c.setLatch a n).pc = c.pc := rfl
@[simp] theorem Ctx.setLatch_atHeader (c : Ctx) (a n : Nat) : (c.setLatch a n).atHeader = c.atHeader := rfl
@[simp] theorem Ctx.setLatch_blockEnd (c : Ctx) (a n : Nat) : (c.setLatch a n).blockEnd = c.blockEnd := rfl
@[simp] theorem Ctx.setLatch_rf (c : Ctx) (a n : Nat) : (c.setLatch a n).rf = c.rf := rfl
@[simp] theorem Ctx.setLatch_pending (c : Ctx) (a n : Nat) : (c.setLatch a n).pending = c.pending := rfl
@[simp] theorem Ctx.setLatch_pendingMx (c : Ctx) (a n : Nat) : (c.setLatch a n).pendingMx = c.pendingMx := rfl
@[simp] theorem Ctx.setLatch_readPend (c : Ctx) (a n : Nat) : (c.setLatch a n).readPend = c.readPend := rfl
@[simp] theorem Ctx.setLatch_strictPend (c : Ctx) (a n : Nat) : (c.setLatch a n).strictPend = c.strictPend := rfl
@[simp] theorem Ctx.setLatch_winStores (c : Ctx) (a n : Nat) : (c.setLatch a n).winStores = c.winStores := rfl
@[simp] theorem Ctx.setLatch_outstanding (c : Ctx) (a n : Nat) : (c.setLatch a n).outstanding = c.outstanding := rfl
@[simp] theorem Ctx.setLatch_fetches (c : Ctx) (a n : Nat) : (c.setLatch a n).fetches = c.fetches := rfl
@[simp] theorem Ctx.setLatch_wait (c : Ctx) (a n : Nat) : (c.setLatch a n).wait = c.wait := rfl
@[simp] theorem Ctx.setLatch_viewb (c : Ctx) (a n : Nat) : (c.setLatch a n).viewb = c.viewb := rfl
@[simp] theorem Ctx.setLatch_supervisor (c : Ctx) (a n : Nat) : (c.setLatch a n).supervisor = c.supervisor := rfl
@[simp] theorem Ctx.setLatch_leader (c : Ctx) (a n : Nat) : (c.setLatch a n).leader = c.leader := rfl
@[simp] theorem Ctx.setLatch_follower (c : Ctx) (a n : Nat) : (c.setLatch a n).follower = c.follower := rfl
@[simp] theorem Ctx.setLatch_flags (c : Ctx) (a n : Nat) : (c.setLatch a n).flags = c.flags := rfl
@[simp] theorem Ctx.setLatch_flagen (c : Ctx) (a n : Nat) : (c.setLatch a n).flagen = c.flagen := rfl
@[simp] theorem Ctx.setLatch_ulevec (c : Ctx) (a n : Nat) : (c.setLatch a n).ulevec = c.ulevec := rfl
@[simp] theorem Ctx.setLatch_uleEn (c : Ctx) (a n : Nat) : (c.setLatch a n).uleEn = c.uleEn := rfl
@[simp] theorem Ctx.setLatch_uleActive (c : Ctx) (a n : Nat) : (c.setLatch a n).uleActive = c.uleActive := rfl
@[simp] theorem Ctx.setLatch_uleKind (c : Ctx) (a n : Nat) : (c.setLatch a n).uleKind = c.uleKind := rfl
@[simp] theorem Ctx.setLatch_uleLost (c : Ctx) (a n : Nat) : (c.setLatch a n).uleLost = c.uleLost := rfl
@[simp] theorem Ctx.setLatch_uleen (c : Ctx) (a n : Nat) : (c.setLatch a n).uleen = c.uleen := rfl
@[simp] theorem Ctx.setLatch_fltdlg (c : Ctx) (a n : Nat) : (c.setLatch a n).fltdlg = c.fltdlg := rfl
@[simp] theorem Ctx.setLatch_evq (c : Ctx) (a n : Nat) : (c.setLatch a n).evq = c.evq := rfl
@[simp] theorem Ctx.setLatch_faultinfo (c : Ctx) (a n : Nat) : (c.setLatch a n).faultinfo = c.faultinfo := rfl
@[simp] theorem Ctx.setLatch_faultpc (c : Ctx) (a n : Nat) : (c.setLatch a n).faultpc = c.faultpc := rfl
@[simp] theorem Ctx.setLatch_faultaddr (c : Ctx) (a n : Nat) : (c.setLatch a n).faultaddr = c.faultaddr := rfl
@[simp] theorem Ctx.setLatch_slktab (c : Ctx) (a n : Nat) : (c.setLatch a n).slktab = c.slktab := rfl
@[simp] theorem Ctx.setLatch_slk (c : Ctx) (a n : Nat) : (c.setLatch a n).slk = c.slk := rfl
@[simp] theorem Ctx.setLatch_slkctl (c : Ctx) (a n : Nat) : (c.setLatch a n).slkctl = c.slkctl := rfl
@[simp] theorem Ctx.setLatch_odcnt (c : Ctx) (a n : Nat) : (c.setLatch a n).odcnt = c.odcnt := rfl
@[simp] theorem Ctx.setLatch_stpkey (c : Ctx) (a n : Nat) : (c.setLatch a n).stpkey = c.stpkey := rfl
@[simp] theorem Ctx.setLatch_stpmem (c : Ctx) (a n : Nat) : (c.setLatch a n).stpmem = c.stpmem := rfl
@[simp] theorem Ctx.setLatch_srcnt (c : Ctx) (a n : Nat) : (c.setLatch a n).srcnt = c.srcnt := rfl
@[simp] theorem Ctx.setLatch_tmplbase (c : Ctx) (a n : Nat) : (c.setLatch a n).tmplbase = c.tmplbase := rfl
@[simp] theorem Ctx.setLatch_mpdw0 (c : Ctx) (a n : Nat) : (c.setLatch a n).mpdw0 = c.mpdw0 := rfl
@[simp] theorem Ctx.setLatch_mpdw1 (c : Ctx) (a n : Nat) : (c.setLatch a n).mpdw1 = c.mpdw1 := rfl
@[simp] theorem Ctx.setLatch_mpdw2 (c : Ctx) (a n : Nat) : (c.setLatch a n).mpdw2 = c.mpdw2 := rfl
@[simp] theorem Ctx.setLatch_svec (c : Ctx) (a n : Nat) : (c.setLatch a n).svec = c.svec := rfl
@[simp] theorem Ctx.setLatch_svpc (c : Ctx) (a n : Nat) : (c.setLatch a n).svpc = c.svpc := rfl
@[simp] theorem Ctx.setLatch_uleSaved (c : Ctx) (a n : Nat) : (c.setLatch a n).uleSaved = c.uleSaved := rfl
@[simp] theorem Ctx.setLatch_svSaved (c : Ctx) (a n : Nat) : (c.setLatch a n).svSaved = c.svSaved := rfl
@[simp] theorem Ctx.setLatch_stepdom (c : Ctx) (a n : Nat) : (c.setLatch a n).stepdom = c.stepdom := rfl
@[simp] theorem Ctx.setLatch_snapshot (c : Ctx) (a n : Nat) : (c.setLatch a n).snapshot = c.snapshot := rfl
@[simp] theorem Ctx.setLatch_report (c : Ctx) (a n : Nat) : (c.setLatch a n).report = c.report := rfl
@[simp] theorem Ctx.setLatch_arrival (c : Ctx) (a n : Nat) : (c.setLatch a n).arrival = c.arrival := rfl
@[simp] theorem Ctx.setLatch_frozen (c : Ctx) (a n : Nat) : (c.setLatch a n).frozen = c.frozen := rfl
@[simp] theorem Ctx.setLatch_front (c : Ctx) (a n : Nat) : (c.setLatch a n).front = c.front := rfl
@[simp] theorem Ctx.setLatch_back (c : Ctx) (a n : Nat) : (c.setLatch a n).back = c.back := rfl
@[simp] theorem Ctx.setLatch_observed (c : Ctx) (a n : Nat) : (c.setLatch a n).observed = c.observed := rfl
@[simp] theorem Ctx.setLatch_fwd (c : Ctx) (a n : Nat) : (c.setLatch a n).fwd = c.fwd := rfl
@[simp] theorem Ctx.setLatch_fwdWire (c : Ctx) (a n : Nat) : (c.setLatch a n).fwdWire = c.fwdWire := rfl
@[simp] theorem Ctx.setLatch_lines (c : Ctx) (a n : Nat) : (c.setLatch a n).lines = c.lines := rfl
@[simp] theorem Ctx.setLatch_want (c : Ctx) (a n : Nat) : (c.setLatch a n).want = c.want := rfl
@[simp] theorem Ctx.setLatch_message (c : Ctx) (a n : Nat) : (c.setLatch a n).message = c.message := rfl
@[simp] theorem Ctx.setLatch_rtBatch (c : Ctx) (a n : Nat) : (c.setLatch a n).rtBatch = c.rtBatch := rfl
@[simp] theorem Ctx.setLatch_latch (c : Ctx) (a n : Nat) : (c.setLatch a n).latch = c.latchOf a n := rfl

/-! ### Writing register bytes -/

@[simp] theorem Ctx.putCells_key (c : Ctx) (cells : List (Nat × Byte)) : (c.putCells cells).key = c.key := rfl
@[simp] theorem Ctx.putCells_task (c : Ctx) (cells : List (Nat × Byte)) : (c.putCells cells).task = c.task := rfl
@[simp] theorem Ctx.putCells_rank (c : Ctx) (cells : List (Nat × Byte)) : (c.putCells cells).rank = c.rank := rfl
@[simp] theorem Ctx.putCells_stopped (c : Ctx) (cells : List (Nat × Byte)) : (c.putCells cells).stopped = c.stopped := rfl
@[simp] theorem Ctx.putCells_evicted (c : Ctx) (cells : List (Nat × Byte)) : (c.putCells cells).evicted = c.evicted := rfl
@[simp] theorem Ctx.putCells_faulted (c : Ctx) (cells : List (Nat × Byte)) : (c.putCells cells).faulted = c.faulted := rfl
@[simp] theorem Ctx.putCells_pc (c : Ctx) (cells : List (Nat × Byte)) : (c.putCells cells).pc = c.pc := rfl
@[simp] theorem Ctx.putCells_atHeader (c : Ctx) (cells : List (Nat × Byte)) : (c.putCells cells).atHeader = c.atHeader := rfl
@[simp] theorem Ctx.putCells_blockEnd (c : Ctx) (cells : List (Nat × Byte)) : (c.putCells cells).blockEnd = c.blockEnd := rfl
@[simp] theorem Ctx.putCells_latch (c : Ctx) (cells : List (Nat × Byte)) : (c.putCells cells).latch = c.latch := rfl
@[simp] theorem Ctx.putCells_latchTok (c : Ctx) (cells : List (Nat × Byte)) : (c.putCells cells).latchTok = c.latchTok := rfl
@[simp] theorem Ctx.putCells_pending (c : Ctx) (cells : List (Nat × Byte)) : (c.putCells cells).pending = c.pending := rfl
@[simp] theorem Ctx.putCells_pendingMx (c : Ctx) (cells : List (Nat × Byte)) : (c.putCells cells).pendingMx = c.pendingMx := rfl
@[simp] theorem Ctx.putCells_readPend (c : Ctx) (cells : List (Nat × Byte)) : (c.putCells cells).readPend = c.readPend := rfl
@[simp] theorem Ctx.putCells_strictPend (c : Ctx) (cells : List (Nat × Byte)) : (c.putCells cells).strictPend = c.strictPend := rfl
@[simp] theorem Ctx.putCells_winStores (c : Ctx) (cells : List (Nat × Byte)) : (c.putCells cells).winStores = c.winStores := rfl
@[simp] theorem Ctx.putCells_fetches (c : Ctx) (cells : List (Nat × Byte)) : (c.putCells cells).fetches = c.fetches := rfl
@[simp] theorem Ctx.putCells_wait (c : Ctx) (cells : List (Nat × Byte)) : (c.putCells cells).wait = c.wait := rfl
@[simp] theorem Ctx.putCells_viewb (c : Ctx) (cells : List (Nat × Byte)) : (c.putCells cells).viewb = c.viewb := rfl
@[simp] theorem Ctx.putCells_supervisor (c : Ctx) (cells : List (Nat × Byte)) : (c.putCells cells).supervisor = c.supervisor := rfl
@[simp] theorem Ctx.putCells_leader (c : Ctx) (cells : List (Nat × Byte)) : (c.putCells cells).leader = c.leader := rfl
@[simp] theorem Ctx.putCells_follower (c : Ctx) (cells : List (Nat × Byte)) : (c.putCells cells).follower = c.follower := rfl
@[simp] theorem Ctx.putCells_flags (c : Ctx) (cells : List (Nat × Byte)) : (c.putCells cells).flags = c.flags := rfl
@[simp] theorem Ctx.putCells_flagen (c : Ctx) (cells : List (Nat × Byte)) : (c.putCells cells).flagen = c.flagen := rfl
@[simp] theorem Ctx.putCells_ulevec (c : Ctx) (cells : List (Nat × Byte)) : (c.putCells cells).ulevec = c.ulevec := rfl
@[simp] theorem Ctx.putCells_uleEn (c : Ctx) (cells : List (Nat × Byte)) : (c.putCells cells).uleEn = c.uleEn := rfl
@[simp] theorem Ctx.putCells_uleActive (c : Ctx) (cells : List (Nat × Byte)) : (c.putCells cells).uleActive = c.uleActive := rfl
@[simp] theorem Ctx.putCells_uleKind (c : Ctx) (cells : List (Nat × Byte)) : (c.putCells cells).uleKind = c.uleKind := rfl
@[simp] theorem Ctx.putCells_uleLost (c : Ctx) (cells : List (Nat × Byte)) : (c.putCells cells).uleLost = c.uleLost := rfl
@[simp] theorem Ctx.putCells_uleen (c : Ctx) (cells : List (Nat × Byte)) : (c.putCells cells).uleen = c.uleen := rfl
@[simp] theorem Ctx.putCells_fltdlg (c : Ctx) (cells : List (Nat × Byte)) : (c.putCells cells).fltdlg = c.fltdlg := rfl
@[simp] theorem Ctx.putCells_evq (c : Ctx) (cells : List (Nat × Byte)) : (c.putCells cells).evq = c.evq := rfl
@[simp] theorem Ctx.putCells_faultinfo (c : Ctx) (cells : List (Nat × Byte)) : (c.putCells cells).faultinfo = c.faultinfo := rfl
@[simp] theorem Ctx.putCells_faultpc (c : Ctx) (cells : List (Nat × Byte)) : (c.putCells cells).faultpc = c.faultpc := rfl
@[simp] theorem Ctx.putCells_faultaddr (c : Ctx) (cells : List (Nat × Byte)) : (c.putCells cells).faultaddr = c.faultaddr := rfl
@[simp] theorem Ctx.putCells_slktab (c : Ctx) (cells : List (Nat × Byte)) : (c.putCells cells).slktab = c.slktab := rfl
@[simp] theorem Ctx.putCells_slk (c : Ctx) (cells : List (Nat × Byte)) : (c.putCells cells).slk = c.slk := rfl
@[simp] theorem Ctx.putCells_slkctl (c : Ctx) (cells : List (Nat × Byte)) : (c.putCells cells).slkctl = c.slkctl := rfl
@[simp] theorem Ctx.putCells_odcnt (c : Ctx) (cells : List (Nat × Byte)) : (c.putCells cells).odcnt = c.odcnt := rfl
@[simp] theorem Ctx.putCells_stpkey (c : Ctx) (cells : List (Nat × Byte)) : (c.putCells cells).stpkey = c.stpkey := rfl
@[simp] theorem Ctx.putCells_stpmem (c : Ctx) (cells : List (Nat × Byte)) : (c.putCells cells).stpmem = c.stpmem := rfl
@[simp] theorem Ctx.putCells_srcnt (c : Ctx) (cells : List (Nat × Byte)) : (c.putCells cells).srcnt = c.srcnt := rfl
@[simp] theorem Ctx.putCells_tmplbase (c : Ctx) (cells : List (Nat × Byte)) : (c.putCells cells).tmplbase = c.tmplbase := rfl
@[simp] theorem Ctx.putCells_mpdw0 (c : Ctx) (cells : List (Nat × Byte)) : (c.putCells cells).mpdw0 = c.mpdw0 := rfl
@[simp] theorem Ctx.putCells_mpdw1 (c : Ctx) (cells : List (Nat × Byte)) : (c.putCells cells).mpdw1 = c.mpdw1 := rfl
@[simp] theorem Ctx.putCells_mpdw2 (c : Ctx) (cells : List (Nat × Byte)) : (c.putCells cells).mpdw2 = c.mpdw2 := rfl
@[simp] theorem Ctx.putCells_svec (c : Ctx) (cells : List (Nat × Byte)) : (c.putCells cells).svec = c.svec := rfl
@[simp] theorem Ctx.putCells_svpc (c : Ctx) (cells : List (Nat × Byte)) : (c.putCells cells).svpc = c.svpc := rfl
@[simp] theorem Ctx.putCells_uleSaved (c : Ctx) (cells : List (Nat × Byte)) : (c.putCells cells).uleSaved = c.uleSaved := rfl
@[simp] theorem Ctx.putCells_svSaved (c : Ctx) (cells : List (Nat × Byte)) : (c.putCells cells).svSaved = c.svSaved := rfl
@[simp] theorem Ctx.putCells_stepdom (c : Ctx) (cells : List (Nat × Byte)) : (c.putCells cells).stepdom = c.stepdom := rfl
@[simp] theorem Ctx.putCells_snapshot (c : Ctx) (cells : List (Nat × Byte)) : (c.putCells cells).snapshot = c.snapshot := rfl
@[simp] theorem Ctx.putCells_report (c : Ctx) (cells : List (Nat × Byte)) : (c.putCells cells).report = c.report := rfl
@[simp] theorem Ctx.putCells_arrival (c : Ctx) (cells : List (Nat × Byte)) : (c.putCells cells).arrival = c.arrival := rfl
@[simp] theorem Ctx.putCells_frozen (c : Ctx) (cells : List (Nat × Byte)) : (c.putCells cells).frozen = c.frozen := rfl
@[simp] theorem Ctx.putCells_front (c : Ctx) (cells : List (Nat × Byte)) : (c.putCells cells).front = c.front := rfl
@[simp] theorem Ctx.putCells_back (c : Ctx) (cells : List (Nat × Byte)) : (c.putCells cells).back = c.back := rfl
@[simp] theorem Ctx.putCells_observed (c : Ctx) (cells : List (Nat × Byte)) : (c.putCells cells).observed = c.observed := rfl
@[simp] theorem Ctx.putCells_fwd (c : Ctx) (cells : List (Nat × Byte)) : (c.putCells cells).fwd = c.fwd := rfl
@[simp] theorem Ctx.putCells_fwdWire (c : Ctx) (cells : List (Nat × Byte)) : (c.putCells cells).fwdWire = c.fwdWire := rfl
@[simp] theorem Ctx.putCells_lines (c : Ctx) (cells : List (Nat × Byte)) : (c.putCells cells).lines = c.lines := rfl
@[simp] theorem Ctx.putCells_want (c : Ctx) (cells : List (Nat × Byte)) : (c.putCells cells).want = c.want := rfl
@[simp] theorem Ctx.putCells_message (c : Ctx) (cells : List (Nat × Byte)) : (c.putCells cells).message = c.message := rfl
@[simp] theorem Ctx.putCells_rtBatch (c : Ctx) (cells : List (Nat × Byte)) : (c.putCells cells).rtBatch = c.rtBatch := rfl

/-! ### Ending a region -/

@[simp] theorem Ctx.endRegion_key (c : Ctx) : (c.endRegion).key = c.key := rfl
@[simp] theorem Ctx.endRegion_task (c : Ctx) : (c.endRegion).task = c.task := rfl
@[simp] theorem Ctx.endRegion_rank (c : Ctx) : (c.endRegion).rank = c.rank := rfl
@[simp] theorem Ctx.endRegion_stopped (c : Ctx) : (c.endRegion).stopped = c.stopped := rfl
@[simp] theorem Ctx.endRegion_evicted (c : Ctx) : (c.endRegion).evicted = c.evicted := rfl
@[simp] theorem Ctx.endRegion_faulted (c : Ctx) : (c.endRegion).faulted = c.faulted := rfl
@[simp] theorem Ctx.endRegion_pc (c : Ctx) : (c.endRegion).pc = c.pc := rfl
@[simp] theorem Ctx.endRegion_atHeader (c : Ctx) : (c.endRegion).atHeader = c.atHeader := rfl
@[simp] theorem Ctx.endRegion_blockEnd (c : Ctx) : (c.endRegion).blockEnd = c.blockEnd := rfl
@[simp] theorem Ctx.endRegion_latch (c : Ctx) : (c.endRegion).latch = c.latch := rfl
@[simp] theorem Ctx.endRegion_latchTok (c : Ctx) : (c.endRegion).latchTok = c.latchTok := rfl
@[simp] theorem Ctx.endRegion_outstanding (c : Ctx) : (c.endRegion).outstanding = c.outstanding := rfl
@[simp] theorem Ctx.endRegion_fetches (c : Ctx) : (c.endRegion).fetches = c.fetches := rfl
@[simp] theorem Ctx.endRegion_wait (c : Ctx) : (c.endRegion).wait = c.wait := rfl
@[simp] theorem Ctx.endRegion_viewb (c : Ctx) : (c.endRegion).viewb = c.viewb := rfl
@[simp] theorem Ctx.endRegion_supervisor (c : Ctx) : (c.endRegion).supervisor = c.supervisor := rfl
@[simp] theorem Ctx.endRegion_leader (c : Ctx) : (c.endRegion).leader = c.leader := rfl
@[simp] theorem Ctx.endRegion_follower (c : Ctx) : (c.endRegion).follower = c.follower := rfl
@[simp] theorem Ctx.endRegion_flags (c : Ctx) : (c.endRegion).flags = c.flags := rfl
@[simp] theorem Ctx.endRegion_flagen (c : Ctx) : (c.endRegion).flagen = c.flagen := rfl
@[simp] theorem Ctx.endRegion_ulevec (c : Ctx) : (c.endRegion).ulevec = c.ulevec := rfl
@[simp] theorem Ctx.endRegion_uleEn (c : Ctx) : (c.endRegion).uleEn = c.uleEn := rfl
@[simp] theorem Ctx.endRegion_uleActive (c : Ctx) : (c.endRegion).uleActive = c.uleActive := rfl
@[simp] theorem Ctx.endRegion_uleKind (c : Ctx) : (c.endRegion).uleKind = c.uleKind := rfl
@[simp] theorem Ctx.endRegion_uleLost (c : Ctx) : (c.endRegion).uleLost = c.uleLost := rfl
@[simp] theorem Ctx.endRegion_uleen (c : Ctx) : (c.endRegion).uleen = c.uleen := rfl
@[simp] theorem Ctx.endRegion_fltdlg (c : Ctx) : (c.endRegion).fltdlg = c.fltdlg := rfl
@[simp] theorem Ctx.endRegion_evq (c : Ctx) : (c.endRegion).evq = c.evq := rfl
@[simp] theorem Ctx.endRegion_faultinfo (c : Ctx) : (c.endRegion).faultinfo = c.faultinfo := rfl
@[simp] theorem Ctx.endRegion_faultpc (c : Ctx) : (c.endRegion).faultpc = c.faultpc := rfl
@[simp] theorem Ctx.endRegion_faultaddr (c : Ctx) : (c.endRegion).faultaddr = c.faultaddr := rfl
@[simp] theorem Ctx.endRegion_slktab (c : Ctx) : (c.endRegion).slktab = c.slktab := rfl
@[simp] theorem Ctx.endRegion_slk (c : Ctx) : (c.endRegion).slk = c.slk := rfl
@[simp] theorem Ctx.endRegion_slkctl (c : Ctx) : (c.endRegion).slkctl = c.slkctl := rfl
@[simp] theorem Ctx.endRegion_odcnt (c : Ctx) : (c.endRegion).odcnt = c.odcnt := rfl
@[simp] theorem Ctx.endRegion_stpkey (c : Ctx) : (c.endRegion).stpkey = c.stpkey := rfl
@[simp] theorem Ctx.endRegion_stpmem (c : Ctx) : (c.endRegion).stpmem = c.stpmem := rfl
@[simp] theorem Ctx.endRegion_srcnt (c : Ctx) : (c.endRegion).srcnt = c.srcnt := rfl
@[simp] theorem Ctx.endRegion_tmplbase (c : Ctx) : (c.endRegion).tmplbase = c.tmplbase := rfl
@[simp] theorem Ctx.endRegion_mpdw0 (c : Ctx) : (c.endRegion).mpdw0 = c.mpdw0 := rfl
@[simp] theorem Ctx.endRegion_mpdw1 (c : Ctx) : (c.endRegion).mpdw1 = c.mpdw1 := rfl
@[simp] theorem Ctx.endRegion_mpdw2 (c : Ctx) : (c.endRegion).mpdw2 = c.mpdw2 := rfl
@[simp] theorem Ctx.endRegion_svec (c : Ctx) : (c.endRegion).svec = c.svec := rfl
@[simp] theorem Ctx.endRegion_svpc (c : Ctx) : (c.endRegion).svpc = c.svpc := rfl
@[simp] theorem Ctx.endRegion_uleSaved (c : Ctx) : (c.endRegion).uleSaved = c.uleSaved := rfl
@[simp] theorem Ctx.endRegion_svSaved (c : Ctx) : (c.endRegion).svSaved = c.svSaved := rfl
@[simp] theorem Ctx.endRegion_stepdom (c : Ctx) : (c.endRegion).stepdom = c.stepdom := rfl
@[simp] theorem Ctx.endRegion_snapshot (c : Ctx) : (c.endRegion).snapshot = c.snapshot := rfl
@[simp] theorem Ctx.endRegion_report (c : Ctx) : (c.endRegion).report = c.report := rfl
@[simp] theorem Ctx.endRegion_arrival (c : Ctx) : (c.endRegion).arrival = c.arrival := rfl
@[simp] theorem Ctx.endRegion_frozen (c : Ctx) : (c.endRegion).frozen = c.frozen := rfl
@[simp] theorem Ctx.endRegion_front (c : Ctx) : (c.endRegion).front = c.front := rfl
@[simp] theorem Ctx.endRegion_back (c : Ctx) : (c.endRegion).back = c.back := rfl
@[simp] theorem Ctx.endRegion_observed (c : Ctx) : (c.endRegion).observed = c.observed := rfl
@[simp] theorem Ctx.endRegion_fwd (c : Ctx) : (c.endRegion).fwd = c.fwd := rfl
@[simp] theorem Ctx.endRegion_fwdWire (c : Ctx) : (c.endRegion).fwdWire = c.fwdWire := rfl
@[simp] theorem Ctx.endRegion_lines (c : Ctx) : (c.endRegion).lines = c.lines := rfl
@[simp] theorem Ctx.endRegion_want (c : Ctx) : (c.endRegion).want = c.want := rfl
@[simp] theorem Ctx.endRegion_message (c : Ctx) : (c.endRegion).message = c.message := rfl
@[simp] theorem Ctx.endRegion_rtBatch (c : Ctx) : (c.endRegion).rtBatch = c.rtBatch := rfl
@[simp] theorem Ctx.endRegion_winStores (c : Ctx) : c.endRegion.winStores = [] := rfl
@[simp] theorem Ctx.endRegion_pending (c : Ctx) : c.endRegion.pending = [] := rfl
@[simp] theorem Ctx.endRegion_pendingMx (c : Ctx) : c.endRegion.pendingMx = [] := rfl
@[simp] theorem Ctx.endRegion_readPend (c : Ctx) : c.endRegion.readPend = [] := rfl
@[simp] theorem Ctx.endRegion_strictPend (c : Ctx) : c.endRegion.strictPend = [] := rfl

end Sys2Proof.Machine
end

