-- ==== Sys2Proof/Laws/Ops.lean ====
section
/-! SUPPORT. What the shared operations of the thread engine answer: registers and operands, the frame of one instruction, the
common shapes of instructions. The statements about single instructions cite these. -/

namespace Sys2Proof.Machine

/-! ### A part of an execution -/

@[simp] theorem try_bind_ok {α β : Type} (x : α) (f : α → Try β) : ((Except.ok x : Try α) >>= f) = f x := rfl
@[simp] theorem try_bind_error {α β : Type} (e : Stop) (f : α → Try β) : ((Except.error e : Try α) >>= f) = .error e := rfl
@[simp] theorem try_pure {α : Type} (x : α) : (pure x : Try α) = .ok x := rfl

/-- A part that completes does so through both of its parts. -/
theorem try_bind_eq_ok {α β : Type} {x : Try α} {f : α → Try β} {b : β} (h : x >>= f = .ok b) : ∃ a, x = .ok a ∧ f a = .ok b := by
  cases x with
  | error e => cases h
  | ok a => exact ⟨a, rfl, h⟩

@[simp] theorem require_ok {b : Bool} {code : Nat} : require b code = .ok () ↔ b = true := by
  cases b <;> simp [require, fault]

@[simp] theorem require_true (code : Nat) : require true code = .ok () := rfl
@[simp] theorem require_false (code : Nat) : require false code = fault code := rfl

@[simp] theorem requireAt_true (code : Nat) (a : Word) : requireAt true code a = .ok () := rfl
@[simp] theorem requireAt_false (code : Nat) (a : Word) : requireAt false code a = faultAt code a := rfl

/-! ### Registers -/

@[simp] theorem orFlags_zero (c : Ctx) : c.orFlags 0 = c := by simp [Ctx.orFlags]

/-- A register read that completes: no byte is pending, and it gives the bytes. -/
theorem readRf_eq_ok {c : Ctx} {a n : Nat} {b : List Byte} (h : readRf c a n = .ok b) :
    meetsAny c.pending a n = false ∧ meetsAny c.pendingMx a n = false ∧ b = c.rf.read a n := by
  obtain ⟨_, hr, hb⟩ := try_bind_eq_ok h
  have hr := require_ok.mp hr
  simp only [Bool.and_eq_true, Bool.not_eq_true'] at hr
  exact ⟨hr.1, hr.2, (Except.ok.inj hb).symm⟩

/-- A register read with no byte pending. -/
theorem readRf_ok {c : Ctx} {a n : Nat} (h : meetsAny c.pending a n = false) (h' : meetsAny c.pendingMx a n = false) :
    readRf c a n = .ok (c.rf.read a n) := by
  simp [readRf, h, h']

/-- No byte of the range was stored through the window, or has still to be read by a matrix command: no HAZARD. -/
theorem writeHazard_ok {s : State} {c : Ctx} {a n : Nat} (h : meetsAny c.winRanges a n = false) (h' : meetsAny (s.readPending c) a n = false) :
    writeHazard s c a n = .ok () := by
  simp [writeHazard, h, h']

/-- A register write that completes. -/
theorem writeRf_eq_ok {s : State} {c c' : Ctx} {a n : Nat} {cells : List (Nat × Byte)} (h : writeRf s c a n cells = .ok c') :
    meetsAny c.winRanges a n = false ∧ meetsAny (s.readPending c) a n = false ∧
    c' = { c.putCells cells with pending := (a, n) :: c.pending } := by
  obtain ⟨_, hz, h⟩ := try_bind_eq_ok h
  obtain ⟨_, h1, _⟩ := try_bind_eq_ok hz
  have h1 := require_ok.mp h1
  refine ⟨by simpa using h1, ?_⟩
  by_cases hr : meetsAny (s.readPending c) a n = true
  · rw [if_pos hr] at h; cases h
  · rw [if_neg hr] at h
    exact ⟨by simpa using hr, (Except.ok.inj h).symm⟩

/-- A register write that neither faults nor waits. -/
theorem writeRf_ok {s : State} {c : Ctx} {a n : Nat} {cells : List (Nat × Byte)} (h : meetsAny c.winRanges a n = false)
    (h' : meetsAny (s.readPending c) a n = false) :
    writeRf s c a n cells = .ok { c.putCells cells with pending := (a, n) :: c.pending } := by
  simp [writeRf, writeHazard_ok h h', h']

/-- Single cells at consecutive places are a write. -/
theorem foldl_cellsAt : ∀ (bs : List Byte) (m : Mem) (a : Nat), (cellsAt a bs).foldl (fun m x => m.set x.1 x.2) m = m.write a bs
  | [], _, _ => rfl
  | b :: r, m, a => foldl_cellsAt r (m.set a b) (a + 1)

/-- The register file after a write of consecutive bytes. -/
theorem putCells_cellsAt_rf (c : Ctx) (a : Nat) (bs : List Byte) : (c.putCells (cellsAt a bs)).rf = c.rf.write a bs :=
  foldl_cellsAt bs c.rf a

/-- A value written to a register other than p0. -/
theorem writeVal_eq_ok {s : State} {c c' : Ctx} {o : Operand} {x : Word} {a : Nat} (ho : o ≠ .p 0) (ha : c.loc o = some a)
    (h : writeVal s c o x = .ok c') :
    meetsAny c.winRanges a 8 = false ∧ meetsAny (s.readPending c) a 8 = false ∧
    c' = ({ c.putCells (cellsAt a (bytesOf 8 x.toNat)) with pending := (a, 8) :: c.pending }).setLatch a 8 := by
  have e : writeVal s c o x = (writeRf s c a 8 (cellsAt a (bytesOf 8 x.toNat)) >>= fun c => pure (c.setLatch a 8)) := by
    unfold writeVal
    split
    · exact absurd rfl ho
    · simp [ha]
  rw [e] at h
  obtain ⟨d, hd, h⟩ := try_bind_eq_ok h
  obtain ⟨h1, h2, rfl⟩ := writeRf_eq_ok hd
  exact ⟨h1, h2, (Except.ok.inj h).symm⟩

/-- A value written to p0 is discarded. -/
theorem writeVal_p0 (s : State) (c : Ctx) (x : Word) : writeVal s c (.p 0) x = .ok (c.latch8 (BitVec.allOnes 64)) := rfl

/-- Lane elements written to a register. -/
theorem writeElems_eq_ok {s : State} {c c' : Ctx} {o : Operand} {w : Nat} {g : Word} {xs : List Nat} {a : Nat} (ha : c.loc o = some a)
    (h : writeElems s c o w g xs = .ok c') :
    meetsAny c.winRanges a 256 = false ∧ meetsAny (s.readPending c) a 256 = false ∧
    c' = ({ c.putCells (enabledCells a w g xs) with pending := (a, 256) :: c.pending }).setLatch a 256 := by
  simp only [writeElems, ha] at h
  obtain ⟨d, hd, h⟩ := try_bind_eq_ok h
  obtain ⟨h1, h2, rfl⟩ := writeRf_eq_ok hd
  exact ⟨h1, h2, (Except.ok.inj h).symm⟩

/-! ### The frame of one instruction -/

/-- A latch that can be read holds nothing up. -/
theorem latchGate_ok {s : State} {c : Ctx} {lane : Bool} {ops : List Operand} (h : latchReady s c lane ops = .ok ()) :
    latchGate s c lane ops = .ok () := by
  simp [latchGate, h]

/-- An instruction whose body completes. -/
theorem runInstr_ok {s : State} {h : Common} {priv : Bool} {ops : List Operand} {body : State → Ctx → Word → Try Done} {c : Ctx} {g : Word}
    {d : Done} (hc : s.ctx? s.sel.ctx = some c) (hp : priv = true → c.supervisor = true) (hl : latchReady s c h.lane ops = .ok ())
    (hg : readGuard c h = .ok g) (hb : body s c g = .ok d)
    (hf : d.jump = none → d.left = false → c.pc + 8 = c.blockEnd → s.checkFall c (c.pc + 8) = .ok ()) :
    runInstr s h priv ops body = .next (d.finish c h) := by
  have hp' : (!priv || c.supervisor) = true := by cases priv <;> simp_all
  simp only [runInstr, hc, hp', require_true, try_bind_ok, latchGate_ok hl, hg, hb]
  by_cases hfall : (d.jump.isNone && !d.left && c.pc + 8 == c.blockEnd) = true
  · rw [if_pos hfall]
    simp only [Bool.and_eq_true, Option.isNone_iff_eq_none, Bool.not_eq_true', beq_iff_eq] at hfall
    rw [hf hfall.1.1 hfall.1.2 hfall.2]
    rfl
  · rw [if_neg hfall]
    simp

/-- An instruction whose body takes a fault. -/
theorem runInstr_trap {s : State} {h : Common} {priv : Bool} {ops : List Operand} {body : State → Ctx → Word → Try Done} {c : Ctx} {g : Word}
    {f : Trap} (hc : s.ctx? s.sel.ctx = some c) (hp : priv = true → c.supervisor = true) (hl : latchReady s c h.lane ops = .ok ())
    (hg : readGuard c h = .ok g) (hb : body s c g = .error (.trap f)) : runInstr s h priv ops body = .next (s.dueFault c f) := by
  have hp' : (!priv || c.supervisor) = true := by cases priv <;> simp_all
  simp only [runInstr, hc, hp', require_true, try_bind_ok, latchGate_ok hl, hg, hb, try_bind_error]

/-- An instruction whose body waits. -/
theorem runInstr_stall {s t : State} {h : Common} {priv : Bool} {ops : List Operand} {body : State → Ctx → Word → Try Done} {c : Ctx} {g : Word}
    (hc : s.ctx? s.sel.ctx = some c) (hp : priv = true → c.supervisor = true) (hl : latchReady s c h.lane ops = .ok ())
    (hg : readGuard c h = .ok g) (hb : body s c g = .error (.stall t)) : runInstr s h priv ops body = .next t := by
  have hp' : (!priv || c.supervisor) = true := by cases priv <;> simp_all
  simp only [runInstr, hc, hp', require_true, try_bind_ok, latchGate_ok hl, hg, hb, try_bind_error]

/-- A privileged instruction in user mode takes PRIV. -/
theorem runInstr_priv {s : State} {h : Common} {ops : List Operand} {body : State → Ctx → Word → Try Done} {c : Ctx}
    (hc : s.ctx? s.sel.ctx = some c) (hu : c.supervisor = false) :
    runInstr s h true ops body = .next (s.dueFault c { code := fcPRIV }) := by
  simp [runInstr, hc, hu, fault, require]

/-- Everything an instruction can come to: a context is there, and it completes, takes a fault or waits. -/
theorem runInstr_cases {s t : State} {h : Common} {priv : Bool} {ops : List Operand} {body : State → Ctx → Word → Try Done}
    (hx : runInstr s h priv ops body = .next t) :
    ∃ c, s.ctx? s.sel.ctx = some c ∧
      ((∃ g d, readGuard c h = .ok g ∧ body s c g = .ok d ∧ t = d.finish c h) ∨ (∃ f, t = s.dueFault c f) ∨
        (∃ g, readGuard c h = .ok g ∧ body s c g = .error (.stall t)) ∨ (latchGate s c h.lane ops = .error (.stall t)) ∨
        readGuard c h = .error (.stall t) ∨ s.checkFall c (c.pc + 8) = .error (.stall t)) := by
  unfold runInstr at hx
  split at hx
  · cases hx
  · rename_i c hc
    refine ⟨c, hc, ?_⟩
    dsimp only at hx
    rcases hq : require (!priv || c.supervisor) fcPRIV with e | u
    · rw [hq] at hx
      simp only [try_bind_error] at hx
      have : e = .trap { code := fcPRIV } := by
        unfold require at hq
        split at hq
        · cases hq
        · exact (Except.error.inj hq).symm
      subst this
      exact Or.inr (Or.inl ⟨_, (Host.Outcome.next.inj hx).symm⟩)
    · rw [hq] at hx
      simp only [try_bind_ok] at hx
      rcases hl : latchGate s c h.lane ops with e | u
      · rw [hl] at hx
        simp only [try_bind_error] at hx
        cases e with
        | trap f => exact Or.inr (Or.inl ⟨_, (Host.Outcome.next.inj hx).symm⟩)
        | stall s' => obtain rfl := Host.Outcome.next.inj hx; simp
      · rw [hl] at hx
        simp only [try_bind_ok] at hx
        rcases hg : readGuard c h with e | g
        · rw [hg] at hx
          simp only [try_bind_error] at hx
          cases e with
          | trap f => exact Or.inr (Or.inl ⟨_, (Host.Outcome.next.inj hx).symm⟩)
          | stall s' => obtain rfl := Host.Outcome.next.inj hx; simp
        · rw [hg] at hx
          simp only [try_bind_ok] at hx
          rcases hb : body s c g with e | d
          · rw [hb] at hx
            simp only [try_bind_error] at hx
            cases e with
            | trap f => exact Or.inr (Or.inl ⟨_, (Host.Outcome.next.inj hx).symm⟩)
            | stall s' => obtain rfl := Host.Outcome.next.inj hx; simp [hb]
          · rw [hb] at hx
            simp only [try_bind_ok] at hx
            by_cases hfall : (d.jump.isNone && !d.left && c.pc + 8 == c.blockEnd) = true
            · rw [if_pos hfall] at hx
              rcases hk : s.checkFall c (c.pc + 8) with e | u'
              · rw [hk] at hx
                cases e with
                | trap f => exact Or.inr (Or.inl ⟨_, (Host.Outcome.next.inj hx).symm⟩)
                | stall s' => obtain rfl := Host.Outcome.next.inj hx; simp
              · rw [hk] at hx
                exact Or.inl ⟨g, d, rfl, hb, (Host.Outcome.next.inj hx).symm⟩
            · rw [if_neg hfall] at hx
              exact Or.inl ⟨g, d, rfl, hb, (Host.Outcome.next.inj hx).symm⟩

/-- A uniform instruction whose guard holds. -/
theorem runUniform_ok {s : State} {h : Common} {priv : Bool} {dst : Option Operand} {ops : List Operand} {body : State → Ctx → Try Done}
    {c : Ctx} {g : Word} {d : Done} (hc : s.ctx? s.sel.ctx = some c) (hp : priv = true → c.supervisor = true)
    (hl : latchReady s c h.lane ops = .ok ()) (hg : readGuard c h = .ok g) (h0 : g.getLsbD 0 = true) (hb : body s c = .ok d)
    (hf : d.jump = none → d.left = false → c.pc + 8 = c.blockEnd → s.checkFall c (c.pc + 8) = .ok ()) :
    runUniform s h priv dst ops body = .next (d.finish c h) :=
  runInstr_ok hc hp hl hg (by simpa [h0] using hb) hf

/-- A uniform instruction whose guard holds and whose body takes a fault. -/
theorem runUniform_trap {s : State} {h : Common} {priv : Bool} {dst : Option Operand} {ops : List Operand} {body : State → Ctx → Try Done}
    {c : Ctx} {g : Word} {f : Trap} (hc : s.ctx? s.sel.ctx = some c) (hp : priv = true → c.supervisor = true)
    (hl : latchReady s c h.lane ops = .ok ()) (hg : readGuard c h = .ok g) (h0 : g.getLsbD 0 = true) (hb : body s c = .error (.trap f)) :
    runUniform s h priv dst ops body = .next (s.dueFault c f) :=
  runInstr_trap hc hp hl hg (by simpa only [h0, if_true] using hb)

/-- A uniform instruction whose guard holds and whose body waits. -/
theorem runUniform_stall {s t : State} {h : Common} {priv : Bool} {dst : Option Operand} {ops : List Operand} {body : State → Ctx → Try Done}
    {c : Ctx} {g : Word} (hc : s.ctx? s.sel.ctx = some c) (hp : priv = true → c.supervisor = true)
    (hl : latchReady s c h.lane ops = .ok ()) (hg : readGuard c h = .ok g) (h0 : g.getLsbD 0 = true) (hb : body s c = .error (.stall t)) :
    runUniform s h priv dst ops body = .next t :=
  runInstr_stall hc hp hl hg (by simpa only [h0, if_true] using hb)

/-- A uniform instruction whose guard fails does nothing. -/
theorem runUniform_skip {s : State} {h : Common} {priv : Bool} {dst : Option Operand} {ops : List Operand} {body : State → Ctx → Try Done}
    {c : Ctx} {g : Word} (hc : s.ctx? s.sel.ctx = some c) (hp : priv = true → c.supervisor = true)
    (hl : latchReady s c h.lane ops = .ok ()) (hg : readGuard c h = .ok g) (h0 : g.getLsbD 0 = false)
    (hf : c.pc + 8 = c.blockEnd → s.checkFall c (c.pc + 8) = .ok ()) :
    runUniform s h priv dst ops body =
      .next (({ s := s, c := match dst with
        | some o => latchUnchanged c false o
        | none => c.clearLatch } : Done).finish c h) :=
  runInstr_ok hc hp hl hg (by simp only [h0, Bool.false_eq_true, if_false] <;> cases dst <;> rfl) fun _ _ e => hf e

/-- A uniform instruction that only computes a value. -/
theorem runValue_ok {s : State} {h : Common} {dst : Operand} {ops : List Operand} {f : State → Ctx → Try (Word × Nat)} {c c' : Ctx}
    {g x : Word} {fl : Nat} (hc : s.ctx? s.sel.ctx = some c) (hl : latchReady s c h.lane ops = .ok ()) (hg : readGuard c h = .ok g)
    (h0 : g.getLsbD 0 = true) (hv : f s c = .ok (x, fl)) (hw : writeVal s c dst x = .ok c')
    (hf : c.pc + 8 = c.blockEnd → s.checkFall c (c.pc + 8) = .ok ()) :
    runValue s h dst ops f = .next (({ s := s, c := c'.orFlags fl } : Done).finish c h) :=
  runUniform_ok hc (by simp) hl hg h0 (by simp [hv, hw]) fun _ _ e => hf e

/-- An instruction of elements in uniform class. -/
theorem runElems_uniform {s : State} {h : Common} {dst : Operand} {srcs : List Operand} {w : Nat} {f : List Nat → Nat × Nat} {ext : Nat → Word}
    {c c' : Ctx} {g : Word} {xs : List Word} (hu : h.lane = false) (hc : s.ctx? s.sel.ctx = some c) (hl : latchReady s c h.lane srcs = .ok ())
    (hg : readGuard c h = .ok g) (h0 : g.getLsbD 0 = true) (hx : srcs.mapM (fun o => readVal c o) = .ok xs)
    (hw : writeVal s c dst (ext (f (xs.map fun x => x.toNat % 2 ^ w)).1) = .ok c')
    (hf : c.pc + 8 = c.blockEnd → s.checkFall c (c.pc + 8) = .ok ()) :
    runElems s h dst srcs w f ext =
      .next (({ s := s, c := c'.orFlags (f (xs.map fun x => x.toNat % 2 ^ w)).2 } : Done).finish c h) := by
  unfold runElems
  rw [if_neg (by simp [hu])]
  exact runValue_ok hc hl hg h0 (by simp [hx]) hw hf

/-- An instruction of elements in lane class. -/
theorem runElems_lane {s : State} {h : Common} {dst : Operand} {srcs : List Operand} {w : Nat} {f : List Nat → Nat × Nat} {ext : Nat → Word}
    {c c' : Ctx} {g : Word} {ls : List (List Nat)} (hu : h.lane = true) (hc : s.ctx? s.sel.ctx = some c)
    (hl : latchReady s c h.lane srcs = .ok ()) (hg : readGuard c h = .ok g) (hx : srcs.mapM (fun o => readElems c w o) = .ok ls)
    (hw : writeElems s c dst w g ((List.range (2048 / w)).map fun i => (f (ls.map fun l => l.getD i 0)).1) = .ok c')
    (hf : c.pc + 8 = c.blockEnd → s.checkFall c (c.pc + 8) = .ok ()) :
    runElems s h dst srcs w f ext =
      .next (({ s := s, c := c'.orFlags (laneFlags w g ((List.range (2048 / w)).map fun i => f (ls.map fun l => l.getD i 0))) } :
        Done).finish c h) := by
  unfold runElems
  rw [if_pos hu]
  refine runInstr_ok hc (by simp) hl hg ?_ fun _ _ e => hf e
  simp only [hx, try_bind_ok, List.map_map, Function.comp_def]
  rw [hw]
  rfl

end Sys2Proof.Machine
end

