-- ==== Sys2Proof/Laws/Claims.lean ====
section
/-! SUPPORT. The frame of an instruction in the words of the statements: from Issues or Fires and what a body answers to the outcome of exec. With the
lemma of Laws.Exec for its constructor, a statement about an instruction comes down to what its body answers. -/

namespace Sys2Proof.Claims

open Sys2Proof.Machine

/-- A uniform instruction that fires completes as its body does. -/
theorem uni_ok {s : State} {c : Ctx} {h : Common} {ops : List Operand} {priv : Bool} {dst : Option Operand} {body : State → Ctx → Try Done} {d : Done}
    (hF : Fires s c h ops) (hp : priv = true → c.supervisor = true) (hb : body s c = .ok d) :
    runUniform s h priv dst ops body = .next (d.finish c h) := by
  obtain ⟨⟨g, ⟨hc, hl, hg⟩, h0⟩, hf⟩ := hF
  exact runUniform_ok hc hp hl hg h0 hb fun _ _ e => hf e

/-- A uniform instruction that fires takes the fault that its body finds. -/
theorem uni_trap {s : State} {c : Ctx} {h : Common} {ops : List Operand} {priv : Bool} {dst : Option Operand} {body : State → Ctx → Try Done} {t : Trap}
    (hF : Fires s c h ops) (hp : priv = true → c.supervisor = true) (hb : body s c = .error (.trap t)) :
    runUniform s h priv dst ops body = .next (s.dueFault c t) := by
  obtain ⟨⟨g, ⟨hc, hl, hg⟩, h0⟩, hf⟩ := hF
  exact runUniform_trap hc hp hl hg h0 hb

/-- A uniform instruction that fires waits in the state in which its body waits. -/
theorem uni_stall {s : State} {c : Ctx} {h : Common} {ops : List Operand} {priv : Bool} {dst : Option Operand} {body : State → Ctx → Try Done} {t : State}
    (hF : Fires s c h ops) (hp : priv = true → c.supervisor = true) (hb : body s c = .error (.stall t)) :
    runUniform s h priv dst ops body = .next t := by
  obtain ⟨⟨g, ⟨hc, hl, hg⟩, h0⟩, hf⟩ := hF
  exact runUniform_stall hc hp hl hg h0 hb

/-- An instruction that issues takes the fault that its body finds. -/
theorem ins_trap {s : State} {c : Ctx} {h : Common} {ops : List Operand} {priv : Bool} {g : Word} {body : State → Ctx → Word → Try Done} {t : Trap}
    (hI : Issues s c h ops g) (hp : priv = true → c.supervisor = true) (hb : body s c g = .error (.trap t)) :
    runInstr s h priv ops body = .next (s.dueFault c t) :=
  runInstr_trap (g := g) hI.1 hp hI.2.1 hI.2.2 hb

/-- An instruction that issues waits in the state in which its body waits. -/
theorem ins_stall {s : State} {c : Ctx} {h : Common} {ops : List Operand} {priv : Bool} {g : Word} {body : State → Ctx → Word → Try Done} {t : State}
    (hI : Issues s c h ops g) (hp : priv = true → c.supervisor = true) (hb : body s c g = .error (.stall t)) :
    runInstr s h priv ops body = .next t :=
  runInstr_stall (g := g) hI.1 hp hI.2.1 hI.2.2 hb

/-- An instruction that issues, and may go on to the next word, completes as its body does. -/
theorem ins_ok {s : State} {c : Ctx} {h : Common} {ops : List Operand} {priv : Bool} {g : Word} {body : State → Ctx → Word → Try Done} {d : Done}
    (hI : Issues s c h ops g) (hf : Falls s c) (hp : priv = true → c.supervisor = true) (hb : body s c g = .ok d) :
    runInstr s h priv ops body = .next (d.finish c h) :=
  runInstr_ok hI.1 hp hI.2.1 hI.2.2 hb fun _ _ e => hf e

/-- An instruction that issues and transfers control completes as its body does. -/
theorem ins_jump {s : State} {c : Ctx} {h : Common} {ops : List Operand} {priv : Bool} {g : Word} {body : State → Ctx → Word → Try Done} {d : Done}
    (hI : Issues s c h ops g) (hp : priv = true → c.supervisor = true) (hb : body s c g = .ok d) (hj : d.jump ≠ none) :
    runInstr s h priv ops body = .next (d.finish c h) :=
  runInstr_ok hI.1 hp hI.2.1 hI.2.2 hb fun hh => absurd hh hj

/-- An instruction that only computes a value for its destination gives the value that its body computes. -/
theorem gives {s : State} {c : Ctx} {h : Common} {dst : Operand} {srcs : List Operand} {f : State → Ctx → Try (Word × Nat)} {i : Instr} {x : Word} {fl : Nat}
    (he : exec i s = runValue s h dst srcs f) (hf : f s c = .ok (x, fl)) : GivesValue i h dst srcs s c x fl := by
  intro hF c' hw
  unfold Completes
  rw [he]
  exact uni_ok hF (by simp) (by simp [hf, hw])

end Sys2Proof.Claims
end

