-- ==== Sys2Proof/Tests/Slice0.lean ====
section
/-! SUPPORT. Tests. Ill-formed terms that WellFormed refuses, words written out from the spec's encodings, single steps whose results the spec's own
rules and examples give, and for every statement with hypotheses a state and operands that meet them together. -/

namespace Sys2Proof.Tests

-- The kernel evaluates most tests; one after another, they need one thread's stack and memory.
set_option Elab.async false

open Sys2Proof.Machine Sys2Proof.Claims

/-! ### Well-formedness: one ill-formed term for each check -/

/-- A uniform and a lane instruction, unpredicated and unmarked. -/
def uni : Common := { sw := false, pred := 0, inv := false, lane := false }
def lanes : Common := { uni with lane := true }

def fa (h : Common) (dst a b c : Operand) (mod : BitVec 7) : FormA := { h := h, dst := dst, a := a, b := b, c := c, mod := mod }
def fi (dst a : Operand) (imm : BitVec 27) : FormI := { h := uni, dst := dst, a := a, imm := imm }
def fm (h : Common) (data base : Operand) (mod : BitVec 5) : FormM := { h := h, data := data, base := base, off := 0, slack := 0, mod := mod }
def fx (a b c : Operand) (sub : BitVec 17) : FormX := { h := uni, a := a, b := b, c := c, sub := sub }
def fw (dst : Operand) (imm : BitVec 32) (mod : BitVec 5) : FormW := { h := uni, dst := dst, imm := imm, mod := mod }

/-- Every one of these instructions is refused. -/
def refuses (is : List Instr) : Bool := is.all fun i => !i.wf

/-- Every one of these instructions is well formed. -/
def accepts (is : List Instr) : Bool := is.all Instr.wf

/-- An inverted p0, and the lane flag against the instruction's class (R77, R79). -/
theorem test_wf_refuses_guard_and_class : refuses [
    .nop (fa { uni with inv := true } .zero .zero .zero .zero 0), .nop (fa lanes .zero .zero .zero .zero 0), .vperm (fa uni (.v 1) (.v 2) (.v 3) .zero 1),
    .ldw (fm lanes (.s 1) (.s 2) 0), .ldv (fm uni (.v 1) (.s 2) 0), .accz (fx (.a 0) .zero .zero 0)] = true := by decide

/-- Reserved operand and modifier fields that are not zero (R77). -/
theorem test_wf_refuses_reserved_fields : refuses [
    .nop (fa uni (.s 1) .zero .zero .zero 0), .nop (fa uni .zero (.s 1) .zero .zero 0), .nop (fa uni .zero .zero (.s 1) .zero 0),
    .nop (fa uni .zero .zero .zero (.s 1) 0), .nop (fa uni .zero .zero .zero .zero 1), .br { h := uni, off := 0, mod := 1 },
    .add (fa uni (.s 1) (.s 2) (.s 3) (.s 4) 0), .popc (fa uni (.s 1) (.s 2) (.s 3) .zero 0),
    .ldw { fm uni (.s 1) (.s 2) 0 with slack := 1 }, .steprd (fx (.s 1) (.s 2) .zero 1), .nmstat (fx (.s 1) (.s 2) (.s 3) 0)] = true := by decide

/-- A destination of a wrong class (R80, R81). -/
theorem test_wf_refuses_destinations : refuses [
    .add (fa uni (.v 1) (.s 2) (.s 3) .zero 0), .add (fa lanes (.s 1) (.v 2) (.v 3) .zero 1), .cmp (fa uni (.s 1) (.s 2) (.s 3) .zero 0),
    .accz { fx (.s 1) .zero .zero 0 with h := lanes }, .qcvt (fa lanes (.v 1) (.v 47) (.o 1) .zero 0), .dqcvt (fa lanes (.v 47) (.v 1) (.o 1) .zero 0),
    .qcvt (fa lanes (.v 1) (.v 2) (.v 3) .zero 0), .loop (fi (.v 1) (.s 1) 0), .stv (fm lanes (.p 1) (.s 2) 0)] = true := by decide

/-- Sources of a wrong class (R80, R81, R193). -/
theorem test_wf_refuses_sources : refuses [
    .add (fa uni (.s 1) (.v 2) (.s 3) .zero 0), .add (fa lanes (.v 1) (.p 2) (.v 3) .zero 1), .loop (fi (.s 1) (.v 1) 0),
    .bri (fa uni .zero (.const 1) .zero .zero 0), .ldw (fm uni (.s 1) (.v 2) 0), .pand (fa uni (.p 1) (.s 2) (.p 3) .zero 0),
    .sel (fa uni (.s 1) (.s 2) (.s 3) (.const 1) 0), .vbcast (fa lanes (.v 1) (.v 2) (.o 3) .zero 1), .ldvx (fm lanes (.v 1) (.s 2) 0),
    .vredu (fa lanes (.v 1) (.v 2) (.const 0) .zero 1), .vcprs (fa lanes (.v 1) (.v 2) (.s 0) .zero 1)] = true := by decide

/-- Types, options and rounding codes that do not exist or are not the instruction's (R59, R83, R152, R169, R175 to R183). -/
theorem test_wf_refuses_types_and_options : refuses [
    .add (fa lanes (.v 1) (.v 2) (.v 3) .zero 0), .add (fa uni (.s 1) (.s 2) (.s 3) .zero 4), .add (fa uni (.s 1) (.s 2) (.s 3) .zero 16),
    .lea (fa uni (.s 1) (.s 2) (.s 3) (.s 4) 1), .cmp (fa lanes (.p 1) (.v 2) (.v 3) .zero 2), .fadd (fa uni (.s 1) (.s 2) (.s 3) .zero 3),
    .fadd (fa uni (.s 1) (.s 2) (.s 3) .zero 0x54), .fmin (fa uni (.s 1) (.s 2) (.s 3) .zero 12), .fcmp (fa lanes (.p 1) (.v 2) (.v 3) .zero 5),
    .fcvt (fa uni (.s 1) (.s 2) .zero .zero 7), .fcvti (fa uni (.s 1) (.s 2) .zero .zero 3), .icvtf (fa lanes (.v 1) (.v 2) .zero .zero 4),
    .fpack (fa lanes (.v 1) (.v 2) (.v 3) .zero 2), .funpk (fa lanes (.v 1) (.v 2) .zero .zero 2), .vsel (fa lanes (.v 1) (.v 2) (.v 3) (.v 4) 0),
    .vredu (fa lanes (.v 1) (.v 2) (.p 3) .zero 0x34), .movi (fw (.s 1) 0 2), .pset (fw (.p 1) 0 2)] = true := by decide

/-- Runs of registers past the last one, and accumulator rows that do not exist (R185, R317, R319). -/
theorem test_wf_refuses_runs : refuses [
    .vmovn (fa lanes (.v 40) (.v 0) (.const 9) .zero 1), .vmovn (fa lanes (.v 0) (.v 0) (.const 0) .zero 1), .vzero (fa lanes (.v 1) (.const 48) .zero .zero 1),
    .acccvt (fa lanes (.v 1) (.a 0) (.const 3) .zero 3), .acccvt (fa lanes (.v 1) (.a 0) (.const 16) .zero 0), .acccvt (fa lanes (.v 1) (.a 0) (.const 0) .zero 7),
    .qcvt (fa lanes (.v 1) (.v 2) (.o 1) .zero 5), .hadv (fa lanes (.v 1) (.v 2) .zero .zero 4),
    .hadv (fa { lanes with pred := 1 } (.v 1) (.v 2) .zero .zero 0)] = true := by decide

/-- Sub-operations and modifiers outside their lists (R245, R246, R264, R308, R316). -/
theorem test_wf_refuses_sub_operations : refuses [
    .sync (fx (.s 1) (.s 2) .zero 6), .sync (fx (.s 1) (.s 2) .zero 0x61), .sync (fx (.s 1) (.s 2) .zero 1), .sync (fx (.s 1) .zero (.s 2) 1),
    .arrive (fx (.s 1) .zero .zero 1), .steprd (fx (.s 1) .zero .zero 0), .abortrd (fx (.s 1) .zero .zero 3), .btxa (fx (.s 1) .zero .zero 1),
    .xldd (fm uni (.s 1) (.s 2) 4), .xred (fm uni (.s 1) (.s 2) 17), .xredv (fm lanes (.v 1) (.s 2) 1), .ldvx (fm lanes (.v 1) (.o 2) 3),
    .mma { fx (.a 0) (.s 1) (.s 2) 0x90 with h := lanes }, .mma { fx (.a 0) (.s 1) (.s 2) 0x60 with h := lanes },
    .mma { fx (.a 0) (.v 40) (.s 2) 0x1028 with h := lanes }, .mma { fx (.a 0) (.v 1) (.s 2) 0x1460 with h := lanes }, .nmred (fx (.s 1) .zero .zero 8),
    .mstat (fx (.s 1) .zero .zero 512), .tlbinvAll (fx (.s 1) .zero .zero 1)] = true := by decide

/-- Control registers that do not exist or are read-only, and immediates out of range (R125, R210, R211). -/
theorem test_wf_refuses_registers_and_immediates : refuses [
    .csrr (fi (.s 1) .zero 0x00B), .csrr (fi (.s 1) .zero 0x1000), .csrw (fi .zero (.s 1) 0x003), .csrs (fi .zero (.s 1) 0x210), .csrc (fi .zero (.s 1) 0x00B),
    .trap (fi .zero (.s 1) 0x10000), .view (fi .zero (.s 1) 0), .view (fi .zero (.s 1) 16), .exit (fa uni .zero .zero .zero .zero 2)] = true := by decide

/-- A header with a reserved bit, or with a guard and no reconvergence offset; an opcode that is defined (R75, R85). -/
theorem test_wf_refuses_headers : refuses [
    .blockHeader { length := 3, guard := 0, reconv := 0, livein := 0, prefetch := 0, rsv := 1 },
    .blockHeader { length := 3, guard := 1, reconv := 0, livein := 0, prefetch := 0, rsv := 0 },
    .blockHeader { length := 3, guard := 0, reconv := 5, livein := 0, prefetch := 0, rsv := 0 }, .undefinedOpcode 0] = true := by decide

/-- The same forms with their fields in range. -/
theorem test_wf_accepts : accepts [
    .nop (fa uni .zero .zero .zero .zero 0), .add (fa uni (.s 1) (.s 2) (.const 3) .zero 0x60), .add (fa lanes (.v 1) (.v 2) (.s 3) .zero 3),
    .fadd (fa uni (.s 1) (.s 2) (.s 3) .zero 0x4C), .vmovn (fa lanes (.v 40) (.v 0) (.const 8) .zero 1), .acccvt (fa lanes (.v 1) (.a 0) (.const 12) .zero 3),
    .mma { fx (.a 0) (.v 40) (.s 2) 0x1027 with h := lanes }, .mma { fx (.a 0) (.s 1) (.s 2) 0x460 with h := lanes }, .sync (fx (.s 1) .zero .zero 1),
    .csrw (fi .zero (.s 1) 0x002), .view (fi .zero (.s 1) 15), .dqcvt (fa lanes (.v 46) (.v 1) (.o 1) .zero 0), .undefinedOpcode 0x0300000000000000] = true := by decide

/-! ### Decoding: words written out from the encoding tables and the worked examples of the spec -/

def sw (h : Common) : Common := { h with sw := true }

/-- R77, R78, R86 and the worked examples of chapters 4 and 7. -/
theorem test_decode_control : decode 0x00407FFFFFFFFF00 = .ok (.br { h := uni, off := -8, mod := 0 }) ∧
    decode 0x01A0118467FFFFFE = .ok (.loop { h := sw uni, dst := .s 12, a := .s 12, imm := -2 }) ∧
    decode 0x01C0000000000000 = .ok (.exit (fa uni .zero .zero .zero .zero 0)) ∧
    decode 0x01400005F8000000 = .ok (.ret (fa uni .zero (.s 63) .zero .zero 0)) ∧
    decode 0x00E0000000000060 = .ok (.call { h := sw uni, off := 3, mod := 0 }) := ⟨rfl, rfl, rfl, rfl, rfl⟩

theorem test_decode_integer : decode 0x0840118467FFFFFF = .ok (.addi { h := uni, dst := .s 12, a := .s 12, imm := -1 }) ∧
    decode 0x10801180000000A0 = .ok (.movi { h := uni, dst := .s 12, imm := 5, mod := 0 }) ∧
    decode 0x1086128000000140 = .ok (.movi { h := { uni with pred := 3 }, dst := .s 20, imm := 10, mod := 0 }) ∧
    decode 0x0FE00864A500000A = .ok (.cmpi { h := sw uni, dst := .p 3, a := .s 20, imm := 0x500000A }) := ⟨rfl, rfl, rfl, rfl⟩

theorem test_decode_float : decode 0x2080808009140004 = .ok (.fmul (fa lanes (.v 4) (.v 1) (.s 10) .zero 4)) ∧
    decode 0x2020809000040004 = .ok (.fadd (fa (sw lanes) (.v 4) .latch (.v 2) .zero 4)) ∧
    decode 0x21C4808026020004 = .ok (.fmin (fa { lanes with pred := 2 } (.v 4) (.v 4) (.const 1) .zero 4)) ∧
    decode 0x2320884016000054 = .ok (.fcmp (fa (sw lanes) (.p 2) (.v 2) (.const 0) .zero 0x54)) ∧
    decode 0x2640802000000000 = .ok (.funpk (fa lanes (.v 1) (.v 0) .zero .zero 0)) := ⟨rfl, rfl, rfl, rfl, rfl⟩

theorem test_decode_vector_and_memory : decode 0x3980A02010840004 = .ok (.vredu (fa lanes (.o 1) (.v 2) (.p 2) .zero 4)) ∧
    decode 0x4E20804420000000 = .ok (.ldv (fm (sw lanes) (.v 2) (.s 4) 0)) ∧
    decode 0x5C60800428000020 = .ok (.xldv { fm (sw lanes) (.v 0) (.s 5) 0 with slack := 1 }) ∧
    decode 0x5C80110450001041 = .ok (.xstd { fm uni (.s 8) (.s 10) 1 with off := 16, slack := 2 }) ∧
    decode 0x5C00128450000405 = .ok (.xldd { fm uni (.s 20) (.s 10) 5 with off := 4 }) := ⟨rfl, rfl, rfl, rfl, rfl⟩

theorem test_decode_transfer : decode 0x640010A420000000 = .ok (.btx (fm uni (.s 5) (.s 4) 0)) ∧
    decode 0x6400600440000000 = .ok (.btx (fm uni (.const 0) (.s 8) 0)) ∧
    decode 0x658010C438000000 = .ok (.bcpost (fx (.s 6) (.s 7) .zero 0)) ∧
    decode 0x662010D800000000 = .ok (.bcwait { fx (.s 6) (.const 0) .zero 0 with h := sw uni }) ∧
    decode 0x666011E476000000 = .ok (.bctest { fx (.s 15) (.s 14) (.const 0) 0 with h := sw uni }) := ⟨rfl, rfl, rfl, rfl, rfl⟩

theorem test_decode_step : decode 0x6C0010B808000009 = .ok (.sync (fx (.s 5) (.const 1) .zero 9)) ∧
    decode 0x6C0010D83E0A00D2 = .ok (.sync (fx (.s 6) (.const 7) (.const 5) 0xD2)) ∧
    decode 0x6CC010E000000002 = .ok (.steprd (fx (.s 7) .zero .zero 2)) ∧
    decode 0x6C00000000000005 = .ok (.sync (fx .zero .zero .zero 5)) := ⟨rfl, rfl, rfl, rfl⟩

theorem test_decode_matrix : decode 0x80009804210A002F = .ok (.mma { fx (.a 0) (.s 4) (.s 5) 0x2F with h := lanes }) ∧
    decode 0x808010C000000001 = .ok (.mbld (fx (.s 6) .zero .zero 1)) ∧
    decode 0x814011445E000000 = .ok (.mpdesc (fx (.s 10) (.s 11) (.const 0) 0)) ∧
    decode 0x8180980000000000 = .ok (.accz { fx (.a 0) .zero .zero 0 with h := lanes }) ∧
    decode 0x8340602000000001 = .ok (.stpmemAdd (fx (.const 1) .zero .zero 1)) ∧
    decode 0x83C0808008040180 = .ok (.stpmul (fa lanes (.v 4) (.v 1) (.v 2) (.v 3) 0)) := ⟨rfl, rfl, rfl, rfl, rfl, rfl⟩

theorem test_decode_engines : decode 0x9800118000000001 = .ok (.nmred (fx (.s 12) .zero .zero 1)) ∧
    decode 0xB040114420000000 = .ok (.tcbrdy (fx (.s 10) (.s 4) .zero 0)) ∧
    decode 0xB8E01064092A0000 = .ok (.migr { fx (.s 3) (.s 1) (.s 21) 0 with h := sw uni }) := ⟨rfl, rfl, rfl⟩

theorem test_decode_system : decode 0xF000000000000000 = .ok (.tfence (fa uni .zero .zero .zero .zero 0)) ∧
    decode 0xF120178000000008 = .ok (.csrr { fi (.s 60) .zero 8 with h := sw uni }) ∧
    decode 0xF240001810000000 = .ok (.flagclr (fa uni .zero (.const 2) .zero .zero 0)) ∧
    decode 0xF0C0000000000000 = .ok (.eretu (fa uni .zero .zero .zero .zero 0)) ∧
    decode 0xFFC0C00000030000 = .ok (.blockHeader { length := 3, guard := 0, reconv := 0, livein := 0xC, prefetch := 0, rsv := 0 }) :=
  ⟨rfl, rfl, rfl, rfl, rfl⟩

/-- Opcode, operand and sub fields placed by hand from R77 to R85: PAND p1, p2, p3; FSEND s3; PGINFO s1, s2; an opcode that no mnemonic takes. -/
theorem test_decode_by_fields : decode 0x4800082210860000 = .ok (.pand (fa uni (.p 1) (.p 2) (.p 3) .zero 0)) ∧
    decode 0xA000106000000000 = .ok (.fsend (fx (.s 3) .zero .zero 0)) ∧
    decode 0xB800102410000000 = .ok (.pginfo (fx (.s 1) (.s 2) .zero 0)) ∧
    decode 0x0300000000000000 = .ok (.undefinedOpcode 0x0300000000000000) := ⟨rfl, rfl, rfl, rfl⟩

/-! ### Steps -/

/-- After reset, the word ADDI s3, s0, #5 runs as the first instruction: the register file holds 5 at s3's slot, and control is at the next word. -/
theorem test_step_runs_a_placed_word : (match step (State.reset.withFetchWord 64 0x0840106400000005) with
    | .next t => t.ctxs.map fun c => (c.rf.num (c.sloc 3) 8, c.pc == fetchBase + 16)
    | _ => []) = [(5, true)] := by decide +kernel

/-! ### Witnesses: states and operands that meet the hypotheses of the statements -/

/-- A context in the middle of a block, and the small state in which it is chosen; a header stands at the start of its block. -/
def tc : Ctx := { key := { tile := 0, num := 0 }, task := 1, rank := 0, pc := fetchBase + 8, atHeader := false, blockEnd := fetchBase + 2056 }
def ts (c : Ctx) : State :=
  { State.reset with
    ctxs := [c], tasks := [placedTask], tiles := [{ num := 0, ibuf := [{ addr := fetchBase.toNat, task := 1, user := true, word := 0xFFC0000000000000 }] }], sel := selCtx c.key }

/-- The same in supervisor mode, and with registers as a list of bytes. -/
def tsup : Ctx := { tc with supervisor := true }
def tr (regs : Mem) : Ctx := { tc with rf := regs }

/-- All lanes and all bits. -/
def ones : Word := BitVec.allOnes 64

theorem falls_of_middle (s : State) (c : Ctx) (h : (c.pc + 8 == c.blockEnd) = false) : Falls s c := by
  intro e
  rw [e, beq_self_eq_true] at h
  exact absurd h (by decide)

/-- What Elementwise asks of the state and the operands, in either class, with any result. -/
def Able (h : Common) (dst : Operand) (srcs : List Operand) (n : Nat) (s : State) (c : Ctx) : Prop :=
  ∃ g, Issues s c h srcs g ∧ Falls s c ∧
    (h.lane = false → g.getLsbD 0 = true ∧ (∃ xs, srcs.mapM (fun o => readVal c o) = .ok xs) ∧ ∀ x, ∃ c', writeVal s c dst x = .ok c') ∧
    (h.lane = true → (∃ ls, srcs.mapM (fun o => readElems c n o) = .ok ls) ∧ ∀ xs, ∃ c', writeElems s c dst n g xs = .ok c')

/-- What GivesValue asks, with any value. -/
def Ready (h : Common) (dst : Operand) (srcs : List Operand) (s : State) (c : Ctx) : Prop :=
  Fires s c h srcs ∧ ∀ x, ∃ c', writeVal s c dst x = .ok c'

/-- Integer instructions of two sources, in uniform class with 64 bits and in lane class with 8. -/
theorem witness_integer_binary : (∀ i ∈ [Instr.add, .sub, .mul, .mulhi, .mulhu, .divu, .remu, .div, .rem, .and, .or, .xor, .shl, .shr, .sar, .rol,
      .min, .max, .minu, .maxu], (i (fa uni (.s 3) (.s 1) (.s 2) .zero 0)).wf = true ∧ (i (fa lanes (.v 3) (.v 1) (.v 2) .zero 3)).wf = true) ∧
    Able uni (.s 3) [.s 1, .s 2] 64 (ts tc) tc ∧ Able lanes (.v 3) [.v 1, .v 2] 8 (ts tc) tc :=
  ⟨by decide, ⟨ones, ⟨rfl, rfl, rfl⟩, falls_of_middle _ _ rfl, fun _ => ⟨rfl, ⟨_, rfl⟩, fun _ => ⟨_, rfl⟩⟩, fun h => nomatch h⟩,
    ⟨ones, ⟨rfl, rfl, rfl⟩, falls_of_middle _ _ rfl, fun h => (nomatch h), fun _ => ⟨⟨_, rfl⟩, fun _ => ⟨_, rfl⟩⟩⟩⟩

/-- Those of three sources, of one source, and BFI, which reads its destination. -/
theorem witness_integer_ternary_and_unary :
    (∀ i ∈ [Instr.mad, .bfx, .bfxu, .bfi, .lea], (i (fa uni (.s 3) (.s 1) (.s 2) (.s 4) 0)).wf = true ∧ (i (fa lanes (.v 3) (.v 1) (.v 2) (.v 4) 1)).wf = true) ∧
    (∀ i ∈ [Instr.abs, .mov, .popc, .clz, .ctz, .brev], (i (fa uni (.s 3) (.s 1) .zero .zero 0)).wf = true ∧ (i (fa lanes (.v 3) (.v 1) .zero .zero 1)).wf = true) ∧
    Able uni (.s 3) [.s 1, .s 2, .s 4] 64 (ts tc) tc ∧ Able lanes (.v 3) [.v 1, .v 2, .v 4] 32 (ts tc) tc ∧ Able uni (.s 3) [.s 1] 64 (ts tc) tc ∧
    Able lanes (.v 3) [.v 1] 32 (ts tc) tc ∧ Able uni (.s 3) [.s 1, .s 2, .s 4, .s 3] 64 (ts tc) tc ∧ Able lanes (.v 3) [.v 1, .v 2, .v 4, .v 3] 32 (ts tc) tc :=
  ⟨by decide, by decide, ⟨ones, ⟨rfl, rfl, rfl⟩, falls_of_middle _ _ rfl, fun _ => ⟨rfl, ⟨_, rfl⟩, fun _ => ⟨_, rfl⟩⟩, fun h => nomatch h⟩,
    ⟨ones, ⟨rfl, rfl, rfl⟩, falls_of_middle _ _ rfl, fun h => (nomatch h), fun _ => ⟨⟨_, rfl⟩, fun _ => ⟨_, rfl⟩⟩⟩,
    ⟨ones, ⟨rfl, rfl, rfl⟩, falls_of_middle _ _ rfl, fun _ => ⟨rfl, ⟨_, rfl⟩, fun _ => ⟨_, rfl⟩⟩, fun h => nomatch h⟩,
    ⟨ones, ⟨rfl, rfl, rfl⟩, falls_of_middle _ _ rfl, fun h => (nomatch h), fun _ => ⟨⟨_, rfl⟩, fun _ => ⟨_, rfl⟩⟩⟩,
    ⟨ones, ⟨rfl, rfl, rfl⟩, falls_of_middle _ _ rfl, fun _ => ⟨rfl, ⟨_, rfl⟩, fun _ => ⟨_, rfl⟩⟩, fun h => nomatch h⟩,
    ⟨ones, ⟨rfl, rfl, rfl⟩, falls_of_middle _ _ rfl, fun h => (nomatch h), fun _ => ⟨⟨_, rfl⟩, fun _ => ⟨_, rfl⟩⟩⟩⟩

/-- The immediate forms: one source, in both classes; the operands are those of the one-source instructions above. -/
theorem witness_integer_immediate : ∀ i ∈ [Instr.addi, .muli, .andi, .ori, .xori, .shli, .shri, .sari],
    (i { fi (.s 3) (.s 1) 5 with h := uni }).wf = true ∧ (i { fi (.v 3) (.v 1) 5 with h := lanes }).wf = true := by decide

/-- SEL by a mask, MOVI, MOVHI, and compares in both classes. -/
theorem witness_MovesAndCompares :
    (Instr.sel (fa uni (.s 3) (.s 1) (.s 2) (.p 1) 0)).wf = true ∧ (Instr.sel (fa lanes (.v 3) (.v 1) (.v 2) (.p 1) 1)).wf = true ∧
    (∃ m, readVal tc (.p 1) = .ok m) ∧ Able uni (.s 3) [.s 1, .s 2] 64 (ts tc) tc ∧ Able lanes (.v 3) [.v 1, .v 2] 32 (ts tc) tc ∧
    Issues (ts tc) tc uni [.s 1, .s 2, .p 1] ones ∧ Issues (ts tc) tc lanes [.v 1, .v 2, .p 1] ones ∧ Fires (ts tc) tc uni [] ∧
    (∀ x, ∃ c', writeRf (ts tc) tc (tc.sloc 3 + 4) 4 (cellsAt (tc.sloc 3 + 4) (bytesOf 4 x)) = .ok c') ∧
    (Instr.cmp (fa uni (.p 1) (.s 1) (.s 2) .zero 0x70)).wf = true ∧ (Instr.cmp (fa lanes (.p 1) (.v 1) (.v 2) .zero 1)).wf = true ∧
    (Instr.cmpi (fi (.p 1) (.s 1) 0)).wf = true ∧ (∀ x, ∃ c', writeVal (ts tc) tc (.p 1) x = .ok c') ∧
    (∀ m, ∃ c', writeMask (ts tc) tc (.p 1) ones m = .ok c') :=
  ⟨rfl, rfl, ⟨_, rfl⟩, ⟨ones, ⟨rfl, rfl, rfl⟩, falls_of_middle _ _ rfl, fun _ => ⟨rfl, ⟨_, rfl⟩, fun _ => ⟨_, rfl⟩⟩, fun h => nomatch h⟩,
    ⟨ones, ⟨rfl, rfl, rfl⟩, falls_of_middle _ _ rfl, fun h => (nomatch h), fun _ => ⟨⟨_, rfl⟩, fun _ => ⟨_, rfl⟩⟩⟩, ⟨rfl, rfl, rfl⟩, ⟨rfl, rfl, rfl⟩,
    ⟨⟨ones, ⟨rfl, rfl, rfl⟩, rfl⟩, falls_of_middle _ _ rfl⟩, fun _ => ⟨_, rfl⟩, rfl, rfl, rfl, fun _ => ⟨_, rfl⟩, fun _ => ⟨_, rfl⟩⟩

/-- Masks and constants as sources, a p register and an s register as destination. -/
theorem witness_Predicates : (∃ x, readVal tc (.p 1) = .ok x) ∧ (∃ y, readVal tc (.const 255) = .ok y) ∧ Ready uni (.p 3) [.p 1, .const 255] (ts tc) tc ∧
    Ready uni (.p 3) [.p 1] (ts tc) tc ∧ Ready uni (.s 3) [.p 1] (ts tc) tc ∧ Ready uni (.p 3) [] (ts tc) tc ∧
    (∀ k, k < 64 → (0x7 : Word).getLsbD k = decide (k < (fw (.p 3) 3 0).imm.toNat)) ∧
    (∀ k, k < 64 → (0x500000005 : Word).getLsbD k = (fw (.p 3) 5 1).imm.getLsbD (k % 32)) :=
  ⟨⟨_, rfl⟩, ⟨_, rfl⟩, ⟨⟨⟨ones, ⟨rfl, rfl, rfl⟩, rfl⟩, falls_of_middle _ _ rfl⟩, fun _ => ⟨_, rfl⟩⟩,
    ⟨⟨⟨ones, ⟨rfl, rfl, rfl⟩, rfl⟩, falls_of_middle _ _ rfl⟩, fun _ => ⟨_, rfl⟩⟩, ⟨⟨⟨ones, ⟨rfl, rfl, rfl⟩, rfl⟩, falls_of_middle _ _ rfl⟩, fun _ => ⟨_, rfl⟩⟩,
    ⟨⟨⟨ones, ⟨rfl, rfl, rfl⟩, rfl⟩, falls_of_middle _ _ rfl⟩, fun _ => ⟨_, rfl⟩⟩, by decide, by decide⟩

/-- s1 holds 1 and s2 the address of the block's header. -/
def tc1 : Ctx := tr (((tc.rf).write (tc.sloc 1) [1]).write (tc.sloc 2) (bytesOf 8 fetchBase.toNat))

/-- A follower with a word of its leader, which went to the target given. -/
def tfol (t : Option Word) : Ctx :=
  { tc1 with follower := true, fwd := [{ word := 0, addr := 0, target := t, value := 0, entry := none, refused := false, due := 0 }] }

theorem witness_follower (t : Option Word) : readVal (tfol t) (.s 1) = .ok 1 := show readVal tc1 (.s 1) = .ok 1 by decide +kernel

/-- A supported target, a failed guard, a loop that goes on and one that ends, and a follower on both roads. -/
theorem witness_Transfers :
    Issues (ts tc1) tc1 uni [] ones ∧ tc1.forwarded = none ∧ (ts tc1).checkTarget tc1 (tc1.pc + (BitVec.ofInt 42 (-1)).signExtend 64 * 8) = .ok () ∧
    (∃ c', writeRf (ts tc1) tc1 (tc1.sloc 63) 8 (cellsAt (tc1.sloc 63) (bytesOf 8 (tc1.pc + 8).toNat)) = .ok c') ∧
    Issues (ts tc1) tc1 { uni with pred := 1 } [] 0 ∧ Falls (ts tc1) tc1 ∧
    Issues (ts tc1) tc1 uni [.s 2] ones ∧ readVal tc1 (.s 2) = .ok fetchBase ∧ (ts tc1).checkTarget tc1 fetchBase = .ok () ∧
    Issues (ts tc1) tc1 uni [.s 1] ones ∧ readVal tc1 (.s 1) = .ok 1 ∧ (∃ c', writeVal (ts tc1) tc1 (.s 1) (1 - 1) = .ok c') ∧
    Issues (ts tc1) tc1 uni [.s 3] ones ∧ readVal tc1 (.s 3) = .ok 0 ∧ (∃ c', writeVal (ts tc1) tc1 (.s 3) (0 - 1) = .ok c') ∧
    (∀ t, Issues (ts (tfol t)) (tfol t) uni [.s 1] ones ∧ (∃ f, (tfol t).forwarded = some f ∧ f.target = t) ∧ readVal (tfol t) (.s 1) = .ok 1 ∧
      (∃ c', writeVal (ts (tfol t)) (tfol t) (.s 1) (1 - 1) = .ok c') ∧ Falls (ts (tfol t)) (tfol t)) :=
  ⟨⟨rfl, rfl, rfl⟩, rfl, by decide +kernel, ⟨_, rfl⟩, ⟨rfl, rfl, by decide +kernel⟩, falls_of_middle _ _ rfl, ⟨rfl, rfl, rfl⟩, by decide +kernel,
    by decide +kernel, ⟨rfl, rfl, rfl⟩, by decide +kernel, ⟨_, rfl⟩, ⟨rfl, rfl, rfl⟩, by decide +kernel, ⟨_, rfl⟩,
    fun t => ⟨⟨rfl, rfl, rfl⟩, ⟨_, rfl, rfl⟩, witness_follower t, ⟨_, rfl⟩, falls_of_middle _ _ rfl⟩⟩

/-- A context at a header. -/
def thead : Ctx := { tc with pc := fetchBase, atHeader := true, blockEnd := 0 }

/-- A second context of the tile, which is ready. -/
def tboth : State := { ts tc with ctxs := [tc, { tc with key := { tile := 0, num := 1 }, rank := 1 }] }

/-- A header without a guard and one whose guard is 0 in every lane; a park; a YIELD with another context ready; a WFE with an event and at its limit. -/
theorem witness_BlocksAndIssueControl :
    (ts thead).ctx? (ts thead).sel.ctx = some thead ∧ thead.follower = false ∧ thead.atHeader = true ∧
    HeaderWord.wf { length := 0, guard := 0, reconv := 0, livein := 0, prefetch := 0, rsv := 0 } = true ∧
    HeaderWord.wf { length := 1, guard := 1, reconv := 2048, livein := 0, prefetch := 0, rsv := 0 } = true ∧
    (ts thead).predicatePending thead (thead.ploc 1) = false ∧ thead.rf.num (thead.ploc 1) 8 = 0 ∧ (ts thead).checkTarget thead fetchBase = .ok () ∧
    Fires (ts tc) tc uni [] ∧ parkGate (ts tc) tc = .ok () ∧ (ts tc).othersReady tc = false ∧ tboth.othersReady tc = true ∧ (∀ d, tc.wait ≠ .yield d) ∧
    Fires (ts { tc with evq := [{ kind := 1, src := 0, payload := 0 }] }) { tc with evq := [{ kind := 1, src := 0, payload := 0 }] } uni [.s 1] ∧
    (let w := fa uni (.s 3) (.s 1) .zero .zero 0
     let c := { tc with wait := .wfe w (some 0) }
     Fires (ts c) c uni [.s 1] ∧ c.evq = [] ∧ parkGate (ts c) c = .ok () ∧ ∃ c', writeVal (ts c) c w.dst 0 = .ok c') :=
  ⟨rfl, rfl, rfl, rfl, rfl, rfl, rfl, rfl, ⟨⟨ones, ⟨rfl, rfl, rfl⟩, rfl⟩, falls_of_middle _ _ rfl⟩, rfl, rfl, rfl, (fun _ h => nomatch h),
    ⟨⟨ones, ⟨rfl, rfl, rfl⟩, rfl⟩, falls_of_middle _ _ rfl⟩, ⟨⟨ones, ⟨rfl, rfl, rfl⟩, rfl⟩, falls_of_middle _ _ rfl⟩, rfl, rfl, _, rfl⟩

/-- Context registers in user mode, a package register in supervisor mode, and the fields of the context's registers. -/
theorem witness_ControlRegisters :
    (ts tc).mxOf tc = [] ∧ Ready uni (.s 3) [] (ts tc) tc ∧ Fires (ts tc) tc uni [.s 1] ∧ readVal tc (.s 1) = .ok 0 ∧
    csrPrivileged 0x001 = false ∧ (∃ t d, setCsr (ts tc) tc 0x001 0 0 true = .ok (t, d)) ∧ (∃ t d, setCsr (ts tc) tc 0x001 0 0 false = .ok (t, d)) ∧
    csrPrivileged 0x200 = true ∧ tsup.supervisor = true ∧ Fires (ts tsup) tsup uni [.s 1] ∧ (∃ t d, setCsr (ts tsup) tsup 0x200 0 0 true = .ok (t, d)) ∧
    (∀ n ∈ [0x000, 0x001, 0x005, 0x006, 0x007, 0x019], ∃ d, tc.setCsr n 0xFFFFFFFFFFFFFFFF 0xFFFFFFFFFFFFFFFF = .ok d) ∧
    (∃ d, tc.setCsr 0x002 0x4000040002000000 0 = .ok d) ∧ viewOk (BitVec.ofNat 64 0x5000000000000000) = false :=
  ⟨rfl, ⟨⟨⟨ones, ⟨rfl, rfl, rfl⟩, rfl⟩, falls_of_middle _ _ rfl⟩, fun _ => ⟨_, rfl⟩⟩, ⟨⟨ones, ⟨rfl, rfl, rfl⟩, rfl⟩, falls_of_middle _ _ rfl⟩, rfl, rfl,
    ⟨_, _, rfl⟩, ⟨_, _, rfl⟩, rfl, rfl, ⟨⟨ones, ⟨rfl, rfl, rfl⟩, rfl⟩, falls_of_middle _ _ rfl⟩, ⟨_, _, rfl⟩,
    (by intro n h
        simp only [List.mem_cons, List.not_mem_nil, or_false] at h
        rcases h with h | h | h | h | h | h <;> subst h <;> exact ⟨_, rfl⟩), ⟨_, rfl⟩, rfl⟩

/-- No flag that is enabled, and one that is; view bases that are allowed, and ones that are not. -/
theorem witness_FlagsViewsSlackAndClocks : let cf := { tc with flags := 4, flagen := 4 }
    (ts tc).mxOf tc = [] ∧ (ts cf).mxOf cf = [] ∧ Fires (ts tc) tc uni [.s 1] ∧ readVal tc (.s 1) = .ok 0 ∧ Fires (ts tc) tc uni [] ∧
    tc.flags &&& tc.flagen = 0 ∧ Fires (ts cf) cf uni [] ∧ cf.flags &&& cf.flagen ≠ 0 ∧ Ready uni (.s 3) [] (ts tc) tc ∧
    (∀ k, k < 64 → (0x4000040002000000 : Word).getLsbD k = if (0 : BitVec 27).getLsbD (k / 16) then (0 : Word).getLsbD k else tc.viewb.getLsbD k) ∧
    viewOk 0x4000040002000000 = true ∧ parkGate (ts tc) tc = .ok () ∧
    (∀ k, k < 64 → (0x4000040002000001 : Word).getLsbD k = if (1 : BitVec 27).getLsbD (k / 16) then (1 : Word).getLsbD k else tc.viewb.getLsbD k) ∧
    readVal tc (.const 1) = .ok 1 ∧ viewOk 0x4000040002000001 = false :=
  ⟨rfl, rfl, ⟨⟨ones, ⟨rfl, rfl, rfl⟩, rfl⟩, falls_of_middle _ _ rfl⟩, rfl, ⟨⟨ones, ⟨rfl, rfl, rfl⟩, rfl⟩, falls_of_middle _ _ rfl⟩, rfl,
    ⟨⟨ones, ⟨rfl, rfl, rfl⟩, rfl⟩, falls_of_middle _ _ rfl⟩, by decide, ⟨⟨⟨ones, ⟨rfl, rfl, rfl⟩, rfl⟩, falls_of_middle _ _ rfl⟩, fun _ => ⟨_, rfl⟩⟩,
    by decide, rfl, rfl, by decide, rfl, rfl⟩

/-- A saved place. -/
def tsaved : Saved := { pc := fetchBase, latch := .empty, blockEnd := 0, atHeader := true, next := none }

/-- TRAP with codes on both sides of 0x8000, ERET and ERETU with a saved place, and privileged instructions in user mode. -/
theorem witness_TrapsPrivilegeAndReturns : let cv := { tc with svec := fetchBase }
    let ce := { tsup with svSaved := some tsaved, svpc := fetchBase }
    let cu := { tr (Mem.write [] 0x8810 (bytesOf 8 fetchBase.toNat)) with uleActive := true, uleSaved := some tsaved }
    Fires (ts cv) cv uni [.s 1] ∧ readVal cv (.s 1) = .ok 0 ∧ cv.supervisor = false ∧ cv.svec ≠ 0 ∧ parkGate (ts cv) cv = .ok () ∧
    (0x7FFF < 0x8000 ∨ cv.supervisor = true) ∧ Fires (ts ce) ce uni [] ∧ parkGate (ts ce) ce = .ok () ∧ ce.follower = false ∧ tsaved.next = none ∧
    ce.svSaved = some tsaved ∧ ce.svpc = tsaved.pc ∧ Fires (ts cu) cu uni [] ∧ cu.uleSaved = some tsaved ∧ cu.rf.num (0x8800 + 16) 8 = tsaved.pc.toNat ∧
    tc.uleActive = false ∧ (ts tc).ctx? (ts tc).sel.ctx = some tc ∧ tc.supervisor = false ∧ csrPrivileged ((fi .zero (.s 1) 0x100).imm.toNat % 4096) = true :=
  ⟨⟨⟨ones, ⟨rfl, rfl, rfl⟩, rfl⟩, falls_of_middle _ _ rfl⟩, rfl, rfl, by decide, rfl, .inl (by decide), ⟨⟨ones, ⟨rfl, rfl, rfl⟩, rfl⟩, falls_of_middle _ _ rfl⟩,
    rfl, rfl, rfl, rfl, rfl, ⟨⟨ones, ⟨rfl, rfl, rfl⟩, rfl⟩, falls_of_middle _ _ rfl⟩, rfl, rfl, rfl, rfl, rfl, rfl⟩

/-- A level-1 domain of the task, and the context bound to it. -/
def tdom : Domain := { level := 1, unit := 0, id := 0, task := 1, tid := 1, members := 1 }
def tcb : Ctx := { tc with stepdom := 0x1000000 }
def tsd (c : Ctx) : State := { ts c with domains := [tdom] }

/-- STEPRD and ABORTRD; binding words that are bad, in use, free and with an arrival. -/
theorem witness_StepStateAndDomains : Ready uni (.s 3) [] (ts tc) tc ∧ tsup.supervisor = true ∧ Fires (tsd tsup) tsup uni [.s 1, .s 2] ∧
    Fires (tsd tsup) tsup uni [.s 1] ∧ (∃ b, readVal tsup (.s 1) = .ok b) ∧ (∃ b, readVal tsup (.s 2) = .ok b) ∧
    (∀ x, ∃ c', writeVal (tsd tsup) tsup (.s 3) x = .ok c') ∧ bindingBad (tsd tsup) 0 false = true ∧
    bindingBad (tsd tsup) 0x100000001 false = false ∧ bindingDomain (tsd tsup) 0x100000001 = some tdom ∧
    bindingBad (tsd tsup) 0x100000101 false = false ∧ bindingDomain (tsd tsup) 0x100000101 = none ∧ bindingBad (tsd tsup) 1 true = false ∧
    (tsd tsup).hasArrival tdom = false ∧ (tsd tsup).hasArrival { tdom with arrived := [{ rank := 0, op := 0, value := 0, code := 0 }] } = true :=
  ⟨⟨⟨⟨ones, ⟨rfl, rfl, rfl⟩, rfl⟩, falls_of_middle _ _ rfl⟩, fun _ => ⟨_, rfl⟩⟩, rfl, ⟨⟨ones, ⟨rfl, rfl, rfl⟩, rfl⟩, falls_of_middle _ _ rfl⟩,
    ⟨⟨ones, ⟨rfl, rfl, rfl⟩, rfl⟩, falls_of_middle _ _ rfl⟩, ⟨_, rfl⟩, ⟨_, rfl⟩, fun _ => ⟨_, rfl⟩, rfl, rfl, rfl, rfl, rfl, rfl, rfl, rfl⟩

/-- A step that may be arrived at, a completion to be taken, arrivals that are ILLEGAL, and a context that may leave. -/
theorem witness_ArrivingWaitingAndLeaving :
    let r : StepResult := { value := 0, flags := 0, counters := [1, 0, 0, 0, 0], report := [0, 0, 0] }
    let got := fun (y : Bool) => { tcb with arrival := some { level := 1, sent := none, sync := y, done := some r } }
    Fires (tsd tcb) tcb uni [.v 0, .v 0] ∧ tcb.arrival = none ∧ tcb.bound 1 = true ∧ (∃ x, arrivalOf tcb (fx (.s 3) .zero .zero 1) = .ok x) ∧
    arriveGate (tsd tcb) tcb 1 = .ok () ∧ (∃ c', writeVal (tsd tcb) tcb (.s 3) 0 = .ok c') ∧ noResult .zero = true ∧ noResult (.s 3) = false ∧
    (∀ y, Fires (tsd (got y)) (got y) uni [.v 0, .v 0] ∧ Fires (tsd (got y)) (got y) uni [] ∧ parkGate (tsd (got y)) (got y) = .ok () ∧
      ∀ c1 : Ctx, c1 = ({ got y with snapshot := r.counters, report := r.report, arrival := none, frozen := none }.orFlags r.flags) →
        ∃ d, writeVal (tsd (got y)) c1 (.s 3) r.value = .ok d) ∧
    Fires (ts tc) tc uni [.v 0, .v 0] ∧ tc.bound 1 = false ∧ Fires (ts tc) tc uni [] ∧ parkGate (ts tc) tc = .ok () ∧ workGate (ts tc) tc .all = .ok () ∧
    (ts tc).workPlaced tc = true ∧ tc.arrival = none :=
  ⟨⟨⟨ones, ⟨rfl, rfl, rfl⟩, rfl⟩, falls_of_middle _ _ rfl⟩, rfl, rfl, ⟨_, rfl⟩, rfl, ⟨_, rfl⟩, rfl, rfl,
    fun _ => ⟨⟨⟨ones, ⟨rfl, rfl, rfl⟩, rfl⟩, falls_of_middle _ _ rfl⟩, ⟨⟨ones, ⟨rfl, rfl, rfl⟩, rfl⟩, falls_of_middle _ _ rfl⟩, rfl,
      fun _ h => h ▸ ⟨_, rfl⟩⟩, ⟨⟨ones, ⟨rfl, rfl, rfl⟩, rfl⟩, falls_of_middle _ _ rfl⟩, rfl, ⟨⟨ones, ⟨rfl, rfl, rfl⟩, rfl⟩, falls_of_middle _ _ rfl⟩,
    rfl, rfl, rfl, rfl⟩

theorem ok_of {ε α : Type} (e : Except ε α) (h : e.isOk = true) : ∃ x, e = .ok x := by
  cases e with
  | ok x => exact ⟨x, rfl⟩
  | error _ => exact Bool.noConfusion h

/-- s2 holds an address. -/
def tra (a : Nat) : Ctx := tr (Mem.write [] (tc.sloc 2) (bytesOf 8 a))

theorem fires_tra (a : Nat) (ops : List Operand) (h : latchReady (ts (tra a)) (tra a) false ops = .ok ()) : Fires (ts (tra a)) (tra a) uni ops :=
  ⟨⟨ones, ⟨rfl, h, rfl⟩, rfl⟩, falls_of_middle _ _ rfl⟩

/-- Local memory holds a template at 0: two elements of four bytes, from 0x200 to 0x300. -/
def tcopy (c : Ctx) : State :=
  { ts c with mem := Mem.write [] (localKey 0 0) (bytesOf 256 (0x200 + 0x300 * 2 ^ 64 + 4 * 2 ^ 208 + 2 ^ 216 + (2 + 4 * 2 ^ 32 + 4 * 2 ^ 80) * 2 ^ 512)) }

/-- Loads and stores at the last bytes of local memory, in the window, of the status range and of the aperture; and with no staging entry free. -/
theorem witness_PrivateScalarAccesses :
    (∀ n ∈ [0xFFFF8, 0x107FF8, 0x210FF8, 0x20F000], (readVal (tra n) (.s 2) == .ok (BitVec.ofNat 64 n)) = true ∧ n % 8 = 0 ∧
      windowPending (tra n) (BitVec.ofNat 64 n) 8 = false ∧ meetsAny ((ts (tra n)).readPending (tra n)) (n - 0x100000) 8 = false) ∧
    (∀ n, Fires (ts (tra n)) (tra n) uni [.s 2] ∧ Fires (ts (tra n)) (tra n) uni [.s 1, .s 2] ∧ ∀ x, ∃ c', writeVal (ts (tra n)) (tra n) (.s 3) x = .ok c') ∧
    (ts (tra 0xFFFF8)).heldBack (tra 0xFFFF8) { virt := false, lo := localKey 0 0xFFFF8, len := 8 } false = false ∧
    (ts (tra 0xFFFF8)).heldBack (tra 0xFFFF8) { virt := false, lo := localKey 0 0xFFFF8, len := 8 } true = false ∧
    ((ts (tra 0xFFFF8)).placePlain ((ts (tra 0xFFFF8)).writer (tra 0xFFFF8) false) (localKey 0 0xFFFF8) 0xFFFF8 (bytesOf 8 7)).isSome = true ∧
    (apertureStore (tcopy (tra 0x20F000)) (tra 0x20F000) 0x20F000 0).isOk = true :=
  ⟨by decide +kernel, fun n => ⟨fires_tra n _ rfl, fires_tra n _ rfl, fun _ => ⟨_, rfl⟩⟩, by decide +kernel, by decide +kernel, by decide +kernel,
    by decide +kernel⟩

/-- Addresses in a hole, misaligned, in the aperture and in the status range; one at either edge of each. -/
theorem witness_PrivateAccessFaults :
    (∀ n ∈ [0x108000, 0x1FFFFF, 0x211000, 0xFFFF9, 0x107FFC, 0x200000, 0x20FFF8, 0x210000, 0x210FF8],
      (readVal (tra n) (.s 2) == .ok (BitVec.ofNat 64 n)) = true ∧ windowPending (tra n) (BitVec.ofNat 64 n) 8 = false ∧
      meetsAny ((ts (tra n)).readPending (tra n)) (n - 0x100000) 8 = false) ∧
    (∀ n, Fires (ts (tra n)) (tra n) uni [.s 2] ∧ Fires (ts (tra n)) (tra n) uni [.s 1, .s 2]) ∧ (∀ n, ∃ x, readVal (tra n) (.s 1) = .ok x) :=
  ⟨by decide +kernel, fun n => ⟨fires_tra n _ rfl, fires_tra n _ rfl⟩, fun _ => ok_of _ rfl⟩

/-- A contiguous, a strided and an indexed vector load of every lane; base plus 4 i is in local memory, as is every element. -/
theorem witness_VectorLoads : Issues (ts tc) tc lanes [.s 2] ones ∧ Issues (ts tc) tc lanes [.o 2] ones ∧ Falls (ts tc) tc ∧ readVal tc (.s 2) = .ok 0 ∧
    (∀ i, i < 64 → 4 * i < 0x100000 ∧ (ts tc).heldBack tc { virt := false, lo := localKey 0 (4 * i), len := 4 } false = false) ∧
    (∀ n ∈ [8, 16, 32], ∀ xs, ∃ c', writeElems (ts tc) tc (.v 3) n ones xs = .ok c') ∧ (∃ idx, readIndices tc (.o 2) = .ok idx) ∧
    (let es := (List.range 64).map fun p => ({ pos := p, addr := 4 * BitVec.ofNat 64 p, len := 4 } : Elem)
     windowHazard (ts tc) tc es false = .ok () ∧ checkElems es false = .ok () ∧
       ∀ e ∈ es, loadElem (ts tc) tc e.addr 4 = .ok (List.replicate 4 0)) :=
  ⟨⟨rfl, rfl, rfl⟩, ⟨rfl, rfl, rfl⟩, falls_of_middle _ _ rfl, rfl, by decide +kernel,
    (by intro n h
        simp only [List.mem_cons, List.not_mem_nil, or_false] at h
        rcases h with h | h | h <;> subst h <;> exact fun _ => ⟨_, rfl⟩), ⟨_, rfl⟩, by decide +kernel⟩

/-- The elements of a vector store of every lane from an address on. -/
def tstores (a : Nat) : List (Word × List Byte) := (List.range 64).map fun i => (BitVec.ofNat 64 (a + 4 * i), bytesOf 4 1)

/-- The vector stores of every lane: to the last bytes of local memory, and to the window. -/
theorem witness_VectorStores : (∀ a ∈ [0xFFF00, 0x100000, 0x107F00], ∀ e ∈ tstores a, Takes (ts tc) tc e.1 e.2.length) ∧
    (ts tc).stageUsed + 256 ≤ (ts tc).poolCap 4 ∧ (ts tc).mem.wf = true ∧ tc.frozen = none ∧ (ts tc).staged = [] := by
  unfold Takes
  decide +kernel

theorem witness_VectorStores_operands : (∀ a : Nat, let c := tra a
      Issues (ts c) c lanes [.v 1, .s 2] ones ∧ Issues (ts c) c lanes [.v 1, .o 2] ones ∧ Falls (ts c) c ∧ ∃ xs, readElems c 32 (.v 1) = .ok xs) ∧
    (∀ a ∈ [0xFFF00, 0x100000, 0x107F00], (readVal (tra a) (.s 2) == .ok (BitVec.ofNat 64 a)) = true) ∧ (∃ idx, readIndices tc (.o 2) = .ok idx) :=
  ⟨fun _ => ⟨⟨rfl, rfl, rfl⟩, ⟨rfl, rfl, rfl⟩, falls_of_middle _ _ rfl, ⟨_, rfl⟩⟩, by decide +kernel, ⟨_, rfl⟩⟩

/-- A store that is placed at the top of local memory. -/
theorem witness_StoredBytesReadBack : (ts tc).mem.wf = true ∧ tc.frozen = none ∧ (ts tc).staged = [] ∧
    ((ts tc).placePlain ((ts tc).writer tc false) (localKey 0 0xFFFF8) 0xFFFF8 (bytesOf 8 7)).isSome = true := by decide +kernel

/-- s2 holds the address of group memory, or that of a virtual page of HBM whose entry a walk has found. -/
def tgroup : Nat := 0x0300000000000000
def tvpage : Nat := 2 ^ 63
def tleaf : Leaf := { va := 0, size := 65536, at_ := 0x1000, bits := 0x18C }
def tvirt (c : Ctx) : State :=
  { ts c with regs := { State.reset.regs with ptroot := 1 },
              xlat := { State.reset.xlat with answers := [{ who := .ctx c.key, page := 0, found := .leaf tleaf }] } }

/-- The stretch of n bytes there. -/
def tgpiece (n : Nat) : Piece := { key := 2 ^ 42, addr := BitVec.ofNat 64 tgroup, len := n, leaf := none }
def tvpiece (n : Nat) : Piece := { key := 0, addr := BitVec.ofNat 64 tvpage, len := n, leaf := some tleaf }

theorem reach_group (n : Nat) (w : Bool) (h : n ∈ [1, 2, 4, 8, 256]) (k : Nat) (hk : k ∈ [1, 2, 4, 8]) (slack : Nat) :
    Reach (ts (tra tgroup)) (tra tgroup) (BitVec.ofNat 64 tgroup) n k w slack [tgpiece n] := by
  have ha : (BitVec.ofNat 64 tgroup).toNat % k = 0 := by
    simp only [List.mem_cons, List.not_mem_nil, or_false] at hk
    rcases hk with rfl | rfl | rfl | rfl <;> decide
  refine ⟨ha, .inl ⟨by decide, .group 0 0, .group 0 0, by decide, fun _ e => (nomatch e), ?_, rfl, by decide +kernel, rfl⟩⟩
  simp only [List.mem_cons, List.not_mem_nil, or_false] at h
  rcases h with rfl | rfl | rfl | rfl | rfl <;> decide

theorem reach_page (n : Nat) (w : Bool) (h : n ∈ [1, 2, 4, 8, 256]) (slack : Nat) :
    Reach (tvirt (tra tvpage)) (tra tvpage) (BitVec.ofNat 64 tvpage) n 1 w slack [tvpiece n] := by
  refine ⟨by decide, .inr ⟨by decide, by decide, ?_, by decide, by simp, ?_, ⟨tleaf, ⟨rfl, by decide, .inr rfl, by decide, fun _ => by decide, rfl⟩, ?_⟩, Nat.sub_self n⟩⟩
  all_goals
    simp only [List.mem_cons, List.not_mem_nil, or_false] at h
    rcases h with rfl | rfl | rfl | rfl | rfl <;> decide

/-- Exchange loads of one value and of a vector, with every lane and with none, from group memory and from the page. -/
theorem witness_ExchangeLoads : (∀ a : Nat, let c := tra a
      Fires (ts c) c uni [.s 2] ∧ Issues (ts c) c lanes [.s 2] ones ∧ Falls (ts c) c ∧
      Fires (tvirt c) c uni [.s 2] ∧ Issues (tvirt c) c lanes [.s 2] ones ∧ Falls (tvirt c) c) ∧
    Issues (ts (tra tgroup)) (tra tgroup) { lanes with pred := 1 } [.s 2] 0 ∧
    (∀ a ∈ [tgroup, tvpage], (readVal (tra a) (.s 2) == .ok (BitVec.ofNat 64 a)) = true) ∧
    (∀ n ∈ [1, 2, 4, 8, 256], (ts (tra tgroup)).heldBack (tra tgroup) (spanAt 0 ((ts (tra tgroup)).fromHome (tra tgroup) (BitVec.ofNat 64 tgroup)) n) false = false ∧
      (tvirt (tra tvpage)).heldBack (tra tvpage) (spanAt 0 ((tvirt (tra tvpage)).fromHome (tra tvpage) (BitVec.ofNat 64 tvpage)) n) false = false) ∧
    (∀ c : Ctx, c.loc (.s 3) = some (c.sloc 3) ∧ c.loc (.v 3) = some (c.vloc 3)) ∧
    (∀ a, Free (ts (tra a)) (tra a) ((tra a).sloc 3) 8 ∧ Free (ts (tra a)) (tra a) ((tra a).vloc 3) 256 ∧ (tra a).repliesFull = false) ∧
    LaneSpan ones 0 63 ∧ (keysOf [tgpiece 256]).Nodup ∧ (tgpiece 8).peer = none ∧ (tvpiece 8).peer = none :=
  ⟨fun _ => ⟨⟨⟨ones, ⟨rfl, rfl, rfl⟩, rfl⟩, falls_of_middle _ _ rfl⟩, ⟨rfl, rfl, rfl⟩, falls_of_middle _ _ rfl,
      ⟨⟨ones, ⟨rfl, rfl, rfl⟩, rfl⟩, falls_of_middle _ _ rfl⟩, ⟨rfl, rfl, rfl⟩, falls_of_middle _ _ rfl⟩, ⟨rfl, rfl, by decide +kernel⟩,
    by decide +kernel, by decide +kernel, fun _ => ⟨rfl, rfl⟩, fun _ => ⟨⟨rfl, rfl⟩, ⟨rfl, rfl⟩, rfl⟩,
    ⟨by decide, by decide, fun i h => ⟨Nat.zero_le _, by by_contra hi; simp [BitVec.getLsbD_of_ge ones i (by omega)] at h⟩⟩, by decide +kernel, by decide, by decide⟩

/-- Exchange stores and reduce-writes of one value and of vectors; constants of a float and of an integer kind. -/
theorem witness_ExchangeStores : (∀ a : Nat, let c := tra a
      Fires (ts c) c uni [.s 1, .s 2] ∧ Issues (ts c) c lanes [.v 1, .s 2] ones ∧
      (∃ x, storeVal c none (.s 1) = .ok x) ∧ (∃ x, storeVal c (some 0x0F) (.s 1) = .ok x) ∧ (∃ xs, storeElemsOf c none 32 (.v 1) = .ok xs) ∧
      ∃ xs, storeElemsOf c (some 0x0E) 16 (.v 1) = .ok xs) ∧
    Issues (ts (tra tgroup)) (tra tgroup) { lanes with pred := 1 } [.v 1, .s 2] 0 ∧
    (∀ n ∈ [1, 2, 4, 8, 256],
      (ts (tra tgroup)).heldBack (tra tgroup) (spanAt 0 ((ts (tra tgroup)).fromHome (tra tgroup) (BitVec.ofNat 64 tgroup)) n) true = false) ∧
    (∀ j, j < 256 → (ts tc).isRecordByte (2 ^ 42 + j) = false ∧ isPlate (2 ^ 42 + j) = false) ∧
    (∀ m ∈ [0x02, 0x0E], (Instr.xredv { fm lanes (.v 1) (.s 2) 0 with mod := m }).wf = true) ∧
    (storeVal tc (some 0x0F) (.const 1)).isOk = true ∧ (storeVal tc (some 2) (.const 255)).isOk = true :=
  ⟨fun _ => ⟨⟨⟨ones, ⟨rfl, rfl, rfl⟩, rfl⟩, falls_of_middle _ _ rfl⟩, ⟨rfl, rfl, rfl⟩, ok_of _ rfl, ok_of _ rfl, ⟨_, rfl⟩,
      ⟨_, rfl⟩⟩, ⟨rfl, rfl, by decide +kernel⟩, by decide +kernel, by decide +kernel, by decide, by decide +kernel, by decide +kernel⟩


/-- Staged writes of another task, each in an entry of its own, and a state in which they fill a group's and a die's pool and the package pool has no page. -/
def tstg (pool i : Nat) : Staged :=
  { key := 64 * i, bytes := [0], kind := none, party := { task := 9, rank := 0 }, tile := 0, vis := 0, steps := [], addr := 0, seq := 0, pool := pool, top := 5 }
def tcrowd (c : Ctx) : State :=
  { ts c with tasks := [{ placedTask with blk := { placedTask.blk with w := 2 } }], regs := { State.reset.regs with stagesize := 0 },
              staged := (List.range 16384).map (tstg 2) ++ (List.range 524288).map (tstg 3) }

theorem tcrowd_used (c : Ctx) (p : Nat) (h : p = 2 ∨ p = 3) : (tcrowd c).poolUsed p (poolUnit p 0) = (tcrowd c).poolCap p := by
  have none (q n : Nat) (h : q ≠ p) : ((List.range n).map (tstg q)).filter (fun e => e.pool == p && poolUnit p e.tile == poolUnit p 0) = [] := by
    rw [List.filter_map, List.filter_eq_nil_iff.2 fun _ _ => by simp [tstg, h]]; rfl
  have all (n : Nat) : ((List.range n).map (tstg p)).filter (fun e => e.pool == p && poolUnit p e.tile == poolUnit p 0) = (List.range n).map (tstg p) := by
    rw [List.filter_map, List.filter_eq_self.2 fun _ _ => by simp [tstg]]
  have apart (n : Nat) : (((List.range n).map (tstg p)).map fun e => e.entryKey p).dedup.length = n := by
    have nd : (((List.range n).map (tstg p)).map fun e => e.entryKey p).Nodup := by
      rw [List.map_map]
      refine List.Nodup.map (fun a b e => ?_) List.nodup_range
      have := congrArg Prod.fst e
      rcases h with h | h <;> simpa [tstg, Staged.entryKey, h] using this
    rw [nd.dedup, List.length_map, List.length_map, List.length_range]
  unfold State.poolUsed
  rw [show (tcrowd c).staged = (List.range 16384).map (tstg 2) ++ (List.range 524288).map (tstg 3) from rfl, List.filter_append]
  rcases h with h | h <;> subst h
  · rw [all, none 3 _ (by decide), List.append_nil, apart]; rfl
  · rw [all, none 2 _ (by decide), List.nil_append, apart]; rfl

theorem tcrowd_no (c : Ctx) (p : Nat) (e : Staged) (ht : e.party.task = 1) :
    ((tcrowd c).staged.any fun f => f.pool == p && poolUnit p f.tile == poolUnit p 0 && f.entryKey p == e.entryKey p) = false := by
  rw [List.any_eq_false]
  intro f hf
  have h9 : f.party.task = 9 := by
    rw [show (tcrowd c).staged = (List.range 16384).map (tstg 2) ++ (List.range 524288).map (tstg 3) from rfl, List.mem_append, List.mem_map,
      List.mem_map] at hf
    obtain ⟨_, -, rfl⟩ | ⟨_, -, rfl⟩ := hf <;> rfl
  simp only [Staged.entryKey, Bool.and_eq_true, beq_iff_eq, not_and, h9, ht]
  intro _ h
  have := congrArg (fun x => x.2.2.1) h
  revert this
  split <;> simp

theorem tcrowd_full (c : Ctx) (e : Staged) (ht : e.party.task = 1) (hn : e.tile = 0) : (tcrowd c).findPool e 2 = 0 := by
  have pool (p : Nat) (h : p = 2 ∨ p = 3) : (tcrowd c).poolTakes p e = false := by
    have ne4 : p ≠ 4 := by omega
    simp only [State.poolTakes, hn, tcrowd_no c p e ht, tcrowd_used c p h, if_neg ne4, Nat.lt_irrefl, decide_false, Bool.or_self]
  have page : (tcrowd c).poolTakes 4 e = false := by
    simp only [State.poolTakes, hn, tcrowd_no c 4 e ht, if_pos, Bool.false_or, decide_eq_false_iff_not]
    have cap : (tcrowd c).poolCap 4 = 0 := by
      show min (0 * 16384) _ = 0
      rw [Nat.zero_mul, Nat.zero_min]
    rw [cap]
    exact Nat.not_lt_zero _
  simp [State.findPool, pool, page]

theorem witness_PrivateScalarAccesses_staging_full : let c := tra 0xFFFF8
    Fires (tcrowd c) c uni [.s 1, .s 2] ∧ (tcrowd c).heldBack c { virt := false, lo := localKey 0 0xFFFF8, len := 8 } true = false ∧
    (tcrowd c).placePlain ((tcrowd c).writer c false) (localKey 0 0xFFFF8) 0xFFFF8 (bytesOf 8 7) = none := by
  refine ⟨⟨⟨ones, ⟨rfl, rfl, rfl⟩, rfl⟩, falls_of_middle _ _ rfl⟩, rfl, ?_⟩
  unfold State.placePlain
  rw [show (tcrowd (tra 0xFFFF8)).plainPieces (localKey 0 0xFFFF8) (bytesOf 8 7) = [(localKey 0 0xFFFF8, bytesOf 8 7)] from rfl,
    show (tcrowd (tra 0xFFFF8)).writeRecords (localKey 0 0xFFFF8) (bytesOf 8 7) = tcrowd (tra 0xFFFF8) from rfl]
  simp only [List.foldlM_cons, List.foldlM_nil]
  rw [if_pos ?_]
  · rfl
  · unfold State.stagingFull
    rw [show (tcrowd (tra 0xFFFF8)).chargeLevel _ = 2 from rfl]
    show (2 != 9 && _ == 0) = true
    rw [tcrowd_full _ _ rfl rfl]
    rfl

/-! ### The spec's worked examples of single instructions -/

/-- A context with s1, s2 and s3, lanes of v2 and v3 the same, and what an instruction leaves in its destination s1 or p1 and in FLAGS. -/
def tabc (s1 s2 s3 : Nat) : Ctx :=
  tr (((((Mem.write [] (tc.sloc 1) (bytesOf 8 s1)).write (tc.sloc 2) (bytesOf 8 s2)).write (tc.sloc 3) (bytesOf 8 s3)).write (tc.vloc 2) (bytesOf 8 s2)).write
    (tc.vloc 3) (bytesOf 8 s3))
def tafter (i : Instr) (s1 s2 s3 : Nat) (out : Operand) (n : Nat) : Nat × Nat :=
  let c := tabc s1 s2 s3
  if i.wf then
    match exec i (ts c) with
    | .next t => match t.ctx? c.key with
      | some d => (d.rf.num ((d.loc out).getD 0) n, d.flags.toNat)
      | none => (0, 2 ^ 63)
    | _ => (0, 2 ^ 62)
  else (0, 2 ^ 61)

def t3 (mod : BitVec 7) : FormA := fa uni (.s 1) (.s 2) (.s 3) .zero mod
def t2 (mod : BitVec 7) : FormA := fa uni (.s 1) (.s 2) .zero .zero mod

/-- The table of borderline integer results (R150 to R166): IOV 0x100, SAT 0x20, DZ 2. -/
theorem test_integer_examples :
    (tafter (.add (t3 1)) 0 0x7FFFFFFF 1 (.s 1) 8 == (0xFFFFFFFF80000000, 0x100) && tafter (.add (t3 0x41)) 0 0x7FFFFFFF 1 (.s 1) 8 == (0x7FFFFFFF, 0x20) &&
    tafter (.add (t3 0x61)) 0 0xFFFFFFFF 1 (.s 1) 8 == (0xFFFFFFFF, 0x20) && tafter (.div (t3 0)) 0 7 0 (.s 1) 8 == (2 ^ 64 - 1, 2) &&
    tafter (.remu (t3 0)) 0 7 0 (.s 1) 8 == (7, 2) && tafter (.div (t3 0)) 0 (2 ^ 63) (2 ^ 64 - 1) (.s 1) 8 == (2 ^ 63, 0x100) &&
    tafter (.rem (t3 0)) 0 (2 ^ 64 - 7) 2 (.s 1) 8 == (2 ^ 64 - 1, 0) && tafter (.shl (t3 0)) 0 1 65 (.s 1) 8 == (2, 0) &&
    tafter (.sar { t3 1 with b := .const 31 }) 0 0x80000000 0 (.s 1) 8 == (2 ^ 64 - 1, 0) &&
    tafter (.mulhu (t3 0)) 0 (2 ^ 64 - 1) (2 ^ 64 - 1) (.s 1) 8 == (2 ^ 64 - 2, 0) &&
    tafter (.mul (fa lanes (.v 1) (.v 2) (.v 3) .zero 2)) 0 300 300 (.v 1) 2 == (0x5F90, 0x100) &&
    tafter (.abs (fa lanes (.v 1) (.v 2) .zero .zero 3)) 0 0x80 0 (.v 1) 1 == (0x80, 0x100) &&
    tafter (.abs (fa lanes (.v 1) (.v 2) .zero .zero 0x43)) 0 0x80 0 (.v 1) 1 == (0x7F, 0x20) && tafter (.clz (t2 0)) 0 0 0 (.s 1) 8 == (64, 0) &&
    tafter (.bfx { t3 0 with b := .const 4, c := .const 8 }) 0 0xABCD 0 (.s 1) 8 == (0xFFFFFFFFFFFFFFBC, 0) &&
    tafter (.bfxu { t3 0 with b := .const 4, c := .const 8 }) 0 0xABCD 0 (.s 1) 8 == (0xBC, 0) &&
    tafter (.bfi { t3 0 with b := .const 4, c := .const 8 }) 0xFFFF 0 0 (.s 1) 8 == (0xF00F, 0) &&
    tafter (.lea { t3 0x30 with c := .const 16 }) 0 0x1000 3 (.s 1) 8 == (0x1028, 0)) = true := by decide +kernel

/-- The table of borderline float results (R50, R59, R64, R67, R168 to R179): NV 1, DZ 2, OF 4, UF 8, NX 0x10, SAT 0x20. -/
theorem test_float_arithmetic_examples :
    (tafter (.fadd (t3 4)) 0 0x3F800000 0x33800000 (.s 1) 8 == (0x3F800000, 0x10) && tafter (.fadd (t3 0x24)) 0 0x3F800000 0x33800000 (.s 1) 8 == (0x3F800001, 0x10) &&
    tafter (.fma (fa uni (.s 1) (.s 2) (.s 2) (.s 3) 4)) 0 0x3F800001 0xBF800002 (.s 1) 8 == (0x28800000, 0) &&
    tafter (.fmul (fa uni (.s 1) (.s 2) (.s 2) .zero 4)) 0 0x3F800001 0 (.s 1) 8 == (0x3F800002, 0x10) &&
    tafter (.fnma (fa uni (.s 1) (.const 1) (.const 1) (.const 1) 4)) 0 0 0 (.s 1) 8 == (0, 0) &&
    tafter (.fnma (fa uni (.s 1) (.const 1) (.const 1) (.const 1) 0x34)) 0 0 0 (.s 1) 8 == (0x80000000, 0) &&
    tafter (.fdiv (fa uni (.s 1) (.const 1) (.s 3) .zero 4)) 0 0 0 (.s 1) 8 == (0x7F800000, 2) &&
    tafter (.fdiv (fa uni (.s 1) (.const 0) (.const 0) .zero 4)) 0 0 0 (.s 1) 8 == (0x7FC00000, 1) &&
    tafter (.frsq (t2 4)) 0 0x80000000 0 (.s 1) 8 == (0xFF800000, 2) && tafter (.flog2 { t2 4 with a := .const 255 }) 0 0 0 (.s 1) 8 == (0x7FC00000, 1) &&
    tafter (.fexp2 (t2 4)) 0 0xC3160000 0 (.s 1) 8 == (0, 0x18) && tafter (.fmin (t3 4)) 0 0x80000000 0 (.s 1) 8 == (0x80000000, 0) &&
    tafter (.fclass (t2 4)) 0 1 0 (.s 1) 8 == (0x20, 0)) = true := by decide +kernel

theorem test_float_conversion_examples :
    (tafter (.fcvti (t2 0)) 0 0xC0200000 0 (.s 1) 8 == (2 ^ 64 - 2, 0x10) && tafter (.fcvti (t2 0)) 0 0x4F000000 0 (.s 1) 8 == (0x7FFFFFFF, 1) &&
    tafter (.fpack (t2 8)) 0 0x43FA0000 0 (.s 1) 8 == (0x7E, 0x34) && tafter (.fpack (t2 9)) 0 0x43FA0000 0 (.s 1) 8 == (0x7F, 0x15) &&
    tafter (.fpack (t2 4)) 0 0x3F808000 0 (.s 1) 8 == (0x3F80, 0x10) && tafter (.icvtf (t2 9)) 0 65535 0 (.s 1) 8 == (0x7C00, 0x14) &&
    tafter (.fcmp (fa uni (.p 1) (.s 2) (.s 3) .zero 0x24)) 0 0x7FC00000 0 (.p 1) 8 == (0, 0) &&
    tafter (.fcmp (fa uni (.p 1) (.s 2) (.s 3) .zero 0x14)) 0 0x7FC00000 0 (.p 1) 8 == (2 ^ 64 - 1, 0)) = true := by decide +kernel

/-- The worked examples of the formats: the E2M1/16 block of 6, 2.5 and zeros (R55), the places of element 5,000 of an SP8/32 page (R57, R58), the transform
of 2^24 and 1 (R69), the rank tree of four and of three terms (R70). -/
theorem test_format_examples :
    quantBlock true (fun _ => rne) (0x40C00000 :: 0x40200000 :: List.replicate 14 0) =
      { codes := 7 :: 8 :: List.replicate 14 0, scale := 0x7F, spare := 0x42, flags := 0x10 } ∧
    5000 % 2048 = 904 ∧ groupOffset true 12 32 5000 = 6400 ∧ 6400 + (groupPlace 12 32 904).1 = 0x1C88 ∧ 6400 + (groupPlace 12 32 904).2.1 = 0x22C4 ∧
    6400 + (groupPlace 12 32 904).2.2.1 = 0x251C ∧ 6400 + (groupPlace 12 32 904).2.2.2 = 0x255C ∧
    (hadamard 2 (0x4B800000 :: 0x3F800000 :: List.replicate 14 0)).1 = (List.replicate 8 [0x4A800000, 0x4A7FFFFF]).flatten ∧
    (rankTree [some 0x3F800000, some 0x4B800000, some 0x3F800000, some 0xCB800000]).1 = 0x3F800000 ∧
    (rankTree [some 0x3F800000, some 0x4B800000, some 0x3F800000, none]).1 = 0x4B800000 := by decide +kernel

/-- The worked example of tile (21, 14) (R14 to R18): its number, die and group. -/
theorem test_tile_example : tileX 469 = 21 ∧ tileY 469 = 14 ∧ dieOfTile 469 = 3 ∧ groupOfTile 469 = 29 := by decide

/-- SHA3-256 of the three bytes "abc", as FIPS 202 has it; the spec names the function (R403). -/
theorem test_sha3 : (sha3 [0x61, 0x62, 0x63]).map (fun b => b.toNat) = [58, 152, 93, 167, 79, 226, 37, 178, 4, 92, 23, 45, 107, 211, 144, 189, 133, 95, 8, 110,
    62, 157, 82, 91, 70, 191, 226, 69, 17, 67, 21, 50] := by decide +kernel

/-- The worked example of a perturbed weight (R56, R312, R313): σ of code 14 with λ base 0xFE, and ε of member 1, stream 1, index 0, key 0. -/
theorem test_stipple_example : stippleSigma 14 0xFE = (0x3E800000, 0) ∧ stippleEps 1 1 0 0 = 0x3E892C33 := by decide +kernel

/-- A tile with an active copy of the context on channel 3, and a record at 0 that has turned its phase and carries. -/
def tbusy : State :=
  { ts tc with tiles := [{ num := 0, channels := [{ num := 3, state := .active, owner := 0, task := 1, rank := 0, copy := some (templateOf (2 ^ 216)) }] }] }
def tcarry : State := { ts tc with mem := Mem.write [] (localKey 0 0) (bytesOf 16 ({ (BcRecord.ofNum 0) with phase := true, carried := true } : BcRecord).num) }

/-- A copy that starts by either instruction and with either address replaced; a free channel, and an active one. -/
theorem witness_CopiesAndChannels : let c := tra 0x20F000
    Fires (tcopy c) c uni [.s 1, .s 2] ∧ (∃ x, readVal c (.s 1) = .ok x) ∧ (readVal c (.s 2) == .ok 0x20F000) = true ∧
    (startCopy (tcopy c) c 15 0 none none).isOk = true ∧ (startCopy (tcopy c) c 15 0x80 (some 0x400) (some 0x500)).isOk = true ∧
    Fires (tcopy c) c uni [.const 0] ∧ Fires (tcopy c) c uni [.const 0, .s 3, .s 4] ∧ (∃ v, readVal c (.s 3) = .ok v) ∧
    Fires (ts tc) tc uni [.const 3] ∧ Fires (ts tc) tc uni [.const 3, .s 1] ∧ namedChannel (ts tc) tc (.const 3) true = .ok 3 ∧
    namedChannel (ts tc) tc (.const 3) false = .ok 3 ∧ workGate (ts tc) tc (.channel 3) = .ok () ∧ parkGate (ts tc) tc = .ok () ∧
    ((ts tc).channelFor tc 3).isFree = true ∧ (∃ x, readVal tc (.s 1) = .ok x) ∧ (∀ x, ∃ c', writeVal (ts tc) tc (.s 5) x = .ok c') ∧
    Fires tbusy tc uni [.const 3] ∧ namedChannel tbusy tc (.const 3) true = .ok 3 ∧ workGate tbusy tc (.channel 3) = .ok () ∧
    (tbusy.channelFor tc 3 == (tbusy.tile 0).channel 3) = true ∧ ((tbusy.tile 0).channel 3).num = 3 ∧ ((tbusy.tile 0).channel 3).state = .active ∧
    (tbusy.tile 0).pausedCopies = [] :=
  ⟨⟨⟨ones, ⟨rfl, rfl, rfl⟩, rfl⟩, falls_of_middle _ _ rfl⟩, ok_of _ rfl, by decide +kernel, by decide +kernel, by decide +kernel,
    ⟨⟨ones, ⟨rfl, rfl, rfl⟩, rfl⟩, falls_of_middle _ _ rfl⟩, ⟨⟨ones, ⟨rfl, rfl, rfl⟩, rfl⟩, falls_of_middle _ _ rfl⟩, ok_of _ rfl,
    ⟨⟨ones, ⟨rfl, rfl, rfl⟩, rfl⟩, falls_of_middle _ _ rfl⟩, ⟨⟨ones, ⟨rfl, rfl, rfl⟩, rfl⟩, falls_of_middle _ _ rfl⟩, by decide +kernel, by decide +kernel,
    by decide +kernel, rfl, by decide +kernel, ⟨_, rfl⟩, fun _ => ⟨_, rfl⟩, ⟨⟨ones, ⟨rfl, rfl, rfl⟩, rfl⟩, falls_of_middle _ _ rfl⟩, by decide +kernel,
    by decide +kernel, by decide +kernel, rfl, rfl, rfl⟩

/-- The record at 0 before and after a phase, with and without a carried excess. -/
theorem witness_ByteCountInstructions : Fires (ts tc) tc uni [.s 1, .const 1] ∧ readVal tc (.s 1) = .ok 0 ∧ readVal tc (.const 1) = .ok 1 ∧
    recordAt (ts tc) tc 0 .tile = .ok (localKey 0 0) ∧ recordAt (ts tc) tc 0 .group = .ok (localKey 0 0) ∧ parkGate (ts tc) tc = .ok () ∧
    workGate (ts tc) tc (.record (localKey 0 0)) = .ok () ∧ ((ts tc).bcRecord (localKey 0 0)).phase = false ∧
    (tcarry.bcRecord (localKey 0 0)).phase = true ∧ (tcarry.bcRecord (localKey 0 0)).carried = true ∧ (ts tc).writesPlaced tc = true ∧
    Fires tcarry tc uni [.s 1, .const 1] ∧ workGate tcarry tc (.record (localKey 0 0)) = .ok () ∧ Fires (ts tc) tc uni [.s 1] ∧
    (∀ x, ∃ c', writeVal (ts tc) tc (.s 5) x = .ok c') ∧ ((ts tc).tile tc.key.tile).bcq = [] ∧ (ts tc).mem.wf = true :=
  ⟨⟨⟨ones, ⟨rfl, rfl, rfl⟩, rfl⟩, falls_of_middle _ _ rfl⟩, rfl, rfl, by decide +kernel, by decide +kernel, rfl, by decide +kernel, by decide +kernel,
    by decide +kernel, by decide +kernel, by decide +kernel, ⟨⟨ones, ⟨rfl, rfl, rfl⟩, rfl⟩, falls_of_middle _ _ rfl⟩, by decide +kernel,
    ⟨⟨ones, ⟨rfl, rfl, rfl⟩, rfl⟩, falls_of_middle _ _ rfl⟩, fun _ => ⟨_, rfl⟩, rfl, rfl⟩

/-- Records before and after a post, with the arrived bytes below, at and above the expected ones. -/
theorem witness_ByteCountUnit : let r := BcRecord.ofNum 0
    r.posted = false ∧ ({ r with posted := true } : BcRecord).posted = true ∧ r.arrived < 1 ∧ r.arrived = 0 ∧ 0 < ({ r with arrived := 1 } : BcRecord).arrived ∧
    r.arrived + 0x7FFFFFFF ≤ 0x7FFFFFFF ∧ r.expected < 2 ^ 32 ∧ r.poster < 8 ∧ r.excess < 2 ^ 32 := by decide

/-- What Rounded asks of the state and the operands, in either class, with any result. -/
def AbleF (h : Common) (dst : Operand) (srcs : List Operand) (k : SrcKind) (s : State) (c : Ctx) : Prop :=
  ∃ g, Issues s c h srcs g ∧ Falls s c ∧
    (h.lane = false → g.getLsbD 0 = true ∧ (∃ xs, srcs.mapM (fun o => readUni c k o) = .ok xs) ∧ ∀ x, ∃ c', writeVal s c dst x = .ok c') ∧
    (h.lane = true → (∃ ls, srcs.mapM (fun o => readLane c k o) = .ok ls) ∧ ∀ xs, ∃ c', writeElems s c dst k.width g xs = .ok c')

/-- The rounded instructions, in both classes; FP32 and BF16. -/
theorem witness_FloatArithmetic :
    (∀ i ∈ [Instr.fadd, .fsub, .fmul, .fdiv, .fmin, .fmax, .fcpys], (i (fa uni (.s 3) (.s 1) (.s 2) .zero 4)).wf = true ∧
      (i (fa lanes (.v 3) (.v 1) (.v 2) .zero 6)).wf = true) ∧
    (∀ i ∈ [Instr.fma, .fms, .fnma, .fnms], (i (fa uni (.s 3) (.s 1) (.s 2) (.s 4) 4)).wf = true ∧ (i (fa lanes (.v 3) (.v 1) (.v 2) (.v 4) 6)).wf = true) ∧
    (∀ i ∈ [Instr.fsqrt, .frcp, .frsq, .fexp2, .flog2, .fabs, .fneg, .fclass, .frnd], (i (fa uni (.s 3) (.s 1) .zero .zero 4)).wf = true ∧
      (i (fa lanes (.v 3) (.v 1) .zero .zero 6)).wf = true) ∧
    AbleF uni (.s 3) [.s 1, .s 2] (.flt fp32) (ts tc) tc ∧ AbleF lanes (.v 3) [.v 1, .v 2] (.flt bf16) (ts tc) tc ∧
    AbleF uni (.s 3) [.s 1, .s 2, .s 4] (.flt fp32) (ts tc) tc ∧ AbleF lanes (.v 3) [.v 1, .v 2, .v 4] (.flt bf16) (ts tc) tc ∧
    AbleF uni (.s 3) [.s 1] (.flt fp32) (ts tc) tc ∧ AbleF lanes (.v 3) [.v 1] (.flt bf16) (ts tc) tc :=
  ⟨by decide, by decide, by decide, ⟨ones, ⟨rfl, rfl, rfl⟩, falls_of_middle _ _ rfl, fun _ => ⟨rfl, ⟨_, rfl⟩, fun _ => ⟨_, rfl⟩⟩, fun h => nomatch h⟩,
    ⟨ones, ⟨rfl, rfl, rfl⟩, falls_of_middle _ _ rfl, fun h => (nomatch h), fun _ => ⟨⟨_, rfl⟩, fun _ => ⟨_, rfl⟩⟩⟩,
    ⟨ones, ⟨rfl, rfl, rfl⟩, falls_of_middle _ _ rfl, fun _ => ⟨rfl, ⟨_, rfl⟩, fun _ => ⟨_, rfl⟩⟩, fun h => nomatch h⟩,
    ⟨ones, ⟨rfl, rfl, rfl⟩, falls_of_middle _ _ rfl, fun h => (nomatch h), fun _ => ⟨⟨_, rfl⟩, fun _ => ⟨_, rfl⟩⟩⟩,
    ⟨ones, ⟨rfl, rfl, rfl⟩, falls_of_middle _ _ rfl, fun _ => ⟨rfl, ⟨_, rfl⟩, fun _ => ⟨_, rfl⟩⟩, fun h => nomatch h⟩,
    ⟨ones, ⟨rfl, rfl, rfl⟩, falls_of_middle _ _ rfl, fun h => (nomatch h), fun _ => ⟨⟨_, rfl⟩, fun _ => ⟨_, rfl⟩⟩⟩⟩

/-- Finite operands with values that are not zero. -/
theorem witness_FloatResultsAreExact : FV.finite (.num false 1 0) = true ∧ FV.rat (.num false 1 0) ≠ 0 ∧ 0 < FV.rat (.num false 1 0) := by
  norm_num [FV.finite, FV.rat]

/-- A value between integers, and an integer; the modes RNE to RSR. -/
theorem witness_RoundingModes : ¬2 ^ 1 ∣ 3 ∧ 2 ^ 1 ∣ 2 ∧ 2 * 3 % 2 ^ 1 = 0 ∧ 2 * 3 / 2 ^ 1 % 2 = 1 ∧
    ∀ k ∈ [0, 1, 2, 3, 4], ({ rne with mode := k } : Rnd).mode = k := by decide

/-- FCMP in both classes, and a mask that its lanes may give. -/
theorem witness_FloatSelectionAndCompares : (Instr.fcmp (fa uni (.p 1) (.s 1) (.s 2) .zero 4)).wf = true ∧
    (Instr.fcmp (fa lanes (.p 1) (.v 1) (.v 2) .zero 4)).wf = true ∧ Issues (ts tc) tc uni [.s 1, .s 2] ones ∧ Issues (ts tc) tc lanes [.v 1, .v 2] ones ∧
    Falls (ts tc) tc ∧ (∃ x, readUni tc (.flt fp32) (.s 1) = .ok x) ∧ (∃ x, readLane tc (.flt fp32) (.v 1) = .ok x) ∧
    (∀ x, ∃ c', writeVal (ts tc) tc (.p 1) x = .ok c') ∧ (∀ m, ∃ c', writeMask (ts tc) tc (.p 1) ones m = .ok c') :=
  ⟨rfl, rfl, ⟨rfl, rfl, rfl⟩, ⟨rfl, rfl, rfl⟩, falls_of_middle _ _ rfl, ⟨_, rfl⟩, ⟨_, rfl⟩, fun _ => ⟨_, rfl⟩, fun _ => ⟨_, rfl⟩⟩

/-- The conversions in both classes, with the saturating and the 64-bit forms. -/
theorem witness_Conversions : accepts [
      .fcvt (fa uni (.s 3) (.s 1) .zero .zero 4), .fcvt (fa lanes (.v 3) (.v 1) .zero .zero 11), .fcvti (fa uni (.s 3) (.s 1) .zero .zero 4),
      .fcvti (fa lanes (.v 3) (.v 1) .zero .zero 10), .icvtf (fa uni (.s 3) (.s 1) .zero .zero 12), .icvtf (fa lanes (.v 3) (.v 1) .zero .zero 1),
      .fpack (fa uni (.s 3) (.s 1) .zero .zero 0), .fpack (fa lanes (.v 3) (.v 1) (.v 2) .zero 10), .fpack (fa lanes (.v 3) (.v 1) (.v 2) .zero 1),
      .funpk (fa uni (.s 3) (.s 1) .zero .zero 0), .funpk (fa lanes (.v 3) (.v 1) .zero .zero 11)] = true ∧
    AbleF uni (.s 3) [.s 1] (.flt fp16) (ts tc) tc ∧ AbleF lanes (.v 3) [.v 1] (.flt e5m2) (ts tc) tc ∧ AbleF uni (.s 3) [.s 1] (.int 64) (ts tc) tc ∧
    AbleF lanes (.v 3) [.v 1] (.int 32) (ts tc) tc ∧ (∃ xs, readLane tc (.flt fp32) (.v 2) = .ok xs) ∧ (∃ xs, readElems tc 8 (.v 3) = .ok xs) ∧
    Issues (ts tc) tc lanes [.v 1, .v 2] ones :=
  ⟨by decide, ⟨ones, ⟨rfl, rfl, rfl⟩, falls_of_middle _ _ rfl, fun _ => ⟨rfl, ⟨_, rfl⟩, fun _ => ⟨_, rfl⟩⟩, fun h => nomatch h⟩,
    ⟨ones, ⟨rfl, rfl, rfl⟩, falls_of_middle _ _ rfl, fun h => (nomatch h), fun _ => ⟨⟨_, rfl⟩, fun _ => ⟨_, rfl⟩⟩⟩,
    ⟨ones, ⟨rfl, rfl, rfl⟩, falls_of_middle _ _ rfl, fun _ => ⟨rfl, ⟨_, rfl⟩, fun _ => ⟨_, rfl⟩⟩, fun h => nomatch h⟩,
    ⟨ones, ⟨rfl, rfl, rfl⟩, falls_of_middle _ _ rfl, fun h => (nomatch h), fun _ => ⟨⟨_, rfl⟩, fun _ => ⟨_, rfl⟩⟩⟩, ⟨_, rfl⟩, ⟨_, rfl⟩, ⟨rfl, rfl, rfl⟩⟩

/-- The vector instructions, every kind of source, and results of every width. -/
theorem witness_VectorReductions_and_VectorMovement : accepts [
      .vredu (fa lanes (.v 3) (.v 1) (.p 2) .zero 0x71), .vscan (fa lanes (.v 3) (.v 1) (.p 2) .zero 4), .vbcast (fa lanes (.v 3) (.v 1) (.s 2) .zero 3),
      .vext (fa lanes (.v 3) (.v 1) (.v 2) (.s 4) 1), .vins (fa lanes (.v 3) (.s 1) (.const 63) .zero 1), .vperm (fa lanes (.v 3) (.v 1) (.v 2) .zero 1),
      .vshuf (fa lanes (.v 3) (.v 1) (.v 2) (.v 4) 1), .vsel (fa lanes (.v 3) (.v 1) (.v 2) (.v 4) 6), .vcprs (fa lanes (.v 3) (.v 1) (.p 2) .zero 1),
      .vexpd (fa lanes (.v 3) (.v 1) (.p 2) .zero 1), .viota (fa lanes (.v 3) (.p 2) .zero .zero 1), .vmovn (fa lanes (.v 3) (.v 1) (.const 2) .zero 1),
      .vzero (fa lanes (.v 3) (.const 45) .zero .zero 1)] = true ∧
    (∀ n ∈ [8, 16, 32], (∃ xs, readElems tc n (.v 1) = .ok xs) ∧ ∀ xs, ∃ c', writeElems (ts tc) tc (.v 3) n ones xs = .ok c') ∧
    (∃ m, readVal tc (.p 2) = .ok m) ∧ Falls (ts tc) tc ∧
    (∀ srcs ∈ [[Operand.v 1, .p 2], [.v 1, .s 2], [.v 1, .v 2], [.v 1, .v 2, .v 4], [.s 1, .s 2], [.p 2], []], Issues (ts tc) tc lanes srcs ones) ∧
    (∃ bs, readRf tc (tc.vloc 1) 512 = .ok bs) ∧ (∀ cells, ∃ c', writeRf (ts tc) tc (tc.vloc 3) 512 cells = .ok c') ∧
    (0 < 8 ∧ ∀ x ∈ [some 255, none], ∀ v, x = some v → v < 2 ^ 8) ∧ Free (ts tc) tc (tc.vloc 3) 256 ∧ tc.loc (.v 3) = some (tc.vloc 3) ∧
    (List.replicate 64 (some 0x7F800001)).length = 2048 / vecWidth 4 :=
  ⟨by decide, (by intro n h
                  simp only [List.mem_cons, List.not_mem_nil, or_false] at h
                  rcases h with h | h | h <;> subst h <;> exact ⟨⟨_, rfl⟩, fun _ => ⟨_, rfl⟩⟩), ⟨_, rfl⟩, falls_of_middle _ _ rfl,
    (by intro srcs h
        simp only [List.mem_cons, List.not_mem_nil, or_false] at h
        rcases h with h | h | h | h | h | h | h <;> subst h <;> exact ⟨rfl, rfl, rfl⟩), ⟨_, rfl⟩, fun _ => ⟨_, rfl⟩, ⟨by decide, by
      intro x h v e
      simp only [List.mem_cons, List.not_mem_nil, or_false] at h
      rcases h with h | h <;> subst h <;> cases e
      decide⟩, ⟨rfl, rfl⟩, rfl, rfl⟩

/-- A bank of a format, and a context that has it in front, its accumulators free. -/
def tbank (fmt : Word) : Bank := { offset := 0, mpdw0 := 0x100 + fmt, mpdw1 := 0x0000000100000001, mpdw2 := 0, key := 0, member := 0, image := [] }
def tmx (fmt : Word) : Ctx := { tc with front := some (tbank fmt), mpdw0 := 0x102 }

/-- The matrix queue full. -/
def tfull : State := { ts tc with tiles := [{ num := 0, mq := List.replicate 16 (newCmd tc 0 .mbswap 0) }] }

theorem queue_room (fmt : Word) : QueueRoom (ts (tmx fmt)) (tmx fmt) := ⟨Nat.zero_lt_succ 15, fun _ h => (nomatch h)⟩

theorem witness_MatrixQueue : ¬QueueRoom tfull tc ∧ (tc.loc (.a 0) = some (tc.aloc 0) ∧ tc.aloc 0 + 4096 * 1 ≤ 0x8000) ∧ Issues tfull tc lanes [] ones ∧ Issues tfull tc lanes [.s 1, .s 2] ones ∧
    Fires tfull tc uni [] := ⟨fun h => absurd h.1 (by decide), ⟨rfl, by decide⟩, ⟨rfl, rfl, rfl⟩, ⟨rfl, rfl, rfl⟩, ⟨⟨ones, ⟨rfl, rfl, rfl⟩, rfl⟩, falls_of_middle _ _ rfl⟩⟩

/-- A row from memory in a format without and with scale bytes, and from a register, for MMA and MMAT. -/
theorem witness_MatrixMultiplyIssue : ∀ tr ∈ [false, true],
    Issues (ts (tmx 2)) (tmx 2) lanes [.s 2, .s 3] ones ∧ Issues (ts (tmx 2)) (tmx 2) lanes [.s 3] ones ∧ Falls (ts (tmx 2)) (tmx 2) ∧
    QueueRoom (ts (tmx 2)) (tmx 2) ∧ (tmx 2).loc (.a 0) = some ((tmx 2).aloc 0) ∧ (tmx 2).aloc 0 + 4096 * mmaBlocks tr (tbank 2).fmt ≤ 0x8000 ∧
    (tmx 7).aloc 0 + 4096 * mmaBlocks tr (tbank 7).fmt ≤ 0x8000 ∧
    meetsAny (tmx 2).pending ((tmx 2).aloc 0) (4096 * mmaBlocks tr (tbank 2).fmt) = false ∧
    meetsAny (tmx 2).winRanges ((tmx 2).aloc 0) (4096 * mmaBlocks tr (tbank 2).fmt) = false ∧
    strictUnread (ts (tmx 2)) (tmx 2) ((tmx 2).aloc 0) (4096 * mmaBlocks tr (tbank 2).fmt) = false ∧ readVal (tmx 2) (.s 3) = .ok 0 ∧
    readVal (tmx 2) (.s 2) = .ok 0 ∧ pairsWith 2 (tbank 2).fmt = true ∧ pairsWith 7 (tbank 7).fmt = true ∧ sideBytes tr 2 0 = 0 ∧ sideBytes tr 7 1 ≠ 0 ∧
    checkLocal 0 (rowBytes tr 2) 2 0 = .ok () ∧ checkLocal 0 (rowBytes tr 7) 1 0 = .ok () ∧ checkLocal 0 (sideBytes tr 7 1) 1 0 = .ok () ∧
    (readLocal (ts (tmx 2)) (tmx 2) 0 (rowBytes tr 2)).isOk = true ∧ (readLocal (ts (tmx 7)) (tmx 7) 0 (rowBytes tr 7)).isOk = true ∧
    (readLocal (ts (tmx 7)) (tmx 7) 0 (sideBytes tr 7 1)).isOk = true ∧ (readRf (tmx 2) ((tmx 2).vloc 1) (rowBytes tr 2)).isOk = true := by
  intro tr h
  refine ⟨⟨rfl, rfl, rfl⟩, ⟨rfl, rfl, rfl⟩, falls_of_middle _ _ rfl, queue_room 2, rfl, ?_⟩
  revert tr
  decide +kernel

/-- Loads of a bank, its release, exchanges of banks, plate writes, and accumulator commands with all lanes. -/
theorem witness_BanksPlateAndAccumulators : let c := tmx 2
    QueueRoom (ts c) c ∧ Fires (ts c) c uni [.s 1] ∧ Fires (ts c) c uni [] ∧ readVal c (.s 1) = .ok 0 ∧ c.mpdw0.toNat % 64 ≠ 0 ∧
    0 + imageBytes (c.mpdw0.toNat % 64) (c.mpdw0.toNat / 64 % 4) ≤ 0x100000 ∧ (ts c).pinned 0 0 0 (some (c, true)) = false ∧
    (ts c).waitFree c { virt := false, lo := plateKey 0 0, len := imageBytes 2 0 } false = .ok () ∧
    Fires (ts c) c uni [.s 1, .s 2, .const 64] ∧ readVal c (.const 64) = .ok 64 ∧ (readLocal (ts c) c 0 64).isOk = true ∧
    (ts c).pinned 0 0x1000 64 none = false ∧ ((ts c).placePlain ((ts c).writer c false) (plateKey 0 0) 0 (List.replicate 64 0)).isSome = true ∧
    c.loc (.a 0) = some (c.aloc 0) ∧ Issues (ts c) c lanes [] ones ∧ Issues (ts c) c lanes [.s 1, .s 2] ones ∧ Falls (ts c) c ∧
    c.aloc 0 + 4096 ≤ 0x8000 ∧ meetsAny c.winRanges (c.aloc 0) 4096 = false ∧ meetsAny c.pending (c.aloc 0) 4096 = false ∧ strictUnread (ts c) c (c.aloc 0) 4096 = false ∧
    (ts c).heldBack c { virt := false, lo := plateKey 0 0, len := 64 } true = false ∧
    (rowSpan 0 ones).isSome = true ∧ checkLocal 0 256 4 0 = .ok () ∧ (readLocal (ts c) c 0 256).isOk = true ∧
    (ts c).waitFree c { virt := false, lo := localKey 0 0, len := 256 } true = .ok () ∧
    (stageRows (ts c) c 1 [((localKey 0 0, 4), List.replicate 4 0)]).isSome = true :=
  ⟨queue_room 2, ⟨⟨ones, ⟨rfl, rfl, rfl⟩, rfl⟩, falls_of_middle _ _ rfl⟩, ⟨⟨ones, ⟨rfl, rfl, rfl⟩, rfl⟩, falls_of_middle _ _ rfl⟩, rfl, by decide, by decide,
    by decide +kernel, by decide +kernel, ⟨⟨ones, ⟨rfl, rfl, rfl⟩, rfl⟩, falls_of_middle _ _ rfl⟩, rfl, by decide +kernel, by decide +kernel, by decide +kernel,
    rfl, ⟨rfl, rfl, rfl⟩, ⟨rfl, rfl, rfl⟩, falls_of_middle _ _ rfl, by decide, by decide, by decide, by decide +kernel, by decide +kernel, by decide +kernel, by decide +kernel,
    by decide +kernel, by decide +kernel, by decide +kernel⟩

/-- A descriptor that is in order and one that is not, a limit above and below the commands, and members at both ends of their range. -/
theorem witness_MatrixRegisters : (∃ x, readVal tc (.s 1) = .ok x) ∧ Fires (ts tc) tc uni [.s 1, .s 2, .s 3] ∧ Fires (ts tc) tc uni [.s 1] ∧
    Fires (ts tc) tc uni [] ∧ fmtOk 2 0 = true ∧ 2 ∈ [2, 3, 4, 5, 6, 7, 8, 12, 13] ∧ ((ts tc).mxOf tc).length ≤ 0 ∧ 0 < (tfull.mxOf tc).length ∧
    Fires tfull tc uni [.const 0] ∧ (0xFFFE : Word).toInt ≤ 0xFFFE ∧ 0xFFFE < (0xFFFF : Word).toInt ∧ (-1 : Word).toInt < 0 ∧
    ∀ x, ∃ c', writeVal (ts tc) tc (.s 3) x = .ok c' :=
  ⟨⟨_, rfl⟩, ⟨⟨ones, ⟨rfl, rfl, rfl⟩, rfl⟩, falls_of_middle _ _ rfl⟩, ⟨⟨ones, ⟨rfl, rfl, rfl⟩, rfl⟩, falls_of_middle _ _ rfl⟩,
    ⟨⟨ones, ⟨rfl, rfl, rfl⟩, rfl⟩, falls_of_middle _ _ rfl⟩, rfl, by decide, by decide, by decide +kernel,
    ⟨⟨ones, ⟨rfl, rfl, rfl⟩, rfl⟩, falls_of_middle _ _ rfl⟩, by decide, by decide, by decide, fun _ => ⟨_, rfl⟩⟩

/-- Accumulator rows, whole registers and operand-file entries. -/
theorem witness_MatrixVectorUnit : accepts [.acccvt (fa lanes (.v 1) (.a 0) (.const 12) .zero 3), .stpgen (fa lanes (.v 1) (.s 1) (.s 2) .zero 0),
      .stpmul (fa lanes (.v 3) (.v 1) (.v 2) (.v 4) 0), .hadv (fa lanes (.v 3) (.v 1) .zero .zero 3), .qcvt (fa lanes (.v 3) (.v 1) (.o 2) .zero 0),
      .dqcvt (fa lanes (.v 3) (.v 1) (.o 2) .zero 2)] = true ∧
    Issues (ts tc) tc lanes [] ones ∧ Issues (ts tc) tc lanes [.s 1, .s 2] ones ∧ Issues (ts tc) tc lanes [.v 1, .v 2, .v 4] ones ∧
    Issues (ts tc) tc lanes [.v 1] ones ∧ Falls (ts tc) tc ∧ tc.loc (.a 0) = some (tc.aloc 0) ∧
    (readRf tc (tc.aloc 0 + 256 * 12) (256 * cvtRows 3)).isOk = true ∧ (∀ n ∈ [8, 16, 32], ∀ xs, ∃ c', writeElems (ts tc) tc (.v 3) n ones xs = .ok c') ∧
    (∃ b, readVal tc (.s 1) = .ok b) ∧ (∃ b, readVal tc (.s 2) = .ok b) ∧ (∃ xs, readElems tc 32 (.v 1) = .ok xs) ∧ tc.loc (.o 2) = some 0x8200 ∧
    (readRf tc (tc.vloc 1) 512).isOk = true ∧ (∀ cells, ∃ c', writeRf (ts tc) tc (tc.vloc 3) 256 cells = .ok c') ∧
    (∀ cells, ∃ c', writeRf (ts tc) tc (tc.vloc 3) 512 cells = .ok c') ∧ (∀ cells, ∃ c', writeRf (ts tc) tc 0x8200 16 cells = .ok c') ∧
    (readRf tc (tc.vloc 1) 64).isOk = true ∧ (readRf tc (tc.vloc 1) 128).isOk = true ∧ (readRf tc 0x8200 16).isOk = true :=
  ⟨by decide, ⟨rfl, rfl, rfl⟩, ⟨rfl, rfl, rfl⟩, ⟨rfl, rfl, rfl⟩, ⟨rfl, rfl, rfl⟩, falls_of_middle _ _ rfl, rfl, by decide +kernel,
    (by intro n h
        simp only [List.mem_cons, List.not_mem_nil, or_false] at h
        rcases h with h | h | h <;> subst h <;> exact fun _ => ⟨_, rfl⟩), ⟨_, rfl⟩, ⟨_, rfl⟩, ⟨_, rfl⟩, rfl, by decide +kernel, fun _ => ⟨_, rfl⟩,
    fun _ => ⟨_, rfl⟩, fun _ => ⟨_, rfl⟩, by decide +kernel, by decide +kernel, by decide +kernel⟩

/-- Lists of one length whose values are finite. -/
theorem witness_DotProducts : ([1, 2] : List (BitVec 8)).length = ([3, 4] : List (BitVec 8)).length ∧
    (∀ v ∈ [FV.num false 1 0] ++ [FV.num true 3 1], FV.finite v = true) ∧ FV.finite (decF fp32 0x3F800000) = true ∧
    [(FV.num false 1 0, FV.num false 1 0), (FV.num true 1 0, FV.num false 1 0)].Perm
      [(FV.num true 1 0, FV.num false 1 0), (FV.num false 1 0, FV.num false 1 0)] :=
  ⟨rfl, by decide, by decide +kernel, List.Perm.swap ..⟩

/-- A page of 1 GiB that maps virtual to physical addresses, its tables in memory, and its cached entry; accesses of it are counted. -/
def tgiga : Leaf := { va := 0, size := 2 ^ 30, at_ := 0x6000, bits := 0x1AF }
def ttables (m : Mem) : Mem := ((m.write 0x2000 (bytesOf 8 0x4001)).write 0x4000 (bytesOf 8 0x6001)).write 0x6000 (bytesOf 8 0x1AF)
def tx (c : Ctx) (m : Mem) : State :=
  { ts c with mem := ttables m, regs := { State.reset.regs with ptroot := 0x2001 }, xlat := { State.reset.xlat with micro := [{ unit := 0, leaf := tgiga }] } }

/-- A base-die packet of one row of 64 bytes, in local memory at 0. -/
def tpacket (op : Nat) : Mem :=
  Mem.write [] (localKey 0 0) (bytesOf 128 (0x8000000000000000 + [0x0100000000000000, 0x0100000000000000, 0, 0x8000000000010000].getD op 0 * 2 ^ 64 +
    op * 2 ^ 192 + 2 ^ 197))
def tbd : BdCmd :=
  { id := 0, ctx := tc.key, task := 1, rank := 0, supervisor := false, slack := 0, ev := false, bc := 0, amount := 0, flags := 0, reads := [],
    writes := [], subs := [(0, 0)], left := [(0, 0)], bad := 0, held := false }
def tbds (n : Nat) (m : Mem) : State := { tx tc m with bd := { State.reset.bd with cmds := List.replicate n tbd } }

/-- Packets in order and malformed, for each operation, with room for a command and without. -/
theorem witness_NearMemoryInstructions : Fires (tx tc (tpacket 0)) tc uni [.s 1] ∧ readVal tc (.s 1) = .ok 0 ∧
    (∀ op ∈ [0, 1, 2, 3], let s := tx tc (tpacket op)
      localRange s tc 0 128 128 = .ok (localKey 0 0) ∧
      (let p := BdPacket.ofNum (numOf (s.readLoc tc false (localKey 0 0) 128))
       p.malformed op = false ∧ p.malformed (op + 1) = true ∧ p.bc = 0 ∧ (op < 2 → (tileGlobal s tc p.dest 64 64).isOk = true) ∧
         (planRows s tc p 0).isOk = true)) ∧
    ((tx tc []).basediesOf tc).length + 1 ≤ 32 ∧ 32 < ((tbds 32 []).basediesOf tc).length + 1 ∧ workGate (ts tc) tc .basedie = .ok () ∧
    (∃ b, readVal tc (.s 1) = .ok b) ∧ Ready uni (.s 3) [.s 1] (ts tc) tc :=
  ⟨⟨⟨ones, ⟨rfl, rfl, rfl⟩, rfl⟩, falls_of_middle _ _ rfl⟩, rfl, by decide +kernel, by decide +kernel, by decide +kernel, by decide +kernel, ⟨_, rfl⟩,
    ⟨⟨ones, ⟨rfl, rfl, rfl⟩, rfl⟩, falls_of_middle _ _ rfl⟩, fun _ => ⟨_, rfl⟩⟩

/-- A pod domain of two packages, complete, and a context of it. -/
def tpd : Domain := { level := 5, unit := 0, id := 0, task := 1, tid := 1, members := 2, shares := [(0, 1), (1, 1)] }
def tpc : Ctx := { tc with stepdom := 0x10000000 }
def tpod (m : Mem) : State :=
  { tx tpc m with regs := { State.reset.regs with ptroot := 0x2001, podsize := 2 }, domains := [tpd] }

/-- A descriptor at 0 of 64 bytes for package 1, which reaches it. -/
def tdesc : Mem := Mem.write [] (localKey 0 0) (bytesOf 64 (0x100 + 64 * 2 ^ 128 + 2 ^ 178))
def tsend : Fsend :=
  { id := 0, ctx := tc.key, task := 1, rank := 0, domain := 0, dpkg := 1, dtile := 0, dst := 0, rbc := none, lbc := 0, slack := 0, ordered := false,
    data := [], steps := 0, prior := 0, deadline := 0, bad := 0, held := false, acked := false }

/-- FSEND without a pod domain, with a malformed descriptor, to an absent package, with and without room. -/
theorem witness_SendingAndStatus : Fires (ts tc) tc uni [.s 1] ∧ readVal tc (.s 1) = .ok 0 ∧ localRange (ts tc) tc 0 64 64 = .ok (localKey 0 0) ∧
    tc.bound 5 = false ∧ Fires (tpod tdesc) tpc uni [.s 1] ∧ readVal tpc (.s 1) = .ok 0 ∧ localRange (tpod tdesc) tpc 0 64 64 = .ok (localKey 0 0) ∧
    podGate (tpod tdesc) tpc = .ok tpd ∧
    (let q := SendDesc.ofNum (numOf ((tpod tdesc).readLoc tpc false (localKey 0 0) 64))
     q.malformed 0 = false ∧ q.malformed 1 = true ∧ localRange (tpod tdesc) tpc (BitVec.ofNat 64 q.src) q.length 1 = .ok (localKey 0 0x100) ∧ q.lbc = 0 ∧
       (tpod tdesc).reaches tpd q.dpkg = true) ∧
    ({ tpod tdesc with fab := { State.reset.fab with absent := [1] } } : State).reaches tpd 1 = false ∧ ((tpod tdesc).fsendsOf tpc).length < 64 ∧
    64 ≤ (({ tpod tdesc with fab := { State.reset.fab with fsends := List.replicate 64 tsend } } : State).fsendsOf tpc).length ∧
    workGate (ts tc) tc .fabric = .ok () ∧ Ready uni (.s 3) [.s 1] (ts tc) tc :=
  ⟨⟨⟨ones, ⟨rfl, rfl, rfl⟩, rfl⟩, falls_of_middle _ _ rfl⟩, rfl, by decide +kernel, rfl, ⟨⟨ones, ⟨rfl, rfl, rfl⟩, rfl⟩, falls_of_middle _ _ rfl⟩, rfl,
    by decide +kernel, by decide +kernel, by decide +kernel, by decide +kernel, by decide +kernel, by decide +kernel, by decide +kernel,
    ⟨⟨ones, ⟨rfl, rfl, rfl⟩, rfl⟩, falls_of_middle _ _ rfl⟩, fun _ => ⟨_, rfl⟩⟩

/-- A routing descriptor at 0 of one entry, which names one token of 64 bytes. -/
def troute : Mem :=
  (Mem.write [] (localKey 0 0) (bytesOf 64 (2 ^ 16 + 2 ^ 32 + 0x8000000000010000 * 2 ^ 64 + 0x8000000000020000 * 2 ^ 128 + 0x8000000000030000 * 2 ^ 192))).write
    0x20000 (bytesOf 16 (2 ^ 32))

theorem witness_Routing : let s := tpod troute
    Fires s tpc uni [.s 1] ∧ Fires s tpc uni [] ∧ localRange s tpc 0 64 64 = .ok (localKey 0 0) ∧ podGate s tpc = .ok tpd ∧
    (let x := numOf (s.readLoc tpc false (localKey 0 0) 64)
     bitsOf x 511 256 = 0 ∧ bitsOf x 63 48 = 0 ∧ bitsOf x 31 16 = 1 ∧ bitsOf x 47 32 = 1) ∧ (s.listsOf tpc tpd).length < 256 ∧
    s.routeRead tpc 0 0x8000000000020000 16 = .ok (bytesOf 16 (2 ^ 32)) ∧
    ((SendEntry.ofNum (2 ^ 32)).reserved = 0 ∧ (SendEntry.ofNum (2 ^ 32)).offset % 64 = 0 ∧ (SendEntry.ofNum (2 ^ 32)).len = 1) ∧
    (s.routeRead tpc 0 0x8000000000010000 64).isOk = true ∧ (s.pagePieces tpc true 0 0 3 0x8000000000030000 32).isOk = true ∧ parkGate s tpc = .ok () ∧
    s.fab.lists = [] ∧ tpc.arrival = none ∧ (writeOpt s { tpc.endRegion with rtBatch := 1 } (.s 3) 0).isOk = true :=
  ⟨⟨⟨ones, ⟨rfl, rfl, rfl⟩, rfl⟩, falls_of_middle _ _ rfl⟩, ⟨⟨ones, ⟨rfl, rfl, rfl⟩, rfl⟩, falls_of_middle _ _ rfl⟩, by decide +kernel, by decide +kernel,
    by decide +kernel, by decide +kernel, by decide +kernel, by decide +kernel, by decide +kernel, by decide +kernel, rfl, rfl, rfl, by decide +kernel⟩

/-- A collective block at 0: a reduction over this package's node and a second one, 16 elements in one chunk. -/
def tcoll : Mem :=
  Mem.write [] (localKey 0 0) (bytesOf 32 (0x10 + 2 * 2 ^ 6 + 16 * 2 ^ 16 + 16 * 2 ^ 32 + 7 * 2 ^ 64) ++
    bytesOf 32 (0x8000000000010000 + 0x8000000000020000 * 2 ^ 64 + 2 ^ 224) ++
    bytesOf 32 (0x3FF * 2 ^ 156 + 2 * 2 ^ 166 + 1 * 2 ^ 180) ++ bytesOf 32 (1 * 2 ^ 147 + 0 * 2 ^ 156 + 1 * 2 ^ 166 + 1 * 2 ^ 170))

theorem witness_Collectives : let s := tpod tcoll
    Fires s tpc uni [.s 1] ∧ readVal tpc (.s 1) = .ok 0 ∧ localRange s tpc 0 64 32 = .ok (localKey 0 0) ∧
    bitsOf (numOf (s.readLoc tpc false (localKey 0 0) 64)) 15 6 = 2 ∧ localRange s tpc 0 128 32 = .ok (localKey 0 0) ∧ podGate s tpc = .ok tpd ∧
    (let head := s.readLoc tpc false (localKey 0 0) 64
     let b := CollBlock.ofNums (numOf (head.take 32)) (numOf (head.drop 32)) ((chunksOf 32 2 (s.readLoc tpc false (localKey 0 0 + 64) 64)).map numOf)
     b.malformed tpd 0 = false ∧ b.malformed { tpd with shares := [(0, 1)] } 0 = true ∧ usesSrc b.kind true = true ∧ usesDst b.kind true = true ∧
       (rowPieces s tpc false b.slack 0 2 b.src 64).isOk = true ∧ (rowPieces s tpc true b.slack 0 2 b.dst 64).isOk = true ∧
       s.waitFree tpc (spanAt 0 (s.fromHome tpc b.src) 64) false = .ok ()) ∧
    s.fab.colls = [] ∧ s.collLogRoom = true ∧ (∀ x, ∃ c', writeVal s tpc (.s 3) x = .ok c') ∧ parkGate s tpc = .ok () ∧ workGate s tpc .fabric = .ok () ∧
    (writeOpt s tpc.endRegion (.s 3) 1).isOk = true :=
  ⟨⟨⟨ones, ⟨rfl, rfl, rfl⟩, rfl⟩, falls_of_middle _ _ rfl⟩, rfl, by decide +kernel, by decide +kernel, by decide +kernel, by decide +kernel, by decide +kernel,
    rfl, by decide +kernel, fun _ => ⟨_, rfl⟩, rfl, by decide +kernel, by decide +kernel⟩

/-- A control block of one context at 0x30000 with a number of predecessors; s2 holds its address; dies in service or not. -/
def tva : Nat := 0x8000000000030000
def tblk (preds : Nat) : Mem := Mem.write [] 0x30000 (bytesOf 128 (0x8000000000000000 * 2 ^ 192 + 15 * 2 ^ 28 + preds * 2 ^ 80))
def ttcb (preds dies : Nat) : State := { tx (tra tva) (tblk preds) with host := { State.reset.host with diesUp := dies, pendingDies := 0 } }

/-- Messages that are in order and malformed; a block that is malformed, not placeable, waiting and ready; a task in the table and none. -/
theorem witness_TaskInstructions : Fires (ts tc) tc uni [.s 1] ∧ readVal tc (.s 1) = .ok 0 ∧ checkPrivate 0 32 32 0 false true = .ok .localMem ∧
    (ts tc).waitFree tc { virt := false, lo := localKey 0 0, len := 32 } false = .ok () ∧ (messageOf 0 (List.replicate 32 0) false).isSome = true ∧
    messageOf 0 (1 :: List.replicate 31 0) false = none ∧ deferGate (ts tc) tc = .ok () ∧
    (let c := tra tva
     Fires (ttcb 0 15) c uni [.s 2] ∧ (blockAddr c (.s 2) == .ok 0x8000000000030000) = true ∧
       (∀ p ∈ [0, 1], ∀ dies ∈ [0, 15], (readBlock (ttcb p dies) c 0x8000000000030000 128).isOk = true ∧
         (let n := numOf ((ttcb p dies).mem.read 0x30000 128)
          (ttcb p dies).blockMalformed n = false ∧ bitsOf n 191 184 = 0 ∧ bitsOf n 447 384 = 0 ∧ bitsOf n 319 256 = 0 ∧
            (ttcb p dies).submitStatus 0x8000000000030000 false (blockOf n [] none) = if dies = 0 then 2 else 0)) ∧
       (ttcb 0 15).blockMalformed 0 = true ∧ (readBlock (ttcb 0 15) c 0 0).isOk = true ∧ (∀ x, ∃ c', writeVal (ttcb 0 15) c (.s 3) x = .ok c')) ∧
    Ready uni (.s 3) [] (ts tc) tc ∧ (ts tc).task? tc.task = some placedTask ∧ ({ ts tc with tasks := [] } : State).task? tc.task = none :=
  ⟨⟨⟨ones, ⟨rfl, rfl, rfl⟩, rfl⟩, falls_of_middle _ _ rfl⟩, rfl, by decide +kernel, by decide +kernel, by decide +kernel, by decide +kernel, by decide +kernel,
    ⟨⟨⟨ones, ⟨rfl, rfl, rfl⟩, rfl⟩, falls_of_middle _ _ rfl⟩, by decide +kernel, by decide +kernel, by decide +kernel, by decide +kernel, fun _ => ⟨_, rfl⟩⟩,
    ⟨⟨⟨ones, ⟨rfl, rfl, rfl⟩, rfl⟩, falls_of_middle _ _ rfl⟩, fun _ => ⟨_, rfl⟩⟩, rfl, rfl⟩

/-- A second task, in a phase, and a supervisor that names it by the constant 2, waiting for its action or not. -/
def ttwo (p : Phase) : Task := { placedTask with num := 2, tid := 2, phase := p, blk := { placedTask.blk with reloc := true } }
def tact (w : Wait) : Ctx := { tsup with wait := w }
def ttask (p : Phase) (w : Wait) : State :=
  { ts (tact w) with tasks := [placedTask, ttwo p], host := { State.reset.host with diesUp := 15 } }

theorem witness_TaskControl : (∀ p, ∀ w ∈ [Wait.none, .action], (tact w).supervisor = true ∧ readVal (tact w) (.const 2) = .ok 2 ∧
      Fires (ttask p w) (tact w) uni [.const 2] ∧ Fires (ttask p w) (tact w) uni [.const 2, .const 127] ∧ parkGate (ttask p w) (tact w) = .ok () ∧
      (ttask p w).taskByTid 2 = some (ttwo p) ∧ (ttask p w).taskByTid 3 = none ∧ (ttwo p).stopping = [] ∧ (ttwo p).phase = p ∧ (ttwo p).resuming = false ∧
      (ttwo p).num ≠ (tact w).task ∧ (ttwo p).target = none ∧ ∀ x, ∃ c', writeVal (ttask p w) (tact w) (.s 3) x = .ok c') ∧
    (ttask .running .none).taskByTid 1 = some placedTask ∧ placedTask.num = (tact .none).task ∧ placedTask.blk.reloc = false ∧
    (alignedOrigins 1 1).contains 767 = true ∧ dieOfTile 767 ≠ dieOfTile (ttwo .running).origin ∧ (ttask .running .none).isCandidate (ttwo .running) 767 = true :=
  ⟨fun p w h => by
      simp only [List.mem_cons, List.not_mem_nil, or_false] at h
      rcases h with h | h <;> subst h <;>
        exact ⟨rfl, rfl, ⟨⟨ones, ⟨rfl, rfl, rfl⟩, rfl⟩, falls_of_middle _ _ rfl⟩, ⟨⟨ones, ⟨rfl, rfl, rfl⟩, rfl⟩, falls_of_middle _ _ rfl⟩, rfl, rfl, rfl, rfl,
          rfl, rfl, (fun h => nomatch h), rfl, fun _ => ⟨_, rfl⟩⟩,
    rfl, rfl, rfl, by decide +kernel, by decide +kernel, by decide +kernel⟩

/-- Contexts that PREEMPT's companions name: none, one that runs, one that has faulted. -/
theorem witness_TaskControl_contexts : let f := { tc with key := { tile := 0, num := 1 }, rank := 1, faulted := some 1 }
    let s := { ts tsup with ctxs := [tsup, f] }
    Fires s tsup uni [.const 1] ∧ readVal tsup (.const 1) = .ok 1 ∧ parkGate s tsup = .ok () ∧ s.ctx? { tile := 0, num := 1 } = some f ∧ f.faulted ≠ none ∧
    s.ctx? { tile := 0, num := 0 } = some tsup ∧ tsup.faulted = none ∧ s.ctx? { tile := 0, num := 2 } = none ∧
    ∀ x, ∃ c', writeVal s tsup (.s 3) x = .ok c' :=
  ⟨⟨⟨ones, ⟨rfl, rfl, rfl⟩, rfl⟩, falls_of_middle _ _ rfl⟩, rfl, rfl, rfl, (fun h => nomatch h), rfl, rfl, rfl, fun _ => ⟨_, rfl⟩⟩

/-- s2 holds a virtual address, in supervisor mode; translation on and off. -/
def tsx (w : Wait) : Ctx := { tra 0x8000000000010000 with supervisor := true, wait := w }
def tmig (st : Option Nat) : Migration :=
  { leaf := tgiga, target := 0, ctx := some (tsx .action).issuer, step := 1, line := 0, slack := 0, req := 0, data := none, blocked := none, told := false, status := st }

/-- A page that is cached and counted, one that is not mapped; invalidation before, during and after its wait; a migration begun, refused and ended. -/
theorem witness_TranslationInstructions : let c := tsx .none
    let d := tsx .action
    let s := tx c []
    let u := tx d []
    (pageAddr c (.s 2) == .ok 0x8000000000010000) = true ∧ (lookPage s c 0x8000000000010000 == .ok (some tgiga, false)) = true ∧ tgiga.tier ≠ 3 ∧ tgiga.cnt = true ∧
    Ready uni (.s 3) [.s 2] s c ∧ (lookPage (ts c) c 0x8000000000010000 == .ok (none, false)) = true ∧ c.supervisor = true ∧
    Fires s c uni [.s 2, .s 1] ∧ Fires s c uni [] ∧ Fires u d uni [.s 2, .s 1] ∧ Fires u d uni [] ∧ c.wait ≠ .action ∧ d.wait = .action ∧ parkGate s c = .ok () ∧
    (∃ n, readVal c (.s 1) = .ok n) ∧ u.pageInUse 0 1 = false ∧ u.packetsDone (.inval d.key) = true ∧
    ({ u with ctxs := [{ d with outstanding := [
      { id := 0, kind := 0, cells := [], locs := [], ext := none, pages := [(0, 65536)], writes := [], peer := none, keys := [], bad := 0, held := none, slack := 0,
        addr := 0, dead := [] }] }] } : State).pageInUse 0 1 = true ∧
    s.xlatOn = true ∧ (ts c).xlatOn = false ∧ (s.walkAll 0x10000 == .leaf tgiga) = true ∧ (s.walkAll (2 ^ 31) == .unmapped) = true ∧ tgiga.wblock = false ∧
    tgiga.poison = false ∧ s.xlat.migrations = [] ∧ targetBad tgiga 0 = false ∧ targetBad tgiga 1 = true ∧
    (∃ m, ({ u with xlat := { u.xlat with migrations := [tmig (some 0)] } } : State).xlat.migrations.find? (fun m => m.ctx.any fun i => i.is d) = some m ∧ m.status = some 0) ∧
    (∀ x, ∃ c', writeVal s c (.s 3) x = .ok c') :=
  ⟨by decide +kernel, by decide +kernel, by decide, by decide, ⟨⟨⟨ones, ⟨rfl, rfl, rfl⟩, rfl⟩, falls_of_middle _ _ rfl⟩, fun _ => ⟨_, rfl⟩⟩, by decide +kernel, rfl,
    ⟨⟨ones, ⟨rfl, rfl, rfl⟩, rfl⟩, falls_of_middle _ _ rfl⟩, ⟨⟨ones, ⟨rfl, rfl, rfl⟩, rfl⟩, falls_of_middle _ _ rfl⟩,
    ⟨⟨ones, ⟨rfl, rfl, rfl⟩, rfl⟩, falls_of_middle _ _ rfl⟩, ⟨⟨ones, ⟨rfl, rfl, rfl⟩, rfl⟩, falls_of_middle _ _ rfl⟩, (fun h => nomatch h), rfl, rfl, ok_of _ rfl,
    by decide +kernel, by decide +kernel, by decide +kernel, rfl, rfl, by decide +kernel, by decide +kernel, by decide, by decide, rfl, by decide, by decide, ⟨_, rfl, rfl⟩,
    fun _ => ⟨_, rfl⟩⟩

/-- A request of the context that has nothing left to wait for, and one through the page at 0. -/
def ttok (pages : List (Nat × Nat)) : Token :=
  { id := 5, kind := 0, cells := [], locs := [], ext := none, pages := pages, writes := [], peer := none, keys := [], bad := 0, held := none, slack := 0,
    addr := 0, dead := [] }

/-- The page at 0 is poisoned. -/
def tpoison (c : Ctx) : State :=
  let e := { tgiga with bits := tgiga.bits ||| 0x40 }
  { tx c [] with mem := (ttables []).write 0x6000 (bytesOf 8 0x1EF), xlat := { State.reset.xlat with micro := [{ unit := 0, leaf := e }] }, sel := { selCtx c.key with c := fcPOISON } }

theorem witness_ContextEvents :
    (let w := fa uni (.s 3) (.s 1) .zero .zero 0
     let c := { tc with wait := .wfe w (some 0) }
     let s := (ts c).updCtx c fun d => { d with wait := .wfe w (some 0) }
     (ts c).ctx? (ts c).sel.ctx = some c ∧ Fires s c uni [.s 1] ∧ c.evq = [] ∧ c.follower = false ∧ 0 ≤ (ts c).cycle ∧ (∃ x, readVal c (.s 1) = .ok x) ∧
       c.heldAt c.pc = false ∧ c.live = [] ∧ c.badToken = none ∧ ∃ c', writeVal s c (.s 3) 0 = .ok c') ∧
    (let c := { tc with want := some [0] }
     (ts c).ctx? (ts c).sel.ctx = some c ∧ c.want = some [0] ∧ (ts c).sel.a ∈ [0]) ∧
    (let c := { tc with wait := .yield 8 }
     (ts c).ctx? (ts c).sel.ctx = some c ∧ (ts c).othersReady c = false ∧ 8 ≤ ({ ts c with cycle := 8 } : State).cycle) ∧
    (let c := { tc with evq := [{ kind := 1, src := 0, payload := 0 }], uleEn := true }
     let d := { c with outstanding := [ttok []] }
     let b := { c with outstanding := [{ ttok [] with bad := fcUNMAPPED }] }
     (ts c).ctx? (ts c).sel.ctx = some c ∧ c.deliverable = true ∧ c.faulted = none ∧ c.live = [] ∧ c.badToken = none ∧
       (ts d).ctx? (ts d).sel.ctx = some d ∧ d.deliverable = true ∧ d.live ≠ [] ∧
       (ts b).ctx? (ts b).sel.ctx = some b ∧ b.deliverable = true ∧ b.live = [] ∧ b.badToken.isSome = true) ∧
    (let f : FwdWord := { word := 0, addr := 0, target := none, value := 0, entry := none, refused := false, due := 0 }
     let c := { tc with fwdWire := [f] }
     (ts c).ctx? (ts c).sel.ctx = some c ∧ f.due ≤ (ts c).cycle) ∧
    (let c := { tc with wait := .engine (some 0) }
     (ts c).ctx? (ts c).sel.ctx = some c ∧ 0 ≤ (ts c).ticks ∧ c.faulted = none) ∧
    (let c := { tc with outstanding := [ttok [(0, 65536)]] }
     (tpoison c).ctx? (tpoison c).sel.ctx = some c ∧ (tpoison c).sel.b = 0 ∧ (tpoison c).sel.c ≠ 0 ∧ (tpoison c).tokenFault (ttok [(0, 65536)]) = (tpoison c).sel.c) ∧
    (let c := { tc with outstanding := [ttok []] }
     let s := ts c
     s.ctx? s.sel.ctx = some c ∧ c.outstanding[s.sel.a]? = some (ttok []) ∧ s.sel.c = 0 ∧ (ttok []).kind ≠ mxKind ∧ s.packetsDone (.token 5) = true ∧
       s.tokenUnplaced (ttok []) = false ∧ s.tokenPoisoned (ttok []) = false ∧ s.tokenRetried c.key (ttok []) = false ∧ s.fab.requests = [] ∧
       s.sel.flag = s.returnLate (ttok []) ∧ (ttok []).writes = [] ∧ (ttok []).keys = [] ∧ c.wait = .none ∧ c.rf.wf = true) ∧
    (ts tc).ctxs.find? (fun d => d.key == (ts tc).sel.ctx && d.stopped == (ts tc).sel.flag && !d.evicted) = some tc :=
  ⟨⟨rfl, ⟨⟨ones, ⟨rfl, rfl, rfl⟩, rfl⟩, falls_of_middle _ _ rfl⟩, rfl, rfl, by decide, ⟨_, rfl⟩, rfl, rfl, rfl, _, rfl⟩, ⟨rfl, rfl, by decide⟩,
    ⟨rfl, by decide +kernel, by decide⟩, ⟨rfl, by decide +kernel, rfl, rfl, rfl, rfl, by decide +kernel, by decide +kernel, rfl, by decide +kernel,
      by decide +kernel, by decide +kernel⟩,
    ⟨rfl, by decide⟩, ⟨rfl, by decide, rfl⟩, ⟨rfl, rfl, by decide, by decide +kernel⟩,
    ⟨rfl, rfl, rfl, by decide, by decide +kernel, by decide +kernel, by decide +kernel, by decide +kernel, rfl,
      by decide +kernel, rfl, rfl, rfl, by decide +kernel⟩, rfl⟩

/-- A request to a peer, for a load or for a store. -/
def treq (w : Bool) : RemoteReq :=
  { num := 3, id := 9, ctx := tc.key, peer := 1, deadline := 0, channel := none, phys := 0, len := 8, write := w, fill := none,
    req := { id := 3, kind := .read, domain := none, package := 0, rank := 0, steps := 0, prior := 0, phys := 0, va := 0, len := 8, data := [], slack := 0,
             overdue := false }, slack := 0, lost := false, got := none }

/-- A write for which a peer has no room, the replies of a load and of a store, and a token that a holding area accepts. -/
theorem witness_ContextEvents_replies :
    (let s : State := { ts tc with fab := { State.reset.fab with requests := [treq true] }, sel := { selCtx tc.key with b := 4, c := fcSTAGINGFULL } }
     s.fab.requests.find? (fun q => q.num + 1 == s.sel.b && !q.lost && q.got.isNone && q.write) = some (treq true) ∧ s.sel.c = fcSTAGINGFULL) ∧
    (∀ w ∈ [true, false], let s : State := { ts tc with fab := { State.reset.fab with requests := [treq w] }, sel := { selCtx tc.key with b := 3, c := 1 } }
     s.sel.c = 1 ∧ s.fab.requests.find? (fun q => q.num == s.sel.b && !q.lost && q.got.isNone) = some (treq w) ∧
       (if w then ([] : List Byte) else bytesOf 8 5).length = (if (treq w).write then 0 else (treq w).len) ∧ s.xlat.migrations = []) ∧
    (∃ l : RouteList, let s : State := { ts tc with fab := { State.reset.fab with lists := [l] }, sel := { selCtx tc.key with c := 2 } }
     s.fab.lists.find? (fun l => l.ctx == s.sel.ctx && !l.closed && l.num == s.sel.a && l.unaccepted.contains s.sel.b) = some l) :=
  ⟨by decide +kernel, by decide +kernel,
    { ctx := tc.key, task := 1, rank := 0, supervisor := false, domain := 0, batch := 0, num := 0, entries := [], bounce := 0, closed := false,
      unaccepted := [0], bounced := [], slack := 0, overdue := false }, by decide +kernel⟩

/-- A packet at an arbiter of the mesh, a port with a flit to resend, a fetched word, and a record with room in the queue. -/
theorem witness_PackageEvents :
    (State.reset.tickAt ≤ 10 * State.reset.cycle ∨ ({ State.reset with tickAt := 0 } : State).tickAt ≤ 10 * State.reset.cycle) ∧
    (let p : Packet :=
       { owner := .fetch 0 0 8, vc := 0, slack := 5, overdue := false, flits := 1, route := [0], goal := 0, port := 0, arrived := 0, source := 0,
         reply := none, back := [] }
     let s := { State.reset with packets := [p] }
     s.sel.a < portArbiter 0 ∧ s.winnerAt s.sel.a = some p ∧ s.outFree s.sel.a = true) ∧
    (let k := directLink 0 1
     let s := { State.reset with
       podtime := 250 * k.2 + 10, regs := { State.reset.regs with podsize := 2 }, sel := { State.reset.sel with a := 8 * 768 + k.1 },
       fab := { State.reset.fab with
         locked := true, slotStarted := some k.2, ports := [{ num := k.1, active := 0xFFFF, down := false }],
         links := [{ port := k.1, slot := k.2, resend := [0] }] } }
     (s.portNext k.1).isSome = true) ∧
    (let f : FetchReq := { addr := 8, key := 8, user := true, page := (0, 65536) }
     let c := { tc with fetches := [f] }
     (ts c).ctx? (ts c).sel.ctx = some c ∧ (ts c).fetched c = [f] ∧ (ts c).sel.flag = (ts c).packetsOverdue (.fetch c.task c.rank 8) ∧
       (ts c).pagePoisoned 0 = false ∧ (tpoison c).pagePoisoned 0 = true ∧ (tpoison c).fetched c = [f]) ∧
    (let s := { State.reset with regs := { State.reset.regs with sfqsize := 4 }, sfqWait := [{ id := 0, bytes := [], ctx := none }] }
     s.sfqWait ≠ [] ∧ s.packetsDone (.note 0) = true ∧ s.regs.sfqsize ≠ 0 ∧ (s.regs.sfqtail + 2 ^ 32 - s.regs.sfqhead) % 2 ^ 32 < 2 ^ s.regs.sfqsize) :=
  ⟨.inr (by decide), by decide +kernel, by decide +kernel, by decide +kernel, by decide +kernel⟩

/-- An arrival on its way, a step that is ready, a copy that runs and one that has done all its runs, and queued record items. -/
theorem witness_StepAndTransferEvents :
    (let a : Arrived := { rank := 0, op := 0, value := 0, code := 0 }
     let c := { tcb with arrival := some { level := 1, sent := some a, sync := true, done := none } }
     (tsd c).ctx? (tsd c).sel.ctx = some c ∧ (tsd c).domOf c 1 = some tdom ∧
       let s := { tsd c with domains := [{ tdom with arrived := [a] }], sel := { selCtx c.key with a := 1 } }
       s.domain? 1 0 0 = some { tdom with arrived := [a] } ∧ s.packetsDone (.arrival c.task c.rank) = true ∧ s.stepReady { tdom with arrived := [a] } = true ∧
       s.commitBlocked { tdom with arrived := [a] } = false) ∧
    (let s : State := (match startCopy (tcopy tc) tc 15 0 none none with
       | .ok (t, _) => t
       | .error _ => ts tc)
     reinstall s 0 15 = none ∧ (runCopy s 0 15).isOk = true ∧ copyDone s ((s.tile 0).channel 15) = false ∧
       copyDone s { (s.tile 0).channel 15 with progress := 2 } = true) ∧
    (∀ k ∈ [some tc.key, none], let s := { ts tc with tiles := [{ num := 0, bcq := [{ key := localKey 0 0, amount := 1, work := 0, post := k }] }] }
      (s.tile s.sel.a).bcq ≠ []) :=
  ⟨⟨rfl, rfl, rfl, by decide +kernel, by decide +kernel, by decide +kernel⟩, by decide +kernel, by decide⟩

/-- A late step, a pod step that this package can contribute to, and a copy from a virtual page that is not mapped. -/
theorem witness_StepAndTransferEvents_late_pod_and_faults :
    (let d := { tdom with since := some 0 }
     let s := { tsd tcb with domains := [d], ticks := 2 ^ 27, sel := { selCtx tc.key with a := 1 } }
     s.domain? s.sel.a s.sel.b s.sel.c = some d ∧ s.stepLate d = true) ∧
    (let d := { tpd with arrived := [{ rank := 0, op := 0, value := 0, code := 0 }] }
     let s := { tpod [] with domains := [d], sel := { selCtx tc.key with a := 5 } }
     s.domain? s.sel.a s.sel.b s.sel.c = some d ∧ s.podReady d = true) ∧
    (let m := Mem.write [] (localKey 0 0) (bytesOf 256 (0x8000000080000000 + 0x300 * 2 ^ 64 + 4 * 2 ^ 208 + 2 ^ 216 + (2 + 4 * 2 ^ 32 + 4 * 2 ^ 80) * 2 ^ 512))
     let s : State := (match startCopy (tx tc m) tc 15 0 none none with
       | .ok (t, _) =>
         { t with
           sel := { selCtx tc.key with b := 15, c := fcUNMAPPED }, xlat := { t.xlat with answers := [{ who := .work ((t.tile 0).channel 15).work, page := 0x8000, found := .unmapped }] } }
       | .error _ => ts tc)
     (match runCopy s s.sel.a s.sel.b with
       | .error (.bad code _) => s.sel.c == code && code == fcUNMAPPED
       | _ => false) = true) := by decide +kernel

/-- The second task alone, in a phase, and a message for tile 7. -/
def ttk (t : Task) : State := { ttask .running .none with tasks := [placedTask, t], sel := { selCtx tc.key with a := 2 } }
def tmsg : Msg := { num := 0, arg0 := 0, arg1 := 0, pc := fetchBase, slack := 0, tag := 0, tile := 7, prio := 0, fromHost := false }

/-- Tasks that can be placed, resumed and moved. -/
theorem witness_DispatchEvents_placing :
    (ttk (ttwo .ready)).nextPlaced = some (ttwo .ready, 1) ∧
    (let t := { ttwo .stopped with resuming := true, origin := 5, home := 5 }
     (ttk t).nextPlaced = some (t, 5)) ∧
    (let t := { ttwo .stopped with target := some 6, origin := 5, home := 5 }
     (ttk t).nextPlaced = some (t, 6)) := ⟨by decide +kernel, by decide +kernel, by decide +kernel⟩

/-- Tasks that reserve, that wait too long, that miss their trace, that a stop reaches and that retire. -/
theorem witness_DispatchEvents_tasks :
    (let s := { ttk (ttwo .ready) with ticks := 250000 }
     s.task? s.sel.a = some (ttwo .ready) ∧ (ttwo .ready).waits = true ∧ (ttwo .ready).reserved = none ∧ (ttwo .ready).readyAt + s.placeWait ≤ s.ticks ∧
       s.reservationFor (ttwo .ready) = some 1) ∧
    (let t := { ttwo .ready with reserved := some (1, 0, false) }
     let s := { ttk t with ticks := 6250000 }
     s.task? s.sel.a = some t ∧ t.reserved = some (1, 0, false) ∧ 0 + s.placeLimit ≤ s.ticks) ∧
    (let s := { ttk (ttwo .ready) with ticks := 6250000, regs := { State.reset.regs with trcctl := 0x8000000000000000 } }
     s.traceMode = 2 ∧ (ttwo .ready).traceTold = false ∧ (ttwo .ready).readyAt + s.placeLimit ≤ s.ticks ∧
       ∀ o ∈ s.originsFor (ttwo .ready), s.traceIsNext (ttwo .ready).blk.trace (ttwo .ready).blk.k o ((ttwo .ready).blk.tiles o) = false) ∧
    (let t := { ttwo .running with stopping := [0] }
     (ttk t).task? (ttk t).sel.a = some t ∧ (ttk t).sel.b ∈ t.stopping ∧ (ttk t).packetsDone (.stop t.num (ttk t).sel.b) = true) ∧
    (ttwo .running).phase = .running ∧ (ttwo .running).stopping = [] ∧ (ttk (ttwo .running)).taskIdle 2 = true ∧
    (ttk (ttwo .running)).writesBlocked (fun e => e.ofTask 2) = false :=
  ⟨by decide +kernel, by decide +kernel, by decide +kernel, by decide +kernel, rfl, rfl, by decide +kernel, by decide +kernel⟩

/-- Deferred effects whose hold has ended, predecessors' decrements, messages that arrive and start, a context whose slot is wanted, a balancing period. -/
theorem witness_DispatchEvents_effects :
    (∀ w ∈ [Deferred.tcb 2, .decrement 0, .message (List.replicate 32 0)],
      let x : DeferredItem := { task := 2, rank := 0, origin := 0, seq := 0, after := false, ripe := true, tid := 2, what := w }
      let s := { ttk (ttwo .running) with deferred := [x] }
      s.deferred.find? (fun x => x.task == s.sel.a && x.rank == s.sel.b) = some x ∧ s.messagesFull 0 = false) ∧ (messageOf State.reset.seq (List.replicate 32 0) false).isSome = true ∧
    (let t := { ttwo .waiting with addr := some 0x30000, count := 1 }
     let s := { ttk t with decrements := [{ addr := 0x30000, tid := 1, origin := 0 }] }
     s.tasks.find? (fun t => t.addr == some 0x30000) = some t ∧ t.count ≠ 0 ∧ ∀ u ∈ (ttk (ttwo .running)).tasks, u.addr ≠ some 0x30000) ∧
    (let s := { ttask .running .none with messages := [tmsg] }
     s.messages[s.sel.a]? = some tmsg ∧ s.packetsDone (.message tmsg) = true ∧ s.messagesFull tmsg.tile = false) ∧
    (let s := { ttask .running .none with tiles := [{ num := 7, msgq := [tmsg] }], sel := { selCtx tc.key with a := 7 } }
     headMessage (s.tile s.sel.a).msgq = some tmsg ∧ s.messageStarts tmsg = true) ∧
    (let c := { tc with stopped := true }
     let s := { ts c with
       ctxs := List.replicate 14 c, tiles := [{ num := 0, msgq := [tmsg] }], regs := { State.reset.regs with savepool := 0x100000000000 } }
     s.ctxs.find? (fun c => c.key == s.sel.ctx && c.stopped && !c.evicted && s.slotWanted c.key.tile) = some c ∧ s.freeSave = some 0) ∧
    (let s := { State.reset with ticks := 125000 }
     s.balancedAt + bitsOf s.regs.balctl.toNat 39 8 ≤ s.ticks) :=
  ⟨by decide, by decide +kernel, by decide +kernel, by decide +kernel, by decide +kernel, by decide +kernel, by decide +kernel⟩

/-- A command at the head of the matrix queue, a bank to load again, a running walk, a counted touch and its notice. -/
theorem witness_MemorySystemEvents_matrix_and_walks :
    (let m := newCmd tc 0 .mbswap 0
     let s := ({ ts tc with tiles := [{ num := 0, mq := [m] }] } : State).refillQueue 0
     (s.tile s.sel.a).mq = [m] ∧ s.member? m.task m.rank = some tc ∧ (runCmd s tc m).isSome = true) ∧
    ((ts (tmx 2)).ctx? (ts (tmx 2)).sel.ctx = some (tmx 2) ∧ replayBank (ts (tmx 2)) (tmx 2) (ts (tmx 2)).sel.flag = some (tbank 2)) ∧
    (let w : Walk := { page := 0, waiters := [(.ctx tc.key, 0)], slack := 0, overdue := false, running := true, die := 0, level := 4, table := 0x2000 }
     let s := { tx tc [] with xlat := { State.reset.xlat with walks := [w] } }
     s.xlat.walks.find? (fun w => w.is s.sel.b s.sel.a && w.running && s.packetsDone (.walk w.die w.page)) = some w) ∧
    (let t : Touch := { id := 0, die := 0, slot := 0, va := 0, size := 0x10000, mode := 0, tier := 0 }
     let s := { tx tc [] with xlat := { State.reset.xlat with touches := [t] } }
     s.xlat.touches.find? (fun t => t.die == s.sel.a && s.packetsDone (.touch t.id)) = some t ∧ s.counterFits t.slot = true) ∧
    (let n : Notice := { id := 0, die := 0, slot := 0, va := 0, mode := 0, tier := 0, count := 1, cycle := 0 }
     let s := { tx tc [] with xlat := { State.reset.xlat with notices := [n] } }
     s.xlat.notices.find? (fun n => n.die == s.sel.a) = some n ∧ s.ringRoom = true ∧ s.packetsDone (.note n.id) = true) :=
  ⟨by decide +kernel, by decide +kernel, by decide +kernel, by decide +kernel, by decide +kernel⟩

/-- Migrations before and after the page's switch, one that a writer has blocked too long, and read errors of a mapped page. -/
theorem witness_MemorySystemEvents_pages :
    (∀ st ∈ [1, 4], ∀ n ∈ [0, 2 ^ 24], let m := { tmig none with step := st, line := n }
      let s := { tx tc [] with xlat := { State.reset.xlat with micro := [{ unit := 0, leaf := tgiga }], migrations := [m] } }
      s.xlat.migrations.find? (fun m => m.leaf.va == s.sel.a && m.status.isNone) = some m ∧ (∀ r ∈ s.xlat.retries, m.leaf.hasByte (65536 * r.page) = false) ∧
        m.leaf.tier ≠ 2 ∧ s.pageInUse m.leaf.va m.leaf.size = false ∧ (if n = 0 then 64 * m.line < m.leaf.size else m.leaf.size ≤ 64 * m.line) ∧
        s.meshFull (dieAnchor 0) = false ∧ s.packetsDone (.migration m.leaf.va) = true) ∧
    (let m := { tmig none with blocked := some (0, none) }
     let s := { tx tc [] with ticks := 125001, xlat := { State.reset.xlat with micro := [{ unit := 0, leaf := tgiga }], migrations := [m] } }
     s.xlat.migrations.find? (fun m => m.leaf.va == s.sel.a && !m.told && m.status.isNone) = some m ∧ m.blocked = some (0, none) ∧ 0 + 125000 < s.ticks) ∧
    (let r : Retry := { page := 0, access := none }
     let s := { tx tc [] with xlat := { State.reset.xlat with micro := [{ unit := 0, leaf := tgiga }], retries := [r] } }
     s.xlat.retries = [r] ∧ s.walkAll (s.sel.a * 65536) = .leaf tgiga ∧
       ({ s with xlat := { s.xlat with retries := [] } } : State).walkAll (r.page * 65536) = .leaf tgiga) :=
  ⟨by decide +kernel, by decide +kernel, by decide +kernel⟩

/-- Base-die commands with a row to do and with none, with and without a refresh due; a malformed write; a stack that changes its rate. -/
theorem witness_MemorySystemEvents_base_dies :
    (∀ n ∈ [0, 1],
      let p : Packet :=
        { owner := .basedie 0, vc := 2, slack := 5, overdue := false, flits := 2, route := [], goal := chanArbiter 0 0, port := 0, arrived := 0, source := 0,
          reply := some 1, back := [] }
      let s := { tbds 1 [] with packets := [p], bd := { (tbds 1 []).bd with chans := [{ stack := 0, chan := 0, refreshDue := n, ratio := 0 }] } }
      s.engineHead s.sel.b s.sel.c = some p ∧ p.command = s.sel.a ∧ s.draining s.sel.b s.sel.c = false ∧
        (s.stackChan s.sel.b s.sel.c).refreshDue = n ∧ s.sel.a < 8 ∧ s.sel.b < 32 ∧ s.engineHead s.sel.a s.sel.b = some p) ∧
    (let m := { tbd with left := [] }
     let s := { tbds 0 [] with bd := { State.reset.bd with cmds := [m] } }
     s.bd.cmds.find? (fun m => m.id == s.sel.a) = some m ∧ s.member? m.task m.rank = some tc ∧ s.bdReady tc m = true ∧
       s.sel.flag = s.packetsOverdue (.basedie m.id) ∧ (placeBd s tc m).isOk = true ∧ s.engineHead s.sel.a s.sel.b = none) ∧
    (let m := { tbd with left := [], writes := [(0x8000000040000000, [1])] }
     let w := fun (a : List Answer) =>
       ({ tbds 0 [] with bd := { State.reset.bd with cmds := [m] }, sel := { selCtx tc.key with c := fcUNMAPPED },
                         xlat := { State.reset.xlat with answers := a } } : State)
     let s := w [{ who := .work 0, page := 0x4000, found := .unmapped }]
     s.bd.cmds.find? (fun m => m.id == s.sel.a) = some m ∧ s.member? m.task m.rank = some tc ∧ s.sel.c ≠ 0 ∧ s.bdFault tc m = s.sel.c ∧
       (w []).bdReady tc m = true ∧ (match placeBd (w []) tc m with
         | .error (.note _) => true
         | _ => false) = true) ∧
    (let s := { tbds 0 [] with bd := { State.reset.bd with target := [1, 0, 0, 0, 0, 0, 0, 0] } }
     s.sel.a < 8 ∧ s.sel.b < 32 ∧ s.draining s.sel.a s.sel.b = true) ∧
    (let s := { tbds 0 [] with sel := { selCtx tc.key with b := 1 } }
     s.sel.a < 8 ∧ s.sel.b < 4 ∧ s.bd.target.getD s.sel.a 0 < s.sel.b) :=
  ⟨by decide +kernel, by decide +kernel, by decide +kernel, by decide +kernel, by decide +kernel⟩

/-- Package 0 of a pod of two, at pod time 4000. -/
def tlk : State := { State.reset with podtime := 4000, regs := { State.reset.regs with podsize := 2 } }
def tpr (k : PeerKind) (d : Option Nat) : PeerReq :=
  { id := 0, kind := k, domain := d, package := 1, rank := 0, steps := 0, prior := 0, phys := 0, va := 0, len := 8, data := List.replicate 8 0, slack := 0,
    overdue := false }

/-- A slot, a flit's link, a dark wavelength, a flit to resend, a relayed packet, a silent peer, requests that are served and held, one that is late. -/
theorem witness_LinkEvents : tlk.regs.podsize ≠ 0 ∧ tlk.fab.slotStarted ≠ some (tlk.podtime / 250) ∧ tlk.isPeer 1 = true ∧
    ({ podtime := 0, package := 1, locked := true, quota := 8 } : SlotControl).locked = true ∧
    (let k := directLink 1 0
     let s := { tlk with sel := { State.reset.sel with a := k.1, b := 1 } }
     s.sel.a < 32 ∧ s.isPeer s.sel.b = true ∧ sendsOn s.sel.b s.regs.podpackage s.sel.a = true) ∧
    (let k := directLink 1 0
     let s := { tlk with sel := { State.reset.sel with a := k.1, b := 15, c := 1 } }
     s.sel.a < 32 ∧ s.sel.b < 16 ∧ s.isPeer s.sel.c = true ∧ sendsOn s.sel.c s.regs.podpackage s.sel.a = true ∧
       (s.linkTo s.sel.c).rmask.testBit s.sel.b = true ∧ (s.linkTo s.sel.c).rdark.testBit s.sel.b = false) ∧
    (let s := { tlk with fab := { State.reset.fab with links := [{ port := 0, slot := 0, replay := [{ seq := 0, wavelength := 0, sentAt := 0, slack := 0, overdue := false, content := none }] }] } }
     s.replayDue (s.link s.sel.a s.sel.b) = true) ∧
    (let p : RelayPacket := { src := 1, dst := 2, flits := 1, slack := 0, overdue := false, payload := [] }
     let k := directLink 0 1
     let s := { tlk with
       regs := { tlk.regs with podsize := 3 }, fab := { State.reset.fab with links := [{ port := k.1, slot := k.2, quotaOut := 1 }] } }
     s.isPeer p.src = true ∧ s.isPeer p.dst = true ∧ p.flits ≤ (s.linkTo p.src).quotaOut) ∧
    ({ tlk with sel := { State.reset.sel with a := 1 } } : State).peerSilent 1 = true ∧ (tlk.servePeer (tpr .read none)).isSome = true ∧
    ((tpod []).servePeer (tpr .read (some 0))).isSome = true ∧ ((tpod []).servePeer (tpr .write (some 0))).isSome = true ∧
    tlk.servePeer (tpr .read (some 0)) = none ∧ tpr .read (some 0) ∉ tlk.fab.heldReqs ∧
    (let q : RemoteReq := { num := 0, id := 5, ctx := tc.key, peer := 1, deadline := 0, channel := none, phys := 0, len := 8, write := false, fill := none,
                            req := tpr .read none, slack := 0, lost := false, got := none }
     let s := { tpod [] with ctxs := [{ tpc with outstanding := [ttok []] }], fab := { State.reset.fab with requests := [q] } }
     s.fab.requests.find? (fun q => q.num == s.sel.a && s.requestLate q) = some q) :=
  ⟨by decide, by decide, by decide, rfl, by decide +kernel, by decide +kernel, by decide +kernel, by decide +kernel, by decide +kernel, by decide +kernel,
    by decide +kernel, by decide +kernel, by decide +kernel, by decide, by decide +kernel⟩

/-- A share of a domain that is bound and of one that is not, a contribution, a result, bytes of an FSEND, one acknowledged and one that has not been. -/
theorem witness_FabricEvents_steps_and_sends : (tpod []).domain? 5 0 0 = some tpd ∧ (tpod []).domain? 5 0 1 = none ∧ tpd.complete = true ∧
    tpd.root = (tpod []).regs.podpackage ∧ 1 ∈ tpd.participants ∧ (∀ x ∈ tpd.contribs, x.package ≠ 1) ∧
    (let d := { tpd with sent := true }
     let s := { tpod [] with domains := [d], regs := { (tpod []).regs with podpackage := 1 } }
     s.domain? 5 0 0 = some d ∧ d.root ≠ s.regs.podpackage ∧ s.commitBlocked d = false ∧ ∀ c ∈ s.membersOf d, c.stopped = false) ∧
    tpd.task ≠ 0 ∧ 0 ≤ tpd.counter ∧ 0 ≤ (tpod []).peerReceived 1 0 0 ∧
    (let s := { tpod [] with fab := { State.reset.fab with fsends := [{ tsend with acked := true }] } }
     s.fab.fsends.find? (fun m => m.id == s.sel.a && m.acked && m.bad == 0 && s.packetsDone (.reply m.id)) = some { tsend with acked := true }) ∧
    (let s := { tpod [] with fab := { State.reset.fab with fsends := [tsend] }, sel := { (tpod []).sel with c := fcPEER } }
     s.fab.fsends.find? (fun m => m.id == s.sel.a && !m.acked && m.bad == 0) = some tsend ∧ s.sel.c = fcPEER ∧ tsend.deadline ≤ s.ticks) :=
  ⟨rfl, rfl, by decide +kernel, by decide +kernel, by decide +kernel, by decide, by decide +kernel, by decide, by decide, by decide, by decide, by decide⟩

/-- A posted reduction of one element at its root, of two nodes, and a packet of it. -/
def tpk : CollPacket :=
  { id := { domain := 0, key := 7, step := 0 }, digest := 0, route := [], fromNode := 1, isResult := false, mismatch := false, chunk := 0, data := [1],
    slack := 0, overdue := false }
def tcl : Coll :=
  { idx := 0, id := tpk.id, ctx := tpc.key, task := 1, rank := 0, supervisor := false, kind := 0, type := 0, op := 0, count := 1, chunk := 1,
    nodes := [{ inputs := [0x3FE, 1], parent := 0x1FF, package := 0 }, { inputs := [0x3FE], parent := 0, package := 1 }], self := 0, src := [1],
    dst := 0x8000000000010000, slack := 0, digest := 0, area := [], areaMax := 0x10000, folds := [], result := [], sentUp := [], flags := 0, status := none,
    overdue := false, bad := 0, held := false }
def tfc (cs : List Coll) : State :=
  { tpod [] with regs := { (tpod []).regs with collcfg := 0x100000000000 }, fab := { State.reset.fab with colls := cs } }

/-- A packet for a posted collective, one that comes early, a collective that can complete, and one whose packet does not agree with it. -/
theorem witness_FabricEvents_collectives :
    (tfc [tcl]).fab.colls.find? (fun m => m.id == tpk.id) = some tcl ∧ ((tfc [tcl]).offerColl tcl tpk).isSome = true ∧
    (∀ m ∈ (tfc []).fab.colls, m.id ≠ tpk.id) ∧ (tfc []).staleColl tpk = false ∧
    packetBytes 4 ((tfc []).fab.early ++ [tpk]) ≤ bitsOf (tfc []).regs.collcfg.toNat 63 44 * 65536 ∧
    (let m := { tcl with result := [(0, [1])], sentUp := [0] }
     let s := tfc [m]
     s.fab.colls.find? (fun m => m.idx == s.sel.a) = some m ∧ s.member? m.task m.rank = some tpc ∧ s.collReady m = true ∧ s.sel.flag = m.overdue ∧
       (placeColl s tpc m).isOk = true) ∧
    (let m := { tcl with area := [{ tpk with digest := 1 }] }
     (tfc [m]).fab.colls.find? (fun m => m.idx == 0 && m.mismatched) = some m) :=
  ⟨by decide +kernel, by decide +kernel, by decide, by decide +kernel, by decide +kernel, by decide +kernel, by decide +kernel⟩

/-- A token of another package for this one, and an admission before each of its rounds and at its end. -/
def trt : RToken :=
  { domain := 0, dstPkg := 0, srcPkg := 1, rank := 0, batch := 0, list := 0, position := 0, id := 0, gate := 0, len := 1, slot1 := 0, pkg2 := 0, slot2 := 0,
    nosecond := false, overflowed := none, bounced := none, data := [], supervisor := false, slack := 0, overdue := false }
def tadm (round : Nat) (done1 done2 : List Nat) : Admission :=
  { domain := 0, packages := [0, 1], round := round, closed := [], forwarded := [trt], done1 := done1, done2 := done2, told := [], slots := [] }
def tad (a : Admission) (p : Nat) : State :=
  { tpod [] with regs := { (tpod []).regs with rtcfg := 0x100000000000 }, fab := { State.reset.fab with holding := [trt], admissions := [a] },
                 sel := { (tpod []).sel with b := 1, c := p } }

theorem witness_FabricEvents_routing : trt.dstPkg = (tpod []).regs.podpackage ∧ trt.srcPkg ≠ (tpod []).regs.podpackage ∧
    (tad (tadm 0 [] []) 0).holdRoom [trt] = true ∧
    (let a := tadm 0 [] []
     let s := tad a 0
     s.fab.admissions.find? (fun a => a.domain == s.sel.a && a.round == 0) = some a ∧ s.domain? 5 0 s.sel.a = some tpd ∧
       (roundOne tpd (canonical (a.held s.fab.holding))
         ({ x := { s := s, base := s, told := a.told }, a := { a with slots := (List.range 64).map s.slotEntry }, bounced := [] }, [])).isOk = true) ∧
    (∀ p ∈ [0, 1], let a := tadm 2 [] []
     let s := tad a p
     s.fab.admissions.find? (fun a => a.domain == s.sel.a) = some a ∧ s.sel.b ∈ a.packages ∧ s.sel.b ∉ (if s.sel.c = 1 then a.done2 else a.done1) ∧
       s.holdRoom ([trt].filter fun t => t.bounced.isNone) = true) ∧
    (let a := tadm 2 [0, 1] []
     let s := tad a 0
     (∀ p ∈ a.packages, p ∈ a.done1) ∧
       (roundTwo tpd (canonical a.forwarded) { x := { s := s, base := s, told := a.told }, a := a, bounced := [] }).isOk = true) ∧
    (let a := tadm 3 [0, 1] [0, 1]
     let s := tad a 0
     (∀ p ∈ a.packages, p ∈ a.done2) ∧
       (writeBounces tpd s.regs.podpackage (s.fab.lists.filter fun l =>
         l.domain == tpd.id && l.closed && a.closed.contains (s.regs.podpackage, l.rank, l.batch)) { s := s, base := s, told := a.told }).isOk = true) :=
  ⟨by decide, by decide, by decide +kernel, by decide +kernel, by decide +kernel, by decide +kernel, by decide +kernel⟩

/-- A package whose host link is up and which is ready; the same before its link is trained, with work and checks in progress, and with a unit to test. -/
def tho (h : HostLink) : State := { State.reset with host := h }
def thup : HostLink := { State.reset.host with linkUp := true, ready := true }

theorem witness_HostEvents_link : (tho thup).host.linkUp = true ∧ (tho thup).host.bar2base + 0 + 64 ≤ 2 ^ 39 ∧
    2 ^ 39 < ({ thup with bar2base := 2 ^ 38 } : HostLink).bar2base + 2 ^ 38 + 1 ∧ ((tho thup).hostMessage 0 (List.replicate 32 0)).isSome = true ∧
    ((tho thup).hostMessage 1 (List.replicate 32 0)).isSome = true ∧ ((tho { thup with ready := false }).hostMessage 0 []).isSome = true ∧
    (tho { thup with ready := false }).host.ready = false ∧ (tho thup).host.ready = true ∧ (tho thup).host.fwStatus ≠ 3 ∧
    (∀ o ∈ [0, 8, 0x1000, 0x1020, 0x2010, 0x3020, 0x10400], isRegister o = true ∧ o % 8 = 0) ∧ isRegister 0x20 = false ∧
    (∀ o ∈ [0, 2 ^ 26 - 8], o + (List.replicate 8 (0 : Byte)).length ≤ 2 ^ 26) ∧
    (let s := tho { thup with evwait := [List.replicate 64 0] }
     s.host.evwait = [List.replicate 64 0] ∧ s.eventRoom = true) :=
  ⟨rfl, by decide, by decide, by decide +kernel, by decide +kernel, by decide +kernel, rfl, rfl, by decide, by decide, by decide, by decide, by decide +kernel⟩

theorem witness_HostEvents_firmware_and_power :
    (let s := tho { State.reset.host with started := true }
     s.host.linkUp = false ∧ s.host.started = true ∧ s.host.pendingStacks.testBit s.sel.a = true ∧ s.host.pendingDies.testBit s.sel.a = true) ∧
    (let s := tho { thup with fwJob := some 0, att := 1 }
     s.host.fwJob = some 0 ∧ s.host.att = 1) ∧
    (let s := { tho { thup with clockStep := 1, calibrated := 0 } with ticks := 12500000 }
     s.sel.a < 4 ∧ s.host.calibrated < s.host.clockStep ∧ s.host.hotAt + 100 * 125000 ≤ s.ticks) :=
  ⟨by decide, by decide, by decide⟩

/-- The words that stand at the pc in the two states of withFetchWord, a privileged word in supervisor mode, and an undefined opcode. -/
theorem witness_StepRunsTheDecodedInstruction : ∀ x ∈ [(0x0840106400000005, false, false), (0xFFC0C00000030000, true, false), (0xF120178000000008, false, true),
      (0x0300000000000000, false, false)],
    let s0 := State.reset.withFetchWord 64 x.1
    let s := { s0 with ctxs := s0.ctxs.map fun (c : Ctx) => ({ c with supervisor := x.2.2 } : Ctx) }
    s.off = false ∧ s.clocked = none ∧ (match pickAction s.free s.actions with
      | some (.issue k) => (match s.ctx? k with
        | some c => !c.follower && !c.deliverable && s.buffered c c.pc == some (BitVec.ofNat 64 x.1) && c.atHeader == x.2.1 && c.want.isSome && (decode (BitVec.ofNat 64 x.1)).isOk &&
            (!wordPrivileged (BitVec.ofNat 64 x.1) || c.supervisor)
        | none => false)
      | _ => false) = true := by decide +kernel

/-- The encoder gives the words of the encoding tables, which the decode tests read back; memory after reset has its form and a step is taken from there. -/
theorem witness_DecodeAndEncodeAgree : (encode (.addi { h := uni, dst := .s 12, a := .s 12, imm := -1 }) == some 0x0840118467FFFFFF) = true ∧
    (Instr.addi { h := uni, dst := .s 12, a := .s 12, imm := -1 }).wf = true := by decide +kernel

theorem witness_StepsKeepMemoryCanonical : State.reset.mem.wf = true ∧ (match step State.reset with
    | .next _ => true
    | _ => false) = true ∧ (match step (State.reset.withFetchWord 64 0x0840106400000005) with
    | .next _ => true
    | _ => false) = true := by decide +kernel

/-- An instruction that is done, one that jumps, and one whose switch marker waits for a result. -/
theorem witness_FinishOfAnInstruction : let d : Done := { s := ts tc, c := tc }
    let e : Done := { s := ts tc, c := { tc with outstanding := [ttok []] } }
    d.left = false ∧ d.c.live = [] ∧ d.c.badToken = none ∧ d.c.faulted = none ∧ e.left = false ∧ e.jump = none ∧ e.ends = false ∧
    ({ uni with sw := true } : Common).sw = true ∧ e.c.live ≠ [] ∧ ({ tc with wait := .drain tc.pc } : Ctx).wait = .drain tc.pc := by decide +kernel

/-- ADD, CMP and FADD go on from the small state to the next word. -/
theorem witness_RegisterInstructionFrame : tc.rf.wf = true ∧
    ∀ i ∈ [Instr.add (fa uni (.s 3) (.s 1) (.s 2) .zero 0), .por (fa uni (.p 1) (.p 2) (.p 3) .zero 0), .fadd (fa uni (.s 3) (.s 1) (.s 2) .zero 4)],
      i.wf = true ∧ (match exec i (ts tc) with
        | .next t => (match t.ctx? (ts tc).sel.ctx with
          | some d => d.pc == tc.pc + 8 && d.uleActive == tc.uleActive
          | none => false)
        | _ => false) = true := by decide +kernel

/-- Values and lane elements are written to registers of each class, and p0 discards. -/
theorem witness_RegisterWrites : tc.rf.wf = true ∧ tc.loc (.s 3) = some (tc.sloc 3) ∧ (∀ x, ∃ d, writeVal (ts tc) tc (.s 3) x = .ok d) ∧
    (∀ x, ∃ d, writeVal (ts tc) tc (.p 3) x = .ok d) ∧ (∀ x, ∃ d, writeVal (ts tc) tc (.p 0) x = .ok d) ∧ tc.loc (.v 3) = some (tc.vloc 3) ∧
    Free (ts tc) tc (tc.sloc 3) 8 ∧ Free (ts tc) tc (tc.vloc 3) 256 ∧ tc.loc (.p 3) = some (tc.ploc 3) ∧ Free (ts tc) tc (tc.ploc 3) 8 ∧
    tc.awaits (tc.ploc 3) 8 = false ∧
    ∀ n ∈ [8, 16, 32], (List.replicate (2048 / n) 0).length = 2048 / n ∧ (∀ x ∈ List.replicate (2048 / n) 0, x < 2 ^ n) ∧
      ∀ xs, ∃ d, writeElems (ts tc) tc (.v 3) n ones xs = .ok d :=
  ⟨rfl, rfl, fun _ => ⟨_, rfl⟩, fun _ => ⟨_, rfl⟩, fun _ => ⟨_, rfl⟩, rfl, ⟨rfl, rfl⟩, ⟨rfl, rfl⟩, rfl, ⟨rfl, rfl⟩, rfl, fun n h => by
    refine ⟨List.length_replicate .., fun x hx => ?_, ?_⟩
    · rw [List.eq_of_mem_replicate hx]; exact Nat.two_pow_pos n
    · simp only [List.mem_cons, List.not_mem_nil, or_false] at h
      rcases h with h | h | h <;> subst h <;> exact fun _ => ⟨_, rfl⟩⟩

/-- A guard p1 that is zero. -/
theorem witness_FailedGuards : let h : Common := { uni with pred := 1 }
    Issues (ts tc) tc h [.s 1, .s 2] 0 ∧ Issues (ts tc) tc h [.s 1] 0 ∧ Issues (ts tc) tc h [.p 1, .p 2] 0 ∧ (0 : Word).getLsbD 0 = false ∧ Falls (ts tc) tc ∧
    ∀ i ∈ [Instr.add (fa h (.s 3) (.s 1) (.s 2) .zero 0), .pand (fa h (.p 3) (.p 1) (.p 2) .zero 0), .mov (fa h (.s 3) (.s 1) .zero .zero 0),
      .pmov (fa h (.p 3) (.p 1) .zero .zero 0)], i.wf = true :=
  ⟨⟨rfl, rfl, rfl⟩, ⟨rfl, rfl, rfl⟩, ⟨rfl, rfl, rfl⟩, rfl, falls_of_middle _ _ rfl, by decide⟩

/-- A fault that waits for a result, one that is delegated and one that is not. -/
theorem witness_TakingAFault : ({ tc with outstanding := [ttok []] } : Ctx).live ≠ [] ∧
    ∀ e ∈ [true, false], let c := { tc with uleEn := e, fltdlg := BitVec.ofNat 64 (2 ^ fcUNMAPPED) }
      c.live = [] ∧ (ts c).member? c.task c.rank = some c ∧ c.rf.wf = true ∧ c.wait = .none ∧ c.delegates fcUNMAPPED = e := by decide +kernel

end Sys2Proof.Tests
end

section
/-! PROOFS. The arithmetic of the integer instructions in the words of bit vectors: what each element function of the model gives for elements that
are bit vectors (R150-R166). -/

namespace Sys2Proof.Machine

open Sys2Proof.Claims

/-! ### Numbers of n bits -/

/-- The signed reading of a number is that of its low bits. -/
theorem signedOf_eq_toInt (n x : Nat) : signedOf n x = (BitVec.ofNat n x).toInt := by
  rw [BitVec.toInt_eq_toNat_cond, BitVec.toNat_ofNat, signedOf]
  cases n with
  | zero => simp [Nat.mod_one]
  | succ n =>
    have hlt : x % 2 ^ (n + 1) < 2 ^ n ↔ 2 * (x % 2 ^ (n + 1)) < 2 ^ (n + 1) := by omega
    simp [hlt]

@[simp] theorem signedOf_toNat {n : Nat} (x : BitVec n) : signedOf n x.toNat = x.toInt := by
  rw [signedOf_eq_toInt, BitVec.ofNat_toNat, BitVec.setWidth_eq]

theorem wrapTo_eq_toNat (n : Nat) (v : Int) : wrapTo n v = (BitVec.ofInt n v).toNat := by
  rw [BitVec.toNat_ofInt, wrapTo]
  norm_cast

/-- A number of n bits is its own residue. -/
theorem wrapTo_of_lt {n k : Nat} (h : k < 2 ^ n) : wrapTo n (k : Int) = k := by
  rw [wrapTo]
  exact_mod_cast Nat.mod_eq_of_lt h

theorem readInt_eq_value (n : Nat) (u : Bool) (x : Nat) : readInt n u x = value n u x := by
  simp [readInt, value, signedOf_eq_toInt]

theorem value_signed_toNat {n : Nat} (x : BitVec n) : value n false x.toNat = x.toInt := by
  rw [← readInt_eq_value, readInt, if_neg (by simp), signedOf_toNat]

/-- A uniform destination holds a result as R150 says. -/
theorem extendTo_eq_widen (n : Nat) (zero : Bool) (r : Nat) : extendTo n zero r = widen n zero r := by
  cases zero with
  | false => simp [extendTo, widen, sext64, signedOf_eq_toInt, BitVec.signExtend]
  | true => simp [extendTo, widen, ← BitVec.toNat_inj]

/-- The model wraps and clamps as R68 and R151 say. -/
theorem fitInt_eq_fit (n : Nat) (u sat : Bool) (v : Int) : fitInt n u sat v = fit n u sat v := by
  have hpos : (0 : Int) < 2 ^ n := by positivity
  have hhalf : (0 : Int) < 2 ^ (n - 1) := by positivity
  simp only [fitInt, fit, wrapTo_eq_toNat]
  generalize hlo : (if u = true then (0 : Int) else -2 ^ (n - 1)) = lo
  generalize hhi : (if u = true then (2 : Int) ^ n - 1 else 2 ^ (n - 1) - 1) = hi
  have hle : lo ≤ hi := by cases u <;> simp at hlo hhi <;> omega
  by_cases hin : lo ≤ v ∧ v ≤ hi
  · simp [hin, flagIf, not_lt.mpr hin.1, not_lt.mpr hin.2]
  · have hclamp : (if v < lo then lo else if hi < v then hi else v) = max lo (min hi v) := by split_ifs <;> omega
    have hout : (decide (v < lo) || decide (hi < v)) = true := by simp; omega
    simp [hin, hclamp, hout, flagIf]

/-! ### Products and quotients -/

theorem mulHigh_signed {n : Nat} (x y : BitVec n) : mulHigh n false x.toNat y.toNat = (BitVec.ofInt n (x.toInt * y.toInt / 2 ^ n)).toNat := by
  simp [mulHigh, readInt, wrapTo_eq_toNat]

/-- The high half of a product has n bits. -/
theorem mul_div_two_pow_lt {n : Nat} (x y : BitVec n) : x.toNat * y.toNat / 2 ^ n < 2 ^ n :=
  Nat.div_lt_of_lt_mul (Nat.mul_lt_mul'' x.isLt y.isLt)

theorem mulHigh_unsigned {n : Nat} (x y : BitVec n) : mulHigh n true x.toNat y.toNat = x.toNat * y.toNat / 2 ^ n := by
  simp only [mulHigh, readInt, if_true]
  exact_mod_cast wrapTo_of_lt (mul_div_two_pow_lt x y)

theorem toNat_eq_zero_iff {n : Nat} (y : BitVec n) : y.toNat = 0 ↔ y = 0 := by rw [← BitVec.toNat_inj]; rfl

theorem divInt_unsigned {n : Nat} (isRem : Bool) (x y : BitVec n) :
    divInt n true isRem x.toNat y.toNat =
      if y = 0 then (if isRem then x.toNat else (BitVec.allOnes n).toNat, flagDZ)
      else (if isRem then x.toNat % y.toNat else x.toNat / y.toNat, 0) := by
  have hq : x.toNat / y.toNat < 2 ^ n := lt_of_le_of_lt (Nat.div_le_self ..) x.isLt
  have hr : x.toNat % y.toNat < 2 ^ n := lt_of_le_of_lt (Nat.mod_le ..) x.isLt
  by_cases hy : y = 0
  · simp [divInt, hy, BitVec.toNat_allOnes]
  · have hy' : y.toNat ≠ 0 := mt (toNat_eq_zero_iff y).mp hy
    rw [if_neg hy]
    cases isRem with
    | false => simpa [divInt, hy', readInt] using wrapTo_of_lt hq
    | true => simpa [divInt, hy', readInt, ← Int.ofNat_tmod] using wrapTo_of_lt hr

/-- The smallest number divided by -1 wraps to itself. -/
theorem ofInt_neg_toInt_intMin (n : Nat) : BitVec.ofInt n (-(BitVec.intMin n).toInt) = BitVec.intMin n := by
  rw [BitVec.ofInt_neg, BitVec.ofInt_toInt, BitVec.neg_intMin]

/-- The operands that R155 names are the one quotient outside the signed range. -/
theorem overflows_iff {n : Nat} (hn : 0 < n) (x y : BitVec n) :
    (x.toNat = 2 ^ (n - 1) ∧ y.toNat = 2 ^ n - 1) ↔ x = BitVec.intMin n ∧ y = BitVec.allOnes n := by
  have hmod : 2 ^ (n - 1) % 2 ^ n = 2 ^ (n - 1) := Nat.mod_eq_of_lt (Nat.pow_lt_pow_right (by omega) (by omega))
  rw [← BitVec.toNat_inj, ← BitVec.toNat_inj, BitVec.toNat_intMin, BitVec.toNat_allOnes, hmod]

theorem divInt_signed {n : Nat} (hn : 0 < n) (isRem : Bool) (x y : BitVec n) :
    divInt n false isRem x.toNat y.toNat =
      if y = 0 then (if isRem then x.toNat else (BitVec.allOnes n).toNat, flagDZ)
      else if isRem then ((BitVec.ofInt n (x.toInt.tmod y.toInt)).toNat, 0)
      else ((BitVec.ofInt n (x.toInt.tdiv y.toInt)).toNat, if x = BitVec.intMin n ∧ y = BitVec.allOnes n then flagIOV else 0) := by
  by_cases hy : y = 0
  · simp [divInt, hy, BitVec.toNat_allOnes]
  · simp only [divInt, toNat_eq_zero_iff, hy, if_false, Bool.not_false, Bool.true_and, Bool.and_eq_true, beq_iff_eq, overflows_iff hn]
    by_cases hover : x = BitVec.intMin n ∧ y = BitVec.allOnes n
    · obtain ⟨rfl, rfl⟩ := hover
      have hneg : (BitVec.allOnes n).toInt = -1 := by simp [BitVec.toInt_allOnes, hn]
      cases isRem <;> simp [flagIf, hneg, ofInt_neg_toInt_intMin]
    · cases isRem <;> simp [hover, readInt, wrapTo_eq_toNat]

/-! ### Shifts, rotation and extremes -/

theorem shlInt_eq_fit (n : Nat) (u sat : Bool) (x y : Nat) : shlInt n u sat x y = fit n u sat (value n u x * 2 ^ (y % n)) := by
  rw [shlInt, fitInt_eq_fit, readInt_eq_value]

theorem sarInt_toNat {n : Nat} (x : BitVec n) (y : Nat) : sarInt n x.toNat y = (x.sshiftRight (y % n)).toNat := by
  simp [sarInt, wrapTo_eq_toNat, BitVec.sshiftRight, Int.shiftRight_eq_div_pow]

theorem rolInt_toNat {n : Nat} (hn : 0 < n) (x : BitVec n) (y : Nat) : rolInt n x.toNat y = (x.rotateLeft (y % n)).toNat := by
  have hk : y % n < n := Nat.mod_lt _ hn
  have hdisjoint : x <<< (y % n) &&& x >>> (n - y % n) = 0#n := by
    ext i hi
    by_cases hik : i < y % n
    · simp [hik]
    · simp [BitVec.getLsbD_of_ge x (n - y % n + i) (by omega)]
  rw [BitVec.rotateLeft_def, Nat.mod_mod, ← BitVec.add_eq_or_of_and_eq_zero _ _ hdisjoint]
  simp [rolInt, Nat.shiftLeft_eq, Nat.shiftRight_eq_div_pow]

/-- The smaller of two numbers, or the larger (R158). -/
theorem minMaxInt_signed {n : Nat} (isMax : Bool) (x y : BitVec n) :
    minMaxInt false isMax n x.toNat y.toNat =
      (if x.toInt ≤ y.toInt then (if isMax then y else x) else (if isMax then x else y)).toNat := by
  rcases lt_trichotomy x.toInt y.toInt with h | h | h
  · cases isMax <;> simp [minMaxInt, h, h.le]
  · simp [minMaxInt, BitVec.toInt_inj.mp h]
  · cases isMax <;> simp [minMaxInt, h.not_gt, h.not_ge]

theorem minMaxInt_unsigned (isMax : Bool) (n x y : Nat) : minMaxInt true isMax n x y = if isMax then max x y else min x y := by
  simp only [minMaxInt, if_true]
  by_cases h : x < y
  · cases isMax <;> simp [h, h.le]
  · cases isMax <;> simp [h, not_lt.mp h]

/-! ### Counts and reversal -/

theorem bitAt_eq_testBit (x k : Nat) : bitAt x k = x.testBit k := by
  rw [bitAt, Nat.shiftRight_eq_div_pow, Nat.testBit_eq_decide_div_mod_eq]
  rfl

theorem popcount_eq_length_filter (x : Nat) : ∀ n, popcount n x = ((List.range n).filter fun k => x.testBit k).length
  | 0 => rfl
  | n + 1 => by
    rw [popcount, popcount_eq_length_filter x n, List.range_succ, List.filter_append, List.length_append, bitAt_eq_testBit]
    cases hb : x.testBit n <;> simp [hb, b2n, Nat.add_comm]

theorem popcount_le (n x : Nat) : popcount n x ≤ n := by
  rw [popcount_eq_length_filter]
  simpa using List.length_filter_le (fun k => x.testBit k) (List.range n)

theorem clzInt_eq_sub_size : ∀ (n : Nat) {x : Nat}, x < 2 ^ n → clzInt n x = n - Nat.size x
  | 0, _, _ => by simp [clzInt]
  | n + 1, x, hx => by
    rw [clzInt, bitAt_eq_testBit]
    by_cases hlt : x < 2 ^ n
    · have hsize : Nat.size x ≤ n := Nat.size_le.mpr hlt
      rw [Nat.testBit_lt_two_pow hlt, if_neg (by simp), clzInt_eq_sub_size n hlt]
      omega
    · have hsize : ¬ Nat.size x ≤ n := fun h => hlt (Nat.size_le.mp h)
      rw [Nat.testBit_of_two_pow_le_and_two_pow_add_one_gt (not_lt.mp hlt) hx, if_pos rfl]
      omega

theorem brevInt_lt : ∀ (n x : Nat), brevInt n x < 2 ^ n
  | 0, _ => by simp [brevInt]
  | n + 1, x => by
    have hrest : brevInt n (x / 2) < 2 ^ n := brevInt_lt n (x / 2)
    cases hb : bitAt x 0 <;> simp [brevInt, hb, b2n] <;> omega

/-- The lowest bit of a number comes to the top of its reversal. -/
theorem testBit_brevInt_succ (n x k : Nat) : (brevInt (n + 1) x).testBit k =
    if k < n then (brevInt n (x / 2)).testBit k else (b2n (x.testBit 0)).testBit (k - n) := by
  rw [brevInt, bitAt_eq_testBit, Nat.mul_comm, Nat.testBit_two_pow_mul_add _ (brevInt_lt n _)]

theorem testBit_brevInt : ∀ (n x k : Nat), (brevInt n x).testBit k = (decide (k < n) && x.testBit (n - 1 - k))
  | 0, x, k => by simp [brevInt]
  | n + 1, x, k => by
    rcases lt_trichotomy k n with h | rfl | h
    · have hk : n - k = n - 1 - k + 1 := by omega
      rw [testBit_brevInt_succ, if_pos h, testBit_brevInt n, Nat.testBit_div_two, ← hk]
      simp [h, Nat.lt_succ_of_lt h]
    · cases hb : x.testBit 0 <;> simp [testBit_brevInt_succ, hb, b2n]
    · have hlt : brevInt (n + 1) x < 2 ^ k := lt_of_lt_of_le (brevInt_lt ..) (Nat.pow_le_pow_right (by decide) h)
      rw [Nat.testBit_lt_two_pow hlt, decide_eq_false (by omega), Bool.false_and]

theorem brevInt_toNat {n : Nat} (x : BitVec n) : brevInt n x.toNat = x.reverse.toNat :=
  Nat.eq_of_testBit_eq fun k => by rw [testBit_brevInt, BitVec.testBit_toNat, BitVec.testBit_toNat, BitVec.getLsbD_reverse, BitVec.getMsbD]

/-- The zeros below the lowest one of a number: none if its bit 0 is set, else one more than in the number without that bit. -/
theorem ctzInt_succ (n x : Nat) : ctzInt (n + 1) x = if x.testBit 0 then 0 else 1 + ctzInt n (x / 2) := by
  rw [ctzInt, clzInt, bitAt_eq_testBit, testBit_brevInt]
  cases hb : x.testBit 0 <;> simp [hb, ctzInt, brevInt, bitAt_eq_testBit, b2n]

theorem ctzInt_eq_length_takeWhile : ∀ (n x : Nat), ctzInt n x = ((List.range n).takeWhile fun k => !x.testBit k).length
  | 0, _ => rfl
  | n + 1, x => by
    rw [ctzInt_succ, ctzInt_eq_length_takeWhile n, List.range_succ_eq_map, List.takeWhile_cons, List.takeWhile_map]
    cases x.testBit 0 <;> simp [Function.comp_def, Nat.testBit_succ, Nat.add_comm]

theorem ctzInt_le (n x : Nat) : ctzInt n x ≤ n := by
  rw [ctzInt_eq_length_takeWhile]
  simpa using (List.takeWhile_prefix (fun k => !x.testBit k) (l := List.range n)).length_le

/-! ### Bit fields -/

/-- A field is no wider than its element. -/
theorem mod_two_pow_min_lt (f len n : Nat) : f % 2 ^ min len n < 2 ^ n :=
  lt_of_lt_of_le (Nat.mod_lt _ (Nat.two_pow_pos _)) (Nat.pow_le_pow_right (by decide) (min_le_right ..))

theorem bfxInt_unsigned (n x y z : Nat) : bfxInt n false x y z = x / 2 ^ (y % 256) % 2 ^ min (z % 256) n := by
  simp [bfxInt]

/-- A number of len bits is negative where its highest bit is set. -/
theorem toInt_ofNat_eq_bitAt (len f : Nat) : (BitVec.ofNat len f).toInt =
    if len ≠ 0 ∧ bitAt (f % 2 ^ len) (len - 1) = true then ((f % 2 ^ len : Nat) : Int) - 2 ^ len else ((f % 2 ^ len : Nat) : Int) := by
  rw [BitVec.toInt_eq_msb_cond, BitVec.msb_eq_getLsbD_last, BitVec.toNat_ofNat, bitAt_eq_testBit, BitVec.getLsbD_ofNat]
  cases len with
  | zero => simp
  | succ len => simp [Nat.testBit_mod_two_pow]

theorem bfxInt_signed (n x y z : Nat) :
    bfxInt n true x y z % 2 ^ n = ((BitVec.ofNat (min (z % 256) n) (x / 2 ^ (y % 256))).signExtend n).toNat := by
  rw [BitVec.signExtend, toInt_ofNat_eq_bitAt]
  simp only [bfxInt, Bool.true_and, Bool.and_eq_true, bne_iff_ne]
  split_ifs with hneg
  · rw [wrapTo_eq_toNat, Nat.mod_eq_of_lt (BitVec.isLt _)]
  · rw [BitVec.ofInt_natCast, BitVec.toNat_ofNat]

/-- What a number keeps outside a mask. -/
theorem toNat_sub_and {n : Nat} (d m : BitVec n) : d.toNat - (d &&& m).toNat = (d &&& ~~~m).toNat := by
  have hdisjoint : (d &&& ~~~m) &&& (d &&& m) = 0#n := by
    ext i hi
    cases hm : m[i] <;> simp [hm]
  have hsum : (d &&& ~~~m) + (d &&& m) = d := by
    rw [BitVec.add_eq_or_of_and_eq_zero _ _ hdisjoint]
    ext i hi
    cases hm : m[i] <;> simp [hm]
  have hle : d &&& m ≤ d := by
    rw [BitVec.le_def, BitVec.toNat_and]
    exact Nat.and_le_left
  rw [← BitVec.toNat_sub_of_le hle]
  congr 1
  exact (eq_sub_of_add_eq hsum).symm

theorem bfiInt_toNat {n : Nat} (d x : BitVec n) (y z : Nat) :
    bfiInt n d.toNat x.toNat y z =
      (d &&& ~~~(BitVec.ofNat n (2 ^ min (z % 256) n - 1) <<< (y % 256)) |||
        x <<< (y % 256) &&& BitVec.ofNat n (2 ^ min (z % 256) n - 1) <<< (y % 256)).toNat := by
  have hmask : (2 ^ min (z % 256) n - 1) * 2 ^ (y % 256) % 2 ^ n = (BitVec.ofNat n (2 ^ min (z % 256) n - 1) <<< (y % 256)).toNat := by
    simp [Nat.shiftLeft_eq]
  rw [bfiInt]
  simp only [hmask]
  generalize BitVec.ofNat n (2 ^ min (z % 256) n - 1) <<< (y % 256) = m
  have hfield : Nat.land (x.toNat * 2 ^ (y % 256)) m.toNat = (x <<< (y % 256) &&& m).toNat := by
    have hlt : x.toNat * 2 ^ (y % 256) &&& m.toNat < 2 ^ n := lt_of_le_of_lt Nat.and_le_right m.isLt
    rw [BitVec.toNat_and, BitVec.toNat_shiftLeft, Nat.shiftLeft_eq, ← Nat.mod_eq_of_lt m.isLt, ← Nat.and_mod_two_pow,
      Nat.mod_eq_of_lt m.isLt, Nat.mod_eq_of_lt hlt]
    rfl
  rw [hfield, BitVec.toNat_or, ← toNat_sub_and]
  rfl

end Sys2Proof.Machine
end

section
/-! PROOFS. From the model's function of an instruction to what it computes element by element (R136, R149, R150). -/

namespace Sys2Proof.Machine

theorem spread_lt {w x n : Nat} : ∀ e ∈ spread w x n, e < 2 ^ w := fun e he => by
  rw [List.eq_of_mem_replicate he]
  exact Nat.mod_lt _ (Nat.two_pow_pos w)

theorem splitElems_lt {w x n : Nat} : ∀ e ∈ splitElems w x n, e < 2 ^ w := fun e he => by
  obtain ⟨i, -, rfl⟩ := List.mem_map.mp he
  exact Nat.mod_lt _ (Nat.two_pow_pos w)

/-- The elements of a lane source have its width (R81). -/
theorem readElems_lt {c : Ctx} {w : Nat} {o : Operand} {l : List Nat} (h : readElems c w o = .ok l) : ∀ e ∈ l, e < 2 ^ w := by
  cases o with
  | v k | o k =>
    obtain ⟨b, -, hl⟩ := try_bind_eq_ok h
    obtain rfl := Except.ok.inj hl
    exact splitElems_lt
  | s k | p k | a k =>
    obtain ⟨b, -, hl⟩ := try_bind_eq_ok h
    obtain rfl := Except.ok.inj hl
    exact spread_lt
  | const k =>
    obtain rfl := Except.ok.inj h
    exact spread_lt
  | latch =>
    rw [readElems] at h
    split at h
    · obtain rfl := Except.ok.inj h
      exact splitElems_lt
    · obtain rfl := Except.ok.inj h
      exact spread_lt
    · cases h

/-- Each of the values that a list of sources gives is the value of one of them. -/
theorem exists_of_mem_mapM {α β : Type} {f : α → Try β} :
    ∀ {l : List α} {r : List β}, l.mapM f = .ok r → ∀ y ∈ r, ∃ x ∈ l, f x = .ok y
  | [], r, h, y, hy => by
    obtain rfl := Except.ok.inj h
    cases hy
  | x :: l, r, h, y, hy => by
    rw [List.mapM_cons] at h
    obtain ⟨b, hb, h⟩ := try_bind_eq_ok h
    obtain ⟨bs, hbs, h⟩ := try_bind_eq_ok h
    obtain rfl := Except.ok.inj h
    rcases List.mem_cons.mp hy with rfl | hy
    · exact ⟨x, List.mem_cons_self, hb⟩
    · obtain ⟨x', hx', hf⟩ := exists_of_mem_mapM hbs y hy
      exact ⟨x', List.mem_cons_of_mem _ hx', hf⟩

end Sys2Proof.Machine

namespace Sys2Proof.Claims

open Sys2Proof.Machine

/-- An element that has n bits, as a bit vector. -/
theorem getD_eq_toNat_el {n : Nat} {l : List Nat} (hl : ∀ x ∈ l, x < 2 ^ n) (k : Nat) : l.getD k 0 = (el n l k).toNat := by
  rw [el, BitVec.toNat_ofNat, Nat.mod_eq_of_lt]
  rcases lt_or_ge k l.length with h | h
  · rw [List.getD_eq_getElem _ _ h]
    exact hl _ (List.getElem_mem h)
  · rw [List.getD_eq_default _ _ h]
    exact Nat.two_pow_pos n

/-- An instruction that the model computes with op computes f, if op and f agree on elements of n bits. -/
theorem elementwise_of_eq {i : Instr} {h : Common} {dst : Operand} {srcs : List Operand} {n : Nat} {zero : Bool} {op f : List Nat → Nat × Nat}
    (hexec : i.wf = true → ∀ s, exec i s = runElems s h dst srcs n op (extendTo n zero))
    (hop : ∀ l : List Nat, (∀ x ∈ l, x < 2 ^ n) → op l = f l) : Elementwise i h dst srcs n zero f := by
  intro hwf s c g hI hfall
  obtain ⟨hc, hlatch, hg⟩ := hI
  refine ⟨fun hu h0 xs hxs c' hw => ?_, fun hu ls hls c' hw => ?_⟩
  · have hagree : op (xs.map fun x => x.toNat % 2 ^ n) = f (xs.map fun x => x.toNat % 2 ^ n) := hop _ fun x hx => by
      obtain ⟨y, -, rfl⟩ := List.mem_map.mp hx
      exact Nat.mod_lt _ (Nat.two_pow_pos n)
    rw [Completes, hexec hwf, runElems_uniform hu hc hlatch hg h0 hxs (by rw [hagree, extendTo_eq_widen]; exact hw) hfall, hagree]
  · have hagree : ∀ e, op (ls.map fun l => l.getD e 0) = f (ls.map fun l => l.getD e 0) := fun e => hop _ fun x hx => by
      obtain ⟨l, hl, rfl⟩ := List.mem_map.mp hx
      obtain ⟨o, -, ho⟩ := exists_of_mem_mapM hls l hl
      rw [getD_eq_toNat_el (readElems_lt ho)]
      exact BitVec.isLt _
    rw [Completes, hexec hwf, runElems_lane hu hc hlatch hg hls (by simpa only [hagree] using hw) hfall]
    simp only [hagree]

/-- The integer type codes are 0 to 3 (R83). -/
theorem intWidth_eq_width {t : Nat} (h : t ≤ 3) : intWidth t = width t := by
  interval_cases t <;> rfl

theorem width_pos (t : Nat) : 0 < width t := Nat.two_pow_pos _

/-- A well-formed integer instruction of two sources has one of the integer type codes (R149). -/
theorem typ_le_of_intBin {w : FormA} {o : Bool} (h : (w.h.ok && w.intBin && o) = true) : w.typ ≤ 3 := by
  simp only [FormA.intBin, FormA.intTypes, Bool.and_eq_true, decide_eq_true_eq] at h
  tauto

theorem typ_le_of_intTer {w : FormA} {o : Bool} (h : (w.h.ok && w.intTer && o) = true) : w.typ ≤ 3 := by
  simp only [FormA.intTer, FormA.intTypes, Bool.and_eq_true, decide_eq_true_eq] at h
  tauto

theorem typ_le_of_intUn {w : FormA} {o : Bool} (h : (w.h.ok && w.intUn && o) = true) : w.typ ≤ 3 := by
  simp only [FormA.intUn, FormA.intTypes, Bool.and_eq_true, decide_eq_true_eq] at h
  tauto

/-- An integer instruction of Form A computes f, if the model's function agrees with f on elements of its width (R150). -/
theorem elementwise_of_runInt {i : Instr} {w : FormA} {srcs : List Operand} {zero : Bool} {op : Nat → List Nat → Nat × Nat}
    {f : List Nat → Nat × Nat} (hwf : i.wf = true → w.typ ≤ 3) (hexec : ∀ s, exec i s = runInt s w srcs zero op)
    (hop : ∀ l : List Nat, (∀ x ∈ l, x < 2 ^ width w.typ) → op (width w.typ) l = f l) : Elementwise i w.h w.dst srcs (width w.typ) zero f :=
  elementwise_of_eq (fun h s => by rw [hexec, runInt, intWidth_eq_width (hwf h)]) hop

/-- An instruction of R152 on exact numbers computes the exact result of its sources in their signedness, and fits it into its width. -/
theorem elementwise_of_runExact {i : Instr} {w : FormA} {srcs : List Operand} {op : Int → Int → Int → Int}
    (hwf : i.wf = true → w.typ ≤ 3) (hexec : ∀ s, exec i s = runExact s w srcs op) :
    Elementwise i w.h w.dst srcs (width w.typ) (w.mod.getLsbD 5) fun l =>
      let x := fun k => value (width w.typ) (w.mod.getLsbD 5) (l.getD k 0)
      fit (width w.typ) (w.mod.getLsbD 5) (w.mod.getLsbD 6) (op (x 0) (x 1) (x 2)) :=
  elementwise_of_runInt hwf hexec fun l _ => by simp only [fitInt_eq_fit, readInt_eq_value, optU, optSat]

/-- An instruction on bits, which sets no flag, computes f if the low bits of the model's number are those of f. -/
theorem elementwise_of_runBits {i : Instr} {w : FormA} {srcs : List Operand} {zero : Bool} {op : Nat → Nat → Nat → Nat → Nat}
    {f : List Nat → Nat} (hwf : i.wf = true → w.typ ≤ 3) (hexec : ∀ s, exec i s = runBits s w srcs zero op)
    (hop : ∀ l : List Nat,
      op (width w.typ) (el (width w.typ) l 0).toNat (el (width w.typ) l 1).toNat (el (width w.typ) l 2).toNat % 2 ^ width w.typ = f l) :
    Elementwise i w.h w.dst srcs (width w.typ) zero fun l => (f l, 0) :=
  elementwise_of_runInt hwf hexec fun l hl => by
    simp only [getD_eq_toNat_el hl]
    rw [hop]

/-- As elementwise_of_runBits, where f gives a bit vector of the width. -/
theorem elementwise_of_runBits_toNat {i : Instr} {w : FormA} {srcs : List Operand} {zero : Bool} {op : Nat → Nat → Nat → Nat → Nat}
    {f : List Nat → BitVec (width w.typ)} (hwf : i.wf = true → w.typ ≤ 3) (hexec : ∀ s, exec i s = runBits s w srcs zero op)
    (hop : ∀ l : List Nat,
      op (width w.typ) (el (width w.typ) l 0).toNat (el (width w.typ) l 1).toNat (el (width w.typ) l 2).toNat = (f l).toNat) :
    Elementwise i w.h w.dst srcs (width w.typ) zero fun l => ((f l).toNat, 0) :=
  elementwise_of_runBits hwf hexec fun l => by rw [hop, Nat.mod_eq_of_lt (BitVec.isLt _)]

theorem runImm_eq_runElems (s : State) (w : FormI) (op : Nat → Nat → Nat → Nat × Nat) (zero : Bool) :
    runImm s w op zero = runElems s w.h w.dst [w.a] (immWidth w)
      (fun l => op (immWidth w) (l.getD 0 0) (immOf w (immWidth w)).toNat) (extendTo (immWidth w) zero) := by
  simp only [runImm, immOf, BitVec.signExtend, wrapTo_eq_toNat, immWidth]

/-- A Form I instruction computes f, if the model's function agrees with f on elements of its width and the immediate of that width (R159). -/
theorem elementwise_of_runImm {i : Instr} {w : FormI} {zero : Bool} {op : Nat → Nat → Nat → Nat × Nat} {f : List Nat → Nat × Nat}
    (hexec : ∀ s, exec i s = runImm s w op zero)
    (hop : ∀ l : List Nat, op (immWidth w) (el (immWidth w) l 0).toNat (immOf w (immWidth w)).toNat = f l) :
    Elementwise i w.h w.dst [w.a] (immWidth w) zero f :=
  elementwise_of_eq (fun _ s => by rw [hexec, runImm_eq_runElems]) fun l hl => by rw [getD_eq_toNat_el hl, hop]

end Sys2Proof.Claims
end

section
/-! PROOFS. The integer instructions (R149-R166). -/

namespace Sys2Proof.Claims

open Sys2Proof.Machine

/-- Settles O1: each instruction is its element function on exact numbers, and that function is the model's. -/
theorem integerArithmetic : Obligations.IntegerArithmetic := by
  unfold Obligations.IntegerArithmetic
  refine ⟨⟨fun w => ⟨?_, ?_, ?_, ?_⟩, fun w => ⟨?_, ?_⟩⟩, fun w => ⟨?_, ?_, ?_, ?_, ?_, ?_⟩⟩
  · exact elementwise_of_runExact (op := fun x y _ => x + y) typ_le_of_intBin (exec_add w)
  · exact elementwise_of_runExact (op := fun x y _ => x - y) typ_le_of_intBin (exec_sub w)
  · exact elementwise_of_runExact (op := fun x y _ => x * y) typ_le_of_intBin (exec_mul w)
  · exact elementwise_of_runExact (op := fun x y z => x * y + z) typ_le_of_intTer (exec_mad w)
  · exact elementwise_of_runImm (exec_addi w) fun l => by simp only [fitInt_eq_fit, signedOf_toNat]
  · exact elementwise_of_runImm (exec_muli w) fun l => by simp only [fitInt_eq_fit, signedOf_toNat]
  · exact elementwise_of_runBits_toNat typ_le_of_intBin (exec_mulhi w) fun l => mulHigh_signed _ _
  · exact elementwise_of_runBits typ_le_of_intBin (exec_mulhu w) fun l => by
      rw [mulHigh_unsigned, Nat.mod_eq_of_lt (mul_div_two_pow_lt _ _)]
  · exact elementwise_of_runInt typ_le_of_intBin (exec_divu w) fun l hl => by
      simp only [getD_eq_toNat_el hl, divInt_unsigned, Bool.false_eq_true, if_false]
  · exact elementwise_of_runInt typ_le_of_intBin (exec_remu w) fun l hl => by
      simp only [getD_eq_toNat_el hl, divInt_unsigned, if_true]
  · exact elementwise_of_runInt typ_le_of_intBin (exec_div w) fun l hl => by
      simp only [getD_eq_toNat_el hl, divInt_signed (width_pos w.typ), Bool.false_eq_true, if_false]
  · exact elementwise_of_runInt typ_le_of_intBin (exec_rem w) fun l hl => by
      simp only [getD_eq_toNat_el hl, divInt_signed (width_pos w.typ), if_true]

/-- Settles O2: each instruction's function on bit vectors is the model's, whose shifts take their amount modulo the width too. -/
theorem integerLogicShiftsAndExtremes : Obligations.IntegerLogicShiftsAndExtremes := by
  unfold Obligations.IntegerLogicShiftsAndExtremes
  refine ⟨fun w => ⟨?_, ?_, ?_⟩, fun w => ⟨?_, ?_, ?_, ?_, ?_, ?_, ?_, ?_, ?_, ?_⟩⟩
  · exact elementwise_of_runBits_toNat typ_le_of_intBin (exec_and w) fun l => rfl
  · exact elementwise_of_runBits_toNat typ_le_of_intBin (exec_or w) fun l => rfl
  · exact elementwise_of_runBits_toNat typ_le_of_intBin (exec_xor w) fun l => rfl
  · exact elementwise_of_runInt typ_le_of_intBin (exec_shl w) fun l hl => by simp only [getD_eq_toNat_el hl, shlInt_eq_fit, optU, optSat]
  · exact elementwise_of_runBits_toNat typ_le_of_intBin (exec_shr w) fun l => by rw [BitVec.toNat_ushiftRight, Nat.shiftRight_eq_div_pow]
  · exact elementwise_of_runBits_toNat typ_le_of_intBin (exec_sar w) fun l => sarInt_toNat _ _
  · exact elementwise_of_runBits_toNat typ_le_of_intBin (exec_rol w) fun l => rolInt_toNat (width_pos w.typ) _ _
  · exact elementwise_of_runBits_toNat typ_le_of_intBin (exec_min w) fun l => minMaxInt_signed false _ _
  · exact elementwise_of_runBits_toNat typ_le_of_intBin (exec_max w) fun l => minMaxInt_signed true _ _
  · exact elementwise_of_runBits typ_le_of_intBin (exec_minu w) fun l => by
      rw [minMaxInt_unsigned, if_neg Bool.false_ne_true, Nat.mod_eq_of_lt (min_lt_of_left_lt (BitVec.isLt _))]
  · exact elementwise_of_runBits typ_le_of_intBin (exec_maxu w) fun l => by
      rw [minMaxInt_unsigned, if_pos rfl, Nat.mod_eq_of_lt (max_lt (BitVec.isLt _) (BitVec.isLt _))]
  · exact elementwise_of_runInt typ_le_of_intUn (exec_abs w) fun l hl => by
      simp only [getD_eq_toNat_el hl, fitInt_eq_fit, signedOf_toNat, Int.natCast_natAbs, optSat]
  · exact elementwise_of_runBits typ_le_of_intTer (exec_lea w) fun l => by simp [Nat.shiftLeft_eq, FormA.opt]

/-- Settles O3: the model's recursions over the width count and reverse the bits that the statement names, and a Form I
instruction computes the function of its Form A instruction on its immediate. -/
theorem integerFieldsAndImmediates : Obligations.IntegerFieldsAndImmediates := by
  unfold Obligations.IntegerFieldsAndImmediates
  refine ⟨fun w => ⟨?_, ?_, ?_, ?_, ?_, ?_, ?_⟩, fun w => ⟨?_, ?_, ?_, ?_, ?_, ?_⟩⟩
  · exact elementwise_of_runBits typ_le_of_intUn (exec_popc w) fun l => by
      rw [Nat.mod_eq_of_lt (lt_of_le_of_lt (popcount_le _ _) Nat.lt_two_pow_self), popcount_eq_length_filter]
      simp only [BitVec.testBit_toNat]
  · exact elementwise_of_runBits typ_le_of_intUn (exec_clz w) fun l => by
      rw [clzInt_eq_sub_size _ (BitVec.isLt _), Nat.mod_eq_of_lt (lt_of_le_of_lt (Nat.sub_le _ _) Nat.lt_two_pow_self)]
  · exact elementwise_of_runBits typ_le_of_intUn (exec_ctz w) fun l => by
      rw [Nat.mod_eq_of_lt (lt_of_le_of_lt (ctzInt_le _ _) Nat.lt_two_pow_self), ctzInt_eq_length_takeWhile]
      simp only [BitVec.testBit_toNat]
  · exact elementwise_of_runBits_toNat typ_le_of_intUn (exec_brev w) fun l => brevInt_toNat _
  · exact elementwise_of_runBits typ_le_of_intTer (exec_bfxu w) fun l => by
      rw [bfxInt_unsigned, Nat.mod_eq_of_lt (mod_two_pow_min_lt _ _ _)]
  · exact elementwise_of_runBits typ_le_of_intTer (exec_bfx w) fun l => by rw [bfxInt_signed]
  · exact elementwise_of_runInt typ_le_of_intTer (exec_bfi w) fun l hl => by simp only [getD_eq_toNat_el hl, bfiInt_toNat]
  · exact elementwise_of_runImm (exec_andi w) fun l => rfl
  · exact elementwise_of_runImm (exec_ori w) fun l => rfl
  · exact elementwise_of_runImm (exec_xori w) fun l => rfl
  · exact elementwise_of_runImm (exec_shli w) fun l => by rw [shlInt_eq_fit, value_signed_toNat]
  · exact elementwise_of_runImm (exec_shri w) fun l => by rw [BitVec.toNat_ushiftRight, Nat.shiftRight_eq_div_pow]
  · exact elementwise_of_runImm (exec_sari w) fun l => by rw [sarInt_toNat]

end Sys2Proof.Claims
end

section
/-! PROOFS. STEPRD, ABORTRD, DOMBIND and DOMBIND.FREE (R263-R267). -/

namespace Sys2Proof.Machine

/-- A zero result field names no result: only the latch is emptied (R263). -/
theorem writeOpt_of_noResult {s : State} {c : Ctx} {o : Operand} (h : noResult o = true) (x : Word) :
    writeOpt s c o x = .ok c.clearLatch := if_pos h

/-- Only a pod domain has announcements to be examined when it is bound (R390). -/
theorem podBound_of_level_ne {s : State} {d : Domain} (h : d.level ≠ 5) : s.podBound d = s := if_pos h

/-- The domain below pod level that DOMBIND makes of a binding word and a task identifier (R267). -/
def newDomain (s : State) (b : Nat) (tid : BitVec 32) : Domain :=
  { level := b % 8, unit := bitsOf b 21 12, id := bitsOf b 11 8, task := ((s.tasks.find? fun x => x.tid == tid).map fun x => x.num).getD 0,
    tid := tid, members := bitsOf b 53 32 }

/-- The machine without the domain d: pod tokens and early packets of domains that are no longer bound are dropped (R267). -/
def State.unbind (s : State) (d : Domain) : State :=
  let ds := s.domains.filter fun e => !d.is e
  let bound := fun (n : Nat) => ds.any fun e => e.level == 5 && e.id == n
  { s with domains := ds, fab := { s.fab with holding := s.fab.holding.filter fun t => bound t.domain,
                                              early := s.fab.early.filter fun p => bound p.id.domain } }

end Sys2Proof.Machine

namespace Sys2Proof.Claims

open Sys2Proof.Machine

/-- A uniform instruction that fires completes with the state and the record that its body leaves. -/
theorem completes_of_uniform {i : Instr} {s t : State} {c d : Ctx} {h : Common} {ops : List Operand} {priv : Bool} {dst : Option Operand}
    {body : State → Ctx → Try Done} (hexec : exec i s = runUniform s h priv dst ops body) (hF : Fires s c h ops)
    (hp : priv = true → c.supervisor = true) (hbody : body s c = .ok { s := t, c := d }) : Completes i s c h t d := by
  rw [Completes, hexec]
  exact uni_ok hF hp hbody

/-! ### Reading the step's state -/

section
variable {w : FormX} {s : State} {c c' : Ctx} (hF : Fires s c w.h [])
include hF

theorem completes_steprd (hw : writeOpt s c w.a (if c.bound (w.sub.toNat % 8) then BitVec.ofNat 64 (c.snapshot.getD (w.sub.toNat % 8 - 1) 0)
    else BitVec.allOnes 64) = .ok c') : Completes (.steprd w) s c w.h s c' :=
  completes_of_uniform (exec_steprd w s) hF (by simp) (by simp only [hw, try_bind_ok, try_pure])

theorem completes_abortrd (hw : writeOpt s c w.a (c.report.getD (w.sub.toNat % 4) 0) = .ok c') : Completes (.abortrd w) s c w.h s c' :=
  completes_of_uniform (exec_abortrd w s) hF (by simp) (by simp only [hw, try_bind_ok, try_pure])

end

/-! ### Binding a domain -/

section
variable {w : FormX} {s : State} {c c' : Ctx} {b t : Word} (hp : c.supervisor = true) (hF : Fires s c w.h [w.b, w.c])
  (hb : readVal c w.b = .ok b) (ht : readVal c w.c = .ok t)
include hp hF hb ht

theorem completes_dombind_of_bad (hbad : bindingBad s b.toNat false = true) (hw : writeOpt s c w.a 2#64 = .ok c') :
    Completes (.dombind w) s c w.h s c' :=
  completes_of_uniform (exec_dombind w s) hF (fun _ => hp) (by simp [hb, ht, hbad, hw])

theorem completes_dombind_of_taken (hbad : bindingBad s b.toNat false = false) (htaken : (bindingDomain s b.toNat).isSome = true)
    (hw : writeOpt s c w.a 1#64 = .ok c') : Completes (.dombind w) s c w.h s c' :=
  completes_of_uniform (exec_dombind w s) hF (fun _ => hp) (by simp [hb, ht, hbad, htaken, hw])

theorem completes_dombind_of_free (hbad : bindingBad s b.toNat false = false) (hfree : bindingDomain s b.toNat = none)
    (hlevel : b.toNat % 8 ≠ 5) (hw : writeOpt s c w.a 0#64 = .ok c') :
    Completes (.dombind w) s c w.h { s with domains := s.domains ++ [newDomain s b.toNat (t.setWidth 32)] } c' :=
  completes_of_uniform (exec_dombind w s) hF (fun _ => hp)
    (by simp [hb, ht, hbad, hfree, hw, hlevel, podBound_of_level_ne, newDomain])

end

/-! ### Freeing a domain -/

section
variable {w : FormX} {s : State} {c c' : Ctx} {b : Word} (hp : c.supervisor = true) (hF : Fires s c w.h [w.b])
  (hb : readVal c w.b = .ok b) (hbad : bindingBad s b.toNat true = false)
include hp hF hb hbad

theorem completes_dombindFree_of_unbound (hfree : bindingDomain s b.toNat = none) (hw : writeOpt s c w.a 1#64 = .ok c') :
    Completes (.dombindFree w) s c w.h s c' :=
  completes_of_uniform (exec_dombindFree w s) hF (fun _ => hp) (by simp [hb, hbad, hfree, hw])

theorem completes_dombindFree_of_arrival {d : Domain} (hd : bindingDomain s b.toNat = some d) (harrival : s.hasArrival d = true)
    (hw : writeOpt s c w.a 3#64 = .ok c') : Completes (.dombindFree w) s c w.h s c' :=
  completes_of_uniform (exec_dombindFree w s) hF (fun _ => hp) (by simp [hb, hbad, hd, harrival, hw])

theorem completes_dombindFree_of_bound {d : Domain} (hd : bindingDomain s b.toNat = some d) (harrival : s.hasArrival d = false)
    (hw : writeOpt s c w.a 0#64 = .ok c') : Completes (.dombindFree w) s c w.h (s.unbind d) c' :=
  completes_of_uniform (exec_dombindFree w s) hF (fun _ => hp) (by simp [hb, hbad, hd, harrival, hw, State.unbind])

end

/-- Settles O11: each status of DOMBIND and of DOMBIND.FREE has its branch of the body, and a domain below pod level is bound without
the announcements of other packages. -/
theorem stepStateAndDomains : Obligations.StepStateAndDomains := by
  unfold Obligations.StepStateAndDomains
  refine ⟨fun w s c c' hF => ⟨completes_steprd hF, completes_abortrd hF, fun hno => ⟨?_, ?_⟩⟩,
    fun w s c c' b hp hb => ⟨fun t hF ht => ⟨?_, ?_, ?_⟩, fun hF hbad => ⟨?_, fun d hd => ⟨?_, ?_⟩⟩⟩⟩
  · exact completes_steprd hF (writeOpt_of_noResult hno _)
  · exact completes_abortrd hF (writeOpt_of_noResult hno _)
  · exact completes_dombind_of_bad hp hF hb ht
  · exact completes_dombind_of_taken hp hF hb ht
  · intro hbad hfree hlevel hw
    exact ⟨newDomain s b.toNat (t.setWidth 32), rfl, rfl, rfl, rfl, rfl, rfl, rfl, rfl,
      completes_dombind_of_free hp hF hb ht hbad hfree hlevel hw⟩
  · exact completes_dombindFree_of_unbound hp hF hb hbad
  · exact completes_dombindFree_of_arrival hp hF hb hbad hd
  · exact fun harrival hw => ⟨s.unbind d, rfl, rfl, rfl, completes_dombindFree_of_bound hp hF hb hbad hd harrival hw⟩

end Sys2Proof.Claims
end

section
/-! PROOFS. The decoder and the encoder (R72-R86): the fields of a word, and the tables of opcodes. -/

namespace Sys2Proof

/-! ### Words cut into fields -/

/-- A word is two parts joined if they are its upper and its lower bits. -/
theorem append_eq_iff {m n : Nat} {x : BitVec m} {y : BitVec n} {w : BitVec (m + n)} :
    x ++ y = w ↔ x = w.extractLsb' n m ∧ y = w.extractLsb' 0 n := by
  constructor
  · rintro rfl
    exact ⟨BitVec.extractLsb'_append_eq_left.symm, BitVec.extractLsb'_append_eq_right.symm⟩
  · rintro ⟨rfl, rfl⟩
    exact BitVec.extractLsb'_append_extractLsb'

/-- A field of a field is a field of the word. -/
theorem extractLsb'_of_extractLsb' {n a b c d : Nat} (w : BitVec n) (h : a + b ≤ d) :
    (w.extractLsb' c d).extractLsb' a b = w.extractLsb' (c + a) b := by
  ext k hk
  simp [show a + k < d by omega, Nat.add_assoc]

/-- The opcode of a word (R77). -/
def opcodeOf (w : Word) : Nat := (w.extractLsb' 54 10).toNat

theorem ofNat_eq_opcode_iff {w : Word} {op : Nat} (h : op < 1024) : BitVec.ofNat 10 op = w.extractLsb' 54 10 ↔ opcodeOf w = op := by
  rw [opcodeOf, ← BitVec.toNat_inj, BitVec.toNat_ofNat, Nat.mod_eq_of_lt h, eq_comm]

/-- A number below 16 and the field of four bits that holds it. -/
theorem ofNat_eq_iff_fin (x : BitVec 4) (n : Fin 16) : BitVec.ofNat 4 n.val = x ↔ Fin.ofNat 16 x.toNat = n := by
  rw [← BitVec.toNat_inj, Fin.ext_iff, BitVec.toNat_ofNat, Fin.val_ofNat, Nat.mod_eq_of_lt n.isLt, Nat.mod_eq_of_lt x.isLt, eq_comm]

theorem ofBool_eq_extractLsb'_iff (w : Word) (k : Nat) (b : Bool) : BitVec.ofBool b = w.extractLsb' k 1 ↔ w.getLsbD k = b := by
  have hbit : w.getLsbD k = (w.extractLsb' k 1).getLsbD 0 := by simp
  rw [hbit]
  generalize w.extractLsb' k 1 = x
  decide +revert

theorem Common.ofWord_eq_iff {w : Word} {h : Common} : Common.ofWord w = h ↔
    w.getLsbD 53 = h.sw ∧ Fin.ofNat 16 (w.extractLsb' 49 4).toNat = h.pred ∧ w.getLsbD 48 = h.inv ∧ w.getLsbD 47 = h.lane := by
  cases h
  simp [Common.ofWord]

/-- The common fields and the opcode of a packed word are those given, and its other bits the form's (R77). -/
theorem packWord_eq_iff {op : Nat} {h : Common} {body : BitVec 47} {w : Word} (hop : op < 1024) :
    packWord op h body = w ↔ opcodeOf w = op ∧ Common.ofWord w = h ∧ body = w.extractLsb' 0 47 := by
  rw [packWord, append_eq_iff, append_eq_iff, append_eq_iff, append_eq_iff, append_eq_iff]
  simp only [extractLsb'_of_extractLsb', Nat.reduceAdd, Nat.reduceLeDiff, Common.ofWord_eq_iff, ← ofNat_eq_opcode_iff hop, ← ofNat_eq_iff_fin,
    ← ofBool_eq_extractLsb'_iff, and_assoc]

/-! ### Operand fields -/

@[simp] theorem Operand.ofField_toField (o : Operand) : Operand.ofField o.toField = some o := by
  cases o with
  | v n => decide +revert
  | p n => decide +revert
  | s n => decide +revert
  | a n => decide +revert
  | o n => decide +revert
  | latch => rfl
  | const n =>
    have h : (0x300 + n.toNat) % 1024 = 0x300 + n.toNat := Nat.mod_eq_of_lt (by have := n.isLt; omega)
    have hq : (0x300 + n.toNat) / 256 = 3 := by have := n.isLt; omega
    have hr : (0x300 + n.toNat) % 256 = n.toNat := by have := n.isLt; omega
    simp [Operand.ofField, Operand.toField, h, hq, hr]

/-- An operand field names one operand, whose field it is (R79). -/
theorem Operand.ofField_eq_some_iff {x : BitVec 10} {o : Operand} : Operand.ofField x = some o ↔ o.toField = x := by
  constructor
  · intro h
    have hx : x.toNat < 1024 := x.isLt
    have hsplit : x.toNat = 256 * (x.toNat / 256) + x.toNat % 256 := (Nat.div_add_mod ..).symm
    have hi : x.toNat % 256 < 256 := Nat.mod_lt _ (by decide)
    rw [← BitVec.toNat_inj]
    unfold Operand.ofField at h
    dsimp only at h
    split at h
    · split_ifs at h <;> obtain rfl := Option.some.inj h <;> (simp [Operand.toField]; omega)
    · split_ifs at h
      obtain rfl := Option.some.inj h
      simp [Operand.toField]
      omega
    · split_ifs at h
      obtain rfl := Option.some.inj h
      simp [Operand.toField]
      omega
    · next h0 h1 h2 =>
      have hq : x.toNat / 256 = 3 := by
        have : x.toNat / 256 ≠ 0 := h0
        have : x.toNat / 256 ≠ 1 := h1
        have : x.toNat / 256 ≠ 2 := h2
        omega
      obtain rfl := Option.some.inj h
      simp [Operand.toField]
      omega
  · rintro rfl
    exact Operand.ofField_toField o

/-! ### The fields of the forms -/

/-- The 47 bits of a form (R78). -/
def FormA.body (f : FormA) : BitVec 47 := f.dst.toField ++ f.a.toField ++ f.b.toField ++ f.c.toField ++ f.mod
def FormI.body (f : FormI) : BitVec 47 := f.dst.toField ++ f.a.toField ++ f.imm
def FormW.body (f : FormW) : BitVec 47 := f.dst.toField ++ f.imm ++ f.mod
def FormM.body (f : FormM) : BitVec 47 := f.data.toField ++ f.base.toField ++ f.off ++ f.slack ++ f.mod
def FormX.body (f : FormX) : BitVec 47 := f.a.toField ++ f.b.toField ++ f.c.toField ++ f.sub
def FormB.body (f : FormB) : BitVec 47 := f.off ++ f.mod

theorem FormA.ofWord_eq_some_iff {w : Word} {f : FormA} :
    FormA.ofWord w = some f ↔ Common.ofWord w = f.h ∧ f.body = w.extractLsb' 0 47 := by
  rw [FormA.body, append_eq_iff, append_eq_iff, append_eq_iff, append_eq_iff]
  simp only [extractLsb'_of_extractLsb', Nat.reduceAdd, Nat.reduceLeDiff, ← Operand.ofField_eq_some_iff, FormA.ofWord]
  cases f
  split <;> simp_all [eq_comm (b := BitVec.extractLsb' _ _ w), and_assoc]

theorem FormI.ofWord_eq_some_iff {w : Word} {f : FormI} :
    FormI.ofWord w = some f ↔ Common.ofWord w = f.h ∧ f.body = w.extractLsb' 0 47 := by
  rw [FormI.body, append_eq_iff, append_eq_iff]
  simp only [extractLsb'_of_extractLsb', Nat.reduceAdd, Nat.reduceLeDiff, ← Operand.ofField_eq_some_iff, FormI.ofWord]
  cases f
  split <;> simp_all [eq_comm (b := BitVec.extractLsb' _ _ w), and_assoc]

theorem FormW.ofWord_eq_some_iff {w : Word} {f : FormW} :
    FormW.ofWord w = some f ↔ Common.ofWord w = f.h ∧ f.body = w.extractLsb' 0 47 := by
  rw [FormW.body, append_eq_iff, append_eq_iff]
  simp only [extractLsb'_of_extractLsb', Nat.reduceAdd, Nat.reduceLeDiff, ← Operand.ofField_eq_some_iff, FormW.ofWord]
  cases f
  split <;> simp_all [eq_comm (b := BitVec.extractLsb' _ _ w), and_assoc]

theorem FormM.ofWord_eq_some_iff {w : Word} {f : FormM} :
    FormM.ofWord w = some f ↔ Common.ofWord w = f.h ∧ f.body = w.extractLsb' 0 47 := by
  rw [FormM.body, append_eq_iff, append_eq_iff, append_eq_iff, append_eq_iff]
  simp only [extractLsb'_of_extractLsb', Nat.reduceAdd, Nat.reduceLeDiff, ← Operand.ofField_eq_some_iff, FormM.ofWord]
  cases f
  split <;> simp_all [eq_comm (b := BitVec.extractLsb' _ _ w), and_assoc]

theorem FormX.ofWord_eq_some_iff {w : Word} {f : FormX} :
    FormX.ofWord w = some f ↔ Common.ofWord w = f.h ∧ f.body = w.extractLsb' 0 47 := by
  rw [FormX.body, append_eq_iff, append_eq_iff, append_eq_iff]
  simp only [extractLsb'_of_extractLsb', Nat.reduceAdd, Nat.reduceLeDiff, ← Operand.ofField_eq_some_iff, FormX.ofWord]
  cases f
  split <;> simp_all [eq_comm (b := BitVec.extractLsb' _ _ w), and_assoc]

theorem FormB.ofWord_eq_some_iff {w : Word} {f : FormB} :
    FormB.ofWord w = some f ↔ Common.ofWord w = f.h ∧ f.body = w.extractLsb' 0 47 := by
  rw [FormB.body, append_eq_iff]
  cases f
  simp [extractLsb'_of_extractLsb', FormB.ofWord, eq_comm (b := BitVec.extractLsb' _ _ w)]

/-! ### The tables of opcodes -/

theorem mem_of_lookupOp {α : Type} {op : Nat} {g : α} : ∀ {t : List (Nat × α)}, lookupOp t op = some g → (op, g) ∈ t
  | (k, x) :: r, h => by
    rw [lookupOp] at h
    split_ifs at h with hk
    · obtain rfl := Option.some.inj h
      simp [hk]
    · exact List.mem_cons_of_mem _ (mem_of_lookupOp h)

/-- Every entry of a table makes instructions of its form and its opcode (R85, R86). -/
theorem form_of_mem_tableA : ∀ p ∈ tableA, ∀ f, (p.2 f).form = .a p.1 f := by
  simp only [tableA, tableA0, tableA1, tableA2, tableA3, List.cons_append, List.nil_append, List.forall_mem_cons, List.not_mem_nil, false_imp_iff, implies_true, and_true]
  and_intros <;> exact fun _ => rfl

theorem form_of_mem_tableI : ∀ p ∈ tableI, ∀ f, (p.2 f).form = .i p.1 f := by
  simp only [tableI, tableI0, List.forall_mem_cons, List.not_mem_nil, false_imp_iff, implies_true, and_true]
  and_intros <;> exact fun _ => rfl

theorem form_of_mem_tableW : ∀ p ∈ tableW, ∀ f, (p.2 f).form = .wide p.1 f := by
  simp only [tableW, tableW0, List.forall_mem_cons, List.not_mem_nil, false_imp_iff, implies_true, and_true]
  and_intros <;> exact fun _ => rfl

theorem form_of_mem_tableM : ∀ p ∈ tableM, ∀ f, (p.2 f).form = .m p.1 f := by
  simp only [tableM, tableM0, List.forall_mem_cons, List.not_mem_nil, false_imp_iff, implies_true, and_true]
  and_intros <;> exact fun _ => rfl

theorem form_of_mem_tableB : ∀ p ∈ tableB, ∀ f, (p.2 f).form = .b p.1 f := by
  simp only [tableB, tableB0, List.forall_mem_cons, List.not_mem_nil, false_imp_iff, implies_true, and_true]
  and_intros <;> exact fun _ => rfl

theorem form_of_mem_tableX : ∀ p ∈ tableX, ∀ f, (p.2 f).form = .x p.1 f := by
  simp only [tableX, tableX0, tableX1, List.cons_append, List.nil_append, List.forall_mem_cons, List.not_mem_nil, false_imp_iff, implies_true, and_true]
  and_intros <;> intro f <;> (repeat' split) <;> rfl

/-- Every instruction is in the table of its form at its opcode. -/
theorem lookupOp_of_form_a {i : Instr} {op : Nat} {f : FormA} (h : i.form = .a op f) : ∃ g, lookupOp tableA op = some g ∧ g f = i := by
  cases i <;> cases h <;> exact ⟨_, rfl, rfl⟩

theorem lookupOp_of_form_i {i : Instr} {op : Nat} {f : FormI} (h : i.form = .i op f) : ∃ g, lookupOp tableI op = some g ∧ g f = i := by
  cases i <;> cases h <;> exact ⟨_, rfl, rfl⟩

theorem lookupOp_of_form_wide {i : Instr} {op : Nat} {f : FormW} (h : i.form = .wide op f) : ∃ g, lookupOp tableW op = some g ∧ g f = i := by
  cases i <;> cases h <;> exact ⟨_, rfl, rfl⟩

theorem lookupOp_of_form_m {i : Instr} {op : Nat} {f : FormM} (h : i.form = .m op f) : ∃ g, lookupOp tableM op = some g ∧ g f = i := by
  cases i <;> cases h <;> exact ⟨_, rfl, rfl⟩

theorem lookupOp_of_form_b {i : Instr} {op : Nat} {f : FormB} (h : i.form = .b op f) : ∃ g, lookupOp tableB op = some g ∧ g f = i := by
  cases i <;> cases h <;> exact ⟨_, rfl, rfl⟩

theorem lookupOp_of_form_x {i : Instr} {op : Nat} {f : FormX} (hwf : i.wf = true) (h : i.form = .x op f) :
    ∃ g, lookupOp tableX op = some g ∧ g f = i := by
  cases i <;> cases h
  case dombind | dombindFree | stpmem | stpmemAdd | nmstat | nmstatCap | fstatPort | fstatWork | fstatPod | rankrd | rankrdShape |
      preempt | preemptKill | resume | resumeCtx | resumeRemove | tlbinv | tlbinvAll =>
    refine ⟨_, rfl, ?_⟩
    simp only [Instr.wf, Bool.and_eq_true, beq_iff_eq] at hwf
    simp [hwf.2]
  case mbld =>
    refine ⟨_, rfl, ?_⟩
    simp only [Instr.wf, Bool.and_eq_true, decide_eq_true_eq] at hwf
    have hbit : f.sub.getLsbD 1 = false := Nat.testBit_lt_two_pow (lt_of_lt_of_le hwf.2 (by decide))
    simp only [hbit, Bool.false_eq_true, if_false]
  case mbldFree =>
    refine ⟨_, rfl, ?_⟩
    simp only [Instr.wf, Bool.and_eq_true, Bool.or_eq_true, beq_iff_eq] at hwf
    rcases hwf.2 with hsub | hsub <;> simp [hsub]
  all_goals exact ⟨_, rfl, rfl⟩

/-! ### Decoding one form -/

theorem keepWf_eq_ok_iff {x : Option Instr} {i : Instr} : keepWf x = .ok i ↔ x = some i ∧ i.wf = true := by
  cases x with
  | none => simp [keepWf]
  | some j =>
    rw [keepWf, Option.some.injEq]
    constructor
    · intro h
      split_ifs at h with hwf
      obtain rfl := Except.ok.inj h
      exact ⟨rfl, hwf⟩
    · rintro ⟨rfl, hwf⟩
      rw [if_pos hwf]

/-- A table reads an instruction where it has the opcode and the fields make that instruction, which is well formed. -/
theorem decodeForm_eq_ok_iff {α : Type} {t : List (Nat × (α → Instr))} {fields : Option α} {op : Nat} {i : Instr} :
    decodeForm t fields op = some (.ok i) ↔ ∃ g f, lookupOp t op = some g ∧ fields = some f ∧ g f = i ∧ i.wf = true := by
  rw [decodeForm]
  cases lookupOp t op <;> simp [keepWf_eq_ok_iff, ← and_assoc]

theorem decodeForm_eq_none_of_lookupOp {α : Type} {t : List (Nat × (α → Instr))} {op : Nat} (h : lookupOp t op = none) (fields : Option α) :
    decodeForm t fields op = none := by rw [decodeForm, h]

theorem exists_of_firstOf_eq {α : Type} {l : List (Option α)} {d x : α} (hd : d ≠ x) (h : firstOf l d = x) : some x ∈ l := by
  induction l with
  | nil => exact absurd h hd
  | cons y r ih =>
    cases y with
    | none => exact List.mem_cons_of_mem _ (ih h)
    | some y => simp [show y = x from h]

/-- The opcodes of a table are defined and no header's, and no table before it has them (R85). -/
theorem opcode_of_mem_tableA : ∀ p ∈ tableA, p.1 < 1023 ∧ opcodeDefined p.1 = true := by decide
theorem opcode_of_mem_tableI : ∀ p ∈ tableI, (p.1 < 1023 ∧ opcodeDefined p.1 = true) ∧ lookupOp tableA p.1 = none := by decide
theorem opcode_of_mem_tableW : ∀ p ∈ tableW, (p.1 < 1023 ∧ opcodeDefined p.1 = true) ∧ lookupOp tableA p.1 = none ∧
    lookupOp tableI p.1 = none := by decide
theorem opcode_of_mem_tableM : ∀ p ∈ tableM, (p.1 < 1023 ∧ opcodeDefined p.1 = true) ∧ lookupOp tableA p.1 = none ∧
    lookupOp tableI p.1 = none ∧ lookupOp tableW p.1 = none := by decide
theorem opcode_of_mem_tableX : ∀ p ∈ tableX, (p.1 < 1023 ∧ opcodeDefined p.1 = true) ∧ lookupOp tableA p.1 = none ∧
    lookupOp tableI p.1 = none ∧ lookupOp tableW p.1 = none ∧ lookupOp tableM p.1 = none := by decide
theorem opcode_of_mem_tableB : ∀ p ∈ tableB, (p.1 < 1023 ∧ opcodeDefined p.1 = true) ∧ lookupOp tableA p.1 = none ∧
    lookupOp tableI p.1 = none ∧ lookupOp tableW p.1 = none ∧ lookupOp tableM p.1 = none ∧ lookupOp tableX p.1 = none := by decide

/-! ### The word of an encoding -/

/-- What the decoder must find in a word for it to be the word of an encoding. -/
def Enc.Reads (w : Word) : Enc → Prop
  | .a op f => opcodeOf w = op ∧ FormA.ofWord w = some f
  | .i op f => opcodeOf w = op ∧ FormI.ofWord w = some f
  | .wide op f => opcodeOf w = op ∧ FormW.ofWord w = some f
  | .m op f => opcodeOf w = op ∧ FormM.ofWord w = some f
  | .x op f => opcodeOf w = op ∧ FormX.ofWord w = some f
  | .b op f => opcodeOf w = op ∧ FormB.ofWord w = some f
  | .header h => opcodeOf w = 0x3FF ∧ HeaderWord.ofWord w = h
  | .raw v => v = w
  | .event => False

/-- The opcode of an encoding, where it has one. -/
def Enc.opcode : Enc → Nat
  | .a op _ | .i op _ | .wide op _ | .m op _ | .x op _ | .b op _ => op
  | .header _ | .raw _ | .event => 0

theorem HeaderWord.toWord_eq_iff {w : Word} {h : HeaderWord} : h.toWord = w ↔ opcodeOf w = 0x3FF ∧ HeaderWord.ofWord w = h := by
  rw [HeaderWord.toWord, append_eq_iff, append_eq_iff, append_eq_iff, append_eq_iff, append_eq_iff, append_eq_iff]
  simp only [extractLsb'_of_extractLsb', Nat.reduceAdd, Nat.reduceLeDiff, ofNat_eq_iff_fin, HeaderWord.ofWord, and_assoc,
    ← ofNat_eq_opcode_iff (show 0x3FF < 1024 by decide)]
  cases h
  simp [eq_comm]

/-- The encoder packs what the decoder reads (R73, R77, R78). -/
theorem Enc.word_eq_some_iff {w : Word} {e : Enc} (hop : e.opcode < 1024) : e.word = some w ↔ e.Reads w := by
  cases e with
  | a op f => simpa [Enc.word, Enc.Reads, FormA.ofWord_eq_some_iff, FormA.body] using packWord_eq_iff (op := op) hop
  | i op f => simpa [Enc.word, Enc.Reads, FormI.ofWord_eq_some_iff, FormI.body] using packWord_eq_iff (op := op) hop
  | wide op f => simpa [Enc.word, Enc.Reads, FormW.ofWord_eq_some_iff, FormW.body] using packWord_eq_iff (op := op) hop
  | m op f => simpa [Enc.word, Enc.Reads, FormM.ofWord_eq_some_iff, FormM.body] using packWord_eq_iff (op := op) hop
  | x op f => simpa [Enc.word, Enc.Reads, FormX.ofWord_eq_some_iff, FormX.body] using packWord_eq_iff (op := op) hop
  | b op f => simpa [Enc.word, Enc.Reads, FormB.ofWord_eq_some_iff, FormB.body] using packWord_eq_iff (op := op) hop
  | header h => simpa [Enc.word, Enc.Reads] using HeaderWord.toWord_eq_iff
  | raw v => simp [Enc.word, Enc.Reads]
  | event => simp [Enc.word, Enc.Reads]

/-! ### Decoding -/

theorem opcodeOf_eq_shift (w : Word) : opcodeOf w = w.toNat >>> 54 := by
  have h : w.toNat >>> 54 < 1024 := by rw [Nat.shiftRight_eq_div_pow]; have := w.isLt; omega
  rw [opcodeOf, BitVec.extractLsb'_toNat, Nat.mod_eq_of_lt h]

/-- The answers of the tables for a word. -/
def answers (w : Word) : List (Option (Except DecodeError Instr)) :=
  [decodeForm tableA (FormA.ofWord w) (opcodeOf w), decodeForm tableI (FormI.ofWord w) (opcodeOf w),
    decodeForm tableW (FormW.ofWord w) (opcodeOf w), decodeForm tableM (FormM.ofWord w) (opcodeOf w),
    decodeForm tableX (FormX.ofWord w) (opcodeOf w), decodeForm tableB (FormB.ofWord w) (opcodeOf w)]

theorem decode_of_header {w : Word} (h : opcodeOf w = 0x3FF) : decode w = keepWf (some (.blockHeader (HeaderWord.ofWord w))) := if_pos h

theorem decode_of_undefined {w : Word} (hh : opcodeOf w ≠ 0x3FF) (hd : opcodeDefined (opcodeOf w) = false) :
    decode w = .ok (.undefinedOpcode w) := by
  exact (if_neg hh).trans (if_pos (by rw [← opcodeOf, hd]; rfl))

theorem decode_of_defined {w : Word} (hh : opcodeOf w ≠ 0x3FF) (hd : opcodeDefined (opcodeOf w) = true) :
    decode w = firstOf (answers w) (.error .illegal) := by
  exact (if_neg hh).trans (if_neg (by rw [← opcodeOf, hd]; decide))

/-- What a table answers is read from the instruction's encoding. -/
theorem reads_of_mem_answers {w : Word} {i : Instr} (h : some (.ok i) ∈ answers w) : i.wf = true ∧ i.form.Reads w := by
  simp only [answers, List.mem_cons, List.not_mem_nil, or_false, eq_comm (a := some (Except.ok i)), decodeForm_eq_ok_iff] at h
  rcases h with h | h | h | h | h | h <;> obtain ⟨g, f, hg, hf, rfl, hwf⟩ := h <;> refine ⟨hwf, ?_⟩
  · rw [form_of_mem_tableA _ (mem_of_lookupOp hg)]; exact ⟨rfl, hf⟩
  · rw [form_of_mem_tableI _ (mem_of_lookupOp hg)]; exact ⟨rfl, hf⟩
  · rw [form_of_mem_tableW _ (mem_of_lookupOp hg)]; exact ⟨rfl, hf⟩
  · rw [form_of_mem_tableM _ (mem_of_lookupOp hg)]; exact ⟨rfl, hf⟩
  · rw [form_of_mem_tableX _ (mem_of_lookupOp hg)]; exact ⟨rfl, hf⟩
  · rw [form_of_mem_tableB _ (mem_of_lookupOp hg)]; exact ⟨rfl, hf⟩

/-- An opcode of a form has ten bits (R77). -/
theorem opcode_form_lt (i : Instr) : i.form.opcode < 1024 := by
  cases i <;> exact of_decide_eq_true rfl

/-- The tables answer an instruction where the word reads as its encoding: no table before that of its form has the opcode. -/
theorem decode_of_reads {w : Word} {i : Instr} (hwf : i.wf = true) (h : i.form.Reads w) : decode w = .ok i := by
  have hok : ∀ {α : Type} {t : List (Nat × (α → Instr))} {fields : Option α} {g : α → Instr} {f : α}, lookupOp t (opcodeOf w) = some g →
      fields = some f → g f = i → decodeForm t fields (opcodeOf w) = some (.ok i) :=
    fun hg hf hi => decodeForm_eq_ok_iff.mpr ⟨_, _, hg, hf, hi, hwf⟩
  cases hform : i.form with
  | a op f =>
    obtain ⟨g, hg, hi⟩ := lookupOp_of_form_a hform
    obtain ⟨hlt, hdef⟩ := opcode_of_mem_tableA _ (mem_of_lookupOp hg)
    rw [hform] at h
    obtain ⟨rfl, hf⟩ := h
    rw [decode_of_defined hlt.ne hdef, answers, hok hg hf hi]
    rfl
  | i op f =>
    obtain ⟨g, hg, hi⟩ := lookupOp_of_form_i hform
    obtain ⟨⟨hlt, hdef⟩, ha⟩ := opcode_of_mem_tableI _ (mem_of_lookupOp hg)
    rw [hform] at h
    obtain ⟨rfl, hf⟩ := h
    rw [decode_of_defined hlt.ne hdef, answers, hok hg hf hi, decodeForm_eq_none_of_lookupOp ha]
    rfl
  | wide op f =>
    obtain ⟨g, hg, hi⟩ := lookupOp_of_form_wide hform
    obtain ⟨⟨hlt, hdef⟩, ha, hn⟩ := opcode_of_mem_tableW _ (mem_of_lookupOp hg)
    rw [hform] at h
    obtain ⟨rfl, hf⟩ := h
    rw [decode_of_defined hlt.ne hdef, answers, hok hg hf hi, decodeForm_eq_none_of_lookupOp ha, decodeForm_eq_none_of_lookupOp hn]
    rfl
  | m op f =>
    obtain ⟨g, hg, hi⟩ := lookupOp_of_form_m hform
    obtain ⟨⟨hlt, hdef⟩, ha, hn, hw⟩ := opcode_of_mem_tableM _ (mem_of_lookupOp hg)
    rw [hform] at h
    obtain ⟨rfl, hf⟩ := h
    rw [decode_of_defined hlt.ne hdef, answers, hok hg hf hi, decodeForm_eq_none_of_lookupOp ha, decodeForm_eq_none_of_lookupOp hn,
      decodeForm_eq_none_of_lookupOp hw]
    rfl
  | x op f =>
    obtain ⟨g, hg, hi⟩ := lookupOp_of_form_x hwf hform
    obtain ⟨⟨hlt, hdef⟩, ha, hn, hw, hm⟩ := opcode_of_mem_tableX _ (mem_of_lookupOp hg)
    rw [hform] at h
    obtain ⟨rfl, hf⟩ := h
    rw [decode_of_defined hlt.ne hdef, answers, hok hg hf hi, decodeForm_eq_none_of_lookupOp ha, decodeForm_eq_none_of_lookupOp hn,
      decodeForm_eq_none_of_lookupOp hw, decodeForm_eq_none_of_lookupOp hm]
    rfl
  | b op f =>
    obtain ⟨g, hg, hi⟩ := lookupOp_of_form_b hform
    obtain ⟨⟨hlt, hdef⟩, ha, hn, hw, hm, hx⟩ := opcode_of_mem_tableB _ (mem_of_lookupOp hg)
    rw [hform] at h
    obtain ⟨rfl, hf⟩ := h
    rw [decode_of_defined hlt.ne hdef, answers, hok hg hf hi, decodeForm_eq_none_of_lookupOp ha, decodeForm_eq_none_of_lookupOp hn,
      decodeForm_eq_none_of_lookupOp hw, decodeForm_eq_none_of_lookupOp hm, decodeForm_eq_none_of_lookupOp hx]
    rfl
  | header f =>
    rw [hform] at h
    obtain ⟨hop, rfl⟩ := h
    obtain rfl : i = .blockHeader (HeaderWord.ofWord w) := by cases i <;> cases hform; rfl
    rw [decode_of_header hop, keepWf_eq_ok_iff]
    exact ⟨rfl, hwf⟩
  | raw v =>
    rw [hform] at h
    obtain rfl : v = w := h
    obtain rfl : i = .undefinedOpcode v := by cases i <;> cases hform; rfl
    have hundef : opcodeDefined (opcodeOf v) = false := by simpa [Instr.wf, opcodeOf_eq_shift] using hwf
    refine decode_of_undefined (fun hh => ?_) hundef
    rw [hh] at hundef
    cases hundef
  | event =>
    rw [hform] at h
    exact h.elim

/-- A decoded word reads as the encoding of its instruction, which is well formed. -/
theorem reads_of_decode {w : Word} {i : Instr} (h : decode w = .ok i) : i.wf = true ∧ i.form.Reads w := by
  by_cases hh : opcodeOf w = 0x3FF
  · rw [decode_of_header hh, keepWf_eq_ok_iff] at h
    obtain ⟨hi, hwf⟩ := h
    obtain rfl := Option.some.inj hi
    exact ⟨hwf, hh, rfl⟩
  cases hd : opcodeDefined (opcodeOf w) with
  | false =>
    rw [decode_of_undefined hh hd] at h
    obtain rfl := Except.ok.inj h
    exact ⟨by simp [Instr.wf, ← opcodeOf_eq_shift, hd], rfl⟩
  | true =>
    rw [decode_of_defined hh hd] at h
    exact reads_of_mem_answers (exists_of_firstOf_eq (by simp) h)

end Sys2Proof

namespace Sys2Proof.Claims

/-- Settles O51: the encoder packs exactly what the decoder reads, and the tables of opcodes agree with the encodings. -/
theorem decodeAndEncodeAgree : Obligations.DecodeAndEncodeAgree := by
  unfold Obligations.DecodeAndEncodeAgree
  refine ⟨fun i w hwf h => ?_, fun i w h => ?_⟩
  · exact decode_of_reads hwf ((Enc.word_eq_some_iff (opcode_form_lt i)).mp h)
  · obtain ⟨hwf, hreads⟩ := reads_of_decode h
    exact ⟨hwf, (Enc.word_eq_some_iff (opcode_form_lt i)).mpr hreads⟩

end Sys2Proof.Claims
end

section
/-! PROOFS. Moves, compares and predicates (R160-R163, R187, R188). -/

namespace Sys2Proof.Machine

open Sys2Proof.Claims

/-! ### Masks -/

/-- Bit k of a mask is the element k of the list that it is made from. -/
theorem testBit_maskOf : ∀ (l : List Bool) (k : Nat), (maskOf l).testBit k = l.getD k false
  | [], k => by simp [maskOf]
  | b :: r, 0 => by cases b <;> simp [maskOf, b2n, Nat.testBit_zero]
  | b :: r, k + 1 => by
    have h : maskOf (b :: r) / 2 = maskOf r := by
      cases b <;> simp only [maskOf, b2n, Bool.false_eq_true, if_false, if_true] <;> omega
    rw [Nat.testBit_succ, h, testBit_maskOf r k, List.getD_cons_succ]

/-- A mask of 64 lanes is the word that has those bits. -/
theorem ofNat_maskOf_eq {m : Word} {p : Nat → Bool} (h : ∀ i, i < 64 → m.getLsbD i = p i) :
    BitVec.ofNat 64 (maskOf ((List.range 64).map p)) = m := by
  refine BitVec.eq_of_getLsbD_eq fun i hi => ?_
  rw [h i hi, BitVec.getLsbD_ofNat, testBit_maskOf]
  simp [hi]

/-- Lanes that raise no flag raise none together. -/
theorem laneFlags_eq_zero {w : Nat} {g : Word} {rs : List (Nat × Nat)} (h : ∀ r ∈ rs, r.2 = 0) : laneFlags w g rs = 0 := by
  rw [laneFlags]
  have hzero : ∀ x ∈ rs.zipIdx.filter (fun x => g.getLsbD (x.2 / (32 / w))), x.1.2 = 0 := fun x hx =>
    h _ (List.fst_mem_of_mem_zipIdx (List.mem_filter.mp hx).1)
  generalize rs.zipIdx.filter (fun x => g.getLsbD (x.2 / (32 / w))) = l at hzero
  induction l with
  | nil => rfl
  | cons x r ih =>
    rw [List.foldl_cons, hzero x List.mem_cons_self]
    exact ih fun y hy => hzero y (List.mem_cons_of_mem _ hy)

/-! ### Conditions -/

/-- The model's conditions are those of R160 on elements that have n bits. -/
theorem cmpHolds_toNat (k : Nat) {n : Nat} (x y : BitVec n) : cmpHolds k n x.toNat y.toNat = compares k n x y := by
  unfold cmpHolds compares
  simp only [signedOf_toNat]
  split <;> simp [BitVec.slt, BitVec.sle, BitVec.ult, BitVec.ule, BitVec.toNat_inj, bne, beq_eq_decide]

end Sys2Proof.Machine

namespace Sys2Proof.Claims

open Sys2Proof.Machine

theorem widen_mod (n : Nat) (zero : Bool) (x : Nat) : widen n zero (x % 2 ^ n) = widen n zero x := by
  have h : BitVec.ofNat n (x % 2 ^ n) = BitVec.ofNat n x := by simp [← BitVec.toNat_inj]
  rw [widen, h, widen]

/-- The lane of an element (R136). -/
theorem div_eq_mul_div_of_width {n : Nat} (h : n ∈ [8, 16, 32]) (e : Nat) : e / (32 / n) = e * n / 32 := by
  fin_cases h <;> omega

/-- The integer types of a class (R83). -/
theorem typ_of_intTypes {w : FormA} (h : w.intTypes = true) : w.typ ≤ 3 ∧ (w.h.lane = true → w.typ ≠ 0) := by
  simp only [FormA.intTypes, Bool.and_eq_true, decide_eq_true_eq, Bool.or_eq_true, Bool.not_eq_true', bne_iff_ne] at h
  exact ⟨h.1, fun hl => h.2.resolve_left (by simp [hl])⟩

theorem intTypes_of_sel {w : FormA} (hwf : (Instr.sel w).wf = true) : w.intTypes = true := by
  have h : (w.h.ok && w.intTypes && w.dstInt && w.src w.a && w.src w.b && w.c.isMask && w.optIn 0) = true := hwf
  simp only [Bool.and_eq_true] at h
  tauto

/-- A lane compare is on elements of 32 bits (R160). -/
theorem types_of_cmp {w : FormA} (hwf : (Instr.cmp w).wf = true) : w.intTypes = true ∧ (w.h.lane = true → w.typ = 1) := by
  have h : (w.h.ok && w.intTypes && w.dst.isPO && w.src w.a && w.src w.b && w.c == .zero && (!w.h.lane || w.typ == 1)) = true := hwf
  simp only [Bool.and_eq_true, Bool.or_eq_true, Bool.not_eq_true', beq_iff_eq] at h
  exact ⟨by tauto, fun hl => h.2.resolve_left (by simp [hl])⟩

theorem width_mem_of_lane {t : Nat} (h : t ≤ 3) (h0 : t ≠ 0) : width t ∈ [8, 16, 32] := by
  interval_cases t
  · exact absurd rfl h0
  all_goals decide

/-! ### Moves -/

/-- A lane instruction that issues and writes elements completes. -/
theorem completes_of_instr {i : Instr} {s t : State} {c d : Ctx} {h : Common} {ops : List Operand} {g : Word} {body : State → Ctx → Word → Try Done}
    (hexec : exec i s = runInstr s h false ops body) (hI : Issues s c h ops g) (hfall : Falls s c) (hbody : body s c g = .ok { s := t, c := d }) :
    Completes i s c h t d := by
  rw [Completes, hexec]
  exact ins_ok hI hfall (by simp) hbody

/-- A uniform instruction that computes a value, issued with its guard set, writes it and completes. -/
theorem completes_of_value {i : Instr} {s : State} {c c' : Ctx} {h : Common} {dst : Operand} {srcs : List Operand} {g x : Word} {fl : Nat}
    {f : State → Ctx → Try (Word × Nat)} (hexec : exec i s = runValue s h dst srcs f) (hI : Issues s c h srcs g) (h0 : g.getLsbD 0 = true)
    (hfall : Falls s c) (hf : f s c = .ok (x, fl)) (hw : writeVal s c dst x = .ok c') : Completes i s c h s (c'.orFlags fl) :=
  gives hexec hf ⟨⟨g, hI, h0⟩, hfall⟩ c' hw

section
variable {w : FormA} {s : State} {c c' : Ctx} {g m : Word} (htypes : w.intTypes = true) (hI : Issues s c w.h [w.a, w.b, w.c] g)
  (hfall : Falls s c) (hm : readVal c w.c = .ok m)
include htypes hI hfall hm

theorem completes_sel_uniform (hu : w.h.lane = false) (h0 : g.getLsbD 0 = true) {x y : Word} (hx : readVal c w.a = .ok x)
    (hy : readVal c w.b = .ok y) (hw : writeVal s c w.dst (widen (width w.typ) false (if m.getLsbD 0 then x else y).toNat) = .ok c') :
    Completes (.sel w) s c w.h s c' := by
  have htyp := (typ_of_intTypes htypes).1
  have hexec : exec (.sel w) s = runValue s w.h w.dst [w.a, w.b, w.c] _ := (exec_sel w s).trans (if_neg (by simp [hu]))
  rw [← orFlags_zero c']
  exact completes_of_value hexec hI h0 hfall
    (by simp only [hx, hy, hm, try_bind_ok, try_pure, intWidth_eq_width htyp, extendTo_eq_widen, widen_mod]) hw

theorem completes_sel_lane (hu : w.h.lane = true) {xs ys : List Nat} (hx : readElems c (width w.typ) w.a = .ok xs)
    (hy : readElems c (width w.typ) w.b = .ok ys) (hw : writeElems s c w.dst (width w.typ) g
      ((List.range (2048 / width w.typ)).map fun e => if m.getLsbD (e * width w.typ / 32) then xs.getD e 0 else ys.getD e 0) = .ok c') :
    Completes (.sel w) s c w.h s c' := by
  obtain ⟨htyp, hpos⟩ := typ_of_intTypes htypes
  have hexec : exec (.sel w) s = runInstr s w.h false [w.a, w.b, w.c] _ := (exec_sel w s).trans (if_pos hu)
  refine completes_of_instr hexec hI hfall ?_
  simp only [intWidth_eq_width htyp, hx, hy, hm, try_bind_ok, div_eq_mul_div_of_width (width_mem_of_lane htyp (hpos hu)), hw, try_pure]

end

section
variable {w : FormW} {s : State} {c c' : Ctx}

theorem completes_movi_uniform {g : Word} (hI : Issues s c w.h [] g) (hfall : Falls s c) (hu : w.h.lane = false) (h0 : g.getLsbD 0 = true)
    (hw : writeVal s c w.dst (if w.mod.getLsbD 0 then w.imm.setWidth 64 else w.imm.signExtend 64) = .ok c') :
    Completes (.movi w) s c w.h s c' := by
  have hexec : exec (.movi w) s = runValue s w.h w.dst [] _ := (exec_movi w s).trans (if_neg (by simp [hu]))
  simpa using completes_of_value hexec hI h0 hfall rfl hw

theorem completes_movi_lane {g : Word} (hI : Issues s c w.h [] g) (hfall : Falls s c) (hu : w.h.lane = true)
    (hw : writeElems s c w.dst 32 g (List.replicate 64 w.imm.toNat) = .ok c') : Completes (.movi w) s c w.h s c' := by
  have hexec : exec (.movi w) s = runInstr s w.h false [] _ := (exec_movi w s).trans (if_pos hu)
  exact completes_of_instr hexec hI hfall (by simp only [hw, try_bind_ok, try_pure])

theorem completes_movhi {a : Nat} (hF : Fires s c w.h []) (ha : c.loc w.dst = some a)
    (hw : writeRf s c (a + 4) 4 (cellsAt (a + 4) (bytesOf 4 w.imm.toNat)) = .ok c') : Completes (.movhi w) s c w.h s (c'.setLatch a 8) :=
  completes_of_uniform (exec_movhi w s) hF (by simp) (by simp only [ha, hw, try_bind_ok, try_pure])

end

/-! ### Compares -/

/-- A compare of R160 of its first source with b: its second source, or an immediate. -/
theorem completes_compare_uniform {i : Instr} {s : State} {c c' : Ctx} {h : Common} {dst : Operand} {srcs : List Operand} {n k : Nat} {y : Option Nat}
    (hexec : exec i s = runCompare s h dst srcs n (fun x y => (cmpHolds k n x y, 0)) y) {g : Word} (hI : Issues s c h srcs g) (hfall : Falls s c)
    (hu : h.lane = false) (h0 : g.getLsbD 0 = true) {xs : List Word} (hxs : srcs.mapM (fun o => readVal c o) = .ok xs) {b : BitVec n}
    (hb : y.getD ((xs.getD 1 0).toNat % 2 ^ n) = b.toNat)
    (hw : writeVal s c dst (if compares k n ((xs.getD 0 0).setWidth n) b then BitVec.allOnes 64 else 0) = .ok c') :
    Completes i s c h s (c'.orFlags 0) := by
  rw [runCompare, if_neg (by simp [hu])] at hexec
  refine completes_of_value hexec hI h0 hfall ?_ hw
  simp only [hxs, try_bind_ok, try_pure]
  cases y <;> simp only [Option.getD_none, Option.getD_some] at hb <;> simp only [hb, ← BitVec.toNat_setWidth, cmpHolds_toNat]

theorem completes_compare_lane {i : Instr} {s : State} {c c' : Ctx} {h : Common} {dst : Operand} {srcs : List Operand} {k : Nat} {y : Option Nat}
    (hexec : exec i s = runCompare s h dst srcs 32 (fun x y => (cmpHolds k 32 x y, 0)) y) {g : Word} (hI : Issues s c h srcs g)
    (hfall : Falls s c) (hu : h.lane = true) {ls : List (List Nat)} (hls : srcs.mapM (fun o => readElems c 32 o) = .ok ls) {b : Nat → BitVec 32}
    (hb : ∀ e, y.getD ((ls.getD 1 []).getD e 0) = (b e).toNat) {m : Word}
    (hm : ∀ e, e < 64 → m.getLsbD e = compares k 32 (el 32 (ls.getD 0 []) e) (b e)) (hw : writeMask s c dst g m = .ok c') :
    Completes i s c h s (c'.orFlags 0) := by
  have ha : ∀ e, (ls.getD 0 []).getD e 0 = (el 32 (ls.getD 0 []) e).toNat := getD_eq_toNat_el fun x hx => by
    cases ls with
    | nil => cases hx
    | cons l r =>
      obtain ⟨o, -, ho⟩ := exists_of_mem_mapM hls l List.mem_cons_self
      exact readElems_lt ho x hx
  have hmask : BitVec.ofNat 64 (maskOf ((List.range 64).map fun e => cmpHolds k 32 ((ls.getD 0 []).getD e 0) (b e).toNat)) = m :=
    ofNat_maskOf_eq fun e he => by rw [hm e he, ha, cmpHolds_toNat]
  rw [runCompare, if_pos hu] at hexec
  refine completes_of_instr hexec hI hfall ?_
  have hflags : laneFlags 32 g ((List.range 64).map fun _ => (0, 0)) = 0 := laneFlags_eq_zero (by simp)
  cases y <;> simp only [Option.getD_none, Option.getD_some] at hb <;> simp only [← hb] at hmask <;>
    simp only [hls, try_bind_ok, try_pure, List.map_map, Function.comp_def, hmask, hw, hflags]

/-- The condition of CMPI is in the upper three bits of its immediate (R160). -/
theorem cmpi_code (w : FormI) : w.imm.toNat / 2 ^ 24 = (w.imm.extractLsb' 24 3).toNat := by
  have h : w.imm.toNat / 2 ^ 24 < 2 ^ 3 := by have := w.imm.isLt; omega
  rw [BitVec.extractLsb'_toNat, Nat.shiftRight_eq_div_pow, Nat.mod_eq_of_lt h]

/-- Settles O4: each instruction is its move or its compare of the elements, which have the width of their type. -/
theorem movesAndCompares : Obligations.MovesAndCompares := by
  unfold Obligations.MovesAndCompares
  refine ⟨⟨fun w => ?_, fun w s c c' g hwf hI hfall m hm => ?_, fun w s c c' g hI hfall => ?_, fun w s c c' a => completes_movhi⟩,
    fun w s c c' g hwf hI hfall => ⟨fun hu h0 x y hx hy hw => ?_, fun hu xs ys hx hy m hm hw => ?_⟩,
    fun w s c c' g hwf hI hfall => ⟨fun hu h0 x hx hw => ?_, fun hu xs hx m hm hw => ?_⟩⟩
  · have hexec : ∀ s, exec (.mov w) s = runInt s w [w.a] false fun n l => (l.getD 0 0 % 2 ^ n, 0) := exec_mov w
    exact elementwise_of_runInt typ_le_of_intUn hexec fun l hl => by rw [getD_eq_toNat_el hl, Nat.mod_eq_of_lt (BitVec.isLt _)]
  · have htypes : w.intTypes = true := intTypes_of_sel hwf
    exact ⟨fun hu h0 x y hx hy => completes_sel_uniform htypes hI hfall hm hu h0 hx hy,
      fun hu xs ys hx hy => completes_sel_lane htypes hI hfall hm hu hx hy⟩
  · exact ⟨completes_movi_uniform hI hfall, completes_movi_lane hI hfall⟩
  · have hexec := exec_cmp w s
    rw [execCmp, intWidth_eq_width (typ_of_intTypes (types_of_cmp hwf |>.1)).1] at hexec
    exact completes_compare_uniform hexec hI hfall hu h0 (xs := [x, y]) (by simp [hx, hy]) (BitVec.toNat_setWidth ..).symm hw
  · have htyp : w.typ = 1 := (types_of_cmp hwf).2 hu
    have hexec := exec_cmp w s
    rw [execCmp, htyp] at hexec
    exact completes_compare_lane hexec hI hfall hu (ls := [xs, ys]) (by simp [hx, hy]) (getD_eq_toNat_el (readElems_lt hy)) hm hw
  · have hexec := exec_cmpi w s
    rw [execCmpi, hu, cmpi_code] at hexec
    refine completes_compare_uniform (n := 64) hexec hI hfall hu h0 (xs := [x]) (b := (w.imm.extractLsb' 0 24).signExtend 64) (by simp [hx])
      (wrapTo_eq_toNat 64 _) ?_
    simpa only [List.getD_cons_zero, BitVec.setWidth_eq] using hw
  · have hexec := exec_cmpi w s
    rw [execCmpi, hu, cmpi_code] at hexec
    exact completes_compare_lane hexec hI hfall hu (ls := [xs]) (b := fun _ => (w.imm.extractLsb' 0 24).signExtend 32) (by simp [hx])
      (fun _ => wrapTo_eq_toNat 32 _) hm hw

/-! ### Predicates -/

/-- A predicate instruction of two masks or one that fires gives its function of them, and no flag (R187). -/
theorem gives_of_runMask {i : Instr} {w : FormA} {srcs : List Operand} {f : Word → Word → Word} {s : State} {c : Ctx} {xs : List Word}
    (hexec : exec i s = runMask s w srcs f) (hxs : srcs.mapM (fun o => readVal c o) = .ok xs) :
    GivesValue i w.h w.dst srcs s c (f (xs.getD 0 0) (xs.getD 1 0)) 0 :=
  gives hexec (by simp only [hxs, try_bind_ok, try_pure])

theorem readVals_one {c : Ctx} {o : Operand} {x : Word} (h : readVal c o = .ok x) : [o].mapM (fun o => readVal c o) = .ok [x] := by simp [h]

theorem readVals_two {c : Ctx} {o p : Operand} {x y : Word} (h : readVal c o = .ok x) (h' : readVal c p = .ok y) :
    [o, p].mapM (fun o => readVal c o) = .ok [x, y] := by simp [h, h']

/-- The lowest one of a word, alone (R187). -/
theorem and_neg_eq_two_pow {x : Word} {k : Nat} (hk : x.getLsbD k = true) (hlow : ∀ j, j < k → x.getLsbD j = false) :
    x &&& -x = BitVec.ofNat 64 (2 ^ k) := by
  refine BitVec.eq_of_getLsbD_eq fun i hi => ?_
  rw [BitVec.getLsbD_and, BitVec.getLsbD_neg, BitVec.getLsbD_ofNat, Nat.testBit_two_pow]
  rcases lt_trichotomy i k with h | rfl | h
  · simp [hlow i h, h.ne']
  · have hnone : ¬ ∃ j < i, x.getLsbD j = true := fun ⟨j, hj, hb⟩ => by simp [hlow j hj] at hb
    simp [hk, hnone, hi]
  · have hsome : ∃ j < i, x.getLsbD j = true := ⟨k, h, hk⟩
    simp [hsome, hi, h.ne]

/-- Settles O5: each instruction computes its function of the masks. -/
theorem predicates : Obligations.Predicates := by
  unfold Obligations.Predicates
  refine ⟨fun w s c x y hx hy => ⟨?_, ?_, ?_, ?_⟩, fun w s c x hx => ⟨?_, ?_, ?_, ?_, ?_, ?_, ?_, ?_⟩, fun w s c => ⟨fun hm m hbits => ?_, fun hm m hbits => ?_⟩⟩
  · exact (gives_of_runMask (exec_pand w s) (readVals_two hx hy) :)
  · exact (gives_of_runMask (exec_pandn w s) (readVals_two hx hy) :)
  · exact (gives_of_runMask (exec_por w s) (readVals_two hx hy) :)
  · exact (gives_of_runMask (exec_pxor w s) (readVals_two hx hy) :)
  · exact (gives_of_runMask (exec_pnot w s) (readVals_one hx) :)
  · exact (gives_of_runMask (exec_pmov w s) (readVals_one hx) :)
  · have hcount : popcount 64 x.toNat = ((List.range 64).filter fun k => x.getLsbD k).length := by
      rw [popcount_eq_length_filter]
      simp only [BitVec.testBit_toNat]
    rw [← hcount]
    exact (gives_of_runMask (exec_pcnt w s) (readVals_one hx) :)
  · exact (gives_of_runMask (exec_pany w s) (readVals_one hx) :)
  · exact (gives_of_runMask (exec_pall w s) (readVals_one hx) :)
  · have h : GivesValue (.pfirst w) w.h w.dst [w.a] s c (x &&& -x) 0 := (gives_of_runMask (exec_pfirst w s) (readVals_one hx) :)
    cases hfind : (List.range 64).find? fun k => x.getLsbD k with
    | none =>
      have hx0 : x = 0 := BitVec.eq_of_getLsbD_eq fun i hi => by simpa using List.find?_eq_none.mp hfind i (List.mem_range.mpr hi)
      simpa [hx0] using h
    | some k =>
      obtain ⟨hk, -, hlow⟩ := List.find?_range_eq_some.mp hfind
      rwa [and_neg_eq_two_pow hk (by simpa using hlow)] at h
  · exact (gives_of_runMask (exec_pfroms w s) (readVals_one hx) :)
  · exact (gives_of_runMask (exec_ptos w s) (readVals_one hx) :)
  · refine gives (exec_pset w s) ?_
    have hval : BitVec.ofNat 64 (2 ^ min w.imm.toNat 64 - 1) = m := BitVec.eq_of_getLsbD_eq fun i hi => by
      rw [hbits i hi, BitVec.getLsbD_ofNat, Nat.testBit_two_pow_sub_one]
      simp [hi]
    simp only [hm, Bool.false_eq_true, if_false, hval]
  · refine gives (exec_pset w s) ?_
    have hval : w.imm ++ w.imm = m := BitVec.eq_of_getLsbD_eq fun i hi => by
      rw [hbits i hi, BitVec.getLsbD_append]
      split_ifs with h
      · rw [Nat.mod_eq_of_lt h]
      · rw [show i % 32 = i - 32 by omega]
    simp only [hm, if_true, hval]

end Sys2Proof.Claims
end

section
/-! PROOFS. Transfers of control, block headers and issue control (R74, R75, R137, R142-R147). -/

namespace Sys2Proof.Machine

/-- A context that no leader drives decides for itself (R137). -/
theorem decide_of_forwarded_none {c : Ctx} (h : c.forwarded = none) (own : Option Word) : c.decide own = (own, 0) := by
  rw [Ctx.decide, h]

/-- A follower goes where its leader went, and DIV records that its own condition decides otherwise (R137, R138). -/
theorem decide_of_forwarded_some {c : Ctx} {f : FwdWord} (h : c.forwarded = some f) (own : Option Word) :
    c.decide own = (f.target, if own = f.target then 0 else flagDIV) := by
  rw [Ctx.decide, h]
  by_cases he : own = f.target <;> simp [flagIf, he]

theorem follower_of_forwarded {c : Ctx} {f : FwdWord} (h : c.forwarded = some f) : c.follower = true := by
  by_contra hn
  rw [Ctx.forwarded, if_neg hn] at h
  cases h

theorem forwarded_of_not_follower {c : Ctx} (h : c.follower = false) : c.forwarded = none := by simp [Ctx.forwarded, h]

/-- A follower fetches nothing, so that its targets need no check (R90). -/
theorem checkTarget_of_follower {c : Ctx} (h : c.follower = true) (s : State) (t : Word) : s.checkTarget c t = .ok () := if_pos h

/-! ### The parts of a transfer -/

section
variable {s : State} {c : Ctx} {own : Option Word} {link : Bool} {fl : Nat}

theorem transfer_of_stay (h : c.decide own = (none, fl)) : transfer s c own link = .ok { s := s, c := c.clearLatch.orFlags fl } := by
  simp only [transfer, h]

theorem transfer_of_go {t : Word} (h : c.decide own = (some t, fl)) (ht : s.checkTarget c t = .ok ()) :
    transfer s c own false = .ok { s := s, c := c.clearLatch.orFlags fl, jump := some t } := by
  simp [transfer, h, ht]

theorem transfer_of_call {t : Word} {c' : Ctx} (h : c.decide own = (some t, fl)) (ht : s.checkTarget c t = .ok ()) (hl : writeLink s c = .ok c') :
    transfer s c own true = .ok { s := s, c := c'.clearLatch.orFlags fl, jump := some t } := by
  simp [transfer, h, ht, hl]

end

end Sys2Proof.Machine

namespace Sys2Proof.Claims

open Sys2Proof.Machine

/-- An instruction that issues and goes to t, as its body does. -/
theorem jumps_of_instr {i : Instr} {s : State} {c d : Ctx} {h : Common} {ops : List Operand} {g t : Word} {body : State → Ctx → Word → Try Done}
    (hexec : exec i s = runInstr s h false ops body) (hI : Issues s c h ops g) (hbody : body s c g = .ok { s := s, c := d, jump := some t }) :
    Jumps i s c h d t := by
  rw [Jumps, hexec]
  exact ins_jump hI (by simp) hbody (by simp)

/-! ### Relative and indirect transfers -/

/-- The target that a relative transfer would take itself (R143). -/
def ownTarget (c : Ctx) (w : FormB) (g : Word) : Option Word := if g.getLsbD 0 then some (relTarget c.pc w.off) else none

section
variable {i : Instr} {w : FormB} {s : State} {c d : Ctx} {g t : Word} {link : Bool} (hexec : exec i s = runRelative s w link)
  (hI : Issues s c w.h [] g)
include hexec hI

theorem jumps_relative (htr : transfer s c (ownTarget c w g) link = .ok { s := s, c := d, jump := some t }) : Jumps i s c w.h d t :=
  jumps_of_instr (hexec.trans rfl) hI htr

theorem completes_relative (hfall : Falls s c) (htr : transfer s c (ownTarget c w g) link = .ok { s := s, c := d }) : Completes i s c w.h s d :=
  completes_of_instr (hexec.trans rfl) hI hfall htr

end

section
variable {i : Instr} {w : FormA} {s : State} {c d : Ctx} {g t : Word} {link : Bool} (hexec : exec i s = runIndirect s w link)
  (hI : Issues s c w.h [w.a] g)
include hexec hI

theorem jumps_indirect (h0 : g.getLsbD 0 = true) (ht : readVal c w.a = .ok t)
    (htr : transfer s c (some t) link = .ok { s := s, c := d, jump := some t }) : Jumps i s c w.h d t :=
  jumps_of_instr hexec hI (by simp only [h0, if_true, ht, try_bind_ok, htr])

theorem completes_indirect (h0 : g.getLsbD 0 = false) (hfall : Falls s c) (hown : c.forwarded = none) : Completes i s c w.h s c.clearLatch := by
  refine completes_of_instr hexec hI hfall ?_
  rw [h0, if_neg Bool.false_ne_true, transfer_of_stay (decide_of_forwarded_none hown none), orFlags_zero]

end

/-! ### LOOP -/

section
variable {w : FormI} {s : State} {c c' : Ctx} {g x : Word} {fl : Nat} (hI : Issues s c w.h [w.a] g) (h0 : g.getLsbD 0 = true)
  (hx : readVal c w.a = .ok x) (hw : writeVal s c w.dst (x - 1) = .ok c')
include hI h0 hx hw

theorem jumps_loop {t : Word} (hd : c.decide (if x - 1 = 0 then none else some (relTarget c.pc w.imm)) = (some t, fl))
    (ht : s.checkTarget c t = .ok ()) : Jumps (.loop w) s c w.h (c'.clearLatch.orFlags fl) t :=
  jumps_of_instr (exec_loop w s) hI (by simp only [h0, if_true, hx, try_bind_ok, hd, ht, hw, try_pure])

theorem completes_loop (hfall : Falls s c) (hd : c.decide (if x - 1 = 0 then none else some (relTarget c.pc w.imm)) = (none, fl)) :
    Completes (.loop w) s c w.h s (c'.orFlags fl) :=
  completes_of_instr (exec_loop w s) hI hfall (by simp only [h0, if_true, hx, try_bind_ok, hd, hw, try_pure])

end

/-- Settles O6: every transfer is the decision of R137 and the effect of going or of staying. -/
theorem transfers : Obligations.Transfers := by
  unfold Obligations.Transfers
  refine ⟨⟨fun w s c g hI hown => ⟨fun h0 ht => ?_, fun h0 hfall => ?_⟩, fun w s c g hI hown => ⟨fun h0 t hr ht => ?_, fun h0 hfall => ?_⟩,
    fun w s c c' g x hI hown h0 hx hw => ⟨fun hne ht => ?_, fun he hfall => ?_⟩⟩,
    fun w s c g f hI hf => ⟨fun t ht => ?_, fun ht hfall => ?_⟩,
    fun w s c c' g x f hI hf h0 hx hw => ⟨fun t ht => ?_, fun ht hfall => ?_⟩⟩
  · have hd : c.decide (ownTarget c w g) = (some _, 0) := (decide_of_forwarded_none hown _).trans (by rw [ownTarget, if_pos h0])
    have hgo := transfer_of_go hd ht
    rw [orFlags_zero] at hgo
    refine ⟨jumps_relative (exec_br w s) hI hgo, fun c' hl => ?_⟩
    have hcall := transfer_of_call hd ht hl
    rw [orFlags_zero] at hcall
    exact jumps_relative (exec_call w s) hI hcall
  · have hd : c.decide (ownTarget c w g) = (none, 0) := (decide_of_forwarded_none hown _).trans (by rw [ownTarget, h0]; rfl)
    have hstay : ∀ link, _ := fun link => transfer_of_stay (s := s) (link := link) hd
    rw [orFlags_zero] at hstay
    exact ⟨completes_relative (exec_br w s) hI hfall (hstay _), completes_relative (exec_call w s) hI hfall (hstay _)⟩
  · have hd := decide_of_forwarded_none hown (some t)
    have hgo := transfer_of_go hd ht
    rw [orFlags_zero] at hgo
    refine ⟨jumps_indirect (exec_bri w s) hI h0 hr hgo, jumps_indirect (exec_ret w s) hI h0 hr hgo, fun c' hl => ?_⟩
    have hcall := transfer_of_call hd ht hl
    rw [orFlags_zero] at hcall
    exact jumps_indirect (exec_calli w s) hI h0 hr hcall
  · exact ⟨completes_indirect (exec_bri w s) hI h0 hfall hown, completes_indirect (exec_ret w s) hI h0 hfall hown,
      completes_indirect (exec_calli w s) hI h0 hfall hown⟩
  · have hd : c.decide (if x - 1 = 0 then none else some (relTarget c.pc w.imm)) = (some _, 0) :=
      (decide_of_forwarded_none hown _).trans (by rw [if_neg (by rwa [sub_eq_zero])])
    have h := jumps_loop hI h0 hx hw hd ht
    rwa [orFlags_zero] at h
  · have hd : c.decide (if x - 1 = 0 then none else some (relTarget c.pc w.imm)) = (none, 0) :=
      (decide_of_forwarded_none hown _).trans (by rw [if_pos (by rwa [sub_eq_zero])])
    have h := completes_loop hI h0 hx hw hfall hd
    rwa [orFlags_zero] at h
  · have hd := decide_of_forwarded_some hf (ownTarget c w g)
    rw [ht] at hd ⊢
    exact jumps_relative (exec_br w s) hI (transfer_of_go hd (checkTarget_of_follower (follower_of_forwarded hf) s t))
  · have hd := decide_of_forwarded_some hf (ownTarget c w g)
    rw [ht] at hd ⊢
    exact completes_relative (exec_br w s) hI hfall (transfer_of_stay hd)
  · have hd := decide_of_forwarded_some hf (if x = 1 then none else some (relTarget c.pc w.imm))
    rw [ht] at hd ⊢
    simp only [← sub_eq_zero (a := x)] at hd ⊢
    exact jumps_loop hI h0 hx hw hd (checkTarget_of_follower (follower_of_forwarded hf) s t)
  · have hd := decide_of_forwarded_some hf (if x = 1 then none else some (relTarget c.pc w.imm))
    rw [ht] at hd ⊢
    simp only [← sub_eq_zero (a := x)] at hd ⊢
    exact completes_loop hI h0 hx hw hfall hd

end Sys2Proof.Claims
end

section
/-! PROOFS. Block headers and issue control (R73, R75, R146, R147). -/

namespace Sys2Proof.Claims

open Sys2Proof.Machine

/-! ### Block headers -/

/-- The address that a header's reconvergence offset names where its guard's predicate is 0 in every lane (R75). -/
def headerTarget (c : Ctx) (h : HeaderWord) : Option Word :=
  if h.guard != 0 && c.rf.num (c.ploc h.guard) 8 == 0 then some (relTarget c.pc h.reconv) else none

/-- A header that its context enters leaves the record that R75 gives it. -/
theorem exec_blockHeader_of_enter {h : HeaderWord} {s : State} {c d : Ctx} (hc : s.ctx? s.sel.ctx = some c) (hd : enterBlock s c h = .ok d) :
    exec (.blockHeader h) s = .next ((s.forgetWalks c.key).setCtx d) := by
  rw [exec_blockHeader, execBlockHeader, hc]
  simp only [hd]

section
variable {h : HeaderWord} {s : State} {c : Ctx} (hown : c.follower = false) (hat : c.atHeader = true) (hwf : h.wf = true)
  (hready : h.guard = 0 ∨ s.predicatePending c (c.ploc h.guard) = false)
include hown hat hwf hready

/-- What the tests of a header leave to do where they pass. -/
theorem enterBlock_eq : enterBlock s c h = match headerTarget c h with
    | none => .ok { c with pc := c.pc + 8, atHeader := false,
                           blockEnd := c.pc + 8 + BitVec.ofNat 64 (8 * (if h.length = 0 then 256 else h.length.toNat)) }
    | some t => s.checkTarget c t >>= fun _ => .ok { c.clearLatch with pc := t, atHeader := true, blockEnd := 0 } := by
  have hnostall : (h.guard != 0 && s.predicatePending c (c.ploc h.guard)) = false := by
    rcases hready with hg | hp
    · simp [hg]
    · simp [hp]
  have hfwd : (if c.follower = true then c.fwd.drop 1 else c.fwd) = c.fwd := if_neg (by simp [hown])
  have htarget : (if (h.guard != 0 && c.rf.num (c.ploc h.guard) 8 == 0) = true then some (relTarget c.pc h.reconv) else none) = headerTarget c h :=
    rfl
  simp only [enterBlock, hat, hwf, require_true, requireAt_true, try_bind_ok, hnostall, hfwd,
    decide_of_forwarded_none (forwarded_of_not_follower hown), orFlags_zero, htarget, Bool.false_eq_true, if_false, try_pure]
  cases headerTarget c h <;> rfl

end

/-! ### Issue control -/

section
variable {w : FormA} {s : State} {c c' : Ctx} {x : Word}

/-- A uniform instruction that is itself a park and fires ends the region. -/
theorem completesPark_of_uniform {i : Instr} {s t : State} {c d : Ctx} {h : Common} {ops : List Operand} {priv : Bool} {dst : Option Operand}
    {body : State → Ctx → Try Done} (hexec : exec i s = runUniform s h priv dst ops body) (hF : Fires s c h ops)
    (hp : priv = true → c.supervisor = true) (hbody : body s c = .ok { s := t, c := d, ends := true }) : CompletesPark i s c h t d := by
  rw [CompletesPark, hexec]
  exact uni_ok hF hp hbody

theorem completes_nop (hF : Fires s c w.h []) : Completes (.nop w) s c w.h s c.clearLatch :=
  completes_of_uniform (exec_nop w s) hF (by simp) rfl

theorem completesPark_park (hF : Fires s c w.h []) (hpark : parkGate s c = .ok ()) : CompletesPark (.park w) s c w.h s c.clearLatch :=
  completesPark_of_uniform (exec_park w s) hF (by simp) (by simp only [hpark, try_bind_ok, try_pure])

theorem completesPark_yield (hF : Fires s c w.h []) (hpark : parkGate s c = .ok ()) (h : c.wait = .yield 0 ∨ s.othersReady c = false) :
    CompletesPark (.yield w) s c w.h s c.clearLatch := by
  have hgo : (c.wait != .yield 0 && s.othersReady c) = false := by
    rcases h with h | h <;> simp [h]
  exact completesPark_of_uniform (exec_yield w s) hF (by simp) (by simp only [hpark, try_bind_ok, try_pure, hgo, Bool.false_eq_true, if_false])

theorem exec_yield_of_others (hF : Fires s c w.h []) (hpark : parkGate s c = .ok ()) (ho : s.othersReady c = true)
    (hnot : ∀ d, c.wait ≠ .yield d) :
    exec (.yield w) s = .next (s.updCtx c fun d => match d.wait with
      | .yield _ => d
      | _ => { d with wait := .yield (s.cycle + 8) }) := by
  have hgo : (c.wait != .yield 0 && s.othersReady c) = true := by simp [ho, hnot 0]
  rw [exec_yield, execYield]
  exact uni_stall hF (by simp) (by simp only [hpark, try_bind_ok, hgo, if_true]; rfl)

section
variable (hF : Fires s c w.h [w.a]) (hx : readVal c w.a = .ok x) (hpark : parkGate s c = .ok ()) (hown : c.follower = false)
include hF hx hpark hown

theorem completesPark_wfe_of_event (he : c.evq ≠ []) (hw : writeVal s c w.dst 1 = .ok c') : CompletesPark (.wfe w) s c w.h s c' := by
  have hne : (!c.evq.isEmpty) = true := by simpa using he
  exact completesPark_of_uniform (exec_wfe w s) hF (by simp)
    (by simp only [hx, hpark, forwarded_of_not_follower hown, try_bind_ok, hne, if_true, hw, try_pure])

theorem completesPark_wfe_of_limit (he : c.evq = []) (hlim : c.wait = .wfe w (some 0)) (hw : writeVal s c w.dst 0 = .ok c') :
    CompletesPark (.wfe w) s c w.h s c' :=
  completesPark_of_uniform (exec_wfe w s) hF (by simp)
    (by simp [hx, hpark, forwarded_of_not_follower hown, he, hlim, show writeVal s c w.dst 0#64 = .ok c' from hw])

end

end

/-- Settles O7: a header is entered or skipped by the predicate of its guard, and each of the others has its branch of the body. -/
theorem blocksAndIssueControl : Obligations.BlocksAndIssueControl := by
  unfold Obligations.BlocksAndIssueControl
  refine ⟨fun h s c hc hown hat hwf hready => ⟨fun hstay => ?_, fun hskip ht => ?_⟩, fun w s c => completes_nop,
    fun w s c hF hpark => ⟨completesPark_park hF hpark, completesPark_yield hF hpark, exec_yield_of_others hF hpark⟩,
    fun w s c c' x hF hx hpark hown => ⟨completesPark_wfe_of_event hF hx hpark hown, completesPark_wfe_of_limit hF hx hpark hown⟩⟩
  · have htarget : headerTarget c h = none := if_neg (by simpa using hstay)
    refine exec_blockHeader_of_enter hc ?_
    rw [enterBlock_eq hown hat hwf hready, htarget]
  · have htarget : headerTarget c h = some (relTarget c.pc h.reconv) := if_pos (by simpa using hskip)
    refine exec_blockHeader_of_enter hc ?_
    rw [enterBlock_eq hown hat hwf hready, htarget]
    exact congrArg (· >>= _) ht

end Sys2Proof.Claims
end

section
/-! PROOFS. The system instructions: control registers, flags, views, slack and clocks, traps and returns (R87, R206, R208-R213). -/

namespace Sys2Proof.Machine

/-! ### Control registers -/

/-- FLAGS can be read where the context has no matrix command under way (R199). -/
theorem flagsReady_of_nil {s : State} {c : Ctx} (h : s.mxOf c = []) : flagsReady s c = .ok () := by simp [flagsReady, h]

/-- A bit of a register's writable fields (R6, R7). -/
theorem getLsbD_rwOf (fs : List (Nat × Nat)) (v k : Nat) :
    (rwOf fs v).getLsbD k = (decide (k < 64) && (v.testBit k && (fieldMask fs).testBit k)) := by
  rw [rwOf, BitVec.getLsbD_ofNat, show Nat.land v (fieldMask fs) = v &&& fieldMask fs from rfl, Nat.testBit_and]

/-- The fields of FLTDLG that can be written (R198). -/
theorem testBit_fieldMask_fltdlg : ∀ k < 64, (fieldMask [(20, 12), (10, 1)]).testBit k = decide (1 ≤ k ∧ k ≤ 20 ∧ k ≠ 11) := by decide

/-- The fields of ULEEN that can be written (R202). -/
theorem testBit_fieldMask_uleen : ∀ k < 64, (fieldMask [(5, 5), (3, 1)]).testBit k = (k == 1 || k == 2 || k == 3 || k == 5) := by decide

theorem getLsbD_fltdlg (v k : Nat) : (rwOf [(20, 12), (10, 1)] v).getLsbD k = (v.testBit k && decide (1 ≤ k ∧ k ≤ 20 ∧ k ≠ 11)) := by
  rw [getLsbD_rwOf]
  by_cases hk : k < 64
  · rw [testBit_fieldMask_fltdlg k hk, decide_eq_true hk, Bool.true_and]
  · rw [decide_eq_false hk, decide_eq_false (by omega), Bool.false_and, Bool.and_false]

theorem getLsbD_uleen (v k : Nat) : (rwOf [(5, 5), (3, 1)] v).getLsbD k = (v.testBit k && (k == 1 || k == 2 || k == 3 || k == 5)) := by
  rw [getLsbD_rwOf]
  by_cases hk : k < 64
  · rw [testBit_fieldMask_uleen k hk, decide_eq_true hk, Bool.true_and]
  · have hfalse : (k == 1 || k == 2 || k == 3 || k == 5) = false := by simp; omega
    rw [decide_eq_false hk, hfalse, Bool.false_and, Bool.and_false]

/-- VIEWB takes only bases that R140 accepts. -/
theorem setCsr_viewb (c : Ctx) (v w : Nat) :
    c.setCsr 0x002 v w = if viewOk (BitVec.ofNat 64 v) = true then .ok { c with viewb := BitVec.ofNat 64 v } else fault fcILLEGAL := rfl

/-! ### Views -/

/-- A bit of a number put together from four fields of 16 bits. -/
theorem testBit_fields {f : Nat → Nat} (hf : ∀ i, f i < 2 ^ 16) {k : Nat} (hk : k < 64) :
    (f 0 * 2 ^ 0 + f 1 * 2 ^ 16 + f 2 * 2 ^ 32 + f 3 * 2 ^ 48).testBit k = (f (k / 16)).testBit (k % 16) := by
  have hnest : f 0 * 2 ^ 0 + f 1 * 2 ^ 16 + f 2 * 2 ^ 32 + f 3 * 2 ^ 48 = 2 ^ 16 * (2 ^ 16 * (2 ^ 16 * f 3 + f 2) + f 1) + f 0 := by omega
  rw [hnest, Nat.testBit_two_pow_mul_add _ (hf 0), Nat.testBit_two_pow_mul_add _ (hf 1), Nat.testBit_two_pow_mul_add _ (hf 2)]
  have hdiv := Nat.div_add_mod k 16
  have hcases : k / 16 = 0 ∨ k / 16 = 1 ∨ k / 16 = 2 ∨ k / 16 = 3 := by omega
  rcases hcases with h | h | h | h
  · rw [if_pos (by omega), h, show k % 16 = k by omega]
  · rw [if_neg (by omega), if_pos (by omega), h, show k % 16 = k - 16 by omega]
  · rw [if_neg (by omega), if_neg (by omega), if_pos (by omega), h, show k % 16 = k - 16 - 16 by omega]
  · rw [if_neg (by omega), if_neg (by omega), if_neg (by omega), h, show k % 16 = k - 16 - 16 - 16 by omega]

/-- A field of the view bases after VIEW. -/
def viewField (old new : Word) (fields f : Nat) : Nat := bitsOf (if bitAt fields f then new else old).toNat (16 * f + 15) (16 * f)

theorem viewField_eq (old new : Word) (fields f : Nat) :
    viewField old new fields f = ((if fields.testBit f then new else old).toNat >>> (16 * f)) % 2 ^ 16 := by
  rw [viewField, bitsOf, bitAt_eq_testBit, show 16 * f + 15 + 1 - 16 * f = 16 by omega]

/-- A bit of the view bases after VIEW: of the operand where the instruction names its field, else the old one (R125, R210). -/
theorem getLsbD_viewOf (old new : Word) {n : Nat} (m : BitVec n) {k : Nat} (hk : k < 64) :
    (viewOf old new (m.toNat % 16)).getLsbD k = if m.getLsbD (k / 16) then new.getLsbD k else old.getLsbD k := by
  have hsum : viewOf old new (m.toNat % 16) = BitVec.ofNat 64 (viewField old new (m.toNat % 16) 0 * 2 ^ 0 + viewField old new (m.toNat % 16) 1 * 2 ^ 16 +
    viewField old new (m.toNat % 16) 2 * 2 ^ 32 + viewField old new (m.toNat % 16) 3 * 2 ^ 48) := rfl
  have hlt : ∀ i, viewField old new (m.toNat % 16) i < 2 ^ 16 := fun i => by
    rw [viewField_eq]
    exact Nat.mod_lt _ (by decide)
  have hbit : (m.toNat % 16).testBit (k / 16) = m.getLsbD (k / 16) := by
    rw [show 16 = 2 ^ 4 from rfl, Nat.testBit_mod_two_pow, decide_eq_true (by omega), Bool.true_and]
    rfl
  rw [hsum, BitVec.getLsbD_ofNat, decide_eq_true hk, Bool.true_and, testBit_fields hlt hk, viewField_eq, Nat.testBit_mod_two_pow,
    decide_eq_true (by omega), Bool.true_and, Nat.testBit_shiftRight, show 16 * (k / 16) + k % 16 = k by omega, hbit]
  cases m.getLsbD (k / 16) <;> rfl

end Sys2Proof.Machine

namespace Sys2Proof.Claims

open Sys2Proof.Machine

section
variable {w : FormI} {s t : State} {c d : Ctx} {x : Word}

theorem givesValue_csrr (hfl : w.imm.toNat % 4096 ≠ 0 ∨ s.mxOf c = []) :
    GivesValue (.csrr w) w.h w.dst [] s c (BitVec.ofNat 64 (s.csr c (w.imm.toNat % 4096))) 0 := by
  refine gives (exec_csrr w s) ?_
  by_cases hn : w.imm.toNat % 4096 = 0
  · simp [hn, flagsReady_of_nil (hfl.resolve_left (not_not_intro hn))]
  · simp [hn]

variable (hF : Fires s c w.h [w.a]) (hx : readVal c w.a = .ok x) (hp : csrPrivileged (w.imm.toNat % 4096) = true → c.supervisor = true)
include hF hx hp

theorem completes_csrw (hset : setCsr s c (w.imm.toNat % 4096) x.toNat x.toNat true = .ok (t, d)) : Completes (.csrw w) s c w.h t d.clearLatch := by
  rw [Completes, exec_csrw, execCsrw]
  exact uni_ok hF hp (by simp [hx, hset])

section
variable (hfl : w.imm.toNat % 4096 ≠ 0 ∨ s.mxOf c = [])
include hfl

theorem completes_csrs
    (hset : setCsr s c (w.imm.toNat % 4096) (s.csr c (w.imm.toNat % 4096) ||| x.toNat) 0 (bitsOf x.toNat 47 32 != 0) = .ok (t, d)) :
    Completes (.csrs w) s c w.h t d.clearLatch := by
  rw [Completes, exec_csrs, execCsrs]
  refine uni_ok hF hp ?_
  replace hset : setCsr s c (w.imm.toNat % 4096) (Nat.lor (s.csr c (w.imm.toNat % 4096)) x.toNat) 0 (bitsOf x.toNat 47 32 != 0) = .ok (t, d) := hset
  by_cases hn : w.imm.toNat % 4096 = 0
  · simp only [hx, try_bind_ok, if_pos hn, flagsReady_of_nil (hfl.resolve_left (not_not_intro hn)), hset, try_pure]
  · simp only [hx, try_bind_ok, if_neg hn, hset, try_pure]

theorem completes_csrc
    (hset : setCsr s c (w.imm.toNat % 4096) (s.csr c (w.imm.toNat % 4096) &&& (2 ^ 64 - 1 - x.toNat)) x.toNat (bitsOf x.toNat 47 32 != 0) =
      .ok (t, d)) : Completes (.csrc w) s c w.h t d.clearLatch := by
  rw [Completes, exec_csrc, execCsrc]
  refine uni_ok hF hp ?_
  replace hset : setCsr s c (w.imm.toNat % 4096) (Nat.land (s.csr c (w.imm.toNat % 4096)) (2 ^ 64 - 1 - x.toNat)) x.toNat
    (bitsOf x.toNat 47 32 != 0) = .ok (t, d) := hset
  by_cases hn : w.imm.toNat % 4096 = 0
  · simp only [hx, try_bind_ok, if_pos hn, flagsReady_of_nil (hfl.resolve_left (not_not_intro hn)), hset, try_pure]
  · simp only [hx, try_bind_ok, if_neg hn, hset, try_pure]

end

end

/-- Settles O8: the instructions by their bodies, and the fields of each register by its branch of setCsr and the bits of its mask. -/
theorem controlRegisters : Obligations.ControlRegisters := by
  unfold Obligations.ControlRegisters
  refine ⟨⟨fun w s c => givesValue_csrr, fun w s t c d x hF hx hp => ⟨completes_csrw hF hx hp, fun hfl =>
    ⟨completes_csrs hF hx hp hfl, completes_csrc hF hx hp hfl⟩⟩⟩, fun c d v w => ⟨fun h => ?_, fun h => ?_, fun h => ?_, fun h => ?_, fun h => ?_,
    fun h => ?_, fun h => ?_, fun h => ?_⟩⟩
  · exact (Except.ok.inj h).symm
  · exact (Except.ok.inj h).symm
  · rw [setCsr_viewb] at h
    split at h
    · exact ⟨‹_›, (Except.ok.inj h).symm⟩
    · cases h
  · rw [setCsr_viewb, if_neg (by simp [h])]
  · obtain rfl := Except.ok.inj h
    simp only [bitAt_eq_testBit]
  · exact ⟨_, (Except.ok.inj h).symm, getLsbD_uleen v⟩
  · exact ⟨_, (Except.ok.inj h).symm, getLsbD_fltdlg v⟩
  · exact (Except.ok.inj h).symm

/-! ### Flags, views, slack and clocks -/

section
variable {w : FormA} {s : State} {c : Ctx} {x : Word} (hmx : s.mxOf c = [])
include hmx

theorem givesValue_flagrd : GivesValue (.flagrd w) w.h w.dst [] s c c.flags 0 :=
  gives (exec_flagrd w s) (by simp [flagsReady_of_nil hmx])

theorem completes_flagclr (hF : Fires s c w.h [w.a]) (hx : readVal c w.a = .ok x) :
    Completes (.flagclr w) s c w.h s { c with flags := c.flags &&& ~~~x, latch := .empty, latchTok := none } :=
  completes_of_uniform (exec_flagclr w s) hF (by simp) (by simp only [hx, try_bind_ok, flagsReady_of_nil hmx, try_pure, Ctx.clearLatch])

theorem completes_tfence (hF : Fires s c w.h []) (hnone : c.flags &&& c.flagen = 0) : Completes (.tfence w) s c w.h s c.clearLatch :=
  completes_of_uniform (exec_tfence w s) hF (by simp) (by simp only [flagsReady_of_nil hmx, try_bind_ok, if_neg (show ¬(c.flags &&& c.flagen).toNat ≠ 0 by simp [hnone]), try_pure])

theorem faults_tfence (hF : Fires s c w.h []) (hsome : c.flags &&& c.flagen ≠ 0) :
    Faults (.tfence w) s c { code := fcARITH, detail := (c.flags &&& c.flagen).toNat } := by
  have hne : (c.flags &&& c.flagen).toNat ≠ 0 := fun h => hsome (BitVec.eq_of_toNat_eq (h.trans BitVec.toNat_zero.symm))
  rw [Faults, exec_tfence, execTfence]
  exact uni_trap hF (by simp) (by simp only [flagsReady_of_nil hmx, try_bind_ok, if_pos hne, try_bind_error])

end

section
variable {w : FormI} {s : State} {c : Ctx} {x v : Word} (hF : Fires s c w.h [w.a]) (hx : readVal c w.a = .ok x)
  (hv : ∀ k, k < 64 → v.getLsbD k = if w.imm.getLsbD (k / 16) then x.getLsbD k else c.viewb.getLsbD k)
include hv

theorem viewOf_eq : viewOf c.viewb x (w.imm.toNat % 16) = v :=
  BitVec.eq_of_getLsbD_eq fun k hk => (getLsbD_viewOf c.viewb x w.imm hk).trans (hv k hk).symm

include hF hx

theorem completesPark_view (hok : viewOk v = true) (hpark : parkGate s c = .ok ()) :
    CompletesPark (.view w) s c w.h s { c with viewb := v, latch := .empty, latchTok := none } :=
  completesPark_of_uniform (exec_view w s) hF (by simp) (by
    rw [hx, try_bind_ok, viewOf_eq hv]
    simp only [hok, require_true, try_bind_ok, hpark, try_pure, Ctx.clearLatch])

theorem faults_view (hbad : viewOk v = false) : Faults (.view w) s c { code := fcILLEGAL } := by
  rw [Faults, exec_view, execView]
  exact uni_trap hF (by simp) (by
    rw [hx, try_bind_ok, viewOf_eq hv]
    simp only [hbad, require_false, fault, try_bind_error])

end

/-- Settles O9: each instruction by its body; the bits of the new view bases are those of viewOf. -/
theorem flagsViewsSlackAndClocks : Obligations.FlagsViewsSlackAndClocks := by
  unfold Obligations.FlagsViewsSlackAndClocks
  refine ⟨fun w s c hmx => ⟨givesValue_flagrd hmx, fun x hF hx => completes_flagclr hmx hF hx, completes_tfence hmx, faults_tfence hmx⟩,
    fun w s c x v hF hx hv => ⟨completesPark_view hF hx hv, faults_view hF hx hv⟩, fun w s c x hF hx => ?_,
    fun w s c => ⟨gives (exec_cycle w s) rfl, gives (exec_podtime w s) rfl⟩⟩
  exact completes_of_uniform (exec_setslk w s) hF (by simp) (by simp [hx, Ctx.clearLatch])

end Sys2Proof.Claims

namespace Sys2Proof.Machine

/-! ### Returns -/

@[simp] theorem Ctx.refreshLatch_wait (c : Ctx) : c.refreshLatch.wait = c.wait := by
  unfold Ctx.refreshLatch; split <;> [split; skip] <;> rfl
@[simp] theorem Ctx.refreshLatch_follower (c : Ctx) : c.refreshLatch.follower = c.follower := by
  unfold Ctx.refreshLatch; split <;> [split; skip] <;> rfl
@[simp] theorem Ctx.refreshLatch_key (c : Ctx) : c.refreshLatch.key = c.key := by
  unfold Ctx.refreshLatch; split <;> [split; skip] <;> rfl

/-- A return of a context that no leader drives, to a place where no park goes on (R212). -/
theorem finishReturn_of_own {s : State} {c : Ctx} (hown : c.follower = false) (hwait : c.wait = .none) :
    finishReturn s c = (s.forgetWalks c.key).setCtx c.endRegion := by
  have hfwd : { c.endRegion with fwd := if c.follower then c.fwd.drop 1 else c.fwd } = c.endRegion := by rw [hown]; rfl
  have hpark : (c.endRegion).wait = .none := hwait
  rw [finishReturn, hfwd, State.resumePark, hpark]
  rfl

/-- A return to the place that was saved, where no marked instruction's park goes on (R212). -/
theorem comeBack_saved (c : Ctx) {sv : Saved} (hnext : sv.next = none) :
    c.comeBack sv sv.pc = { c with latch := sv.latch, latchTok := sv.latchTok, pc := sv.pc, blockEnd := sv.blockEnd, atHeader := sv.atHeader,
                                   wait := .none }.refreshLatch := by
  rw [Ctx.comeBack, if_pos rfl, hnext]
  rfl

/-- What a return to a saved place leaves. -/
theorem finishReturn_comeBack {s : State} {c : Ctx} {sv : Saved} {t : Word} (ht : t = sv.pc) (hown : c.follower = false) (hnext : sv.next = none) :
    finishReturn s (c.comeBack sv t) = (s.forgetWalks c.key).setCtx
      { c with latch := sv.latch, latchTok := sv.latchTok, pc := sv.pc, blockEnd := sv.blockEnd, atHeader := sv.atHeader,
               wait := .none }.refreshLatch.endRegion := by
  rw [ht, comeBack_saved c hnext, finishReturn_of_own (by simpa using hown) (by simp), Ctx.refreshLatch_key]

end Sys2Proof.Machine

namespace Sys2Proof.Claims

open Sys2Proof.Machine

section
variable {w : FormI} {s : State} {c : Ctx} {x : Word} (hF : Fires s c w.h [w.a]) (hx : readVal c w.a = .ok x)
include hF hx

theorem faults_trap (hcond : w.imm.toNat % 2 ^ 16 < 0x8000 ∨ c.supervisor = true ∨ c.svec = 0) :
    Faults (.trap w) s c { code := fcTRAP, detail := w.imm.toNat % 2 ^ 16, addr := x, nextPc := true } := by
  rw [Faults, exec_trap, execTrap]
  exact uni_trap hF (by simp) (by simp only [hx, try_bind_ok, if_pos hcond])

theorem exec_trap_of_supervisorCall (hcode : 0x8000 ≤ w.imm.toNat % 2 ^ 16) (huser : c.supervisor = false) (hvec : c.svec ≠ 0)
    (hpark : parkGate s c = .ok ()) :
    exec (.trap w) s = .next (({ s := s, c := c.enterSupervisor (w.imm.toNat % 2 ^ 16) x, jump := some c.svec, ends := true } : Done).finish c w.h) := by
  have hcond : ¬(w.imm.toNat % 2 ^ 16 < 0x8000 ∨ c.supervisor = true ∨ c.svec = 0) := by
    rintro (h | h | h)
    · exact absurd h (Nat.not_lt.mpr hcode)
    · simp [huser] at h
    · exact hvec h
  rw [exec_trap, execTrap]
  exact uni_ok hF (by simp) (by simp only [hx, try_bind_ok, if_neg hcond, hpark, try_pure])

end

section
variable {w : FormA} {s : State} {c : Ctx} {sv : Saved} (hF : Fires s c w.h []) (hpark : parkGate s c = .ok ()) 

/-- An instruction that leaves its context's place to its own state. -/
theorem exec_of_left {i : Instr} {h : Common} {ops : List Operand} {priv : Bool} {dst : Option Operand} {body : State → Ctx → Try Done} {t : State}
    {d : Ctx} (hexec : exec i s = runUniform s h priv dst ops body) (hF : Fires s c h ops) (hp : priv = true → c.supervisor = true)
    (hbody : body s c = .ok { s := t, c := d, left := true }) : exec i s = .next t := by
  rw [hexec]
  exact uni_ok hF hp hbody

include hF hpark

theorem faults_eretu (hidle : c.uleActive = false) : Faults (.eretu w) s c { code := fcILLEGAL } := by
  rw [Faults, exec_eretu, execEretu]
  exact uni_trap hF (by simp) (by simp [hpark, hidle, fault])

variable (hown : c.follower = false) (hnext : sv.next = none)
include hown hnext

theorem exec_eret_of_saved (hsup : c.supervisor = true) (hsv : c.svSaved = some sv) (hpc : c.svpc = sv.pc) :
    exec (.eret w) s = .next ((s.forgetWalks c.key).setCtx
      { c with supervisor := false, svSaved := none, latch := sv.latch, latchTok := sv.latchTok, pc := sv.pc, blockEnd := sv.blockEnd,
               atHeader := sv.atHeader, wait := .none }.refreshLatch.endRegion) := by
  refine exec_of_left (d := { c with supervisor := false, svSaved := none }.comeBack sv c.svpc) (exec_eret w s) hF (fun _ => hsup) ?_
  have hstay : ¬c.svpc ≠ sv.pc := not_not_intro hpc
  simp only [hpark, try_bind_ok, hsv, if_neg hstay, try_pure]
  rw [finishReturn_comeBack (c := { c with supervisor := false, svSaved := none }) hpc hown hnext]

theorem exec_eretu_of_saved (hact : c.uleActive = true) (hsv : c.uleSaved = some sv) (hpc : c.rf.num (0x8800 + 16) 8 = sv.pc.toNat) :
    exec (.eretu w) s = .next ((s.forgetWalks c.key).setCtx
      { c with uleActive := false, uleKind := 0, uleSaved := none, latch := sv.latch, latchTok := sv.latchTok, pc := sv.pc,
               blockEnd := sv.blockEnd, atHeader := sv.atHeader, wait := .none }.refreshLatch.endRegion) := by
  have howner : BitVec.ofNat 64 (c.rf.num (handlerBase + 16) 8) = sv.pc := by
    rw [show c.rf.num (handlerBase + 16) 8 = sv.pc.toNat from hpc, BitVec.ofNat_toNat, BitVec.setWidth_eq]
  refine exec_of_left (d := { c with uleActive := false, uleKind := 0, uleSaved := none }.comeBack sv sv.pc) (exec_eretu w s) hF (by simp) ?_
  simp only [hpark, try_bind_ok, hact, require_true, hsv, forwarded_of_not_follower hown, howner, ne_eq, not_true_eq_false, if_false, bne_self_eq_false,
    try_pure]
  rw [show flagIf false flagDIV = 0 from rfl, orFlags_zero, 
    finishReturn_comeBack (c := { c with uleActive := false, uleKind := 0, uleSaved := none }) rfl hown hnext]

end

theorem faults_priv {i : Instr} {s : State} {c : Ctx} {h : Common} {dst : Option Operand} {ops : List Operand} {body : State → Ctx → Try Done}
    (hexec : exec i s = runUniform s h true dst ops body) (hc : s.ctx? s.sel.ctx = some c) (hu : c.supervisor = false) :
    Faults i s c { code := fcPRIV } := by
  rw [Faults, hexec]
  exact runInstr_priv hc hu

/-- Settles O10: TRAP and the returns by their bodies, and every privileged instruction by the check of its frame. -/
theorem trapsPrivilegeAndReturns : Obligations.TrapsPrivilegeAndReturns := by
  unfold Obligations.TrapsPrivilegeAndReturns
  refine ⟨⟨fun w s c x hF hx => ⟨faults_trap hF hx, exec_trap_of_supervisorCall hF hx⟩, fun w s c sv hF hpark hown hnext =>
    ⟨exec_eret_of_saved hF hpark hown hnext, exec_eretu_of_saved hF hpark hown hnext, faults_eretu hF hpark⟩⟩,
    fun s c hc hu => ⟨fun w => faults_priv (exec_eret w s) hc hu, fun w _ hp => ?_, fun w => ?_⟩⟩
  · rw [Faults, Faults, Faults, exec_csrw, exec_csrs, exec_csrc, execCsrw, execCsrs, execCsrc, hp]
    exact ⟨runInstr_priv hc hu, runInstr_priv hc hu, runInstr_priv hc hu⟩
  · have hpreempt : ∀ kill, runPreempt w kill s = .next (s.dueFault c { code := fcPRIV }) := fun kill => by
      rw [runPreempt]
      exact runInstr_priv hc hu
    simp only [List.forall_mem_cons]
    exact ⟨faults_priv (exec_dombind w s) hc hu, faults_priv (exec_dombindFree w s) hc hu, hpreempt false,
      hpreempt true, faults_priv (exec_resume w s) hc hu, faults_priv (exec_resumeCtx w s) hc hu,
      faults_priv (exec_resumeRemove w s) hc hu, faults_priv (exec_reloc w s) hc hu, faults_priv (exec_tlbinv w s) hc hu,
      faults_priv (exec_tlbinvAll w s) hc hu, faults_priv (exec_migr w s) hc hu, by simp⟩

end Sys2Proof.Claims
end

section
/-! PROOFS. Arriving, waiting and leaving a task (R148, R252, R259, R262, R264). -/

namespace Sys2Proof.Machine

/-- A result field that names a register takes the result (R263). -/
theorem writeOpt_of_result {s : State} {c : Ctx} {o : Operand} (h : noResult o = false) (x : Word) : writeOpt s c o x = writeVal s c o x :=
  if_neg (by simp [h])

/-- The context's record after it has taken a step's completion (R252). -/
def Ctx.afterStep (c : Ctx) (r : StepResult) : Ctx :=
  { c with snapshot := r.counters, report := r.report, arrival := none, frozen := none }.orFlags r.flags

/-- Taking a completion whose result can be written. -/
theorem takeStep_of_ok {s : State} {c d : Ctx} {o : Operand} {r : StepResult}
    (hw : writeOpt (s.dropPackets (.result c.task c.rank)) (c.afterStep r) o r.value = .ok d) :
    takeStep s c o r = .ok { s := s.dropPackets (.result c.task c.rank), c := d, ends := true } := by
  rw [Ctx.afterStep] at hw
  simp only [takeStep, hw, try_bind_ok, try_pure]

/-- The result of a completed step has come to the context's tile. -/
theorem stepThere_of_done {s : State} {c : Ctx} {a : Arrival} (hcome : s.packetsDone (.result c.task c.rank) = true) :
    s.stepThere c a = a.done := if_pos hcome

/-! ### Leaving -/

section
variable {s : State} {c : Ctx} {how : Absence}

theorem leave_ctxs : (s.leave c how).ctxs = s.ctxs.filter fun d => !d.same c := by simp [State.leave, State.dropLists, State.updDomains]
theorem leave_mem : (s.leave c how).mem = s.mem := by simp [State.leave, State.dropLists, State.updDomains]
theorem leave_staged : (s.leave c how).staged = s.staged := by simp [State.leave, State.dropLists, State.updDomains]

/-- The context is absent in each of its domains (R259), and a context of no task is in none (R247). -/
theorem leave_domains : (s.leave c how).domains = s.domains.map fun d =>
    if d.task = c.task ∧ c.task ≠ 0 ∧ (d.level = 5 ∨ d.unit = unitOf d.level c.key.tile) then { d with absent := d.absent ++ [(c.rank, how)] } else d := by
  simp [State.leave, State.dropLists, State.updDomains, and_assoc]

end

end Sys2Proof.Machine

namespace Sys2Proof.Claims

open Sys2Proof.Machine

section
variable {w : FormX} {s : State} {c : Ctx}

/-! ### Arriving -/

section
variable {x : Arrived} (hF : Fires s c w.h [w.b, w.c]) (hnone : c.arrival = none) (hbound : c.bound (w.sub.toNat % 8) = true)
  (hx : arrivalOf c w = .ok x) (hgate : arriveGate s c (w.sub.toNat % 8) = .ok ())
include hF hnone hbound hx hgate

theorem completes_arrive : Completes (.arrive w) s c w.h
    (s.sendBarrier (.arrival c.task c.rank) (w.sub.toNat % 8) c.key.tile (barrierRoot (w.sub.toNat % 8) c.key.tile))
    { c with arrival := some { level := w.sub.toNat % 8, sent := some x, sync := false, done := none }, frozen := some s.now, latch := .empty,
             latchTok := none } := by
  rw [Completes, exec_arrive, execArrive]
  exact uni_ok hF (by simp) (by
    simp only [hnone, Option.isNone_none, require_true, try_bind_ok, hbound, hx, hgate, try_pure, Ctx.clearLatch])

theorem exec_sync_of_arrival (hdst : ∃ c', writeOpt s c w.a 0 = .ok c') : exec (.sync w) s = .next
    ((s.updCtx c fun d => { d with wait := .park, arrival := some { level := w.sub.toNat % 8, sent := some x, sync := true, done := none } }).sendBarrier
      (.arrival c.task c.rank) (w.sub.toNat % 8) c.key.tile (barrierRoot (w.sub.toNat % 8) c.key.tile)) := by
  obtain ⟨c', hw⟩ := hdst
  rw [exec_sync, execSync]
  exact uni_stall hF (by simp) (by simp only [hnone, require_true, try_bind_ok, hbound, hx, hw, hgate]; rfl)

end

/-! ### Taking a completion -/

section
variable {a : Arrival} {r : StepResult} {d : Ctx} (harr : c.arrival = some a) (hdone : a.done = some r)
  (hcome : s.packetsDone (.result c.task c.rank) = true)
  (hw : writeOpt (s.dropPackets (.result c.task c.rank)) (c.afterStep r) w.a r.value = .ok d)
include harr hdone hcome hw

theorem completesPark_sync (hF : Fires s c w.h [w.b, w.c]) (hsync : a.sync = true) :
    CompletesPark (.sync w) s c w.h (s.dropPackets (.result c.task c.rank)) d :=
  completesPark_of_uniform (exec_sync w s) hF (by simp)
    (by simp only [harr, hsync, require_true, try_bind_ok, stepThere_of_done hcome, hdone, takeStep_of_ok hw])

theorem completesPark_waits {d' : Ctx} (hF : Fires s c w.h []) (hdst : writeOpt s c w.a 0 = .ok d') (hpark : parkGate s c = .ok ()) :
    CompletesPark (.waits w) s c w.h (s.dropPackets (.result c.task c.rank)) d :=
  completesPark_of_uniform (exec_waits w s) hF (by simp)
    (by simp only [harr, hdst, try_bind_ok, hpark, stepThere_of_done hcome, hdone, takeStep_of_ok hw])

end

/-! ### What is ILLEGAL -/

theorem faults_sync_of_outstanding {a : Arrival} (hF : Fires s c w.h [w.b, w.c]) (harr : c.arrival = some a) (hsync : a.sync = false) :
    Faults (.sync w) s c { code := fcILLEGAL } := by
  rw [Faults, exec_sync, execSync]
  exact uni_trap hF (by simp) (by simp only [harr, hsync, require_false]; rfl)

theorem faults_arrive_of_outstanding {a : Arrival} (hF : Fires s c w.h [w.b, w.c]) (harr : c.arrival = some a) :
    Faults (.arrive w) s c { code := fcILLEGAL } := by
  rw [Faults, exec_arrive, execArrive]
  exact uni_trap hF (by simp) (by simp only [harr, Option.isNone_some, require_false]; rfl)

theorem faults_sync_of_unbound (hF : Fires s c w.h [w.b, w.c]) (hnone : c.arrival = none) (hbound : c.bound (w.sub.toNat % 8) = false) :
    Faults (.sync w) s c { code := fcILLEGAL } := by
  rw [Faults, exec_sync, execSync]
  exact uni_trap hF (by simp) (by simp only [hnone, hbound, require_false]; rfl)

theorem faults_arrive_of_unbound (hF : Fires s c w.h [w.b, w.c]) (hnone : c.arrival = none) (hbound : c.bound (w.sub.toNat % 8) = false) :
    Faults (.arrive w) s c { code := fcILLEGAL } := by
  rw [Faults, exec_arrive, execArrive]
  exact uni_trap hF (by simp) (by simp only [hnone, Option.isNone_none, require_true, try_bind_ok, hbound, require_false]; rfl)

theorem faults_waits_of_none (hF : Fires s c w.h []) (hnone : c.arrival = none) : Faults (.waits w) s c { code := fcILLEGAL } := by
  rw [Faults, exec_waits, execWaits]
  exact uni_trap hF (by simp) (by simp only [hnone]; rfl)

end

/-! ### Leaving -/

theorem exec_exit_of_placed {w : FormA} {s : State} {c : Ctx} (hF : Fires s c w.h []) (hpark : parkGate s c = .ok ())
    (hwork : workGate s c .all = .ok ()) (hplaced : s.workPlaced c = true) (hsent : ∀ a, c.arrival = some a → a.sent = none) :
    exec (.exit w) s = .next (s.leave c (if w.mod.getLsbD 0 then .strictExit else .exit)) := by
  refine exec_of_left (d := c) (exec_exit w s) hF (by simp) ?_
  rcases harr : c.arrival with _ | ⟨level, sent, sync, done⟩
  · simp only [hpark, hwork, hplaced, try_bind_ok, try_pure, Bool.not_true, Bool.false_eq_true, if_false]
  · obtain rfl : sent = none := hsent _ harr
    simp only [hpark, hwork, hplaced, try_bind_ok, try_pure, Bool.not_true, Bool.false_eq_true, if_false]

/-- Settles O12: each instruction by the branch of its body that the arrival outstanding selects, and EXIT by what leaving a task changes. -/
theorem arrivingWaitingAndLeaving : Obligations.ArrivingWaitingAndLeaving := by
  unfold Obligations.ArrivingWaitingAndLeaving
  refine ⟨⟨fun w s c x hF hnone hbound hx hgate => ⟨completes_arrive hF hnone hbound hx hgate, exec_sync_of_arrival hF hnone hbound hx hgate⟩,
    fun w s c a r harr hdone hcome => ⟨fun hsync hF => ⟨fun hno => ?_, fun hno d hw => ?_⟩, fun hF hpark => ⟨fun hno => ?_, fun hno hdst d hw => ?_⟩⟩⟩,
    ⟨fun w s c a hF harr hsync => ⟨faults_sync_of_outstanding hF harr hsync, faults_arrive_of_outstanding hF harr⟩,
      fun w s c hF hnone hbound => ⟨faults_sync_of_unbound hF hnone hbound, faults_arrive_of_unbound hF hnone hbound⟩,
      fun w s c => faults_waits_of_none⟩,
    fun w s c hF hpark hwork hplaced hsent => ⟨_, exec_exit_of_placed hF hpark hwork hplaced hsent, leave_ctxs, leave_mem, leave_staged, leave_domains⟩⟩
  · exact completesPark_sync harr hdone hcome (writeOpt_of_noResult hno _) hF hsync
  · exact completesPark_sync harr hdone hcome ((writeOpt_of_result hno _).trans hw) hF hsync
  · exact completesPark_waits harr hdone hcome (writeOpt_of_noResult hno _) hF (writeOpt_of_noResult hno _) hpark
  · obtain ⟨d', hd'⟩ := hdst
    exact completesPark_waits harr hdone hcome ((writeOpt_of_result hno _).trans hw) hF ((writeOpt_of_result hno _).trans hd') hpark

end Sys2Proof.Claims
end

section
/-! PROOFS. Private memory: the regions, the checks of an access, and loads and stores that pass them (R24, R45, R135, R189-R193). -/

namespace Sys2Proof.Machine

/-- A part that completes hands on its value. -/
theorem try_bind_of_ok {α β : Type} {x : Try α} {a : α} (h : x = .ok a) (f : α → Try β) : x >>= f = f a := by
  rw [h]
  rfl

/-! ### Regions -/

section
variable {a : Word}

theorem regionOf_localMem (h : a.toNat < 0x100000) : regionOf a = some (.localMem, 0x100000) := by simp [regionOf, h]

theorem regionOf_window (h : 0x100000 ≤ a.toNat) (h' : a.toNat < 0x108000) : regionOf a = some (.window, 0x108000) := by
  simp [regionOf, h', Nat.not_lt.mpr h]

theorem regionOf_aperture (h : 0x200000 ≤ a.toNat) (h' : a.toNat < 0x210000) : regionOf a = some (.aperture, 0x210000) := by
  rw [regionOf, if_neg (by omega), if_neg (by omega), if_neg (by omega), if_pos h']

theorem regionOf_status (h : 0x210000 ≤ a.toNat) (h' : a.toNat < 0x211000) : regionOf a = some (.status, 0x211000) := by
  rw [regionOf, if_neg (by omega), if_neg (by omega), if_neg (by omega), if_neg (by omega), if_pos h']

theorem regionOf_hole (h : (0x108000 ≤ a.toNat ∧ a.toNat < 0x200000) ∨ 0x211000 ≤ a.toNat) : regionOf a = none := by
  rcases h with ⟨h, h'⟩ | h
  · rw [regionOf, if_neg (by omega), if_neg (by omega), if_pos h']
  · rw [regionOf, if_neg (by omega), if_neg (by omega), if_neg (by omega), if_neg (by omega), if_neg (by omega)]

/-- An address outside the holes lies in a region whose end is a multiple of every access width. -/
theorem regionOf_of_not_hole (h : ¬((0x108000 ≤ a.toNat ∧ a.toNat < 0x200000) ∨ 0x211000 ≤ a.toNat)) : ∃ r last, regionOf a = some (r, last) := by
  by_cases h1 : a.toNat < 0x100000
  · exact ⟨_, _, regionOf_localMem h1⟩
  by_cases h2 : a.toNat < 0x108000
  · exact ⟨_, _, regionOf_window (by omega) h2⟩
  by_cases h3 : a.toNat < 0x210000
  · exact ⟨_, _, regionOf_aperture (by omega) h3⟩
  · exact ⟨_, _, regionOf_status (by omega) (by omega)⟩

/-! ### Hazards and checks -/

/-- Only a window access can meet a byte that is pending from a direct write (R135). -/
theorem windowPending_of_region {c : Ctx} {n : Nat} (h : (regionOf a).map (fun r => r.1) ≠ some .window) : windowPending c a n = false := by
  unfold windowPending
  split
  · rename_i hr
    simp [hr] at h
  · rfl

/-- Only a window store can meet a byte that a matrix command has still to read (R134). -/
theorem windowRead?_of_region {s : State} {c : Ctx} {n : Nat} {b : Bool} (h : (regionOf a).map (fun r => r.1) ≠ some .window) :
    windowRead? s c a n b = false := by
  unfold windowRead?
  split
  · rename_i hr
    simp [hr] at h
  · rfl

theorem windowRead?_of_window {s : State} {c : Ctx} {n : Nat} {b : Bool} (h : 0x100000 ≤ a.toNat) (h' : a.toNat < 0x108000) :
    windowRead? s c a n b = (meetsAny (s.readPending c) (a.toNat - 0x100000) n && (!b || meetsAny c.readPend (a.toNat - 0x100000) n)) := by
  simp only [windowRead?, regionOf_window h h']

/-- A window store that no matrix command has still to read before is free in either sense (R134). -/
theorem windowRead?_of_not_meets {s : State} {c : Ctx} {n : Nat} {b : Bool} (h : meetsAny (s.readPending c) (a.toNat - 0x100000) n = false) :
    windowRead? s c a n b = false := by
  unfold windowRead?
  split
  · simp [h]
  · rfl

theorem windowHazard_load {s : State} {c : Ctx} {n : Nat} (h : windowPending c a n = false) :
    windowHazard s c [{ pos := 0, addr := a, len := n }] false = .ok () := by simp [windowHazard, h]

theorem windowHazard_store {s : State} {c : Ctx} {n : Nat} (h : windowPending c a n = false) (h' : windowRead? s c a n true = false) :
    windowHazard s c [{ pos := 0, addr := a, len := n }] true = .ok () := by simp [windowHazard, h, h']

theorem windowHazard_of_pending {s : State} {c : Ctx} {n : Nat} {store : Bool} (h : windowPending c a n = true) :
    windowHazard s c [{ pos := 0, addr := a, len := n }] store = fault fcHAZARD := by simp [windowHazard, h]

section
variable {r : Region} {last n align element : Nat} {store word : Bool}

theorem checkPrivate_of_hole (h : regionOf a = none) : checkPrivate a n align element store word = faultAt fcUNMAPPED a element := by
  simp only [checkPrivate, h]

theorem checkPrivate_of_misaligned (hr : regionOf a = some (r, last)) (halign : a.toNat % align ≠ 0) :
    checkPrivate a n align element store word = faultAt fcALIGN a element := by
  simp only [checkPrivate, hr, if_pos halign]
  rfl

section
variable (hr : regionOf a = some (r, last)) (halign : a.toNat % align = 0) (hfit : a.toNat + n ≤ last)
include hr halign hfit

theorem checkPrivate_of_protected (hp : (r = .aperture ∧ (!word) = true) ∨ (r = .status ∧ store = true)) :
    checkPrivate a n align element store word = faultAt fcPROTECT a element := by
  simp only [checkPrivate, hr, halign, ne_eq, not_true_eq_false, if_false, Nat.not_lt.mpr hfit, if_pos hp]
  rfl

theorem checkPrivate_ok (hp : ¬((r = .aperture ∧ (!word) = true) ∨ (r = .status ∧ store = true))) :
    checkPrivate a n align element store word = .ok r := by
  simp only [checkPrivate, hr, halign, ne_eq, not_true_eq_false, if_false, Nat.not_lt.mpr hfit, if_neg hp, try_pure]

end

end

/-- An aligned access of a width that divides the region's end lies within the region. -/
theorem fits_of_aligned {n last : Nat} (hn : n ∈ [1, 2, 4, 8]) (hlast : last % 8 = 0) (halign : a.toNat % n = 0) (h : a.toNat < last) :
    a.toNat + n ≤ last := by
  simp only [List.mem_cons, List.not_mem_nil, or_false] at hn
  rcases hn with rfl | rfl | rfl | rfl <;> omega

end

/-- A destination that takes a write is no HAZARD before it (R189). -/
theorem destHazard_of_writeVal {s : State} {c c' : Ctx} {o : Operand} {x : Word} (h : writeVal s c o x = .ok c') : destHazard s c o 8 = .ok () := by
  unfold destHazard
  split
  · rfl
  · rename_i a hp0 ha
    obtain ⟨hwin, hread, -⟩ := writeVal_eq_ok hp0 ha h
    exact writeHazard_ok hwin hread
  · rfl

theorem destHazard_of_writeElems {s : State} {c c' : Ctx} {o : Operand} {n : Nat} {g : Word} {xs : List Nat} (h : writeElems s c o n g xs = .ok c') :
    destHazard s c o 256 = .ok () := by
  unfold destHazard
  split
  · rfl
  · rename_i a _ ha
    obtain ⟨hwin, hread, -⟩ := writeElems_eq_ok ha h
    exact writeHazard_ok hwin hread
  · rfl

theorem destHazard_of_free {s : State} {c : Ctx} {o : Operand} {a n : Nat} (ha : c.loc o = some a) (hwin : meetsAny c.winRanges a n = false)
    (hread : meetsAny (s.readPending c) a n = false) : destHazard s c o n = .ok () := by
  unfold destHazard
  split
  · rfl
  · rename_i d _ hd
    obtain rfl := Option.some.inj (hd.symm.trans ha)
    exact writeHazard_ok hwin hread
  · rfl

theorem destHazard_of_window {s : State} {c : Ctx} {o : Operand} {a n : Nat} (ho : o ≠ .p 0) (ha : c.loc o = some a)
    (hwin : meetsAny c.winRanges a n = true) : destHazard s c o n = fault fcHAZARD := by
  unfold destHazard
  split
  · exact absurd rfl ho
  · rename_i d _ hd
    obtain rfl := Option.some.inj (hd.symm.trans ha)
    simp only [writeHazard, hwin, Bool.not_true, require_false]
    rfl
  · rename_i hd
    rw [ha] at hd
    cases hd

/-! ### One element -/

theorem loadElem_localMem {s : State} {c : Ctx} {a : Word} {n : Nat} (h : a.toNat < 0x100000)
    (hfree : s.heldBack c { virt := false, lo := localKey c.key.tile a.toNat, len := n } false = false) :
    loadElem s c a n = .ok (s.readLoc c false (localKey c.key.tile a.toNat) n) := by
  simp only [loadElem, regionOf_localMem h, State.waitFree, hfree, Bool.false_eq_true, if_false, try_bind_ok, try_pure]

theorem loadElem_window {s : State} {c : Ctx} {a : Word} {n : Nat} (h : 0x100000 ≤ a.toNat) (h' : a.toNat < 0x108000) :
    loadElem s c a n = .ok (windowRead c (a.toNat - 0x100000) n) := by simp only [loadElem, regionOf_window h h']

theorem loadElem_aperture {s : State} {c : Ctx} {a : Word} {n : Nat} (h : 0x200000 ≤ a.toNat) (h' : a.toNat < 0x210000) :
    loadElem s c a n = .ok (bytesOf n (s.channelFor c ((a.toNat - 0x200000) / 4096)).word) := by simp only [loadElem, regionOf_aperture h h']

theorem loadElem_status {s : State} {c : Ctx} {a : Word} {n : Nat} (h : 0x210000 ≤ a.toNat) (h' : a.toNat < 0x211000) :
    loadElem s c a n = .ok (s.mxBytes c (a.toNat - 0x210000) n) := by simp only [loadElem, regionOf_status h h']

theorem sext64_eq_signExtend (n x : Nat) : sext64 n x = (BitVec.ofNat n x).signExtend 64 := by rw [sext64, signedOf_eq_toInt]; rfl

/-- The staging entries of a write lie within it. -/
theorem splitRuns_within {dead : Nat → Bool} : ∀ {bs : List Byte} {k : Nat}, ∀ r ∈ splitRuns k bs dead, k ≤ r.1 ∧ r.1 + r.2.length ≤ k + bs.length
  | [], _, _, h => by simp [splitRuns] at h
  | b :: bs, k, r, h => by
    have hrest : ∀ r ∈ splitRuns (k + 1) bs dead, k + 1 ≤ r.1 ∧ r.1 + r.2.length ≤ k + (b :: bs).length := fun r hr => by
      have := splitRuns_within r hr
      simp only [List.length_cons]
      omega
    unfold splitRuns at h
    dsimp only at h
    split at h
    · have := hrest r h
      omega
    · split at h
      · rename_i k' bs' more heq
        have hfirst := hrest (k', bs') (by rw [heq]; exact List.mem_cons_self)
        split at h
        · rcases List.mem_cons.mp h with rfl | hr
          · simp only [List.length_cons] at hfirst ⊢
            omega
          · have := hrest r (by rw [heq]; exact List.mem_cons_of_mem _ hr)
            omega
        · rcases List.mem_cons.mp h with rfl | hr
          · simp
          · have := hrest r hr
            omega
      · rw [List.mem_singleton.mp h]
        simp

theorem linePieces_within : ∀ {f k : Nat} {bs : List Byte}, ∀ p ∈ linePieces f k bs, k ≤ p.1 ∧ p.1 < k + bs.length ∧ p.1 + p.2.length ≤ k + bs.length
  | 0, _, _, _, h => by simp [linePieces] at h
  | f + 1, k, bs, p, h => by
    unfold linePieces at h
    split at h
    · simp at h
    · rename_i hne
      have hpos : 0 < bs.length := List.length_pos_iff.mpr (by simpa using hne)
      rcases List.mem_cons.mp h with rfl | hr
      · simp only [List.length_take]
        omega
      · have := linePieces_within p hr
        simp only [List.length_drop] at this
        omega

theorem plainPieces_within {s : State} {k : Nat} {bs : List Byte} : ∀ p ∈ s.plainPieces k bs, k ≤ p.1 ∧ p.1 < k + bs.length := fun p hp => by
  obtain ⟨r, hr, hp⟩ := List.mem_flatMap.mp hp
  have hrun := splitRuns_within r hr
  have hline := linePieces_within p hp
  omega

/-- The entry of one piece of a write. -/
def pieceEntry (w : Writer) (k : Nat) (addr : Word) (s : State) (p : Nat × List Byte) : Staged :=
  s.entryOf w p.1 (addr + BitVec.ofNat 64 (p.1 - k)) p.2 none

/-- Stage one piece of a write, where there is room (R45). -/
def stagePiece (w : Writer) (k : Nat) (addr : Word) (s : State) (p : Nat × List Byte) : Option State :=
  if s.stagingFull (pieceEntry w k addr s p) then none else some (s.enterStaging (pieceEntry w k addr s p))

theorem placePlain_eq (s : State) (w : Writer) (k : Nat) (addr : Word) (bs : List Byte) :
    s.placePlain w k addr bs = (s.plainPieces k bs).foldlM (stagePiece w k addr) (s.writeRecords k bs) := rfl

/-- The search for the first piece without room. -/
def fullAt (w : Writer) (k : Nat) (addr : Word) (x : State × Option Nat) (p : Nat × List Byte) : State × Option Nat :=
  match x.2 with
  | some _ => x
  | none => if x.1.stagingFull (pieceEntry w k addr x.1 p) then (x.1, some p.1) else (x.1.enterStaging (pieceEntry w k addr x.1 p), none)

theorem firstFull_eq (s : State) (w : Writer) (k : Nat) (addr : Word) (bs : List Byte) :
    s.firstFull w k addr bs = ((s.plainPieces k bs).foldl (fullAt w k addr) (s, none)).2.getD (k + bs.length) := rfl

theorem foldl_fullAt_some {w : Writer} {k : Nat} {addr : Word} {s : State} {q : Nat} :
    ∀ ps : List (Nat × List Byte), ps.foldl (fullAt w k addr) (s, some q) = (s, some q)
  | [] => rfl
  | _ :: ps => foldl_fullAt_some ps

/-- Staging an entry does the same, but for memory itself, whatever memory holds. -/
theorem enterStaging_withMem (s : State) (m : Mem) (e : Staged) :
    ∃ m', ({ s with mem := m } : State).enterStaging e = { s.enterStaging e with mem := m' } := by
  have hcharge : ({ s with mem := m } : State).chargeLevel e = s.chargeLevel e := rfl
  unfold State.enterStaging
  rw [hcharge]
  dsimp only
  split
  · exact ⟨_, rfl⟩
  · exact ⟨_, rfl⟩

/-- Where a write cannot be staged, the search finds one of its pieces: room does not depend on what memory holds (R45). -/
theorem foldl_fullAt_of_none {w : Writer} {k : Nat} {addr : Word} : ∀ {ps : List (Nat × List Byte)} {s : State} {m : Mem},
    ps.foldlM (stagePiece w k addr) { s with mem := m } = none → ∃ t q, q ∈ ps ∧ ps.foldl (fullAt w k addr) (s, none) = (t, some q.1)
  | [], s, m, h => by simp at h
  | p :: ps, s, m, h => by
    by_cases hfull : s.stagingFull (pieceEntry w k addr s p) = true
    · have hp : fullAt w k addr (s, none) p = (s, some p.1) := if_pos hfull
      exact ⟨s, p, List.mem_cons_self, by rw [List.foldl_cons, hp, foldl_fullAt_some]⟩
    · have hp : fullAt w k addr (s, none) p = (s.enterStaging (pieceEntry w k addr s p), none) := if_neg hfull
      obtain ⟨m', hm'⟩ := enterStaging_withMem s m (pieceEntry w k addr s p)
      have hstep : stagePiece w k addr { s with mem := m } p = some { s.enterStaging (pieceEntry w k addr s p) with mem := m' } :=
        (if_neg hfull).trans (congrArg some hm')
      rw [List.foldlM_cons, hstep] at h
      obtain ⟨t, q, hq, ht⟩ := foldl_fullAt_of_none h
      exact ⟨t, q, List.mem_cons_of_mem _ hq, by rw [List.foldl_cons, hp, ht]⟩

theorem firstFull_lt {s : State} {w : Writer} {k : Nat} {addr : Word} {bs : List Byte} (h : s.placePlain w k addr bs = none) :
    s.firstFull w k addr bs < k + bs.length := by
  obtain ⟨t, q, hq, ht⟩ := foldl_fullAt_of_none ((placePlain_eq s w k addr bs).symm.trans h)
  rw [firstFull_eq, ht]
  exact (plainPieces_within q hq).2

/-- A part done for each element of a list, where it is done for all of them. -/
theorem forM_ok {α : Type} {f : α → Try Unit} : ∀ {l : List α}, (∀ x ∈ l, f x = .ok ()) → l.forM f = .ok ()
  | [], _ => rfl
  | x :: l, h => by
    rw [List.forM, h x List.mem_cons_self, try_bind_ok]
    exact forM_ok fun y hy => h y (List.mem_cons_of_mem x hy)

/-- Elements that may all be stored are stored one after the other (R194). -/
theorem storeAll_of_free {s : State} {c : Ctx} {l : List (Elem × List Byte)} (h : ∀ x ∈ l, storeFree s c x.1.addr x.2.length = .ok ()) :
    storeAll s c l = storeElems s c l := by
  rw [storeAll, forM_ok h, try_bind_ok]

theorem storeFree_localMem {s : State} {c : Ctx} {a : Word} {n : Nat} (h : a.toNat < 0x100000)
    (hfree : s.heldBack c { virt := false, lo := localKey c.key.tile a.toNat, len := n } true = false) : storeFree s c a n = .ok () := by
  simp only [storeFree, regionOf_localMem h, State.waitFree, hfree, Bool.false_eq_true, if_false]

theorem storeFree_window {s : State} {c : Ctx} {a : Word} {n : Nat} (h : 0x100000 ≤ a.toNat) (h' : a.toNat < 0x108000)
    (hfree : windowRead? s c a n false = false) : storeFree s c a n = .ok () := by
  simp only [storeFree, regionOf_window h h', hfree, Bool.false_eq_true, if_false]

/-- An element stored in local memory, where there is room. -/
theorem storeElem_localMem {s t : State} {c : Ctx} {pos each : Nat} {a : Word} {bs : List Byte} (h : a.toNat < 0x100000)
    (hplace : s.placePlain (s.writer c false) (localKey c.key.tile a.toNat) a bs = some t) : storeElem s c pos each a bs = .ok (t, c) := by
  simp only [storeElem, regionOf_localMem h, hplace]

/-- One element that finds no staging entry takes the fault with its own address (R45). -/
theorem storeElem_of_full {s : State} {c : Ctx} {pos : Nat} {a : Word} {bs : List Byte} (h : a.toNat < 0x100000)
    (hplace : s.placePlain (s.writer c false) (localKey c.key.tile a.toNat) a bs = none) :
    storeElem s c pos bs.length a bs = faultAt fcSTAGINGFULL a pos := by
  have hfirst := firstFull_lt hplace
  have hpos : 0 < bs.length := by
    by_contra hzero
    obtain rfl : bs = [] := List.length_eq_zero_iff.mp (by omega)
    cases hplace
  have helem : (s.firstFull (s.writer c false) (localKey c.key.tile a.toNat) a bs - localKey c.key.tile a.toNat) / bs.length = 0 :=
    Nat.div_eq_of_lt (by omega)
  simp only [storeElem, regionOf_localMem h, hplace, helem, Nat.zero_mul, Nat.add_zero, BitVec.add_zero]

/-- An element stored through the register window is kept until the region's end (R135). -/
theorem storeElem_window {s : State} {c : Ctx} {pos each : Nat} {a : Word} {bs : List Byte} (h : 0x100000 ≤ a.toNat) (h' : a.toNat < 0x108000) :
    storeElem s c pos each a bs = .ok (s, { c with winStores := c.winStores ++ [(a.toNat - 0x100000, bs)] }) := by
  simp only [storeElem, regionOf_window h h']

/-- A single element that may be stored. -/
theorem storeAll_one {s : State} {c : Ctx} {e : Elem} {bs : List Byte} (hfree : storeFree s c e.addr bs.length = .ok ()) :
    storeAll s c [(e, bs)] = storeElem s c e.pos e.each e.addr bs := by
  rw [storeAll_of_free (by simpa using hfree), storeElems]
  cases storeElem s c e.pos e.each e.addr bs <;> rfl

end Sys2Proof.Machine

namespace Sys2Proof.Claims

open Sys2Proof.Machine

/-! ### Scalar loads -/

/-- The scalar loads and stores with their widths. -/
def scalarLoads (w : FormM) : List (Instr × Nat) := [(.ldb w, 1), (.ldh w, 2), (.ldw w, 4), (.ldd w, 8)]
def scalarStores (w : FormM) : List (Instr × Nat) := [(.stb w, 1), (.sth w, 2), (.stw w, 4), (.std w, 8)]

/-- Loaded bytes as a register holds them (R190). -/
def loadedValue (w : FormM) (n : Nat) (bs : List Byte) : Word :=
  if w.mod.getLsbD 0 then BitVec.ofNat 64 (numOf bs) else (BitVec.ofNat (8 * n) (numOf bs)).signExtend 64

/-- Every scalar load is the general one, with its width and its extension; LDD has none to choose. -/
theorem exec_scalarLoad {w : FormM} {p : Instr × Nat} (hp : p ∈ scalarLoads w) :
    p.2 ∈ [1, 2, 4, 8] ∧ ∃ z, (∀ s, exec p.1 s = runLoad s w p.2 z) ∧
      ∀ bs, (if z then BitVec.ofNat 64 (numOf bs) else sext64 (8 * p.2) (numOf bs)) = loadedValue w p.2 bs := by
  simp only [scalarLoads, List.mem_cons, List.not_mem_nil, or_false] at hp
  rcases hp with rfl | rfl | rfl | rfl
  · exact ⟨by simp, w.mod.getLsbD 0, exec_ldb w, fun bs => by rw [sext64_eq_signExtend]; rfl⟩
  · exact ⟨by simp, w.mod.getLsbD 0, exec_ldh w, fun bs => by rw [sext64_eq_signExtend]; rfl⟩
  · exact ⟨by simp, w.mod.getLsbD 0, exec_ldw w, fun bs => by rw [sext64_eq_signExtend]; rfl⟩
  · refine ⟨by simp, false, exec_ldd w, fun bs => ?_⟩
    rw [sext64_eq_signExtend, loadedValue]
    cases w.mod.getLsbD 0
    · rfl
    · exact BitVec.signExtend_eq _

theorem exec_scalarStore {w : FormM} {p : Instr × Nat} (hp : p ∈ scalarStores w) : p.2 ∈ [1, 2, 4, 8] ∧ ∀ s, exec p.1 s = runStore s w p.2 := by
  simp only [scalarStores, List.mem_cons, List.not_mem_nil, or_false] at hp
  rcases hp with rfl | rfl | rfl | rfl
  · exact ⟨by simp, exec_stb w⟩
  · exact ⟨by simp, exec_sth w⟩
  · exact ⟨by simp, exec_stw w⟩
  · exact ⟨by simp, exec_std w⟩

section
variable {w : FormM} {s : State} {c c' : Ctx} {b : Word} {p : Instr × Nat} (hp : p ∈ scalarLoads w) (hF : Fires s c w.h [w.base])
  (hb : readVal c w.base = .ok b)
include hp hF hb

/-- A scalar load that passes the checks completes with the bytes that it reads. -/
theorem completes_scalarLoad {r : Region} {last : Nat} {bs : List Byte} (hr : regionOf (memAddr b w.off) = some (r, last))
    (halign : (memAddr b w.off).toNat % p.2 = 0) (hlt : (memAddr b w.off).toNat < last) (hlast : last % 8 = 0) (hword : r = .aperture → p.2 = 4)
    (hpend : windowPending c (memAddr b w.off) p.2 = false) (hload : loadElem s c (memAddr b w.off) p.2 = .ok bs)
    (hw : writeVal s c w.data (loadedValue w p.2 bs) = .ok c') : Completes p.1 s c w.h s c' := by
  obtain ⟨hn, z, hexec, hvalue⟩ := exec_scalarLoad hp
  have hcheck : checkPrivate (memAddr b w.off) p.2 p.2 0 false (p.2 == 4) = .ok r := by
    refine checkPrivate_ok hr halign (fits_of_aligned hn hlast halign hlt) ?_
    rintro (⟨hap, hnot⟩ | ⟨-, hstore⟩)
    · simp [hword hap] at hnot
    · cases hstore
  refine completes_of_uniform (hexec s) hF (by simp) ?_
  simp only [hb, try_bind_ok, destHazard_of_writeVal hw, windowHazard_load hpend, hcheck, hload, hvalue, hw, try_pure]

theorem faults_scalarLoad_of_dest {d : Nat} (hd : c.loc w.data = some d) (hp0 : w.data ≠ .p 0) (hwin : meetsAny c.winRanges d 8 = true) :
    Faults p.1 s c { code := fcHAZARD } := by
  obtain ⟨-, z, hexec, -⟩ := exec_scalarLoad hp
  rw [Faults, hexec, runLoad]
  exact uni_trap hF (by simp) (by simp only [hb, try_bind_ok, destHazard_of_window hp0 hd hwin]; rfl)

section
variable {d : Nat} (hd : c.loc w.data = some d) (hfree : Free s c d 8)
include hd hfree

theorem faults_scalarLoad_of_pending (hpend : windowPending c (memAddr b w.off) p.2 = true) : Faults p.1 s c { code := fcHAZARD } := by
  obtain ⟨-, z, hexec, -⟩ := exec_scalarLoad hp
  rw [Faults, hexec, runLoad]
  exact uni_trap hF (by simp)
    (by simp only [hb, try_bind_ok, destHazard_of_free hd hfree.1 hfree.2, windowHazard_of_pending hpend]; rfl)

/-- A scalar load whose address fails a check takes that fault. -/
theorem faults_scalarLoad_of_check {t : Trap} (hpend : windowPending c (memAddr b w.off) p.2 = false)
    (hcheck : checkPrivate (memAddr b w.off) p.2 p.2 0 false (p.2 == 4) = .error (.trap t)) : Faults p.1 s c t := by
  obtain ⟨-, z, hexec, -⟩ := exec_scalarLoad hp
  rw [Faults, hexec, runLoad]
  exact uni_trap hF (by simp)
    (by simp only [hb, try_bind_ok, destHazard_of_free hd hfree.1 hfree.2, windowHazard_load hpend, hcheck, try_bind_error])

end

end

/-! ### Scalar stores -/

theorem checkPrivate_scalarStore {w : FormM} {b : Word} {p : Instr × Nat} {r : Region} {last : Nat} (hp : p ∈ scalarStores w)
    (hr : regionOf (memAddr b w.off) = some (r, last)) (halign : (memAddr b w.off).toNat % p.2 = 0) (hlt : (memAddr b w.off).toNat < last) (hlast : last % 8 = 0)
    (hstatus : r ≠ .status) (hword : r = .aperture → p.2 = 4) :
    checkPrivate (memAddr b w.off) p.2 p.2 0 true (p.2 == 4) = .ok r := by
  refine checkPrivate_ok hr halign (fits_of_aligned (exec_scalarStore hp).1 hlast halign hlt) ?_
  rintro (⟨hap, hnot⟩ | ⟨hst, -⟩)
  · simp [hword hap] at hnot
  · exact hstatus hst

section
variable {w : FormM} {s : State} {c : Ctx} {b x : Word} {p : Instr × Nat} (hp : p ∈ scalarStores w) (hF : Fires s c w.h [w.data, w.base])
  (hx : readVal c w.data = .ok x) (hb : readVal c w.base = .ok b)
include hp hF hx hb

theorem faults_scalarStore_of_pending (hpend : windowPending c (memAddr b w.off) p.2 = true) : Faults p.1 s c { code := fcHAZARD } := by
  rw [Faults, (exec_scalarStore hp).2, runStore]
  exact uni_trap hF (by simp) (by simp only [hx, hb, try_bind_ok, windowHazard_of_pending hpend]; rfl)

variable (hpend : windowPending c (memAddr b w.off) p.2 = false) (hread : windowRead? s c (memAddr b w.off) p.2 true = false)
include hpend hread

/-- A scalar store whose address fails a check takes that fault. -/
theorem faults_scalarStore_of_check {t : Trap} (hcheck : checkPrivate (memAddr b w.off) p.2 p.2 0 true (p.2 == 4) = .error (.trap t)) :
    Faults p.1 s c t := by
  rw [Faults, (exec_scalarStore hp).2, runStore]
  exact uni_trap hF (by simp) (by simp only [hx, hb, try_bind_ok, windowHazard_store hpend hread, hcheck, try_bind_error])

section
variable {r : Region} {last : Nat} (hr : regionOf (memAddr b w.off) = some (r, last)) (halign : (memAddr b w.off).toNat % p.2 = 0)
  (hlt : (memAddr b w.off).toNat < last) (hlast : last % 8 = 0) (hstatus : r ≠ .status)
include hr halign hlt hlast hstatus

/-- A scalar store into local memory or the window leaves what storing its element leaves. -/
theorem completes_scalarStore {t : State} {d : Ctx} (hap : r ≠ .aperture)
    (hstore : storeAll s c [({ pos := 0, addr := memAddr b w.off, len := p.2, each := p.2 }, bytesOf p.2 x.toNat)] = .ok (t, d)) :
    Completes p.1 s c w.h t d.clearLatch := by
  have hcheck := checkPrivate_scalarStore hp hr halign hlt hlast hstatus fun h => absurd h hap
  refine completes_of_uniform ((exec_scalarStore hp).2 s) hF (by simp) ?_
  simp only [hx, hb, try_bind_ok, windowHazard_store hpend hread, hcheck, if_neg hap, hstore, try_pure]

theorem faults_scalarStore_of_store {t : Trap} (hap : r ≠ .aperture)
    (hstore : storeAll s c [({ pos := 0, addr := memAddr b w.off, len := p.2, each := p.2 }, bytesOf p.2 x.toNat)] = .error (.trap t)) :
    Faults p.1 s c t := by
  have hcheck := checkPrivate_scalarStore hp hr halign hlt hlast hstatus fun h => absurd h hap
  rw [Faults, (exec_scalarStore hp).2, runStore]
  exact uni_trap hF (by simp)
    (by simp only [hx, hb, try_bind_ok, windowHazard_store hpend hread, hcheck, if_neg hap, hstore, try_bind_error])

end

theorem completes_scalarStore_of_aperture {t : State} {d : Ctx} (h : 0x200000 ≤ (memAddr b w.off).toNat) (h' : (memAddr b w.off).toNat < 0x210000)
    (halign : (memAddr b w.off).toNat % p.2 = 0) (hword : p.2 = 4) (hstore : apertureStore s c (memAddr b w.off) x.toNat = .ok (t, d)) :
    Completes p.1 s c w.h t d.clearLatch := by
  have hcheck := checkPrivate_scalarStore hp (regionOf_aperture h h') halign h' rfl (by simp) fun _ => hword
  refine completes_of_uniform ((exec_scalarStore hp).2 s) hF (by simp) ?_
  rw [try_bind_of_ok hx, try_bind_of_ok hb, try_bind_of_ok (windowHazard_store hpend hread), try_bind_of_ok hcheck, if_pos rfl, try_bind_of_ok hstore]
  rfl

end

/-- Settles O13: each region by its own reading or storing of one element, after checks that an aligned access passes there. -/
theorem privateScalarAccesses : Obligations.PrivateScalarAccesses := by
  unfold Obligations.PrivateScalarAccesses
  refine ⟨fun w s c c' b hF hb p hp halign => ⟨fun h hheld hw => ?_, fun h h' hpend hw => ?_, fun h h' hw => ?_, fun h h' hword hw => ?_⟩,
    fun w s t c d b x hF hx hb p hp halign => ⟨fun h hheld => ⟨fun hplace => ?_, fun hplace => ?_⟩, fun h h' hpend hmeets => ?_, fun h h' hword hstore => ?_⟩⟩
  · have hr := regionOf_localMem (a := memAddr b w.off) h
    exact completes_scalarLoad hp hF hb hr halign h rfl (by simp) (windowPending_of_region (by simp [hr])) (loadElem_localMem h hheld) hw
  · exact completes_scalarLoad hp hF hb (regionOf_window h h') halign h' rfl (by simp) hpend
      (loadElem_window h h') hw
  · have hr := regionOf_status (a := memAddr b w.off) h h'
    exact completes_scalarLoad hp hF hb hr halign h' rfl (by simp) (windowPending_of_region (by simp [hr])) (loadElem_status h h') hw
  · have hr := regionOf_aperture (a := memAddr b w.off) h h'
    obtain ⟨i, n⟩ := p
    obtain rfl : n = 4 := hword
    exact completes_scalarLoad hp hF hb hr halign h' rfl (by simp) (windowPending_of_region (by simp [hr])) (loadElem_aperture h h') hw
  · have hr := regionOf_localMem (a := memAddr b w.off) h
    exact completes_scalarStore hp hF hx hb (windowPending_of_region (by simp [hr])) (windowRead?_of_region (by simp [hr])) hr halign h rfl (by simp)
      (by simp) ((storeAll_one (storeFree_localMem h (by rw [bytesOf_length]; exact hheld))).trans (storeElem_localMem h hplace))
  · have hr := regionOf_localMem (a := memAddr b w.off) h
    exact faults_scalarStore_of_store hp hF hx hb (windowPending_of_region (by simp [hr])) (windowRead?_of_region (by simp [hr])) hr halign h rfl (by simp)
      (by simp) ((storeAll_one (storeFree_localMem h (by rw [bytesOf_length]; exact hheld))).trans
        ((congrArg (storeElem s c 0 · (memAddr b w.off) (bytesOf p.2 x.toNat)) (bytesOf_length ..).symm).trans (storeElem_of_full h hplace)))
  · have hstore := completes_scalarStore hp hF hx hb hpend (windowRead?_of_not_meets hmeets) (regionOf_window h h') halign h' rfl (by simp) (by simp)
      ((storeAll_one (storeFree_window h h' (windowRead?_of_not_meets (by rw [bytesOf_length]; exact hmeets)))).trans (storeElem_window h h'))
    exact hstore
  · have hr := regionOf_aperture (a := memAddr b w.off) h h'
    exact completes_scalarStore_of_aperture hp hF hx hb (windowPending_of_region (by simp [hr])) (windowRead?_of_region (by simp [hr])) h h' halign hword
      hstore

end Sys2Proof.Claims
end

section
/-! PROOFS. The faults of a scalar private access in the order of its checks (R24, R134, R135, R189). -/

namespace Sys2Proof.Claims

open Sys2Proof.Machine

section
variable {w : FormM} {s : State} {c : Ctx} {b : Word} {p : Instr × Nat}

/-- In the aperture only words are accessed. -/
theorem checkPrivate_of_aperture {n : Nat} {store : Bool} {a : Word} (hn : n ∈ [1, 2, 4, 8]) (h : 0x200000 ≤ a.toNat) (h' : a.toNat < 0x210000)
    (halign : a.toNat % n = 0) (hword : n ≠ 4) : checkPrivate a n n 0 store (n == 4) = faultAt fcPROTECT a :=
  checkPrivate_of_protected (regionOf_aperture h h') halign (fits_of_aligned hn rfl halign h') (Or.inl ⟨rfl, by simpa using hword⟩)

/-- The matrix status range takes no store. -/
theorem checkPrivate_of_status {n : Nat} {a : Word} (hn : n ∈ [1, 2, 4, 8]) (h : 0x210000 ≤ a.toNat) (h' : a.toNat < 0x211000)
    (halign : a.toNat % n = 0) : checkPrivate a n n 0 true (n == 4) = faultAt fcPROTECT a :=
  checkPrivate_of_protected (regionOf_status h h') halign (fits_of_aligned hn rfl halign h') (Or.inr ⟨rfl, rfl⟩)

end

/-- Settles O14: the lemmas of the checks, in their order, for the loads and the stores. -/
theorem privateAccessFaults : Obligations.PrivateAccessFaults := by
  unfold Obligations.PrivateAccessFaults
  intro w s c b a hole aperture ls ss
  refine ⟨fun hF hb p hp => ⟨fun d hd hp0 hwin => ?_, fun d hd hfree => ⟨fun hpend => ?_, fun hhole => ?_, fun hno halign hpend => ?_,
    fun hap halign hword => ?_⟩⟩, fun hF hb hx p hp => ?_⟩
  · exact faults_scalarLoad_of_dest hp hF hb hd hp0 hwin
  · exact faults_scalarLoad_of_pending hp hF hb hd hfree hpend
  · have hr := regionOf_hole (a := memAddr b w.off) hhole
    exact faults_scalarLoad_of_check hp hF hb hd hfree (windowPending_of_region (by simp [hr])) (checkPrivate_of_hole hr)
  · obtain ⟨r, last, hr⟩ := regionOf_of_not_hole (a := memAddr b w.off) hno
    exact faults_scalarLoad_of_check hp hF hb hd hfree hpend (checkPrivate_of_misaligned hr halign)
  · have hr := regionOf_aperture (a := memAddr b w.off) hap.1 hap.2
    exact faults_scalarLoad_of_check hp hF hb hd hfree (windowPending_of_region (by simp [hr]))
      (checkPrivate_of_aperture (exec_scalarLoad hp).1 hap.1 hap.2 halign hword)
  · obtain ⟨x, hx⟩ := hx
    refine ⟨fun hpend => ?_, fun hhole => ?_, fun hno halign hpend hmeets => ?_, fun hap halign hword => ?_, fun h h' halign => ?_⟩
    · exact faults_scalarStore_of_pending hp hF hx hb hpend
    · have hr := regionOf_hole (a := memAddr b w.off) hhole
      exact faults_scalarStore_of_check hp hF hx hb (windowPending_of_region (by simp [hr])) (windowRead?_of_region (by simp [hr]))
        (checkPrivate_of_hole hr)
    · obtain ⟨r, last, hr⟩ := regionOf_of_not_hole (a := memAddr b w.off) hno
      exact faults_scalarStore_of_check hp hF hx hb hpend (windowRead?_of_not_meets hmeets) (checkPrivate_of_misaligned hr halign)
    · have hr := regionOf_aperture (a := memAddr b w.off) hap.1 hap.2
      exact faults_scalarStore_of_check hp hF hx hb (windowPending_of_region (by simp [hr])) (windowRead?_of_region (by simp [hr]))
        (checkPrivate_of_aperture (exec_scalarStore hp).1 hap.1 hap.2 halign hword)
    · have hr := regionOf_status (a := memAddr b w.off) h h'
      exact faults_scalarStore_of_check hp hF hx hb (windowPending_of_region (by simp [hr])) (windowRead?_of_region (by simp [hr]))
        (checkPrivate_of_status (exec_scalarStore hp).1 h h' halign)

end Sys2Proof.Claims
end

section
/-! PROOFS. Vector loads from private memory: spans, strides and indices (R189, R191-R193). -/

namespace Sys2Proof.Machine

/-- A part that gives a value for each element of a list, where it does for all of them. -/
theorem mapM_ok {α β : Type} {f : α → Try β} {v : α → β} : ∀ {l : List α}, (∀ x ∈ l, f x = .ok (v x)) → l.mapM f = .ok (l.map v)
  | [], _ => rfl
  | x :: l, h => by
    rw [List.mapM_cons, try_bind_of_ok (h x List.mem_cons_self), try_bind_of_ok (mapM_ok fun y hy => h y (List.mem_cons_of_mem x hy))]
    rfl

/-- The value kept for a position among values kept by position. -/
theorem find?_map_pos (f : Nat → Nat) (p : Nat) : ∀ l : List Nat,
    (((l.map fun q => (q, f q)).find? fun x => x.1 == p).map fun x => x.2).getD 0 = if p ∈ l then f p else 0
  | [] => rfl
  | q :: l => by
    rw [List.map_cons, List.find?_cons]
    by_cases h : q = p
    · simp [h]
    · have hbeq : (q == p) = false := by simpa using h
      rw [hbeq]
      simp only [List.mem_cons, Ne.symm h, false_or]
      exact find?_map_pos f p l

/-! ### The enabled lanes -/

theorem mem_enabledLanes {g : Word} {i : Nat} : i ∈ enabledLanes g ↔ i < 64 ∧ g.getLsbD i = true := by simp [enabledLanes]

theorem pairwise_enabledLanes (g : Word) : (enabledLanes g).Pairwise (· < ·) := List.pairwise_lt_range.filter _

/-- The span of a mask that enables some lane: from its lowest to its highest one (R191). -/
theorem laneSpan_of_lanes {g : Word} (h : enabledLanes g ≠ []) : ∃ l u, laneSpan g = some (l, 4 * (u + 1 - l)) ∧ l ∈ enabledLanes g ∧
    u ∈ enabledLanes g ∧ ∀ i ∈ enabledLanes g, l ≤ i ∧ i ≤ u := by
  have hsorted := pairwise_enabledLanes g
  unfold laneSpan
  cases hl : enabledLanes g with
  | nil => exact absurd hl h
  | cons l r =>
    rw [hl] at hsorted
    have hlast : (l :: r).getLastD l = (l :: r).getLast (List.cons_ne_nil l r) := by simp [List.getLastD_eq_getLast?, List.getLast?_eq_some_getLast]
    refine ⟨l, (l :: r).getLastD l, rfl, List.mem_cons_self, by rw [hlast]; exact List.getLast_mem _, fun i hi => ⟨?_, ?_⟩⟩
    · rcases List.mem_cons.mp hi with rfl | hr
      · exact Nat.le_refl _
      · exact Nat.le_of_lt (List.rel_of_pairwise_cons hsorted hr)
    · rw [hlast]
      rcases List.eq_nil_or_concat (l :: r) with hnil | ⟨init, last, hcat⟩
      · cases hnil
      · rw [List.concat_eq_append] at hcat
        simp only [hcat, List.getLast_append_singleton]
        rw [hcat] at hsorted hi
        rcases List.mem_append.mp hi with hin | heq
        · exact Nat.le_of_lt ((List.pairwise_append.mp hsorted).2.2 i hin last (by simp))
        · rw [List.mem_singleton.mp heq]

theorem laneSpan_of_none {g : Word} (h : enabledLanes g = []) : laneSpan g = none := by rw [laneSpan, h]

/-- The address of a lane whose place the addresses reach without wrapping. -/
theorem toNat_laneAddr {a : Word} {i : Nat} (h : a.toNat + 4 * i < 2 ^ 64) : (a + BitVec.ofNat 64 (4 * i)).toNat = a.toNat + 4 * i := by
  rw [BitVec.toNat_add, BitVec.toNat_ofNat, Nat.mod_eq_of_lt (by omega : 4 * i < 2 ^ 64), Nat.mod_eq_of_lt h]

/-- The checks of a contiguous access in local memory pass where every enabled lane lies there (R189, R191). -/
theorem checkSpan_localMem {s : State} {c : Ctx} {a g : Word} {store : Bool} (halign : a.toNat % 4 = 0)
    (hlanes : ∀ i ∈ enabledLanes g, a.toNat + 4 * i < 0x100000) : checkSpan s c a g store = .ok () := by
  have hregion : ∀ i ∈ enabledLanes g, regionOf (a + BitVec.ofNat 64 (4 * i)) = some (.localMem, 0x100000) := fun i hi => by
    have := hlanes i hi
    exact regionOf_localMem (by rw [toNat_laneAddr (by omega)]; exact this)
  have hhazard : windowHazard s c (laneElems a g) store = .ok () := by
    refine require_ok.mpr ?_
    rw [Bool.not_eq_true', List.any_eq_false]
    intro e he
    obtain ⟨i, hi, rfl⟩ := List.mem_map.mp he
    have hr := hregion i hi
    simp [windowPending_of_region (a := a + BitVec.ofNat 64 (4 * i)) (by simp [hr]),
      windowRead?_of_region (a := a + BitVec.ofNat 64 (4 * i)) (by simp [hr])]
  rw [checkSpan, try_bind_of_ok hhazard]
  by_cases hnone : enabledLanes g = []
  · rw [laneSpan_of_none hnone]
    rfl
  · obtain ⟨l, u, hspan, hl, hu, hle⟩ := laneSpan_of_lanes hnone
    have hlu := (hle u hu).1
    have hend := hlanes u hu
    have haddr := toNat_laneAddr (a := a) (i := l) (by omega)
    rw [hspan]
    exact (try_bind_of_ok (checkPrivate_ok (hregion l hl) (by omega) (by omega) (by simp)) _).trans rfl

/-- Elements read one after the other. -/
theorem mapM_loads {s : State} {c : Ctx} {es : List Elem} {n : Nat} {read : Nat → List Byte} {v : List Byte → Nat}
    (hread : ∀ e ∈ es, loadElem s c e.addr n = .ok (read e.pos)) :
    (es.mapM fun e => do
      let bs ← loadElem s c e.addr n
      return (e.pos, v bs)) = .ok (es.map fun e => (e.pos, v (read e.pos))) :=
  mapM_ok fun e he => (try_bind_of_ok (hread e he) _).trans rfl

/-- The values of the positions that a test selects, among all of them. -/
theorem placed_eq (m : Nat) (q : Nat → Bool) (f : Nat → Nat) :
    ((List.range m).map fun p => (((((List.range m).filter q).map fun p => (p, f p)).find? fun x => x.1 == p).map fun x => x.2).getD 0) =
      (List.range m).map fun p => if q p then f p else 0 :=
  List.map_congr_left fun p hp => by
    rw [find?_map_pos]
    simp only [List.mem_filter, hp, true_and]

/-- The low half of a sign-extended element. -/
theorem sext64_mod (n x : Nat) : (sext64 n x).toNat % 2 ^ 32 = ((BitVec.ofNat n x).signExtend 32).toNat := by
  have hset : ((BitVec.ofNat n x).signExtend 64).setWidth 32 = (BitVec.ofNat n x).signExtend 32 := by
    refine BitVec.eq_of_getLsbD_eq fun i hi => ?_
    rw [BitVec.getLsbD_setWidth, BitVec.getLsbD_signExtend, BitVec.getLsbD_signExtend, decide_eq_true hi, decide_eq_true (by omega : i < 64)]
    simp
  rw [sext64_eq_signExtend, ← BitVec.toNat_setWidth, hset]

end Sys2Proof.Machine

namespace Sys2Proof.Claims

open Sys2Proof.Machine

/-- A gathered element in its lane, extended with zeros or its sign (R193). -/
def indexedValue (w : FormM) (bs : List Byte) : Nat :=
  if w.mod.getLsbD 2 then numOf bs else (sext64 (8 * elemBytes (w.mod.toNat % 4)) (numOf bs)).toNat % 2 ^ 32

section
variable {w : FormM} {s : State} {c c' : Ctx} {g b : Word} (hI : Issues s c w.h [w.base] g) (hf : Falls s c)
include hI hf

/-- LDV reads each enabled lane where its checks pass. -/
theorem completes_ldv {read : Nat → List Byte} (hb : readVal c w.base = .ok b) (hcheck : checkSpan s c (memAddr b w.off) g false = .ok ())
    (hread : ∀ i, i < 64 → g.getLsbD i = true → loadElem s c (memAddr b w.off + BitVec.ofNat 64 (4 * i)) 4 = .ok (read i))
    (hw : writeElems s c w.data 32 g ((List.range 64).map fun i => if g.getLsbD i then numOf (read i) else 0) = .ok c') :
    Completes (.ldv w) s c w.h s c' := by
  have hlanes : ((List.range 64).mapM fun i => if g.getLsbD i then (do
      let bs ← loadElem s c (memAddr b w.off + BitVec.ofNat 64 (4 * i)) 4
      return numOf bs) else (pure 0 : Try Nat)) = .ok ((List.range 64).map fun i => if g.getLsbD i then numOf (read i) else 0) := by
    refine mapM_ok fun i hi => ?_
    by_cases h : g.getLsbD i = true
    · rw [if_pos h, if_pos h, try_bind_of_ok (hread i (List.mem_range.mp hi) h)]
      rfl
    · rw [if_neg h, if_neg h]
      rfl
  refine completes_of_instr (exec_ldv w s) hI hf ?_
  rw [try_bind_of_ok hb, try_bind_of_ok (destHazard_of_writeElems hw), try_bind_of_ok hcheck, try_bind_of_ok hlanes, try_bind_of_ok hw]
  rfl

/-- LDVS reads each enabled position where the checks of all of them pass. -/
theorem completes_ldvs {read : Nat → List Byte} (hb : readVal c w.base = .ok b)
    (hhazard : windowHazard s c (strideElems b w.off (elemBytes (w.mod.toNat % 4)) g) false = .ok ())
    (hcheck : checkElems (strideElems b w.off (elemBytes (w.mod.toNat % 4)) g) false = .ok ())
    (hread : ∀ e ∈ strideElems b w.off (elemBytes (w.mod.toNat % 4)) g, loadElem s c e.addr (elemBytes (w.mod.toNat % 4)) = .ok (read e.pos))
    (hw : writeElems s c w.data (8 * elemBytes (w.mod.toNat % 4)) g ((List.range (256 / elemBytes (w.mod.toNat % 4))).map fun p =>
      if g.getLsbD (p / (4 / elemBytes (w.mod.toNat % 4))) then numOf (read p) else 0) = .ok c') : Completes (.ldvs w) s c w.h s c' := by
  have hloads := mapM_loads (v := numOf) hread
  rw [strideElems, List.map_map, Function.comp_def] at hloads
  refine completes_of_instr (exec_ldvs w s) hI hf ?_
  rw [try_bind_of_ok hb, try_bind_of_ok (destHazard_of_writeElems hw), try_bind_of_ok hhazard, try_bind_of_ok hcheck, strideElems,
    try_bind_of_ok hloads, placed_eq, try_bind_of_ok hw]
  rfl

/-- LDVX reads each enabled lane at its index where the checks of all of them pass. -/
theorem completes_ldvx {idx : List Nat} {read : Nat → List Byte} (hidx : readIndices c w.base = .ok idx)
    (hhazard : windowHazard s c (indexElems idx w.off (elemBytes (w.mod.toNat % 4)) g) false = .ok ())
    (hcheck : checkElems (indexElems idx w.off (elemBytes (w.mod.toNat % 4)) g) false = .ok ())
    (hread : ∀ e ∈ indexElems idx w.off (elemBytes (w.mod.toNat % 4)) g, loadElem s c e.addr (elemBytes (w.mod.toNat % 4)) = .ok (read e.pos))
    (hw : writeElems s c w.data 32 g ((List.range 64).map fun i => if g.getLsbD i then indexedValue w (read i) else 0) = .ok c') :
    Completes (.ldvx w) s c w.h s c' := by
  have hloads := mapM_loads (v := indexedValue w) hread
  rw [indexElems, enabledLanes, List.map_map, Function.comp_def] at hloads
  refine completes_of_instr (exec_ldvx w s) hI hf ?_
  rw [try_bind_of_ok hidx, try_bind_of_ok (destHazard_of_writeElems hw), try_bind_of_ok hhazard, try_bind_of_ok hcheck, indexElems, enabledLanes]
  refine (try_bind_of_ok hloads _).trans ?_
  rw [placed_eq, try_bind_of_ok hw]
  rfl

end

/-- Settles O15: the checks of LDV pass in local memory, and each load places what its elements read. -/
theorem vectorLoads : Obligations.VectorLoads := by
  unfold Obligations.VectorLoads
  refine ⟨fun w s c c' g b xs hI hf hb => ⟨fun halign hlanes hxs hw => ?_, fun hcheck read hread hw => completes_ldv hI hf hb hcheck hread hw⟩,
    fun w s c c' g b hI hf hb hhazard hcheck read hread hw => completes_ldvs hI hf hb hhazard hcheck hread hw,
    fun w s c c' g idx hI hf hidx hhazard hcheck read hread hw => ?_⟩
  · have hlocal : ∀ i, i < 64 → g.getLsbD i = true → (memAddr b w.off).toNat + 4 * i < 0x100000 := fun i hi hg => (hlanes i hi hg).1
    rw [hxs] at hw
    refine completes_ldv hI hf hb (checkSpan_localMem halign fun i hi => hlocal i (mem_enabledLanes.mp hi).1 (mem_enabledLanes.mp hi).2)
      (fun i hi hg => ?_) hw
    have haddr := toNat_laneAddr (a := memAddr b w.off) (i := i) (by have := hlocal i hi hg; omega)
    have hload := loadElem_localMem (s := s) (c := c) (a := memAddr b w.off + BitVec.ofNat 64 (4 * i)) (n := 4) (by rw [haddr]; exact hlocal i hi hg)
      (by rw [haddr]; exact (hlanes i hi hg).2)
    rw [haddr] at hload
    exact hload
  · refine completes_ldvx hI hf hidx hhazard hcheck hread ?_
    rw [← hw]
    refine congrArg _ (List.map_congr_left fun i _ => ?_)
    rw [indexedValue, sext64_mod]

end Sys2Proof.Claims
end

section
/-! PROOFS. Bytes that a context stores read back, and every byte outside them reads as before (R29): the pieces that a store stages, the order in
which writes to one byte apply, the location of a byte outside the stored ones. -/

namespace Sys2Proof.Machine

/-! ### Lists in order -/

section
variable {α : Type} {le : α → α → Bool}

theorem getLast?_insertBy {x z : α} (hz : le x z = true) : ∀ {l : List α}, l.getLast? = some z → (insertBy le x l).getLast? = some z
  | [], h => by simp at h
  | y :: r, h => by
    unfold insertBy
    split
    · simpa using h
    · rename_i hle
      cases r with
      | nil =>
        obtain rfl : y = z := by simpa using h
        exact absurd hz hle
      | cons u r =>
        rw [List.getLast?_cons_cons] at h
        have hr := getLast?_insertBy hz h
        rw [List.getLast?_cons, hr]
        rfl

theorem mem_insertBy {x y : α} : ∀ {l : List α}, y ∈ insertBy le x l ↔ y = x ∨ y ∈ l
  | [] => by simp [insertBy]
  | u :: r => by
    unfold insertBy
    split
    · simp
    · rw [List.mem_cons, mem_insertBy, List.mem_cons]
      tauto

theorem mem_sortBy {y : α} : ∀ {l : List α}, y ∈ sortBy le l ↔ y ∈ l
  | [] => by simp [sortBy]
  | x :: l => by
    rw [sortBy, List.foldr_cons, mem_insertBy, List.mem_cons]
    exact or_congr_right mem_sortBy

/-- An element that nothing must follow stays last. -/
theorem getLast?_sortBy {z : α} : ∀ {l : List α}, l.getLast? = some z → (∀ x ∈ l, le x z = true) → (sortBy le l).getLast? = some z
  | [], h, _ => by simp at h
  | [x], h, _ => by simpa [sortBy, insertBy] using h
  | x :: y :: l, h, hle => by
    rw [List.getLast?_cons_cons] at h
    exact getLast?_insertBy (hle x List.mem_cons_self) (getLast?_sortBy h fun u hu => hle u (List.mem_cons_of_mem x hu))

end

/-! ### The order in which writes apply -/

theorem flatten_stepRuns (l : Nat) : ∀ es : List Staged, (stepRuns l es).flatten = es
  | [] => rfl
  | e :: r => by
    have hr := flatten_stepRuns l r
    unfold stepRuns
    split
    · rename_i f g more heq
      rw [heq] at hr
      split <;> simpa using hr
    · simpa using hr

theorem ne_nil_of_mem_stepRuns {l : Nat} : ∀ {es : List Staged}, ∀ g ∈ stepRuns l es, g ≠ []
  | [], _, h => by simp [stepRuns] at h
  | e :: r, g, h => by
    have hr : ∀ g ∈ stepRuns l r, g ≠ [] := ne_nil_of_mem_stepRuns
    unfold stepRuns at h
    split at h
    · rename_i f g' more heq
      rw [heq] at hr
      split at h
      · rcases List.mem_cons.mp h with rfl | h
        · simp
        · exact hr g (List.mem_cons_of_mem _ h)
      · rcases List.mem_cons.mp h with rfl | h
        · simp
        · exact hr g h
    · rcases List.mem_cons.mp h with rfl | h
      · simp
      · exact hr g h

/-- A list whose end is one of its parts ends as that part does. -/
theorem exists_last_run {α : Type} {gs : List (List α)} {z : α} (hne : ∀ g ∈ gs, g ≠ []) (h : gs.flatten.getLast? = some z) :
    ∃ init g, gs = init ++ [g] ∧ g.getLast? = some z := by
  rcases List.eq_nil_or_concat gs with rfl | ⟨init, g, rfl⟩
  · simp at h
  · rw [List.concat_eq_append] at *
    refine ⟨init, g, rfl, ?_⟩
    have hy := List.getLast?_eq_some_getLast (hne g (by simp))
    rw [List.flatten_append, List.getLast?_append, List.flatten_singleton, hy, Option.some_or] at h
    rw [hy, h]

/-- A plain write, made last and of a step that none of the others comes after, applies last (R38). -/
theorem getLast?_orderLoc {z : Staged} (hkind : z.kind = none) : ∀ {n : Nat} {es : List Staged}, es.getLast? = some z →
    (∀ e ∈ es, ∀ l, 1 ≤ l → l ≤ n → e.stepLe l z = true) → (orderLoc n es).getLast? = some z
  | 0, _, h, _ => h
  | n + 1, es, h, hle => by
    have hsorted := getLast?_sortBy (le := Staged.stepLe (n + 1)) h fun e he => hle e he (n + 1) (by omega) (by omega)
    rw [← flatten_stepRuns (n + 1) (sortBy (Staged.stepLe (n + 1)) es)] at hsorted
    obtain ⟨init, g, hgs, hg⟩ := exists_last_run ne_nil_of_mem_stepRuns hsorted
    have hmem : ∀ e ∈ g, e ∈ es := fun e he => by
      have hflat : e ∈ (stepRuns (n + 1) (sortBy (Staged.stepLe (n + 1)) es)).flatten := by
        rw [hgs]
        exact List.mem_flatten_of_mem (by simp) he
      rwa [flatten_stepRuns, mem_sortBy] at hflat
    have hlast : (if oneUnit n g then orderLoc n g else if g.all fun e => e.kind.isSome then sortBy (fun e f => e.party.key ≤ f.party.key) g
        else g).getLast? = some z := by
      split
      · exact getLast?_orderLoc hkind hg fun e he l h1 hn => hle e (hmem e he) l h1 (by omega)
      · split
        · rename_i hall
          have := List.all_eq_true.mp hall z (List.mem_of_getLast? hg)
          simp [hkind] at this
        · exact hg
    rw [orderLoc, hgs, List.flatMap_append, List.getLast?_append]
    simp only [List.flatMap_cons, List.flatMap_nil, List.append_nil]
    rw [hlast]
    rfl

/-! ### Locations -/

/-- One round of widening a range by the contributions' elements that it meets (R42). -/
def growStep (es : List Staged) (w : Nat × Nat) : Nat × Nat :=
  es.foldl (fun (v : Nat × Nat) e =>
    if e.kind.isSome && rangesMeet e.key e.bytes.length v.1 (v.2 - v.1) then (min v.1 e.key, max v.2 (e.key + e.bytes.length)) else v) w

theorem growLoc_succ (n : Nat) (es : List Staged) (w : Nat × Nat) :
    growLoc (n + 1) es w = if growStep es w = w then w else growLoc n es (growStep es w) := rfl

/-- A range widened by a staged write. -/
def growBy (v : Nat × Nat) (e : Staged) : Nat × Nat :=
  if e.kind.isSome && rangesMeet e.key e.bytes.length v.1 (v.2 - v.1) then (min v.1 e.key, max v.2 (e.key + e.bytes.length)) else v

theorem growStep_nil (w : Nat × Nat) : growStep [] w = w := rfl
theorem growStep_cons (e : Staged) (es : List Staged) (w : Nat × Nat) : growStep (e :: es) w = growStep es (growBy w e) := rfl

theorem growBy_of_plain {v : Nat × Nat} {e : Staged} (h : e.kind = none) : growBy v e = v := by simp [growBy, h]

theorem growStep_append (es fs : List Staged) (w : Nat × Nat) : growStep (es ++ fs) w = growStep fs (growStep es w) := List.foldl_append

theorem growStep_of_plain : ∀ {es : List Staged} {w : Nat × Nat}, (∀ e ∈ es, e.kind = none) → growStep es w = w
  | [], _, _ => rfl
  | e :: es, w, h => by
    rw [growStep_cons, growBy_of_plain (h e List.mem_cons_self)]
    exact growStep_of_plain fun f hf => h f (List.mem_cons_of_mem e hf)

/-- Plain writes do not widen a range. -/
theorem growLoc_append_plain {es fs : List Staged} (h : ∀ e ∈ fs, e.kind = none) : ∀ {n : Nat} {w : Nat × Nat},
    growLoc n (es ++ fs) w = growLoc n es w
  | 0, _ => rfl
  | n + 1, w => by
    rw [growLoc_succ, growLoc_succ, growStep_append, growStep_of_plain h]
    split
    · rfl
    · exact growLoc_append_plain h

/-- A range keeps its property where every widening by one write keeps it. -/
theorem growStep_induction {P : Nat × Nat → Prop} {es : List Staged} (h : ∀ v, ∀ e ∈ es, P v → P (growBy v e)) : ∀ {w : Nat × Nat}, P w → P (growStep es w) := by
  induction es with
  | nil => exact fun hw => hw
  | cons e es ih => exact fun hw => ih (fun v f hf => h v f (List.mem_cons_of_mem e hf)) (h _ e List.mem_cons_self hw)

theorem growLoc_induction {P : Nat × Nat → Prop} {es : List Staged} (h : ∀ v, ∀ e ∈ es, P v → P (growBy v e)) : ∀ {n : Nat} {w : Nat × Nat},
    P w → P (growLoc n es w)
  | 0, _, hw => hw
  | n + 1, w, hw => by
    rw [growLoc_succ]
    split
    · exact hw
    · exact growLoc_induction h (growStep_induction h hw)

/-- The elements of contributions that do not lie in a range. -/
def outsideOf (es : List Staged) (v : Nat × Nat) : List Staged := es.filter fun e => e.kind.isSome && !(v.1 ≤ e.key && e.key + e.bytes.length ≤ v.2)

theorem le_growBy (v : Nat × Nat) (e : Staged) : (growBy v e).1 ≤ v.1 ∧ v.2 ≤ (growBy v e).2 := by
  unfold growBy
  split
  · exact ⟨Nat.min_le_left _ _, Nat.le_max_left _ _⟩
  · exact ⟨Nat.le_refl _, Nat.le_refl _⟩

theorem le_growStep (es : List Staged) (w : Nat × Nat) : (growStep es w).1 ≤ w.1 ∧ w.2 ≤ (growStep es w).2 := by
  refine growStep_induction (P := fun v => v.1 ≤ w.1 ∧ w.2 ≤ v.2) (fun v e _ hv => ?_) ⟨Nat.le_refl _, Nat.le_refl _⟩
  have := le_growBy v e
  omega

theorem outsideOf_sublist {es : List Staged} {v w : Nat × Nat} (h1 : v.1 ≤ w.1) (h2 : w.2 ≤ v.2) : (outsideOf es v).Sublist (outsideOf es w) := by
  refine List.monotone_filter_right es fun e he => ?_
  simp only [Bool.and_eq_true, Bool.not_eq_true', Bool.and_eq_false_iff, decide_eq_false_iff_not] at he ⊢
  exact ⟨he.1, by omega⟩

/-- A round that widens a range takes in an element that lay outside it. -/
theorem exists_of_growStep_ne : ∀ {es : List Staged} {w : Nat × Nat}, growStep es w ≠ w → ∃ e ∈ es, e.kind.isSome = true ∧
    ¬(w.1 ≤ e.key ∧ e.key + e.bytes.length ≤ w.2) ∧ (growStep es w).1 ≤ e.key ∧ e.key + e.bytes.length ≤ (growStep es w).2
  | [], w, h => absurd rfl h
  | e :: es, w, h => by
    rw [growStep_cons] at h ⊢
    by_cases he : growBy w e = w
    · rw [he] at h ⊢
      obtain ⟨f, hf, hrest⟩ := exists_of_growStep_ne h
      exact ⟨f, List.mem_cons_of_mem e hf, hrest⟩
    · have hle := le_growStep es (growBy w e)
      unfold growBy at he hle ⊢
      split at he
      · rename_i hmeets
        rw [if_pos hmeets] at hle ⊢
        simp only [Bool.and_eq_true] at hmeets
        refine ⟨e, List.mem_cons_self, hmeets.1, fun hin => he ?_, by omega, by omega⟩
        rw [Nat.min_eq_left hin.1, Nat.max_eq_left hin.2]
      · exact absurd rfl he

theorem length_outsideOf_growStep {es : List Staged} {w : Nat × Nat} (h : growStep es w ≠ w) :
    (outsideOf es (growStep es w)).length < (outsideOf es w).length := by
  obtain ⟨e, he, hkind, hout, hin⟩ := exists_of_growStep_ne h
  obtain ⟨hlo, hhi⟩ := le_growStep es w
  by_contra hge
  have hsub := outsideOf_sublist (es := es) hlo hhi
  have heq := hsub.eq_of_length_le (Nat.not_lt.mp hge)
  have hmem : e ∈ outsideOf es w := List.mem_filter.mpr
    ⟨he, by simp only [hkind, Bool.true_and, Bool.not_eq_true', Bool.and_eq_false_iff, decide_eq_false_iff_not]; omega⟩
  rw [← heq, outsideOf, List.mem_filter] at hmem
  simp [hin.1, hin.2] at hmem

/-- A search with more rounds than there are elements outside the range gives no other location. -/
theorem growLoc_eq_of_le {es : List Staged} : ∀ {n : Nat} {w : Nat × Nat}, (outsideOf es w).length ≤ n → ∀ {m : Nat}, n ≤ m →
    growLoc m es w = growLoc n es w
  | 0, w, h, m, _ => by
    have hfix : growStep es w = w := by
      by_contra hne
      have := length_outsideOf_growStep hne
      omega
    cases m with
    | zero => rfl
    | succ m => rw [growLoc_succ, if_pos hfix]; rfl
  | n + 1, w, h, m, hm => by
    obtain ⟨m, rfl⟩ : ∃ k, m = k + 1 := ⟨m - 1, by omega⟩
    rw [growLoc_succ, growLoc_succ]
    split
    · rfl
    · rename_i hne
      have := length_outsideOf_growStep hne
      exact growLoc_eq_of_le (by omega) (by omega)

theorem length_outsideOf (es : List Staged) (w : Nat × Nat) : (outsideOf es w).length ≤ es.length := List.length_filter_le _ _

/-- Plain writes beside others leave their locations alone. -/
theorem growLoc_length_append_plain {es fs : List Staged} (h : ∀ e ∈ fs, e.kind = none) (w : Nat × Nat) :
    growLoc (es ++ fs).length (es ++ fs) w = growLoc es.length es w := by
  rw [growLoc_append_plain h]
  exact growLoc_eq_of_le (length_outsideOf es w) (by simp)

/-- A byte of plain writes alone is a location by itself (R42). -/
theorem growLoc_of_plain {es : List Staged} {x n : Nat} (h : ∀ e ∈ es, e.covers x = true → e.kind = none) : growLoc n es (x, x + 1) = (x, x + 1) := by
  refine growLoc_induction (P := fun v => v = (x, x + 1)) (fun v e he hv => ?_) rfl
  subst hv
  unfold growBy
  split
  · rename_i hmeets
    simp only [Bool.and_eq_true, rangesMeet, decide_eq_true_eq, bne_iff_ne] at hmeets
    have := h e he (by simp [Staged.covers]; omega)
    simp [this] at hmeets
  · rfl

/-- The location of a byte meets no byte of a stretch that holds plain writes alone. -/
theorem growLoc_apart {es : List Staged} {k m x n : Nat} (hx : x < k ∨ k + m ≤ x)
    (h : ∀ y, k ≤ y → y < k + m → ∀ e ∈ es, e.covers y = true → e.kind = none) :
    (growLoc n es (x, x + 1)).1 ≤ x ∧ x < (growLoc n es (x, x + 1)).2 ∧
      ∀ y, (growLoc n es (x, x + 1)).1 ≤ y → y < (growLoc n es (x, x + 1)).2 → y < k ∨ k + m ≤ y := by
  refine growLoc_induction (P := fun v => v.1 ≤ x ∧ x < v.2 ∧ ∀ y, v.1 ≤ y → y < v.2 → y < k ∨ k + m ≤ y) (fun v e he hv => ?_)
    ⟨Nat.le_refl x, Nat.lt_succ_self x, fun y h1 h2 => by dsimp only at h1 h2; omega⟩
  obtain ⟨hlo, hhi, hin⟩ := hv
  unfold growBy
  split
  · rename_i hmeets
    simp only [Bool.and_eq_true, rangesMeet, decide_eq_true_eq, bne_iff_ne] at hmeets
    refine ⟨by dsimp only; omega, by dsimp only; omega, fun y h1 h2 => ?_⟩
    dsimp only at h1 h2
    by_cases hv : v.1 ≤ y ∧ y < v.2
    · exact hin y hv.1 hv.2
    · by_contra hout
      have := h y (by omega) (by omega) e he (by simp [Staged.covers]; omega)
      simp [this] at hmeets
  · exact ⟨hlo, hhi, hin⟩

end Sys2Proof.Machine
end

section
/-! PROOFS. What a plain store leaves in memory and staging, and that it reads back (R29, R32, R43, R237). -/

namespace Sys2Proof.Machine

/-! ### The pieces of a store -/

/-- Bytes of a range that the pieces carry: each byte of a piece is the one stored there. -/
def Carries (k : Nat) (bs : List Byte) (p : Nat × List Byte) : Prop :=
  k ≤ p.1 ∧ p.1 + p.2.length ≤ k + bs.length ∧ ∀ i, i < p.2.length → p.2.getD i 0 = bs.getD (p.1 - k + i) 0

/-- A byte of a piece. -/
def Covered (p : Nat × List Byte) (x : Nat) : Prop := p.1 ≤ x ∧ x < p.1 + p.2.length

theorem Carries.cons {k : Nat} {b : Byte} {bs : List Byte} {p : Nat × List Byte} (h : Carries (k + 1) bs p) : Carries k (b :: bs) p := by
  obtain ⟨hlo, hhi, hbytes⟩ := h
  refine ⟨by omega, by simp only [List.length_cons]; omega, fun i hi => ?_⟩
  rw [hbytes i hi, show p.1 - k + i = p.1 - (k + 1) + i + 1 by omega, List.getD_cons_succ]

theorem Carries.trans {k : Nat} {bs : List Byte} {r p : Nat × List Byte} (hr : Carries k bs r) (hp : Carries r.1 r.2 p) : Carries k bs p := by
  obtain ⟨hlo, hhi, hbytes⟩ := hr
  obtain ⟨hlo', hhi', hbytes'⟩ := hp
  refine ⟨by omega, by omega, fun i hi => ?_⟩
  rw [hbytes' i hi, hbytes _ (by omega), show r.1 - k + (p.1 - r.1 + i) = p.1 - k + i by omega]

theorem carries_splitRuns {dead : Nat → Bool} : ∀ {bs : List Byte} {k : Nat}, ∀ r ∈ splitRuns k bs dead, Carries k bs r
  | [], _, _, h => by simp [splitRuns] at h
  | b :: bs, k, r, h => by
    have hrest : ∀ r ∈ splitRuns (k + 1) bs dead, Carries (k + 1) bs r := carries_splitRuns
    have hone : Carries k (b :: bs) (k, [b]) := ⟨Nat.le_refl k, by simp, fun i hi => by
      obtain rfl : i = 0 := by simpa using hi
      simp⟩
    unfold splitRuns at h
    dsimp only at h
    split at h
    · exact (hrest r h).cons
    · split at h
      · rename_i k' bs' more heq
        rw [heq] at hrest
        split at h
        · rename_i hk
          rcases List.mem_cons.mp h with rfl | hr
          · obtain ⟨hlo, hhi, hbytes⟩ := hrest (k', bs') List.mem_cons_self
            dsimp only at hlo hhi hbytes
            refine ⟨Nat.le_refl k, by simp only [List.length_cons]; omega, fun i hi => ?_⟩
            cases i with
            | zero => simp
            | succ i =>
              simp only [List.length_cons] at hi
              rw [List.getD_cons_succ, hbytes i (by omega), show k - k + (i + 1) = k' - (k + 1) + i + 1 by omega, List.getD_cons_succ]
          · exact (hrest r (List.mem_cons_of_mem _ hr)).cons
        · rcases List.mem_cons.mp h with rfl | hr
          · exact hone
          · exact (hrest r (by rwa [heq] at hr)).cons
      · rw [List.mem_singleton.mp h]
        exact hone

theorem covered_splitRuns {dead : Nat → Bool} {x : Nat} (hx : dead x = false) : ∀ {bs : List Byte} {k : Nat}, k ≤ x → x < k + bs.length →
    ∃ r ∈ splitRuns k bs dead, Covered r x
  | [], k, h1, h2 => by simp at h2; omega
  | b :: bs, k, h1, h2 => by
    simp only [List.length_cons] at h2
    unfold splitRuns
    dsimp only
    by_cases hk : k = x
    · subst hk
      rw [if_neg (by simp [hx])]
      split
      · split
        · exact ⟨_, List.mem_cons_self, by simp [Covered]⟩
        · exact ⟨_, List.mem_cons_self, by simp [Covered]⟩
      · exact ⟨_, List.mem_singleton_self _, by simp [Covered]⟩
    · obtain ⟨r, hr, hcov⟩ := covered_splitRuns hx (bs := bs) (k := k + 1) (by omega) (by omega)
      split
      · exact ⟨r, hr, hcov⟩
      · split
        · rename_i k' bs' more heq
          rw [heq] at hr
          split
          · rename_i hk'
            rcases List.mem_cons.mp hr with rfl | hr
            · refine ⟨_, List.mem_cons_self, ?_⟩
              simp only [Covered, List.length_cons] at hcov ⊢
              omega
            · exact ⟨r, List.mem_cons_of_mem _ hr, hcov⟩
          · exact ⟨r, List.mem_cons_of_mem _ (by rwa [heq]), hcov⟩
        · rename_i heq
          rw [heq] at hr
          simp at hr

theorem carries_linePieces : ∀ {f k : Nat} {bs : List Byte}, ∀ p ∈ linePieces f k bs, Carries k bs p
  | 0, _, _, _, h => by simp [linePieces] at h
  | f + 1, k, bs, p, h => by
    unfold linePieces at h
    split at h
    · simp at h
    · rcases List.mem_cons.mp h with rfl | hr
      · refine ⟨Nat.le_refl k, by simp only [List.length_take]; omega, fun i hi => ?_⟩
        simp only [List.length_take] at hi
        rw [List.getD_eq_getElem?_getD, List.getElem?_take_of_lt (by omega), List.getD_eq_getElem?_getD, Nat.sub_self, Nat.zero_add]
      · obtain ⟨hlo, hhi, hbytes⟩ := carries_linePieces p hr
        simp only [List.length_drop] at hhi
        by_cases hp : p.2.length = 0
        · exact ⟨by omega, by have := (linePieces_within p hr).2; simp only [List.length_drop] at this; omega, fun i hi => by omega⟩
        · refine ⟨by omega, by omega, fun i hi => ?_⟩
          rw [hbytes i hi, List.getD_eq_getElem?_getD, List.getElem?_drop, List.getD_eq_getElem?_getD,
            show 64 - k % 64 + (p.1 - (k + (64 - k % 64)) + i) = p.1 - k + i by omega]

theorem covered_linePieces {x : Nat} : ∀ {f k : Nat} {bs : List Byte}, k % 64 + bs.length ≤ 64 * f → k ≤ x → x < k + bs.length →
    ∃ p ∈ linePieces f k bs, Covered p x
  | 0, k, bs, h, h1, h2 => by omega
  | f + 1, k, bs, h, h1, h2 => by
    have hne : bs.isEmpty = false := by
      cases bs with
      | nil => simp at h2; omega
      | cons => rfl
    unfold linePieces
    rw [if_neg (by simp [hne])]
    by_cases hx : x < k + (64 - k % 64)
    · exact ⟨_, List.mem_cons_self, h1, by simp only [List.length_take]; omega⟩
    · obtain ⟨p, hp, hcov⟩ := covered_linePieces (x := x) (f := f) (k := k + (64 - k % 64)) (bs := bs.drop (64 - k % 64))
        (by simp only [List.length_drop]; omega) (by omega) (by simp only [List.length_drop]; omega)
      exact ⟨p, List.mem_cons_of_mem _ hp, hcov⟩

/-- Each piece of a store carries its bytes. -/
theorem carries_plainPieces {s : State} {k : Nat} {bs : List Byte} : ∀ p ∈ s.plainPieces k bs, Carries k bs p := fun p hp => by
  obtain ⟨r, hr, hp⟩ := List.mem_flatMap.mp hp
  exact (carries_splitRuns r hr).trans (carries_linePieces p hp)

/-- Each stored byte but those of barrier records lies in a piece (R43, R237). -/
theorem covered_plainPieces {s : State} {k : Nat} {bs : List Byte} {x : Nat} (hx : s.isRecordByte x = false) (h1 : k ≤ x) (h2 : x < k + bs.length) :
    ∃ p ∈ s.plainPieces k bs, Covered p x := by
  obtain ⟨r, hr, hcov⟩ := covered_splitRuns hx h1 h2
  obtain ⟨p, hp, hcov'⟩ := covered_linePieces (f := r.2.length / 64 + 2) (bs := r.2) (by omega) hcov.1 hcov.2
  exact ⟨p, List.mem_flatMap.mpr ⟨r, hr, hp⟩, hcov'⟩

/-! ### What a store leaves -/

/-- The entry that a context's store stages for a piece. -/
def Stages (w : Writer) (p : Nat × List Byte) (e : Staged) : Prop :=
  e.key = p.1 ∧ e.bytes = p.2 ∧ e.kind = none ∧ e.party = { w.c.party with loopback := w.loop } ∧ e.tile = w.c.key.tile ∧ e.steps = w.steps

/-- Staging a write that is not one to a plate slice changes staging alone. -/
theorem enterStaging_eq {s : State} {e : Staged} (h : isPlate e.key = false) :
    ∃ e' n, e' = { e with seq := s.seq, pool := e'.pool } ∧
      s.enterStaging e = { s with staged := s.staged ++ [e'], seq := s.seq + 1, spills := n } := by
  unfold State.enterStaging
  rw [if_neg (by simp [h])]
  exact ⟨_, _, rfl, rfl⟩

/-- Pieces that are staged add their entries, and leave everything else but the counts. -/
theorem foldlM_stagePiece {w : Writer} {k : Nat} {addr : Word} : ∀ {ps : List (Nat × List Byte)} {s t : State}, (∀ p ∈ ps, isPlate p.1 = false) →
    ps.foldlM (stagePiece w k addr) s = some t →
    ∃ es n m, List.Forall₂ (Stages w) ps es ∧ t = { s with staged := s.staged ++ es, seq := n, spills := m }
  | [], s, t, _, h => by
    obtain rfl : s = t := by simpa using h
    exact ⟨[], s.seq, s.spills, .nil, by simp⟩
  | p :: ps, s, t, hp, h => by
    rw [List.foldlM_cons] at h
    obtain ⟨s', hs', h⟩ := Option.bind_eq_some_iff.mp h
    unfold stagePiece at hs'
    split at hs'
    · cases hs'
    · obtain ⟨e, n, he, heq⟩ := enterStaging_eq (s := s) (e := pieceEntry w k addr s p) (hp p List.mem_cons_self)
      obtain rfl := Option.some.inj hs'
      rw [heq] at h
      obtain ⟨es, n', m', hes, rfl⟩ := foldlM_stagePiece (fun q hq => hp q (List.mem_cons_of_mem p hq)) h
      refine ⟨e :: es, n', m', .cons ?_ hes, by simp⟩
      rw [he]
      exact ⟨rfl, rfl, rfl, rfl, rfl, rfl⟩

/-- Bytes of barrier records written one by one. -/
theorem get_foldl_records {p : Nat → Bool} {k x : Nat} : ∀ {bs : List Byte} {n : Nat} {m : Mem}, m.wf = true →
    (((bs.zipIdx n).filter fun y => p (k + y.2)).foldl (fun m y => m.set (k + y.2) y.1) m).get x =
      if k + n ≤ x ∧ x < k + n + bs.length ∧ p x = true then bs.getD (x - (k + n)) 0 else m.get x
  | [], n, m, _ => by
    rw [if_neg (by simp; omega)]
    rfl
  | b :: bs, n, m, hm => by
    rw [List.zipIdx_cons, List.filter_cons]
    by_cases hp : p (k + n) = true
    · rw [if_pos hp, List.foldl_cons, get_foldl_records (Mem.wf_set hm _ _), Mem.get_set hm]
      by_cases hx : x = k + n
      · subst hx
        rw [if_neg (by omega), if_pos rfl, if_pos ⟨Nat.le_refl _, by simp, hp⟩]
        simp
      · rw [if_neg hx]
        by_cases hin : k + (n + 1) ≤ x ∧ x < k + (n + 1) + bs.length ∧ p x = true
        · rw [if_pos hin, if_pos ⟨by omega, by simp only [List.length_cons]; omega, hin.2.2⟩, show x - (k + n) = x - (k + (n + 1)) + 1 by omega,
            List.getD_cons_succ]
        · rw [if_neg hin, if_neg (fun h => hin ⟨by omega, by have := h.2.1; simp only [List.length_cons] at this; omega, h.2.2⟩)]
    · rw [if_neg hp, get_foldl_records hm]
      by_cases hx : x = k + n
      · subst hx
        rw [if_neg (by omega), if_neg (fun h => hp h.2.2)]
      · by_cases hin : k + (n + 1) ≤ x ∧ x < k + (n + 1) + bs.length ∧ p x = true
        · rw [if_pos hin, if_pos ⟨by omega, by simp only [List.length_cons]; omega, hin.2.2⟩, show x - (k + n) = x - (k + (n + 1)) + 1 by omega,
            List.getD_cons_succ]
        · rw [if_neg hin, if_neg (fun h => hin ⟨by omega, by have := h.2.1; simp only [List.length_cons] at this; omega, h.2.2⟩)]

/-- Memory after the bytes of barrier records have been written: those alone have changed (R237). -/
theorem get_writeRecords {s : State} (hwf : s.mem.wf = true) (k x : Nat) (bs : List Byte) :
    (s.writeRecords k bs).mem.get x = if k ≤ x ∧ x < k + bs.length ∧ s.isRecordByte x = true then bs.getD (x - k) 0 else s.mem.get x :=
  get_foldl_records (n := 0) hwf

theorem wf_writeRecords {s : State} (hwf : s.mem.wf = true) (k : Nat) (bs : List Byte) : (s.writeRecords k bs).mem.wf = true :=
  Mem.wf_foldl_set _ _ _ hwf

/-- What a store of plain bytes, none of a plate slice, leaves. -/
theorem placePlain_eq_some {s t : State} {w : Writer} {k : Nat} {addr : Word} {bs : List Byte} (hplate : ∀ x, k ≤ x → x < k + bs.length → isPlate x = false)
    (h : s.placePlain w k addr bs = some t) : ∃ es n m, List.Forall₂ (Stages w) (s.plainPieces k bs) es ∧
      t = { s with mem := (s.writeRecords k bs).mem, staged := s.staged ++ es, seq := n, spills := m } := by
  rw [placePlain_eq] at h
  obtain ⟨es, n, m, hes, ht⟩ := foldlM_stagePiece (fun p hp => hplate p.1 (plainPieces_within p hp).1 (plainPieces_within p hp).2) h
  exact ⟨es, n, m, hes, ht⟩

end Sys2Proof.Machine
end

section
/-! PROOFS. A context's read of one byte, before and after a store (R29, R38, R42, R237). -/

namespace Sys2Proof.Machine

/-! ### One byte read -/

/-- The staged writes that a reader sees in the package's staging. -/
def State.seen (s : State) (r : Reader) : List Staged := s.staged.filter fun e => r.sees e

/-- Those that bear on a byte's location (R42). -/
def locationWrites (es : List Staged) (x : Nat) : List Staged :=
  let w := growLoc es.length es (x, x + 1)
  es.filter fun e => rangesMeet e.key e.bytes.length w.1 (w.2 - w.1)

theorem isRecordByte_congr {s t : State} (h : t.tiles = s.tiles) (x : Nat) : t.isRecordByte x = s.isRecordByte x := by
  simp only [State.isRecordByte, State.tile, h]

/-- A byte that belongs to a barrier record is that of memory, any other one what the step rule gives (R29, R237). -/
theorem readLoc_one {s : State} {c : Ctx} (hc : c.frozen = none) (x : Nat) : s.readLoc c false x 1 =
    [if s.isRecordByte x then s.mem.get x
     else valueAt (baseByte s.mem s.hostOld c.task) (locationWrites (s.seen (c.reader false)) x) x] := by
  have hread : s.readAs c false x 1 = [valueAt (baseByte s.mem s.hostOld c.task) (locationWrites (s.seen (c.reader false)) x) x] := by
    simp only [State.readAs, State.image, hc]
    rfl
  rw [State.readLoc, hread, State.freshRecords]
  by_cases hrec : s.isRecordByte x = true
  · have hlocal : (isLocal x && !(s.tile (tileOfKey x)).bcPhases.isEmpty) = true := by
      simp only [State.isRecordByte, Bool.and_eq_true, List.any_eq_true] at hrec
      obtain ⟨hloc, r, hr, -⟩ := hrec
      simp [hloc, List.ne_nil_of_mem hr]
    rw [if_pos hlocal, if_pos hrec]
    simp [hrec]
  · rw [if_neg hrec]
    split
    · simp [hrec]
    · rfl

theorem covers_iff {e : Staged} {x : Nat} : e.covers x = true ↔ e.key ≤ x ∧ x < e.key + e.bytes.length := by simp [Staged.covers]

theorem rangesMeet_one {e : Staged} {x : Nat} : rangesMeet e.key e.bytes.length x (x + 1 - x) = e.covers x := by
  rw [Bool.eq_iff_iff, covers_iff]
  simp only [rangesMeet, Bool.and_eq_true, decide_eq_true_eq, bne_iff_ne]
  omega

/-- The writes that bear on a byte of plain writes alone. -/
theorem locationWrites_of_plain {es : List Staged} {x : Nat} (h : ∀ e ∈ es, e.covers x = true → e.kind = none) :
    locationWrites es x = es.filter fun e => e.covers x := by
  simp only [locationWrites, growLoc_of_plain h, rangesMeet_one]

/-! ### A byte that was stored -/

/-- A byte of a one-byte buffer after a plain write that covers it. -/
theorem applyStaged_one {e : Staged} {x : Nat} {b : Byte} (hkind : e.kind = none) (hcov : e.covers x = true) :
    applyStaged x [b] e = [e.bytes.getD (x - e.key) 0] := by
  obtain ⟨h1, h2⟩ := covers_iff.mp hcov
  simp only [applyStaged, hkind, overlay, List.zipIdx_singleton, List.map_cons, List.map_nil, Nat.add_zero, if_pos (And.intro h1 h2)]
  rw [List.getD_eq_getElem _ _ (by omega), List.getD_eq_getElem _ _ (by omega)]

theorem foldl_applyStaged_one {x : Nat} : ∀ {es : List Staged} {b : Byte} {z : Staged}, (∀ e ∈ es, e.kind = none ∧ e.covers x = true) →
    es.getLast? = some z → es.foldl (applyStaged x) [b] = [z.bytes.getD (x - z.key) 0]
  | [], _, _, _, h => by simp at h
  | [e], b, z, hall, h => by
    obtain rfl : e = z := by simpa using h
    obtain ⟨hkind, hcov⟩ := hall e List.mem_cons_self
    exact applyStaged_one hkind hcov
  | e :: f :: es, b, z, hall, h => by
    obtain ⟨hkind, hcov⟩ := hall e List.mem_cons_self
    rw [List.foldl_cons, applyStaged_one hkind hcov]
    exact foldl_applyStaged_one (fun g hg => hall g (List.mem_cons_of_mem e hg)) (by rwa [List.getLast?_cons_cons] at h)

theorem mem_orderLoc : ∀ {n : Nat} {es : List Staged} {e : Staged}, e ∈ orderLoc n es → e ∈ es
  | 0, _, _, h => h
  | n + 1, es, e, h => by
    rw [orderLoc, List.mem_flatMap] at h
    obtain ⟨g, hg, he⟩ := h
    have hin : e ∈ g := by
      split at he
      · exact mem_orderLoc he
      · split at he
        · exact mem_sortBy.mp he
        · exact he
    have hflat := List.mem_flatten_of_mem hg hin
    rwa [flatten_stepRuns, mem_sortBy] at hflat

/-- A byte on which only plain writes bear is that of the last one, where that is of no earlier step than another (R38). -/
theorem valueAt_of_last {base : Nat → Byte} {es : List Staged} {x : Nat} {z : Staged} (hall : ∀ e ∈ es, e.kind = none ∧ e.covers x = true)
    (hlast : es.getLast? = some z) (hle : ∀ e ∈ es, ∀ l, 1 ≤ l → l ≤ 5 → e.stepLe l z = true) : valueAt base es x = z.bytes.getD (x - z.key) 0 := by
  have hloc : locationOf es x = (x, x + 1) := growLoc_of_plain fun e he _ => (hall e he).1
  have hws : (es.filter fun e => rangesMeet e.key e.bytes.length x (x + 1 - x)) = es := by
    simp only [rangesMeet_one]
    exact List.filter_eq_self.mpr fun e he => (hall e he).2
  have hne : es.isEmpty = false := by
    cases es with
    | nil => simp at hlast
    | cons => rfl
  have hz := hall z (List.mem_of_getLast? hlast)
  have horder := getLast?_orderLoc hz.1 hlast hle
  have hbuf : ((List.range (x + 1 - x)).map fun i => base (x + i)) = [base x] := by simp
  simp only [valueAt, hloc, hws, hne, Bool.false_eq_true, if_false, hbuf]
  rw [foldl_applyStaged_one (fun e he => hall e (mem_orderLoc he)) horder, Nat.sub_self]
  rfl

/-! ### A byte outside the stored ones -/

theorem rangesMeet_iff {a n b m : Nat} : rangesMeet a n b m = true ↔ ∃ x, (a ≤ x ∧ x < a + n) ∧ b ≤ x ∧ x < b + m := by
  simp only [rangesMeet, Bool.and_eq_true, decide_eq_true_eq, bne_iff_ne]
  constructor
  · intro h
    exact ⟨max a b, by omega⟩
  · rintro ⟨x, hx⟩
    omega

/-- A byte's value depends on what memory holds at the bytes of its location alone. -/
theorem valueAt_congr {base base' : Nat → Byte} {es : List Staged} {x : Nat}
    (h : ∀ y, (locationOf es x).1 ≤ y → y < (locationOf es x).2 → base y = base' y) (hx : (locationOf es x).1 ≤ x ∧ x < (locationOf es x).2) :
    valueAt base es x = valueAt base' es x := by
  have hbuf : ((List.range ((locationOf es x).2 - (locationOf es x).1)).map fun i => base ((locationOf es x).1 + i)) =
      (List.range ((locationOf es x).2 - (locationOf es x).1)).map fun i => base' ((locationOf es x).1 + i) :=
    List.map_congr_left fun i hi => by
      have := List.mem_range.mp hi
      exact h _ (by omega) (by omega)
  simp only [valueAt, hbuf]
  split
  · exact h x hx.1 hx.2
  · rfl

section
variable {es fs : List Staged} {k m x : Nat} (hplain : ∀ f ∈ fs, f.kind = none) (hin : ∀ f ∈ fs, k ≤ f.key ∧ f.key + f.bytes.length ≤ k + m)
  (hx : x < k ∨ k + m ≤ x) (hold : ∀ y, k ≤ y → y < k + m → ∀ e ∈ es, e.covers y = true → e.kind = none)
include hplain hin hx hold

/-- Plain writes elsewhere do not bear on a byte. -/
theorem locationWrites_append_plain : locationWrites (es ++ fs) x = locationWrites es x := by
  obtain ⟨-, -, hapart⟩ := growLoc_apart (n := es.length) hx hold
  simp only [locationWrites, growLoc_length_append_plain hplain, List.filter_append]
  have hnone : (fs.filter fun e => rangesMeet e.key e.bytes.length (growLoc es.length es (x, x + 1)).1
      ((growLoc es.length es (x, x + 1)).2 - (growLoc es.length es (x, x + 1)).1)) = [] := by
    refine List.filter_eq_nil_iff.mpr fun f hf hmeets => ?_
    obtain ⟨y, hy, hy'⟩ := rangesMeet_iff.mp hmeets
    have := hin f hf
    have := hapart y hy'.1 (by omega)
    omega
  rw [hnone, List.append_nil]

end

/-- The location of a byte, found again among the writes that bear on it, stays apart from a stretch of plain writes. -/
theorem locationOf_apart {es : List Staged} {k m x : Nat} (hx : x < k ∨ k + m ≤ x)
    (hold : ∀ y, k ≤ y → y < k + m → ∀ e ∈ es, e.covers y = true → e.kind = none) :
    (locationOf (locationWrites es x) x).1 ≤ x ∧ x < (locationOf (locationWrites es x) x).2 ∧
      ∀ y, (locationOf (locationWrites es x) x).1 ≤ y → y < (locationOf (locationWrites es x) x).2 → y < k ∨ k + m ≤ y :=
  growLoc_apart hx fun y h1 h2 e he => hold y h1 h2 e (List.mem_of_mem_filter he)

/-! ### Steps -/

theorem stepLe_of_steps_eq {e f : Staged} (h : e.steps = f.steps) (l : Nat) : e.stepLe l f = true := by
  have hstep : e.step l = f.step l := by simp only [Staged.step, h]
  unfold Staged.stepLe
  rw [hstep]
  cases f.step l with
  | none => rfl
  | some a => simp [counterBefore]

/-- Only the steps of the later of two writes count. -/
theorem stepLe_congr {e f f' : Staged} (h : f.steps = f'.steps) (l : Nat) : e.stepLe l f = e.stepLe l f' := by
  simp only [Staged.stepLe, Staged.step, h]

theorem exists_left_of_forall₂ {α β : Type} {R : α → β → Prop} {l : List α} {r : List β} (h : List.Forall₂ R l r) : ∀ b ∈ r, ∃ a ∈ l, R a b := by
  induction h with
  | nil => simp
  | cons hab _ ih =>
    intro b hb
    rcases List.mem_cons.mp hb with rfl | hb
    · exact ⟨_, List.mem_cons_self, hab⟩
    · obtain ⟨a, ha, hr⟩ := ih b hb
      exact ⟨a, List.mem_cons_of_mem _ ha, hr⟩

theorem exists_right_of_forall₂ {α β : Type} {R : α → β → Prop} {l : List α} {r : List β} (h : List.Forall₂ R l r) : ∀ a ∈ l, ∃ b ∈ r, R a b :=
  exists_left_of_forall₂ h.flip

end Sys2Proof.Machine

namespace Sys2Proof.Claims

open Sys2Proof.Machine

/-- The state after a plain store, as far as reads see it: its record bytes in memory, its entries in staging. -/
def stored (s : State) (k : Nat) (bs : List Byte) (es : List Staged) (n m : Nat) : State :=
  { s with mem := (s.writeRecords k bs).mem, staged := s.staged ++ es, seq := n, spills := m }

section
variable {s : State} {c : Ctx} {k : Nat} {bs : List Byte} {es : List Staged} {n m : Nat}
  (hes : List.Forall₂ (Stages (s.writer c false)) (s.plainPieces k bs) es)
include hes

/-- Each entry of a store carries its bytes, is plain and of the context's steps, and the context sees it. -/
theorem carries_of_stored : ∀ e ∈ es, Carries k bs (e.key, e.bytes) ∧ e.kind = none ∧ e.steps = s.stepsOf c ∧ (c.reader false).sees e = true := by
  intro e he
  obtain ⟨p, hp, hkey, hbytes, hkind, hparty, -, hsteps⟩ := exists_left_of_forall₂ hes e he
  have hcarry := carries_plainPieces p hp
  refine ⟨by rwa [hkey, hbytes], hkind, hsteps, ?_⟩
  have howner : e.party = (c.reader false).party := hparty
  have hloop : (c.reader false).party.loopback = false := rfl
  simp [Reader.sees, howner, hloop]

theorem covers_of_stored {x : Nat} (hrec : s.isRecordByte x = false) (h1 : k ≤ x) (h2 : x < k + bs.length) : ∃ e ∈ es, e.covers x = true := by
  obtain ⟨p, hp, hcov⟩ := covered_plainPieces hrec h1 h2
  obtain ⟨e, he, hkey, hbytes, -⟩ := exists_right_of_forall₂ hes p hp
  exact ⟨e, he, covers_iff.mpr (by rw [hkey, hbytes]; exact hcov)⟩

theorem seen_stored : (stored s k bs es n m).seen (c.reader false) = s.seen (c.reader false) ++ es := by
  have hall : es.filter (fun e => (c.reader false).sees e) = es := List.filter_eq_self.mpr fun e he => (carries_of_stored hes e he).2.2.2
  simp only [State.seen, stored, List.filter_append, hall]

variable (hwf : s.mem.wf = true) (hc : c.frozen = none) (hnew : ∀ x, k ≤ x → x < k + bs.length → Newest s c x)
include hwf hc hnew

/-- A stored byte reads back. -/
theorem readLoc_stored_self {x : Nat} (h1 : k ≤ x) (h2 : x < k + bs.length) :
    (stored s k bs es n m).readLoc c false x 1 = [bs.getD (x - k) 0] := by
  have hrecord : (stored s k bs es n m).isRecordByte x = s.isRecordByte x := isRecordByte_congr rfl x
  rw [readLoc_one hc, hrecord]
  by_cases hrec : s.isRecordByte x = true
  · rw [if_pos hrec]
    exact congrArg (fun b => [b]) ((get_writeRecords hwf k x bs).trans (if_pos ⟨h1, h2, hrec⟩))
  · have hplain : ∀ e ∈ s.seen (c.reader false) ++ es, e.covers x = true → e.kind = none ∧ ∀ l, 1 ≤ l → l ≤ 5 →
        ∀ z ∈ es, e.stepLe l z = true := by
      intro e he hcov
      rcases List.mem_append.mp he with hold | hin
      · obtain ⟨hkind, hle⟩ := hnew x h1 h2 e (List.mem_of_mem_filter hold) hcov
        exact ⟨hkind, fun l hl hl' z hz => by
          rw [stepLe_congr (f' := { e with steps := s.stepsOf c }) (carries_of_stored hes z hz).2.2.1 l]
          exact hle l hl hl'⟩
      · obtain ⟨-, hkind, hsteps, -⟩ := carries_of_stored hes e hin
        exact ⟨hkind, fun l _ _ z hz => stepLe_of_steps_eq (hsteps.trans (carries_of_stored hes z hz).2.2.1.symm) l⟩
    obtain ⟨f, hf, hfcov⟩ := covers_of_stored hes (by simpa using hrec) h1 h2
    have hne : es.filter (fun e => e.covers x) ≠ [] := List.ne_nil_of_mem (List.mem_filter.mpr ⟨hf, hfcov⟩)
    have hlast := List.getLast?_eq_some_getLast hne
    obtain ⟨hzin, hzcov⟩ := List.mem_filter.mp (List.getLast_mem hne)
    have hend : ((s.seen (c.reader false) ++ es).filter fun e => e.covers x).getLast? = some ((es.filter fun e => e.covers x).getLast hne) := by
      rw [List.filter_append, List.getLast?_append, hlast, Option.some_or]
    rw [if_neg hrec, seen_stored hes, locationWrites_of_plain fun e he hcov => (hplain e he hcov).1]
    rw [valueAt_of_last (fun e he => ⟨(hplain e (List.mem_of_mem_filter he) (List.mem_filter.mp he).2).1, (List.mem_filter.mp he).2⟩) hend
      (fun e he l hl hl' => (hplain e (List.mem_of_mem_filter he) (List.mem_filter.mp he).2).2 l hl hl' _ hzin)]
    obtain ⟨⟨hlo, -, hbytes⟩, -⟩ := carries_of_stored hes _ hzin
    obtain ⟨hcov1, hcov2⟩ := covers_iff.mp hzcov
    dsimp only at hlo hbytes
    rw [hbytes _ (by omega)]
    congr 2
    omega

/-- A byte outside the stored ones reads as before. -/
theorem readLoc_stored_other {x : Nat} (hx : x < k ∨ k + bs.length ≤ x) :
    (stored s k bs es n m).readLoc c false x 1 = s.readLoc c false x 1 := by
  have hrecord : (stored s k bs es n m).isRecordByte x = s.isRecordByte x := isRecordByte_congr rfl x
  have hmem : ∀ y, (y < k ∨ k + bs.length ≤ y) → (s.writeRecords k bs).mem.get y = s.mem.get y := fun y hy => by
    rw [get_writeRecords hwf, if_neg (by omega)]
  have hold : ∀ y, k ≤ y → y < k + bs.length → ∀ e ∈ s.seen (c.reader false), e.covers y = true → e.kind = none := fun y h1 h2 e he hcov =>
    (hnew y h1 h2 e (List.mem_of_mem_filter he) hcov).1
  have hbase : ∀ y, (y < k ∨ k + bs.length ≤ y) →
      baseByte (s.writeRecords k bs).mem s.hostOld c.task y = baseByte s.mem s.hostOld c.task y := fun y hy => by
    simp only [baseByte, hmem y hy]
  obtain ⟨hlo, hhi, hapart⟩ := locationOf_apart hx hold
  rw [readLoc_one hc, readLoc_one hc, hrecord, seen_stored hes,
    locationWrites_append_plain (fun e he => (carries_of_stored hes e he).2.1) (fun e he => ⟨(carries_of_stored hes e he).1.1, (carries_of_stored hes e he).1.2.1⟩)
      hx hold]
  have hvalue : valueAt (baseByte (s.writeRecords k bs).mem s.hostOld c.task) (locationWrites (s.seen (c.reader false)) x) x =
      valueAt (baseByte s.mem s.hostOld c.task) (locationWrites (s.seen (c.reader false)) x) x :=
    valueAt_congr (fun y h1 h2 => hbase y (hapart y h1 h2)) ⟨hlo, hhi⟩
  exact congrArg₂ (fun a b => [if s.isRecordByte x = true then a else b]) (hmem x hx) hvalue

end

/-- Settles O17: the pieces that a store stages are the context's newest writes to its bytes, and bear on no other byte. -/
theorem storedBytesReadBack : Obligations.StoredBytesReadBack := by
  unfold Obligations.StoredBytesReadBack
  intro s t c k a bs hwf hc hrange hplace
  obtain ⟨es, n, m, hes, rfl⟩ := placePlain_eq_some (fun x h1 h2 => (hrange x h1 h2).1) hplace
  have hnew : ∀ x, k ≤ x → x < k + bs.length → Newest s c x := fun x h1 h2 => (hrange x h1 h2).2
  exact ⟨fun x => readLoc_stored_self hes hwf hc hnew, fun x => readLoc_stored_other hes hwf hc hnew, rfl, wf_writeRecords hwf k bs⟩

end Sys2Proof.Claims
end

section
/-! PROOFS. Vector stores: a counterexample. The statement bounds no tile number, and the local memory of a tile 2^20 or more would lie among the plate
slices, whose bytes a store enters into memory at once (R32), under what the context has staged there before. -/

namespace Sys2Proof.Machine

/-- What a read returns depends on memory, staging and the tiles alone. -/
theorem readLoc_congr {s t : State} (hmem : t.mem = s.mem) (hstaged : t.staged = s.staged) (hhost : t.hostOld = s.hostOld) (hseq : t.seq = s.seq)
    (htiles : t.tiles = s.tiles) (c : Ctx) (l : Bool) (k n : Nat) : t.readLoc c l k n = s.readLoc c l k n := by
  simp only [State.readLoc, State.freshRecords, State.readAs, State.image, State.now, State.isRecordByte, State.tile, hmem, hstaged, hhost, hseq, htiles]
  rfl

/-- Completing an unmarked instruction does not change what a read returns. -/
theorem readLoc_finish {d : Done} {c0 : Ctx} {h : Common} (hleft : d.left = false) (hsw : h.sw = false) (c : Ctx) (l : Bool) (k n : Nat) :
    (d.finish c0 h).readLoc c l k n = d.s.readLoc c l k n := by
  simp only [Done.finish, hleft, hsw, Bool.false_eq_true, if_false]
  exact readLoc_congr (by simp) (by simp) (by simp) (by simp) (by simp) c l k n

end Sys2Proof.Machine

namespace Sys2Proof.Claims

open Sys2Proof.Machine

/-- A context of tile 2^20. -/
def farCtx : Ctx := { key := { tile := 2 ^ 20, num := 0 }, task := 1, rank := 0 }

/-- The byte 5 that the context has staged at the start of its local memory, in its current steps. -/
def farWrite : Staged :=
  { key := localKey (2 ^ 20) 0, bytes := [5], kind := none, party := farCtx.party, tile := 2 ^ 20, vis := 0, steps := [0, 0, 0, 0, 0], addr := 0, seq := 0,
    pool := 1, top := 1 }

def farState : State :=
  { State.reset with ctxs := [farCtx], staged := [farWrite], sel := { State.reset.sel with ctx := farCtx.key } }

/-- A store of every lane of v1, which are 0, from address 0 on. -/
def farStore : FormM :=
  { h := { sw := false, pred := 0, inv := false, lane := true }, data := .v 1, base := .s 2, off := 0, slack := 0, mod := 0 }

/-- The byte at the start of local memory, as the context reads it after an outcome. -/
def firstByte : Out → Option (List Byte)
  | .next t => some (t.readLoc farCtx false (localKey (2 ^ 20) 0) 1)
  | _ => none

/-- The elements that the store writes: a zero word for each lane. -/
def farElems : List (Word × List Byte) :=
  ((List.range 64).filter fun i => (BitVec.allOnes 64).getLsbD i).map fun i =>
    (0 + farStore.off.signExtend 64 + BitVec.ofNat 64 (4 * i), bytesOf 4 ((List.replicate 64 0).getD i 0))

theorem issues_farStore : Issues farState farCtx farStore.h [farStore.data, farStore.base] (BitVec.allOnes 64) := ⟨rfl, rfl, rfl⟩

theorem falls_farStore : Falls farState farCtx := fun h => absurd h (by decide)

theorem takes_farElems : ∀ e ∈ farElems, Takes farState farCtx e.1 e.2.length := by
  unfold Takes
  decide +kernel

/-- The entry in staging is a plain write of the context's current steps. -/
theorem newest_farState (k : Nat) : Newest farState farCtx k := fun e he _ => by
  obtain rfl : e = farWrite := List.mem_singleton.mp he
  exact ⟨rfl, fun l _ _ => stepLe_of_steps_eq rfl l⟩

theorem firstByte_farStore : firstByte (exec (.stv farStore) farState) = some [5] := by decide +kernel

/-- The context reads 0 at the start of its local memory after the store, if the statement holds. -/
theorem firstByte_of_stores (h : Stores (.stv farStore) farState farCtx farStore.h farElems) : firstByte (exec (.stv farStore) farState) = some [0] := by
  obtain ⟨t, d, hcomp, -, -, -, -, hread⟩ := h takes_farElems (by decide +kernel)
  have hbyte := (hread rfl rfl fun _ _ _ => newest_farState _).1 0 0 (by decide) (by decide +kernel)
  rw [Completes] at hcomp
  rw [hcomp, firstByte, readLoc_finish rfl rfl]
  exact congrArg some hbyte

/-- Refutes O16: a tile number of 2^20 makes local memory a plate slice, so that the stored byte enters memory under the one staged before it. -/
theorem not_vectorStores : ¬ Obligations.VectorStores := by
  unfold Obligations.VectorStores
  intro h
  obtain ⟨hstv, -, -⟩ := h farStore farState farCtx _ issues_farStore falls_farStore
  have hlocal : ∀ i ∈ (List.range 64).filter fun i => (BitVec.allOnes 64).getLsbD i,
      (0 + farStore.off.signExtend 64 + BitVec.ofNat 64 (4 * i)).toNat < 0x100000 := by decide
  have hzero := firstByte_of_stores (hstv 0 (List.replicate 64 0) (by decide +kernel) (by decide +kernel) (Or.inl hlocal))
  rw [firstByte_farStore] at hzero
  exact absurd hzero (by decide)

end Sys2Proof.Claims
end

section
/-! PROOFS. The decoder on written words, the state after reset, the completion of an instruction (R72, R77, R131, R132, R135). -/

/-- Settles O52, by running the decoder. -/
theorem Sys2Proof.Claims.decodeWords : Obligations.DecodeWords := by
  unfold Obligations.DecodeWords
  decide +kernel

/-- Settles O55: the fields of the state after reset. -/
theorem Sys2Proof.Claims.resetState : Obligations.ResetState := by
  unfold Obligations.ResetState
  decide

namespace Sys2Proof.Machine

/-! ### Replacing a record -/

/-- Of two records of one context, the later one replaces the earlier. -/
theorem setCtx_setCtx (s : State) {c d : Ctx} (h : c.same d = true) : (s.setCtx c).setCtx d = s.setCtx d := by
  simp only [State.setCtx, List.map_map]
  congr 1
  refine List.map_congr_left fun e _ => ?_
  simp only [Ctx.same, Bool.and_eq_true, beq_iff_eq] at h
  have hsame : e.same c = e.same d := by simp only [Ctx.same, h.1, h.2]
  simp only [Function.comp_apply, hsame]
  by_cases he : e.same d = true
  · have hc : c.same d = true := by simp [Ctx.same, h.1, h.2]
    simp only [he, if_true, hc]
  · simp only [if_neg he]

/-! ### Parks -/

/-- A marked instruction's park goes on once nothing is outstanding: the region ends (R132). -/
theorem settle_drain {s : State} {c : Ctx} {p : Word} (hwait : c.wait = .drain p) (hlive : c.live = []) (hbad : c.badToken = none)
    (hfault : c.faulted = none) : s.settle c = s.setCtx { c.endRegion with wait := .none } := by
  simp [State.settle, hwait, hlive, hbad, hfault]

/-- The settling of a record that has just been written, which parks behind a marked instruction. -/
theorem setCtx_settle_drain (s : State) {c : Ctx} {p : Word} (hwait : c.wait = .drain p) (hlive : c.live = []) (hbad : c.badToken = none)
    (hfault : c.faulted = none) : (s.setCtx c).settle c = s.setCtx { c.endRegion with wait := .none } := by
  rw [settle_drain hwait hlive hbad hfault]
  exact setCtx_setCtx s (by simp [Ctx.same, Ctx.endRegion])

/-- It lasts while a result is outstanding (R121). -/
theorem settle_drain_of_live {s : State} {c : Ctx} {p : Word} (hwait : c.wait = .drain p) (hlive : c.live ≠ []) : s.settle c = s := by
  simp [State.settle, hwait, hlive]

theorem endRegion_endRegion (c : Ctx) : c.endRegion.endRegion = c.endRegion := rfl

/-- A context in a marked instruction's park does not issue. -/
theorem ready_of_drain {s : State} {c : Ctx} {p : Word} (hwait : c.wait = .drain p) : s.ready c = false := by simp [State.ready, hwait]

end Sys2Proof.Machine

namespace Sys2Proof.Claims

open Sys2Proof.Machine

/-- Settles O56: by the marker, the region's end and the target; a marker's park settles as nothing, or something, is outstanding. -/
theorem finishOfAnInstruction : Obligations.FinishOfAnInstruction := by
  unfold Obligations.FinishOfAnInstruction
  refine ⟨fun d c0 h hleft hlive hbad hfault => ?_, fun d c0 h hleft hjump hends hsw hlive => ⟨?_, fun s c a hwait => ready_of_drain hwait⟩⟩
  · obtain ⟨s, c, jump, ends, left⟩ := d
    obtain rfl : left = false := hleft
    replace hlive : c.live = [] := hlive
    cases hsw : h.sw
    · cases jump <;> cases ends <;> simp only [Done.finish, hsw] <;> rfl
    · cases jump <;> cases ends <;> simp only [Done.finish, hsw, if_true, Bool.false_eq_true, if_false, or_true, or_self] <;>
        exact setCtx_settle_drain _ rfl hlive hbad hfault
  · obtain ⟨s, c, jump, ends, left⟩ := d
    obtain rfl : left = false := hleft
    obtain rfl : jump = none := hjump
    obtain rfl : ends = false := hends
    simp only [Done.finish, hsw, if_true, Bool.false_eq_true, if_false]
    exact settle_drain_of_live rfl hlive

end Sys2Proof.Claims
end

section
/-! PROOFS. A step at which a tile's port issues a context (R74, R88, R120). -/

namespace Sys2Proof.Machine

/-! ### The word at the program counter -/

/-- An instruction of the opcode map comes to itself where the mode may run it (R88). -/
theorem decodeIssue_of_instr {w : Word} {i : Instr} {b : Bool} (hdec : decode w = .ok i) (hheader : ∀ h, i ≠ .blockHeader h)
    (hdef : ∀ v, i ≠ .undefinedOpcode v) (hpriv : wordPrivileged w = true → b = true) : decodeIssue w b = .run i := by
  have hmode : (wordPrivileged w && !b) = false := by cases hw : wordPrivileged w <;> simp_all
  unfold decodeIssue
  rw [hdec]
  split
  case h_1 v h => exact absurd (Except.ok.inj h) (hdef v)
  case h_2 v h => exact absurd (Except.ok.inj h) (hheader v)
  case h_3 j _ _ h => cases h; simp [hmode]
  case h_4 h => cases h

theorem decodeIssue_of_undefined {w v : Word} {b : Bool} (hdec : decode w = .ok (.undefinedOpcode v)) :
    decodeIssue w b = .run (.undefinedOpcode v) := by
  simp [decodeIssue, hdec]

/-- A word that decodes to a block header is one, and it is well formed (R74). -/
theorem headerAt_of_decode {a w : Word} {h : HeaderWord} (hdec : decode w = .ok (.blockHeader h)) : headerAt a w = .ok h := by
  obtain ⟨hwf, hop, hread⟩ := reads_of_decode hdec
  subst hread
  have hbits : (w.extractLsb' 54 10 == 0x3FF#10) = true := by
    rw [beq_iff_eq]
    exact BitVec.eq_of_toNat_eq hop
  have hheader : (HeaderWord.ofWord w).wf = true := hwf
  simp only [headerAt, requireAt, hbits, hheader]
  rfl

theorem frontWord_of_instr (s : State) {c : Ctx} {w : Word} {i : Instr} (hhead : c.atHeader = false) (hdec : decode w = .ok i)
    (hheader : ∀ h, i ≠ .blockHeader h) (hdef : ∀ v, i ≠ .undefinedOpcode v) (hpriv : wordPrivileged w = true → c.supervisor = true) :
    s.frontWord c w = .run i w := by
  unfold State.frontWord
  rw [hhead, decodeIssue_of_instr hdec hheader hdef hpriv]
  simp only [Bool.false_eq_true, if_false]

theorem frontWord_of_undefined (s : State) {c : Ctx} {w v : Word} (hhead : c.atHeader = false) (hdec : decode w = .ok (.undefinedOpcode v)) :
    s.frontWord c w = .done ((s.forwardRefused c w).dueFault c { code := fcILLEGAL }) := by
  simp [State.frontWord, hhead, decodeIssue_of_undefined hdec]

theorem frontWord_of_header (s : State) {c : Ctx} {w : Word} {h : HeaderWord} (hhead : c.atHeader = true)
    (hdec : decode w = .ok (.blockHeader h)) : s.frontWord c w = .run (.blockHeader h) w := by
  simp [State.frontWord, hhead, headerAt_of_decode hdec]

/-! ### The front of an issue -/

theorem fetchAt_of_buffered {s : State} {c : Ctx} {a w : Word} (h : s.buffered c a = some w) : s.fetchAt c a = .ok w := by
  simp [State.fetchAt, h]

/-- A context that is no follower issues the word that its tile's buffer holds. -/
theorem front_of_buffered {s : State} {k : CtxKey} {c : Ctx} {w : Word} (hctx : s.ctx? k = some c) (hfollow : c.follower = false)
    (hword : s.buffered c c.pc = some w) : s.front k = s.withLines c (s.frontWord c w) := by
  simp [State.front, hctx, hfollow, fetchAt_of_buffered hword]

theorem withLines_of_lines (s : State) {c : Ctx} {i : Instr} (w : Word) (h : c.want.isSome = true ∨ c.missing (touchedBy i c) = []) :
    s.withLines c (.run i w) = .run i w := by
  rcases h with h | h <;> simp [State.withLines, h]

/-! ### The step -/

/-- A step with power at which nothing is due by the clock does what has been picked. -/
theorem step_of_pick {s : State} {a : Action} (hon : s.off = false) (hclock : s.clocked = none) (hpick : pickAction s.free s.actions = some a) :
    step s = s.act a := by
  simp [step, hon, State.stepOn, hclock, hpick]

theorem stepIssue_of_run {s : State} {k : CtxKey} {c : Ctx} {i : Instr} {w : Word} (hctx : s.ctx? k = some c) (hevent : c.deliverable = false)
    (hfront : s.front k = .run i w) : stepIssue s k = mapNext (exec i { s with sel := selCtx k }) (afterIssue k c i w) := by
  simp [stepIssue, hctx, hfront, runIssue, hevent]

theorem stepIssue_of_done {s t : State} {k : CtxKey} {c : Ctx} (hctx : s.ctx? k = some c) (hfront : s.front k = .done t) :
    stepIssue s k = .next t.advance := by
  simp [stepIssue, hctx, hfront]

end Sys2Proof.Machine

namespace Sys2Proof.Claims

open Sys2Proof.Machine

/-- Settles O53: by what the word at the pc comes to. -/
theorem stepRunsTheDecodedInstruction : Obligations.StepRunsTheDecodedInstruction := by
  intro s k c w hon hclock hpick hctx hfollow hevent hword
  have hfront := front_of_buffered hctx hfollow hword
  have hstep : step s = stepIssue s k := step_of_pick hon hclock hpick
  refine ⟨fun hhead i hdec hheader hdef hpriv hlines => ?_, fun hhead v hdec => ?_, fun hhead h hdec hlines => ?_⟩
  · rw [frontWord_of_instr s hhead hdec hheader hdef hpriv, withLines_of_lines s w hlines] at hfront
    rw [hstep, stepIssue_of_run hctx hevent hfront]
  · rw [frontWord_of_undefined s hhead hdec] at hfront
    rw [hstep, stepIssue_of_done hctx hfront]
  · rw [frontWord_of_header s hhead hdec, withLines_of_lines s w hlines] at hfront
    rw [hstep, stepIssue_of_run hctx hevent hfront]

end Sys2Proof.Claims
end

section
/-! PROOFS. What the register writes leave in the register file (R77, R131, R133 to R136). -/

namespace Sys2Proof.Machine

/-! ### Cells -/

/-- Write single bytes of a memory, in the order of a list. -/
def putAll (m : Mem) (cells : List (Nat × Byte)) : Mem := cells.foldl (fun m x => m.set x.1 x.2) m

theorem putCells_rf (c : Ctx) (cells : List (Nat × Byte)) : (c.putCells cells).rf = putAll c.rf cells := rfl

theorem putAll_append (m : Mem) (l r : List (Nat × Byte)) : putAll m (l ++ r) = putAll (putAll m l) r := List.foldl_append

theorem wf_putAll {m : Mem} (w : m.wf = true) (l : List (Nat × Byte)) : (putAll m l).wf = true := Mem.wf_foldl_set _ _ l w

/-- Consecutive cells are written as a write of several bytes. -/
theorem putAll_cellsAt (m : Mem) (a : Nat) (bs : List Byte) : putAll m (cellsAt a bs) = m.write a bs := foldl_cellsAt bs m a

/-- Cells leave every byte alone that they do not name. -/
theorem get_putAll_other {l : List (Nat × Byte)} {y : Nat} (h : ∀ x ∈ l, x.1 ≠ y) {m : Mem} (w : m.wf = true) : (putAll m l).get y = m.get y := by
  induction l generalizing m with
  | nil => rfl
  | cons x r ih =>
    refine (ih (fun z hz => h z (List.mem_cons_of_mem _ hz)) (Mem.wf_set w x.1 x.2)).trans ?_
    rw [Mem.get_set w, if_neg (h x List.mem_cons_self).symm]

theorem mem_cellsAt {a : Nat} {bs : List Byte} {x : Nat × Byte} (h : x ∈ cellsAt a bs) : a ≤ x.1 ∧ x.1 < a + bs.length := by
  induction bs generalizing a with
  | nil => cases h
  | cons b r ih =>
    rcases List.mem_cons.1 h with rfl | h
    · exact ⟨Nat.le_refl a, by simp⟩
    · have := ih h
      exact ⟨by omega, by simp; omega⟩

/-! ### Elements one behind the other -/

/-- The cells of elements of k bytes, each at its place behind a. -/
def elemCells (a k : Nat) (xs : List (Nat × Nat)) : List (Nat × Byte) := xs.flatMap fun x => cellsAt (a + x.2 * k) (bytesOf k x.1)

theorem enabledCells_eq (a w : Nat) (g : Word) (xs : List Nat) :
    enabledCells a w g xs = elemCells a (w / 8) (xs.zipIdx.filter fun x => g.getLsbD (x.2 / (32 / w))) := rfl

theorem putAll_elemCells_cons (m : Mem) (a k : Nat) (x : Nat × Nat) (r : List (Nat × Nat)) :
    putAll m (elemCells a k (x :: r)) = putAll (m.write (a + x.2 * k) (bytesOf k x.1)) (elemCells a k r) := by
  rw [elemCells, List.flatMap_cons, putAll_append, putAll_cellsAt]
  rfl

/-- Two places of elements of k bytes do not overlap. -/
theorem places_apart {e f k : Nat} (h : e ≠ f) : e * k + k ≤ f * k ∨ f * k + k ≤ e * k := by
  rcases Nat.lt_or_gt_of_ne h with h | h
  · exact .inl (by rw [← Nat.succ_mul]; exact Nat.mul_le_mul_right k h)
  · exact .inr (by rw [← Nat.succ_mul]; exact Nat.mul_le_mul_right k h)

theorem num_write_other {m : Mem} (w : m.wf = true) {a x n k v : Nat} (h : x + n ≤ a ∨ a + k ≤ x) :
    (m.write a (bytesOf k v)).num x n = m.num x n := by
  rw [Mem.num, Mem.read_write_other w (by rw [bytesOf_length]; exact h), Mem.num]

/-- An element whose place is not among those written keeps its value. -/
theorem num_elemCells_other (a k e : Nat) {xs : List (Nat × Nat)} (h : ∀ x ∈ xs, x.2 ≠ e) {m : Mem} (w : m.wf = true) :
    (putAll m (elemCells a k xs)).num (a + e * k) k = m.num (a + e * k) k := by
  induction xs generalizing m with
  | nil => rfl
  | cons x r ih =>
    rw [putAll_elemCells_cons, ih (fun z hz => h z (List.mem_cons_of_mem _ hz)) (Mem.wf_write _ w _)]
    exact num_write_other w (by have := places_apart (k := k) (h x List.mem_cons_self); omega)

/-- An element that is written once has its value afterwards. -/
theorem num_elemCells_mem (a k : Nat) {v e : Nat} {xs : List (Nat × Nat)} (hmem : (v, e) ∈ xs) (hapart : xs.Pairwise fun x y => x.2 ≠ y.2)
    {m : Mem} (w : m.wf = true) : (putAll m (elemCells a k xs)).num (a + e * k) k = v % 256 ^ k := by
  induction xs generalizing m with
  | nil => cases hmem
  | cons x r ih =>
    have hw := Mem.wf_write (bytesOf k x.1) w (a + x.2 * k)
    obtain ⟨hhead, htail⟩ := List.pairwise_cons.1 hapart
    rw [putAll_elemCells_cons]
    rcases List.mem_cons.1 hmem with rfl | hmem
    · rw [num_elemCells_other a k e (fun z hz => (hhead z hz).symm) hw, Mem.num_write_bytesOf w]
    · exact ih hmem htail hw

theorem get_elemCells_other (a k n : Nat) {xs : List (Nat × Nat)} (h : ∀ x ∈ xs, x.2 * k + k ≤ n) {m : Mem} (w : m.wf = true) {y : Nat}
    (hy : y < a ∨ a + n ≤ y) : (putAll m (elemCells a k xs)).get y = m.get y := by
  refine get_putAll_other (fun z hz => ?_) w
  obtain ⟨x, hx, hz⟩ := List.mem_flatMap.1 hz
  have hz := mem_cellsAt hz
  rw [bytesOf_length] at hz
  have := h x hx
  omega

/-! ### The enabled elements -/

/-- The elements that a guard enables, with their places. -/
def enabledPlaces (w : Nat) (g : Word) (xs : List Nat) : List (Nat × Nat) := xs.zipIdx.filter fun x => g.getLsbD (x.2 / (32 / w))

theorem mem_enabledPlaces {w : Nat} {g : Word} {xs : List Nat} {x : Nat × Nat} :
    x ∈ enabledPlaces w g xs ↔ xs[x.2]? = some x.1 ∧ g.getLsbD (x.2 / (32 / w)) = true := by
  rw [enabledPlaces, List.mem_filter, List.mem_zipIdx_iff_getElem?]

theorem pairwise_enabledPlaces (w : Nat) (g : Word) (xs : List Nat) : (enabledPlaces w g xs).Pairwise fun x y => x.2 ≠ y.2 := by
  refine List.Pairwise.filter _ ?_
  have h : (xs.zipIdx.map fun x => x.2).Nodup := by
    rw [show (fun x : Nat × Nat => x.2) = Prod.snd from rfl, List.zipIdx_map_snd]
    exact List.nodup_range'
  exact List.pairwise_map.1 h

/-- What a lane result leaves at the place of each element: the enabled ones are written, the others stay. -/
theorem num_enabledCells {m : Mem} (w : m.wf = true) (a n : Nat) (g : Word) {xs : List Nat} {e : Nat} (he : e < xs.length)
    (hlt : xs[e] < 256 ^ (n / 8)) :
    (putAll m (enabledCells a n g xs)).num (a + e * (n / 8)) (n / 8) =
      if g.getLsbD (e / (32 / n)) then xs[e] else m.num (a + e * (n / 8)) (n / 8) := by
  rw [enabledCells_eq, ← enabledPlaces]
  have hget : xs[e]? = some xs[e] := List.getElem?_eq_getElem he
  by_cases hg : g.getLsbD (e / (32 / n)) = true
  · rw [if_pos hg, num_elemCells_mem a _ (mem_enabledPlaces.2 ⟨hget, hg⟩) (pairwise_enabledPlaces n g xs) w, Nat.mod_eq_of_lt hlt]
  · rw [if_neg hg]
    refine num_elemCells_other a _ e (fun x hx heq => hg ?_) w
    rw [← heq]
    exact (mem_enabledPlaces.1 hx).2

/-- A lane result of elements of n bits leaves alone what lies outside their 256 bytes. -/
theorem get_enabledCells_other {m : Mem} (w : m.wf = true) (a n len : Nat) (g : Word) {xs : List Nat} (hlen : xs.length * (n / 8) = len) {y : Nat}
    (hy : y < a ∨ a + len ≤ y) : (putAll m (enabledCells a n g xs)).get y = m.get y := by
  rw [enabledCells_eq, ← enabledPlaces]
  refine get_elemCells_other a _ len (fun x hx => ?_) w hy
  have hlt := (List.getElem?_eq_some_iff.1 (mem_enabledPlaces.1 hx).1).1
  rw [← hlen, ← Nat.succ_mul]
  exact Nat.mul_le_mul_right _ hlt

/-! ### The writing operations -/

theorem writeVal_of_loc {o : Operand} (ho : o ≠ .p 0) (s : State) {c : Ctx} {a : Nat} (hloc : c.loc o = some a) (x : Word) :
    writeVal s c o x = (do
      let d ← writeRf s c a 8 (cellsAt a (bytesOf 8 x.toNat))
      return d.setLatch a 8) := by
  unfold writeVal
  split
  · exact absurd rfl ho
  · rw [hloc]

theorem writeElems_of_loc (s : State) {c : Ctx} {o : Operand} {a : Nat} (hloc : c.loc o = some a) (n : Nat) (g : Word) (xs : List Nat) :
    writeElems s c o n g xs = (do
      let d ← writeRf s c a 256 (enabledCells a n g xs)
      return d.setLatch a 256) := by
  rw [writeElems, hloc]

/-- A mask for all lanes, or one whose old value is there, is written as a value. -/
theorem writeMask_of_there {o : Operand} (ho : o ≠ .p 0) (s : State) {c : Ctx} {a : Nat} (hloc : c.loc o = some a) {g : Word} (m : Word)
    (hthere : c.awaits a 8 = false ∨ g = BitVec.allOnes 64) :
    writeMask s c o g m = writeVal s c o ((m &&& g) ||| (BitVec.ofNat 64 (c.rf.num a 8) &&& ~~~g)) := by
  have hno : (c.awaits a 8 && g != BitVec.allOnes 64) = false := by
    rcases hthere with h | h <;> simp [h]
  unfold writeMask
  split
  · exact absurd rfl ho
  · rw [hloc]
    simp only [hno, Bool.false_eq_true, if_false]

end Sys2Proof.Machine

namespace Sys2Proof.Claims

open Sys2Proof.Machine

theorem writeVal_of_free {s : State} {c : Ctx} {o : Operand} {a : Nat} (hloc : c.loc o = some a) (hfree : Free s c a 8) (x : Word) :
    ∃ d, writeVal s c o x = .ok d := by
  by_cases ho : o = .p 0
  · exact ⟨_, by rw [ho]; rfl⟩
  · rw [writeVal_of_loc ho s hloc, writeRf_ok hfree.1 hfree.2]
    exact ⟨_, rfl⟩

/-- The sizes of a lane result: its elements fill 256 bytes, and their places and lanes go with their width. -/
theorem sizes_of_width {n : Nat} (hn : n ∈ [8, 16, 32]) : 2048 / n * (n / 8) = 256 ∧ 2 ^ n = 256 ^ (n / 8) ∧ ∀ e, e / (32 / n) = e * n / 32 := by
  fin_cases hn
  · exact ⟨rfl, rfl, fun e => by omega⟩
  · exact ⟨rfl, rfl, fun e => by omega⟩
  · exact ⟨rfl, rfl, fun e => by omega⟩

/-- Settles O58: by the cells of the writing operations. -/
theorem registerWrites : Obligations.RegisterWrites := by
  refine ⟨fun s c d o x a hwf hloc ho h => ?_, fun s c d x h => (Except.ok.inj h).symm, fun s c d o n g xs a hwf hloc hn hlen hlt h => ?_,
    fun s c o a hloc => ⟨fun x hfree => writeVal_of_free hloc hfree x, fun n g xs hfree => ?_, fun g m hfree hthere => ?_⟩⟩
  · have hrf : d.rf = c.rf.write a (bytesOf 8 x.toNat) := by
      rw [(writeVal_eq_ok ho hloc h).2.2, Ctx.setLatch_rf]
      exact putCells_cellsAt_rf c a _
    have hx : x.toNat % 256 ^ 8 = x.toNat := Nat.mod_eq_of_lt x.isLt
    refine ⟨by rw [hrf, Mem.num_write_bytesOf hwf, hx], fun y hy => ?_, by rw [hrf]; exact Mem.wf_write _ hwf a, ?_⟩
    · rw [hrf, Mem.get_write_other hwf (by rw [bytesOf_length]; exact hy)]
    · rw [(writeVal_eq_ok ho hloc h).2.2, Ctx.setLatch_pending]
  · obtain ⟨hfill, hpow, hlane⟩ := sizes_of_width hn
    have hrf : d.rf = putAll c.rf (enabledCells a n g xs) := by
      rw [(writeElems_eq_ok hloc h).2.2, Ctx.setLatch_rf]
      exact putCells_rf c _
    refine ⟨fun e he => ?_, fun y hy => ?_, by rw [hrf]; exact wf_putAll hwf _⟩
    · have hin : e < xs.length := hlen ▸ he
      have hget : xs.getD e 0 = xs[e] := by simp [hin]
      have hval : xs[e] < 256 ^ (n / 8) := hpow ▸ hlt _ (List.getElem_mem hin)
      rw [hrf, num_enabledCells hwf a n g hin hval, hlane, hget]
    · rw [hrf, get_enabledCells_other hwf a n 256 g (by rw [hlen, hfill]) hy]
  · rw [writeElems_of_loc s hloc, writeRf_ok hfree.1 hfree.2]
    exact ⟨_, rfl⟩
  · by_cases ho : o = .p 0
    · exact ⟨_, by rw [ho]; rfl, fun hne => absurd ho hne⟩
    · obtain ⟨d, hd⟩ := writeVal_of_free hloc hfree ((m &&& g) ||| (BitVec.ofNat 64 (c.rf.num a 8) &&& ~~~g))
      exact ⟨d, (writeMask_of_there ho s hloc m hthere).trans hd, fun _ => hd⟩

end Sys2Proof.Claims
end

section
/-! PROOFS. An instruction whose uniform guard fails (R131, R136). -/

namespace Sys2Proof.Claims

open Sys2Proof.Machine

section
variable {s : State} {c : Ctx} {h : Common} {g : Word} (h0 : g.getLsbD 0 = false) (hfall : Falls s c)
include h0 hfall

/-- A uniform instruction whose guard fails leaves the machine, and the latch with the destination's value. -/
theorem completes_of_failed {i : Instr} {dst : Operand} {ops : List Operand} {priv : Bool} {body : State → Ctx → Try Done}
    (hexec : exec i s = runUniform s h priv (some dst) ops body) (hpriv : priv = true → c.supervisor = true) (hI : Issues s c h ops g) :
    Completes i s c h s (latchUnchanged c false dst) :=
  hexec.trans (runUniform_skip hI.1 hpriv hI.2.1 hI.2.2 h0 hfall)

/-- As completes_of_failed, for an instruction without a destination. -/
theorem completes_of_failed_none {i : Instr} {ops : List Operand} {body : State → Ctx → Try Done}
    (hexec : exec i s = runUniform s h false none ops body) (hI : Issues s c h ops g) : Completes i s c h s c.clearLatch :=
  hexec.trans (runUniform_skip hI.1 (by simp) hI.2.1 hI.2.2 h0 hfall)

variable {i : Instr} {w : FormA} {srcs : List Operand} (hI : Issues s c w.h srcs g)
include hI

theorem completes_of_failed_value {f : State → Ctx → Try (Word × Nat)} (hexec : exec i s = runValue s w.h w.dst srcs f) :
    Completes i s c w.h s (latchUnchanged c false w.dst) :=
  completes_of_failed h0 hfall hexec (by simp) hI

theorem completes_of_failed_mask {f : Word → Word → Word} (hexec : exec i s = runMask s w srcs f) :
    Completes i s c w.h s (latchUnchanged c false w.dst) :=
  completes_of_failed_value h0 hfall hI hexec

variable (hu : w.h.lane = false)
include hu

/-- The integer instructions in uniform class (R150). -/
theorem completes_of_failed_int {zero : Bool} {op : Nat → List Nat → Nat × Nat} (hexec : exec i s = runInt s w srcs zero op) :
    Completes i s c w.h s (latchUnchanged c false w.dst) := by
  rw [runInt, runElems, if_neg (by simp [hu])] at hexec
  exact completes_of_failed_value h0 hfall hI hexec

theorem completes_of_failed_exact {op : Int → Int → Int → Int} (hexec : exec i s = runExact s w srcs op) :
    Completes i s c w.h s (latchUnchanged c false w.dst) :=
  completes_of_failed_int h0 hfall hI hu hexec

theorem completes_of_failed_bits {zero : Bool} {op : Nat → Nat → Nat → Nat → Nat} (hexec : exec i s = runBits s w srcs zero op) :
    Completes i s c w.h s (latchUnchanged c false w.dst) :=
  completes_of_failed_int h0 hfall hI hu hexec

/-- The floating-point instructions without rounding, in uniform class (R170). -/
theorem completes_of_failed_noRound {op : Fmt → List Nat → Nat × Nat} (hexec : exec i s = runNoRound s w srcs op) :
    Completes i s c w.h s (latchUnchanged c false w.dst) := by
  rw [runNoRound, runFlt, if_neg (by simp [hu])] at hexec
  exact completes_of_failed h0 hfall hexec (by simp) hI

end

section
variable {s : State} {c : Ctx} {w : FormM} {g : Word} (h0 : g.getLsbD 0 = false) (hfall : Falls s c)
include h0 hfall

theorem completes_of_failed_store {i : Instr} {n : Nat} (hI : Issues s c w.h [w.data, w.base] g) (hexec : exec i s = runStore s w n) :
    Completes i s c w.h s c.clearLatch :=
  completes_of_failed_none h0 hfall hexec hI

theorem completes_of_failed_xstore {i : Instr} {n : Nat} {code : Option Nat} (hI : Issues s c w.h [w.data, w.base] g)
    (hexec : exec i s = runXstore s w n code) : Completes i s c w.h s c.clearLatch :=
  completes_of_failed_none h0 hfall hexec hI

theorem completes_of_failed_load {i : Instr} {n : Nat} {zext : Bool} (hI : Issues s c w.h [w.base] g) (hexec : exec i s = runLoad s w n zext) :
    Completes i s c w.h s (latchUnchanged c false w.data) :=
  completes_of_failed h0 hfall hexec (by simp) hI

theorem completes_xldd_of_failed (hI : Issues s c w.h [w.base] g) : Completes (.xldd w) s c w.h s (latchUnchanged c false w.data) := by
  rw [Completes, exec_xldd, execXldd]
  exact runUniform_skip hI.1 (by simp) hI.2.1 hI.2.2 h0 hfall

end

/-- Settles O59: by the skipping of a uniform instruction. -/
theorem failedGuards : Obligations.FailedGuards := by
  refine ⟨fun w s c g hu h0 hfall => ⟨fun hI => ?_, fun hI => ?_⟩, fun w s c g h0 hfall => ⟨fun hI => ?_, fun hI => ?_⟩⟩ <;> simp only [List.forall_mem_cons]
  · exact ⟨fun _ => completes_of_failed_exact h0 hfall hI hu (exec_add w s),
      fun _ => completes_of_failed_exact h0 hfall hI hu (exec_sub w s),
      fun _ => completes_of_failed_exact h0 hfall hI hu (exec_mul w s),
      fun _ => completes_of_failed_bits h0 hfall hI hu (exec_and w s),
      fun _ => completes_of_failed_bits h0 hfall hI hu (exec_or w s),
      fun _ => completes_of_failed_bits h0 hfall hI hu (exec_xor w s),
      fun _ => completes_of_failed_bits h0 hfall hI hu (exec_min w s),
      fun _ => completes_of_failed_bits h0 hfall hI hu (exec_max w s),
      fun _ => completes_of_failed_int h0 hfall hI hu (exec_div w s),
      fun _ => completes_of_failed_int h0 hfall hI hu (exec_rem w s),
      fun _ => completes_of_failed_noRound h0 hfall hI hu (exec_fmin w s),
      fun _ => completes_of_failed_mask h0 hfall hI (exec_pand w s),
      fun _ => completes_of_failed_mask h0 hfall hI (exec_por w s), by simp⟩
  · exact ⟨fun _ => completes_of_failed_bits h0 hfall hI hu (exec_mov w s),
      fun _ => completes_of_failed_bits h0 hfall hI hu (exec_popc w s),
      fun _ => completes_of_failed_mask h0 hfall hI (exec_pmov w s),
      fun _ => completes_of_failed_mask h0 hfall hI (exec_pcnt w s), by simp⟩
  · exact ⟨completes_of_failed_store h0 hfall hI (exec_stb w s),
      completes_of_failed_store h0 hfall hI (exec_sth w s),
      completes_of_failed_store h0 hfall hI (exec_stw w s),
      completes_of_failed_store h0 hfall hI (exec_std w s),
      completes_of_failed_xstore h0 hfall hI (exec_xstd w s),
      completes_of_failed_xstore h0 hfall hI (exec_xred w s), by simp⟩
  · exact ⟨completes_of_failed_load h0 hfall hI (exec_ldb w s),
      completes_of_failed_load h0 hfall hI (exec_ldh w s),
      completes_of_failed_load h0 hfall hI (exec_ldw w s),
      completes_of_failed_load h0 hfall hI (exec_ldd w s),
      completes_xldd_of_failed h0 hfall hI, by simp⟩

end Sys2Proof.Claims
end

section
/-! PROOFS. Taking a precise fault (R195 to R197, R201, R205, R207). -/

namespace Sys2Proof.Machine

/-! ### The fields of FAULTINFO -/

section
variable (t : Trap)

theorem Trap.toNat_info : t.info.toNat =
    t.detail % 2 ^ 32 * 2 ^ 32 + t.element % 256 * 65536 + t.channel % 16 * 4096 + b2n t.inflight * 2048 + t.code % 256 := by
  have hflag : b2n t.inflight ≤ 1 := by cases t.inflight <;> decide
  rw [Trap.info, BitVec.toNat_ofNat, Nat.mod_eq_of_lt]
  omega

theorem Trap.info_code : t.info.toNat % 256 = t.code % 256 := by
  rw [t.toNat_info]
  omega

theorem Trap.info_inflight : t.info.getLsbD 11 = t.inflight := by
  rw [BitVec.getLsbD, t.toNat_info, Nat.testBit_eq_decide_div_mod_eq]
  cases t.inflight <;> simp only [b2n, Bool.false_eq_true, if_false, if_true, decide_eq_true_eq, decide_eq_false_iff_not] <;> omega

theorem Trap.info_channel : bitsOf t.info.toNat 15 12 = t.channel % 16 := by
  have hflag : b2n t.inflight ≤ 1 := by cases t.inflight <;> decide
  rw [bitsOf, t.toNat_info]
  omega

theorem Trap.info_element : bitsOf t.info.toNat 23 16 = t.element % 256 := by
  have hflag : b2n t.inflight ≤ 1 := by cases t.inflight <;> decide
  rw [bitsOf, t.toNat_info]
  omega

theorem Trap.info_detail : bitsOf t.info.toNat 63 32 = t.detail % 2 ^ 32 := by
  have hflag : b2n t.inflight ≤ 1 := by cases t.inflight <;> decide
  rw [bitsOf, t.toNat_info]
  omega

end

/-! ### The record of a task's rank -/

/-- A change of the records that keeps tasks and ranks changes the record found. -/
theorem find?_member_map {l : List Ctx} {f : Ctx → Ctx} (hf : ∀ d, (f d).task = d.task ∧ (f d).rank = d.rank) (task rank : Nat) :
    (l.map f).find? (fun c => c.task == task && c.rank == rank) = (l.find? fun c => c.task == task && c.rank == rank).map f := by
  rw [List.find?_map]
  congr 2
  funext d
  simp only [Function.comp_apply, (hf d).1, (hf d).2]

theorem member?_setCtx {s : State} {c d : Ctx} {task rank : Nat} (hm : s.member? task rank = some c) (htask : d.task = c.task) (hrank : d.rank = c.rank) :
    (s.setCtx d).member? task rank = some d := by
  have hsame : c.same d = true := by simp [Ctx.same, htask, hrank]
  refine (find?_member_map (fun e => ?_) task rank).trans ?_
  · by_cases h : e.same d = true
    · simp only [h, if_true]
      simp only [Ctx.same, Bool.and_eq_true, beq_iff_eq] at h
      exact ⟨h.1.symm, h.2.symm⟩
    · simp [h]
  · rw [show s.ctxs.find? (fun c => c.task == task && c.rank == rank) = some c from hm, Option.map_some, if_pos hsame]

/-! ### The entry of a handler, and what becomes held -/

/-- A handler's entry goes to the followers, and changes no other record. -/
theorem member?_forwardEntry {s : State} {d : Ctx} (c : Ctx) (e : UEvent) {task rank : Nat} (hm : s.member? task rank = some d)
    (hown : d.follower = false) : (s.forwardEntry c e).member? task rank = some d := by
  unfold State.forwardEntry
  split
  · refine (find?_member_map (fun x => ?_) task rank).trans ?_
    · split <;> exact ⟨rfl, rfl⟩
    · rw [show s.ctxs.find? (fun c => c.task == task && c.rank == rank) = some d from hm, Option.map_some, if_neg (by simp [hown])]
  · exact hm

@[simp] theorem State.forwardEntry_mem (s : State) (c : Ctx) (e : UEvent) : (s.forwardEntry c e).mem = s.mem := by
  unfold State.forwardEntry; split <;> rfl

@[simp] theorem State.forwardEntry_staged (s : State) (c : Ctx) (e : UEvent) : (s.forwardEntry c e).staged = s.staged := by
  unfold State.forwardEntry; split <;> rfl

@[simp] theorem State.forwardEntry_sfqWait (s : State) (c : Ctx) (e : UEvent) : (s.forwardEntry c e).sfqWait = s.sfqWait := by
  unfold State.forwardEntry; split <;> rfl

/-- Work that becomes held changes a tile's channels, or the commands of an engine. -/
theorem holdWork_eq (s : State) (c : Ctx) (w : Option WorkRef) :
    (∃ t, s.holdWork c w = s.setTile t) ∨ (∃ bd fab, s.holdWork c w = { s with bd := bd, fab := fab }) := by
  rcases w with _ | n | i | i | i
  · exact .inr ⟨s.bd, s.fab, rfl⟩
  · exact .inl ⟨_, rfl⟩
  · exact .inr ⟨_, s.fab, rfl⟩
  · exact .inr ⟨s.bd, _, rfl⟩
  · exact .inr ⟨s.bd, _, rfl⟩

section
variable (s : State) (c : Ctx) (w : Option WorkRef)

@[simp] theorem State.holdWork_mem : (s.holdWork c w).mem = s.mem := by
  obtain ⟨t, h⟩ | ⟨bd, fab, h⟩ := holdWork_eq s c w <;> simp [h]

@[simp] theorem State.holdWork_staged : (s.holdWork c w).staged = s.staged := by
  obtain ⟨t, h⟩ | ⟨bd, fab, h⟩ := holdWork_eq s c w <;> simp [h]

@[simp] theorem State.holdWork_ctxs : (s.holdWork c w).ctxs = s.ctxs := by
  obtain ⟨t, h⟩ | ⟨bd, fab, h⟩ := holdWork_eq s c w <;> simp [h]

@[simp] theorem State.holdWork_tasks : (s.holdWork c w).tasks = s.tasks := by
  obtain ⟨t, h⟩ | ⟨bd, fab, h⟩ := holdWork_eq s c w <;> simp [h]

@[simp] theorem State.holdWork_cycle : (s.holdWork c w).cycle = s.cycle := by
  obtain ⟨t, h⟩ | ⟨bd, fab, h⟩ := holdWork_eq s c w <;> simp [h]

@[simp] theorem State.holdWork_sfqWait : (s.holdWork c w).sfqWait = s.sfqWait := by
  obtain ⟨t, h⟩ | ⟨bd, fab, h⟩ := holdWork_eq s c w <;> simp [h]

end

/-- A fault's record is queued for the supervisor (R207). -/
theorem postFault_sfqWait (s : State) (c : Ctx) : (s.postFault c).sfqWait = s.sfqWait ++
    [{ id := s.seq, bytes := sfqBytes s.cycle c.faultaddr c.faultpc c.faultinfo (s.tidOf c.task) c.rank c.key.tile c.key.num 1 0, ctx := some c.key }] := rfl

/-! ### Taking the fault -/

/-- The record of a context that takes a fault: its region has ended, and the fault's words are written (R195, R196). -/
def Ctx.faulting (c : Ctx) (t : Trap) : Ctx :=
  { c.endRegion.holdAt (c.restart t) with faultinfo := t.info, faultpc := c.restart t, faultaddr := t.addr }

/-- The event of a delegated fault (R201). -/
def Trap.event (t : Trap) : UEvent := { kind := 6, src := t.code, payload := t.addr }

/-- The record of a context that parks with its fault (R197): behind a TRAP, at its next word. -/
def Ctx.parked (c : Ctx) (t : Trap) : Ctx :=
  let d := c.faulting t
  let e := if t.nextPc then { d with pc := c.restart t, atHeader := (c.saveAt (c.restart t) t.nextPc).atHeader,
                                     fwd := if d.follower then d.fwd.drop 1 else d.fwd } else d
  { e with faulted := some t.code, want := none, wait := .none }

section
variable (c : Ctx) (t : Trap)

theorem parked_identity : (c.parked t).key = c.key ∧ (c.parked t).task = c.task ∧ (c.parked t).rank = c.rank := by
  unfold Ctx.parked
  split <;> exact ⟨rfl, rfl, rfl⟩

theorem parked_fault : (c.parked t).faultaddr = t.addr ∧ (c.parked t).faultpc = c.restart t ∧ (c.parked t).faultinfo = t.info := by
  unfold Ctx.parked
  split <;> exact ⟨rfl, rfl, rfl⟩

/-- The region has ended, and the latch and the registers stay (R132, R197). -/
theorem parked_region : (c.parked t).pending = [] ∧ (c.parked t).winStores = [] ∧ (c.parked t).latch = c.latch ∧ (c.parked t).rf = c.endRegion.rf := by
  unfold Ctx.parked
  split <;> exact ⟨rfl, rfl, rfl, rfl⟩

end

theorem endRegion_rf_wf {c : Ctx} (hwf : c.rf.wf = true) : c.endRegion.rf.wf = true :=
  wf_foldl (fun m (w : Nat × List Byte) => m.write w.1 w.2) (fun _ x hm => Mem.wf_write x.2 hm x.1) c.winStores hwf

/-- A fault that is delegated enters the handler (R201, R205). -/
theorem takeFault_of_delegated (s : State) {c : Ctx} {t : Trap} (hdel : c.delegates t.code = true) :
    s.takeFault c t = (((s.forgetWalks c.key).holdWork (c.faulting t) t.work).setCtx
      ((c.faulting t).enterHandler t.event (c.saveAt (c.restart t) t.nextPc) c.ulevec)).forwardEntry (c.faulting t) t.event :=
  if_pos hdel

/-- Any other parks the context, with a record for the supervisor (R197, R207). -/
theorem takeFault_of_not_delegated (s : State) {c : Ctx} {t : Trap} (hdel : c.delegates t.code = false) (hwait : c.wait = .none) :
    s.takeFault c t = (((s.forgetWalks c.key).holdWork (c.faulting t) t.work).setCtx (c.parked t)).postFault (c.parked t) := by
  have hdel' : ¬((c.faulting t).delegates t.code = true) := by rw [Bool.not_eq_true]; exact hdel
  refine (if_neg hdel').trans ?_
  cases hn : t.nextPc <;> simp only [Ctx.parked, hn, Bool.false_eq_true, if_false, if_true] <;>
    simp only [Ctx.faulting, Ctx.holdAt, Ctx.endRegion, hwait]

/-! ### The handler's bank -/

theorem Mem.write_append (m : Mem) (a : Nat) (bs cs : List Byte) : m.write a (bs ++ cs) = (m.write a bs).write (a + bs.length) cs := by
  induction bs generalizing m a with
  | nil => rfl
  | cons b r ih => rw [List.cons_append, Mem.write, Mem.write, ih, List.length_cons, Nat.add_assoc, Nat.add_comm 1]

section
variable {m : Mem} (w : m.wf = true) (a x y z : Nat)
include w

/-- Three words of eight bytes, one behind the other, read back. -/
theorem num_write_three : (m.write a (bytesOf 8 x ++ bytesOf 8 y ++ bytesOf 8 z)).num a 8 = x % 256 ^ 8 ∧
    (m.write a (bytesOf 8 x ++ bytesOf 8 y ++ bytesOf 8 z)).num (a + 8) 8 = y % 256 ^ 8 ∧
    (m.write a (bytesOf 8 x ++ bytesOf 8 y ++ bytesOf 8 z)).num (a + 16) 8 = z % 256 ^ 8 := by
  have hx := Mem.wf_write (bytesOf 8 x) w a
  have hy := Mem.wf_write (bytesOf 8 y) hx (a + 8)
  simp only [Mem.write_append, List.length_append, bytesOf_length]
  refine ⟨?_, ?_, Mem.num_write_bytesOf hy (a + 16) 8 z⟩
  · rw [num_write_other hy (by omega), num_write_other hx (by omega), Mem.num_write_bytesOf w]
  · rw [num_write_other hy (by omega), Mem.num_write_bytesOf hx]

end

theorem enterHandler_rf (c : Ctx) (e : UEvent) (sv : Saved) (vec : Word) : (c.enterHandler e sv vec).rf =
    c.rf.write handlerBase (bytesOf 8 (e.kind + 256 * (e.src % 256)) ++ bytesOf 8 e.payload.toNat ++ bytesOf 8 sv.pc.toNat) := by
  rw [Ctx.enterHandler]

/-- What the handler of a delegated fault finds in its bank: the event's words and the place to return to (R205). -/
theorem enterHandler_bank {c : Ctx} (hwf : c.rf.wf = true) (t : Trap) (sv : Saved) (vec : Word) :
    (c.enterHandler t.event sv vec).rf.num 0x8800 8 = 6 + 256 * (t.code % 256) ∧
    (c.enterHandler t.event sv vec).rf.num 0x8808 8 = t.addr.toNat ∧ (c.enterHandler t.event sv vec).rf.num 0x8810 8 = sv.pc.toNat := by
  have hbank := num_write_three hwf handlerBase (t.event.kind + 256 * (t.event.src % 256)) t.event.payload.toNat sv.pc.toNat
  have hfirst : t.event.kind + 256 * (t.event.src % 256) = 6 + 256 * (t.code % 256) := rfl
  rw [← enterHandler_rf c t.event sv vec, hfirst, show (256 : Nat) ^ 8 = 2 ^ 64 from rfl, Nat.mod_eq_of_lt t.event.payload.isLt,
    Nat.mod_eq_of_lt sv.pc.isLt, Nat.mod_eq_of_lt (show 6 + 256 * (t.code % 256) < 2 ^ 64 by omega), handlerBase] at hbank
  exact hbank

end Sys2Proof.Machine

namespace Sys2Proof.Claims

open Sys2Proof.Machine

theorem delegates_iff (c : Ctx) (code : Nat) : c.delegates code = true ↔ (bitAt c.fltdlg.toNat code = true ∧ c.uleEn = true ∧ c.uleActive = false ∧
    c.supervisor = false ∧ c.follower = false ∧ code ≠ 0x0B) := by
  simp only [Ctx.delegates, Bool.and_eq_true, Bool.not_eq_true', bne_iff_ne]
  tauto

section
variable {s : State} {c : Ctx} {t : Trap}

/-- The restart point of a fault of a context that runs (R195). -/
theorem restart_of_running (hwait : c.wait = .none) : c.restart t = if t.nextPc then c.pc + 8 else c.pc := by simp only [Ctx.restart, hwait]

theorem saveAt_of_running (hwait : c.wait = .none) (r : Word) (next : Bool) : c.saveAt r next =
    { pc := r, latch := c.latch, latchTok := c.latchTok, blockEnd := c.blockEnd, atHeader := if next then r == c.blockEnd else c.atHeader,
      next := none } := by
  simp only [Ctx.saveAt, hwait]

theorem parked_pc (hwait : c.wait = .none) : (c.parked t).pc = c.restart t := by
  unfold Ctx.parked
  split
  · rfl
  · rename_i hn
    rw [restart_of_running hwait, if_neg hn]
    rfl

variable (hm : s.member? c.task c.rank = some c)
include hm

/-- A fault that is not delegated parks the context, with a record for the supervisor. -/
theorem parked_of_takeFault (hwait : c.wait = .none) (hdel : c.delegates t.code = false) :
    (s.takeFault c t).mem = s.mem ∧ (s.takeFault c t).staged = s.staged ∧ (s.takeFault c t).member? c.task c.rank = some (c.parked t) ∧
    ∃ n, (s.takeFault c t).sfqWait = s.sfqWait ++
      [{ id := n, bytes := sfqBytes s.cycle t.addr (c.restart t) t.info (s.tidOf c.task) c.rank c.key.tile c.key.num 1 0, ctx := some c.key }] := by
  obtain ⟨hkey, htask, hrank⟩ := parked_identity c t
  obtain ⟨haddr, hpc, hinfo⟩ := parked_fault c t
  rw [takeFault_of_not_delegated s hdel hwait]
  refine ⟨by simp, by simp, ?_, ((s.forgetWalks c.key).holdWork (c.faulting t) t.work).seq, ?_⟩
  · have h := member?_setCtx (s := (s.forgetWalks c.key).holdWork (c.faulting t) t.work) (d := c.parked t) (by simpa [State.member?] using hm) htask hrank
    simpa [State.member?] using h
  · rw [postFault_sfqWait]
    simp [hkey, htask, hrank, haddr, hpc, hinfo, State.tidOf, State.task?]

/-- A delegated fault enters the handler. -/
theorem entered_of_takeFault (hdel : c.delegates t.code = true) :
    (s.takeFault c t).mem = s.mem ∧ (s.takeFault c t).staged = s.staged ∧ (s.takeFault c t).sfqWait = s.sfqWait ∧
    (s.takeFault c t).member? c.task c.rank = some ((c.faulting t).enterHandler t.event (c.saveAt (c.restart t) t.nextPc) c.ulevec) := by
  obtain ⟨-, -, -, -, hown, -⟩ := (delegates_iff c t.code).1 hdel
  rw [takeFault_of_delegated s hdel]
  refine ⟨by simp, by simp, by simp, member?_forwardEntry _ _ (member?_setCtx (c := c) ?_ rfl rfl) hown⟩
  simpa [State.member?] using hm

end

/-- Settles O60: by the two outcomes of a fault that is due. -/
theorem takingAFault : Obligations.TakingAFault := by
  refine ⟨delegates_iff, fun t => ⟨t.info_code, t.info_inflight, t.info_channel, t.info_element, t.info_detail⟩, fun s c t hlive => ?_,
    fun s c t hlive hm hwf hwait => ?_⟩
  · simp [State.dueFault, hlive]
  · have hdue : s.dueFault c t = s.takeFault c t := by simp [State.dueFault, hlive]
    have hr := restart_of_running (t := t) hwait
    rw [hdue, ← hr]
    cases hdel : c.delegates t.code with
    | false =>
      obtain ⟨hmem, hstaged, hmember, hrecord⟩ := parked_of_takeFault hm hwait hdel
      refine ⟨hmem, hstaged, c.parked t, hmember, ?_⟩
      obtain ⟨haddr, hpc, hinfo⟩ := parked_fault c t
      obtain ⟨hpending, hwin, hlatch, hrf⟩ := parked_region c t
      exact ⟨hpc, haddr, hinfo, hpending, hwin, fun _ => ⟨rfl, parked_pc hwait, hlatch, hrf, hrecord⟩, fun h => absurd h Bool.false_ne_true⟩
    | true =>
      obtain ⟨hmem, hstaged, hqueue, hmember⟩ := entered_of_takeFault hm hdel
      rw [saveAt_of_running hwait] at hmember
      obtain ⟨hfirst, hsecond, hthird⟩ := enterHandler_bank (c := c.faulting t) (endRegion_rf_wf hwf) t _ c.ulevec
      exact ⟨hmem, hstaged, _, hmember, rfl, rfl, rfl, rfl, rfl, fun h => absurd h Bool.true_eq_false.mp,
        fun _ => ⟨rfl, hqueue, rfl, rfl, rfl, rfl, hfirst, hsecond, hthird, _, rfl, rfl, rfl, rfl, rfl⟩⟩

end Sys2Proof.Claims
end

section
/-! PROOFS. The frame of the instructions that write one register (R62, R131, R133, R198, R199). -/

namespace Sys2Proof.Machine

/-! ### What a walk leaves alone -/

@[simp] theorem State.setWalk_ctxs (s : State) (w : Walk) : (s.setWalk w).ctxs = s.ctxs := rfl
@[simp] theorem State.setWalk_mem (s : State) (w : Walk) : (s.setWalk w).mem = s.mem := rfl

theorem goWalk_keeps : ∀ (n : Nat) (s : State) (w : Walk), (s.goWalk n w).ctxs = s.ctxs ∧ (s.goWalk n w).mem = s.mem
  | 0, _, _ => ⟨rfl, rfl⟩
  | n + 1, s, w => by
    unfold State.goWalk
    dsimp only
    split
    · exact goWalk_keeps n s _
    · simp

theorem startWalk_keeps (s : State) (w : Walk) : (s.startWalk w).ctxs = s.ctxs ∧ (s.startWalk w).mem = s.mem := by
  unfold State.startWalk
  have h := goWalk_keeps 5 (s.setWalk { w with running := true, level := 4, table := s.rootTable }) { w with running := true, level := 4, table := s.rootTable }
  exact ⟨h.1.trans (by simp), h.2.trans (by simp)⟩

theorem joinWalk_keeps (s : State) (who : Seeker) (tile page slack : Nat) (overdue : Bool) :
    (s.joinWalk who tile page slack overdue).ctxs = s.ctxs ∧ (s.joinWalk who tile page slack overdue).mem = s.mem := by
  unfold State.joinWalk
  dsimp only
  split
  · exact ⟨rfl, rfl⟩
  · split
    · exact startWalk_keeps _ _
    · exact ⟨rfl, rfl⟩

@[simp] theorem State.dropCached_ctxs (s : State) (lo n : Nat) : (s.dropCached lo n).ctxs = s.ctxs := rfl
@[simp] theorem State.dropCached_mem (s : State) (lo n : Nat) : (s.dropCached lo n).mem = s.mem := rfl

/-- An access that waits for a walk changes neither contexts nor memory. -/
theorem look_wait_keeps {s t : State} {who : Seeker} {tile va slack : Nat} {overdue joined : Bool}
    (h : s.look who tile va slack overdue = .wait joined t) : t.ctxs = s.ctxs ∧ t.mem = s.mem := by
  unfold State.look at h
  dsimp only at h
  split at h
  · split at h <;> cases h
  · split at h
    · split at h
      · cases h
      · cases h
        exact joinWalk_keeps (s.dropCached _ _) who tile _ slack overdue
    · cases h
      exact joinWalk_keeps s who tile _ slack overdue

@[simp] theorem State.noteBlocked_ctxs (s : State) (c : Ctx) (va : Nat) : (s.noteBlocked c va).ctxs = s.ctxs := rfl
@[simp] theorem State.noteBlocked_mem (s : State) (c : Ctx) (va : Nat) : (s.noteBlocked c va).mem = s.mem := rfl

/-! ### What an attempt that does not complete leaves of the contexts -/

/-- The place of each context, and on which hardware context it runs. -/
def Ctx.stand (c : Ctx) : CtxKey × Bool × Word := (c.key, c.stopped, c.pc)

/-- No context has moved. -/
def Stays (s t : State) : Prop := t.ctxs.map Ctx.stand = s.ctxs.map Ctx.stand

theorem Stays.of_ctxs {s t : State} (h : t.ctxs = s.ctxs) : Stays s t := congrArg (List.map Ctx.stand) h

theorem Stays.trans {s t u : State} (h : Stays s t) (h' : Stays t u) : Stays s u := Eq.trans h' h

theorem Stays.updCtx (s : State) (c : Ctx) {f : Ctx → Ctx} (hf : ∀ d, (f d).stand = d.stand) : Stays s (s.updCtx c f) := by
  simp only [Stays, State.updCtx, List.map_map]
  refine List.map_congr_left fun d _ => ?_
  simp only [Function.comp_apply]
  split
  · exact hf d
  · rfl

/-- A context runs on a hardware context. -/
def runsOn (k : CtxKey) (c : Ctx) : Bool := c.key == k && !c.stopped

theorem ctx?_eq (s : State) (k : CtxKey) : s.ctx? k = s.ctxs.find? (runsOn k) := rfl

/-- The first of a list of contexts that runs on a hardware context goes by what Stays keeps. -/
theorem find?_stand (k : CtxKey) (l : List Ctx) :
    (l.find? (runsOn k)).map Ctx.stand = (l.map Ctx.stand).find? fun x => x.1 == k && !x.2.1 := by
  rw [List.find?_map]
  rfl

theorem Stays.pc_eq {s t : State} (h : Stays s t) {k : CtxKey} {c d : Ctx} (hc : s.ctx? k = some c) (hd : t.ctx? k = some d) : d.pc = c.pc := by
  have hs := find?_stand k s.ctxs
  have ht := find?_stand k t.ctxs
  rw [← ctx?_eq, hc] at hs
  rw [← ctx?_eq, hd, show t.ctxs.map Ctx.stand = s.ctxs.map Ctx.stand from h, ← hs] at ht
  exact congrArg (fun x => x.2.2) (Option.some.inj ht)

theorem foldl_keeps {σ α β : Type} (p : σ → β) {f : σ → α → σ} (l : List α) (hf : ∀ s x, p (f s x) = p s) (s : σ) : p (l.foldl f s) = p s := by
  induction l generalizing s with
  | nil => rfl
  | cons x r ih => exact (ih (f s x)).trans (hf s x)

/-! ### Attempts that stall or fault where they stand -/

/-- Where an attempt does not complete, no context has moved, and the fault that it takes is one of the word itself. -/
def Halts (s : State) {α : Type} (x : Try α) : Prop := ∀ e, x = .error e → (∃ t, e = .stall t ∧ Stays s t) ∨ ∃ f, e = .trap f ∧ f.nextPc = false

theorem Halts.ok (s : State) {α : Type} (a : α) : Halts s (.ok a : Try α) := by
  intro e h
  cases h

theorem Halts.trap (s : State) {α : Type} {f : Trap} (h : f.nextPc = false) : Halts s (.error (.trap f) : Try α) := by
  rintro e ⟨⟩
  exact .inr ⟨f, rfl, h⟩

theorem Halts.fault (s : State) {α : Type} (code : Nat) : Halts s (fault code : Try α) := Halts.trap s rfl

theorem Halts.faultAt (s : State) {α : Type} (code : Nat) (a : Word) (n : Nat) : Halts s (faultAt code a n : Try α) := Halts.trap s rfl

theorem Halts.stall {s t : State} {α : Type} (h : Stays s t) : Halts s (stall t : Try α) := by
  rintro e ⟨⟩
  exact .inl ⟨t, rfl, h⟩

theorem Halts.retype {s : State} {α β : Type} {e : Stop} (h : Halts s (.error e : Try α)) : Halts s (.error e : Try β) := by
  rintro e' ⟨⟩
  exact h e rfl

theorem Halts.bind {s : State} {α β : Type} {x : Try α} {f : α → Try β} (hx : Halts s x) (hf : ∀ a, Halts s (f a)) : Halts s (x >>= f) := by
  cases x with
  | ok a => exact hf a
  | error e =>
    rintro e' ⟨⟩
    exact hx e rfl

theorem Halts.require (s : State) (b : Bool) (code : Nat) : Halts s (require b code) := by
  cases b
  · exact Halts.fault s code
  · exact Halts.ok s ()

theorem Halts.requireAt (s : State) (b : Bool) (code : Nat) (a : Word) : Halts s (requireAt b code a) := by
  cases b
  · exact Halts.faultAt s code a 0
  · exact Halts.ok s ()

theorem Halts.mapM {s : State} {α β : Type} {f : α → Try β} (h : ∀ a, Halts s (f a)) (l : List α) : Halts s (l.mapM f) := by
  induction l with
  | nil => exact Halts.ok s _
  | cons a r ih =>
    rw [List.mapM_cons]
    exact (h a).bind fun _ => ih.bind fun _ => Halts.ok s _

/-! ### Registers -/

section
variable (s : State) (c : Ctx)

theorem Halts.readRf (a n : Nat) : Halts s (readRf c a n) := (Halts.require s _ _).bind fun _ => Halts.ok s _

theorem Halts.readGuard (h : Common) : Halts s (readGuard c h) := by
  unfold Machine.readGuard
  split
  · exact Halts.ok s _
  · exact (Halts.readRf s c _ _).bind fun _ => Halts.ok s _

theorem Halts.readVal (o : Operand) : Halts s (readVal c o) := by
  cases o with
  | v n => exact Halts.fault s _
  | a n => exact Halts.fault s _
  | const k => exact Halts.ok s _
  | s n => exact (Halts.readRf s c _ _).bind fun _ => Halts.ok s _
  | o n => exact (Halts.readRf s c _ _).bind fun _ => Halts.ok s _
  | p n =>
    simp only [Machine.readVal]
    split
    · exact Halts.ok s _
    · exact (Halts.readRf s c _ _).bind fun _ => Halts.ok s _
  | latch =>
    simp only [Machine.readVal]
    split
    · exact Halts.ok s _
    · exact Halts.fault s _

theorem Halts.readElems (w : Nat) (o : Operand) : Halts s (readElems c w o) := by
  cases o with
  | v n => exact (Halts.readRf s c _ _).bind fun _ => Halts.ok s _
  | o n => exact (Halts.readRf s c _ _).bind fun _ => Halts.ok s _
  | const k => exact Halts.ok s _
  | latch =>
    simp only [Machine.readElems]
    split
    · exact Halts.ok s _
    · exact Halts.ok s _
    · exact Halts.fault s _
  | s n => exact (Halts.readVal s c (.s n)).bind fun _ => Halts.ok s _
  | p n => exact (Halts.readVal s c (.p n)).bind fun _ => Halts.ok s _
  | a n => exact (Halts.readVal s c (.a n)).bind fun _ => Halts.ok s _

theorem Halts.readLane (k : SrcKind) (o : Operand) : Halts s (readLane c k o) := by
  unfold Machine.readLane
  split
  · exact Halts.ok s _
  · exact Halts.readElems s c _ _

theorem Halts.readUni (k : SrcKind) (o : Operand) : Halts s (readUni c k o) := by
  unfold Machine.readUni
  split
  · exact Halts.ok s _
  · exact (Halts.readVal s c _).bind fun _ => Halts.ok s _

theorem Halts.stallHere {α : Type} : Halts s (Machine.stall s : Try α) := Halts.stall rfl

theorem Halts.writeRf (a n : Nat) (cells : List (Nat × Byte)) : Halts s (writeRf s c a n cells) := by
  refine Halts.bind ((Halts.require s _ _).bind fun _ => Halts.require s _ _) fun _ => ?_
  dsimp only
  split
  · exact (Halts.stallHere s).bind fun _ => Halts.ok s _
  · exact Halts.ok s _

theorem Halts.writeVal (o : Operand) (x : Word) : Halts s (writeVal s c o x) := by
  unfold Machine.writeVal
  split
  · exact Halts.ok s _
  · split
    · exact Halts.fault s _
    · exact (Halts.writeRf s c _ _ _).bind fun _ => Halts.ok s _

theorem Halts.writeElems (o : Operand) (w : Nat) (g : Word) (xs : List Nat) : Halts s (writeElems s c o w g xs) := by
  unfold Machine.writeElems
  split
  · exact Halts.fault s _
  · exact (Halts.writeRf s c _ _ _).bind fun _ => Halts.ok s _

theorem Halts.writeMask (o : Operand) (g m : Word) : Halts s (writeMask s c o g m) := by
  unfold Machine.writeMask
  split
  · exact Halts.ok s _
  · split
    · exact Halts.fault s _
    · split
      · exact Halts.stallHere s
      · exact Halts.writeVal s c _ _

/-! ### The checks before and after an instruction -/

theorem Halts.latchReady (lane : Bool) (ops : List Operand) : Halts s (latchReady s c lane ops) := by
  unfold Machine.latchReady
  split
  · split
    · exact Halts.fault s _
    · split
      · split
        · exact Halts.stallHere s
        · exact Halts.ok s _
      · exact Halts.fault s _
    · split
      · exact Halts.stallHere s
      · exact Halts.ok s _
  · exact Halts.ok s _

theorem resend_ctxs (slack : Option Nat) (which : RemoteReq → Bool) : (s.resend slack which).ctxs = s.ctxs := by
  refine foldl_keeps State.ctxs _ (fun t q => ?_) s
  simp [State.sendReq, State.sendFrom]

theorem replaceStaged_ctxs (seqs : List Nat) : (s.replaceStaged seqs).ctxs = s.ctxs := by
  refine foldl_keeps State.ctxs _ (fun t q => ?_) s
  split <;> rfl

theorem Stays.replay (a : Word) : Stays s (s.replay c a) :=
  (Stays.of_ctxs ((replaceStaged_ctxs _ _).trans (resend_ctxs s _ _))).trans (Stays.updCtx _ c fun _ => rfl)

theorem Halts.latchGate (lane : Bool) (ops : List Operand) : Halts s (latchGate s c lane ops) := by
  have hready := Halts.latchReady s c lane ops
  unfold Machine.latchGate
  split
  · rename_i t ht
    rw [ht] at hready
    have hstall : Halts s (Machine.stall t : Try Unit) := fun e he => hready e he
    dsimp only
    have hlast : Halts s (match c.badToken with
        | some t' => if c.live.isEmpty then .error (.trap { code := t'.bad, inflight := true, addr := t'.spot, element := t'.element }) else Machine.stall t
        | none => Machine.stall t : Try Unit) := by
      split
      · split
        · exact Halts.trap s rfl
        · exact hstall
      · exact hstall
    split
    · exact (Halts.stall (Stays.replay s c c.pc)).bind fun _ => hlast
    · exact hlast
  · exact hready

theorem Stays.requestFetch (a : Word) (e : Leaf) : Stays s (s.requestFetch c a e) := by
  unfold State.requestFetch
  split
  · exact rfl
  · dsimp only
    refine Stays.trans (Stays.updCtx s c ?_) (Stays.of_ctxs (State.send_ctxs _ _))
    exact fun _ => rfl

theorem Halts.ite {s : State} {α : Type} {p : Prop} [Decidable p] {x y : Try α} (hx : Halts s x) (hy : Halts s y) : Halts s (if p then x else y) := by
  split
  · exact hx
  · exact hy

theorem Halts.checkLeaf (user : Bool) (e : Leaf) (a : Word) (write : Bool) (element : Nat) : Halts s (s.checkLeaf c user e a write element) := by
  have hlast : Halts s (if write && e.wblock then Machine.stall (s.noteBlocked c (vaOf a)) else pure () : Try Unit) :=
    (Halts.stall (Stays.of_ctxs rfl)).ite (Halts.ok s _)
  have hpoison : Halts s (do
      if e.poison then Machine.faultAt fcPOISON a element
      if write && e.wblock then Machine.stall (s.noteBlocked c (vaOf a)) : Try Unit) :=
    Halts.ite ((Halts.faultAt s _ _ _).bind fun _ => hlast) hlast
  exact Halts.ite ((Halts.faultAt s _ _ _).bind fun _ => ((Halts.faultAt s _ _ _).bind fun _ => hpoison).ite hpoison)
    (((Halts.faultAt s _ _ _).bind fun _ => hpoison).ite hpoison)

theorem Halts.translate (a : Word) (write : Bool) (slack element : Nat) : Halts s (s.translate c a write slack element) := by
  refine Halts.bind ((Halts.requireAt s _ _ _).bind fun _ => ?_) fun e => (Halts.checkLeaf s c _ e a write element).bind fun _ => Halts.ok s _
  split
  · exact Halts.ok s _
  · exact Halts.faultAt s _ _ _
  · rename_i h
    exact Halts.stall (Stays.of_ctxs (look_wait_keeps h).1)

theorem Halts.headerAt (a w : Word) : Halts s (headerAt a w) :=
  (Halts.requireAt s _ _ _).bind fun _ => (Halts.requireAt s _ _ _).bind fun _ => Halts.ok s _

theorem Halts.fetchAt (a : Word) : Halts s (s.fetchAt c a) := by
  unfold State.fetchAt
  split
  · exact Halts.ok s _
  · refine Halts.bind ((Halts.requireAt s _ _ _).bind fun _ => (Halts.translate s c _ _ _ _).bind fun _ =>
      (Halts.requireAt s _ _ _).bind fun _ => Halts.ok s _) fun e => (Halts.requireAt s _ _ _).bind fun _ => Halts.stall (Stays.requestFetch s c a e)

theorem Halts.checkFall (a : Word) : Halts s (s.checkFall c a) := by
  have hfetch := Halts.fetchAt s c a
  unfold State.checkFall
  split
  · exact Halts.ok s _
  · split
    · exact (Halts.headerAt s a _).bind fun _ => Halts.ok s _
    · rename_i t ht
      rw [ht] at hfetch
      exact hfetch.retype
    · rename_i f hf
      rw [hf] at hfetch
      split
      · exact hfetch.retype
      · exact Halts.ok s _

end

/-! ### A fault that is taken -/

/-- The record that replaces one which a test finds is found, where it passes the test too. -/
theorem find?_replace {p : Ctx → Bool} {c d : Ctx} (hp : p d = true) (hsame : c.same d = true) {l : List Ctx} (h : l.find? p = some c) :
    (l.map fun x => if x.same d then d else x).find? p = some d := by
  induction l with
  | nil => cases h
  | cons x r ih =>
    rw [List.map_cons, List.find?_cons]
    by_cases hx : x.same d = true
    · rw [if_pos hx, hp]
    · rw [if_neg hx]
      cases hpx : p x with
      | true =>
        rw [List.find?_cons, hpx] at h
        exact absurd (Option.some.inj h ▸ hsame) hx
      | false =>
        rw [List.find?_cons, hpx] at h
        exact ih h

theorem same_of_identity {c d : Ctx} (htask : d.task = c.task) (hrank : d.rank = c.rank) : c.same d = true := by simp [Ctx.same, htask, hrank]

theorem ctx?_setCtx {s : State} {c d : Ctx} {k : CtxKey} (hc : s.ctx? k = some c) (htask : d.task = c.task) (hrank : d.rank = c.rank)
    (hkey : d.key = c.key) (hrun : d.stopped = c.stopped) : (s.setCtx d).ctx? k = some d := by
  have hruns : runsOn k c = true := List.find?_some ((ctx?_eq s k).symm.trans hc)
  exact find?_replace (p := runsOn k) (by rw [runsOn, hkey, hrun]; exact hruns) (same_of_identity htask hrank) hc

/-- A handler's entry changes no record of a context that follows no leader. -/
theorem ctx?_forwardEntry {s : State} {d : Ctx} (c : Ctx) (e : UEvent) {k : CtxKey} (hd : s.ctx? k = some d) (hown : d.follower = false) :
    (s.forwardEntry c e).ctx? k = some d := by
  unfold State.forwardEntry
  split
  · rw [ctx?_eq] at hd ⊢
    simp only [State.forward]
    rw [List.find?_map, show (runsOn k ∘ _) = runsOn k from funext fun x => ?_, hd, Option.map_some, if_neg (by simp [hown])]
    simp only [Function.comp_apply]
    split <;> rfl
  · exact hd

/-- The wait of a context that has taken a fault: a marked instruction's park goes on after it (R242). -/
def Ctx.waitParked (c : Ctx) : Wait :=
  match c.wait with
  | .drain p => .drain p
  | _ => .none

/-- The record of a context that parks with a fault of its word (R197). -/
def Ctx.parkedHere (c : Ctx) (t : Trap) : Ctx := { c.faulting t with faulted := some t.code, wait := c.waitParked, want := none }

theorem takeFault_of_word (s : State) {c : Ctx} {t : Trap} (hdel : c.delegates t.code = false) (hnext : t.nextPc = false) :
    s.takeFault c t = (((s.forgetWalks c.key).holdWork (c.faulting t) t.work).setCtx (c.parkedHere t)).postFault (c.parkedHere t) := by
  have hdel' : ¬((c.faulting t).delegates t.code = true) := by rw [Bool.not_eq_true]; exact hdel
  refine (if_neg hdel').trans ?_
  simp only [hnext, Bool.false_eq_true, if_false]
  rfl

/-- A context that has taken a fault of its word stands at it, or has entered its handler. -/
theorem ctx?_takeFault {s : State} {c d : Ctx} {t : Trap} {k : CtxKey} (hc : s.ctx? k = some c) (hnext : t.nextPc = false)
    (hd : (s.takeFault c t).ctx? k = some d) : d.pc = c.pc ∨ (d.uleActive = true ∧ c.uleActive = false) := by
  have hrun : ((s.forgetWalks c.key).holdWork (c.faulting t) t.work).ctx? k = some c := by simpa [ctx?_eq] using hc
  cases hdel : c.delegates t.code with
  | true =>
    obtain ⟨hown, hactive⟩ : c.follower = false ∧ c.uleActive = false := by
      simp only [Ctx.delegates, Bool.and_eq_true, Bool.not_eq_true'] at hdel
      exact ⟨hdel.1.2, hdel.1.1.1.2⟩
    have hset := ctx?_setCtx (d := (c.faulting t).enterHandler t.event (c.saveAt (c.restart t) t.nextPc) c.ulevec) hrun rfl rfl rfl rfl
    rw [takeFault_of_delegated s hdel, ctx?_forwardEntry (c.faulting t) t.event hset hown] at hd
    obtain rfl := Option.some.inj hd
    exact .inr ⟨rfl, hactive⟩
  | false =>
    have hset := ctx?_setCtx (d := c.parkedHere t) hrun rfl rfl rfl rfl
    rw [takeFault_of_word s hdel hnext, ctx?_eq, State.postFault_ctxs, ← ctx?_eq, hset] at hd
    obtain rfl := Option.some.inj hd
    exact .inl rfl

/-- A context at which a fault is due stands at its word, or has entered its handler. -/
theorem ctx?_dueFault {s : State} {c d : Ctx} {t : Trap} {k : CtxKey} (hc : s.ctx? k = some c) (hnext : t.nextPc = false)
    (hd : (s.dueFault c t).ctx? k = some d) : d.pc = c.pc ∨ (d.uleActive = true ∧ c.uleActive = false) := by
  unfold State.dueFault at hd
  split at hd
  · exact ctx?_takeFault hc hnext hd
  · rw [hc] at hd
    exact .inl (congrArg Ctx.pc (Option.some.inj hd).symm)

end Sys2Proof.Machine
end

section
/-! PROOFS. What an instruction that writes one register leaves alone, form by form. -/

namespace Sys2Proof.Claims

open Sys2Proof.Machine

theorem writeVal_of_none {o : Operand} (ho : o ≠ .p 0) (s : State) {c : Ctx} (hloc : c.loc o = none) (x : Word) :
    writeVal s c o x = fault fcILLEGAL := by
  unfold writeVal
  split
  · exact absurd rfl ho
  · rw [hloc]

/-! ### What a register write keeps -/

/-- The record c with what a register write may change as d has it. -/
def withRegs (c d : Ctx) : Ctx :=
  { c with rf := d.rf, latch := d.latch, latchTok := d.latchTok, pending := d.pending, flags := d.flags, srcnt := d.srcnt, outstanding := d.outstanding }

/-- Only the destination's bytes, flags that are set and what a write notes differ. -/
structure RegKeeps (w : FormA) (c d : Ctx) : Prop where
  bytes : ∀ x, (∀ a, c.loc w.dst = some a → x < a ∨ a + destBytes w ≤ x) → d.rf.get x = c.rf.get x
  flags : d.flags ||| c.flags = d.flags
  rest : withRegs c d = d

section
variable {w : FormA} {c : Ctx}

/-- A change of the latch alone. -/
theorem RegKeeps.of_latch {d : Ctx} (hrf : d.rf = c.rf) (hflags : d.flags = c.flags) (hrest : withRegs c d = d) : RegKeeps w c d :=
  ⟨fun _ _ => by rw [hrf], by rw [hflags, BitVec.or_self], hrest⟩

theorem RegKeeps.orFlags {d : Ctx} (h : RegKeeps w c d) (f : Nat) : RegKeeps w c (d.orFlags f) := by
  refine ⟨h.bytes, ?_, congrArg (Ctx.orFlags · f) h.rest⟩
  have hset : (d.orFlags f).flags = d.flags ||| (BitVec.ofNat 64 f &&& flagMask) := rfl
  rw [hset, BitVec.or_assoc, BitVec.or_comm _ c.flags, ← BitVec.or_assoc, h.flags]

/-- The draw of a stochastic rounding is counted (R62). -/
theorem RegKeeps.afterRnd {d : Ctx} (h : RegKeeps w c d) (code : Nat) : RegKeeps w c (d.afterRnd code) := by
  unfold Ctx.afterRnd
  split
  · have hcount : RegKeeps w c { d with srcnt := (d.srcnt + 1) % 2 ^ 32 } :=
      ⟨h.bytes, h.flags, congrArg (fun e : Ctx => { e with srcnt := (d.srcnt + 1) % 2 ^ 32 }) h.rest⟩
    exact hcount.orFlags _
  · exact h

theorem RegKeeps.latchUnchanged (o : Operand) : RegKeeps w c (latchUnchanged c false o) := by
  unfold Machine.latchUnchanged
  split
  · exact .of_latch rfl rfl rfl
  · split <;> exact .of_latch rfl rfl rfl

variable (hwf : c.rf.wf = true)
include hwf

theorem RegKeeps.writeVal {s : State} {d : Ctx} {x : Word} (h : writeVal s c w.dst x = .ok d) : RegKeeps w c d := by
  by_cases ho : w.dst = .p 0
  · rw [ho, writeVal_p0] at h
    obtain rfl := Except.ok.inj h
    exact .of_latch rfl rfl rfl
  · cases hloc : c.loc w.dst with
    | none => rw [writeVal_of_none ho s hloc] at h; cases h
    | some a =>
      obtain ⟨-, -, rfl⟩ := writeVal_eq_ok ho hloc h
      refine ⟨fun x hx => ?_, BitVec.or_self, rfl⟩
      have hx := hx a hloc
      have hsize : 8 ≤ destBytes w := by unfold destBytes; split <;> [skip; split] <;> decide
      rw [Ctx.setLatch_rf]
      refine (congrArg (Mem.get · x) (putCells_cellsAt_rf c a _)).trans ?_
      exact Mem.get_write_other hwf (by rw [bytesOf_length]; omega)

theorem RegKeeps.writeElems {s : State} {d : Ctx} {n : Nat} {g : Word} {xs : List Nat} (hdst : w.dst.isVO = true) (hlane : w.h.lane = true)
    (hlen : xs.length * (n / 8) ≤ 256) (h : writeElems s c w.dst n g xs = .ok d) : RegKeeps w c d := by
  obtain ⟨a, hloc⟩ : ∃ a, c.loc w.dst = some a := by
    cases hd : w.dst <;> simp_all [Operand.isVO, Ctx.loc]
  obtain ⟨-, -, rfl⟩ := writeElems_eq_ok hloc h
  refine ⟨fun x hx => ?_, BitVec.or_self, rfl⟩
  have hsize : destBytes w = 256 := by
    unfold destBytes
    split
    · rename_i hp
      rw [hp] at hdst
      cases hdst
    · rw [if_pos hlane]
  have hx := hx a hloc
  rw [hsize] at hx
  rw [Ctx.setLatch_rf]
  exact get_enabledCells_other hwf a n _ g rfl (by omega)

theorem RegKeeps.writeMask {s : State} {d : Ctx} {g m : Word} (h : writeMask s c w.dst g m = .ok d) : RegKeeps w c d := by
  unfold Machine.writeMask at h
  split at h
  · obtain rfl := Except.ok.inj h
    exact .of_latch rfl rfl rfl
  · split at h
    · cases h
    · split at h
      · cases h
      · exact RegKeeps.writeVal hwf h

end

/-! ### Bodies that write one register -/

/-- A body halts where it stands, or leaves the machine and what RegKeeps keeps of the context, and goes on. -/
def Writes (w : FormA) (s : State) (c : Ctx) (x : Try Done) : Prop :=
  Halts s x ∧ ∀ d, x = .ok d → d.s = s ∧ d.jump = none ∧ d.ends = false ∧ d.left = false ∧ RegKeeps w c d.c

section
variable {w : FormA} {s : State} {c : Ctx}

theorem Writes.bind {α : Type} {x : Try α} {f : α → Try Done} (hx : Halts s x) (hf : ∀ a, Writes w s c (f a)) : Writes w s c (x >>= f) := by
  refine ⟨hx.bind fun a => (hf a).1, fun d h => ?_⟩
  obtain ⟨a, -, ha⟩ := try_bind_eq_ok h
  exact (hf a).2 d ha

/-- A write, and a change of the record that RegKeeps allows after it. -/
theorem Writes.write {x : Try Ctx} {f : Ctx → Ctx} (hx : Halts s x) (hf : ∀ d, x = .ok d → RegKeeps w c (f d)) :
    Writes w s c (x >>= fun d => pure ({ s := s, c := f d } : Done)) := by
  refine ⟨hx.bind fun a => Halts.ok s _, fun d h => ?_⟩
  obtain ⟨e, he, hd⟩ := try_bind_eq_ok h
  obtain rfl := Except.ok.inj hd
  exact ⟨rfl, rfl, rfl, rfl, hf e he⟩

theorem Writes.ok {d : Ctx} (h : RegKeeps w c d) : Writes w s c (.ok ({ s := s, c := d } : Done)) :=
  ⟨Halts.ok s _, fun _ he => by obtain rfl := Except.ok.inj he; exact ⟨rfl, rfl, rfl, rfl, h⟩⟩

end

/-- An outcome is that of an instruction whose body writes one register. -/
def Computes (w : FormA) (s : State) (o : Out) : Prop :=
  ∃ ops body, o = runInstr s w.h false ops body ∧ ∀ c g, c.rf.wf = true → Writes w s c (body s c g)

section
variable {w : FormA} {s : State}

theorem Computes.of_uniform {o : Out} {ops : List Operand} {body : State → Ctx → Try Done} (ho : o = runUniform s w.h false (some w.dst) ops body)
    (h : ∀ c, c.rf.wf = true → Writes w s c (body s c)) : Computes w s o := by
  refine ⟨ops, _, ho, fun c g hwf => ?_⟩
  dsimp only
  split
  · exact h c hwf
  · exact Writes.ok (RegKeeps.latchUnchanged w.dst)

theorem Computes.of_value {o : Out} {ops : List Operand} {f : State → Ctx → Try (Word × Nat)} (ho : o = runValue s w.h w.dst ops f)
    (h : ∀ c, Halts s (f s c)) : Computes w s o :=
  Computes.of_uniform ho fun c hwf => Writes.bind (h c) fun x => Writes.write (Halts.writeVal s c _ _) fun _ hd => (RegKeeps.writeVal hwf hd).orFlags x.2

theorem elems_fit (n : Nat) : 2048 / n * (n / 8) ≤ 256 := by
  have h : 2048 / n * (n / 8) * 8 ≤ 2048 := by
    rw [Nat.mul_assoc]
    exact (Nat.mul_le_mul_left _ (Nat.div_mul_le_self n 8)).trans (Nat.div_mul_le_self 2048 n)
  omega

theorem Computes.of_elems {o : Out} {srcs : List Operand} {n : Nat} {f : List Nat → Nat × Nat} {ext : Nat → Word}
    (ho : o = runElems s w.h w.dst srcs n f ext) (hdst : w.h.lane = true → w.dst.isVO = true) : Computes w s o := by
  unfold runElems at ho
  split at ho
  · rename_i hlane
    refine ⟨srcs, _, ho, fun c g hwf => ?_⟩
    refine Writes.bind (Halts.mapM (fun a => Halts.readElems s c n a) srcs) fun xs => Writes.write (Halts.writeElems s c _ _ _ _) fun d hd => ?_
    exact (RegKeeps.writeElems hwf (hdst hlane) hlane (by simpa using elems_fit n) hd).orFlags _
  · exact Computes.of_value ho fun c => (Halts.mapM (fun a => Halts.readVal s c a) srcs).bind fun _ => Halts.ok s _

theorem Computes.of_flt {o : Out} {srcs : List Operand} {k : SrcKind} {code : Nat} {sat nanovf : Bool} {op : Rnd → List Nat → Nat × Nat}
    {ext : Nat → Word} (ho : o = runFlt s w.h w.dst srcs k code sat nanovf op ext) (hdst : w.h.lane = true → w.dst.isVO = true) : Computes w s o := by
  unfold runFlt at ho
  dsimp only at ho
  split at ho
  · rename_i hlane
    refine ⟨srcs, _, ho, fun c g hwf => ?_⟩
    refine Writes.bind (Halts.mapM (fun a => Halts.readLane s c k a) srcs) fun xs => Writes.write (Halts.writeElems s c _ _ _ _) fun d hd => ?_
    exact ((RegKeeps.writeElems hwf (hdst hlane) hlane (by simpa using elems_fit k.width) hd).orFlags _).afterRnd code
  · refine Computes.of_uniform ho fun c hwf => Writes.bind (Halts.mapM (fun a => Halts.readUni s c k a) srcs) fun xs =>
      Writes.write (Halts.writeVal s c _ _) fun d hd => ((RegKeeps.writeVal hwf hd).orFlags _).afterRnd code

theorem Computes.of_compare {o : Out} {srcs : List Operand} {n : Nat} {holds : Nat → Nat → Bool × Nat} {y : Option Nat}
    (ho : o = runCompare s w.h w.dst srcs n holds y) : Computes w s o := by
  unfold runCompare at ho
  split at ho
  · refine ⟨srcs, _, ho, fun c g hwf => ?_⟩
    exact Writes.bind (Halts.mapM (fun a => Halts.readElems s c 32 a) srcs) fun xs => Writes.write (Halts.writeMask s c _ _ _) fun d hd =>
      (RegKeeps.writeMask hwf hd).orFlags _
  · exact Computes.of_value ho fun c => (Halts.mapM (fun a => Halts.readVal s c a) srcs).bind fun _ => Halts.ok s _

theorem Computes.of_mask {o : Out} {srcs : List Operand} {f : Word → Word → Word} (ho : o = runMask s w srcs f) : Computes w s o :=
  Computes.of_value ho fun c => (Halts.mapM (fun a => Halts.readVal s c a) srcs).bind fun _ => Halts.ok s _

/-! ### The instructions with bodies of their own -/

theorem computes_sel (hdst : w.h.lane = true → w.dst.isVO = true) : Computes w s (execSel w s) := by
  unfold execSel
  dsimp only
  split
  · rename_i hlane
    refine ⟨_, _, rfl, fun c g hwf => ?_⟩
    exact Writes.bind (Halts.readElems s c _ _) fun x => Writes.bind (Halts.readElems s c _ _) fun y => Writes.bind (Halts.readVal s c _) fun m =>
      Writes.write (f := id) (Halts.writeElems s c _ _ _ _) fun d hd => RegKeeps.writeElems hwf (hdst hlane) hlane (by simpa using elems_fit _) hd
  · exact Computes.of_value rfl fun c => (Halts.readVal s c _).bind fun _ => (Halts.readVal s c _).bind fun _ => (Halts.readVal s c _).bind fun _ =>
      Halts.ok s _

theorem computes_fcmp : Computes w s (execFcmp w s) := by
  unfold execFcmp
  dsimp only
  split
  · refine ⟨_, _, rfl, fun c g hwf => ?_⟩
    exact Writes.bind (Halts.readLane s c _ _) fun x => Writes.bind (Halts.readLane s c _ _) fun y =>
      Writes.write (Halts.writeMask s c _ _ _) fun d hd => (RegKeeps.writeMask hwf hd).orFlags _
  · exact Computes.of_value rfl fun c => (Halts.readUni s c _ _).bind fun _ => (Halts.readUni s c _ _).bind fun _ => Halts.ok s _

theorem Writes.ite {c : Ctx} {p : Prop} [Decidable p] {x y : Try Done} (hx : Writes w s c x) (hy : Writes w s c y) :
    Writes w s c (if p then x else y) := by
  split
  · exact hx
  · exact hy

/-- The write of rounded elements, with their flags. -/
theorem Writes.rounded {c : Ctx} (hwf : c.rf.wf = true) (hdst : w.dst.isVO = true) (hlane : w.h.lane = true) {n code : Nat} {g : Word}
    (rs : List (Nat × Nat)) (hlen : rs.length = 2048 / n) :
    Writes w s c (do
      let d ← writeElems s c w.dst n g (rs.map fun r => r.1)
      return { s := s, c := (d.orFlags (laneFlags n g rs)).afterRnd code }) :=
  Writes.write (Halts.writeElems s c _ _ _ _) fun d hd =>
    ((RegKeeps.writeElems hwf hdst hlane (by rw [List.length_map, hlen]; exact elems_fit n) hd).orFlags _).afterRnd _

theorem computes_fpack (hdst : w.h.lane = true → w.dst.isVO = true) : Computes w s (execFpack w s) := by
  unfold execFpack
  dsimp only
  split
  · rename_i hlane
    refine ⟨_, _, rfl, fun c g hwf => ?_⟩
    exact Writes.bind (Halts.readLane s c _ _) fun x => Writes.bind (Halts.readLane s c _ _) fun y =>
      Writes.ite (Writes.bind (Halts.readElems s c _ _) fun old => Writes.rounded hwf (hdst hlane) hlane _ (by simp))
        (Writes.bind (Halts.ok s _) fun old => Writes.rounded hwf (hdst hlane) hlane _ (by simp))
  · exact Computes.of_uniform rfl fun c hwf => Writes.bind (Halts.readUni s c _ _) fun x =>
      Writes.write (Halts.writeVal s c _ _) fun d hd => ((RegKeeps.writeVal hwf hd).orFlags _).afterRnd _

theorem computes_funpk (hdst : w.h.lane = true → w.dst.isVO = true) : Computes w s (execFunpk w s) := by
  unfold execFunpk
  dsimp only
  split
  · rename_i hlane
    refine ⟨_, _, rfl, fun c g hwf => ?_⟩
    exact Writes.bind (Halts.readLane s c _ _) fun x =>
      Writes.write (Halts.writeElems s c _ _ _ _) fun d hd => (RegKeeps.writeElems hwf (hdst hlane) hlane (by simp) hd).orFlags _
  · exact Computes.of_value rfl fun c => (Halts.readUni s c _ _).bind fun _ => Halts.ok s _

/-! ### All of them -/

theorem dstInt_of_intBin {a b : Bool} (h : (a && w.intBin && b) = true) : w.dstInt = true := by
  simp only [FormA.intBin, Bool.and_eq_true] at h
  exact h.1.2.1.1.1.2

theorem dstInt_of_intTer {a b : Bool} (h : (a && w.intTer && b) = true) : w.dstInt = true := by
  simp only [FormA.intTer, Bool.and_eq_true] at h
  exact h.1.2.1.1.1.2

theorem dstInt_of_intUn {a b : Bool} (h : (a && w.intUn && b) = true) : w.dstInt = true := by
  simp only [FormA.intUn, Bool.and_eq_true] at h
  exact h.1.2.1.1.1.2

theorem dstInt_of_float {a x y z : Bool} (h : (a && w.dstInt && x && y && z) = true) : w.dstInt = true := by
  simp only [Bool.and_eq_true] at h
  exact h.1.1.1.2

theorem left_of_and {a b : Bool} (h : (a && b) = true) : a = true := (Bool.and_eq_true_iff.1 h).1

section
variable (h : w.dstInt = true)
include h

theorem lane_dst (hlane : w.h.lane = true) : w.dst.isVO = true := by
  simpa [FormA.dstInt, hlane] using h

theorem computes_of_int {srcs : List Operand} {zero : Bool} {op : Nat → List Nat → Nat × Nat} {o : Out} (ho : o = runInt s w srcs zero op) :
    Computes w s o := Computes.of_elems (ho.trans (by rw [runInt])) (lane_dst h)

theorem computes_of_exact {srcs : List Operand} {op : Int → Int → Int → Int} {o : Out} (ho : o = runExact s w srcs op) : Computes w s o :=
  computes_of_int h (ho.trans (by rw [runExact]))

theorem computes_of_bits {srcs : List Operand} {zero : Bool} {op : Nat → Nat → Nat → Nat → Nat} {o : Out} (ho : o = runBits s w srcs zero op) :
    Computes w s o := computes_of_int h (ho.trans (by rw [runBits]))

theorem computes_of_arith {srcs : List Operand} {op : Nat → List FV → FV × Nat} {o : Out} (ho : o = runArith s w srcs op) : Computes w s o :=
  Computes.of_flt (ho.trans (by rw [runArith])) (lane_dst h)

theorem computes_of_noRound {srcs : List Operand} {op : Fmt → List Nat → Nat × Nat} {o : Out} (ho : o = runNoRound s w srcs op) : Computes w s o :=
  Computes.of_flt (ho.trans (by rw [runNoRound])) (lane_dst h)

end


theorem dstInt_of_sel {a b c d e f : Bool} (h : (a && b && w.dstInt && c && d && e && f) = true) : w.dstInt = true := by
  simp only [Bool.and_eq_true] at h
  exact h.1.1.1.1.2

theorem computes_of_integerForms : ∀ i ∈ integerForms w, i.wf = true → Computes w s (exec i s) := by
  simp only [integerForms, List.forall_mem_cons]
  exact ⟨fun h => computes_of_exact (dstInt_of_intBin h) (exec_add w s),
    fun h => computes_of_exact (dstInt_of_intBin h) (exec_sub w s),
    fun h => computes_of_exact (dstInt_of_intBin h) (exec_mul w s),
    fun h => computes_of_exact (dstInt_of_intTer h) (exec_mad w s),
    fun h => computes_of_bits (dstInt_of_intBin h) (exec_mulhi w s),
    fun h => computes_of_bits (dstInt_of_intBin h) (exec_mulhu w s),
    fun h => computes_of_int (dstInt_of_intBin h) (exec_div w s),
    fun h => computes_of_int (dstInt_of_intBin h) (exec_divu w s),
    fun h => computes_of_int (dstInt_of_intBin h) (exec_rem w s),
    fun h => computes_of_int (dstInt_of_intBin h) (exec_remu w s),
    fun h => computes_of_bits (dstInt_of_intBin h) (exec_and w s),
    fun h => computes_of_bits (dstInt_of_intBin h) (exec_or w s),
    fun h => computes_of_bits (dstInt_of_intBin h) (exec_xor w s),
    fun h => computes_of_int (dstInt_of_intBin h) (exec_shl w s),
    fun h => computes_of_bits (dstInt_of_intBin h) (exec_shr w s),
    fun h => computes_of_bits (dstInt_of_intBin h) (exec_sar w s),
    fun h => computes_of_bits (dstInt_of_intBin h) (exec_rol w s),
    fun h => computes_of_bits (dstInt_of_intBin h) (exec_min w s),
    fun h => computes_of_bits (dstInt_of_intBin h) (exec_max w s),
    fun h => computes_of_bits (dstInt_of_intBin h) (exec_minu w s),
    fun h => computes_of_bits (dstInt_of_intBin h) (exec_maxu w s),
    fun h => computes_of_int (dstInt_of_intUn h) (exec_abs w s),
    fun h => computes_of_bits (dstInt_of_intUn h) (exec_mov w s),
    fun h => computes_sel (lane_dst (dstInt_of_sel h)),
    fun h => computes_of_bits (dstInt_of_intUn h) (exec_popc w s),
    fun h => computes_of_bits (dstInt_of_intUn h) (exec_clz w s),
    fun h => computes_of_bits (dstInt_of_intUn h) (exec_ctz w s),
    fun h => computes_of_bits (dstInt_of_intUn h) (exec_brev w s),
    fun h => computes_of_bits (dstInt_of_intTer h) (exec_bfx w s),
    fun h => computes_of_bits (dstInt_of_intTer h) (exec_bfxu w s),
    fun h => computes_of_int (dstInt_of_intTer h) (exec_bfi w s),
    fun h => computes_of_bits (dstInt_of_intTer h) (exec_lea w s),
    fun _ => by rw [exec_cmp, execCmp]; exact Computes.of_compare rfl, by simp⟩

theorem computes_of_maskForms : ∀ i ∈ maskForms w, i.wf = true → Computes w s (exec i s) := by
  simp only [maskForms, List.forall_mem_cons]
  exact ⟨fun _ => Computes.of_mask (exec_pand w s),
    fun _ => Computes.of_mask (exec_pandn w s),
    fun _ => Computes.of_mask (exec_por w s),
    fun _ => Computes.of_mask (exec_pxor w s),
    fun _ => Computes.of_mask (exec_pnot w s),
    fun _ => Computes.of_mask (exec_pmov w s),
    fun _ => Computes.of_mask (exec_pcnt w s),
    fun _ => Computes.of_mask (exec_pany w s),
    fun _ => Computes.of_mask (exec_pall w s),
    fun _ => Computes.of_mask (exec_pfirst w s),
    fun _ => Computes.of_mask (exec_pfroms w s),
    fun _ => Computes.of_mask (exec_ptos w s),
    fun _ => Computes.of_value (exec_cycle w s) fun _ => Halts.ok s _,
    fun _ => Computes.of_value (exec_podtime w s) fun _ => Halts.ok s _, by simp⟩

theorem computes_of_floatForms : ∀ i ∈ floatForms w, i.wf = true → Computes w s (exec i s) := by
  simp only [floatForms, List.forall_mem_cons]
  exact ⟨fun h => computes_of_arith (dstInt_of_float h) (exec_fadd w s),
    fun h => computes_of_arith (dstInt_of_float h) (exec_fsub w s),
    fun h => computes_of_arith (dstInt_of_float h) (exec_fmul w s),
    fun h => computes_of_arith (dstInt_of_float h) (exec_fma w s),
    fun h => computes_of_arith (dstInt_of_float h) (exec_fms w s),
    fun h => computes_of_arith (dstInt_of_float h) (exec_fnma w s),
    fun h => computes_of_arith (dstInt_of_float h) (exec_fnms w s),
    fun h => computes_of_arith (dstInt_of_float h) (exec_fdiv w s),
    fun h => computes_of_arith (dstInt_of_float h) (exec_fsqrt w s),
    fun h => computes_of_arith (dstInt_of_float h) (exec_frcp w s),
    fun h => computes_of_arith (dstInt_of_float h) (exec_frsq w s),
    fun h => computes_of_arith (dstInt_of_float h) (exec_fexp2 w s),
    fun h => computes_of_arith (dstInt_of_float h) (exec_flog2 w s),
    fun h => computes_of_noRound (dstInt_of_float h) (exec_fmin w s),
    fun h => computes_of_noRound (dstInt_of_float h) (exec_fmax w s),
    fun h => computes_of_noRound (dstInt_of_float h) (exec_fabs w s),
    fun h => computes_of_noRound (dstInt_of_float h) (exec_fneg w s),
    fun h => computes_of_noRound (dstInt_of_float h) (exec_fcpys w s),
    fun h => computes_of_noRound (dstInt_of_float h) (exec_fclass w s),
    fun h => by rw [exec_frnd, execFrnd]; exact Computes.of_flt rfl (lane_dst (dstInt_of_float h)),
    fun _ => computes_fcmp,
    fun h => by rw [exec_fcvt, execFcvt]; exact Computes.of_flt rfl (lane_dst (dstInt_of_float (left_of_and (left_of_and h)))),
    fun h => by rw [exec_fcvti, execFcvti]; exact Computes.of_flt rfl (lane_dst (dstInt_of_float (left_of_and (left_of_and h)))),
    fun h => by rw [exec_icvtf, execIcvtf]; exact Computes.of_flt rfl (lane_dst (dstInt_of_float (left_of_and (left_of_and h)))),
    fun h => computes_fpack (lane_dst (dstInt_of_float (left_of_and h))),
    fun h => computes_funpk (lane_dst (dstInt_of_float (left_of_and h))), by simp⟩

end

/-! ### From the body to the step -/

/-- The checks around a body keep what it is. -/
theorem Writes.checked {w : FormA} {s : State} {c : Ctx} {x : Try Done} (hx : Writes w s c x) (p : Done → Prop) [DecidablePred p] :
    Writes w s c (do
      let d ← x
      if p d then s.checkFall c (c.pc + 8)
      return d) := by
  have htail : ∀ d : Done, Halts s (do
      if p d then s.checkFall c (c.pc + 8)
      return d : Try Done) := fun d =>
    Halts.ite ((Halts.checkFall s c _).bind fun _ => Halts.ok s _) (Halts.ok s _)
  refine ⟨hx.1.bind htail, fun e he => ?_⟩
  obtain ⟨d, hd, hlast⟩ := try_bind_eq_ok he
  have hsame : d = e := by
    by_cases hp : p d
    · simp only [if_pos hp] at hlast
      obtain ⟨_, -, hlast⟩ := try_bind_eq_ok hlast
      exact Except.ok.inj hlast
    · simp only [if_neg hp] at hlast
      exact Except.ok.inj hlast
  exact hsame ▸ hx.2 d hd

/-- An instruction completes as its body does, or no context has moved, or a fault of its word is due. -/
theorem outcome_of_computes {w : FormA} {s t : State} {o : Out} {c : Ctx} (hcomp : Computes w s o) (hwf : c.rf.wf = true)
    (hc : s.ctx? s.sel.ctx = some c) (hstep : o = .next t) :
    (∃ d : Ctx, RegKeeps w c d ∧ t = ({ s := s, c := d } : Done).finish c w.h) ∨ Stays s t ∨ ∃ f : Trap, f.nextPc = false ∧ t = s.dueFault c f := by
  obtain ⟨ops, body, ho, hbody⟩ := hcomp
  rw [ho] at hstep
  unfold runInstr at hstep
  rw [hc] at hstep
  have hattempt := Writes.bind (Halts.require s (!false || c.supervisor) fcPRIV) fun _ => Writes.bind (Halts.latchGate s c w.h.lane ops) fun _ =>
    Writes.bind (Halts.readGuard s c w.h) fun g => (hbody c g hwf).checked fun d => (d.jump.isNone && !d.left && c.pc + 8 == c.blockEnd) = true
  dsimp only at hstep
  split at hstep
  · rename_i d hd
    obtain ⟨hs, hjump, hends, hleft, hkeep⟩ := hattempt.2 d hd
    obtain ⟨_, dc, _, _, _⟩ := d
    subst hs hjump hends hleft
    exact .inl ⟨dc, hkeep, (Host.Outcome.next.inj hstep).symm⟩
  · rename_i f hf
    obtain ⟨_, he, -⟩ | ⟨f', he, hnext⟩ := hattempt.1 _ hf
    · cases he
    · cases he
      exact .inr (.inr ⟨f, hnext, (Host.Outcome.next.inj hstep).symm⟩)
  · rename_i u hu
    obtain ⟨u', he, hstay⟩ | ⟨_, he, -⟩ := hattempt.1 _ hu
    · cases he
      exact .inr (.inl (Host.Outcome.next.inj hstep ▸ hstay))
    · cases he

/-- The record that an unmarked instruction leaves. -/
def finished (c d : Ctx) : Ctx :=
  { d with wait := .none, fwd := if d.follower then d.fwd.drop 1 else d.fwd, pc := c.pc + 8, atHeader := c.pc + 8 == c.blockEnd }

theorem finish_of_unmarked (s : State) (c d : Ctx) {h : Common} (hsw : h.sw = false) :
    ({ s := s, c := d } : Done).finish c h = (s.forgetWalks c.key).setCtx (finished c d) := by
  simp only [Done.finish, hsw, Bool.false_eq_true, if_false]
  rfl

/-- Settles O57: by the frame of the body, form by form. -/
theorem registerInstructionFrame : Obligations.RegisterInstructionFrame := by
  intro w i hi hwf s t c d hsw hrf hc hexec hd hpc hactive
  have hcomp : Computes w s (exec i s) := by
    simp only [registerForms, List.mem_append] at hi
    rcases hi with (hi | hi) | hi
    · exact computes_of_integerForms i hi hwf
    · exact computes_of_maskForms i hi hwf
    · exact computes_of_floatForms i hi hwf
  have hmoved : d.pc ≠ c.pc := by rw [hpc]; bv_omega
  obtain ⟨e, hkeep, rfl⟩ | hstay | ⟨f, hnext, rfl⟩ := outcome_of_computes hcomp hrf hc hexec
  · rw [finish_of_unmarked s c e hsw] at hd ⊢
    have hident : e.key = c.key ∧ e.task = c.task ∧ e.rank = c.rank ∧ e.stopped = c.stopped := by
      rw [← hkeep.rest]
      exact ⟨rfl, rfl, rfl, rfl⟩
    obtain ⟨hkey, htask, hrank, hrun⟩ := hident
    have hset := ctx?_setCtx (s := s.forgetWalks c.key) (d := finished c e) (k := s.sel.ctx) (by simpa [ctx?_eq] using hc) htask hrank hkey hrun
    rw [hset] at hd
    obtain rfl := Option.some.inj hd
    refine ⟨by simp, by simp, by simp, fun x hx hother => ?_, hkeep.bytes, hkeep.flags, ?_⟩
    · have hsame : x.same (finished c e) = false := by
        rw [← hother]
        simp only [Ctx.same, finished, htask, hrank]
      exact List.mem_map.2 ⟨x, by simpa using hx, by simp [hsame]⟩
    · rw [← hkeep.rest]
      rfl
  · exact absurd (hstay.pc_eq hc hd) hmoved
  · rcases ctx?_dueFault hc hnext hd with h | ⟨h, h'⟩
    · exact absurd h hmoved
    · rw [hactive, h'] at h
      cases h

end Sys2Proof.Claims
end

section
/-! PROOFS. The byte-count unit and its instructions (R34, R237 to R241). -/

namespace Sys2Proof.Machine

/-! ### The unit -/

/-- A phase that is not complete leaves the record. -/
theorem evaluate_of_waiting {r : BcRecord} (h : r.posted = false ∨ r.arrived < r.expected) : r.evaluate = (r, false) := by
  refine if_neg ?_
  rcases h with h | h
  · simp [h]
  · simp [Nat.not_le.2 h]

/-- A posted record whose arrived bytes are the expected ones completes its phase. -/
theorem evaluate_of_exact {r : BcRecord} (hposted : r.posted = true) (h : r.arrived = r.expected) :
    r.evaluate = ({ r with arrived := 0, posted := false, phase := !r.phase }, true) := by
  simp [BcRecord.evaluate, hposted, h]

/-- One with more bytes carries the excess into the next phase. -/
theorem evaluate_of_excess {r : BcRecord} (hposted : r.posted = true) (h : r.expected < r.arrived) :
    r.evaluate = ({ r with arrived := r.arrived - r.expected, posted := false, phase := !r.phase, carried := true,
                           excess := min (r.excess + 1) 0xFFFFFFFF }, true) := by
  have hrest : r.arrived - r.expected ≠ 0 := by omega
  have hbne : (r.arrived - r.expected != 0) = true := by simpa using hrest
  simp only [BcRecord.evaluate, hposted, decide_eq_true h.le, Bool.and_self, if_true, if_neg hrest, hbne, Bool.or_true]

theorem post_of_free {r : BcRecord} (h : r.posted = false) (e poster : Nat) :
    r.post e poster = ({ r with expected := e, posted := true, poster := poster } : BcRecord).evaluate := by simp [BcRecord.post, h]

/-- An arrival that the record can count adds its bytes. -/
theorem arrive_of_fits {r : BcRecord} {n : Nat} (h : r.arrived + n ≤ 0x7FFFFFFF) :
    r.arrive n = ({ r with arrived := r.arrived + n } : BcRecord).evaluate := by simp [BcRecord.arrive, Nat.not_lt.2 h]

/-! ### The record as a number -/

theorem b2n_le (b : Bool) : b2n b ≤ 1 := by cases b <;> decide

theorem bitAt_of_b2n {x k : Nat} {b : Bool} (h : x / 2 ^ k % 2 = b2n b) : bitAt x k = b := by
  rw [bitAt, Nat.shiftRight_eq_div_pow, h]
  cases b <;> rfl

/-- The fields of a record are those of its 128 bits. -/
theorem ofNum_num {r : BcRecord} (he : r.expected < 2 ^ 32) (ha : r.arrived < 2 ^ 32) (hp : r.poster < 8) (hx : r.excess < 2 ^ 32) :
    BcRecord.ofNum r.num = r := by
  have hphase := b2n_le r.phase
  have hposted := b2n_le r.posted
  have hcarried := b2n_le r.carried
  have hev := b2n_le r.ev
  have hnum : r.num = r.expected + r.arrived * 2 ^ 32 + b2n r.phase * 2 ^ 64 + b2n r.posted * 2 ^ 65 + b2n r.carried * 2 ^ 66 +
      b2n r.ev * 2 ^ 67 + r.poster * 2 ^ 68 + r.excess * 2 ^ 96 := by
    rw [BcRecord.num, Nat.mod_eq_of_lt he, Nat.mod_eq_of_lt ha, Nat.mod_eq_of_lt hp, Nat.mod_eq_of_lt hx]
  have h1 : bitsOf r.num 31 0 = r.expected := by rw [bitsOf, Nat.shiftRight_eq_div_pow, hnum]; omega
  have h2 : bitsOf r.num 63 32 = r.arrived := by rw [bitsOf, Nat.shiftRight_eq_div_pow, hnum]; omega
  have h3 : bitAt r.num 64 = r.phase := bitAt_of_b2n (by rw [hnum]; omega)
  have h4 : bitAt r.num 65 = r.posted := bitAt_of_b2n (by rw [hnum]; omega)
  have h5 : bitAt r.num 66 = r.carried := bitAt_of_b2n (by rw [hnum]; omega)
  have h6 : bitAt r.num 67 = r.ev := bitAt_of_b2n (by rw [hnum]; omega)
  have h7 : bitsOf r.num 70 68 = r.poster := by rw [bitsOf, Nat.shiftRight_eq_div_pow, hnum]; omega
  have h8 : bitsOf r.num 127 96 = r.excess := by rw [bitsOf, Nat.shiftRight_eq_div_pow, hnum]; omega
  rw [BcRecord.ofNum, h1, h2, h3, h4, h5, h6, h7, h8]

/-! ### Writing a record -/

@[simp] theorem State.putRecord_ctxs (s : State) (key : Nat) (r : BcRecord) (n : Nat) : (s.putRecord key r n).ctxs = s.ctxs := by
  simp [State.putRecord]

@[simp] theorem State.putRecord_mem (s : State) (key : Nat) (r : BcRecord) (n : Nat) :
    (s.putRecord key r n).mem = s.mem.write key (bytesOf 16 r.num) := by
  simp [State.putRecord]

end Sys2Proof.Machine

namespace Sys2Proof.Claims

open Sys2Proof.Machine

/-- Settles O21: by the evaluation of a record that has been posted to, or has received. -/
theorem byteCountUnit : Obligations.ByteCountUnit := by
  refine ⟨fun r e poster hfree => ⟨fun h => ?_, fun h => ?_, fun h => ?_⟩, fun r e poster hposted => by simp [BcRecord.post, hposted],
    fun r n hfit => ⟨fun hfree => ?_, fun hposted h => ?_, fun hposted h => ?_⟩, fun r he ha hp hx => ofNum_num he ha hp hx⟩
  · rw [post_of_free hfree, evaluate_of_waiting (.inr h)]
  · rw [post_of_free hfree, evaluate_of_exact rfl h]
  · rw [post_of_free hfree, evaluate_of_excess rfl h]
  · exact (arrive_of_fits hfit).trans (evaluate_of_waiting (.inl hfree))
  · rw [arrive_of_fits hfit, evaluate_of_waiting (.inr h)]
  · exact (arrive_of_fits hfit).trans (evaluate_of_exact (r := { r with arrived := r.arrived + n }) hposted h)

section
variable {w : FormX} {s : State} {c c' : Ctx} {a n : Word} {key : Nat}

section
variable (hF : Fires s c w.h [w.a, w.b]) (ha : readVal c w.a = .ok a) (hn : readVal c w.b = .ok n)
include hF ha hn

theorem completes_bcpost (hrec : recordAt s c a .tile = .ok key) : Completes (.bcpost w) s c w.h
    ((if w.sub.getLsbD 0 then s.putRecord key { s.bcRecord key with carried := false } (s.bcDone key) else s).sendArrival key (n.toNat % 2 ^ 31) 0
      (some c.key)) c.clearLatch := by
  rw [Completes, exec_bcpost, execBcpost]
  refine uni_ok hF (by simp) ?_
  rw [try_bind_of_ok ha, try_bind_of_ok hn, try_bind_of_ok hrec]
  rfl

theorem completes_bcarv (hrec : recordAt s c a .group = .ok key) (hplaced : s.writesPlaced c = true) : Completes (.bcarv w) s c w.h
    (s.sendArrival key (n.toNat % 2 ^ 31) 0 none) c.clearLatch := by
  rw [Completes, exec_bcarv, execBcarv]
  refine uni_ok hF (by simp) ?_
  rw [try_bind_of_ok ha, try_bind_of_ok hn, try_bind_of_ok hrec]
  simp only [hplaced, Bool.not_true, Bool.false_eq_true, if_false]
  rfl

section
variable (hrec : recordAt s c a .tile = .ok key) (hpark : parkGate s c = .ok ()) (hwork : workGate s c (.record key) = .ok ())
  (hphase : (s.bcRecord key).phase ≠ n.getLsbD 0)
include hrec hpark hwork hphase

theorem completes_bcwait (hover : (w.sub.getLsbD 0 && (s.bcRecord key).carried) = false) :
    CompletesPark (.bcwait w) s c w.h s (c.observe key (s.bcDone key)).clearLatch := by
  rw [CompletesPark, exec_bcwait, execBcwait]
  refine uni_ok hF (by simp) ?_
  rw [try_bind_of_ok ha, try_bind_of_ok hn, try_bind_of_ok hrec, try_bind_of_ok hpark, try_bind_of_ok hwork]
  simp only [beq_false_of_ne hphase, hover, Bool.false_eq_true, if_false, Bool.not_false, require_true]
  rfl

theorem faults_bcwait_of_over (hover : (w.sub.getLsbD 0 && (s.bcRecord key).carried) = true) : Faults (.bcwait w) s c { code := fcBCOVER } := by
  rw [Faults, exec_bcwait, execBcwait]
  refine uni_trap hF (by simp) ?_
  rw [try_bind_of_ok ha, try_bind_of_ok hn, try_bind_of_ok hrec, try_bind_of_ok hpark, try_bind_of_ok hwork]
  simp only [beq_false_of_ne hphase, hover, Bool.false_eq_true, if_false, Bool.not_true, require_false]
  rfl

end

end

section
variable (hF : Fires s c w.h [w.b, w.c]) (ha : readVal c w.b = .ok a) (hn : readVal c w.c = .ok n) (hrec : recordAt s c a .tile = .ok key)
  (hwork : workGate s c (.record key) = .ok ())
include hF ha hn hrec hwork

theorem completes_bctest_of_left (hphase : (s.bcRecord key).phase ≠ n.getLsbD 0) (hw : writeVal s c w.a 1 = .ok c') :
    Completes (.bctest w) s c w.h s (c'.observe key (s.bcDone key)) := by
  rw [Completes, exec_bctest, execBctest]
  refine uni_ok hF (by simp) ?_
  rw [try_bind_of_ok ha, try_bind_of_ok hn, try_bind_of_ok hrec, try_bind_of_ok hwork]
  simp only [bne_iff_ne.2 hphase, if_true]
  rw [try_bind_of_ok hw]
  rfl

theorem completes_bctest_of_still (hphase : (s.bcRecord key).phase = n.getLsbD 0) (hw : writeVal s c w.a 0 = .ok c') :
    Completes (.bctest w) s c w.h s c' := by
  rw [Completes, exec_bctest, execBctest]
  refine uni_ok hF (by simp) ?_
  rw [try_bind_of_ok ha, try_bind_of_ok hn, try_bind_of_ok hrec, try_bind_of_ok hwork]
  simp only [hphase, bne_self_eq_false, Bool.false_eq_true, if_false]
  rw [try_bind_of_ok hw]
  rfl

end

/-- The record that BCRESET writes: only EV may be set (R241). -/
def resetRecord (ev : Bool) : BcRecord :=
  { expected := 0, arrived := 0, phase := false, posted := false, carried := false, ev := ev, poster := 0, excess := 0 }

theorem num_resetRecord (ev : Bool) : (resetRecord ev).num = b2n ev * 2 ^ 67 := by cases ev <;> rfl

theorem completes_bcreset (hF : Fires s c w.h [w.a]) (ha : readVal c w.a = .ok a) (hrec : recordAt s c a .tile = .ok key)
    (hnone : ∀ i ∈ (s.tile c.key.tile).bcq, i.key ≠ key) :
    Completes (.bcreset w) s c w.h (s.putRecord key (resetRecord (w.sub.getLsbD 0)) (s.bcDone key)) c.clearLatch := by
  have hany : ((s.tile c.key.tile).bcq.any fun i => i.key == key) = false := by simpa using hnone
  rw [Completes, exec_bcreset, execBcreset]
  refine uni_ok hF (by simp) ?_
  rw [try_bind_of_ok ha, try_bind_of_ok hrec]
  simp only [hany, Bool.false_eq_true, if_false]
  rfl

end

/-- Settles O20: a post, an arrival, a wait, a test and a reset each by its branch of the body. -/
theorem byteCountInstructions : Obligations.ByteCountInstructions := by
  refine fun w s c c' a n key => ⟨fun hF ha hn => ⟨fun hrec => ⟨fun hclr => ?_, fun hclr => ?_, fun hpark hwork hphase =>
      ⟨completes_bcwait hF ha hn hrec hpark hwork hphase, faults_bcwait_of_over hF ha hn hrec hpark hwork hphase⟩⟩, completes_bcarv hF ha hn⟩,
    fun hF ha hn hrec hwork => ⟨completes_bctest_of_left hF ha hn hrec hwork, completes_bctest_of_still hF ha hn hrec hwork⟩,
    fun hF ha hrec hnone hwf => ⟨_, completes_bcreset hF ha hrec hnone, by simp, ?_, fun x hx => ?_⟩⟩
  · have h := completes_bcpost hF ha hn hrec
    rwa [hclr, if_neg Bool.false_ne_true] at h
  · have h := completes_bcpost hF ha hn hrec
    rwa [hclr, if_pos rfl] at h
  · rw [State.putRecord_mem, Mem.num_write_bytesOf hwf, num_resetRecord]
    cases w.sub.getLsbD 0 <;> rfl
  · rw [State.putRecord_mem, Mem.get_write_other hwf (by rw [bytesOf_length]; exact hx)]

end Sys2Proof.Claims
end

section
/-! PROOFS. The rounding modes (O25) and the floating-point instructions (O22). -/

namespace Sys2Proof.Machine

/-- The direction of a rounding: up to the next integer. -/
def roundsUp (r : Rnd) (neg : Bool) (k rem unit : Nat) : Bool :=
  match r.mode with
  | 0 => rem * 2 > unit || (rem * 2 == unit && k % 2 == 1)
  | 1 => false
  | 2 => rem != 0 && !neg
  | 3 => rem != 0 && neg
  | _ => rem != 0 && r.draw * unit < rem * 2 ^ 32

theorem roundShift_eq (r : Rnd) (neg : Bool) (m n : Nat) :
    roundShift r neg m n =
      (if roundsUp r neg (m / 2 ^ n) (m % 2 ^ n) (2 ^ n) then m / 2 ^ n + 1 else m / 2 ^ n, m % 2 ^ n != 0) := rfl

theorem roundsUp_zero {r : Rnd} {neg : Bool} {k unit : Nat} (h : 0 < unit) : roundsUp r neg k 0 unit = false := by
  unfold roundsUp
  split
  · simp [h.ne]
  · rfl
  all_goals simp

/-- Round to nearest, ties to even, of k units and a rest. -/
theorem nearest_even {k rem unit : Nat} (hrem : rem < unit) :
    let r := if rem * 2 > unit || (rem * 2 == unit && k % 2 == 1) then k + 1 else k
    2 * (r * unit) ≤ 2 * (unit * k + rem) + unit ∧ 2 * (unit * k + rem) ≤ 2 * (r * unit) + unit ∧ (2 * rem = unit → r % 2 = 0) := by
  intro r
  have hcomm : k * unit = unit * k := Nat.mul_comm k unit
  rcases Nat.lt_trichotomy (rem * 2) unit with hlt | htie | hgt
  · have hr : r = k := by simp [r, Nat.ne_of_lt hlt, Nat.not_lt_of_lt hlt]
    rw [hr]
    omega
  · rcases Nat.mod_two_eq_zero_or_one k with hk | hk
    · have hr : r = k := by simp [r, htie, hk]
      rw [hr]
      omega
    · have hr : r = k + 1 := by simp [r, htie, hk]
      rw [hr, Nat.add_mul, Nat.one_mul]
      omega
  · have hr : r = k + 1 := by simp [r, hgt]
    rw [hr, Nat.add_mul, Nat.one_mul]
    omega

/-- Twice m, where it is an odd multiple of the unit, is a tie. -/
theorem tie_of_odd {m unit : Nat} (hrem : m % unit < unit) (hdvd : 2 * m % unit = 0) (hodd : 2 * m / unit % 2 = 1) : 2 * (m % unit) = unit := by
  have hm := Nat.div_add_mod m unit
  obtain ⟨q, hq⟩ := Nat.dvd_of_mod_eq_zero hdvd
  have hpos : 0 < unit := by omega
  rw [hq, Nat.mul_div_cancel_left q hpos] at hodd
  have hle : q = 2 * (m / unit) + 2 * (m % unit) / unit := by
    have : unit * q = unit * (2 * (m / unit)) + 2 * (m % unit) := by rw [Nat.mul_left_comm]; omega
    rw [← Nat.mul_div_cancel_left q hpos, this, Nat.mul_add_div hpos]
  have hone : 2 * (m % unit) / unit = 1 := by
    have hlt := Nat.div_lt_of_lt_mul (show 2 * (m % unit) < unit * 2 by omega)
    generalize 2 * (m % unit) / unit = carry at hle hlt ⊢
    omega
  have : unit * q = unit * (2 * (m / unit)) + unit * 1 := by rw [hle, hone, Nat.mul_add]
  have : unit * q = unit * (2 * (m / unit)) + 2 * (m % unit) := by rw [Nat.mul_left_comm]; omega
  omega

end Sys2Proof.Machine

open Sys2Proof.Machine in
/-- Settles O25. -/
theorem roundingModes : Obligations.RoundingModes := by
  unfold Obligations.RoundingModes
  intro r neg m n
  have hunit : 0 < 2 ^ n := Nat.two_pow_pos n
  have hrem : m % 2 ^ n < 2 ^ n := Nat.mod_lt m hunit
  have hm : 2 ^ n * (m / 2 ^ n) + m % 2 ^ n = m := Nat.div_add_mod m (2 ^ n)
  rw [roundShift_eq]
  refine ⟨?_, fun hdvd => ?_, ?_, fun hmode => ?_, fun hmode => ?_, fun hdvd => ?_⟩
  · rw [bne_iff_ne, Nat.dvd_iff_mod_eq_zero]
  · rw [Nat.mod_eq_zero_of_dvd hdvd, roundsUp_zero hunit]
    exact Nat.div_mul_cancel hdvd
  · split
    · exact .inr rfl
    · exact .inl rfl
  · have hnear := nearest_even (k := m / 2 ^ n) hrem
    rw [hm] at hnear
    obtain ⟨hle, hge, heven⟩ := hnear
    rw [roundsUp, hmode]
    exact ⟨hle, hge, fun hz hodd => heven (tie_of_odd hrem hz hodd)⟩
  · rw [roundsUp, hmode]
    rfl
  · have hne : (m % 2 ^ n != 0) = true := bne_iff_ne.mpr fun h => hdvd (Nat.dvd_of_mod_eq_zero h)
    refine ⟨fun hmode => ?_, fun hmode => ?_, fun hmode => ?_⟩ <;> rw [roundsUp, hmode, hne]
    · cases neg <;> rfl
    · cases neg <;> rfl
    · simp

/-! ### Instructions that round once -/

namespace Sys2Proof.Claims

open Sys2Proof.Machine

theorem afterRnd_eq_counted (c : Ctx) (code : Nat) : c.afterRnd code = counted code c := by
  unfold Ctx.afterRnd counted
  by_cases hcode : code = 4
  · rw [if_pos hcode, if_neg (not_not_intro hcode)]
    by_cases hwrap : c.srcnt + 1 = 2 ^ 32
    · rw [if_pos hwrap, hwrap]
      rfl
    · rw [if_neg hwrap, show (c.srcnt + 1 == 2 ^ 32) = false from beq_eq_false_iff_ne.mpr hwrap]
      exact orFlags_zero _
  · rw [if_neg hcode, if_pos hcode]

/-- runFlt in uniform class. -/
theorem runFlt_uniform {s : State} {c c' : Ctx} {h : Common} {dst : Operand} {srcs : List Operand} {k : SrcKind} {code : Nat} {sat nanovf : Bool}
    {op : Rnd → List Nat → Nat × Nat} {ext : Nat → Word} {g : Word} {xs : List Nat} (hu : h.lane = false) (hI : Issues s c h srcs g)
    (hfall : Falls s c) (h0 : g.getLsbD 0 = true) (hxs : srcs.mapM (fun o => readUni c k o) = .ok xs)
    (hw : writeVal s c dst (ext (op (rndFor s c code 0 sat nanovf) xs).1) = .ok c') :
    runFlt s h dst srcs k code sat nanovf op ext =
      .next (({ s := s, c := counted code (c'.orFlags (op (rndFor s c code 0 sat nanovf) xs).2) } : Done).finish c h) := by
  rw [runFlt, hu, if_neg Bool.false_ne_true]
  refine uni_ok ⟨⟨g, hI, h0⟩, hfall⟩ (by simp) ?_
  rw [try_bind_of_ok hxs, try_bind_of_ok hw, afterRnd_eq_counted]
  rfl

/-- runFlt in lane class. -/
theorem runFlt_lane {s : State} {c c' : Ctx} {h : Common} {dst : Operand} {srcs : List Operand} {k : SrcKind} {code : Nat} {sat nanovf : Bool}
    {op : Rnd → List Nat → Nat × Nat} {ext : Nat → Word} {g : Word} {ls : List (List Nat)} (hl : h.lane = true) (hI : Issues s c h srcs g)
    (hfall : Falls s c) (hls : srcs.mapM (fun o => readLane c k o) = .ok ls) {rs : List (Nat × Nat)}
    (hrs : rs = (List.range (2048 / k.width)).map fun e => op (rndFor s c code e sat nanovf) (ls.map fun l => l.getD e 0))
    (hw : writeElems s c dst k.width g (rs.map fun r => r.1) = .ok c') :
    runFlt s h dst srcs k code sat nanovf op ext =
      .next (({ s := s, c := counted code (c'.orFlags (laneFlags k.width g rs)) } : Done).finish c h) := by
  subst hrs
  rw [runFlt, hl, if_pos rfl]
  refine ins_ok hI hfall (by simp) ?_
  rw [try_bind_of_ok hls, try_bind_of_ok hw, afterRnd_eq_counted]
  rfl

theorem length_of_mapM {α β : Type} {f : α → Try β} : ∀ {l : List α} {ys : List β}, l.mapM f = .ok ys → ys.length = l.length
  | [], ys, h => by
    rw [List.mapM_nil] at h
    cases h
    rfl
  | x :: l, ys, h => by
    rw [List.mapM_cons] at h
    obtain ⟨y, hy, h⟩ := try_bind_eq_ok h
    obtain ⟨zs, hzs, h⟩ := try_bind_eq_ok h
    cases h
    rw [List.length_cons, List.length_cons, length_of_mapM hzs]

/-- An instruction whose run is runFlt rounds, where its operation agrees with the claim's on as many elements as it has sources. -/
theorem rounded_of_eq {i : Instr} {h : Common} {dst : Operand} {srcs : List Operand} {k : SrcKind} {code : Nat} {sat nanovf : Bool}
    {ext ext' : Nat → Word} {op f : Rnd → List Nat → Nat × Nat}
    (hexec : ∀ s, exec i s = runFlt s h dst srcs k code sat nanovf op ext) (hext : ext = ext')
    (hop : ∀ r l, l.length = srcs.length → op r l = f r l) : Rounded i h dst srcs k code sat nanovf ext' f := by
  subst hext
  intro _ s c g hI hfall
  refine ⟨fun hu h0 xs hxs c' hw => ?_, fun hl ls hls c' hw => ?_⟩
  · have hop' : op (rndFor s c code 0 sat nanovf) xs = f (rndFor s c code 0 sat nanovf) xs := hop _ _ (length_of_mapM hxs)
    rw [← hop'] at hw ⊢
    rw [Completes, hexec, runFlt_uniform hu hI hfall h0 hxs hw]
  · rw [Completes, hexec, runFlt_lane hl hI hfall hls (List.map_congr_left fun e _ => (hop _ _ ?_).symm) hw]
    rw [List.length_map, length_of_mapM hls]

theorem opF_eq_onceRounded (f : Fmt) (r : Rnd) (v : FV × Nat) : opF f r v = onceRounded f r v := rfl

theorem fvAt_map_decF (f : Fmt) (l : List Nat) : fvAt (l.map (decF f)) = fv f l := by
  funext k
  rw [fvAt, fv]
  split
  · next h => rw [List.getD_eq_getElem _ _ (by simpa using h), List.getElem_map, List.getD_eq_getElem _ _ h]
  · next h => rw [List.getD_eq_default _ _ (by simpa using h)]

/-- The arithmetic instructions round the value v of their operands once. -/
theorem rounded_of_runArith {i : Instr} {w : FormA} {srcs : List Operand} (v : Nat → (Nat → FV) → FV × Nat)
    (hexec : ∀ s, exec i s = runArith s w srcs fun m l => v m (fvAt l)) :
    Rounded i w.h w.dst srcs (.flt (fltOf w.typ)) w.opt (w.mod.getLsbD 3) false (BitVec.ofNat 64) fun r l =>
      onceRounded (fltOf w.typ) r (v r.mode (fv (fltOf w.typ) l)) :=
  rounded_of_eq (op := fun r l => opF (fltOf w.typ) r (v r.mode (fvAt (l.map (decF (fltOf w.typ)))))) hexec rfl
    fun r l _ => by rw [fvAt_map_decF, opF_eq_onceRounded]

end Sys2Proof.Claims

open Sys2Proof.Machine Sys2Proof.Claims in
/-- Settles O22. -/
theorem floatArithmetic : Obligations.FloatArithmetic := by
  unfold Obligations.FloatArithmetic
  intro w
  refine ⟨?_, ?_, ?_, ?_, ?_, ?_, ?_, ?_, ?_, ?_, ?_, ?_, ?_⟩
  · exact rounded_of_runArith (fun m x => addV m (x 0) (x 1)) (exec_fadd w)
  · exact rounded_of_runArith (fun m x => addV m (x 0) (x 1).neg) (exec_fsub w)
  · exact rounded_of_runArith (fun _ x => mulV (x 0) (x 1)) (exec_fmul w)
  · exact rounded_of_runArith (fun m x => fmaV m (x 0) (x 1) (x 2)) (exec_fma w)
  · exact rounded_of_runArith (fun m x => fmaV m (x 0) (x 1) (x 2).neg) (exec_fms w)
  · exact rounded_of_runArith (fun m x => fmaV m (x 0).neg (x 1) (x 2)) (exec_fnma w)
  · exact rounded_of_runArith (fun m x => fmaV m (x 0).neg (x 1) (x 2).neg) (exec_fnms w)
  · exact rounded_of_runArith (fun _ x => divV (x 0) (x 1)) (exec_fdiv w)
  · exact rounded_of_runArith (fun _ x => sqrtV (x 0)) (exec_fsqrt w)
  · exact rounded_of_runArith (fun _ x => divV (.num false 1 0) (x 0)) (exec_frcp w)
  · exact rounded_of_runArith (fun _ x => rsqV (x 0)) (exec_frsq w)
  · exact rounded_of_runArith (fun _ x => exp2V (x 0)) (exec_fexp2 w)
  · exact rounded_of_runArith (fun _ x => log2V (x 0)) (exec_flog2 w)
end

section
/-! PROOFS. The floating-point conversions (O27). -/

namespace Sys2Proof.Claims

open Sys2Proof.Machine

theorem sigFlag_one (v : FV) : sigFlag [v] = if v = .nan true then 1 else 0 := by
  cases v with
  | nan sig => cases sig <;> rfl
  | inf neg => rfl
  | num neg m e => rfl

theorem cvtF_eq_onceRounded (src dst : Fmt) (r : Rnd) (x : Nat) :
    cvtF src dst r x = onceRounded dst r (decF src x, if decF src x = .nan true then 1 else 0) := by
  rw [← sigFlag_one]
  rfl

theorem cvtPair_eq {n : Nat} (h : n < 4) : cvtPair n = [(fp16, bf16), (bf16, fp16), (e4m3, e5m2), (e5m2, e4m3)].getD n (fp16, bf16) := by
  interval_cases n <;> rfl

theorem packFmt_eq {n : Nat} (h : n < 4) : packFmt n = [fp16, bf16, e4m3, e5m2].getD n fp16 := by
  interval_cases n <;> rfl

theorem intCvtFmt_eq {n : Nat} (h : n < 4) : intCvtFmt n = [fp32, fp16, bf16].getD n bf16 := by
  interval_cases n <;> rfl

/-- What FCVTI makes of an exact value between bounds lo and hi (R67, R179). -/
def clamped (n : Nat) (lo hi : Int) (r : Rnd) : FV → Nat × Nat
  | .nan _ => (0, flagNV)
  | .inf neg => ((BitVec.ofInt n (if neg then lo else hi)).toNat, flagNV)
  | .num neg m e =>
    let k := scaleRound r neg m e
    let v : Int := if neg then -(k.1 : Int) else k.1
    if lo ≤ v ∧ v ≤ hi then ((BitVec.ofInt n v).toNat, if k.2 then flagNX else 0)
    else ((BitVec.ofInt n (max lo (min hi v))).toNat, flagNV)

/-- An integer brought between bounds, with NV where that changes it. -/
theorem wrap_clamp (n : Nat) {lo hi : Int} (hle : lo ≤ hi) (x : Int) (fl : Nat) :
    let y := if x < lo then (lo, flagNV) else if hi < x then (hi, flagNV) else (x, fl)
    (wrapTo n y.1, y.2) = if lo ≤ x ∧ x ≤ hi then ((BitVec.ofInt n x).toNat, fl) else ((BitVec.ofInt n (max lo (min hi x))).toNat, flagNV) := by
  intro y
  rw [wrapTo_eq_toNat]
  rcases lt_or_ge x lo with hlo | hlo
  · rw [if_neg (by omega), min_eq_right (by omega), max_eq_left (by omega), show y = _ from if_pos hlo]
  · have hy : y = if hi < x then (hi, flagNV) else (x, fl) := if_neg (by omega)
    rcases lt_or_ge hi x with hhi | hhi
    · rw [if_neg (by omega), min_eq_left (by omega), max_eq_right hle, hy, if_pos hhi]
    · rw [if_pos ⟨hlo, hhi⟩, hy, if_neg (by omega)]

theorem wrap_cvtToInt (n : Nat) {lo hi : Int} (hle : lo ≤ hi) (r : Rnd) (v : FV) :
    (wrapTo n (cvtToInt r lo hi v).1, (cvtToInt r lo hi v).2) = clamped n lo hi r v := by
  cases v with
  | nan sig => rw [wrapTo_eq_toNat]; simp [cvtToInt, clamped]
  | inf neg => rw [wrapTo_eq_toNat]; rfl
  | num neg m e => exact wrap_clamp n hle _ _

/-- The bounds of the integers of n bits are in order. -/
theorem int_bounds_le (n : Nat) (u : Bool) :
    (if u = true then 0 else -(2 ^ (n - 1) : Int)) ≤ if u = true then 2 ^ n - 1 else 2 ^ (n - 1) - 1 := by
  have hfull : (0 : Int) < 2 ^ n := by positivity
  have hhalf : (0 : Int) < 2 ^ (n - 1) := by positivity
  cases u with
  | false => simp only [Bool.false_eq_true, if_false]; omega
  | true => simp only [if_true]; omega

theorem extendTo_eq (n : Nat) (zero : Bool) : extendTo n zero = fun x => widen n zero x :=
  funext fun _ => extendTo_eq_widen n zero _

theorem rounded_fcvt (w : FormA) :
    let p := [(fp16, bf16), (bf16, fp16), (e4m3, e5m2), (e5m2, e4m3)].getD (w.mod.toNat % 4) (fp16, bf16)
    Rounded (.fcvt w) w.h w.dst [w.a] (.flt p.1) w.opt (w.mod.getLsbD 2) (w.mod.getLsbD 3) (BitVec.ofNat 64) fun r l =>
      onceRounded p.2 r (decF p.1 (l.getD 0 0), if decF p.1 (l.getD 0 0) = .nan true then 1 else 0) := by
  intro p
  have hp : cvtPair (w.m % 4) = p := cvtPair_eq (Nat.mod_lt _ (by decide))
  refine rounded_of_eq (op := fun r l => cvtF p.1 p.2 r (l.getD 0 0)) (ext := zeroFill) (fun s => ?_) rfl fun r l _ => cvtF_eq_onceRounded _ _ _ _
  rw [exec_fcvt, execFcvt, hp]

section
variable (w : FormA) (f : Fmt) (hf : [fp32, fp16, bf16].getD (w.mod.toNat % 4) bf16 = f) (n : Nat)
  (hn : (if w.mod.getLsbD 2 = true then 64 else f.width) = n)
include hf hn

theorem rounded_fcvti :
    Rounded (.fcvti w) w.h w.dst [w.a] (.flt f) w.opt false false (fun x => widen n (w.mod.getLsbD 3) x) fun r l =>
      clamped n (if w.mod.getLsbD 3 = true then 0 else -(2 ^ (n - 1) : Int)) (if w.mod.getLsbD 3 = true then 2 ^ n - 1 else 2 ^ (n - 1) - 1) r
        (decF f (l.getD 0 0)) := by
  have hf' : intCvtFmt (w.m % 4) = f := (intCvtFmt_eq (Nat.mod_lt _ (by decide))).trans hf
  refine rounded_of_eq (fun s => ?_) (extendTo_eq n (w.mod.getLsbD 3)) fun r l _ => wrap_cvtToInt n (int_bounds_le n _) r _
  rw [exec_fcvti, execFcvti, hf', hn]

theorem rounded_icvtf :
    Rounded (.icvtf w) w.h w.dst [w.a] (.int n) w.opt false false (BitVec.ofNat 64) fun r l =>
      roundF f r (.num (value n (w.mod.getLsbD 3) (l.getD 0 0) < 0) (value n (w.mod.getLsbD 3) (l.getD 0 0)).natAbs 0) := by
  have hf' : intCvtFmt (w.m % 4) = f := (intCvtFmt_eq (Nat.mod_lt _ (by decide))).trans hf
  refine rounded_of_eq (op := fun r l => roundF f r (ofIntV (readInt n (w.mod.getLsbD 3) (l.getD 0 0)))) (ext := zeroFill) (fun s => ?_) rfl
    fun r l _ => by rw [readInt_eq_value, ofIntV]
  rw [exec_icvtf, execIcvtf, hf', hn]

end

theorem bitsOf_two (x lo : Nat) : bitsOf x (lo + 1) lo = x / 2 ^ lo % 4 := by
  rw [bitsOf, Nat.shiftRight_eq_div_pow, show lo + 1 + 1 - lo = 2 by omega]
  rfl

theorem bitsOf_one (w : FormA) (k : Nat) : bitsOf w.m k k = if w.mod.getLsbD k = true then 1 else 0 := by
  rw [bitsOf, Nat.shiftRight_eq_div_pow, show k + 1 - k = 1 by omega, Nat.pow_one, BitVec.getLsbD, Nat.testBit_eq_decide_div_mod_eq]
  rcases Nat.mod_two_eq_zero_or_one (w.mod.toNat / 2 ^ k) with h | h
  · rw [FormA.m, h]
    rfl
  · rw [FormA.m, h]
    rfl

theorem packFmt_of_mod (w : FormA) : packFmt (bitsOf w.m 3 2) = [fp16, bf16, e4m3, e5m2].getD (w.mod.toNat / 4 % 4) fp16 := by
  rw [bitsOf_two w.m 2, packFmt_eq (Nat.mod_lt _ (by decide))]
  rfl

/-- The packed formats: their width, and which of them the option of FPACK saturates. -/
theorem packed_cases (k : Nat) (o : Bool) :
    let f := [fp16, bf16, e4m3, e5m2].getD (k % 4) fp16
    (f.width = 8 ∨ f.width = 16) ∧ (o && f.width != 8 || o && f == e5m2) = (o && f != e4m3) := by
  have h : k % 4 < 4 := Nat.mod_lt _ (by decide)
  interval_cases k % 4 <;> cases o <;> decide

section
variable {w : FormA} {s : State} {c c' : Ctx} {g : Word} {f : Fmt} {r : Nat → Rnd}
  (hf : [fp16, bf16, e4m3, e5m2].getD (w.mod.toNat / 4 % 4) fp16 = f)

/-- One element of FPACK in lane class. -/
def packElem (f : Fmt) (q : Nat) (r : Rnd) (xs ys old : List Nat) (e : Nat) : Nat × Nat :=
  if f.width = 16 then cvtF fp32 f r (if e % 2 = 0 then xs.getD (e / 2) 0 else ys.getD (e / 2) 0)
  else if e % 4 / 2 = q then cvtF fp32 f r (if e % 2 = 0 then xs.getD (e / 4) 0 else ys.getD (e / 4) 0)
  else (old.getD e 0, 0)

theorem packElem_eq (hw : f.width = 8 ∨ f.width = 16) (q : Nat) (r : Rnd) (xs ys old : List Nat) (e : Nat) :
    (if f.width = 8 ∧ (if f.width = 8 then e % 4 / 2 else 0) ≠ q then (old.getD e 0, 0)
     else cvtF fp32 f r ((if e % 2 = 0 then xs else ys).getD (e / (32 / f.width)) 0)) = packElem f q r xs ys old e := by
  unfold packElem
  rcases hw with hw | hw
  · rw [hw, if_neg (by decide : ¬(8 : Nat) = 16), if_pos rfl]
    by_cases hq : e % 4 / 2 = q
    · rw [if_neg (by simp [hq]), if_pos hq]
      split <;> rfl
    · rw [if_pos ⟨rfl, hq⟩, if_neg hq]
  · rw [hw, if_neg (by simp), if_pos rfl]
    split <;> rfl

/-- How FPACK in lane class ends: the elements are written. -/
def writePacked (s : State) (c : Ctx) (w : FormA) (f : Fmt) (g : Word) (rs : List (Nat × Nat)) : Try Done := do
  let c' ← writeElems s c w.dst f.width g (rs.map fun r => r.1)
  return { s := s, c := (c'.orFlags (laneFlags f.width g rs)).afterRnd w.opt }

include hf

theorem completes_fpack_lane (hr : ∀ j, r j = rndFor s c w.opt j (w.mod.getLsbD 0 && f != e4m3) (w.mod.getLsbD 0 && f == e4m3))
    (hI : Issues s c w.h [w.a, w.b] g) (hfall : Falls s c) (hl : w.h.lane = true) {xs ys old : List Nat}
    (hx : readLane c (.flt fp32) w.a = .ok xs) (hy : readLane c (.flt fp32) w.b = .ok ys) (hold : f.width = 8 → readElems c 8 w.dst = .ok old)
    {rs : List (Nat × Nat)}
    (hrs : rs = (List.range (2048 / f.width)).map fun e => packElem f (if w.mod.getLsbD 1 = true then 1 else 0) (r e) xs ys old e)
    (hw : writeElems s c w.dst f.width g (rs.map fun x => x.1) = .ok c') :
    Completes (.fpack w) s c w.h s (counted w.opt (c'.orFlags (laneFlags f.width g rs))) := by
  obtain ⟨hwidth, hsat⟩ := packed_cases (w.mod.toNat / 4) (w.mod.getLsbD 0)
  rw [hf] at hwidth hsat
  have helem : ∀ old', (f.width = 8 → old' = old) → (List.range (2048 / f.width)).map (fun e =>
      if f.width = 8 ∧ (if f.width = 8 then e % 4 / 2 else 0) ≠ (if w.mod.getLsbD 1 = true then 1 else 0) then (old'.getD e 0, 0)
      else cvtF fp32 f (rndFor s c w.opt e (w.mod.getLsbD 0 && f != e4m3) (w.mod.getLsbD 0 && f == e4m3))
        ((if e % 2 = 0 then xs else ys).getD (e / (32 / f.width)) 0)) = rs := fun old' heq => by
    rw [hrs]
    refine List.map_congr_left fun e _ => ?_
    rw [packElem_eq hwidth, ← hr]
    rcases hwidth with h8 | h16
    · rw [heq h8]
    · rw [packElem, packElem, if_pos h16, if_pos h16]
  have hdone : writePacked s c w f g rs = .ok { s := s, c := counted w.opt (c'.orFlags (laneFlags f.width g rs)) } := by
    rw [writePacked, try_bind_of_ok hw, afterRnd_eq_counted]
    rfl
  have hexec : exec (.fpack w) s = runInstr s w.h false [w.a, w.b] _ := (exec_fpack w s).trans (if_pos hl)
  refine completes_of_instr hexec hI hfall ?_
  rw [packFmt_of_mod, hf, hsat, bitsOf_one, try_bind_of_ok hx, try_bind_of_ok hy]
  by_cases h8 : f.width = 8
  · exact ((if_pos h8).trans (try_bind_of_ok (hold h8) _)).trans ((congrArg (writePacked s c w f g) (helem old fun _ => rfl)).trans hdone)
  · exact (if_neg h8).trans ((congrArg (writePacked s c w f g) (helem [] fun h => absurd h h8)).trans hdone)

theorem completes_fpack_uniform (hr : r 0 = rndFor s c w.opt 0 (w.mod.getLsbD 0 && f != e4m3) (w.mod.getLsbD 0 && f == e4m3))
    (hF : Fires s c w.h [w.a]) (hu : w.h.lane = false) {x : Nat} (hx : readUni c (.flt fp32) w.a = .ok x)
    (hw : writeVal s c w.dst (BitVec.ofNat 64 (cvtF fp32 f (r 0) x).1) = .ok c') :
    Completes (.fpack w) s c w.h s (counted w.opt (c'.orFlags (cvtF fp32 f (r 0) x).2)) := by
  obtain ⟨-, hsat⟩ := packed_cases (w.mod.toNat / 4) (w.mod.getLsbD 0)
  rw [hf] at hsat
  have hexec : exec (.fpack w) s = runUniform s w.h false (some w.dst) [w.a] _ := (exec_fpack w s).trans (if_neg (by simp [hu]))
  rw [Completes, hexec]
  refine uni_ok hF (by simp) ?_
  rw [hr] at hw ⊢
  rw [packFmt_of_mod, hf, hsat, try_bind_of_ok hx]
  refine (try_bind_of_ok hw _).trans ?_
  rw [afterRnd_eq_counted]
  rfl

theorem completes_funpk_lane (hI : Issues s c w.h [w.a] g) (hfall : Falls s c) (hl : w.h.lane = true) {xs : List Nat}
    (hx : readLane c (.flt f) w.a = .ok xs) {rs : List (Nat × Nat)}
    (hrs : rs = (List.range 64).map fun i => cvtF f fp32 rne (xs.getD (32 / f.width * i + w.mod.toNat % 4) 0))
    (hw : writeElems s c w.dst 32 g (rs.map fun x => x.1) = .ok c') : Completes (.funpk w) s c w.h s (c'.orFlags (laneFlags 32 g rs)) := by
  have hexec : exec (.funpk w) s = runInstr s w.h false [w.a] _ := (exec_funpk w s).trans (if_pos hl)
  refine completes_of_instr hexec hI hfall ?_
  subst hrs
  rw [packFmt_of_mod, hf, try_bind_of_ok hx]
  exact (try_bind_of_ok hw _).trans rfl

theorem completes_funpk_uniform (hI : Issues s c w.h [w.a] g) (hfall : Falls s c) (hu : w.h.lane = false) (h0 : g.getLsbD 0 = true) {x : Nat}
    (hx : readUni c (.flt f) w.a = .ok x) (hw : writeVal s c w.dst (BitVec.ofNat 64 (cvtF f fp32 rne x).1) = .ok c') :
    Completes (.funpk w) s c w.h s (c'.orFlags (cvtF f fp32 rne x).2) := by
  have hexec : exec (.funpk w) s = runValue s w.h w.dst [w.a] _ := (exec_funpk w s).trans (if_neg (by simp [hu]))
  refine completes_of_value hexec hI h0 hfall (x := BitVec.ofNat 64 (cvtF f fp32 rne x).1) ?_ hw
  rw [packFmt_of_mod, hf, try_bind_of_ok hx]
  rfl

end

end Sys2Proof.Claims

open Sys2Proof.Machine Sys2Proof.Claims in
/-- Settles O27. -/
theorem conversions : Obligations.Conversions := by
  unfold Obligations.Conversions
  refine ⟨fun w => ⟨rounded_fcvt w, ?_, rounded_icvtf w _ rfl _ rfl⟩, fun w s c => ⟨fun _ g c' hI hfall hl xs ys old hx hy hold => ?_,
    fun _ c' hF hu x hx hw => ?_, fun _ g c' hI hfall => ⟨fun hl xs hx => ?_, fun hu h0 x hx hw => ?_⟩⟩⟩
  · convert rounded_fcvti w _ rfl _ rfl using 4 with r l
    cases decF _ _ <;> rfl
  · simp only [← cvtF_eq_onceRounded]
    exact fun hw => completes_fpack_lane rfl (fun _ => rfl) hI hfall hl hx hy hold rfl hw
  · simp only [← cvtF_eq_onceRounded] at hw ⊢
    exact completes_fpack_uniform (r := fun j => rndFor s c w.opt j _ _) rfl rfl hF hu hx hw
  · simp only [← cvtF_eq_onceRounded]
    exact fun hw => completes_funpk_lane rfl hI hfall hl hx rfl hw
  · simp only [← cvtF_eq_onceRounded] at hw ⊢
    exact completes_funpk_uniform rfl hI hfall hu h0 hx hw
end

section
/-! PROOFS. Exactness of the floating-point arithmetic before its rounding (O23), and dot products (O35). -/

namespace Sys2Proof.Claims

open Sys2Proof.Machine

/-! ### Values as rational numbers -/

/-- The sign of a rational value. -/
def signum (neg : Bool) : ℚ := if neg then -1 else 1

theorem signum_xor (a b : Bool) : signum (a != b) = signum a * signum b := by
  cases a <;> cases b <;> simp [signum]

theorem abs_signum (a : Bool) : |signum a| = 1 := by
  cases a <;> simp [signum]

theorem rat_num (neg : Bool) (m : Nat) (e : Int) : FV.rat (.num neg m e) = signum neg * (m : ℚ) * (2 : ℚ) ^ e := rfl

theorem eq_num_of_finite {v : FV} (h : FV.finite v = true) : ∃ neg m e, v = .num neg m e := by
  cases v with
  | num neg m e => exact ⟨neg, m, e, rfl⟩
  | nan _ => cases h
  | inf _ => cases h

theorem abs_rat_num (neg : Bool) (m : Nat) (e : Int) : |FV.rat (.num neg m e)| = (m : ℚ) * (2 : ℚ) ^ e := by
  rw [rat_num, abs_mul, abs_mul, abs_signum, one_mul, abs_of_nonneg (by positivity), abs_of_nonneg (by positivity)]

/-- A finite value is an integer multiple of every power of two not above its own. -/
theorem rat_eq_int_mul {neg : Bool} {m : Nat} {d e : Int} (h : e ≤ d) :
    FV.rat (.num neg m d) = ((FV.int e (.num neg m d) : ℤ) : ℚ) * (2 : ℚ) ^ e := by
  have hd : (2 : ℚ) ^ d = (2 : ℚ) ^ (d - e).toNat * (2 : ℚ) ^ e := by
    rw [← zpow_natCast, ← zpow_add₀ two_ne_zero, Int.toNat_of_nonneg (by omega), Int.sub_add_cancel]
  rw [rat_num, hd, FV.int, signum]
  cases neg <;> push_cast <;> ring

/-- An integer multiple of a power of two, as a value. -/
theorem rat_of_int (t e : Int) : FV.rat (.num (t < 0) t.natAbs e) = (t : ℚ) * (2 : ℚ) ^ e := by
  rw [rat_num, signum, Nat.cast_natAbs]
  rcases lt_or_ge t 0 with ht | ht
  · rw [if_pos (by simpa using ht), abs_of_neg ht]
    push_cast
    ring
  · rw [if_neg (by simpa using ht), abs_of_nonneg ht, one_mul]

theorem rat_zero (neg : Bool) (e : Int) : FV.rat (.num neg 0 e) = 0 := by
  rw [rat_num]
  simp

/-! ### Sum, product and fused product -/

theorem mulV_num (a b : Bool) (m n : Nat) (d k : Int) : mulV (.num a m d) (.num b n k) = (.num (a != b) (m * n) (d + k), 0) := rfl

theorem rat_mulV_num (a b : Bool) (m n : Nat) (d k : Int) :
    FV.rat (.num (a != b) (m * n) (d + k)) = FV.rat (.num a m d) * FV.rat (.num b n k) := by
  rw [rat_num, rat_num, rat_num, signum_xor, zpow_add₀ two_ne_zero]
  push_cast
  ring

/-- The sum of finite values is finite, exact and sets no flag. -/
theorem addV_num (mode : Nat) (a b : Bool) (m n : Nat) (d k : Int) :
    FV.finite (addV mode (.num a m d) (.num b n k)).1 = true ∧
    FV.rat (addV mode (.num a m d) (.num b n k)).1 = FV.rat (.num a m d) + FV.rat (.num b n k) ∧
    (addV mode (.num a m d) (.num b n k)).2 = 0 := by
  rw [addV]
  split
  · next hz =>
    obtain ⟨rfl, rfl⟩ := hz
    exact ⟨rfl, by simp only [rat_zero, add_zero], rfl⟩
  · next hz =>
    have hsum : FV.rat (.num a m d) + FV.rat (.num b n k) =
        ((FV.int (min d k) (.num a m d) + FV.int (min d k) (.num b n k) : ℤ) : ℚ) * (2 : ℚ) ^ min d k := by
      rw [rat_eq_int_mul (min_le_left d k), rat_eq_int_mul (min_le_right d k)]
      push_cast
      ring
    rw [hsum]
    dsimp only
    generalize FV.int (min d k) (.num a m d) + FV.int (min d k) (.num b n k) = t
    by_cases ht : t = 0
    · rw [if_pos ht, ht]
      exact ⟨rfl, by simp only [rat_zero, Int.cast_zero, zero_mul], rfl⟩
    · rw [if_neg ht]
      exact ⟨rfl, rat_of_int t _, rfl⟩

theorem fmaV_num (mode : Nat) (a b c : Bool) (m n p : Nat) (d k l : Int) :
    fmaV mode (.num a m d) (.num b n k) (.num c p l) =
      ((addV mode (.num (a != b) (m * n) (d + k)) (.num c p l)).1, 0 ||| (addV mode (.num (a != b) (m * n) (d + k)) (.num c p l)).2) := rfl

/-! ### Quotient -/

/-- The magnitude that a division keeps: q doubled, with a last bit for a rest. -/
def kept (q : Nat) (rest : Bool) : Nat := q * 2 + b2n rest

theorem kept_mod_two (q : Nat) (rest : Bool) : kept q rest % 2 = 0 ↔ rest = false := by
  cases rest <;> simp [kept, b2n]

/-- A magnitude kept from q with a rest lies strictly between the even neighbours 2 q and 2 q + 2 of its last bit. -/
theorem keeps_kept {neg rest : Bool} {q : Nat} {e : Int} {x : ℚ} {P : ℚ → Prop} (hP : P x)
    (hexact : rest = false → (q : ℚ) * (2 : ℚ) ^ (e + 1) = x)
    (hrest : rest = true → (q : ℚ) * (2 : ℚ) ^ (e + 1) < x ∧ x < ((q : ℚ) + 1) * (2 : ℚ) ^ (e + 1)) :
    Keeps (.num neg (kept q rest) e) P := by
  rw [zpow_add_one₀ two_ne_zero] at hexact hrest
  rw [Keeps]
  cases rest with
  | false =>
    rw [if_pos ((kept_mod_two q false).mpr rfl)]
    convert hP using 1
    rw [← hexact rfl, kept, b2n]
    push_cast
    simp
    ring
  | true =>
    rw [if_neg (fun h => Bool.false_ne_true ((kept_mod_two q true).mp h).symm)]
    obtain ⟨hlow, hhigh⟩ := hrest rfl
    have hkept : ((kept q true : ℕ) : ℚ) = 2 * (q : ℚ) + 1 := by
      rw [kept, b2n]
      push_cast
      simp
      ring
    rw [hkept]
    exact ⟨x, by linarith, by linarith, hP⟩

/-- A quotient of naturals: exact without a rest, and otherwise between its integer part and the next. -/
theorem div_bounds (a : Nat) {n : Nat} (hn : 0 < n) :
    ((a % n != 0) = false → ((a / n : ℕ) : ℚ) = (a : ℚ) / n) ∧
    ((a % n != 0) = true → ((a / n : ℕ) : ℚ) < (a : ℚ) / n ∧ (a : ℚ) / n < ((a / n : ℕ) : ℚ) + 1) := by
  have hn' : (0 : ℚ) < n := by exact_mod_cast hn
  have ha : (a : ℚ) = n * ((a / n : ℕ) : ℚ) + ((a % n : ℕ) : ℚ) := by exact_mod_cast (Nat.div_add_mod a n).symm
  have hlt : ((a % n : ℕ) : ℚ) < n := by exact_mod_cast Nat.mod_lt a hn
  refine ⟨fun h => ?_, fun h => ?_⟩
  · have hz : a % n = 0 := by simpa using h
    rw [eq_div_iff hn'.ne', ha, hz]
    push_cast
    ring
  · have hpos : (0 : ℚ) < ((a % n : ℕ) : ℚ) := by exact_mod_cast Nat.pos_of_ne_zero (by simpa using h)
    rw [lt_div_iff₀ hn', div_lt_iff₀ hn', ha]
    constructor <;> linarith

theorem divV_num {a b : Bool} {m n : Nat} {d k : Int} (hm : m ≠ 0) (hn : n ≠ 0) :
    divV (.num a m d) (.num b n k) =
      (.num (a != b) (kept (m * 2 ^ (128 + n.log2) / n) (m * 2 ^ (128 + n.log2) % n != 0)) (d - k - (128 + n.log2 : ℕ) - 1), 0) := by
  rw [divV, if_neg hn, if_neg hm]
  rfl

/-- The quotient that divV keeps is the exact one. -/
theorem keeps_divV {a b : Bool} {m n : Nat} {d k : Int} (hn : n ≠ 0) (sh : Nat) :
    Keeps (.num (a != b) (kept (m * 2 ^ sh / n) (m * 2 ^ sh % n != 0)) (d - k - sh - 1)) fun q =>
      q * |FV.rat (.num b n k)| = |FV.rat (.num a m d)| := by
  have hn' : (n : ℚ) ≠ 0 := Nat.cast_ne_zero.mpr hn
  have hpow : (0 : ℚ) < (2 : ℚ) ^ (d - k - sh) := by positivity
  obtain ⟨hexact, hrest⟩ := div_bounds (m * 2 ^ sh) (Nat.pos_of_ne_zero hn)
  refine keeps_kept (x := ((m * 2 ^ sh : ℕ) : ℚ) / n * (2 : ℚ) ^ (d - k - sh)) ?_ (fun h => ?_) (fun h => ?_)
  · rw [abs_rat_num, abs_rat_num, zpow_sub₀ two_ne_zero, zpow_sub₀ two_ne_zero, zpow_natCast]
    push_cast
    field_simp
  · rw [Int.sub_add_cancel, hexact h]
  · rw [Int.sub_add_cancel]
    obtain ⟨hlow, hhigh⟩ := hrest h
    exact ⟨mul_lt_mul_of_pos_right hlow hpow, mul_lt_mul_of_pos_right hhigh hpow⟩

/-! ### Square root -/

/-- Each step of the bitwise root keeps it at most the root, and the root below it plus twice the bit. -/
theorem isqrtFrom_bounds (n : Nat) : ∀ (k r : Nat), r * r ≤ n → n < (r + 2 ^ k) * (r + 2 ^ k) →
    isqrtFrom k n r * isqrtFrom k n r ≤ n ∧ n < (isqrtFrom k n r + 1) * (isqrtFrom k n r + 1)
  | 0, _, hlow, hhigh => ⟨hlow, hhigh⟩
  | k + 1, r, hlow, hhigh => by
    rw [isqrtFrom]
    by_cases ht : (r + 2 ^ k) * (r + 2 ^ k) ≤ n
    · rw [if_pos ht]
      refine isqrtFrom_bounds n k _ ht ?_
      rwa [Nat.add_assoc, ← Nat.two_mul, ← Nat.pow_succ']
    · rw [if_neg ht]
      exact isqrtFrom_bounds n k r hlow (Nat.lt_of_not_le ht)

theorem isqrt_bounds (n : Nat) : isqrt n * isqrt n ≤ n ∧ n < (isqrt n + 1) * (isqrt n + 1) := by
  refine isqrtFrom_bounds n _ 0 (Nat.zero_le n) ?_
  rw [Nat.zero_add, ← Nat.pow_add]
  exact lt_of_lt_of_le Nat.lt_log2_self (Nat.pow_le_pow_right (by decide) (by omega))

/-- The mantissa and the even exponent of which sqrtV takes the root. -/
def evenForm (m : Nat) (e : Int) : Nat × Int := if e % 2 = 0 then (m, e) else (m * 2, e - 1)

theorem evenForm_even (m : Nat) (e : Int) : (evenForm m e).2 % 2 = 0 := by
  unfold evenForm
  split
  · assumption
  · dsimp only
    omega

theorem evenForm_value (m : Nat) (e : Int) : ((evenForm m e).1 : ℚ) * (2 : ℚ) ^ (evenForm m e).2 = (m : ℚ) * (2 : ℚ) ^ e := by
  unfold evenForm
  split
  · rfl
  · rw [zpow_sub₀ two_ne_zero]
    push_cast
    field_simp

theorem sqrtV_num {m : Nat} {e : Int} (hm : m ≠ 0) :
    sqrtV (.num false m e) = (.num false
      (kept (isqrt ((evenForm m e).1 * 2 ^ 200)) (isqrt ((evenForm m e).1 * 2 ^ 200) * isqrt ((evenForm m e).1 * 2 ^ 200) != (evenForm m e).1 * 2 ^ 200))
      (((evenForm m e).2 - 200) / 2 - 1), 0) := by
  rw [sqrtV, if_neg hm, if_neg Bool.false_ne_true, evenForm]
  split <;> rfl

/-- The root that sqrtV keeps is the exact one: y is the value over 2 to the 2 k, and r its integer root. -/
theorem root_kept {y r : Nat} {k : Int} {x : ℚ} (hx : x = (y : ℚ) * ((2 : ℚ) ^ (k + 1) * (2 : ℚ) ^ (k + 1))) (hlow : r * r ≤ y)
    (hhigh : y < (r + 1) * (r + 1)) :
    if kept r (r * r != y) % 2 = 0 then ((kept r (r * r != y) : ℚ) * (2 : ℚ) ^ k) ^ 2 = x
    else (((kept r (r * r != y) : ℚ) - 1) * (2 : ℚ) ^ k) ^ 2 < x ∧ x < (((kept r (r * r != y) : ℚ) + 1) * (2 : ℚ) ^ k) ^ 2 := by
  have hpow : (0 : ℚ) < (2 : ℚ) ^ k * (2 : ℚ) ^ k := by positivity
  rw [zpow_add_one₀ two_ne_zero] at hx
  rcases Nat.eq_or_lt_of_le hlow with heq | hlt
  · have hrest : (r * r != y) = false := by simp [heq]
    have hr : (y : ℚ) = r * r := by exact_mod_cast heq.symm
    rw [hrest, if_pos ((kept_mod_two r false).mpr rfl), hx, kept, b2n, hr]
    push_cast
    simp
    ring
  · have hrest : (r * r != y) = true := by simp [Nat.ne_of_lt hlt]
    have hlow' : (r : ℚ) * r < y := by exact_mod_cast hlt
    have hhigh' : (y : ℚ) < (r + 1) * (r + 1) := by exact_mod_cast hhigh
    have hkept : ((kept r true : ℕ) : ℚ) = 2 * (r : ℚ) + 1 := by
      rw [kept, b2n]
      push_cast
      simp
      ring
    rw [hrest, if_neg (fun h => Bool.false_ne_true ((kept_mod_two r true).mp h).symm), hkept, hx]
    constructor
    · have := mul_lt_mul_of_pos_right hlow' hpow
      linarith
    · have := mul_lt_mul_of_pos_right hhigh' hpow
      linarith

end Sys2Proof.Claims

open Sys2Proof.Machine Sys2Proof.Claims in
/-- Settles O23. -/
theorem floatResultsAreExact : Obligations.FloatResultsAreExact := by
  unfold Obligations.FloatResultsAreExact
  refine ⟨fun mode x y z hx hy hz => ?_, fun x y hx hy hx0 hy0 => ?_, fun x hx hpos => ?_⟩
  · obtain ⟨a, m, d, rfl⟩ := eq_num_of_finite hx
    obtain ⟨b, n, k, rfl⟩ := eq_num_of_finite hy
    obtain ⟨c, p, l, rfl⟩ := eq_num_of_finite hz
    obtain ⟨hfin, hsum, hflags⟩ := addV_num mode a b m n d k
    obtain ⟨hfin', hsum', hflags'⟩ := addV_num mode (a != b) c (m * n) p (d + k) l
    rw [mulV_num, fmaV_num, ← rat_mulV_num]
    exact ⟨hfin, hsum, rfl, rfl, hfin', hsum', hflags, rfl, by rw [hflags']; rfl⟩
  · obtain ⟨a, m, d, rfl⟩ := eq_num_of_finite hx
    obtain ⟨b, n, k, rfl⟩ := eq_num_of_finite hy
    have hm : m ≠ 0 := fun h => hx0 (by rw [h, rat_zero])
    have hn : n ≠ 0 := fun h => hy0 (by rw [h, rat_zero])
    rw [divV_num hm hn]
    exact ⟨rfl, keeps_divV hn _, rfl⟩
  · obtain ⟨neg, m, e, rfl⟩ := eq_num_of_finite hx
    have hm : m ≠ 0 := fun h => hpos.ne' (by rw [h, rat_zero])
    have hneg : neg = false := by
      cases neg with
      | false => rfl
      | true =>
        have : (0 : ℚ) ≤ (m : ℚ) * (2 : ℚ) ^ e := by positivity
        rw [rat_num, signum, if_pos rfl] at hpos
        linarith
    subst hneg
    rw [sqrtV_num hm]
    refine ⟨rfl, rfl, _, _, rfl, root_kept ?_ (isqrt_bounds _).1 (isqrt_bounds _).2⟩
    have heven := evenForm_even m e
    rw [rat_num, signum, if_neg Bool.false_ne_true, one_mul, ← evenForm_value, ← zpow_add₀ two_ne_zero,
      show ((evenForm m e).2 - 200) / 2 - 1 + 1 + (((evenForm m e).2 - 200) / 2 - 1 + 1) = (evenForm m e).2 - (200 : ℕ) by omega,
      zpow_sub₀ two_ne_zero, zpow_natCast]
    push_cast
    field_simp
    norm_num
end

section
/-! PROOFS. Dot products (O35). -/

namespace Sys2Proof.Claims

open Sys2Proof.Machine

/-! ### Integers -/

theorem int_ofIntV (x : Int) : FV.int 0 (ofIntV x) = x := by
  rw [ofIntV, FV.int]
  rcases lt_or_ge x 0 with hx | hx
  · simp [hx, abs_of_neg hx]
  · simp [not_lt.mpr hx, abs_of_nonneg hx]

theorem foldl_add_int {α : Type} (f : α → Int) : ∀ (l : List α) (a : Int), l.foldl (fun a p => a + f p) a = a + (l.map f).sum
  | [], a => by simp
  | p :: l, a => by rw [List.foldl_cons, foldl_add_int f l, List.map_cons, List.sum_cons, add_assoc]

theorem range_map_getD_eq_zip {α β : Type} (f : α → α → β) (d : α) : ∀ (xs ys : List α), xs.length = ys.length →
    (List.range xs.length).map (fun i => f (xs.getD i d) (ys.getD i d)) = (xs.zip ys).map fun p => f p.1 p.2
  | [], [], _ => rfl
  | x :: xs, y :: ys, h => by
    rw [List.length_cons, List.range_succ_eq_map, List.map_cons, List.map_map, List.zip_cons_cons, List.map_cons,
      ← range_map_getD_eq_zip f d xs ys (Nat.succ.inj h)]
    rfl

/-- The integer dot product of numbers is their exact sum with the accumulator, wrapped. -/
theorem dotI_ofIntV (acc : Nat) (xs ys : List (BitVec 8)) (h : xs.length = ys.length) :
    let sum := (BitVec.ofNat 32 acc).toInt + ((List.range xs.length).map fun i => (xs.getD i 0).toInt * (ys.getD i 0).toInt).sum
    dotI acc (xs.map fun x => ofIntV x.toInt) (ys.map fun x => ofIntV x.toInt) =
      (wrapTo 32 sum, flagIf (signedOf 32 (wrapTo 32 sum) != sum) flagIOV) := by
  intro sum
  have hsum : ((xs.map fun x => ofIntV x.toInt).zip (ys.map fun x => ofIntV x.toInt)).foldl (fun a p => a + p.1.int 0 * p.2.int 0)
      (signedOf 32 acc) = sum := by
    rw [foldl_add_int, List.zip_map, List.map_map, signedOf_eq_toInt]
    refine congrArg (_ + List.sum ·) ?_
    rw [range_map_getD_eq_zip (fun x y : BitVec 8 => x.toInt * y.toInt) 0 xs ys h]
    exact List.map_congr_left fun p _ => by simp only [Function.comp, Prod.map, int_ofIntV]
  rw [dotI, hsum]

/-- An integer changes when it is wrapped to 32 bits where it is outside their range. -/
theorem wrapped_ne_iff (v : Int) : (signedOf 32 (wrapTo 32 v) != v) = true ↔ v < -(2 ^ 31) ∨ 2 ^ 31 ≤ v := by
  rw [bne_iff_ne, wrapTo_eq_toNat, signedOf_toNat, BitVec.toInt_ofInt, Int.bmod_def]
  omega

theorem flagIf_eq_iff {b : Bool} {f : Nat} (hf : f ≠ 0) : flagIf b f = f ↔ b = true := by
  cases b with
  | false => simp [flagIf, hf.symm]
  | true => simp [flagIf]

/-! ### Floating point -/

/-- The exact products of two lists of values. -/
def products (xs ys : List FV) : List FV := (xs.zip ys).map fun p => (mulV p.1 p.2).1

/-- Products added to an accumulator, rounded once: what dotF makes of its products (R309). -/
def addProducts (acc : Nat) (ps : List FV) : Nat × Nat :=
  let a := decF fp32 acc
  let pos := ps.any fun p => p.isInf && !p.sign
  let neg := ps.any fun p => p.isInf && p.sign
  if ps.any FV.isNan || (pos && neg) || a.isNan then (fp32.nan, flagNV)
  else if pos || neg then opF fp32 rne (addV 0 a (.inf neg))
  else opF fp32 rne (addV 0 a (.num ((sumExact ps).1 < 0) (sumExact ps).1.natAbs (sumExact ps).2))

theorem dotF_eq_addProducts (acc : Nat) (xs ys : List FV) : dotF acc xs ys = addProducts acc (products xs ys) := rfl

/-- The sum of products depends on no order. -/
theorem addProducts_perm (acc : Nat) {ps qs : List FV} (h : ps.Perm qs) : addProducts acc ps = addProducts acc qs := by
  have hmin : ps.foldl (fun a v => min a v.exp) 0 = qs.foldl (fun a v => min a v.exp) 0 :=
    h.foldl_eq' (fun x _ y _ a => min_right_comm a x.exp y.exp) 0
  have hsum : sumExact ps = sumExact qs := by
    rw [sumExact, sumExact, hmin]
    exact Prod.ext (h.foldl_eq' (fun x _ y _ a => add_right_comm a (x.int _) (y.int _)) 0) rfl
  rw [addProducts, addProducts, h.any_eq, h.any_eq, h.any_eq, hsum]

theorem products_map {α : Type} (f g : α → FV) (l : List α) : products (l.map f) (l.map g) = l.map fun p => (mulV (f p) (g p)).1 := by
  rw [products, List.zip_map', List.map_map]
  rfl

/-- The common exponent of finite values is at most that of each. -/
theorem foldl_min_le (ps : List FV) (a : Int) : ps.foldl (fun a v => min a v.exp) a ≤ a ∧ ∀ v ∈ ps, ps.foldl (fun a v => min a v.exp) a ≤ v.exp := by
  induction ps generalizing a with
  | nil => exact ⟨le_rfl, nofun⟩
  | cons v ps ih =>
    rw [List.foldl_cons]
    obtain ⟨hle, hall⟩ := ih (min a v.exp)
    refine ⟨hle.trans (min_le_left _ _), fun u hu => ?_⟩
    rcases List.mem_cons.mp hu with rfl | hu
    · exact hle.trans (min_le_right _ _)
    · exact hall u hu

section
variable {ps : List FV} (hfin : ∀ v ∈ ps, FV.finite v = true)
include hfin

theorem sum_int_mul (e : Int) (he : ∀ v ∈ ps, e ≤ v.exp) : ((ps.map (FV.int e)).sum : ℚ) * (2 : ℚ) ^ e = (ps.map FV.rat).sum := by
  induction ps with
  | nil => simp
  | cons v ps ih =>
    obtain ⟨neg, m, d, rfl⟩ := eq_num_of_finite (hfin v List.mem_cons_self)
    rw [List.map_cons, List.map_cons, List.sum_cons, List.sum_cons, rat_eq_int_mul (d := d) (he _ List.mem_cons_self), Int.cast_add, add_mul,
      ih (fun u hu => hfin u (List.mem_cons_of_mem _ hu)) fun u hu => he u (List.mem_cons_of_mem _ hu)]

/-- The exact sum of finite values. -/
theorem rat_sumExact : FV.rat (.num ((sumExact ps).1 < 0) (sumExact ps).1.natAbs (sumExact ps).2) = (ps.map FV.rat).sum := by
  rw [rat_of_int, ← sum_int_mul hfin _ (foldl_min_le ps 0).2]
  have : (sumExact ps).1 = (ps.map (FV.int (ps.foldl (fun a v => min a v.exp) 0))).sum := by
    rw [sumExact, foldl_add_int, zero_add]
  rw [this]
  rfl

theorem any_eq_false_of_finite (p : FV → Bool) (hp : ∀ v, FV.finite v = true → p v = false) : ps.any p = false := by
  rw [List.any_eq_false]
  exact fun v hv => by rw [hp v (hfin v hv)]; exact Bool.false_ne_true

theorem addProducts_of_finite {acc : Nat} (hacc : FV.finite (decF fp32 acc) = true) :
    addProducts acc ps = opF fp32 rne (addV 0 (decF fp32 acc) (.num ((sumExact ps).1 < 0) (sumExact ps).1.natAbs (sumExact ps).2)) := by
  have hnum : ∀ {v : FV}, FV.finite v = true → v.isNan = false ∧ v.isInf = false := fun h => by
    obtain ⟨neg, m, e, rfl⟩ := eq_num_of_finite h
    exact ⟨rfl, rfl⟩
  rw [addProducts, any_eq_false_of_finite hfin FV.isNan fun v hv => (hnum hv).1,
    any_eq_false_of_finite hfin (fun p => p.isInf && !p.sign) fun v hv => by rw [(hnum hv).2]; rfl,
    any_eq_false_of_finite hfin (fun p => p.isInf && p.sign) fun v hv => by rw [(hnum hv).2]; rfl, (hnum hacc).1]
  rfl

end

theorem finite_products {xs ys : List FV} (hfin : ∀ v ∈ xs ++ ys, FV.finite v = true) :
    (∀ v ∈ products xs ys, FV.finite v = true) ∧ (products xs ys).map FV.rat = (xs.zip ys).map fun p => FV.rat p.1 * FV.rat p.2 := by
  have hpair : ∀ p ∈ xs.zip ys, FV.finite (mulV p.1 p.2).1 = true ∧ FV.rat (mulV p.1 p.2).1 = FV.rat p.1 * FV.rat p.2 := fun p hp => by
    obtain ⟨hx, hy⟩ := List.of_mem_zip hp
    obtain ⟨a, m, d, ha⟩ := eq_num_of_finite (hfin p.1 (List.mem_append_left _ hx))
    obtain ⟨b, n, k, hb⟩ := eq_num_of_finite (hfin p.2 (List.mem_append_right _ hy))
    rw [ha, hb, mulV_num, ← rat_mulV_num]
    exact ⟨rfl, rfl⟩
  refine ⟨fun v hv => ?_, ?_⟩
  · obtain ⟨p, hp, rfl⟩ := List.mem_map.mp hv
    exact (hpair p hp).1
  · rw [products, List.map_map]
    exact List.map_congr_left fun p hp => (hpair p hp).2

end Sys2Proof.Claims

open Sys2Proof.Machine Sys2Proof.Claims in
/-- Settles O35. -/
theorem dotProducts : Obligations.DotProducts := by
  unfold Obligations.DotProducts
  refine ⟨fun acc xs ys h => ?_, fun acc xs ys _ hfin hacc => ?_, fun acc ps qs h => ?_⟩
  · simp only [dotI_ofIntV acc xs ys h]
    exact ⟨wrapTo_eq_toNat 32 _, (flagIf_eq_iff (by decide)).trans (wrapped_ne_iff _)⟩
  · obtain ⟨hprod, hrat⟩ := finite_products hfin
    obtain ⟨a, m, d, hdec⟩ := eq_num_of_finite hacc
    obtain ⟨hsum, hvalue, -⟩ := addV_num 0 a _ m _ d _
    rw [dotF_eq_addProducts, addProducts_of_finite hprod hacc, hdec, ← hrat, ← rat_sumExact hprod]
    exact ⟨_, hsum, hvalue, rfl⟩
  · rw [dotF_eq_addProducts, dotF_eq_addProducts, products_map, products_map]
    exact addProducts_perm acc (h.map _)
end

section
/-! PROOFS. Moving vector elements (O29). -/

namespace Sys2Proof.Machine

/-! ### Elements of a source -/

@[simp] theorem length_splitElems (w x n : Nat) : (splitElems w x n).length = n := by simp [splitElems]

@[simp] theorem length_spread (w x n : Nat) : (spread w x n).length = n := List.length_replicate

/-- A source read as elements of w bits has as many as fit in a register. -/
theorem length_readElems {c : Ctx} {w : Nat} {o : Operand} {xs : List Nat} (h : readElems c w o = .ok xs) : xs.length = 2048 / w := by
  unfold readElems at h
  split at h
  case h_3 =>
    split at h
    · obtain rfl := Except.ok.inj h
      exact length_splitElems _ _ _
    · obtain rfl := Except.ok.inj h
      exact length_spread _ _ _
    · cases h
  case h_4 =>
    obtain rfl := Except.ok.inj h
    exact length_spread _ _ _
  all_goals
    obtain ⟨x, -, h⟩ := try_bind_eq_ok h
    obtain rfl := Except.ok.inj h
    simp

theorem zipIdx_eq_range_map (xs : List Nat) : xs.zipIdx = (List.range xs.length).map fun i => (xs.getD i 0, i) := by
  refine List.ext_getElem (by simp) fun i h _ => ?_
  have hi : i < xs.length := by simpa using h
  rw [List.getElem_zipIdx, List.getElem_map, List.getElem_range, List.getD_eq_getElem _ _ hi, Nat.zero_add]

theorem selectElems_eq (w : Nat) (m : Word) (xs : List Nat) :
    selectElems w m xs = (List.range xs.length).map fun e => if m.getLsbD (e / (32 / w)) then some (xs.getD e 0) else none := by
  rw [selectElems, zipIdx_eq_range_map, List.map_map]
  rfl

theorem filterMap_ite {α β : Type} (p : α → Bool) (f : α → β) :
    ∀ l : List α, (l.filterMap fun i => if p i = true then some (f i) else none) = (l.filter p).map f
  | [] => rfl
  | a :: l => by
    have ih := filterMap_ite p f l
    cases h : p a <;> simp [h, ih]

/-! ### Moving lanes under a mask -/

/-- The lanes that a mask selects. -/
def lanesOf (m : Word) : List Nat := (List.range 64).filter fun i => m.getLsbD i

/-- The selected lanes below lane i. -/
def lanesBelow (m : Word) (i : Nat) : Nat := ((List.range i).filter fun j => m.getLsbD j).length

theorem lanesBelow_succ (m : Word) (i : Nat) : lanesBelow m (i + 1) = lanesBelow m i + if m.getLsbD i = true then 1 else 0 := by
  rw [lanesBelow, List.range_succ, List.filter_append, List.length_append, lanesBelow]
  cases h : m.getLsbD i <;> simp [h]

theorem popcount_eq_lanesBelow (m : Word) (i : Nat) : popcount i m.toNat = lanesBelow m i := by
  rw [popcount_eq_length_filter]
  rfl

theorem compressLanes_eq {m : Word} {xs : List Nat} (h : xs.length = 64) :
    compressLanes m xs = (List.range 64).map fun j => if j < (lanesOf m).length then xs.getD ((lanesOf m).getD j 0) 0 else 0 := by
  have hsel : (selectElems 32 m xs).filterMap id = (lanesOf m).map fun i => xs.getD i 0 := by
    rw [selectElems_eq, h, List.filterMap_map]
    simp only [Nat.div_self (show 0 < 32 by decide), Nat.div_one]
    exact filterMap_ite (fun e => m.getLsbD e) (fun i => xs.getD i 0) (List.range 64)
  have hle : (lanesOf m).length ≤ 64 :=
    (List.length_filter_le _ _).trans (List.length_range (n := 64)).le
  rw [compressLanes, hsel]
  refine List.ext_getElem (by simp; omega) fun j hj _ => ?_
  rw [List.getElem_map, List.getElem_range]
  by_cases hlt : j < (lanesOf m).length
  · rw [List.getElem_append_left (by simpa using hlt), List.getElem_map, if_pos hlt, List.getD_eq_getElem _ _ hlt]
  · rw [List.getElem_append_right (by simpa using hlt), List.getElem_replicate, if_neg hlt]

theorem expandLanes_eq (m : Word) (xs : List Nat) : ∀ n i : Nat, expandLanes m n i (xs.drop (lanesBelow m i)) =
    (List.range n).map fun j => if m.getLsbD (i + j) then xs.getD (lanesBelow m (i + j)) 0 else 0
  | 0, _ => rfl
  | n + 1, i => by
    have hnext := expandLanes_eq m xs n (i + 1)
    rw [lanesBelow_succ] at hnext
    have hrest : ((List.range n).map fun j => if m.getLsbD (i + (j + 1)) then xs.getD (lanesBelow m (i + (j + 1))) 0 else 0) =
        (List.range n).map fun j => if m.getLsbD (i + 1 + j) then xs.getD (lanesBelow m (i + 1 + j)) 0 else 0 :=
      List.map_congr_left fun j _ => by rw [show i + (j + 1) = i + 1 + j by omega]
    rw [expandLanes, List.range_succ_eq_map, List.map_cons, List.map_map, Nat.add_zero]
    refine Eq.trans ?_ (congrArg _ hrest.symm)
    cases h : m.getLsbD i with
    | true =>
      rw [h, if_pos rfl] at hnext
      rw [if_pos rfl, if_pos rfl, List.drop_drop, hnext, List.headD_eq_head?_getD, List.head?_drop, List.getD_eq_getElem?_getD]
      rfl
    | false =>
      simp only [h, Bool.false_eq_true, if_false, Nat.add_zero] at hnext
      rw [if_neg Bool.false_ne_true, if_neg Bool.false_ne_true, hnext]

end Sys2Proof.Machine

namespace Sys2Proof.Claims

open Sys2Proof.Machine

theorem vecWidth_eq (typ : Nat) : vecWidth typ = [16, 32, 16, 8, 32, 16, 16].getD typ 16 := by
  rcases Nat.lt_or_ge typ 7 with h | h
  · interval_cases typ <;> rfl
  · obtain ⟨k, rfl⟩ := Nat.exists_eq_add_of_le' h
    rfl

theorem writesLanes_of_runVec {i : Instr} {w : FormA} {n : Nat} {srcs : List Operand} {s : State} {c : Ctx} {xs : List Nat}
    {f : Ctx → Try (List Nat)} (hexec : exec i s = runVec s w n srcs f) (hf : f c = .ok xs) : WritesLanes i w.h w.dst srcs n s c xs := by
  intro g hI hfall c' hw
  rw [Completes, hexec, runVec]
  refine ins_ok hI hfall (by simp) ?_
  rw [try_bind_of_ok hf, try_bind_of_ok hw]
  rfl

theorem writeRegs_of_ok {s : State} {c c' : Ctx} {first n : Nat} {g : Word} {vs : List (List Nat)} (hn : vs.length = n)
    (hw : writeRf s c (c.vloc first) (256 * n) (vs.zipIdx.flatMap fun v => enabledCells (c.vloc first + 256 * v.2) 32 g v.1) = .ok c') :
    writeRegs s c first g vs = .ok c'.clearLatch := by
  subst hn
  rw [writeRegs, try_bind_of_ok hw]
  rfl

section
variable {w : FormA} {s : State} {c c' : Ctx} {g : Word} {d k : Fin 48} {n : BitVec 8} (hI : Issues s c w.h [] g) (hfall : Falls s c)
  (hd : w.dst = .v d)
include hI hfall hd

theorem completes_vmovn (ha : w.a = .v k) (hb : w.b = .const n) {bs : List Byte} (hread : readRf c (c.vloc k) (256 * n.toNat) = .ok bs)
    {vs : List (List Nat)} (hvs : vs = (List.range n.toNat).map fun m => splitElems 32 (numOf ((bs.drop (256 * m)).take 256)) 64)
    (hw : writeRf s c (c.vloc d) (256 * n.toNat) (vs.zipIdx.flatMap fun v => enabledCells (c.vloc d + 256 * v.2) 32 g v.1) = .ok c') :
    Completes (.vmovn w) s c w.h s c'.clearLatch := by
  refine completes_of_instr (exec_vmovn w s) hI hfall ?_
  rw [hd, ha, hb]
  refine (try_bind_of_ok hread _).trans ?_
  subst hvs
  exact (try_bind_of_ok (writeRegs_of_ok (by simp) hw) _).trans rfl

theorem completes_vzero (ha : w.a = .const n)
    (hw : writeRf s c (c.vloc d) (256 * n.toNat)
      ((List.replicate n.toNat (List.replicate 64 0)).zipIdx.flatMap fun v => enabledCells (c.vloc d + 256 * v.2) 32 g v.1) = .ok c') :
    Completes (.vzero w) s c w.h s c'.clearLatch := by
  refine completes_of_instr (exec_vzero w s) hI hfall ?_
  rw [hd, ha]
  exact (try_bind_of_ok (writeRegs_of_ok (by simp) hw) _).trans rfl

end

end Sys2Proof.Claims

open Sys2Proof.Machine Sys2Proof.Claims in
/-- Settles O29. -/
theorem vectorMovement : Obligations.VectorMovement := by
  unfold Obligations.VectorMovement
  refine ⟨fun w s c => ?_, fun w s c c' g d k n hI hfall hd => ⟨fun bs vs ha hb hread hvs hw => completes_vmovn hI hfall hd ha hb hread hvs hw,
    fun ha hw => completes_vzero hI hfall hd ha hw⟩⟩
  rw [← vecWidth_eq]
  refine ⟨fun xs x hx hy _ => ?_, fun xs ys x hx hy hz _ => ?_, fun x y ds hx hy hd _ => ?_, fun xs ys hx hy => ⟨?_, fun ks hk => ?_⟩,
    fun xs ys ks hx hy hk _ => ?_, fun xs m hx hm => ⟨?_, ?_⟩, fun m hm => ?_⟩
  · refine writesLanes_of_runVec (exec_vbcast w s) ?_
    rw [try_bind_of_ok hx, try_bind_of_ok hy]
    rfl
  · refine writesLanes_of_runVec (exec_vext w s) ?_
    rw [try_bind_of_ok hx, try_bind_of_ok hy, try_bind_of_ok hz]
    rfl
  · refine writesLanes_of_runVec (exec_vins w s) ?_
    rw [try_bind_of_ok hx, try_bind_of_ok hy, try_bind_of_ok hd]
    rfl
  · refine writesLanes_of_runVec (exec_vperm w s) ?_
    rw [try_bind_of_ok hx, try_bind_of_ok hy]
    rfl
  · refine writesLanes_of_runVec (exec_vshuf w s) ?_
    rw [try_bind_of_ok hx, try_bind_of_ok hy, try_bind_of_ok hk]
    rfl
  · refine writesLanes_of_runVec (exec_vsel w s) ?_
    rw [try_bind_of_ok hx, try_bind_of_ok hy, try_bind_of_ok hk]
    simp only [ite_not]
    rfl
  · refine writesLanes_of_runVec (exec_vcprs w s) ?_
    rw [try_bind_of_ok hx, try_bind_of_ok hm, compressLanes_eq (length_readElems hx)]
    rfl
  · refine writesLanes_of_runVec (exec_vexpd w s) ?_
    have hexpand := expandLanes_eq m xs 64 0
    simp only [Nat.zero_add] at hexpand
    rw [try_bind_of_ok hx, try_bind_of_ok hm]
    exact congrArg Except.ok hexpand
  · refine writesLanes_of_runVec (exec_viota w s) ?_
    rw [try_bind_of_ok hm]
    simp only [popcount_eq_lanesBelow]
    rfl
end

section
/-! PROOFS. Reductions and scans of vectors (O28). -/

namespace Sys2Proof.Machine

/-! ### Folds -/

/-- A fold that picks one of two by an order picks from the first value and the list, and what it picks comes before all of them. -/
theorem foldl_pick {pick : Nat → Nat → Nat} {P : Nat → Prop} {R : Nat → Nat → Prop} (hrefl : ∀ a, R a a) (htrans : ∀ {a b c}, R a b → R b c → R a c)
    (hpick : ∀ a x, P a → P x → (pick a x = a ∨ pick a x = x) ∧ R (pick a x) a ∧ R (pick a x) x) :
    ∀ (l : List Nat) (a : Nat), P a → (∀ v ∈ l, P v) →
      (l.foldl pick a = a ∨ l.foldl pick a ∈ l) ∧ R (l.foldl pick a) a ∧ ∀ v ∈ l, R (l.foldl pick a) v
  | [], a, _, _ => ⟨.inl rfl, hrefl a, nofun⟩
  | x :: l, a, ha, hl => by
    have hx := hl x List.mem_cons_self
    obtain ⟨hone, hra, hrx⟩ := hpick a x ha hx
    have hpicked : P (pick a x) := by
      rcases hone with h | h <;> rw [h] <;> assumption
    obtain ⟨hfold, hfirst, hall⟩ := foldl_pick hrefl htrans hpick l (pick a x) hpicked fun v hv => hl v (List.mem_cons_of_mem _ hv)
    rw [List.foldl_cons]
    refine ⟨?_, htrans hfirst hra, fun v hv => ?_⟩
    · rcases hfold with h | h
      · rw [h]
        refine hone.imp_right fun h => ?_
        rw [h]
        exact List.mem_cons_self
      · exact .inr (List.mem_cons_of_mem _ h)
    · rcases List.mem_cons.mp hv with rfl | hv
      · exact htrans hfirst hrx
      · exact hall v hv

theorem foldl_sum_mod (m : Nat) : ∀ (l : List Nat) (a : Nat), l.foldl (fun x y => (x + y) % m) (a % m) = (a + l.sum) % m
  | [], a => by rw [List.foldl_nil, List.sum_nil, Nat.add_zero]
  | x :: l, a => by rw [List.foldl_cons, Nat.mod_add_mod, foldl_sum_mod m l, List.sum_cons, Nat.add_assoc]

theorem testBit_foldl_land (k : Nat) : ∀ (l : List Nat) (a : Nat), (l.foldl Nat.land a).testBit k = (a.testBit k && l.all fun v => v.testBit k)
  | [], a => by rw [List.foldl_nil, List.all_nil, Bool.and_true]
  | x :: l, a => by
    rw [List.foldl_cons, testBit_foldl_land k l, List.all_cons, ← Bool.and_assoc]
    exact congrArg (· && _) (Nat.testBit_and a x k)

theorem testBit_foldl_lor (k : Nat) : ∀ (l : List Nat) (a : Nat), (l.foldl Nat.lor a).testBit k = (a.testBit k || l.any fun v => v.testBit k)
  | [], a => by rw [List.foldl_nil, List.any_nil, Bool.or_false]
  | x :: l, a => by
    rw [List.foldl_cons, testBit_foldl_lor k l, List.any_cons, ← Bool.or_assoc]
    exact congrArg (· || _) (Nat.testBit_or a x k)

theorem testBit_foldl_xor (k : Nat) : ∀ (l : List Nat) (a : Nat),
    (l.foldl Nat.xor a).testBit k = (a.testBit k != decide ((l.filter fun v => v.testBit k).length % 2 = 1))
  | [], a => by simp
  | x :: l, a => by
    rw [List.foldl_cons, testBit_foldl_xor k l, show (Nat.xor a x).testBit k = (a.testBit k ^^ x.testBit k) from Nat.testBit_xor a x k,
      List.filter_cons]
    cases hx : x.testBit k with
    | false => simp
    | true =>
      rw [if_pos rfl, List.length_cons]
      rcases Nat.mod_two_eq_zero_or_one (l.filter fun v => v.testBit k).length with h | h
      · have hnext : ((l.filter fun v => v.testBit k).length + 1) % 2 = 1 := by omega
        cases a.testBit k <;> simp [h, hnext]
      · have hnext : ((l.filter fun v => v.testBit k).length + 1) % 2 = 0 := by omega
        cases a.testBit k <;> simp [h, hnext]

/-! ### Scans -/

/-- One step of a scan: the fold so far, if there is one, and its flags. -/
def scanStep (step : Nat → Nat → Nat × Nat) (s : Option Nat × Nat) (x : Option Nat) : Option Nat × Nat :=
  match s.1, x with
  | none, x => (x, s.2)
  | some a, none => (some a, s.2)
  | some a, some b => (some (step a b).1, Nat.lor s.2 (step a b).2)

theorem scanFold_cons (step : Nat → Nat → Nat × Nat) (x : Option Nat) (l : List (Option Nat)) (s : Option Nat × Nat) :
    scanFold step (x :: l) s.1 s.2 =
      ((scanStep step s x).1 :: (scanFold step l (scanStep step s x).1 (scanStep step s x).2).1,
        (scanFold step l (scanStep step s x).1 (scanStep step s x).2).2) := by
  obtain ⟨acc, f⟩ := s
  cases acc <;> cases x <;> rfl

/-- Position p of a scan is the fold up to it, and its flags those of the whole fold. -/
theorem scanFold_eq (step : Nat → Nat → Nat × Nat) : ∀ (l : List (Option Nat)) (s : Option Nat × Nat),
    (∀ p, p < l.length → (scanFold step l s.1 s.2).1[p]? = some ((l.take (p + 1)).foldl (scanStep step) s).1) ∧
    (scanFold step l s.1 s.2).2 = (l.foldl (scanStep step) s).2
  | [], s => ⟨nofun, rfl⟩
  | x :: l, s => by
    obtain ⟨hvals, hflags⟩ := scanFold_eq step l (scanStep step s x)
    rw [scanFold_cons]
    refine ⟨fun p hp => ?_, hflags⟩
    cases p with
    | zero => rfl
    | succ p => exact hvals p (Nat.lt_of_succ_lt_succ hp)

/-- The fold of a step from a value, with the flags of its steps. -/
def foldFlags (step : Nat → Nat → Nat × Nat) (a : Nat × Nat) (l : List Nat) : Nat × Nat :=
  l.foldl (fun a y => ((step a.1 y).1, a.2 ||| (step a.1 y).2)) a

theorem foldl_scanStep_some (step : Nat → Nat → Nat × Nat) : ∀ (l : List (Option Nat)) (a f : Nat),
    l.foldl (scanStep step) (some a, f) = (some (foldFlags step (a, f) (l.filterMap id)).1, (foldFlags step (a, f) (l.filterMap id)).2)
  | [], _, _ => rfl
  | none :: l, a, f => foldl_scanStep_some step l a f
  | some b :: l, a, f => foldl_scanStep_some step l (step a b).1 (Nat.lor f (step a b).2)

theorem foldFlags_fst (step : Nat → Nat → Nat × Nat) : ∀ (l : List Nat) (a : Nat × Nat),
    (foldFlags step a l).1 = l.foldl (fun x y => (step x y).1) a.1
  | [], _ => rfl
  | _ :: l, _ => foldFlags_fst step l _

/-- A scan from an identity: position p is the fold of what is selected up to it. -/
theorem scanFold_identity (step : Nat → Nat → Nat × Nat) (l : List (Option Nat)) (i p : Nat) (hp : p < l.length) :
    (((scanFold step (some i :: l) none 0).1.drop 1).map fun x => (x.getD 0, 0))[p]? =
      some (((l.take (p + 1)).filterMap id).foldl (fun x y => (step x y).1) i, 0) := by
  have hvals := (scanFold_eq step l (some i, 0)).1 p hp
  rw [foldl_scanStep_some, foldFlags_fst] at hvals
  rw [scanFold_cons step (some i) l (none, 0), List.drop_one, List.tail_cons, List.getElem?_map]
  exact congrArg (Option.map fun x : Option Nat => (x.getD 0, 0)) hvals

end Sys2Proof.Machine

namespace Sys2Proof.Claims

open Sys2Proof.Machine

theorem foldl_scanStep_none : ∀ l : List (Option Nat), l.foldl (scanStep add32) (none, 0) = prefixSums (l.filterMap id)
  | [] => rfl
  | none :: l => foldl_scanStep_none l
  | some a :: l => foldl_scanStep_some add32 l a 0

/-! ### Integer folds -/

/-- The integer fold of the selected elements. -/
theorem reduceAll_int (op n : Nat) (l : List (Option Nat)) : reduceAll 1 op n l = ((l.filterMap id).foldl (reduceInt op n) (identityInt op n), 0) := rfl

theorem scanAll_int (op n : Nat) (l : List (Option Nat)) : scanAll 1 op n l =
    (((scanFold (fun a b => (reduceInt op n a b, 0)) (some (identityInt op n) :: l) none 0).1.drop 1).map fun x => (x.getD 0, 0), 0) := rfl

/-- The value by which the extremes of a reduction compare n-bit elements. -/
def orderKey (unsigned : Bool) (n x : Nat) : Int := if unsigned then x else (BitVec.ofNat n x).toInt

/-- x comes before y in the order of a minimum, or of a maximum. -/
def before (unsigned isMax : Bool) (n x y : Nat) : Prop :=
  if isMax then orderKey unsigned n y ≤ orderKey unsigned n x else orderKey unsigned n x ≤ orderKey unsigned n y

theorem before_refl (unsigned isMax : Bool) (n x : Nat) : before unsigned isMax n x x := by
  cases isMax <;> exact le_rfl

theorem before_trans {unsigned isMax : Bool} {n x y z : Nat} (hxy : before unsigned isMax n x y) (hyz : before unsigned isMax n y z) :
    before unsigned isMax n x z := by
  cases isMax with
  | false => exact le_trans hxy hyz
  | true => exact le_trans hyz hxy

theorem minMaxInt_eq (unsigned isMax : Bool) (n x y : Nat) :
    minMaxInt unsigned isMax n x y = if decide (orderKey unsigned n x < orderKey unsigned n y) != isMax then x else y := by
  cases unsigned with
  | false => simp only [minMaxInt, orderKey, signedOf_eq_toInt, Bool.false_eq_true, if_false]
  | true => simp only [minMaxInt, orderKey, if_true, Nat.cast_lt]

theorem minMaxInt_picks (unsigned isMax : Bool) (n x y : Nat) :
    (minMaxInt unsigned isMax n x y = x ∨ minMaxInt unsigned isMax n x y = y) ∧
    before unsigned isMax n (minMaxInt unsigned isMax n x y) x ∧ before unsigned isMax n (minMaxInt unsigned isMax n x y) y := by
  rw [minMaxInt_eq]
  rcases lt_or_ge (orderKey unsigned n x) (orderKey unsigned n y) with h | h
  · cases isMax <;> simp [h, before, h.le]
  · cases isMax <;> simp [not_lt.mpr h, before, h]

theorem orderKey_inj {unsigned : Bool} {n x y : Nat} (hx : x < 2 ^ n) (hy : y < 2 ^ n) (h : orderKey unsigned n x = orderKey unsigned n y) : x = y := by
  cases unsigned with
  | true => exact Int.ofNat.inj h
  | false =>
    have := congrArg BitVec.toNat (BitVec.toInt_inj.mp h)
    rwa [BitVec.toNat_ofNat, BitVec.toNat_ofNat, Nat.mod_eq_of_lt hx, Nat.mod_eq_of_lt hy] at this

theorem eq_of_before {unsigned isMax : Bool} {n x y : Nat} (hx : x < 2 ^ n) (hy : y < 2 ^ n) (hxy : before unsigned isMax n x y)
    (hyx : before unsigned isMax n y x) : x = y := by
  cases isMax with
  | false => exact orderKey_inj hx hy (le_antisymm hxy hyx)
  | true => exact orderKey_inj hx hy (le_antisymm hyx hxy)

/-- The code of the reduction that takes an extreme. -/
def extremeOp (unsigned isMax : Bool) : Nat := (if unsigned then 3 else 1) + if isMax then 1 else 0

theorem reduceInt_extremeOp (unsigned isMax : Bool) (n : Nat) : reduceInt (extremeOp unsigned isMax) n = minMaxInt unsigned isMax n := by
  cases unsigned <;> cases isMax <;> rfl

/-- The identity of an extreme is a number of n bits that every other comes before. -/
theorem identity_last (unsigned isMax : Bool) {n v : Nat} (hn : 0 < n) (hv : v < 2 ^ n) :
    identityInt (extremeOp unsigned isMax) n < 2 ^ n ∧ before unsigned isMax n v (identityInt (extremeOp unsigned isMax) n) := by
  obtain ⟨n, rfl⟩ := Nat.exists_eq_succ_of_ne_zero hn.ne'
  have hpos : 0 < 2 ^ n := Nat.two_pow_pos n
  have hpow : (2 : Nat) ^ n.succ = 2 * 2 ^ n := Nat.pow_succ'
  have hlow := BitVec.le_two_mul_toInt (x := BitVec.ofNat n.succ v)
  have hhigh := BitVec.two_mul_toInt_lt (x := BitVec.ofNat n.succ v)
  have hcast : (2 : Int) ^ n.succ = 2 * ((2 ^ n : Nat) : Int) := by push_cast; exact pow_succ' 2 n
  rw [hcast] at hlow hhigh
  cases unsigned <;> cases isMax
  · have hid : (BitVec.ofNat n.succ (2 ^ n - 1)).toInt = ((2 ^ n : Nat) : Int) - 1 := by
      rw [BitVec.toInt_eq_toNat_of_lt] <;> rw [BitVec.toNat_ofNat, Nat.mod_eq_of_lt (by omega)] <;> omega
    refine ⟨show 2 ^ n - 1 < 2 ^ n.succ by omega, show (BitVec.ofNat n.succ v).toInt ≤ (BitVec.ofNat n.succ (2 ^ n - 1)).toInt from ?_⟩
    omega
  · have hid : (BitVec.ofNat n.succ (2 ^ n)).toInt = -((2 ^ n : Nat) : Int) := by
      rw [BitVec.toInt_eq_toNat_cond, BitVec.toNat_ofNat, Nat.mod_eq_of_lt (by omega), if_neg (by omega)]
      omega
    refine ⟨show 2 ^ n < 2 ^ n.succ by omega, show (BitVec.ofNat n.succ (2 ^ n)).toInt ≤ (BitVec.ofNat n.succ v).toInt from ?_⟩
    omega
  · exact ⟨show 2 ^ n.succ - 1 < 2 ^ n.succ by omega, show (v : Int) ≤ ((2 ^ n.succ - 1 : Nat) : Int) by omega⟩
  · exact ⟨show 0 < 2 ^ n.succ by omega, show ((0 : Nat) : Int) ≤ (v : Int) by omega⟩

section
variable {n : Nat} {l : List (Option Nat)} (hn : 0 < n) (hl : ∀ x ∈ l, ∀ v, x = some v → v < 2 ^ n)
include hn hl

omit hn in
theorem lt_of_mem_selected : ∀ v ∈ l.filterMap id, v < 2 ^ n := fun v hv => by
  obtain ⟨x, hx, hxv⟩ := List.mem_filterMap.mp hv
  exact hl x hx v hxv

/-- What an extreme of the selected elements is: one of them, before all of them in its order. -/
theorem reduceAll_extreme (unsigned isMax : Bool) :
    (∀ v ∈ l.filterMap id, before unsigned isMax n (reduceAll 1 (extremeOp unsigned isMax) n l).1 v) ∧
    (l.filterMap id ≠ [] → (reduceAll 1 (extremeOp unsigned isMax) n l).1 ∈ l.filterMap id) := by
  have hvs := lt_of_mem_selected hl
  have hid : identityInt (extremeOp unsigned isMax) n < 2 ^ n := (identity_last unsigned isMax hn (Nat.two_pow_pos n)).1
  obtain ⟨hone, hfirst, hall⟩ := foldl_pick (P := fun v => v < 2 ^ n) (before_refl unsigned isMax n) before_trans
    (fun a x _ _ => minMaxInt_picks unsigned isMax n a x) (l.filterMap id) _ hid hvs
  rw [reduceAll_int, reduceInt_extremeOp]
  refine ⟨hall, fun hne => ?_⟩
  rcases hone with heq | hmem
  case inr => exact hmem
  obtain ⟨v, hv⟩ := List.exists_mem_of_ne_nil _ hne
  have : identityInt (extremeOp unsigned isMax) n = v :=
    eq_of_before hid (hvs v hv) (heq ▸ hall v hv) (identity_last unsigned isMax hn (hvs v hv)).2
  rwa [heq, this]

end

section
variable {n : Nat} {l : List (Option Nat)}

/-- The integer folds of n-bit elements (R183). -/
theorem reduceAll_sum : (reduceAll 1 0 n l).1 = (l.filterMap id).sum % 2 ^ n := by
  have := foldl_sum_mod (2 ^ n) (l.filterMap id) 0
  rwa [Nat.zero_mod, Nat.zero_add] at this

theorem testBit_reduceAll_and (k : Nat) :
    (reduceAll 1 5 n l).1.testBit k = (decide (k < n) && (l.filterMap id).all fun v => v.testBit k) := by
  rw [← Nat.testBit_two_pow_sub_one]
  exact testBit_foldl_land k _ _

theorem testBit_reduceAll_or (k : Nat) : (reduceAll 1 6 n l).1.testBit k = (l.filterMap id).any fun v => v.testBit k :=
  (testBit_foldl_lor k _ 0).trans (by rw [Nat.zero_testBit, Bool.false_or])

theorem testBit_reduceAll_xor (k : Nat) :
    (reduceAll 1 7 n l).1.testBit k = decide (((l.filterMap id).filter fun v => v.testBit k).length % 2 = 1) :=
  (testBit_foldl_xor k _ 0).trans (by rw [Nat.zero_testBit, Bool.false_bne])

theorem scanAll_int_getElem? (op p : Nat) (hp : p < l.length) :
    (scanAll 1 op n l).1[p]? = some ((reduceAll 1 op n (l.take (p + 1))).1, 0) :=
  scanFold_identity (fun a b => (reduceInt op n a b, 0)) l (identityInt op n) p hp

end

theorem sle_iff_before (n x y : Nat) : (BitVec.ofNat n x).sle (BitVec.ofNat n y) = true ↔ before false false n x y := by
  rw [BitVec.sle_iff_toInt_le]
  rfl

theorem integerFolds {n : Nat} {l : List (Option Nat)} (hn : 0 < n) (hl : ∀ x ∈ l, ∀ v, x = some v → v < 2 ^ n) :
    let vs := l.filterMap id
    (∀ v ∈ vs, (reduceAll 1 3 n l).1 ≤ v ∧ v ≤ (reduceAll 1 4 n l).1) ∧
    (∀ v ∈ vs, (BitVec.ofNat n (reduceAll 1 1 n l).1).sle (BitVec.ofNat n v) = true ∧ (BitVec.ofNat n v).sle (BitVec.ofNat n (reduceAll 1 2 n l).1) = true) ∧
    (vs ≠ [] → ∀ op, op ∈ [1, 2, 3, 4] → (reduceAll 1 op n l).1 ∈ vs) := by
  obtain ⟨hmin, hminMem⟩ := reduceAll_extreme hn hl false false
  obtain ⟨hmax, hmaxMem⟩ := reduceAll_extreme hn hl false true
  obtain ⟨hminu, hminuMem⟩ := reduceAll_extreme hn hl true false
  obtain ⟨hmaxu, hmaxuMem⟩ := reduceAll_extreme hn hl true true
  refine ⟨fun v hv => ⟨Int.ofNat_le.mp (hminu v hv), Int.ofNat_le.mp (hmaxu v hv)⟩, fun v hv => ⟨?_, ?_⟩, fun hne op hop => ?_⟩
  · exact (sle_iff_before n _ v).mpr (hmin v hv)
  · exact (sle_iff_before n v _).mpr (hmax v hv)
  · fin_cases hop
    · exact hminMem hne
    · exact hmaxMem hne
    · exact hminuMem hne
    · exact hmaxuMem hne

/-! ### Sums of floating-point elements -/

/-- The rank tree from the top, over values with their flags. -/
def tree : Nat → List (Option Nat × Nat) → Option Nat × Nat
  | 0, l => l.headD (none, 0)
  | k + 1, l => combineOpt (tree k (l.take (2 ^ k))) (tree k (l.drop (2 ^ k)))

theorem length_pairUp : ∀ {k : Nat} {l : List (Option Nat × Nat)}, l.length = 2 * k → (pairUp l).length = k
  | 0, l, h => by
    obtain rfl := List.eq_nil_of_length_eq_zero h
    rfl
  | k + 1, a :: b :: l, h => by
    rw [pairUp, List.length_cons, length_pairUp (k := k) (by simpa [Nat.mul_add] using h)]
  | k + 1, [a], h => by simp at h; omega

theorem pairUp_take_drop : ∀ (k : Nat) (l : List (Option Nat × Nat)), 2 * k ≤ l.length →
    (pairUp l).take k = pairUp (l.take (2 * k)) ∧ (pairUp l).drop k = pairUp (l.drop (2 * k))
  | 0, l, _ => ⟨rfl, rfl⟩
  | k + 1, a :: b :: l, h => by
    obtain ⟨htake, hdrop⟩ := pairUp_take_drop k l (by simp at h; omega)
    rw [show 2 * (k + 1) = 2 * k + 1 + 1 by omega, List.take_succ_cons, List.take_succ_cons, List.drop_succ_cons, List.drop_succ_cons, pairUp, pairUp,
      List.take_succ_cons, List.drop_succ_cons, htake, hdrop]
    exact ⟨rfl, rfl⟩
  | k + 1, [a], h => by simp at h; omega
  | k + 1, [], h => by simp at h

theorem tree_pairUp : ∀ (k : Nat) (l : List (Option Nat × Nat)), l.length = 2 ^ (k + 1) → tree (k + 1) l = tree k (pairUp l)
  | 0, [a, b], _ => rfl
  | k + 1, l, h => by
    have hpow : 2 ^ (k + 1) = 2 * 2 ^ k := Nat.pow_succ'
    have hlen : l.length = 2 ^ (k + 1) + 2 ^ (k + 1) := by rw [h, Nat.pow_succ]; omega
    obtain ⟨htake, hdrop⟩ := pairUp_take_drop (2 ^ k) l (by omega)
    rw [tree, tree_pairUp k _ (by rw [List.length_take]; omega), tree_pairUp k _ (by rw [List.length_drop]; omega), tree, htake, hdrop, hpow]

/-- The levels of the rank tree leave its root. -/
theorem treeLevels_eq : ∀ (k : Nat) (l : List (Option Nat × Nat)), l.length = 2 ^ k → treeLevels k l = [tree k l]
  | 0, [a], _ => rfl
  | k + 1, l, h => by
    rw [treeLevels, treeLevels_eq k _ (length_pairUp (by rw [h, Nat.pow_succ']))]
    exact congrArg (fun x => [x]) (tree_pairUp k l h).symm

theorem combineOpt_eq_node (k : Nat) (l : List (Option Nat)) :
    combineOpt (node k (l.take (2 ^ k))) (node k (l.drop (2 ^ k))) = node (k + 1) l := by
  rw [node]
  rcases node k (l.take (2 ^ k)) with ⟨_ | x, f⟩ <;> rcases node k (l.drop (2 ^ k)) with ⟨_ | y, g⟩ <;> rfl

/-- The tree over terms without flags is the claim's. -/
theorem tree_map : ∀ (k : Nat) (l : List (Option Nat)), tree k (l.map fun t => (t, 0)) = node k l
  | 0, l => by cases l <;> rfl
  | k + 1, l => by rw [tree, ← List.map_take, ← List.map_drop, tree_map k, tree_map k, combineOpt_eq_node]

theorem node_none : ∀ (k n : Nat), node k (List.replicate n none) = (none, 0)
  | 0, n => by cases n <;> rfl
  | k + 1, n => by rw [← combineOpt_eq_node, List.take_replicate, List.drop_replicate, node_none k, node_none k]; rfl

/-- Absent terms behind the others change nothing. -/
theorem node_append_none {k : Nat} {l : List (Option Nat)} (h : l.length = 2 ^ k) (n : Nat) :
    node (k + 1) (l ++ List.replicate n none) = node k l := by
  rw [← combineOpt_eq_node, List.take_left' h, List.drop_left' h, node_none]
  rcases node k l with ⟨_ | x, f⟩
  · simp [combineOpt]
  · simp [combineOpt]

theorem rankTree_eq {k : Nat} {l : List (Option Nat)} (h : l.length = 2 ^ k) : rankTree l = ((node k l).1.getD 0, (node k l).2) := by
  have hlog : Nat.log2 (2 * l.length) = k + 1 := by rw [h, ← Nat.pow_succ', Nat.log2_two_pow]
  have hpad : (l ++ List.replicate (2 ^ (k + 1) - l.length) none).length = 2 ^ (k + 1) := by
    rw [List.length_append, List.length_replicate, h, Nat.pow_succ]
    omega
  rw [rankTree, hlog, treeLevels_eq (k + 1) _ (by rw [List.length_map]; exact hpad), tree_map, node_append_none h]

/-! ### Extremes of floating-point elements -/

/-- Where a value that is no NaN stands among the others. -/
def orderOf : FV → WithBot (WithTop ℚ)
  | .nan _ => ⊥
  | .inf true => ⊥
  | .inf false => ((⊤ : WithTop ℚ) : WithBot (WithTop ℚ))
  | .num n m e => ((FV.rat (.num n m e) : WithTop ℚ) : WithBot (WithTop ℚ))

theorem ltV_num (a b : Bool) (m n : Nat) (d k : Int) :
    ltV (.num a m d) (.num b n k) = decide (FV.rat (.num a m d) < FV.rat (.num b n k)) := by
  have hpow : (0 : ℚ) < (2 : ℚ) ^ min d k := by positivity
  rw [rat_eq_int_mul (min_le_left d k), rat_eq_int_mul (min_le_right d k), ltV]
  exact decide_eq_decide.mpr (by rw [mul_lt_mul_iff_left₀ hpow, Int.cast_lt])

theorem ltV_eq {x y : FV} (hx : x.isNan = false) (hy : y.isNan = false) : ltV x y = decide (orderOf x < orderOf y) := by
  rcases x with _ | a | ⟨a, m, d⟩
  · cases hx
  · rcases y with _ | b | ⟨b, n, k⟩
    · cases hy
    · cases a <;> cases b <;> simp [ltV, orderOf]
    · cases a <;> simp [ltV, orderOf]
  · rcases y with _ | b | ⟨b, n, k⟩
    · cases hy
    · cases b with
      | false => exact (decide_eq_true (WithBot.coe_lt_coe.mpr (WithTop.coe_lt_top _))).symm
      | true => simp [ltV, orderOf]
    · rw [ltV_num]
      exact decide_eq_decide.mpr (by rw [orderOf, orderOf, WithBot.coe_lt_coe, WithTop.coe_lt_coe])

theorem orderOf_zero {x y : FV} (hx : x.isZero = true) (hy : y.isZero = true) : orderOf x = orderOf y := by
  rcases x with _ | _ | ⟨a, m, d⟩ <;> rcases y with _ | _ | ⟨b, n, k⟩ <;> simp [FV.isZero] at hx hy
  subst hx hy
  simp only [orderOf, rat_zero]

/-- Code x comes before code y in the order of FMIN, or of FMAX. -/
def beforeF (f : Fmt) (isMax : Bool) (x y : Nat) : Prop :=
  if isMax then orderOf (decF f y) ≤ orderOf (decF f x) else orderOf (decF f x) ≤ orderOf (decF f y)

theorem beforeF_refl (f : Fmt) (isMax : Bool) (x : Nat) : beforeF f isMax x x := by
  cases isMax <;> exact le_rfl

theorem beforeF_trans {f : Fmt} {isMax : Bool} {x y z : Nat} (hxy : beforeF f isMax x y) (hyz : beforeF f isMax y z) : beforeF f isMax x z := by
  cases isMax with
  | false => exact le_trans hxy hyz
  | true => exact le_trans hyz hxy

/-- The pick of FMIN or FMAX of two codes that are no NaN. -/
theorem minMaxF_picks {f : Fmt} (isMax : Bool) {x y : Nat} (hx : (decF f x).isNan = false) (hy : (decF f y).isNan = false) :
    ((minMaxF f isMax x y).1 = x ∨ (minMaxF f isMax x y).1 = y) ∧
    beforeF f isMax (minMaxF f isMax x y).1 x ∧ beforeF f isMax (minMaxF f isMax x y).1 y := by
  have hpick : (minMaxF f isMax x y).1 =
      if (ltV (decF f x) (decF f y) || ((decF f x).isZero && (decF f y).isZero && (decF f x).sign && !(decF f y).sign)) != isMax then x else y := by
    rw [minMaxF, hx, hy]
    rfl
  have hless : ∀ {tie : Bool}, (tie = true → orderOf (decF f x) = orderOf (decF f y)) →
      ((ltV (decF f x) (decF f y) || tie) = true → orderOf (decF f x) ≤ orderOf (decF f y)) ∧
      ((ltV (decF f x) (decF f y) || tie) = false → orderOf (decF f y) ≤ orderOf (decF f x)) := fun {tie} htie => by
    rw [ltV_eq hx hy]
    refine ⟨fun h => ?_, fun h => ?_⟩
    · rcases Bool.or_eq_true_iff.mp h with h | h
      · exact (of_decide_eq_true h).le
      · exact (htie h).le
    · exact not_lt.mp (of_decide_eq_false (Bool.or_eq_false_iff.mp h).1)
  obtain ⟨htrue, hfalse⟩ := hless (tie := (decF f x).isZero && (decF f y).isZero && (decF f x).sign && !(decF f y).sign) fun h => by
    simp only [Bool.and_eq_true] at h
    exact orderOf_zero h.1.1.1 h.1.1.2
  rw [hpick]
  generalize (ltV (decF f x) (decF f y) || ((decF f x).isZero && (decF f y).isZero && (decF f x).sign && !(decF f y).sign)) = less at htrue hfalse
  cases less with
  | true => cases isMax <;> simp [beforeF, htrue rfl]
  | false => cases isMax <;> simp [beforeF, hfalse rfl]

theorem minMaxF_nan {f : Fmt} (isMax : Bool) {x y : Nat} (h : (decF f x).isNan = true ∨ (decF f y).isNan = true) : (minMaxF f isMax x y).1 = f.nan := by
  have hor : ((decF f x).isNan || (decF f y).isNan) = true := Bool.or_eq_true_iff.mpr h
  rw [minMaxF, hor]
  rfl

/-- A NaN among the elements, or before them, makes the extreme the canonical NaN. -/
theorem foldl_minMaxF_nan {f : Fmt} (hnan : (decF f f.nan).isNan = true) (isMax : Bool) : ∀ (l : List Nat) (a : Nat),
    (a = f.nan ∨ ∃ v ∈ l, (decF f v).isNan = true) → l.foldl (fun a x => (minMaxF f isMax a x).1) a = f.nan
  | [], a, h => h.resolve_right (by simp)
  | x :: l, a, h => by
    rw [List.foldl_cons]
    by_cases hax : (decF f a).isNan = true ∨ (decF f x).isNan = true
    · exact foldl_minMaxF_nan hnan isMax l _ (.inl (minMaxF_nan isMax hax))
    · refine foldl_minMaxF_nan hnan isMax l _ (.inr ?_)
      rcases h with rfl | ⟨v, hv, hvn⟩
      · exact absurd (.inl hnan) hax
      · rcases List.mem_cons.mp hv with rfl | hv
        · exact absurd (.inr hvn) hax
        · exact ⟨v, hv, hvn⟩

theorem not_ltV_of_beforeF {f : Fmt} {x y : Nat} (hx : (decF f x).isNan = false) (hy : (decF f y).isNan = false)
    (h : orderOf (decF f x) ≤ orderOf (decF f y)) : ltV (decF f y) (decF f x) = false := by
  rw [ltV_eq hy hx]
  exact decide_eq_false (not_lt.mpr h)

/-! ### The element formats -/

/-- The float formats of vectors: their width, canonical NaN and the infinities with which their extremes begin. -/
theorem float_types {typ : Nat} (h : typ ∈ [4, 5, 6]) :
    4 ≤ typ ∧ (fltOf typ).width = vecWidth typ ∧ (vecWidth typ = 16 ∨ vecWidth typ = 32) ∧ (decF (fltOf typ) (fltOf typ).nan).isNan = true ∧
    decF (fltOf typ) (identityF (fltOf typ) 1) = .inf false ∧ decF (fltOf typ) (identityF (fltOf typ) 2) = .inf true := by
  fin_cases h <;> decide

theorem narrow_zero {typ : Nat} (h : typ ∈ [4, 5, 6]) : narrow32 (fltOf typ) 0 = (0, 0) := by
  fin_cases h <;> decide

/-- A value is a signalling NaN. -/
def signals : FV → Bool
  | .nan sig => sig
  | _ => false

theorem signals_iff (v : FV) : signals v = true ↔ v = .nan true := by
  rcases v with (_ | _) | _ | _ <;> simp [signals]

theorem sigFlag_eq (xs : List FV) : sigFlag xs = flagIf (xs.any signals) flagNV := rfl

theorem selectedSig_eq (f : Fmt) (l : List (Option Nat)) :
    selectedSig f l = if ∃ v ∈ l.filterMap id, decF f v = .nan true then flagNV else 0 := by
  rw [selectedSig, sigFlag_eq, List.any_map, flagIf]
  refine if_congr ?_ rfl rfl
  rw [List.any_eq_true]
  exact exists_congr fun v => and_congr_right fun _ => signals_iff _

section
variable {typ : Nat} (htyp : typ ∈ [4, 5, 6]) (l : List (Option Nat))
include htyp

theorem widen32_eq (x : Nat) :
    widen32 (fltOf typ) x = if vecWidth typ = 32 then x else (onceRounded fp32 rne (decF (fltOf typ) x, 0)).1 := by
  rw [widen32, (float_types htyp).2.1]
  rfl

theorem narrow32_eq (x : Nat) :
    narrow32 (fltOf typ) x = if vecWidth typ = 32 then (x, 0) else onceRounded (fltOf typ) rne (decF fp32 x, 0) := by
  rw [narrow32, (float_types htyp).2.1, onceRounded]
  exact if_congr Iff.rfl rfl (Prod.ext rfl (Nat.or_zero _).symm)

/-- An FP32 sum, or none, in the element format. -/
def narrowed (f : Fmt) (v : Option Nat) : Nat × Nat := v.elim (0, 0) (narrow32 f)

theorem narrow_getD (v : Option Nat) : narrow32 (fltOf typ) (v.getD 0) = narrowed (fltOf typ) v := by
  cases v with
  | none => exact narrow_zero htyp
  | some x => rfl

theorem reduceAll_sumF {k : Nat} (hlen : l.length = 2 ^ k) :
    let root := node k (l.map fun x => x.map (widen32 (fltOf typ)))
    reduceAll typ 0 (vecWidth typ) l =
      ((narrowed (fltOf typ) root.1).1, root.2 ||| (narrowed (fltOf typ) root.1).2 ||| selectedSig (fltOf typ) l) := by
  intro root
  rw [reduceAll, if_pos (float_types htyp).1, if_pos rfl, rankTree_eq (by rw [List.length_map]; exact hlen), ← narrow_getD htyp root.1]
  rfl

theorem scanAll_sumF : scanAll typ 0 (vecWidth typ) l =
    ((scanFold add32 (l.map fun x => x.map (widen32 (fltOf typ))) none 0).1.map (narrowed (fltOf typ)),
      (scanFold add32 (l.map fun x => x.map (widen32 (fltOf typ))) none 0).2 ||| selectedSig (fltOf typ) l) := by
  rw [scanAll, if_pos (float_types htyp).1, if_pos rfl]
  refine Prod.ext (List.map_congr_left fun x _ => ?_) rfl
  cases x <;> rfl

omit htyp in
theorem filterMap_map_widen (f : Nat → Nat) (l : List (Option Nat)) : (l.map fun x => x.map f).filterMap id = (l.filterMap id).map f := by
  rw [List.filterMap_map, List.map_filterMap]
  rfl

theorem scanAll_sumF_getElem? {p : Nat} (hp : p < l.length) : (scanAll typ 0 (vecWidth typ) l).1[p]? =
    some (narrowed (fltOf typ) (prefixSums (((l.take (p + 1)).filterMap id).map (widen32 (fltOf typ)))).1) := by
  rw [scanAll_sumF htyp, List.getElem?_map, (scanFold_eq add32 _ (none, 0)).1 p (by rw [List.length_map]; exact hp), foldl_scanStep_none,
    ← List.map_take, filterMap_map_widen]
  rfl

theorem scanAll_sumF_flags : (scanAll typ 0 (vecWidth typ) l).2 =
    (prefixSums ((l.filterMap id).map (widen32 (fltOf typ)))).2 ||| selectedSig (fltOf typ) l := by
  rw [scanAll_sumF htyp, (scanFold_eq add32 _ (none, 0)).2, foldl_scanStep_none, filterMap_map_widen]

section
variable {op : Nat} (hop : op = 1 ∨ op = 2)
include hop

theorem reduceAll_extremeF : reduceAll typ op (vecWidth typ) l =
    ((l.filterMap id).foldl (fun a x => (minMaxF (fltOf typ) (op == 2) a x).1) (identityF (fltOf typ) op), selectedSig (fltOf typ) l) := by
  rw [reduceAll, if_pos (float_types htyp).1, if_neg (by omega)]

theorem scanAll_extremeF : scanAll typ op (vecWidth typ) l =
    (((scanFold (fun a b => minMaxF (fltOf typ) (op == 2) a b) (some (identityF (fltOf typ) op) :: l) none 0).1.drop 1).map fun x => (x.getD 0, 0),
      selectedSig (fltOf typ) l) := by
  rw [scanAll, if_pos (float_types htyp).1, if_neg (by omega)]

theorem scanAll_extremeF_getElem? {p : Nat} (hp : p < l.length) :
    (scanAll typ op (vecWidth typ) l).1[p]? = some ((reduceAll typ op (vecWidth typ) (l.take (p + 1))).1, 0) := by
  rw [scanAll_extremeF htyp l hop, reduceAll_extremeF htyp _ hop]
  exact scanFold_identity _ l _ p hp

/-- What the floating-point extreme of elements without NaN is. -/
theorem extremeF_of_no_nan (h : ∀ v ∈ l.filterMap id, (decF (fltOf typ) v).isNan = false) :
    let r := (reduceAll typ op (vecWidth typ) l).1
    (r ∈ l.filterMap id ∨ decF (fltOf typ) r = .inf (op == 2)) ∧
    ∀ v ∈ l.filterMap id, (if op = 1 then ltV (decF (fltOf typ) v) (decF (fltOf typ) r)
      else ltV (decF (fltOf typ) r) (decF (fltOf typ) v)) = false := by
  intro r
  have hid : decF (fltOf typ) (identityF (fltOf typ) op) = .inf (op == 2) := by
    rcases hop with rfl | rfl
    · exact (float_types htyp).2.2.2.2.1
    · exact (float_types htyp).2.2.2.2.2
  obtain ⟨hone, -, hall⟩ := foldl_pick (P := fun v => (decF (fltOf typ) v).isNan = false) (beforeF_refl (fltOf typ) (op == 2)) beforeF_trans
    (fun a x ha hx => minMaxF_picks (op == 2) ha hx) (l.filterMap id) (identityF (fltOf typ) op) (by rw [hid]; rfl) h
  have hr : r = (l.filterMap id).foldl (fun a x => (minMaxF (fltOf typ) (op == 2) a x).1) (identityF (fltOf typ) op) :=
    congrArg Prod.fst (reduceAll_extremeF htyp l hop)
  rw [← hr] at hone hall
  have hrnan : (decF (fltOf typ) r).isNan = false := by
    rcases hone with heq | hmem
    · rw [heq, hid]
      rfl
    · exact h r hmem
  refine ⟨hone.symm.imp_right fun heq => by rw [heq, hid], fun v hv => ?_⟩
  rcases hop with rfl | rfl
  · exact not_ltV_of_beforeF hrnan (h v hv) (hall v hv)
  · exact not_ltV_of_beforeF (h v hv) hrnan (hall v hv)

end

end

/-! ### The instructions -/

/-- Elements written to a register that nothing holds. -/
theorem writeElems_of_free {s : State} {c : Ctx} {o : Operand} {a : Nat} (hloc : c.loc o = some a) (hfree : Free s c a 256) (n : Nat) (g : Word)
    (xs : List Nat) : ∃ d, writeElems s c o n g xs = .ok d := by
  rw [writeElems_of_loc s hloc, writeRf_ok hfree.1 hfree.2]
  exact ⟨_, rfl⟩

theorem vecWidth_mem (typ : Nat) : vecWidth typ ∈ [8, 16, 32] := by
  unfold vecWidth
  split <;> decide

theorem selectElems_of_read {c : Ctx} {n : Nat} {o : Operand} {xs : List Nat} (m : Word) (hn : n ∈ [8, 16, 32]) (h : readElems c n o = .ok xs) :
    selectElems n m xs = (List.range (2048 / n)).map fun e => if m.getLsbD (e * n / 32) then some (xs.getD e 0) else none := by
  rw [selectElems_eq, length_readElems h]
  simp only [div_eq_mul_div_of_width hn]

section
variable {w : FormA} {s : State} {c : Ctx} {xs : List Nat} {m g : Word} {d : Nat} {sel : List (Option Nat)}
  (hx : readElems c (vecWidth w.typ) w.a = .ok xs) (hm : readVal c w.b = .ok m) (hI : Issues s c w.h [w.a, w.b] g) (hfall : Falls s c)
  (hloc : c.loc w.dst = some d) (hfree : Free s c d 256) (hsel : selectElems (vecWidth w.typ) m xs = sel)
include hx hm hI hfall hloc hfree hsel

theorem completes_vredu : ∃ c', writeElems s c w.dst (vecWidth w.typ) g
      (List.replicate (2048 / vecWidth w.typ) (reduceAll w.typ w.opt (vecWidth w.typ) sel).1) = .ok c' ∧
    Completes (.vredu w) s c w.h s (c'.orFlags (reduceAll w.typ w.opt (vecWidth w.typ) sel).2) := by
  obtain ⟨c', hw⟩ := writeElems_of_free hloc hfree (vecWidth w.typ) g
    (List.replicate (2048 / vecWidth w.typ) (reduceAll w.typ w.opt (vecWidth w.typ) sel).1)
  refine ⟨c', hw, ?_⟩
  rw [Completes, exec_vredu, execVredu]
  refine ins_ok hI hfall (by simp) ?_
  rw [try_bind_of_ok hx, try_bind_of_ok hm, hsel]
  exact (try_bind_of_ok hw _).trans rfl

theorem completes_vscan :
    let r := scanAll w.typ w.opt (vecWidth w.typ) sel
    ∃ c', writeElems s c w.dst (vecWidth w.typ) g (r.1.map fun x => x.1) = .ok c' ∧
      Completes (.vscan w) s c w.h s (c'.orFlags (r.2 ||| laneFlags (vecWidth w.typ) g r.1)) := by
  intro r
  obtain ⟨c', hw⟩ := writeElems_of_free hloc hfree (vecWidth w.typ) g (r.1.map fun x => x.1)
  refine ⟨c', hw, ?_⟩
  rw [Completes, exec_vscan, execVscan]
  refine ins_ok hI hfall (by simp) ?_
  rw [try_bind_of_ok hx, try_bind_of_ok hm, hsel]
  exact (try_bind_of_ok hw _).trans rfl

end

end Sys2Proof.Claims

open Sys2Proof.Machine Sys2Proof.Claims in
/-- Settles O28. -/
theorem vectorReductions : Obligations.VectorReductions := by
  unfold Obligations.VectorReductions
  refine ⟨fun w s c xs m g d hx hm hI hfall hloc hfree => ?_, fun n l hn hl => ?_, fun typ htyp => ?_⟩
  · have hsel := selectElems_of_read m (vecWidth_mem w.typ) hx
    exact ⟨completes_vredu hx hm hI hfall hloc hfree hsel, completes_vscan hx hm hI hfall hloc hfree hsel⟩
  · obtain ⟨hunsigned, hsigned, hmem⟩ := integerFolds hn hl
    refine ⟨reduceAll_sum, hunsigned, testBit_reduceAll_and, testBit_reduceAll_or, hsigned, testBit_reduceAll_xor, hmem, fun hnil => ?_,
      fun op _ => ⟨rfl, rfl, fun p hp => scanAll_int_getElem? op p hp⟩⟩
    simp only [reduceAll_int, hnil]
    exact ⟨rfl, rfl, rfl, rfl⟩
  · extract_lets f n to32 back
    intro l hlen hl
    extract_lets vs nv root
    obtain ⟨-, -, hwidth, hnan, -, -⟩ := float_types htyp
    have hlog : l.length = 2 ^ Nat.log2 (2048 / n) := by
      rw [hlen]
      rcases hwidth with h | h <;> rw [show n = _ from h] <;> rfl
    have hto32 : to32 = widen32 f := funext fun x => (widen32_eq htyp x).symm
    have hback : back = narrowed f := funext fun v => by
      cases v with
      | none => rfl
      | some x => exact (narrow32_eq htyp x).symm
    have hnv : selectedSig f l = nv := selectedSig_eq f l
    have hroot : root = node (Nat.log2 (2048 / n)) (l.map fun x => x.map (widen32 f)) := by rw [← hto32]
    have hsum := reduceAll_sumF htyp l hlog
    rw [hto32, hback, ← hnv, hroot]
    refine ⟨(congrArg Prod.fst hsum).trans rfl, (congrArg Prod.snd hsum).trans rfl, fun p hp => scanAll_sumF_getElem? htyp l (hlen ▸ hp), scanAll_sumF_flags htyp l,
      fun op hop p hp => ⟨scanAll_extremeF_getElem? htyp l hop (hlen ▸ hp), congrArg Prod.snd (scanAll_extremeF htyp l hop),
        congrArg Prod.snd (reduceAll_extremeF htyp l hop)⟩, fun op hop => ⟨fun hex => ?_, extremeF_of_no_nan htyp l hop⟩⟩
    rw [reduceAll_extremeF htyp l hop]
    exact foldl_minMaxF_nan hnan _ _ _ (.inr hex)
end

section
/-! PROOFS. The matrix registers and the matrix instructions of the vector unit (O33, O34). -/

namespace Sys2Proof.Machine

theorem bitsOf_eq (x hi lo : Nat) : bitsOf x hi lo = x / 2 ^ lo % 2 ^ (hi + 1 - lo) := by
  rw [bitsOf, Nat.shiftRight_eq_div_pow]

/-- The upper half of a word. -/
theorem bitsOf_upper (x : Word) : bitsOf x.toNat 63 32 = x.toNat / 2 ^ 32 := by
  have := x.isLt
  rw [bitsOf_eq]
  omega

/-- Two checks that fault alike are one. -/
theorem require_bind_require {α : Type} (a b : Bool) (code : Nat) (k : Unit → Try α) :
    (require a code >>= fun _ => require b code >>= k) = require (a && b) code >>= k := by
  cases a <;> rfl

end Sys2Proof.Machine

namespace Sys2Proof.Claims

open Sys2Proof.Machine

section
variable {w : FormX} {s : State} {c : Ctx}

/-- The conditions of MPDESC on its three words (R307). -/
def descOk (x y : Word) : Bool :=
  (bitsOf x.toNat 63 32 == 0 && !bitAt x.toNat 15) &&
  (((2 ≤ bitsOf x.toNat 5 0 && bitsOf x.toNat 5 0 ≤ 8) || bitsOf x.toNat 5 0 == 12 || bitsOf x.toNat 5 0 == 13) &&
    (fmtOk (bitsOf x.toNat 5 0) (bitsOf x.toNat 7 6) &&
      ((1 ≤ bitsOf x.toNat 14 8 && bitsOf x.toNat 14 8 ≤ 64) &&
        (bitsOf y.toNat 31 0 != 0 && bitsOf y.toNat 63 32 != 0 && bitsOf y.toNat 31 0 * bitsOf y.toNat 63 32 ≤ 2 ^ 32))))

theorem fmt_mem_iff (k : Nat) : ((2 ≤ k ∧ k ≤ 8) ∨ k = 12) ∨ k = 13 ↔ k ∈ [2, 3, 4, 5, 6, 7, 8, 12, 13] := by
  simp only [List.mem_cons, List.not_mem_nil, or_false]
  omega

theorem descOk_iff (x y : Word) : descOk x y = true ↔
    x.toNat / 2 ^ 32 = 0 ∧ x.getLsbD 15 = false ∧ x.toNat % 64 ∈ [2, 3, 4, 5, 6, 7, 8, 12, 13] ∧ fmtOk (x.toNat % 64) (x.toNat / 64 % 4) = true ∧
    1 ≤ x.toNat / 256 % 128 ∧ x.toNat / 256 % 128 ≤ 64 ∧ y.toNat % 2 ^ 32 ≠ 0 ∧ y.toNat / 2 ^ 32 ≠ 0 ∧
    y.toNat % 2 ^ 32 * (y.toNat / 2 ^ 32) ≤ 2 ^ 32 := by
  have hfmt : bitsOf x.toNat 5 0 = x.toNat % 64 := by
    rw [bitsOf_eq, Nat.pow_zero, Nat.div_one]
    rfl
  have hgeo : bitsOf x.toNat 7 6 = x.toNat / 64 % 4 := bitsOf_eq _ _ _
  have hcnt : bitsOf x.toNat 14 8 = x.toNat / 256 % 128 := bitsOf_eq _ _ _
  have hrows : bitsOf y.toNat 31 0 = y.toNat % 2 ^ 32 := by rw [bitsOf_eq, Nat.pow_zero, Nat.div_one]
  rw [descOk, bitsOf_upper, bitsOf_upper, hfmt, hgeo, hcnt, hrows, bitAt_eq_testBit, ← fmt_mem_iff]
  simp only [Bool.and_eq_true, Bool.or_eq_true, beq_iff_eq, bne_iff_ne, Bool.not_eq_true', decide_eq_true_eq, and_assoc]
  rfl

/-- MPDESC with its checks gathered into one. -/
theorem mpdesc_body {x y z : Word} (hF : Fires s c w.h [w.a, w.b, w.c]) (hx : readVal c w.a = .ok x) (hy : readVal c w.b = .ok y)
    (hz : readVal c w.c = .ok z) :
    (descOk x y = true → Completes (.mpdesc w) s c w.h s { c with mpdw0 := x, mpdw1 := y, mpdw2 := z, latch := .empty, latchTok := none }) ∧
    (descOk x y = false → Faults (.mpdesc w) s c { code := fcDESC }) := by
  refine ⟨fun hok => ?_, fun hno => ?_⟩
  · rw [Completes, exec_mpdesc, execMpdesc]
    refine uni_ok hF (by simp) ?_
    rw [try_bind_of_ok hx, try_bind_of_ok hy, try_bind_of_ok hz]
    simp only [require_bind_require]
    rw [show (_ && _) = true from hok]
    rfl
  · rw [Faults, exec_mpdesc, execMpdesc]
    refine uni_trap hF (by simp) ?_
    rw [try_bind_of_ok hx, try_bind_of_ok hy, try_bind_of_ok hz]
    simp only [require_bind_require]
    rw [show (_ && _) = false from hno]
    rfl

theorem mqwait_waits {x : Word} (hF : Fires s c w.h [w.a]) (hx : readVal c w.a = .ok x) :
    ((s.mxOf c).length ≤ x.toNat % 32 → Completes (.mqwait w) s c w.h s c.clearLatch) ∧
    (x.toNat % 32 < (s.mxOf c).length → exec (.mqwait w) s = .next s) := by
  refine ⟨fun hle => ?_, fun hlt => ?_⟩
  · rw [Completes, exec_mqwait, execMqwait]
    refine uni_ok hF (by simp) ?_
    rw [try_bind_of_ok hx]
    exact if_neg (Nat.not_lt.mpr hle)
  · rw [exec_mqwait, execMqwait]
    refine uni_stall hF (by simp) ?_
    rw [try_bind_of_ok hx]
    exact if_pos hlt

theorem setMember_of_fits (c : Ctx) {x : Int} (h0 : 0 ≤ x) (h1 : x ≤ 0xFFFE) :
    setMember c x = .ok { c with stpmem := x.toNat, latch := .empty, latchTok := none } := by
  rw [setMember, show (decide (0 ≤ x) && decide (x ≤ 0xFFFE)) = true by simp [h0, h1]]
  rfl

theorem setMember_of_outside (c : Ctx) {x : Int} (h : x < 0 ∨ 0xFFFE < x) : setMember c x = fault fcILLEGAL := by
  have hno : (decide (0 ≤ x) && decide (x ≤ 0xFFFE)) = false := by
    rw [Bool.and_eq_false_iff]
    exact h.imp (fun h => decide_eq_false (by omega)) fun h => decide_eq_false (by omega)
  rw [setMember, hno]
  rfl

theorem stpmem_sets {x : Word} (hF : Fires s c w.h [w.a]) (hx : readVal c w.a = .ok x) :
    (0 ≤ x.toInt → x.toInt ≤ 0xFFFE → Completes (.stpmem w) s c w.h s { c with stpmem := x.toNat, latch := .empty, latchTok := none }) ∧
    (x.toInt < 0 ∨ 0xFFFE < x.toInt → Faults (.stpmem w) s c { code := fcILLEGAL }) := by
  refine ⟨fun h0 h1 => ?_, fun h => ?_⟩
  · have hnat : x.toInt.toNat = x.toNat := by
      rw [BitVec.toInt_eq_toNat_of_lt (BitVec.toInt_pos_iff.mp h0), Int.toNat_natCast]
    rw [Completes, exec_stpmem, execStpmem]
    refine uni_ok hF (by simp) ?_
    rw [try_bind_of_ok hx, setMember_of_fits c h0 h1, hnat]
    rfl
  · rw [Faults, exec_stpmem, execStpmem]
    refine uni_trap hF (by simp) ?_
    rw [try_bind_of_ok hx, setMember_of_outside c h]
    rfl

theorem stpmemAdd_sets {x : Word} (hF : Fires s c w.h [w.a]) (hx : readVal c w.a = .ok x) :
    (0 ≤ c.stpmem + x.toInt → c.stpmem + x.toInt ≤ 0xFFFE →
      Completes (.stpmemAdd w) s c w.h s { c with stpmem := (c.stpmem + x.toInt).toNat, latch := .empty, latchTok := none }) ∧
    (c.stpmem + x.toInt < 0 ∨ 0xFFFE < c.stpmem + x.toInt → Faults (.stpmemAdd w) s c { code := fcILLEGAL }) := by
  refine ⟨fun h0 h1 => ?_, fun h => ?_⟩
  · rw [Completes, exec_stpmemAdd, execStpmemAdd]
    refine uni_ok hF (by simp) ?_
    rw [try_bind_of_ok hx, setMember_of_fits c h0 h1]
    rfl
  · rw [Faults, exec_stpmemAdd, execStpmemAdd]
    refine uni_trap hF (by simp) ?_
    rw [try_bind_of_ok hx, setMember_of_outside c h]
    rfl

theorem completes_stpkey {x : Word} (hF : Fires s c w.h [w.a]) (hx : readVal c w.a = .ok x) :
    Completes (.stpkey w) s c w.h s { c with stpkey := x, latch := .empty, latchTok := none } := by
  rw [Completes, exec_stpkey, execStpkey]
  refine uni_ok hF (by simp) ?_
  rw [try_bind_of_ok hx]
  rfl

theorem completes_mstat {c' : Ctx} (hF : Fires s c w.h [])
    (hw : writeVal s c w.a (BitVec.ofNat 64 (s.mxStatus c (w.sub.toNat % 512))) = .ok c') : Completes (.mstat w) s c w.h s c' := by
  rw [Completes, exec_mstat, execMstat]
  exact uni_ok hF (by simp) ((try_bind_of_ok hw _).trans rfl)

end

end Sys2Proof.Claims

open Sys2Proof.Machine Sys2Proof.Claims in
/-- Settles O33. -/
theorem matrixRegisters : Obligations.MatrixRegisters := by
  unfold Obligations.MatrixRegisters
  refine fun w s c x hx => ⟨fun y z hF hy hz => ?_, fun hF => ?_, fun c' hF hw => completes_mstat hF hw⟩
  · obtain ⟨hok, hno⟩ := mpdesc_body hF hx hy hz
    exact ⟨fun h => hok ((descOk_iff x y).mpr h), fun h => hno (Bool.eq_false_iff.mpr fun h' => h ((descOk_iff x y).mp h'))⟩
  · obtain ⟨hdone, hwait⟩ := mqwait_waits hF hx
    obtain ⟨hset, hsetOut⟩ := stpmem_sets hF hx
    obtain ⟨hadd, haddOut⟩ := stpmemAdd_sets hF hx
    exact ⟨hdone, hwait, completes_stpkey hF hx, hset, hsetOut, hadd, haddOut⟩
end

section
/-! PROOFS. The matrix instructions of the vector unit (O34). -/

namespace Sys2Proof.Machine

theorem zipIdx_range_map {α : Type} (f : Nat → α) (k : Nat) : ((List.range k).map f).zipIdx = (List.range k).map fun i => (f i, i) := by
  refine List.ext_getElem (by simp) fun i _ _ => ?_
  rw [List.getElem_zipIdx, List.getElem_map, List.getElem_map, List.getElem_range, Nat.zero_add]

/-- Chunks of a list, by position. -/
theorem chunksOf_eq {α : Type} (n : Nat) : ∀ (k : Nat) (l : List α), chunksOf n k l = (List.range k).map fun i => (l.drop (n * i)).take n
  | 0, _ => rfl
  | k + 1, l => by
    rw [chunksOf, chunksOf_eq n k, List.range_succ_eq_map, List.map_cons, List.map_map, Nat.mul_zero, List.drop_zero]
    refine congrArg _ (List.map_congr_left fun i _ => ?_)
    rw [Function.comp, List.drop_drop, Nat.mul_succ, Nat.add_comm]

theorem clampInt_eq {lo hi : Int} (h : lo ≤ hi) (x : Int) : clampInt lo hi x = max lo (min hi x) := by
  unfold clampInt
  omega

end Sys2Proof.Machine

namespace Sys2Proof.Claims

open Sys2Proof.Machine

/-- An accumulator element clamped to k bits (R317). -/
def clampedTo (k x : Nat) : Nat × Nat :=
  let v := (BitVec.ofNat 32 x).toInt
  let y := max (-(2 ^ (k - 1)) : Int) (min (2 ^ (k - 1) - 1) v)
  ((BitVec.ofInt k y).toNat, if y = v then 0 else flagSAT)

theorem flagIf_bne (x y : Int) (f : Nat) : flagIf (x != y) f = if x = y then 0 else f := by
  by_cases h : x = y
  · simp [flagIf, h]
  · simp [flagIf, h]

theorem clamp_eq_clampedTo {lo hi : Int} {k : Nat} (hlo : lo = -(2 ^ (k - 1))) (hhi : hi = 2 ^ (k - 1) - 1) (x : Nat) :
    (wrapTo k (clampInt lo hi (signedOf 32 x)), flagIf (clampInt lo hi (signedOf 32 x) != signedOf 32 x) flagSAT) = clampedTo k x := by
  have hpos : (0 : Int) < 2 ^ (k - 1) := by positivity
  rw [clampInt_eq (by omega), signedOf_eq_toInt, wrapTo_eq_toNat, flagIf_bne, hlo, hhi]
  rfl

/-- The conversions of ACCCVT by their format code (R317). -/
theorem accConvert_eq {f : Nat} (h : f < 7) (r : Rnd) (x : Nat) : accConvert f r x =
    [(x, 0), cvtF fp32 fp16 r x, cvtF fp32 bf16 r x, cvtF fp32 e4m3 r x, cvtF fp32 e5m2 r x, clampedTo 8 x, clampedTo 16 x].getD f (0, 0) := by
  interval_cases f
  · rfl
  · rfl
  · rfl
  · rfl
  · rfl
  · exact clamp_eq_clampedTo rfl rfl x
  · exact clamp_eq_clampedTo rfl rfl x

theorem accWidth_eq {f : Nat} (h : f < 7) : accWidth f = [32, 16, 16, 8, 8, 8, 16].getD f 16 := by
  interval_cases f <;> rfl

section
variable {w : FormA} {s : State} {c c' : Ctx} {g : Word}

theorem completes_acccvt {a : Nat} {r : BitVec 8} {bs : List Byte} (hI : Issues s c w.h [] g) (hfall : Falls s c)
    (hwf : w.mod.toNat % 8 < 7) (hloc : c.loc w.a = some a) (hb : w.b = .const r)
    (hread : readRf c (a + 256 * r.toNat) (256 * cvtRows (w.mod.toNat % 8)) = .ok bs) {rs : List (Nat × Nat)} {n : Nat}
    (hn : n = [32, 16, 16, 8, 8, 8, 16].getD (w.mod.toNat % 8) 16)
    (hrs : rs = (splitElems 32 (numOf bs) (bs.length / 4)).zipIdx.map fun x =>
      accConvert (w.mod.toNat % 8) (rndFor s c w.opt x.2 (w.mod.getLsbD 3) false) x.1)
    (hw : writeElems s c w.dst n g (rs.map fun x => x.1) = .ok c') :
    Completes (.acccvt w) s c w.h s (counted w.opt (c'.orFlags (laneFlags n g rs))) := by
  rw [← accWidth_eq hwf] at hn
  subst hn hrs
  rw [Completes, exec_acccvt, execAcccvt]
  refine ins_ok hI hfall (by simp) ?_
  rw [hloc, hb]
  refine (try_bind_of_ok hread _).trans ((try_bind_of_ok hw _).trans ?_)
  rw [afterRnd_eq_counted]
  rfl

theorem completes_stpgen {b st : Word} (hI : Issues s c w.h [w.a, w.b] g) (hfall : Falls s c) (hb : readVal c w.a = .ok b)
    (hst : readVal c w.b = .ok st)
    (hw : writeElems s c w.dst 32 g
      ((List.range 64).map fun i => stippleEps c.stpmem (st.toNat % 2 ^ 16) ((b.toNat + i) % 2 ^ 32) c.stpkey.toNat) = .ok c') :
    Completes (.stpgen w) s c w.h s c' := by
  refine completes_of_instr (exec_stpgen w s) hI hfall ?_
  rw [try_bind_of_ok hb, try_bind_of_ok hst]
  exact (try_bind_of_ok hw _).trans rfl

/-- An element of STPMUL (R318). -/
def perturbed (g e s : Nat) : Nat × Nat :=
  let x := mul32 e s
  let y := mul32 x.1 ln2F32
  let z := mul32 g y.1
  (z.1, x.2 ||| y.2 ||| z.2)

theorem completes_stpmul {gs es ss : List Nat} (hI : Issues s c w.h [w.a, w.b, w.c] g) (hfall : Falls s c) (hgs : readElems c 32 w.a = .ok gs)
    (hes : readElems c 32 w.b = .ok es) (hss : readElems c 32 w.c = .ok ss) {rs : List (Nat × Nat)}
    (hrs : rs = (List.range 64).map fun i => perturbed (gs.getD i 0) (es.getD i 0) (ss.getD i 0))
    (hw : writeElems s c w.dst 32 g (rs.map fun r => r.1) = .ok c') : Completes (.stpmul w) s c w.h s (c'.orFlags (laneFlags 32 g rs)) := by
  refine completes_of_instr (exec_stpmul w s) hI hfall ?_
  rw [try_bind_of_ok hgs, try_bind_of_ok hes, try_bind_of_ok hss]
  have helem : rs = (List.range 64).map fun i =>
      ((mul32 (gs.getD i 0) (mul32 (mul32 (es.getD i 0) (ss.getD i 0)).1 ln2F32).1).1,
        Nat.lor (mul32 (es.getD i 0) (ss.getD i 0)).2 (Nat.lor (mul32 (mul32 (es.getD i 0) (ss.getD i 0)).1 ln2F32).2
          (mul32 (gs.getD i 0) (mul32 (mul32 (es.getD i 0) (ss.getD i 0)).1 ln2F32).1).2)) := by
    rw [hrs]
    exact List.map_congr_left fun i _ => Prod.ext rfl (Nat.or_assoc _ _ _)
  rw [helem] at hw ⊢
  exact (try_bind_of_ok hw _).trans rfl

theorem completes_hadv {xs : List Nat} (hI : Issues s c w.h [w.a] g) (hfall : Falls s c) (hxs : readElems c 32 w.a = .ok xs)
    {n : Nat} (hn : (if w.mod.getLsbD 0 = true then 32 else 16) = n) {rs : List (List Nat × Nat)}
    (hrs : rs = (List.range (64 / n)).map fun k => hadamard (if (w.mod.getLsbD 1 || !w.mod.getLsbD 0) = true then 2 else 3) ((xs.drop (n * k)).take n))
    (hw : writeElems s c w.dst 32 g (rs.flatMap fun r => r.1) = .ok c') :
    Completes (.hadv w) s c w.h s (c'.orFlags (rs.foldl (fun f r => f ||| r.2) 0)) := by
  have hk : (if w.mod.getLsbD 1 = true then 2 else if n = 16 then 2 else 3) = if (w.mod.getLsbD 1 || !w.mod.getLsbD 0) = true then 2 else 3 := by
    rw [← hn]
    cases w.mod.getLsbD 1 <;> cases w.mod.getLsbD 0 <;> rfl
  rw [Completes, exec_hadv, execHadv, hn, hk]
  refine ins_ok hI hfall (by simp) ?_
  have hmodel : ((chunksOf n (64 / n) xs).map fun x => hadamard (if (w.mod.getLsbD 1 || !w.mod.getLsbD 0) = true then 2 else 3) x) = rs := by
    rw [hrs, chunksOf_eq, List.map_map]
    rfl
  rw [try_bind_of_ok hxs, hmodel]
  exact (try_bind_of_ok hw _).trans rfl

/-- The transform that QCVT applies to a block first (R319). -/
def transformed (had : Nat) (ys : List Nat) : List Nat × Nat := if had = 0 then (ys, 0) else hadamard (if had = 1 then 2 else 3) ys

/-- The blocks that QCVT quantises, each with the flags of its transform (R319). -/
def quantised (s : State) (c : Ctx) (w : FormA) (n : Nat) (xs : List Nat) : List (Quant × Nat) :=
  (List.range (128 / n)).map fun i =>
    let t := transformed (w.mod.toNat / 4 % 4) ((xs.drop (n * i)).take n)
    (quantBlock (w.mod.getLsbD 1) (fun j => rndFor s c w.opt (i * n + j) false false) t.1, t.2)

/-- How QCVT ends: the codes, the scale bytes and the flags of its blocks are written (R319). -/
def writeQuantised (s : State) (c : Ctx) (w : FormA) (qs : List (Quant × Nat)) : Try Done := do
  let codes := qs.flatMap fun q => q.1.codes
  let bytes := if w.mod.getLsbD 1 then bytesOf 256 (encodeBlock.numNibbles codes) else bytesOf 256 (numOf (codes.map (BitVec.ofNat 8)))
  let side := bytesOf 16 (numOf (qs.map (fun q => BitVec.ofNat 8 q.1.scale) ++
    (if w.mod.getLsbD 1 then qs.map fun q => BitVec.ofNat 8 q.1.spare else [])))
  let d := (c.loc w.dst).getD 0
  let o := (c.loc w.b).getD 0
  let c' ← writeRf s c d 256 (cellsAt d bytes)
  let c' ← writeRf s c' o 16 (cellsAt o side)
  return { s := s, c := ((c'.orFlags (qs.foldl (fun f q => Nat.lor f q.2) 0)).afterRnd w.opt).clearLatch }

section
variable {c1 c2 : Ctx} {d o : Nat} {n : Nat} (hn : (if w.mod.getLsbD 0 = true then 32 else 16) = n)
  (hI : Issues s c w.h [] g) (hfall : Falls s c) (hd : c.loc w.dst = some d) (ho : c.loc w.b = some o)
include hn hI hfall hd ho

theorem completes_qcvt {k : Fin 48} {bs : List Byte} (ha : w.a = .v k) (hread : readRf c (c.vloc k) 512 = .ok bs) (hlen : bs.length = 512)
    {qs : List (Quant × Nat)} (hqs : qs = quantised s c w n (splitElems 32 (numOf bs) 128)) {bytes side : List Byte}
    (hbytes : bytes = bytesOf 256 (if w.mod.getLsbD 1 = true then encodeBlock.numNibbles (qs.flatMap fun q => q.1.codes)
      else numOf ((qs.flatMap fun q => q.1.codes).map (BitVec.ofNat 8))))
    (hside : side = bytesOf 16 (numOf (qs.map (fun q => BitVec.ofNat 8 q.1.scale) ++
      (if w.mod.getLsbD 1 = true then qs.map fun q => BitVec.ofNat 8 q.1.spare else []))))
    (hw1 : writeRf s c d 256 (cellsAt d bytes) = .ok c1) (hw2 : writeRf s c1 o 16 (cellsAt o side) = .ok c2) :
    Completes (.qcvt w) s c w.h s (counted w.opt (c2.orFlags (qs.foldl (fun f q => f ||| (q.2 ||| q.1.flags)) 0))).clearLatch := by
  have hmodel : ((chunksOf n (128 / n) (splitElems 32 (numOf bs) 128)).zipIdx.map fun x =>
      (quantBlock (w.mod.getLsbD 1) (fun i => rndFor s c w.opt (x.2 * n + i) false false) (transformed (bitsOf w.m 3 2) x.1).1,
        Nat.lor (transformed (bitsOf w.m 3 2) x.1).2
          (quantBlock (w.mod.getLsbD 1) (fun i => rndFor s c w.opt (x.2 * n + i) false false) (transformed (bitsOf w.m 3 2) x.1).1).flags)) =
      qs.map fun q => (q.1, q.2 ||| q.1.flags) := by
    rw [hqs, quantised, chunksOf_eq, zipIdx_range_map, List.map_map, List.map_map, bitsOf_two w.m 2]
    rfl
  have hpair : readPair c w.a = .ok (splitElems 32 (numOf bs) 128) := by
    rw [ha]
    refine (try_bind_of_ok hread _).trans ?_
    rw [valuesOf, hlen]
    rfl
  have hdone : writeQuantised s c w (qs.map fun q => (q.1, q.2 ||| q.1.flags)) =
      .ok { s := s, c := (counted w.opt (c2.orFlags (qs.foldl (fun f q => f ||| (q.2 ||| q.1.flags)) 0))).clearLatch } := by
    unfold writeQuantised
    simp only [hd, ho, Option.getD_some, List.flatMap_map, List.map_map, List.foldl_map, ← apply_ite (bytesOf 256)]
    rw [hbytes] at hw1
    rw [hside] at hw2
    refine (try_bind_of_ok hw1 _).trans ((try_bind_of_ok hw2 _).trans ?_)
    rw [afterRnd_eq_counted]
    rfl
  rw [Completes, exec_qcvt, execQcvt, hn]
  refine ins_ok hI hfall (by simp) ?_
  rw [try_bind_of_ok hpair]
  exact (congrArg (writeQuantised s c w) hmodel).trans hdone

theorem completes_dqcvt {a : Nat} {bs side : List Byte} (ha : c.loc w.a = some a)
    (hread : readRf c a (if w.mod.getLsbD 1 = true then 64 else 128) = .ok bs) (hside : readRf c o 16 = .ok side)
    (hlen : bs.length = if w.mod.getLsbD 1 = true then 64 else 128) {rs : List (Nat × Nat)}
    (hrs : rs = (if w.mod.getLsbD 1 = true then splitElems 4 (numOf bs) 128 else bs.map fun x => x.toNat).zipIdx.map fun x =>
      blockDec32 (w.mod.getLsbD 1) x.1 (side.getD (x.2 / n) 0).toNat (side.getD (128 / n + x.2 / n) 0).toNat)
    (hw : writeRf s c d 512 (cellsAt d (rs.flatMap fun r => bytesOf 4 r.1)) = .ok c1) :
    Completes (.dqcvt w) s c w.h s (c1.orFlags (rs.foldl (fun f r => f ||| r.2) 0)).clearLatch := by
  have hcodes : codesOf (w.mod.getLsbD 1) bs = if w.mod.getLsbD 1 = true then splitElems 4 (numOf bs) 128 else bs.map fun x => x.toNat := by
    unfold codesOf
    split
    · next h => rw [hlen, if_pos h]
    · rfl
  rw [Completes, exec_dqcvt, execDqcvt, hn]
  refine ins_ok hI hfall (by simp) ?_
  rw [← hcodes] at hrs
  rw [ha, ho, hd]
  subst hrs
  exact (try_bind_of_ok hread _).trans ((try_bind_of_ok hside _).trans ((try_bind_of_ok hw _).trans rfl))

end

end

end Sys2Proof.Claims

open Sys2Proof.Machine Sys2Proof.Claims in
/-- Settles O34. -/
theorem matrixVectorUnit : Obligations.MatrixVectorUnit := by
  unfold Obligations.MatrixVectorUnit
  refine ⟨fun w s c c' g => ⟨fun a r bs hI hfall hwf hloc hb hread => ?_, fun b st hI hfall hb hst hw => completes_stpgen hI hfall hb hst hw,
    fun gs es ss hI hfall hgs hes hss hw => completes_stpmul hI hfall hgs hes hss rfl hw,
    fun xs hI hfall hxs hw => completes_hadv hI hfall hxs rfl rfl hw⟩, fun w s c c1 c2 g d o => ?_⟩
  · extract_lets f n sat cv clamped rs
    intro hw
    have hf : f < 7 := by
      simp only [Sys2Proof.Instr.wf, Sys2Proof.FormA.accRowOk, Bool.and_eq_true, decide_eq_true_eq] at hwf
      obtain ⟨⟨-, ⟨⟨hf, -⟩, -⟩, -⟩, -⟩ := hwf
      exact hf
    refine completes_acccvt hI hfall hf hloc hb hread rfl (List.map_congr_left fun x _ => ?_) hw
    rw [accConvert_eq hf]
    simp only [cvtF_eq_onceRounded]
    rfl
  · extract_lets e2 n
    intro hI hfall hd ho
    exact ⟨fun k bs ha hread hlen hw1 hw2 => completes_qcvt rfl hI hfall hd ho ha hread hlen rfl rfl rfl hw1 hw2,
      fun a bs side ha hread hside hlen hw => completes_dqcvt rfl hI hfall hd ho ha hread hside hlen rfl hw⟩
end

section
/-! PROOFS. FSEND and the status words of the fabric (O37). -/

namespace Sys2Proof.Machine

theorem try_bind_of_error {α β : Type} {x : Try α} {e : Stop} (h : x = .error e) (f : α → Try β) : x >>= f = .error e := by
  rw [h]
  rfl

/-- A check made under a condition, where it passes. -/
theorem guard_of_passes {α β : Type} {p : Prop} [Decidable p] {x : Try α} (k : PUnit → Try β) (h : p → ∃ r, x = .ok r) :
    (if p then x >>= fun _ => k ⟨⟩ else k ⟨⟩) = k ⟨⟩ := by
  split
  · next hp =>
    obtain ⟨r, hr⟩ := h hp
    rw [hr]
    rfl
  · rfl

/-- What an image shows does not depend on the number that its next write gets. -/
theorem Snapshot.view_congr {im jm : Snapshot} (hmem : im.mem = jm.mem) (hstaged : im.staged = jm.staged) (hhost : im.host = jm.host) (r : Reader)
    (k n : Nat) : im.view r k n = jm.view r k n := by
  rw [Snapshot.view, Snapshot.view, hmem, hstaged, hhost]

theorem State.fresh_readLoc (s : State) (c : Ctx) (l : Bool) (k n : Nat) : (s.fresh.2).readLoc c l k n = s.readLoc c l k n := by
  refine congrArg (s.freshRecords k) ?_
  unfold State.readAs State.image
  cases c.frozen with
  | none => exact Snapshot.view_congr rfl rfl rfl _ k n
  | some f => rfl

/-- A packet of this package's fabric is one more on its way to a port; memory, staging and the contexts stay. -/
theorem State.sendFrom_frame (s : State) (tile num mesh dst vc slack : Nat) (overdue : Bool) (bytes : Nat) (x : Content) :
    let t := s.sendFrom tile num mesh dst vc slack overdue bytes x
    t.mem = s.mem ∧ t.staged = s.staged ∧ t.ctxs = s.ctxs ∧ t.fab.fsends = s.fab.fsends ∧
    ∃ n p, t.fab.outbound = s.fab.outbound ++ [(n, p)] ∧ p.dst = dst ∧ p.vc = vc ∧ p.slack = slack := by
  intro t
  have hfab : t.fab = { s.fab with outbound := s.fab.outbound ++ [(s.seq, {
      dst := dst, via := none, vc := vc, flits := flitsOf bytes, slack := slack, overdue := overdue, arrived := s.podtime, source := 8 * tile + num, content := x })] } := State.send_fab _ _
  refine ⟨State.send_mem _ _, State.send_staged _ _, State.send_ctxs _ _, by rw [hfab], _, _, by rw [hfab], rfl, rfl, rfl⟩

/-- An FSEND goes out as one packet. -/
theorem State.sendFsend_frame (s : State) (c : Ctx) (peer : Nat) (m : Fsend) :
    let t := (s.countWrite c peer).sendFsend m
    t.mem = s.mem ∧ t.staged = s.staged ∧ t.ctxs = s.ctxs ∧ t.fab.fsends = s.fab.fsends ∧
    ∃ n p, t.fab.outbound = s.fab.outbound ++ [(n, p)] ∧ p.dst = m.dpkg ∧ p.vc = (if m.ordered = true then 0 else 1) ∧ p.slack = m.slack :=
  State.sendFrom_frame (s.countWrite c peer) _ _ _ _ _ _ _ _ _

end Sys2Proof.Machine

namespace Sys2Proof.Claims

open Sys2Proof.Machine

section
variable {w : FormX} {s : State} {c : Ctx} {a : Word} {k : Nat} (hF : Fires s c w.h [w.a]) (ha : readVal c w.a = .ok a)
  (hk : localRange s c a 64 64 = .ok k)
include hF ha hk

theorem faults_fsend_of_unbound (h : c.bound 5 = false) : Faults (.fsend w) s c { code := fcPEER } := by
  rw [Faults, exec_fsend, execFsend]
  refine uni_trap hF (by simp) ?_
  rw [try_bind_of_ok ha, try_bind_of_ok hk, podGate, h]
  rfl

variable {d : Domain} {sk : Nat} {q : SendDesc} (hd : podGate s c = .ok d) (hq : SendDesc.ofNum (numOf (s.readLoc c false k 64)) = q)
include hd hq

theorem faults_fsend_of_malformed (h : q.malformed s.regs.podpackage = true) : Faults (.fsend w) s c { code := fcTEMPLATE } := by
  subst hq
  have hreq : require (!(SendDesc.ofNum (numOf (s.readLoc c false k 64))).malformed s.regs.podpackage) fcTEMPLATE = fault fcTEMPLATE := by
    rw [h]
    rfl
  rw [Faults, exec_fsend, execFsend]
  refine uni_trap hF (by simp) ?_
  rw [try_bind_of_ok ha, try_bind_of_ok hk, try_bind_of_ok hd]
  exact try_bind_of_error hreq _

variable (hok : q.malformed s.regs.podpackage = false) (hsk : localRange s c (BitVec.ofNat 64 q.src) q.length 1 = .ok sk)
  (hrec : q.lbc ≠ 0 → ∃ r, recordAt s c (BitVec.ofNat 64 q.lbc) .group = .ok r)
include hok hsk hrec

theorem faults_fsend_of_peer (h : s.reaches d q.dpkg = false) : Faults (.fsend w) s c { code := fcPEER } := by
  subst hq
  rw [Faults, exec_fsend, execFsend]
  refine uni_trap hF (by simp) ?_
  rw [try_bind_of_ok ha, try_bind_of_ok hk, try_bind_of_ok hd]
  refine (try_bind_of_ok (require_ok.mpr (by rw [hok]; rfl)) _).trans ((try_bind_of_ok hsk _).trans ?_)
  extract_lets -underBinder go
  refine (guard_of_passes go hrec).trans ?_
  exact try_bind_of_error (show require (s.reaches d _) fcPEER = fault fcPEER by rw [h]; rfl) _

theorem exec_fsend_of_many (h : s.reaches d q.dpkg = true) (hmany : 64 ≤ (s.fsendsOf c).length) : exec (.fsend w) s = .next s := by
  subst hq
  rw [exec_fsend, execFsend]
  refine uni_stall hF (by simp) ?_
  rw [try_bind_of_ok ha, try_bind_of_ok hk, try_bind_of_ok hd]
  refine (try_bind_of_ok (require_ok.mpr (by rw [hok]; rfl)) _).trans ((try_bind_of_ok hsk _).trans ?_)
  extract_lets -underBinder go
  refine (guard_of_passes go hrec).trans ?_
  exact (try_bind_of_ok (require_ok.mpr h) _).trans ((if_pos hmany).trans rfl)

/-- The FSEND that a descriptor names, with the bytes as they are read at issue (R396, R397). -/
def fsendOf (s : State) (c : Ctx) (d : Domain) (q : SendDesc) (sk : Nat) : Fsend :=
  { id := s.seq, ctx := c.key, task := c.task, rank := c.rank, domain := d.id, dpkg := q.dpkg, dtile := q.dtile, dst := q.dst,
    rbc := if q.rbcen then some q.rbc else none, lbc := q.lbc, slack := q.slack, ordered := q.ordered,
    data := (s.fresh.2).readLoc c false sk q.length, steps := c.remoteSteps true, prior := s.writesSent c q.dpkg, deadline := s.peerDeadline,
    bad := 0, held := false, acked := false }

theorem completes_fsend_of_room (h : s.reaches d q.dpkg = true) (hfew : (s.fsendsOf c).length < 64) :
    let u := ((s.fresh.2).countWrite c q.dpkg).sendFsend (fsendOf s c d q sk)
    Completes (.fsend w) s c w.h { u with fab := { u.fab with fsends := u.fab.fsends ++ [fsendOf s c d q sk] } } c.clearLatch := by
  subst hq
  intro u
  rw [Completes, exec_fsend, execFsend]
  refine uni_ok hF (by simp) ?_
  rw [try_bind_of_ok ha, try_bind_of_ok hk, try_bind_of_ok hd]
  refine (try_bind_of_ok (require_ok.mpr (by rw [hok]; rfl)) _).trans ((try_bind_of_ok hsk _).trans ?_)
  extract_lets -underBinder go
  refine (guard_of_passes go hrec).trans ?_
  exact (try_bind_of_ok (require_ok.mpr h) _).trans ((if_neg (Nat.not_le.mpr hfew)).trans rfl)

theorem completes_fsend (h : s.reaches d q.dpkg = true) (hfew : (s.fsendsOf c).length < 64) :
    ∃ t m n p, Completes (.fsend w) s c w.h t c.clearLatch ∧
      t.mem = s.mem ∧ t.staged = s.staged ∧ t.ctxs = s.ctxs ∧ t.fab.fsends = s.fab.fsends ++ [m] ∧ m.data = s.readLoc c false sk q.length ∧
      m.dpkg = q.dpkg ∧ m.dtile = q.dtile ∧ m.dst = q.dst ∧ m.lbc = q.lbc ∧ t.fab.outbound = s.fab.outbound ++ [(n, p)] ∧ p.dst = q.dpkg ∧
      p.vc = (if q.ordered then 0 else 1) ∧ p.slack = q.slack := by
  have hdone := completes_fsend_of_room hF ha hk hd hq hok hsk hrec h hfew
  have hframe := (s.fresh.2).sendFsend_frame c q.dpkg (fsendOf s c d q sk)
  obtain ⟨hmem, hstaged, hctxs, hfsends, n, p, hout, hpdst, hpvc, hpslack⟩ := hframe
  exact ⟨_, fsendOf s c d q sk, n, p, hdone, hmem, hstaged, hctxs, congrArg (· ++ _) hfsends, s.fresh_readLoc c false sk q.length, rfl, rfl, rfl, rfl, hout, hpdst, hpvc, hpslack⟩

end

end Sys2Proof.Claims

open Sys2Proof.Machine Sys2Proof.Claims in
/-- Settles O37. -/
theorem sendingAndStatus : Obligations.SendingAndStatus := by
  unfold Obligations.SendingAndStatus
  refine ⟨fun w s c a k hF ha hk => ⟨faults_fsend_of_unbound hF ha hk, fun d sk hd => ?_⟩, fun w s c b hb => ⟨?_, fun hgate => ?_, ?_, ?_⟩⟩
  · extract_lets q
    exact ⟨faults_fsend_of_malformed hF ha hk hd rfl, fun hok hsk hrec => ⟨faults_fsend_of_peer hF ha hk hd rfl hok hsk hrec,
      exec_fsend_of_many hF ha hk hd rfl hok hsk hrec, completes_fsend hF ha hk hd rfl hok hsk hrec⟩⟩
  · exact gives (exec_fstatPort w s) (try_bind_of_ok hb _)
  · exact gives (exec_fstatWork w s) ((try_bind_of_ok hb _).trans (try_bind_of_ok hgate _))
  · exact gives (exec_fstatPod w s) (try_bind_of_ok hb _)
  · exact gives (exec_rtrecv w s) (try_bind_of_ok hb _)
end

section
/-! PROOFS. Routing (O38). -/

namespace Sys2Proof.Machine

/-! ### Results in a state with the same matrix queues -/

theorem readPending_of_tiles {s t : State} (h : t.tiles = s.tiles) (c : Ctx) : t.readPending c = s.readPending c := by
  have htile : t.tile c.key.tile = s.tile c.key.tile := by rw [State.tile, State.tile, h]
  rw [State.readPending, State.readPending, State.mxOf, State.mxOf, htile]

/-- A register write completes alike in states with the same matrix queues. -/
theorem writeVal_of_tiles {s t : State} (h : t.tiles = s.tiles) {c d : Ctx} {o : Operand} {x : Word} (hw : writeVal s c o x = .ok d) :
    writeVal t c o x = .ok d := by
  by_cases ho : o = .p 0
  · subst ho
    exact hw
  cases hloc : c.loc o with
  | none =>
    unfold writeVal at hw
    split at hw
    · exact absurd rfl ho
    · rw [hloc] at hw
      cases hw
  | some a =>
    rw [writeVal_of_loc ho t hloc]
    rw [writeVal_of_loc ho s hloc] at hw
    obtain ⟨e, he, hd⟩ := try_bind_eq_ok hw
    obtain ⟨hwin, hread, hcells⟩ := writeRf_eq_ok he
    rw [try_bind_of_ok (a := e) ?_]
    · exact hd
    · rw [← readPending_of_tiles h] at hread
      rw [hcells]
      exact writeRf_ok hwin hread

theorem writeOpt_of_tiles {s t : State} (h : t.tiles = s.tiles) {c d : Ctx} {o : Operand} {x : Word} (hw : writeOpt s c o x = .ok d) :
    writeOpt t c o x = .ok d := by
  unfold writeOpt at hw ⊢
  split at hw
  · next hno => rwa [if_pos hno]
  · next hno =>
    rw [if_neg hno]
    exact writeVal_of_tiles h hw

/-! ### What ROUTE leaves -/

@[simp] theorem Ctx.queueEvent_rf (c : Ctx) (e : UEvent) : (c.queueEvent e).rf = c.rf := by
  unfold Ctx.queueEvent
  split
  · rfl
  · split <;> rfl

@[simp] theorem Ctx.countOverdue_rf (c : Ctx) (kind : Nat) : (c.countOverdue kind).rf = c.rf := by
  unfold Ctx.countOverdue
  dsimp only
  split
  · rw [Ctx.queueEvent_rf]
  · rfl

/-- The requests by which a context's ROUTE read peer pages. -/
def routeReplies (s : State) (c : Ctx) : List RemoteReq := s.fab.requests.filter fun q => q.id == routeReq && q.ctx == c.key

/-- The context after its ROUTE has counted the overdue replies (R414). -/
def routedCtx (s : State) (c : Ctx) : Ctx :=
  (routeReplies s c).foldl (fun (c : Ctx) q => if s.packetsOverdue (.reply q.num) then c.countOverdue 3 else c) c

theorem routedCtx_rf (s : State) (c : Ctx) : (routedCtx s c).rf = c.rf :=
  foldl_keeps Ctx.rf _ (fun d q => by split <;> simp) c

theorem routedCtx_of_in_time {s : State} {c : Ctx}
    (h : ∀ q ∈ s.fab.requests, q.id = routeReq → q.ctx = c.key → s.packetsOverdue (.reply q.num) = false) : routedCtx s c = c := by
  have hall : ∀ (l : List RemoteReq) (d : Ctx), (∀ q ∈ l, s.packetsOverdue (.reply q.num) = false) →
      l.foldl (fun (c : Ctx) q => if s.packetsOverdue (.reply q.num) then c.countOverdue 3 else c) d = d := fun l => by
    induction l with
    | nil => exact fun _ _ => rfl
    | cons q l ih =>
      intro d hl
      rw [List.foldl_cons, hl q List.mem_cons_self, if_neg Bool.false_ne_true]
      exact ih d fun r hr => hl r (List.mem_cons_of_mem _ hr)
  refine hall _ c fun q hq => ?_
  obtain ⟨hmem, hmine⟩ := List.mem_filter.mp hq
  obtain ⟨hid, hctx⟩ := Bool.and_eq_true_iff.mp hmine
  exact h q hmem (beq_iff_eq.mp hid) (beq_iff_eq.mp hctx)

/-- What a token on its way leaves: memory, staging, contexts and lists. -/
theorem State.sendToken_frame (s : State) (c : Ctx) (d : Domain) (slack : Nat) (t : RToken) :
    let u := s.sendToken c d slack t
    (u.mem, u.staged, u.ctxs, u.fab.lists) = (s.mem, s.staged, s.ctxs, s.fab.lists) := by
  unfold State.sendToken
  dsimp only
  split
  · rfl
  · split
    · rfl
    · rw [State.sendFrom]
      simp only [State.send_mem, State.send_staged, State.send_ctxs, State.send_fab]

/-- The list that a ROUTE makes of its entries (R411 to R413). -/
def routedList (s : State) (c : Ctx) (d : Domain) (raw : List (List Byte)) (bounce : Word) (slack : Nat) (ts : List RToken) : RouteList :=
  { ctx := c.key, task := c.task, rank := c.rank, supervisor := c.supervisor, domain := d.id, batch := c.rtBatch,
    num := (s.fab.lists.filter fun l => c.isOwner l.task l.rank && !l.closed).length, entries := raw,
    bounce := bounce, closed := false, unaccepted := (ts.filter fun t => s.routable d t.dstPkg).map fun t => t.position, bounced := [],
    slack := slack, overdue := false }

/-- The state that a ROUTE leaves: its list made, its replies taken, its tokens under way. -/
def routedState (s : State) (c : Ctx) (d : Domain) (l : RouteList) (ts : List RToken) : State :=
  ts.foldl (fun u t => u.sendToken (routedCtx s c) d l.slack t) ((routeReplies s c).foldl (fun (s : State) q => s.dropPackets (.reply q.num))
    { s with fab := { s.fab with lists := s.fab.lists ++ [l], requests := s.fab.requests.filter fun q => !(q.id == routeReq && q.ctx == c.key) } })

theorem routedState_frame (s : State) (c : Ctx) (d : Domain) (l : RouteList) (ts : List RToken) :
    let u := routedState s c d l ts
    u.mem = s.mem ∧ u.staged = s.staged ∧ u.ctxs = s.ctxs ∧ u.fab.lists = s.fab.lists ++ [l] := by
  intro u
  have htokens := foldl_keeps (fun t : State => (t.mem, t.staged, t.ctxs, t.fab.lists)) ts
    (fun t x => t.sendToken_frame (routedCtx s c) d l.slack x) ((routeReplies s c).foldl (fun (s : State) q => s.dropPackets (.reply q.num))
    { s with fab := { s.fab with lists := s.fab.lists ++ [l], requests := s.fab.requests.filter fun q => !(q.id == routeReq && q.ctx == c.key) } })
  have hreplies := foldl_keeps (fun t : State => (t.mem, t.staged, t.ctxs, t.fab.lists)) (routeReplies s c)
    (f := fun (s : State) q => s.dropPackets (.reply q.num)) (fun t q => by
      simp only [State.dropPackets_mem, State.dropPackets_staged, State.dropPackets_ctxs, State.dropPackets_fab])
    { s with fab := { s.fab with lists := s.fab.lists ++ [l], requests := s.fab.requests.filter fun q => !(q.id == routeReq && q.ctx == c.key) } }
  have hall := htokens.trans hreplies
  simp only [Prod.mk.injEq] at hall
  exact hall

end Sys2Proof.Machine

namespace Sys2Proof.Claims

open Sys2Proof.Machine

theorem completes_route {w : FormX} {s : State} {c : Ctx} {a : Word} {k : Nat} {d : Domain} {bytes : List Byte} {data : List (List Byte)}
    {room : List Piece} (hF : Fires s c w.h [w.a]) (ha : readVal c w.a = .ok a) (hk : localRange s c a 64 64 = .ok k) (hd : podGate s c = .ok d)
    {x : Nat} (hx : x = numOf (s.readLoc c false k 64)) (hhigh : bitsOf x 511 256 = 0) (hmid : bitsOf x 63 48 = 0)
    (hcount : bitsOf x 31 16 ≤ bitsOf x 47 32) (hlists : (s.listsOf c d).length < 256)
    (hbytes : s.routeRead c (bitsOf x 15 0) (BitVec.ofNat 64 (bitsOf x 191 128)) (16 * bitsOf x 31 16) = .ok bytes)
    {raw : List (List Byte)} (hraw : raw = chunksOf 16 (bitsOf x 31 16) bytes) {es : List SendEntry}
    (hes : es = raw.map fun b => SendEntry.ofNum (numOf b)) (hok : ∀ e ∈ es, e.reserved = 0 ∧ e.offset % 64 = 0)
    (hdata : es.mapM (fun e => s.routeRead c (bitsOf x 15 0) (BitVec.ofNat 64 (bitsOf x 127 64) + BitVec.ofNat 64 e.offset) (64 * e.len)) = .ok data)
    (hroom : s.pagePieces c true (bitsOf x 15 0) 0 (16 * bitsOf x 47 32 / 65536 + 3) (BitVec.ofNat 64 (bitsOf x 255 192)) (16 + 16 * bitsOf x 47 32) =
      .ok room) :
    let ts := (es.zip data).zipIdx.map fun y =>
      tokenOf s c d (s.fab.lists.filter fun l => c.isOwner l.task l.rank && !l.closed).length y.1.1 y.2 y.1.2
    let l := routedList s c d raw (BitVec.ofNat 64 (bitsOf x 255 192)) (bitsOf x 15 0) ts
    Completes (.route w) s c w.h (routedState s c d l ts) (routedCtx s c).clearLatch := by
  have hhead : require (bitsOf x 511 256 == 0 && bitsOf x 63 48 == 0 && decide (bitsOf x 31 16 ≤ bitsOf x 47 32) &&
      decide ((s.listsOf c d).length < 256)) fcTEMPLATE = .ok () := by
    simp [hhigh, hmid, hcount, hlists]
  have hentries : require (es.all fun e => e.reserved == 0 && e.offset % 64 == 0) fcTEMPLATE = .ok () := by
    rw [require_ok, List.all_eq_true]
    exact fun e he => by simp [hok e he]
  subst hx hes hraw
  intro ts l
  rw [Completes, exec_route, execRoute]
  refine uni_ok hF (by simp) ?_
  rw [try_bind_of_ok ha, try_bind_of_ok hk, try_bind_of_ok hd]
  exact (try_bind_of_ok hhead _).trans ((try_bind_of_ok hbytes _).trans ((try_bind_of_ok hentries _).trans ((try_bind_of_ok hdata _).trans
    ((try_bind_of_ok hroom _).trans rfl))))

/-! ### Closing lists -/

section
variable {w : FormX} {s : State} {c d' : Ctx}

/-- An open list of the context. -/
def openList (c : Ctx) (l : RouteList) : Bool := c.isOwner l.task l.rank && !l.closed

theorem openList_iff (c : Ctx) (l : RouteList) : openList c l = true ↔ l.task = c.task ∧ l.rank = c.rank ∧ l.closed = false := by
  simp only [openList, Ctx.isOwner, Bool.and_eq_true, beq_iff_eq, Bool.not_eq_true', and_assoc]
  exact and_congr eq_comm (and_congr_left' eq_comm)

/-- The state that RTCLOSE leaves: the context's lists closed, and the batch with its domain (R414). -/
def closedState (s : State) (c : Ctx) : State :=
  let u := { s with fab := { s.fab with lists := s.fab.lists.map fun l => if openList c l then { l with closed := true } else l } }
  match u.domOf c 5 with
  | some d => u.updDomains d.is fun e => { e with routing := true, closed := e.closed ++ [(c.rank, c.rtBatch)] }
  | none => u

theorem closedState_frame (s : State) (c : Ctx) :
    let t := closedState s c
    t.mem = s.mem ∧ t.staged = s.staged ∧ t.ctxs = s.ctxs ∧ t.tiles = s.tiles ∧
    t.fab.lists = s.fab.lists.map (fun l => if openList c l then { l with closed := true } else l) ∧
    (∀ d, s.domOf c 5 = some d → t.domains = s.domains.map fun e =>
      if d.is e then { e with routing := true, closed := e.closed ++ [(c.rank, c.rtBatch)] } else e) ∧
    (s.domOf c 5 = none → t.domains = s.domains) := by
  intro t
  cases hdom : s.domOf c 5 with
  | none =>
    have ht : t = { s with fab := { s.fab with lists := s.fab.lists.map fun l => if openList c l then { l with closed := true } else l } } := by
      have hdom' : ({ s with fab := { s.fab with lists := s.fab.lists.map fun l => if openList c l then { l with closed := true } else l } } :
        State).domOf c 5 = none := hdom
      show closedState s c = _
      unfold closedState
      dsimp only
      rw [hdom']
    rw [ht]
    exact ⟨rfl, rfl, rfl, rfl, rfl, nofun, fun _ => rfl⟩
  | some d =>
    have ht : t = ({ s with fab := { s.fab with lists := s.fab.lists.map fun l => if openList c l then { l with closed := true } else l } } :
        State).updDomains d.is fun e => { e with routing := true, closed := e.closed ++ [(c.rank, c.rtBatch)] } := by
      have hdom' : ({ s with fab := { s.fab with lists := s.fab.lists.map fun l => if openList c l then { l with closed := true } else l } } :
        State).domOf c 5 = some d := hdom
      show closedState s c = _
      unfold closedState
      dsimp only
      rw [hdom']
    rw [ht]
    exact ⟨rfl, rfl, rfl, rfl, rfl, fun d' hd' => by rw [← Option.some.inj hd']; rfl, nofun⟩

theorem completesPark_rtclose (hF : Fires s c w.h []) (hpark : parkGate s c = .ok ())
    (hall : ∀ l ∈ s.fab.lists, openList c l = true → l.unaccepted = [])
    (harr : ∀ r, c.arrival = some r → r.level = 5 → r.done.isSome = true)
    (hw : writeOpt s { c.endRegion with rtBatch := c.rtBatch + 1 } w.a (BitVec.ofNat 64 (s.fab.lists.filter (openList c)).length) = .ok d') :
    CompletesPark (.rtclose w) s c w.h (closedState s c) d' := by
  have hnone : ((s.fab.lists.filter (openList c)).any fun l => !l.unaccepted.isEmpty) = false := by
    rw [List.any_eq_false]
    intro l hl
    obtain ⟨hmem, hopen⟩ := List.mem_filter.mp hl
    simp [hall l hmem hopen]
  have hdone : (do
      let e ← writeOpt (closedState s c) { c.endRegion with rtBatch := c.rtBatch + 1 } w.a (BitVec.ofNat 64 (s.fab.lists.filter (openList c)).length)
      return { s := closedState s c, c := e, ends := true } : Try Done) = .ok { s := closedState s c, c := d', ends := true } := by
    obtain ⟨-, -, -, htiles, -⟩ := closedState_frame s c
    rw [try_bind_of_ok (writeOpt_of_tiles htiles hw)]
    rfl
  refine completesPark_of_uniform (exec_rtclose w s) hF (by simp) ?_
  rw [try_bind_of_ok hpark]
  refine (if_neg (by rw [Bool.not_eq_true]; exact hnone)).trans ?_
  beta_reduce
  extract_lets -underBinder go
  split
  · next heq => exact absurd (harr _ heq rfl) (by simp)
  · exact hdone

end

end Sys2Proof.Claims

open Sys2Proof.Machine Sys2Proof.Claims in
/-- Settles O38. -/
theorem routing : Obligations.Routing := by
  unfold Obligations.Routing
  refine ⟨fun w s c a k d bytes data room hF ha hk hd => ?_, fun w s c d' => ?_⟩
  · extract_lets x bounce tokbase bcap count slack raw es
    intro hhigh hmid hcount hlists hbytes hok hdata hroom
    obtain ⟨hmem, hstaged, hctxs, hfab⟩ := routedState_frame s c d (routedList s c d raw bounce slack _) _
    exact ⟨_, _, _, completes_route hF ha hk hd rfl hhigh hmid hcount hlists hbytes rfl rfl hok hdata hroom, routedCtx_rf s c,
      routedCtx_of_in_time, hmem, hstaged, hctxs, hfab, rfl, rfl, rfl, rfl, rfl, rfl⟩
  · extract_lets mine
    have hmine : ∀ l, openList c l = decide (mine l) := fun l => by
      rw [Bool.eq_iff_iff, decide_eq_true_iff]
      exact openList_iff c l
    intro hF hpark hall harr hw
    obtain ⟨hmem, hstaged, hctxs, -, hlists, hdom, hnone⟩ := closedState_frame s c
    refine ⟨closedState s c, completesPark_rtclose hF hpark (fun l hl hopen => hall l hl ((openList_iff c l).mp hopen)) harr ?_,
      hmem, hstaged, hctxs, ?_, hdom, hnone⟩
    · rwa [show openList c = fun l => decide (mine l) from funext hmine]
    · rw [hlists]
      exact List.map_congr_left fun l _ => if_congr (openList_iff c l) rfl rfl
end

section
/-! PROOFS. Collectives (O39). -/

namespace Sys2Proof.Claims

open Sys2Proof.Machine

/-! ### COLL with its block read -/

/-- What COLL does with its key and its contribution (R399). -/
def postOrAnswer (s : State) (c : Ctx) (o : Operand) (b : CollBlock) (id : CollId) (digest : Nat) (src : List Byte) : Try Done := do
  if s.fab.colls.any fun m => m.id == id then
    let c ← writeVal s c o 1
    return { s := s, c := c }
  else
    if 64 ≤ (s.fab.colls.filter fun m => m.status.isNone).length ∨ !s.collLogRoom then stall s
    let c ← writeVal s c o 0
    return { s := postColl s c b id digest src, c := c }

/-- COLL from its block on (R399). -/
def collWith (s : State) (c : Ctx) (o : Operand) (d : Domain) (b : CollBlock) (digest : Nat) : Try Done := do
  require (!b.malformed d s.regs.podpackage) fcTEMPLATE
  let root := ((b.nodes[b.self]?).map fun x => x.parent) == some 0x3FF
  let len := b.count * collWidth b.type
  let src ← if usesSrc b.kind root then do
      let ps ← rowPieces s c false b.slack 0 (len / 65536 + 2) b.src len
      s.waitFree c (spanAt c.key.tile (s.fromHome c b.src) len) false
      pure (s.imageBytes c ps)
    else pure []
  if usesDst b.kind root then
    let _ ← rowPieces s c true b.slack 0 (len / 65536 + 2) b.dst len
  postOrAnswer s c o b { domain := d.id, key := b.key, step := BitVec.ofNat 32 (c.snapshot.getD 4 0) } digest src

section
variable {s : State} {c c' : Ctx} {o : Operand} {d : Domain} {b : CollBlock} {digest : Nat}

theorem collWith_of_malformed (h : b.malformed d s.regs.podpackage = true) : collWith s c o d b digest = fault fcTEMPLATE := by
  rw [collWith, h]
  rfl

theorem collWith_of_ok {src : List Byte} {root : Bool} {len : Nat} (hroot : (((b.nodes[b.self]?).map fun x => x.parent) == some 0x3FF) = root)
    (hlen : b.count * collWidth b.type = len) (hok : b.malformed d s.regs.podpackage = false)
    (hsrc : if usesSrc b.kind root = true then ∃ ps, rowPieces s c false b.slack 0 (len / 65536 + 2) b.src len = .ok ps ∧
      s.waitFree c (spanAt c.key.tile (s.fromHome c b.src) len) false = .ok () ∧ src = s.imageBytes c ps else src = [])
    (hdst : usesDst b.kind root = true → ∃ ps, rowPieces s c true b.slack 0 (len / 65536 + 2) b.dst len = .ok ps) :
    collWith s c o d b digest =
      postOrAnswer s c o b { domain := d.id, key := b.key, step := BitVec.ofNat 32 (c.snapshot.getD 4 0) } digest src := by
  rw [collWith, hok, hroot, hlen]
  refine (try_bind_of_ok (a := ()) rfl _).trans ?_
  extract_lets -underBinder go
  by_cases huse : usesSrc b.kind root = true
  · rw [if_pos huse] at hsrc ⊢
    obtain ⟨ps, hps, hfree, rfl⟩ := hsrc
    rw [try_bind_of_ok hps, try_bind_of_ok hfree]
    exact guard_of_passes (fun _ : PUnit.{1} => postOrAnswer s c o b _ digest _) hdst
  · rw [if_neg huse] at hsrc ⊢
    obtain rfl := hsrc
    exact guard_of_passes (fun _ : PUnit.{1} => postOrAnswer s c o b _ digest _) hdst

variable {id : CollId} {src : List Byte}

theorem postOrAnswer_of_used (h : ∃ m ∈ s.fab.colls, m.id = id) (hw : writeVal s c o 1 = .ok c') :
    postOrAnswer s c o b id digest src = .ok { s := s, c := c' } := by
  rw [postOrAnswer, if_pos (by simpa using h), try_bind_of_ok hw]
  rfl

theorem postOrAnswer_of_new (h : ∀ m ∈ s.fab.colls, m.id ≠ id) (hfew : (s.fab.colls.filter fun m => m.status.isNone).length < 64)
    (hroom : s.collLogRoom = true) (hw : writeVal s c o 0 = .ok c') :
    postOrAnswer s c o b id digest src = .ok { s := postColl s c' b id digest src, c := c' } := by
  rw [postOrAnswer, if_neg (by simpa using h)]
  refine (if_neg (by rw [hroom]; simpa using hfew)).trans ?_
  exact (try_bind_of_ok hw _).trans rfl

end

section
variable {w : FormX} {s : State} {c c' : Ctx} {a : Word} {k k2 : Nat} {d : Domain} {head recs : List Byte}
  (hF : Fires s c w.h [w.b]) (ha : readVal c w.b = .ok a) (hk : localRange s c a 64 32 = .ok k) (hhead : head = s.readLoc c false k 64)
  (hk2 : localRange s c a (64 + 32 * bitsOf (numOf head) 15 6) 32 = .ok k2) (hd : podGate s c = .ok d)
  (hrecs : recs = s.readLoc c false (k2 + 64) (32 * bitsOf (numOf head) 15 6)) {b : CollBlock}
  (hb : b = CollBlock.ofNums (numOf (head.take 32)) (numOf (head.drop 32)) ((chunksOf 32 (bitsOf (numOf head) 15 6) recs).map numOf))
include hF ha hk hhead hk2 hd hrecs hb

theorem exec_coll_of_ok {t : State} (h : collWith s c w.a d b (numOf (sha3 (head.take 32 ++ recs))) = .ok { s := t, c := c' }) :
    Completes (.coll w) s c w.h t c' := by
  subst hb hrecs hhead
  rw [Completes, exec_coll, execColl]
  refine uni_ok hF (by simp) ?_
  rw [try_bind_of_ok ha, try_bind_of_ok hk]
  exact (try_bind_of_ok hk2 _).trans ((try_bind_of_ok hd _).trans h)

theorem exec_coll_of_trap {t : Trap} (h : collWith s c w.a d b (numOf (sha3 (head.take 32 ++ recs))) = .error (.trap t)) :
    Faults (.coll w) s c t := by
  subst hb hrecs hhead
  rw [Faults, exec_coll, execColl]
  refine uni_trap hF (by simp) ?_
  rw [try_bind_of_ok ha, try_bind_of_ok hk]
  exact (try_bind_of_ok hk2 _).trans ((try_bind_of_ok hd _).trans h)

end

/-! ### COLLWAIT -/

/-- The collective of a key, of the context's own in its present step (R408). -/
def keyColl (s : State) (c : Ctx) (key : Word) : Option Coll :=
  s.fab.colls.find? fun m => c.isOwner m.task m.rank && m.id.key == key.truncate 32 && m.id.step == BitVec.ofNat 32 (c.snapshot.getD 4 0) &&
    m.id.domain == c.domId 5

theorem completesPark_collwait {w : FormX} {s : State} {c d : Ctx} {key : Word} {x : Nat} (hF : Fires s c w.h [w.b]) (hkey : readVal c w.b = .ok key)
    (hpark : parkGate s c = .ok ()) (hgate : workGate s c .fabric = .ok ())
    (hfound : keyColl s c key = none ∧ x = 1 ∨ ∃ m, keyColl s c key = some m ∧ m.status = some x)
    (hw : writeOpt s c.endRegion w.a (BitVec.ofNat 64 x) = .ok d) : CompletesPark (.collwait w) s c w.h s d := by
  refine completesPark_of_uniform (exec_collwait w s) hF (by simp) ?_
  rw [try_bind_of_ok hkey, try_bind_of_ok hpark, try_bind_of_ok hgate]
  extract_lets -underBinder step mine status
  have hstatus : status = some x := by
    rcases hfound with ⟨hnone, rfl⟩ | ⟨m, hsome, hx⟩
    · have hmine : mine = none := hnone
      simp only [status, hmine]
    · have hmine : mine = some m := hsome
      simp only [status, hmine, hx]
  clear_value status
  subst hstatus
  exact (try_bind_of_ok hw _).trans rfl

end Sys2Proof.Claims

open Sys2Proof.Machine Sys2Proof.Claims in
/-- Settles O39. -/
theorem collectives : Obligations.Collectives := by
  unfold Obligations.Collectives
  refine ⟨fun w s c c' a k k2 d src hF ha hk => ?_, fun w s c d key x hF hkey hpark hgate => ?_⟩
  · extract_lets head n recs b root len id
    intro hk2 hd
    refine ⟨fun hbad => exec_coll_of_trap hF ha hk rfl hk2 hd rfl rfl (collWith_of_malformed hbad), fun hok hsrc hdst => ?_⟩
    have hbody : collWith s c w.a d b (numOf (sha3 (head.take 32 ++ recs))) =
      postOrAnswer s c w.a b id (numOf (sha3 (head.take 32 ++ recs))) src := collWith_of_ok rfl rfl hok hsrc hdst
    exact ⟨fun hused hw => exec_coll_of_ok hF ha hk rfl hk2 hd rfl rfl (hbody.trans (postOrAnswer_of_used hused hw)),
      fun hnew hfew hroom hw => exec_coll_of_ok hF ha hk rfl hk2 hd rfl rfl (hbody.trans (postOrAnswer_of_new hnew hfew hroom hw))⟩
  · exact fun hfound hw => completesPark_collwait hF hkey hpark hgate hfound hw
end

section
/-! PROOFS. The task instructions (O40). -/

namespace Sys2Proof.Claims

open Sys2Proof.Machine

/-! ### SPAWN and TDONE -/

theorem isLocal_required (a : Word) : requireAt (Region.localMem == Region.localMem) fcPROTECT a = .ok () := rfl

/-- SPAWN with its message read: what it does for each message (R294). -/
def spawnWith (s : State) (c : Ctx) (w : FormX) (a : Word) (bs : List Byte) : Option Msg → Try Done
  | none => faultAt fcUNMAPPED a
  | some m => do
    if w.sub.getLsbD 0 then
      if s.messagesFull m.tile then stall s
      return { s := { s with seq := s.seq + 1 }.sendMessage m c.key.tile, c := c.clearLatch }
    deferGate s c
    return { s := s.defer c (.message bs), c := c.clearLatch }

section
variable {w : FormX} {s : State} {c : Ctx} {a : Word} {bs : List Byte}

theorem spawnWith_of_now {m : Msg} (hnow : w.sub.getLsbD 0 = true) (hroom : (s.tile m.tile).msgq.length < 16) :
    spawnWith s c w a bs (some m) = .ok { s := { s with seq := s.seq + 1 }.sendMessage m c.key.tile, c := c.clearLatch } := by
  refine (if_pos hnow).trans ((if_neg ?_).trans rfl)
  simpa [State.messagesFull] using hroom

theorem spawnWith_of_later {m : Msg} (hlater : w.sub.getLsbD 0 = false) (hgate : deferGate s c = .ok ()) :
    spawnWith s c w a bs (some m) = .ok { s := s.defer c (.message bs), c := c.clearLatch } :=
  (if_neg (Bool.eq_false_iff.mp hlater)).trans ((try_bind_of_ok hgate _).trans rfl)

variable (hF : Fires s c w.h [w.a]) (ha : readVal c w.a = .ok a) (hcheck : checkPrivate a 32 32 0 false true = .ok .localMem)
  (hfree : s.waitFree c { virt := false, lo := localKey c.key.tile a.toNat, len := 32 } false = .ok ())
  {o : Option Msg} (hm : messageOf s.seq (s.readLoc c false (localKey c.key.tile a.toNat) 32) false = o)
include hF ha hcheck hfree hm

theorem completes_spawn {t : State}
    (h : spawnWith s c w a (s.readLoc c false (localKey c.key.tile a.toNat) 32) o = .ok { s := t, c := c.clearLatch }) :
    Completes (.spawn w) s c w.h t c.clearLatch := by
  rw [Completes, exec_spawn, execSpawn]
  refine uni_ok hF (by simp) ?_
  rw [try_bind_of_ok ha, try_bind_of_ok hcheck, try_bind_of_ok (isLocal_required a)]
  refine (try_bind_of_ok hfree _).trans ?_
  split
  next q u hfresh =>
  obtain ⟨hq, hu⟩ := Prod.mk.inj hfresh
  extract_lets -underBinder bs
  rw [← hq, show messageOf s.seq bs false = o from hm]
  subst hu
  cases o <;> exact h

theorem faults_spawn (h : spawnWith s c w a (s.readLoc c false (localKey c.key.tile a.toNat) 32) o = faultAt fcUNMAPPED a) :
    Faults (.spawn w) s c { code := fcUNMAPPED, addr := a } := by
  rw [Faults, exec_spawn, execSpawn]
  refine uni_trap hF (by simp) ?_
  rw [try_bind_of_ok ha, try_bind_of_ok hcheck, try_bind_of_ok (isLocal_required a)]
  refine (try_bind_of_ok hfree _).trans ?_
  split
  next q u hfresh =>
  obtain ⟨hq, hu⟩ := Prod.mk.inj hfresh
  extract_lets -underBinder bs
  rw [← hq, show messageOf s.seq bs false = o from hm]
  subst hu
  cases o <;> exact h

end

theorem completes_tdone {w : FormX} {s : State} {c : Ctx} {a : Word} (hF : Fires s c w.h [w.a]) (ha : blockAddr c w.a = .ok a)
    (hgate : deferGate s c = .ok ()) : Completes (.tdone w) s c w.h (s.defer c (.decrement a)) c.clearLatch := by
  rw [Completes, exec_tdone, execTdone]
  refine uni_ok hF (by simp) ?_
  rw [try_bind_of_ok ha, try_bind_of_ok hgate]
  rfl

/-! ### TASKID and RANKRD -/

theorem b2n_mul (b : Bool) (n : Nat) : b2n b * n = if b then n else 0 := by cases b <;> simp [b2n]

/-- A register write leaves the task of its context and its rank. -/
theorem writeVal_task_rank {s : State} {c d : Ctx} {o : Operand} {x : Word} (h : writeVal s c o x = .ok d) : d.task = c.task ∧ d.rank = c.rank := by
  by_cases ho : o = .p 0
  · subst ho
    obtain rfl := Except.ok.inj h
    exact ⟨rfl, rfl⟩
  cases hloc : c.loc o with
  | none =>
    rw [writeVal_of_none ho s hloc] at h
    cases h
  | some a =>
    obtain ⟨-, -, rfl⟩ := writeVal_eq_ok ho hloc h
    exact ⟨rfl, rfl⟩

section
variable {w : FormX} {s : State} {c : Ctx}

theorem givesValue_taskid_of_task {t : Task} (h : s.task? c.task = some t) :
    GivesValue (.taskid w) w.h w.a [] s c (BitVec.ofNat 64 (t.tid.toNat + t.blk.prio * 2 ^ 32 + (if t.blk.restart then 2 ^ 34 else 0) +
      (if t.blk.reloc then 2 ^ 35 else 0) + (if t.rerun then 2 ^ 36 else 0))) 0 := by
  refine gives (exec_taskid w s) ?_
  simp only [h, b2n_mul]

theorem givesValue_rankrdShape_of_task {t : Task} (h : s.task? c.task = some t) :
    GivesValue (.rankrdShape w) w.h w.a [] s c (BitVec.ofNat 64 (t.blk.w + t.blk.h * 2 ^ 8 + t.blk.k * 2 ^ 16 + if t.blk.gang then 2 ^ 24 else 0)) 0 := by
  refine gives (exec_rankrdShape w s) ?_
  simp only [h, b2n_mul]

theorem givesValue_taskid_of_none (h : s.task? c.task = none) : GivesValue (.taskid w) w.h w.a [] s c 0 0 := by
  refine gives (exec_taskid w s) ?_
  simp only [h]

theorem givesValue_rankrdShape_of_none (h : s.task? c.task = none) : GivesValue (.rankrdShape w) w.h w.a [] s c 0 0 := by
  refine gives (exec_rankrdShape w s) ?_
  simp only [h]

end

/-! ### TCBRDY -/

/-- TCBRDY with its control block read: the status of the submission, and the task that it enters (R274). -/
def submitWith (s : State) (c : Ctx) (o : Operand) (a : Word) (tid : BitVec 32) (b : Block) (st : Nat) : Try Done := do
  if st = 0 ∧ b.preds = 0 then deferGate s c
  let c ← writeVal s c o (BitVec.ofNat 64 st)
  if st ≠ 0 then return { s := s, c := c }
  let (id, s) := s.submit a tid b (some { task := c.task, rank := c.rank })
  return { s := if b.preds = 0 then s.defer c (.tcb id) else s, c := c }

section
variable {s : State} {c c' : Ctx} {o : Operand} {a : Word} {tid : BitVec 32} {b : Block} {st : Nat}
  (hw : writeVal s c o (BitVec.ofNat 64 st) = .ok c')
include hw

theorem submitWith_of_refused (h : st ≠ 0) : submitWith s c o a tid b st = .ok { s := s, c := c' } := by
  rw [submitWith, if_neg (fun hst => h hst.1)]
  exact (try_bind_of_ok hw _).trans ((if_pos h).trans rfl)

theorem submitWith_of_waiting (h : st = 0) (hpreds : b.preds ≠ 0) :
    submitWith s c o a tid b st = .ok { s := (s.submit a tid b (some { task := c'.task, rank := c'.rank })).2, c := c' } := by
  subst h
  rw [submitWith, if_neg (fun hst => hpreds hst.2)]
  refine (try_bind_of_ok hw _).trans ?_
  exact congrArg (fun t => Except.ok ({ s := t, c := c' } : Done)) (if_neg hpreds)

theorem submitWith_of_ready (h : st = 0) (hpreds : b.preds = 0) (hgate : deferGate s c = .ok ()) :
    let r := s.submit a tid b (some { task := c'.task, rank := c'.rank })
    submitWith s c o a tid b st = .ok { s := r.2.defer c' (.tcb r.1), c := c' } := by
  subst h
  rw [submitWith, if_pos ⟨rfl, hpreds⟩]
  refine (try_bind_of_ok hgate _).trans ((try_bind_of_ok hw _).trans ?_)
  exact congrArg (fun t => Except.ok ({ s := t, c := c' } : Done)) (if_pos hpreds)

end


section
variable {w : FormX} {s : State} {c : Ctx} {a : Word} {bs ss rs : List Byte} (hF : Fires s c w.h [w.b]) (ha : blockAddr c w.b = .ok a)
  (hbs : readBlock s c a 128 = .ok bs)
include hF ha hbs

/-- TCBRDY once its block, the successor list and the task record have been read. -/
theorem completes_tcbrdy {t : State} {c' : Ctx} (hss : readBlock s c (BitVec.ofNat 64 (bitsOf (numOf bs) 319 256)) (8 * bitsOf (numOf bs) 191 184) = .ok ss)
    (hrs : readBlock s c (BitVec.ofNat 64 (bitsOf (numOf bs) 447 384)) (if bitsOf (numOf bs) 447 384 = 0 then 0 else 64) = .ok rs) {b : Block} {st : Nat}
    (hb : blockOf (numOf bs) (wordsOf ss (bitsOf (numOf bs) 191 184)) (if bitsOf (numOf bs) 447 384 = 0 then none else some (numOf rs)) = b)
    (hst : s.submitStatus a (s.blockMalformed (numOf bs) || (bitsOf (numOf bs) 447 384 != 0 && recordMalformed (numOf rs))) b = st)
    (h : submitWith s c w.a a (BitVec.ofNat 32 (bitsOf (numOf bs) 63 32)) b st = .ok { s := t, c := c' }) :
    Completes (.tcbrdy w) s c w.h t c' := by
  subst hst hb
  rw [Completes, exec_tcbrdy, execTcbrdy]
  refine uni_ok hF (by simp) ?_
  rw [try_bind_of_ok ha, try_bind_of_ok hbs]
  refine (try_bind_of_ok hss _).trans ((try_bind_of_ok hrs _).trans ?_)
  exact h

end

/-- Settles O40: SPAWN by the message read, TCBRDY by its status, the others by what they read. -/
theorem taskInstructions : Obligations.TaskInstructions := by
  unfold Obligations.TaskInstructions
  refine ⟨?spawn, ?tdone, ?tcbrdy, ?names⟩
  case spawn =>
    intro w s c a hF ha hcheck
    extract_lets k bs
    intro hfree
    refine ⟨fun hm => faults_spawn hF ha hcheck hfree hm rfl, fun m hm => ⟨fun hnow hroom => ?_, fun hlater hgate => ?_⟩⟩
    · exact completes_spawn hF ha hcheck hfree hm (spawnWith_of_now hnow hroom)
    · exact completes_spawn hF ha hcheck hfree hm (spawnWith_of_later hlater hgate)
  case tdone =>
    exact fun w s c a hF ha hgate => completes_tdone hF ha hgate
  case tcbrdy =>
    intro w s c c' a bs ss rs hF ha hbs
    extract_lets n rc nsucc b st r
    intro hss hrs
    refine ⟨fun hbad => ?_, fun hw => ?_⟩
    · simp only [st, State.submitStatus, hbad, Bool.true_or, if_true]
    obtain ⟨htask, hrank⟩ := writeVal_task_rank hw
    have run {t : State} (h : submitWith s c w.a a (BitVec.ofNat 32 (bitsOf n 63 32)) b st = .ok { s := t, c := c' }) : Completes (.tcbrdy w) s c w.h t c' :=
      completes_tcbrdy hF ha hbs hss hrs rfl rfl h
    refine ⟨fun hst => run (submitWith_of_refused hw hst), fun hst hpreds => run ?_, fun hst hpreds hgate => run ?_⟩
    · rw [submitWith_of_waiting hw hst hpreds, htask, hrank]
    · rw [submitWith_of_ready hw hst hpreds hgate, htask, hrank]
  case names =>
    intro w s c
    exact ⟨gives (exec_rankrd w s) rfl, fun t ht => ⟨givesValue_taskid_of_task ht, givesValue_rankrdShape_of_task ht⟩,
      fun hnone => ⟨givesValue_taskid_of_none hnone, givesValue_rankrdShape_of_none hnone⟩⟩

end Sys2Proof.Claims
end

section
/-! PROOFS. The supervisor's instructions on tasks and contexts (O41). -/

namespace Sys2Proof.Claims

open Sys2Proof.Machine

section
variable {i : Instr} {s t : State} {c c' d : Ctx} {h : Common} {ops : List Operand} {dst : Operand} {body : State → Ctx → Try Done} {st : Nat}
  (hexec : exec i s = runUniform s h true (some dst) ops body) (hF : Fires s c h ops) (hsup : c.supervisor = true)
include hexec hF hsup

theorem completesPark_of_status (hbody : body s c = giveStatus t d dst st) (hw : writeVal t d dst (BitVec.ofNat 64 st) = .ok c') :
    CompletesPark i s c h t c' :=
  completesPark_of_uniform hexec hF (fun _ => hsup) (hbody.trans ((try_bind_of_ok hw _).trans rfl))

theorem exec_of_act (hbody : body s c = act t c) : exec i s = .next (t.updCtx c fun d => { d with wait := .action }) :=
  hexec.trans (uni_stall hF (fun _ => hsup) hbody)

end

theorem acting_eq_false {c : Ctx} (h : c.wait ≠ .action) : c.acting = false := by simpa [Ctx.acting] using h

theorem acting_eq_true {c : Ctx} (h : c.wait = .action) : c.acting = true := by simp [Ctx.acting, h]

/-! ### PREEMPT and RESUME -/

/-- PREEMPT and PREEMPT.KILL with their task looked up (R298). -/
def preemptWith (w : FormX) (kill : Bool) (s : State) (c : Ctx) : Option Task → Try Done
  | none => giveStatus s c w.a (if c.acting then 0 else 1)
  | some t =>
    if t.num = c.task then giveStatus s c w.a 2
    else if !t.stopping.isEmpty then act (if kill then s.updTask t.num fun t => { t with afterStop := 1 } else s) c
    else if c.acting ∧ t.phase = .stopped then giveStatus s c w.a 0
    else if t.phase = .stopped then giveStatus s c w.a 2
    else if t.phase = .running then act (s.beginStop t.num (if kill then 1 else 0)) c
    else if kill then giveStatus (s.terminate t.num) c w.a 0
    else giveStatus s c w.a 2

/-- RESUME with its task looked up (R298). -/
def resumeWith (w : FormX) (s : State) (c : Ctx) : Option Task → Try Done
  | none => giveStatus s c w.a (if c.acting then 0 else 1)
  | some t => do
    if !t.stopping.isEmpty then act s c
    if t.phase = .stopped then
      act (if t.resuming then s else s.updTask t.num fun t => { t with resuming := true, readyAt := s.ticks }) c
    else giveStatus s c w.a (if c.acting then 0 else 2)

/-- RELOC with its task looked up (R298). -/
def relocWith (w : FormX) (o : Word) (s : State) (c : Ctx) : Option Task → Try Done
  | none => giveStatus s c w.a (if c.acting then 0 else 1)
  | some t =>
    if c.acting ∧ t.phase = .running ∧ t.target.isNone then giveStatus s c w.a 0
    else if c.acting then act s c
    else if !t.stopping.isEmpty then stall s
    else if !t.blk.reloc ∨ !(t.phase = .running ∨ t.phase = .stopped) then giveStatus s c w.a 3
    else if !((alignedOrigins t.blk.w t.blk.h).contains o.toNat && dieOfTile o.toNat != dieOfTile t.origin && s.isCandidate t o.toNat) then
      giveStatus s c w.a 3
    else
      let s := s.updTask t.num fun t => { t with target := some o.toNat, readyAt := s.ticks }
      act (if t.phase = .running then s.beginStop t.num 0 else s) c

/-- The gate of a supervisor instruction passes: its action has begun, or it may park (R298). -/
def Begins (s : State) (c : Ctx) : Prop := c.acting = true ∨ parkGate s c = .ok ()

/-- The frame of PREEMPT and RESUME: the gate, and the task that the operand names. -/
def lookThen (w : FormX) (rest : State → Ctx → Option Task → Try Done) (s : State) (c : Ctx) : Try Done := do
  let b ← readVal c w.b
  if !c.acting then parkGate s c
  rest s c (s.taskByTid b)

theorem exec_preempt_eq (w : FormX) (s : State) :
    exec (.preempt w) s = runUniform s w.h true (some w.a) [w.b] (lookThen w (preemptWith w false)) := rfl

theorem exec_preemptKill_eq (w : FormX) (s : State) :
    exec (.preemptKill w) s = runUniform s w.h true (some w.a) [w.b] (lookThen w (preemptWith w true)) := rfl

theorem exec_resume_eq (w : FormX) (s : State) :
    exec (.resume w) s = runUniform s w.h true (some w.a) [w.b] (lookThen w (resumeWith w)) := rfl

/-- The frame of RELOC: its two operands, the gate, and the task. -/
def relocBody (w : FormX) (s : State) (c : Ctx) : Try Done := do
  let b ← readVal c w.b
  let o ← readVal c w.c
  if !c.acting then parkGate s c
  relocWith w o s c (s.taskByTid b)

theorem exec_reloc_eq (w : FormX) (s : State) : exec (.reloc w) s = runUniform s w.h true (some w.a) [w.b, w.c] (relocBody w) := rfl

section
variable {w : FormX} {s : State} {c : Ctx} {b : Word} {found : Option Task} (hbegin : Begins s c) (hb : readVal c w.b = .ok b)
  (hfound : s.taskByTid b = found)
include hbegin hb hfound

theorem lookThen_of_found (rest : State → Ctx → Option Task → Try Done) : lookThen w rest s c = rest s c found := by
  unfold lookThen
  rcases hbegin with hact | hpark
  · simp only [hb, hact, hfound, try_bind_ok, Bool.not_true, Bool.false_eq_true, if_false]
  · simp only [hb, hpark, hfound, try_bind_ok, ite_self]

theorem relocBody_of_found {o : Word} (ho : readVal c w.c = .ok o) : relocBody w s c = relocWith w o s c found := by
  unfold relocBody
  rcases hbegin with hact | hpark
  · simp only [hb, ho, hact, hfound, try_bind_ok, Bool.not_true, Bool.false_eq_true, if_false]
  · simp only [hb, ho, hpark, hfound, try_bind_ok, ite_self]

end

section
variable {w : FormX} {s t : State} {c c' : Ctx} {b : Word} {found : Option Task} {st : Nat} (hsup : c.supervisor = true) (hbegin : Begins s c)
  (hb : readVal c w.b = .ok b) (hfound : s.taskByTid b = found)
include hsup hbegin hb hfound

section
variable {i : Instr} {rest : State → Ctx → Option Task → Try Done} (hexec : exec i s = runUniform s w.h true (some w.a) [w.b] (lookThen w rest))
  (hF : Fires s c w.h [w.b])
include hexec hF

theorem completesPark_of_look (h : rest s c found = giveStatus t c w.a st) (hw : writeVal t c w.a (BitVec.ofNat 64 st) = .ok c') :
    CompletesPark i s c w.h t c' :=
  completesPark_of_status hexec hF hsup ((lookThen_of_found hbegin hb hfound rest).trans h) hw

theorem exec_of_look (h : rest s c found = act t c) : exec i s = .next (t.updCtx c fun d => { d with wait := .action }) :=
  exec_of_act hexec hF hsup ((lookThen_of_found hbegin hb hfound rest).trans h)

end

section
variable {o : Word} (hF : Fires s c w.h [w.b, w.c]) (ho : readVal c w.c = .ok o)
include hF ho

theorem completesPark_reloc (h : relocWith w o s c found = giveStatus t c w.a st) (hw : writeVal t c w.a (BitVec.ofNat 64 st) = .ok c') :
    CompletesPark (.reloc w) s c w.h t c' :=
  completesPark_of_status (exec_reloc_eq w s) hF hsup ((relocBody_of_found hbegin hb hfound ho).trans h) hw

theorem exec_reloc_of_act (h : relocWith w o s c found = act t c) : exec (.reloc w) s = .next (t.updCtx c fun d => { d with wait := .action }) :=
  exec_of_act (exec_reloc_eq w s) hF hsup ((relocBody_of_found hbegin hb hfound ho).trans h)

end
end

/-! ### What each finds of its task -/

section
variable {w : FormX} {s : State} {c : Ctx} {t : Task}

section
variable {kill : Bool} (hstop : t.stopping = [])
include hstop

theorem preemptWith_of_stopped (hown : t.num ≠ c.task) (h : t.phase = .stopped) :
    preemptWith w kill s c (some t) = giveStatus s c w.a (if c.acting then 0 else 2) := by
  cases hact : c.acting <;> simp [preemptWith, hown, hstop, h, hact]

theorem preemptWith_of_running (hown : t.num ≠ c.task) (h : t.phase = .running) :
    preemptWith w kill s c (some t) = act (s.beginStop t.num (if kill then 1 else 0)) c := by
  simp [preemptWith, hown, hstop, h]

theorem preemptWith_of_unplaced (hown : t.num ≠ c.task) (h : t.phase = .waiting ∨ t.phase = .ready) :
    preemptWith w kill s c (some t) = if kill then giveStatus (s.terminate t.num) c w.a 0 else giveStatus s c w.a 2 := by
  rcases h with h | h <;> simp [preemptWith, hown, hstop, h]

theorem resumeWith_of_not_stopped (h : t.phase ≠ .stopped) : resumeWith w s c (some t) = giveStatus s c w.a (if c.acting then 0 else 2) := by
  simp [resumeWith, hstop, h]

theorem resumeWith_of_stopped (h : t.phase = .stopped) (hres : t.resuming = false) :
    resumeWith w s c (some t) = act (s.updTask t.num fun u => { u with resuming := true, readyAt := s.ticks }) c := by
  simp [resumeWith, hstop, h, hres]

end

theorem preemptWith_of_none {kill : Bool} : preemptWith w kill s c none = giveStatus s c w.a (if c.acting then 0 else 1) := rfl

theorem resumeWith_of_none : resumeWith w s c none = giveStatus s c w.a (if c.acting then 0 else 1) := rfl

theorem relocWith_of_none {o : Word} : relocWith w o s c none = giveStatus s c w.a (if c.acting then 0 else 1) := rfl

theorem preemptWith_of_own {kill : Bool} (h : t.num = c.task) : preemptWith w kill s c (some t) = giveStatus s c w.a 2 := if_pos h

variable {o : Word}

theorem relocWith_of_fixed (hact : c.acting = false) (hstop : t.stopping = []) (h : t.blk.reloc = false ∨ t.phase = .waiting ∨ t.phase = .ready) :
    relocWith w o s c (some t) = giveStatus s c w.a 3 := by
  rcases h with h | h | h <;> simp [relocWith, hact, hstop, h]

theorem relocWith_of_candidate (hact : c.acting = false) (hstop : t.stopping = []) (hreloc : t.blk.reloc = true) (hrun : t.phase = .running)
    (halign : o.toNat ∈ alignedOrigins t.blk.w t.blk.h) (hdie : dieOfTile o.toNat ≠ dieOfTile t.origin) (hcand : s.isCandidate t o.toNat = true) :
    relocWith w o s c (some t) = act ((s.updTask t.num fun u => { u with target := some o.toNat, readyAt := s.ticks }).beginStop t.num 0) c := by
  simp [relocWith, hact, hstop, hreloc, hrun, halign, hdie, hcand]

theorem relocWith_of_placed (hact : c.acting = true) (hrun : t.phase = .running) (htarget : t.target = none) :
    relocWith w o s c (some t) = giveStatus s c w.a 0 := by
  simp [relocWith, hact, hrun, htarget]

end

/-! ### RESUME of one context -/

section
variable {w : FormX} {s : State} {c c' d : Ctx} {b : Word} (hF : Fires s c w.h [w.b]) (hsup : c.supervisor = true)
  (hb : readVal c w.b = .ok b) (hpark : parkGate s c = .ok ())
include hF hsup hb hpark

theorem completesPark_resumeOne_of_none (h : selected s b = none) (hw : writeVal s c w.a (BitVec.ofNat 64 1) = .ok c') :
    CompletesPark (.resumeCtx w) s c w.h s c' ∧ CompletesPark (.resumeRemove w) s c w.h s c' :=
  ⟨completesPark_of_status (exec_resumeCtx w s) hF hsup (by simp only [hb, hpark, h, try_bind_ok]) hw,
    completesPark_of_status (exec_resumeRemove w s) hF hsup (by simp only [hb, hpark, h, try_bind_ok]) hw⟩

theorem completesPark_resumeOne_of_running (h : selected s b = some d) (hd : d.faulted = none)
    (hw : writeVal s c w.a (BitVec.ofNat 64 2) = .ok c') :
    CompletesPark (.resumeCtx w) s c w.h s c' ∧ CompletesPark (.resumeRemove w) s c w.h s c' :=
  have hd : d.faulted.isNone = true := Option.isNone_iff_eq_none.mpr hd
  ⟨completesPark_of_status (exec_resumeCtx w s) hF hsup (by simp only [hb, hpark, h, hd, try_bind_ok, if_true]) hw,
    completesPark_of_status (exec_resumeRemove w s) hF hsup (by simp only [hb, hpark, h, hd, try_bind_ok, if_true]) hw⟩

variable (h : selected s b = some d) (hd : d.faulted ≠ none)
include h hd

theorem completesPark_resumeCtx {t : State} (ht : (s.setCtx { d with faulted := none }).resumePark { d with faulted := none } = t)
    (hw : writeVal t (t.again c) w.a (BitVec.ofNat 64 0) = .ok c') : CompletesPark (.resumeCtx w) s c w.h t c' := by
  subst ht
  have hd : ¬ d.faulted.isNone = true := fun hn => hd (Option.isNone_iff_eq_none.mp hn)
  exact completesPark_of_status (exec_resumeCtx w s) hF hsup (by simp only [hb, hpark, h, try_bind_ok]; exact if_neg hd) hw

theorem completesPark_resumeRemove (hw : writeVal (s.removeCtx d) c w.a (BitVec.ofNat 64 0) = .ok c') :
    CompletesPark (.resumeRemove w) s c w.h (s.removeCtx d) c' := by
  have hd : ¬ d.faulted.isNone = true := fun hn => hd (Option.isNone_iff_eq_none.mp hn)
  exact completesPark_of_status (exec_resumeRemove w s) hF hsup (by simp only [hb, hpark, h, try_bind_ok]; exact if_neg hd) hw

end

/-- Settles O41: the gate, the task or the context that the operand names, and the branch for what it is. -/
theorem taskControl : Obligations.TaskControl := by
  unfold Obligations.TaskControl
  refine ⟨?tasks, ?one⟩
  case tasks =>
    intro w s c c' b hsup hb
    extract_lets gives waits
    have status {i : Instr} {rest : State → Ctx → Option Task → Try Done} {found : Option Task} {t : State} {st : Nat} (hbegin : Begins s c)
        (hexec : exec i s = runUniform s w.h true (some w.a) [w.b] (lookThen w rest)) (hfound : s.taskByTid b = found) (hF : Fires s c w.h [w.b])
        (h : rest s c found = giveStatus t c w.a st) : gives i t st := fun hw => completesPark_of_look hsup hbegin hb hfound hexec hF h hw
    refine ⟨fun hF hpark hwait => ?begin, fun hF hwait => ?acting, fun o hF ho => ⟨fun hpark hwait => ?relocBegin, fun hwait t ht hrun htarget hw => ?relocActing⟩⟩
    case begin =>
      have hact := acting_eq_false hwait
      have hbegin : Begins s c := .inr hpark
      refine ⟨fun hnone => ?_, fun t ht hstop => ⟨fun h => ?_, fun hrun hown => ?_, fun h hown => ?_, fun h => ?_, fun h hres => ?_⟩⟩
      · exact ⟨status hbegin (exec_preempt_eq w s) hnone hF (by rw [preemptWith_of_none, hact]; rfl),
          status hbegin (exec_preemptKill_eq w s) hnone hF (by rw [preemptWith_of_none, hact]; rfl),
          status hbegin (exec_resume_eq w s) hnone hF (by rw [resumeWith_of_none, hact]; rfl)⟩
      · have hgive (kill : Bool) : preemptWith w kill s c (some t) = giveStatus s c w.a 2 := by
          by_cases hown : t.num = c.task
          · exact preemptWith_of_own hown
          · rw [preemptWith_of_stopped hstop hown (h.resolve_right hown), hact]
            rfl
        exact ⟨status hbegin (exec_preempt_eq w s) ht hF (hgive false), status hbegin (exec_preemptKill_eq w s) ht hF (hgive true)⟩
      · exact ⟨exec_of_look hsup hbegin hb ht (exec_preempt_eq w s) hF (preemptWith_of_running hstop hown hrun),
          exec_of_look hsup hbegin hb ht (exec_preemptKill_eq w s) hF (preemptWith_of_running hstop hown hrun)⟩
      · exact ⟨status hbegin (exec_preempt_eq w s) ht hF (preemptWith_of_unplaced hstop hown h),
          status hbegin (exec_preemptKill_eq w s) ht hF (preemptWith_of_unplaced hstop hown h)⟩
      · exact status hbegin (exec_resume_eq w s) ht hF (by rw [resumeWith_of_not_stopped hstop h, hact]; rfl)
      · exact exec_of_look hsup hbegin hb ht (exec_resume_eq w s) hF (resumeWith_of_stopped hstop h hres)
    case acting =>
      have hact := acting_eq_true hwait
      have hbegin : Begins s c := .inl hact
      refine ⟨fun hnone => ?_, fun t ht hstop => ⟨fun h hown => ?_, fun h => ?_⟩⟩
      · exact ⟨status hbegin (exec_preempt_eq w s) hnone hF (by rw [preemptWith_of_none, hact]; rfl),
          status hbegin (exec_preemptKill_eq w s) hnone hF (by rw [preemptWith_of_none, hact]; rfl),
          status hbegin (exec_resume_eq w s) hnone hF (by rw [resumeWith_of_none, hact]; rfl)⟩
      · exact ⟨status hbegin (exec_preempt_eq w s) ht hF (by rw [preemptWith_of_stopped hstop hown h, hact]; rfl),
          status hbegin (exec_preemptKill_eq w s) ht hF (by rw [preemptWith_of_stopped hstop hown h, hact]; rfl)⟩
      · exact status hbegin (exec_resume_eq w s) ht hF (by rw [resumeWith_of_not_stopped hstop h, hact]; rfl)
    case relocBegin =>
      have hact := acting_eq_false hwait
      refine ⟨fun hnone hw => ?_, fun t ht hstop => ⟨fun h hw => ?_, fun hreloc hrun halign hdie hcand => ?_⟩⟩
      · exact completesPark_reloc hsup (.inr hpark) hb hnone hF ho (by rw [relocWith_of_none, hact]; rfl) hw
      · exact completesPark_reloc hsup (.inr hpark) hb ht hF ho (relocWith_of_fixed hact hstop h) hw
      · exact exec_reloc_of_act hsup (.inr hpark) hb ht hF ho (relocWith_of_candidate hact hstop hreloc hrun halign hdie hcand)
    case relocActing =>
      have hact := acting_eq_true hwait
      exact completesPark_reloc hsup (.inl hact) hb ht hF ho (relocWith_of_placed hact hrun htarget) hw
  case one =>
    intro w s c c' b hsup hb hF hpark
    extract_lets named gives
    refine ⟨fun hnone => ?_, fun d hsome => ⟨fun hd => ?_, fun hd => ?_⟩⟩
    · exact ⟨fun hw => (completesPark_resumeOne_of_none hF hsup hb hpark hnone hw).1, fun hw => (completesPark_resumeOne_of_none hF hsup hb hpark hnone hw).2⟩
    · exact ⟨fun hw => (completesPark_resumeOne_of_running hF hsup hb hpark hsome hd hw).1,
        fun hw => (completesPark_resumeOne_of_running hF hsup hb hpark hsome hd hw).2⟩
    · extract_lets t
      exact ⟨completesPark_resumeCtx hF hsup hb hpark hsome hd rfl, completesPark_resumeRemove hF hsup hb hpark hsome hd⟩

end Sys2Proof.Claims
end

section
/-! PROOFS. The translation instructions (O42). -/

namespace Sys2Proof.Claims

open Sys2Proof.Machine

/-! ### PGINFO and CNTRD -/

section
variable {w : FormX} {s : State} {c : Ctx} {a : Word} {e : Option Leaf} {bad : Bool} (ha : pageAddr c w.b = .ok a) (hlook : lookPage s c a = .ok (e, bad))
include ha hlook

theorem givesValue_pginfo :
    GivesValue (.pginfo w) w.h w.a [w.b] s c (if bad then 256 else BitVec.ofNat 64 ((e.map pageInfo).getD 0)) 0 := by
  refine gives (exec_pginfo w s) ?_
  rw [try_bind_of_ok ha, try_bind_of_ok hlook]
  cases bad <;> rfl

theorem givesValue_cntrd_of_counted {l : Leaf} (he : e = some l) (htier : l.tier ≠ 3) (hcnt : l.cnt = true) :
    GivesValue (.cntrd w) w.h w.a [w.b] s c
      (BitVec.ofNat 64 ((s.counter l.cslot).count + 2 ^ 16 + if l.cslot ∈ s.xlat.notified then 2 ^ 17 else 0)) 0 := by
  refine gives (exec_cntrd w s) ?_
  rw [try_bind_of_ok ha, try_bind_of_ok hlook]
  subst he
  refine (if_neg (by simp [htier, hcnt])).trans ?_
  by_cases hn : l.cslot ∈ s.xlat.notified <;> simp [hn, b2n]

theorem givesValue_cntrd_of_uncounted (he : e = none ∨ ∃ l, e = some l ∧ (l.tier = 3 ∨ l.cnt = false)) : GivesValue (.cntrd w) w.h w.a [w.b] s c 0 0 := by
  refine gives (exec_cntrd w s) ?_
  rw [try_bind_of_ok ha, try_bind_of_ok hlook]
  rcases he with rfl | ⟨l, rfl, h⟩
  · rfl
  · exact if_pos (by simpa using h)

end

/-! ### TLBINV -/

section
variable {s : State} {c : Ctx} {lo n : Nat}

theorem runTlbinv_of_gate (hwait : c.wait ≠ .action) (hpark : parkGate s c = .ok ()) :
    runTlbinv s c lo n = act ((s.invalidate lo n).sendInvalidation c) c := by
  simp only [runTlbinv, acting_eq_false hwait, hpark, Bool.not_false, if_true, try_bind_ok]

theorem runTlbinv_of_used (hwait : c.wait = .action) (h : s.pageInUse lo n = true ∨ s.packetsDone (.inval c.key) = false) :
    runTlbinv s c lo n = stall s := by
  have hbusy : (s.pageInUse lo n || !s.packetsDone (.inval c.key)) = true := by rcases h with h | h <;> simp [h]
  simp only [runTlbinv, acting_eq_true hwait, Bool.not_true, Bool.false_eq_true, if_false, hbusy, if_true]

theorem runTlbinv_of_done (hwait : c.wait = .action) (huse : s.pageInUse lo n = false) (hdone : s.packetsDone (.inval c.key) = true) :
    runTlbinv s c lo n = .ok { s := s.dropPackets (.inval c.key), c := c.clearLatch, ends := true } := by
  have hidle : (s.pageInUse lo n || !s.packetsDone (.inval c.key)) = false := by simp [huse, hdone]
  simp only [runTlbinv, acting_eq_true hwait, Bool.not_true, Bool.false_eq_true, if_false, hidle, try_pure]

variable {i : Instr} {h : Common} {ops : List Operand} {body : State → Ctx → Try Done} (hexec : exec i s = runUniform s h true none ops body)
  (hF : Fires s c h ops) (hsup : c.supervisor = true) (hbody : body s c = runTlbinv s c lo n)
include hexec hF hsup hbody

/-- An invalidation begins, waits for the accesses that used the range, and completes (R346). -/
theorem invalidates :
    (c.wait ≠ .action → parkGate s c = .ok () →
      exec i s = .next (((s.invalidate lo n).sendInvalidation c).updCtx c fun d => { d with wait := .action })) ∧
    (c.wait = .action → s.pageInUse lo n = true ∨ s.packetsDone (.inval c.key) = false → exec i s = .next s) ∧
    (c.wait = .action → s.pageInUse lo n = false → s.packetsDone (.inval c.key) = true → CompletesPark i s c h (s.dropPackets (.inval c.key)) c.clearLatch) :=
  ⟨fun hwait hpark => hexec.trans (uni_stall hF (fun _ => hsup) (hbody.trans (runTlbinv_of_gate hwait hpark))),
    fun hwait hbusy => hexec.trans (uni_stall hF (fun _ => hsup) (hbody.trans (runTlbinv_of_used hwait hbusy))),
    fun hwait huse hdone => completesPark_of_uniform hexec hF (fun _ => hsup) (hbody.trans (runTlbinv_of_done hwait huse hdone))⟩

end

/-! ### MIGR -/

/-- MIGR that begins, with the entry of its page looked up (R347). -/
def migrBegin (w : FormX) (t : Word) (s : State) (c : Ctx) (r : WalkEnd) : Try Done := do
  let s := s.accessLeaf r
  match r with
  | .malformed => giveStatus s c w.a 5
  | .unmapped => giveStatus s c w.a 1
  | .leaf e =>
    if e.tier = 3 then giveStatus s c w.a 1
    else if e.wblock || e.poison || s.xlat.migrations.any fun m => m.leaf.va == e.va && m.status.isNone then giveStatus s c w.a 2
    else if targetBad e t.toNat then giveStatus s c w.a 3
    else if 8 ≤ (s.xlat.migrations.filter fun m => m.status.isNone).length then stall s
    else act (s.beginMigration c e t) c

/-- MIGR that has begun, with the migration that it waits for (R347). -/
def migrWait (w : FormX) (s : State) (c : Ctx) : Option Migration → Try Done
  | some m => match m.status with
    | some st => giveStatus { s with xlat := { s.xlat with migrations := s.xlat.migrations.filter fun x => x != m } } c w.a st
    | none => stall s
  | none => giveStatus s c w.a 0

/-- The body of MIGR (R347). -/
def migrBody (w : FormX) (s : State) (c : Ctx) : Try Done := do
  let a ← pageAddr c w.b
  let t ← readVal c w.c
  if c.acting then migrWait w s c (s.xlat.migrations.find? fun m => m.ctx.any fun i => i.is c)
  else
    parkGate s c
    migrBegin w t s c (if s.xlatOn then s.walkAll (vaOf a) else .unmapped)

theorem exec_migr_eq (w : FormX) (s : State) : exec (.migr w) s = runUniform s w.h true (some w.a) [w.b, w.c] (migrBody w) := rfl

section
variable {w : FormX} {s : State} {c : Ctx} {a t : Word} (ha : pageAddr c w.b = .ok a) (ht : readVal c w.c = .ok t)
include ha ht

theorem migrBody_of_begin {r : WalkEnd} (hwait : c.wait ≠ .action) (hpark : parkGate s c = .ok ())
    (hr : (if s.xlatOn then s.walkAll (vaOf a) else .unmapped) = r) : migrBody w s c = migrBegin w t s c r := by
  simp only [migrBody, ha, ht, acting_eq_false hwait, hpark, hr, try_bind_ok, Bool.false_eq_true, if_false]

theorem migrBody_of_wait {m : Option Migration} (hwait : c.wait = .action) (hm : s.xlat.migrations.find? (fun m => m.ctx.any fun i => i.is c) = m) :
    migrBody w s c = migrWait w s c m := by
  simp only [migrBody, ha, ht, acting_eq_true hwait, hm, try_bind_ok, if_true]

end

/-- The page is being moved, or may not be: it is blocked or poisoned, or a migration of it has not ended (R347). -/
def taken (s : State) (e : Leaf) : Bool := e.wblock || e.poison || s.xlat.migrations.any fun m => m.leaf.va == e.va && m.status.isNone

theorem taken_iff (s : State) (e : Leaf) :
    taken s e = true ↔ e.wblock = true ∨ e.poison = true ∨ ∃ m ∈ s.xlat.migrations, m.leaf.va = e.va ∧ m.status = none := by
  simp [taken, or_assoc]

theorem accessLeaf_xlat (s : State) (r : WalkEnd) : (s.accessLeaf r).xlat = s.xlat := by
  unfold State.accessLeaf
  split
  · split <;> rfl
  · rfl

section
variable {w : FormX} {t : Word} {s : State} {c : Ctx} {e : Leaf}

theorem migrBegin_of_tier3 (h : e.tier = 3) : migrBegin w t s c (.leaf e) = giveStatus (s.accessLeaf (.leaf e)) c w.a 1 := if_pos h

variable (htier : e.tier ≠ 3)
include htier

theorem migrBegin_of_taken (h : taken s e = true) : migrBegin w t s c (.leaf e) = giveStatus (s.accessLeaf (.leaf e)) c w.a 2 :=
  (if_neg htier).trans (if_pos (by rw [accessLeaf_xlat]; exact h))

variable (hfree : ¬ taken s e = true)
include hfree

theorem migrBegin_of_bad (h : targetBad e t.toNat = true) : migrBegin w t s c (.leaf e) = giveStatus (s.accessLeaf (.leaf e)) c w.a 3 :=
  (if_neg htier).trans ((if_neg (by rw [accessLeaf_xlat]; exact hfree)).trans (if_pos h))

theorem migrBegin_of_room (hgood : targetBad e t.toNat = false) (hroom : (s.xlat.migrations.filter fun m => m.status.isNone).length < 8) :
    migrBegin w t s c (.leaf e) = act ((s.accessLeaf (.leaf e)).beginMigration c e t) c :=
  (if_neg htier).trans ((if_neg (by rw [accessLeaf_xlat]; exact hfree)).trans ((if_neg (Bool.eq_false_iff.mp hgood)).trans
    (if_neg (by rw [accessLeaf_xlat]; exact Nat.not_le.mpr hroom))))

end

/-- Settles O42: what a page's entry says, the three turns of an invalidation, and MIGR by the entry of its page or the migration that it waits for. -/
theorem translationInstructions : Obligations.TranslationInstructions := by
  unfold Obligations.TranslationInstructions
  refine ⟨?look, ?inv, ?migr⟩
  case look =>
    intro w s c a e bad ha hlook
    exact ⟨givesValue_pginfo ha hlook, fun l he htier hcnt => givesValue_cntrd_of_counted ha hlook he htier hcnt, givesValue_cntrd_of_uncounted ha hlook⟩
  case inv =>
    intro w s c hsup
    extract_lets inv
    refine ⟨fun a n hF ha hn => ?_, fun hF => ?_⟩
    · exact invalidates (exec_tlbinv w s) hF hsup ((try_bind_of_ok ha _).trans (try_bind_of_ok hn _))
    · exact invalidates (exec_tlbinvAll w s) hF hsup rfl
  case migr =>
    intro w s c c' a t hsup hF ha ht
    extract_lets gives
    have status {u : State} {st : Nat} (h : migrBody w s c = giveStatus u c w.a st) : gives u st :=
      completesPark_of_status (exec_migr_eq w s) hF hsup h
    refine ⟨fun hwait hpark => ?begin, fun hwait => ?wait⟩
    case begin =>
      have look {r : WalkEnd} := migrBody_of_begin (w := w) (r := r) ha ht hwait hpark
      refine ⟨fun hun => ?_, fun hon hr => ?_, fun e hon hr => ?_⟩
      · refine status (look (r := .unmapped) ?_)
        rcases hun with hoff | hr
        · rw [hoff]
          rfl
        · rw [hr, ite_self]
      · exact status (look (r := .malformed) (by rw [hon, hr]; rfl))
      · have look := look (r := .leaf e) (by rw [hon, hr]; rfl)
        extract_lets u isTaken
        have htaken : taken s e = true ↔ isTaken := taken_iff s e
        exact ⟨fun htier => status (look.trans (migrBegin_of_tier3 htier)),
          fun htier h => status (look.trans (migrBegin_of_taken htier (htaken.mpr h))),
          fun htier h hbad => status (look.trans (migrBegin_of_bad htier (mt htaken.mp h) hbad)),
          fun htier h hgood hroom => exec_of_act (exec_migr_eq w s) hF hsup (look.trans (migrBegin_of_room htier (mt htaken.mp h) hgood hroom))⟩
    case wait =>
      refine ⟨fun m st hm hst => status ?_, fun hnone => status ?_⟩
      · rw [migrBody_of_wait ha ht hwait hm]
        simp only [migrWait, hst]
        rfl
      · refine migrBody_of_wait (m := none) ha ht hwait (List.find?_eq_none.mpr fun m hm => ?_)
        cases hctx : m.ctx with
        | none => simp
        | some i => simp [hnone m hm i hctx]

end Sys2Proof.Claims
end

section
/-! PROOFS. The events of a context (O43). -/

namespace Sys2Proof.Claims

open Sys2Proof.Machine

/-! ### Faults, lines and waits -/

section
variable {s : State} {c : Ctx} (hc : s.ctx? s.sel.ctx = some c)
include hc

theorem happens_undefinedOpcode (w : Word) : Happens (.undefinedOpcode w) s (s.dueFault c { code := fcILLEGAL }) := by
  simp only [Happens, exec_undefinedOpcode, execUndefinedOpcode, hc]

theorem happens_yieldExpiry {d : Nat} (hwait : c.wait = .yield d) (hd : d ≠ 0) (h : d ≤ s.cycle ∨ s.othersReady c = false) :
    Happens .yieldExpiry s (s.updCtx c fun x => { x with wait := .yield 0 }) := by
  have hdue : (d != 0 && (d ≤ s.cycle || !s.othersReady c)) = true := by simp [hd, h]
  simp only [Happens, exec_yieldExpiry, execYieldExpiry, hc, hwait, hdue, if_true]

theorem happens_gangForwardArrival {f : FwdWord} {r : List FwdWord} (hwire : c.fwdWire = f :: r) (hdue : f.due ≤ s.cycle) :
    Happens .gangForwardArrival s (s.updCtx c fun x => { x with fwd := x.fwd ++ [f], fwdWire := r }) := by
  simp only [Happens, exec_gangForwardArrival, execGangForwardArrival, hc, hwire, hdue, if_true]

theorem faults_waitTimeout {d : Nat} (hwait : c.wait = .engine (some d)) (hd : d ≤ s.ticks) (hf : c.faulted = none) :
    Faults .waitTimeout s c { code := fcTIMEOUT } := by
  have hlate : (s.waitLate c && c.faulted.isNone) = true := by simp [State.waitLate, hwait, hd, hf]
  simp only [Faults, exec_waitTimeout, execWaitTimeout, hc, hlate, if_true]

theorem happens_registerCacheFill {ls : List Nat} (hwant : c.want = some ls) (hl : s.sel.a ∈ ls) :
    Happens .registerCacheFill s (s.fillLine c s.sel.a) := by
  have hin : ((c.want.getD []).contains s.sel.a) = true := by simp [hwant, hl]
  simp only [Happens, exec_registerCacheFill, execRegisterCacheFill, hc, hin, if_true]

theorem happens_inflightFault {t : Token} (ht : t ∈ c.outstanding) (hb : s.sel.b = 0) (hcode : s.sel.c ≠ 0) (hbad : s.tokenFault t = s.sel.c) {c' : Ctx}
    (hc' : c' = { c with outstanding := c.outstanding.map fun u => if s.tokenFault u = s.sel.c then u.fail s.sel.c (s.tokenSpot u) else u }) :
    Happens .exchangeInflightFault s ((s.setCtx c').settle c') := by
  subst hc'
  have hany : s.sel.c ≠ 0 ∧ c.outstanding.any (fun t => s.tokenFault t == s.sel.c) = true :=
    ⟨hcode, List.any_eq_true.mpr ⟨t, ht, beq_iff_eq.mpr hbad⟩⟩
  rw [Happens, exec_exchangeInflightFault, execExchangeInflightFault, if_neg (not_not_intro hb), hc]
  exact if_pos hany

end

/-- A filled line stands in each record of its context, and no register changes. -/
theorem mem_lines_fillLine {s : State} {c d : Ctx} {l : Nat} (hd : d ∈ (s.fillLine c l).ctxs) (hsame : d.same c = true) : l ∈ d.lines := by
  obtain ⟨e, -, rfl⟩ := List.mem_map.mp hd
  split at hsame
  · next he =>
    rw [if_pos he]
    exact List.mem_cons_self
  · next he => exact absurd hsame he

theorem updCtx_rf (s : State) (c : Ctx) {f : Ctx → Ctx} (hf : ∀ d, (f d).rf = d.rf) :
    (s.updCtx c f).ctxs.map (fun d => d.rf) = s.ctxs.map (fun d => d.rf) := by
  rw [State.updCtx, List.map_map]
  refine List.map_congr_left fun d _ => ?_
  rw [Function.comp_apply]
  split <;> [exact hf d; rfl]

theorem fillLine_rf (s : State) (c : Ctx) (l : Nat) : (s.fillLine c l).ctxs.map (fun d => d.rf) = s.ctxs.map (fun d => d.rf) := by
  unfold State.fillLine
  refine Eq.trans (updCtx_rf _ c ?_) ?_
  · exact fun d => rfl
  split
  · refine updCtx_rf s _ ?_
    exact fun d => rfl
  · rfl

/-! ### The end of a WFE -/

theorem parkGate_of_idle {s : State} {c : Ctx} (hheld : c.heldAt c.pc = false) (hlive : c.live = []) (hbad : c.badToken = none) :
    parkGate s c = .ok () := by
  simp [parkGate, hheld, hlive, hbad]

theorem happens_wfeLimitExpiry {s : State} {c c' : Ctx} {w : FormA} {d : Nat} {x : Word} (hc : s.ctx? s.sel.ctx = some c)
    (hwait : c.wait = .wfe w (some d)) (hd : d ≤ s.cycle) (hevq : c.evq = []) (hown : c.follower = false) {s1 : State} {c1 : Ctx}
    (hs1 : s1 = s.updCtx c fun e => { e with wait := .wfe w (some 0) }) (hc1 : c1 = { c with wait := .wfe w (some 0) })
    (hF : Fires s1 c1 w.h [w.a]) (hx : readVal c1 w.a = .ok x) (hheld : c.heldAt c.pc = false) (hlive : c.live = []) (hbad : c.badToken = none)
    (hw : writeVal s1 c1 w.dst 0 = .ok c') :
    Happens .wfeLimitExpiry s (forwardIssue c (.wfe w) ((encode (.wfe w)).getD 0) (({ s := s1, c := c', ends := true } : Done).finish c1 w.h)) := by
  have hdue : (d ≤ s.cycle && c.evq.isEmpty) = true := by simp [hd, hevq]
  have hrun : execWfe w s1 = .next (({ s := s1, c := c', ends := true } : Done).finish c1 w.h) := by
    subst hc1
    exact completesPark_wfe_of_limit hF hx (parkGate_of_idle hheld hlive hbad) hown hevq rfl hw
  subst hs1
  simp only [Happens, exec_wfeLimitExpiry, execWfeLimitExpiry, hc, hwait, hdue, if_true, hrun]

/-! ### The entry of a handler -/

/-- The record of a context that enters its handler with an event (R205). -/
def Ctx.entered (c : Ctx) (e : UEvent) (r : List UEvent) : Ctx :=
  ({ c with evq := r }.endRegion).enterHandler e ({ c with wait := .none }.saveAt c.pc false) c.ulevec

section
variable {s : State} {c : Ctx} {e : UEvent} {r : List UEvent} (hc : s.ctx? s.sel.ctx = some c) (hevq : c.evq = e :: r) (hdel : c.deliverable = true)
include hc hevq hdel

theorem happens_userEventEntry :
    Happens .userEventEntry s ((s.setCtx { c with wait := .entry }).settle { c with wait := .entry }) := by
  simp only [Happens, exec_userEventEntry, execUserEventEntry, hc, hevq, hdel, if_true]

end

section
variable {s : State} {c : Ctx} {e : UEvent} {r : List UEvent} (hwait : c.wait = .entry) (hevq : c.evq = e :: r)
include hwait hevq

theorem settle_entry_of_live (hlive : c.live ≠ []) : s.settle c = s := by
  have hbusy : (!c.live.isEmpty || c.faulted.isSome) = true := by simp [hlive]
  simp only [State.settle, hwait, hevq, hbusy, if_true]

variable (hlive : c.live = []) (hf : c.faulted = none)
include hlive hf

theorem settle_entry_of_bad {t : Token} (hbad : c.badToken = some t) :
    s.settle c = s.takeFault c { code := t.bad, inflight := true, addr := t.spot, element := t.element } := by
  have hidle : (!c.live.isEmpty || c.faulted.isSome) = false := by simp [hlive, hf]
  simp only [State.settle, hwait, hevq, hidle, hbad, Bool.false_eq_true, if_false]

theorem settle_entry_of_free (hbad : c.badToken = none) : s.settle c = (s.setCtx (Ctx.entered c e r)).forwardEntry (Ctx.entered c e r) e := by
  have hidle : (!c.live.isEmpty || c.faulted.isSome) = false := by simp [hlive, hf]
  simp only [State.settle, hwait, hevq, hidle, hbad, Bool.false_eq_true, if_false]
  rfl

end

/-! ### Memory while faults are taken and parks settle -/

theorem takeFault_parks (s : State) {c : Ctx} {t : Trap} (hdel : c.delegates t.code = false) :
    ∃ d, s.takeFault c t = (((s.forgetWalks c.key).holdWork (c.faulting t) t.work).setCtx d).postFault d := by
  have hdel' : ¬((c.faulting t).delegates t.code = true) := by rw [Bool.not_eq_true]; exact hdel
  exact ⟨_, if_neg hdel'⟩

@[simp] theorem takeFault_mem (s : State) (c : Ctx) (t : Trap) : (s.takeFault c t).mem = s.mem := by
  have hu : ((s.forgetWalks c.key).holdWork (c.faulting t) t.work).mem = s.mem := (State.holdWork_mem _ _ _).trans (State.forgetWalks_mem s _)
  cases hdel : c.delegates t.code with
  | true =>
    rw [takeFault_of_delegated s hdel]
    exact (State.forwardEntry_mem _ _ _).trans hu
  | false =>
    obtain ⟨d, hd⟩ := takeFault_parks s hdel
    exact (congrArg State.mem hd).trans hu

@[simp] theorem settle_mem (s : State) (c : Ctx) : (s.settle c).mem = s.mem := by
  by_cases hidle : (!c.live.isEmpty || c.faulted.isSome) = true
  · cases hwait : c.wait <;> simp only [State.settle, hwait, hidle, if_true]
    cases hevq : c.evq <;> rfl
  rw [Bool.not_eq_true] at hidle
  cases hbad : c.badToken with
  | some t =>
    cases hwait : c.wait <;> simp only [State.settle, hwait, hidle, hbad, Bool.false_eq_true, if_false, takeFault_mem]
    cases hevq : c.evq <;> simp only [takeFault_mem]
  | none =>
    cases hwait : c.wait <;> simp only [State.settle, hwait, hidle, hbad, Bool.false_eq_true, if_false, State.setCtx_mem]
    cases hevq : c.evq <;> simp only [State.forwardEntry_mem, State.setCtx_mem]

theorem settle_of_free {s : State} {c : Ctx} (h : c.wait = .none) : s.settle c = s := by
  simp only [State.settle, h]

/-! ### The return of a result -/

theorem dropAt_eq_eraseIdx {α : Type} : ∀ (l : List α) (i : Nat), dropAt l i = l.eraseIdx i
  | [], _ => rfl
  | _ :: _, 0 => rfl
  | x :: r, i + 1 => congrArg (x :: ·) (dropAt_eq_eraseIdx r i)

/-- The requests to peers of an access. -/
def requestsOf (s : State) (t : Token) : List RemoteReq := s.fab.requests.filter fun q => q.id == t.id && q.channel.isNone

/-- The cells that peers' replies fill. -/
def repliedCells (s : State) (t : Token) (data : List Byte) : List (Nat × Byte) :=
  let got := replyBytes ((requestsOf s t).filter fun q => !q.write) data
  let bytes := t.keys.map fun k => ((got.find? fun x => x.1 == k).map fun x => x.2).getD 0
  if t.keys.isEmpty then [] else (t.place bytes).filter fun x => !t.dead.contains x.1

/-- The state in which an access's writes have entered memory and its packets and requests are gone. -/
def returnedState (s : State) (t : Token) : State :=
  let s := (requestsOf s t).foldl (fun (s : State) q => s.dropPackets (.reply q.num)) (s.acknowledge t.writes)
  { s.dropPackets (.token t.id) with fab := { s.fab with requests := s.fab.requests.filter fun q => !(q.id == t.id && q.channel.isNone) } }

/-- The record of a context to which a result has returned. -/
def returnedCtx (s : State) (c : Ctx) (t : Token) (data : List Byte) : Ctx :=
  ((returnedState s t).keptImage c).returned (returnedState s t).sel.a { t with cells := t.cells ++ repliedCells s t data } (returnedState s t).sel.flag

section
variable {s : State} {c : Ctx} {t : Token}

theorem happens_resultReturn (hc : s.ctx? s.sel.ctx = some c) (ht : c.outstanding[s.sel.a]? = some t) (hsel : s.sel.c = 0)
    (hready : ¬(t.kind = mxKind ∨ t.bad ≠ 0 ∨ t.held.isSome ∨ !s.packetsDone (.token t.id) ∨ s.tokenUnplaced t ∨ s.tokenPoisoned t ∨ s.tokenRetried c.key t ∨
      s.returnData t ≠ s.returnData t ∨ ((requestsOf s t).any fun q => q.got.isNone || !s.packetsDone (.reply q.num)) ∨ s.sel.flag ≠ s.returnLate t)) :
    Happens (.resultReturn (s.returnData t)) s
      (((returnedState s t).setCtx (returnedCtx s c t (s.returnData t))).settle (returnedCtx s c t (s.returnData t))) := by
  rw [Happens, exec_resultReturn, execResultReturn, if_neg (by omega), if_neg (by omega), hc]
  dsimp only
  rw [ht]
  dsimp only
  exact if_neg hready

end

theorem keepFrozen_ctx? (es : List Staged) (l : List Ctx) (k : CtxKey) {c : Ctx} (h : l.find? (runsOn k) = some c) :
    ∃ f, (keepFrozen es l).find? (runsOn k) = some { c with frozen := f } := by
  rw [keepFrozen, List.find?_map, show (runsOn k ∘ _) = runsOn k from funext fun x => ?_, h]
  · rw [Option.map_some]
    cases hf : c.frozen with
    | none => exact ⟨c.frozen, rfl⟩
    | some f => exact ⟨_, rfl⟩
  · rw [Function.comp_apply]
    split <;> rfl

theorem returnedState_ctxs (s : State) (t : Token) : (returnedState s t).ctxs = (s.acknowledge t.writes).ctxs := by
  have h := foldl_keeps (fun s : State => s.ctxs) (f := fun (s : State) (q : RemoteReq) => s.dropPackets (.reply q.num)) (requestsOf s t)
    (fun _ _ => rfl) (s.acknowledge t.writes)
  exact h

theorem returnedState_mem {s : State} {t : Token} (h : t.writes = []) : (returnedState s t).mem = s.mem := by
  have hfold := foldl_keeps (fun s : State => s.mem) (f := fun (s : State) (q : RemoteReq) => s.dropPackets (.reply q.num)) (requestsOf s t)
    (fun _ _ => rfl) (s.acknowledge t.writes)
  refine Eq.trans hfold ?_
  have hnone : s.staged.filter (fun e : Staged => e.pool == 8 && t.writes.contains e.seq) = [] := by simp [h]
  simp only [State.acknowledge, hnone]
  rfl

theorem refreshLatch_eq (c : Ctx) : ∃ l k, c.refreshLatch = { c with latch := l, latchTok := k } := by
  unfold Ctx.refreshLatch
  split
  · split
    · exact ⟨c.latch, c.latchTok, rfl⟩
    · exact ⟨_, _, rfl⟩
  · exact ⟨c.latch, c.latchTok, rfl⟩

theorem countOverdue_eq (c : Ctx) (n : Nat) : ∃ o q l, c.countOverdue n = { c with odcnt := o, evq := q, uleLost := l } := by
  unfold Ctx.countOverdue
  extract_lets d
  split
  · unfold Ctx.queueEvent
    split
    · exact ⟨_, c.evq, c.uleLost, rfl⟩
    · split
      · exact ⟨_, _, c.uleLost, rfl⟩
      · exact ⟨_, c.evq, _, rfl⟩
  · exact ⟨_, c.evq, c.uleLost, rfl⟩

theorem returned_frame (c : Ctx) (i : Nat) (t : Token) (late : Bool) :
    let d := c.returned i t late
    d.outstanding = c.outstanding.eraseIdx i ∧ d.pc = c.pc ∧ d.wait = c.wait ∧ d.rf = putAll c.rf t.cells ∧ d.task = c.task ∧ d.rank = c.rank ∧
      d.key = c.key ∧ d.stopped = c.stopped := by
  unfold Ctx.returned
  extract_lets c1 c2 c3 d
  obtain ⟨l, k, h3⟩ := refreshLatch_eq c2
  have hd : ∃ o q u, d = { c3 with odcnt := o, evq := q, uleLost := u } := by
    simp only [d]
    split
    · exact countOverdue_eq c3 t.kind
    · exact ⟨c3.odcnt, c3.evq, c3.uleLost, rfl⟩
  obtain ⟨o, q, u, hd⟩ := hd
  rw [hd, show c3 = _ from h3]
  exact ⟨dropAt_eq_eraseIdx _ _, rfl, rfl, rfl, rfl, rfl, rfl, rfl⟩

/-- Of the cells written to a location the last one stands. -/
theorem get_putAll (y : Nat) : ∀ (l : List (Nat × Byte)) {m : Mem} (_ : m.wf = true),
    (putAll m l).get y = ((l.reverse.find? fun x => x.1 == y).map fun x => x.2).getD (m.get y)
  | [], _, _ => rfl
  | x :: r, m, w => by
    refine (get_putAll y r (Mem.wf_set w x.1 x.2)).trans ?_
    rw [List.reverse_cons, List.find?_append, Mem.get_set w]
    cases hr : r.reverse.find? fun x => x.1 == y with
    | some z => rfl
    | none =>
      by_cases hx : x.1 = y
      · simp [hx]
      · simp [hx, Ne.symm hx]

theorem repliedCells_of_plain {s : State} {t : Token} (h : t.keys = []) (data : List Byte) : repliedCells s t data = [] := by
  simp [repliedCells, h]

/-- What the return of a result leaves in the record of a context that does not wait. -/
theorem ctx?_returned {s : State} {c : Ctx} {t : Token} (hc : s.ctx? s.sel.ctx = some c) (hwait : c.wait = .none) (data : List Byte) :
    ∃ d, (((returnedState s t).setCtx (returnedCtx s c t data)).settle (returnedCtx s c t data)).ctx? s.sel.ctx = some d ∧
      d.outstanding = c.outstanding.eraseIdx s.sel.a ∧ d.pc = c.pc ∧ (t.keys = [] → d.rf = putAll c.rf t.cells) := by
  have hsel : (returnedState s t).sel = s.sel :=
    foldl_keeps (fun s : State => s.sel) (f := fun (s : State) (q : RemoteReq) => s.dropPackets (.reply q.num)) (requestsOf s t) (fun _ _ => rfl) _
  obtain ⟨f, hf⟩ := keepFrozen_ctx? (s.staged.filter fun e : Staged => e.pool == 8 && t.writes.contains e.seq) s.ctxs s.sel.ctx hc
  have hlook : (returnedState s t).ctx? s.sel.ctx = some { c with frozen := f } := by
    rw [ctx?_eq, returnedState_ctxs]
    exact hf
  obtain ⟨hout, hpc, hw, hrf, htask, hrank, hkey, hstop⟩ := returned_frame ((returnedState s t).keptImage c) (returnedState s t).sel.a
    { t with cells := t.cells ++ repliedCells s t data } (returnedState s t).sel.flag
  refine ⟨returnedCtx s c t data, ?_, ?_, hpc, fun hkeys => ?_⟩
  · rw [settle_of_free (c := returnedCtx s c t data) (hw.trans hwait)]
    exact ctx?_setCtx hlook htask hrank hkey hstop
  · exact hout.trans (congrArg c.outstanding.eraseIdx (congrArg Selection.a hsel))
  · refine hrf.trans (congrArg (putAll c.rf) ?_)
    rw [repliedCells_of_plain hkeys, List.append_nil]

/-! ### Replies of peers -/

section
variable {s : State} {data : List Byte} (hsel : s.sel.c = 1)
include hsel

theorem happens_reply {q : RemoteReq} (hq : s.fab.requests.find? (fun q => q.num == s.sel.b && !q.lost && q.got.isNone) = some q)
    (hlen : data.length = if q.write then 0 else q.len) (hmig : ∀ m ∈ s.xlat.migrations, m.req ≠ q.id) :
    let s0 := if s.fillNow q then s.cacheLines (fillLines q data) else s
    let s1 := { s0 with fab := { s0.fab with requests := s0.fab.requests.map fun (p : RemoteReq) => if p.num = q.num then { p with got := some data } else p } }
    Happens (.resultReturn data) s (s1.replyLeg q.num q.peer q.ctx.tile s.sel.a s.sel.flag data.length) := by
  have hnone : s.xlat.migrations.find? (fun m => m.req == q.id && m.leaf.tier == 2 && m.data.isNone) = none :=
    List.find?_eq_none.mpr fun m hm => by simp [hmig m hm]
  rw [Happens, exec_resultReturn, execResultReturn, if_pos hsel, peerReply, hq]
  dsimp only
  rw [if_neg (not_not_intro hlen), hnone]
  cases s.fillNow q <;> rfl

theorem happens_lateReply (hreq : ∀ q ∈ s.fab.requests, q.num ≠ s.sel.b) (hsend : ∀ m ∈ s.fab.fsends, m.id ≠ s.sel.b) :
    Happens (.resultReturn data) s s := by
  have hnoReq : s.fab.requests.find? (fun q => q.num == s.sel.b && !q.lost && q.got.isNone) = none :=
    List.find?_eq_none.mpr fun q hq => by simp [hreq q hq]
  have hnoSend : s.fab.fsends.find? (fun m => m.id == s.sel.b && !m.acked) = none :=
    List.find?_eq_none.mpr fun m hm => by simp [hsend m hm]
  simp only [Happens, exec_resultReturn, execResultReturn, hsel, if_true, peerReply, hnoReq, hnoSend]

end

/-- Settles O43: each event by its guard, and the return of a result by what is placed, dropped and written. -/
theorem contextEvents : Obligations.ContextEvents := by
  unfold Obligations.ContextEvents
  intro s
  refine ⟨fun c hc => ⟨?undefined, ?fill, ?wfe, ?yield, ?entry, ?gang, ?timeout, ?inflight, ?ret⟩, ?ecc, ?room, ?reply, ?accept⟩
  case undefined =>
    refine fun w => ⟨fun hlive => ?_, fun hlive => ?_⟩
    · have h := happens_undefinedOpcode hc w
      rwa [State.dueFault, if_pos (by rw [hlive]; rfl)] at h
    · have h := happens_undefinedOpcode hc w
      rwa [State.dueFault, if_neg (by simpa using hlive)] at h
  case fill =>
    exact fun ls hwant hl => ⟨_, happens_registerCacheFill hc hwant hl, rfl, fun d hd hsame => mem_lines_fillLine hd hsame, fillLine_rf s c s.sel.a⟩
  case wfe =>
    intro w d x c' hwait hd hevq hown
    extract_lets s1 c1
    exact fun hF hx hheld hlive hbad hw => happens_wfeLimitExpiry hc hwait hd hevq hown rfl rfl hF hx hheld hlive hbad hw
  case yield => exact fun d hwait hd h => happens_yieldExpiry hc hwait hd h
  case entry =>
    intro e r hevq hdel hf
    extract_lets cw c1 d
    have h : Happens .userEventEntry s ((s.setCtx cw).settle cw) := happens_userEventEntry hc hevq hdel
    refine ⟨fun hlive => ?_, fun t hlive hbad => ?_, fun hlive hbad => ?_⟩
    · rwa [settle_entry_of_live (c := cw) rfl hevq hlive] at h
    · rwa [settle_entry_of_bad (c := cw) rfl hevq hlive hf hbad] at h
    · rw [settle_entry_of_free (c := cw) rfl hevq hlive hf hbad, setCtx_setCtx s (c := cw) (d := Ctx.entered cw e r) (same_of_identity rfl rfl)] at h
      exact h
  case gang => exact fun f r hwire hdue => happens_gangForwardArrival hc hwire hdue
  case timeout => exact fun d hwait hd hf => faults_waitTimeout hc hwait hd hf
  case inflight => exact fun t ht hb hcode hbad => happens_inflightFault hc ht hb hcode hbad rfl
  case ret =>
    intro t ht hsel hkind hbad hheld hdone hplaced hpoison hretry hreplies hlate
    have hready : ¬(t.kind = mxKind ∨ t.bad ≠ 0 ∨ t.held.isSome ∨ !s.packetsDone (.token t.id) ∨ s.tokenUnplaced t ∨ s.tokenPoisoned t ∨
        s.tokenRetried c.key t ∨ s.returnData t ≠ s.returnData t ∨ ((requestsOf s t).any fun q => q.got.isNone || !s.packetsDone (.reply q.num)) ∨
        s.sel.flag ≠ s.returnLate t) := by
      have hgot : (requestsOf s t).any (fun q => q.got.isNone || !s.packetsDone (.reply q.num)) = false := by
        refine List.any_eq_false.mpr fun q hq => ?_
        obtain ⟨hmem, hq⟩ := List.mem_filter.mp hq
        obtain ⟨hid, hchan⟩ := Bool.and_eq_true_iff.mp hq
        obtain ⟨hgot, hdone⟩ := hreplies q hmem (beq_iff_eq.mp hid) (Option.isNone_iff_eq_none.mp hchan)
        simp [hdone, Option.isSome_iff_ne_none.mp hgot]
      simp [hkind, hbad, hheld, hdone, hplaced, hpoison, hretry, hgot, hlate]
    refine ⟨_, happens_resultReturn hc ht hsel hready, fun hwrites => ?_, fun hwait => ?_⟩
    · rw [settle_mem]
      exact returnedState_mem hwrites
    · obtain ⟨d, hd, hout, hpc, hrf⟩ := ctx?_returned (t := t) hc hwait (s.returnData t)
      refine ⟨d, hd, hout, hpc, fun hkeys hwf x => ?_⟩
      rw [hrf hkeys]
      exact get_putAll x t.cells hwf
  case ecc =>
    intro c hmem hc
    refine ⟨fun p => ?_, fun p => ?_⟩
    · rw [Happens, exec_registerEccError, execRegisterEccError, hc]
      rfl
    · rw [Happens, exec_registerEccError, execRegisterEccError, hc]
      rfl
  case room =>
    intro q hq hcode
    have hb : s.sel.b ≠ 0 := by
      have h := List.find?_some hq
      simp only [Bool.and_eq_true, beq_iff_eq] at h
      omega
    rw [Happens, exec_exchangeInflightFault, execExchangeInflightFault, if_pos hb, hq]
    exact if_pos hcode
  case reply =>
    refine fun hsel => ⟨fun q data hq hlen hmig => ?_, fun data hreq hsend => ?_⟩
    · extract_lets s0 s1
      exact happens_reply hsel hq hlen hmig
    · exact happens_lateReply hsel hreq hsend
  case accept =>
    intro l data hsel hl
    rw [Happens, exec_resultReturn, execResultReturn, if_neg (by omega), if_pos hsel, tokenAccepted, hl]

end Sys2Proof.Claims
end

section
/-! PROOFS. Tiles and channels: what a change of one leaves in the others, and what a completed copy leaves (R232). -/

namespace Sys2Proof.Machine

/-! ### Tiles and channels -/

theorem tile_num (s : State) (n : Nat) : (s.tile n).num = n := by
  unfold State.tile
  cases h : s.tiles.find? fun t => t.num == n with
  | none => rfl
  | some t => simpa using List.find?_some h

/-- Among records with numbers, the one that replaces or joins the others is found by its number. -/
theorem find?_put {α : Type} (num : α → Nat) (t : α) (l : List α) :
    (if l.any fun u => num u == num t then l.map fun u => if num u == num t then t else u else l ++ [t]).find? (fun u => num u == num t) = some t := by
  split
  · rename_i hany
    obtain ⟨u, hu, hnum⟩ := List.any_eq_true.1 hany
    induction l with
    | nil => cases hu
    | cons x r ih =>
      rw [List.map_cons, List.find?_cons]
      by_cases hx : (num x == num t) = true
      · simp [hx]
      · rcases List.mem_cons.1 hu with rfl | hu
        · exact absurd hnum hx
        · simp only [hx, Bool.false_eq_true, if_false]
          exact ih (List.any_eq_true.2 ⟨u, hu, hnum⟩) hu
  · rename_i hany
    have hnone : l.find? (fun u => num u == num t) = none := by simpa using hany
    rw [List.find?_append, hnone]
    simp

/-- It leaves the record of every other number. -/
theorem find?_put_other {α : Type} (num : α → Nat) (t : α) {n : Nat} (h : n ≠ num t) (l : List α) :
    (if l.any fun u => num u == num t then l.map fun u => if num u == num t then t else u else l ++ [t]).find? (fun u => num u == n) =
      l.find? (fun u => num u == n) := by
  have ht : (num t == n) = false := beq_false_of_ne h.symm
  split
  · clear * - ht
    induction l with
    | nil => rfl
    | cons x r ih =>
      rw [List.map_cons, List.find?_cons, List.find?_cons, ih]
      by_cases hx : (num x == num t) = true
      · have hxn : (num x == n) = false := by rw [eq_of_beq hx]; exact ht
        simp only [hx, if_true, ht, hxn]
      · rw [if_neg hx]
  · rw [List.find?_append, List.find?_cons, ht]
    simp

theorem tiles_setTile (s : State) (t : Tile) : (s.setTile t).tiles =
    if s.tiles.any fun u => u.num == t.num then s.tiles.map fun u => if u.num == t.num then t else u else s.tiles ++ [t] := by
  unfold State.setTile
  split <;> rfl

theorem tile_setTile (s : State) (t : Tile) : (s.setTile t).tile t.num = t := by
  rw [State.tile, tiles_setTile, find?_put Tile.num t s.tiles]
  rfl

theorem tile_setTile_other (s : State) {t : Tile} {n : Nat} (h : n ≠ t.num) : (s.setTile t).tile n = s.tile n := by
  rw [State.tile, tiles_setTile, find?_put_other Tile.num t h s.tiles]
  rfl

section
variable (s : State) (n : Nat) {f : Tile → Tile} (hf : ∀ t, (f t).num = t.num)
include hf

theorem tile_updTile : (s.updTile n f).tile n = f (s.tile n) := by
  have h := tile_setTile s (f (s.tile n))
  rwa [hf, tile_num] at h

theorem tile_updTile_other {m : Nat} (h : m ≠ n) : (s.updTile n f).tile m = s.tile m :=
  tile_setTile_other s (by rwa [hf, tile_num])

/-- A change of a tile that keeps its channels keeps those of every tile. -/
theorem channels_updTile (hch : ∀ t, (f t).channels = t.channels) (m : Nat) : ((s.updTile n f).tile m).channels = (s.tile m).channels := by
  by_cases h : m = n
  · rw [h, tile_updTile s n hf, hch]
  · rw [tile_updTile_other s n hf h]

end

theorem setChannel_num (t : Tile) (ch : Channel) : (t.setChannel ch).num = t.num := by
  unfold Tile.setChannel
  split <;> rfl

theorem channel_setChannel (t : Tile) (ch : Channel) : (t.setChannel ch).channel ch.num = ch := by
  have hchannels : (t.setChannel ch).channels =
      if t.channels.any fun x => x.num == ch.num then t.channels.map fun x => if x.num == ch.num then ch else x else t.channels ++ [ch] := by
    unfold Tile.setChannel
    split <;> rfl
  rw [Tile.channel, hchannels, find?_put Channel.num ch t.channels]
  rfl

/-- The channel of a number is the one that has just been set. -/
theorem channel_updTile_setChannel (s : State) (n : Nat) (ch : Channel) : ((s.updTile n fun t => t.setChannel ch).tile n).channel ch.num = ch := by
  rw [tile_updTile s n fun t => setChannel_num t ch]
  exact channel_setChannel _ _

theorem tile_of_tiles {s t : State} (h : t.tiles = s.tiles) (n : Nat) : t.tile n = s.tile n := by rw [State.tile, State.tile, h]

/-- Requests of a copy that end change packets and requests alone. -/
theorem endRequests_keeps (s : State) (work : Nat) (which : RemoteReq → Bool) {β : Type} (p : State → β)
    (hpackets : ∀ (s : State) o, p (s.dropPackets o) = p s) (hfab : ∀ (s : State) f, p { s with fab := f } = p s) :
    p (s.endRequests work which) = p s :=
  (hfab _ _).trans (foldl_keeps p _ (fun _ _ => hpackets _ _) s)

section
variable (s : State) (work : Nat) (which : RemoteReq → Bool)
@[simp] theorem State.endRequests_tiles : (s.endRequests work which).tiles = s.tiles := endRequests_keeps s work which State.tiles (fun _ _ => rfl) fun _ _ => rfl
@[simp] theorem State.endRequests_mem : (s.endRequests work which).mem = s.mem := endRequests_keeps s work which State.mem (fun _ _ => rfl) fun _ _ => rfl
@[simp] theorem State.endRequests_staged : (s.endRequests work which).staged = s.staged :=
  endRequests_keeps s work which State.staged (fun _ _ => rfl) fun _ _ => rfl
@[simp] theorem State.endRequests_ctxs : (s.endRequests work which).ctxs = s.ctxs := endRequests_keeps s work which State.ctxs (fun _ _ => rfl) fun _ _ => rfl
end

/-! ### The completion of a copy -/

@[simp] theorem State.updOwner_tiles (s : State) (task rank : Nat) (f : Ctx → Ctx) : (s.updOwner task rank f).tiles = s.tiles := rfl

/-- The record of a channel whose copy is complete (R232). -/
def Channel.completed (ch : Channel) : Channel := { ch with state := .complete, image := none, pages := [], fault := 0 }

/-- The state in which a copy's channel is made complete: its flags are set, and its arrival is sent (R232). -/
def beforeCompletion (s : State) (tile : Nat) (ch : Channel) (t : Template) : State :=
  let s := s.updOwner ch.task ch.rank fun c => c.orFlags ch.flags
  if t.bc != 0 && !ch.nobc then s.sendArrival (recordKey tile (BitVec.ofNat 64 (t.bc / 16 * 16))) ch.bytes ch.work none else s

/-- What follows the completion of a copy changes no tile. -/
theorem tiles_completeCopy (s : State) (tile : Nat) {ch : Channel} {t : Template} (hcopy : ch.copy = some t) (overdue : Bool) :
    (completeCopy s tile ch overdue).tiles = ((beforeCompletion s tile ch t).updTile tile fun u => u.setChannel ch.completed).tiles := by
  unfold completeCopy
  split
  · rename_i hnone
    rw [hnone] at hcopy
    cases hcopy
  · rename_i t' ht
    obtain rfl : t' = t := Option.some.inj (ht.symm.trans hcopy)
    simp only [State.forgetSeeker_tiles, State.dropPackets_tiles, State.endRequests_tiles]
    cases overdue <;> cases (t'.ev && !ch.quiet) <;>
      simp only [Bool.false_eq_true, if_false, if_true, State.updOwner_tiles, State.raise_tiles] <;> rfl

/-- A copy that completes keeps its channel, which is complete then. -/
theorem channel_completeCopy (s : State) (tile : Nat) {ch : Channel} {t : Template} (hcopy : ch.copy = some t) (overdue : Bool) :
    ((completeCopy s tile ch overdue).tile tile).channel ch.num = ch.completed := by
  rw [tile_of_tiles (tiles_completeCopy s tile hcopy overdue)]
  exact channel_updTile_setChannel _ tile ch.completed

end Sys2Proof.Machine
end

section
/-! PROOFS. The events of the package's thread engines (O44). -/

namespace Sys2Proof.Claims

open Sys2Proof.Machine

section
variable {s : State}

theorem happens_slackTick (h : s.tickAt ≤ 10 * s.cycle) : ∃ t, Happens .slackTick s t ∧ t.ticks = s.ticks + 1 ∧ t.podtime = (s.podtime + 1) % 2 ^ 64 ∧
    t.packets = s.packets.map Packet.tick ∧ t.xlat.walks = s.xlat.walks.map Walk.tick ∧ t.fab = s.fab.tick ∧ t.mem = s.mem ∧ t.ctxs = s.ctxs ∧
    t.tiles = s.tiles.map (fun u => { u with channels := u.channels.map fun ch => ch.tick (segmentWaits s u.num ch.num) }) ∧
    t.tickAt = s.tickAt + tickTenths s.host.clockStep := by
  have hdue : s.tickDue = true := by simpa [State.tickDue] using h
  exact ⟨_, if_pos hdue, rfl, rfl, rfl, rfl, rfl, rfl, rfl, rfl, rfl⟩

theorem happens_packetArbitration {p : Packet} (hout : s.sel.a < portArbiter 0 ∨ portArbiter 32 ≤ s.sel.a) (hwin : s.winnerAt s.sel.a = some p)
    (hfree : s.outFree s.sel.a = true) : Happens .packetArbitration s (s.grant s.sel.a p) := by
  have hnot : ¬(portArbiter 0 ≤ s.sel.a ∧ s.sel.a < portArbiter 32) := by omega
  rw [Happens, exec_packetArbitration, execPacketArbitration, if_neg hnot, hwin]
  exact if_pos hfree

theorem happens_portArbitration {t : State} {n : Nat} (hn : n < 32) (hport : s.sel.a = portArbiter n) (hnext : s.portNext n = some t) :
    Happens .packetArbitration s t := by
  have hin : portArbiter 0 ≤ s.sel.a ∧ s.sel.a < portArbiter 32 := by rw [hport]; simp only [portArbiter]; omega
  have hsub : s.sel.a - portArbiter 0 = n := by rw [hport]; simp only [portArbiter]; omega
  rw [Happens, exec_packetArbitration, execPacketArbitration, if_pos hin, hsub, hnext]

theorem happens_sfqPost {r : SfqRecord} {rest : List SfqRecord} (hwait : s.sfqWait = r :: rest) (hsize : s.regs.sfqsize ≠ 0)
    (hroom : (s.regs.sfqtail + 2 ^ 32 - s.regs.sfqhead) % 2 ^ 32 < 2 ^ s.regs.sfqsize) (hdone : s.packetsDone (.note r.id) = true) :
    Happens .sfqPost s { s.dropPackets (.note r.id) with
      mem := s.mem.write (bitsOf s.regs.sfqbase.toNat 38 12 * 4096 + 64 * (s.regs.sfqtail % 2 ^ s.regs.sfqsize)) r.bytes,
      sfqWait := rest, regs := { s.regs with sfqtail := (s.regs.sfqtail + 1) % 2 ^ 32 } } := by
  have hready : s.sfqRoom = true ∧ s.packetsDone (.note r.id) = true := ⟨by simpa [State.sfqRoom, hsize] using hroom, hdone⟩
  rw [Happens, exec_sfqPost, execSfqPost, hwait]
  exact if_pos hready

end

/-! ### Fetched words -/

theorem fetch_of_reply {s : State} {c : Ctx} {f : FetchReq} {r : List FetchReq} (hc : s.ctx? s.sel.ctx = some c) (hf : s.fetched c = f :: r)
    (hlate : s.sel.flag = s.packetsOverdue (.fetch c.task c.rank f.addr)) : Happens .instructionFetchReply s
      (((s.dropPackets (.fetch c.task c.rank f.addr)).deliverFetch c f).updCtx c fun c =>
        let c := { c with fetches := c.fetches.filter fun g => g != f }
        if s.sel.flag then c.countOverdue 2 else c) := by
  rw [Happens, exec_instructionFetchReply, execInstructionFetchReply, hc]
  dsimp only
  rw [hf]
  exact if_neg (not_not_intro hlate)

section
variable (s : State) (c : Ctx) (f : FetchReq)

@[simp] theorem State.deliverFetch_mem : (s.deliverFetch c f).mem = s.mem := by
  unfold State.deliverFetch
  split
  · rfl
  · exact State.updTile_mem s _ _

variable {s c f}

theorem deliverFetch_of_poisoned (h : s.pagePoisoned f.page.1 = true) : s.deliverFetch c f = s := if_pos h

theorem mem_ibuf_deliverFetch (h : s.pagePoisoned f.page.1 = false) :
    ({ addr := f.addr, task := c.task, user := f.user, word := s.codeWord c.task f.key } : CodeWord) ∈ ((s.deliverFetch c f).tile c.key.tile).ibuf := by
  unfold State.deliverFetch
  rw [if_neg (Bool.eq_false_iff.mp h)]
  extract_lets w
  rw [tile_updTile s c.key.tile (f := fun t => { t with ibuf := w :: t.ibuf }) fun _ => rfl]
  exact List.mem_cons_self

end

theorem pagePoisoned_dropPackets (s : State) (o : Owner) (va : Nat) : (s.dropPackets o).pagePoisoned va = s.pagePoisoned va := by
  have hwalk : (s.dropPackets o).walkAll va = s.walkAll va := rfl
  rw [State.pagePoisoned, State.pagePoisoned, hwalk]

theorem codeWord_dropPackets (s : State) (o : Owner) (task key : Nat) : (s.dropPackets o).codeWord task key = s.codeWord task key := rfl

/-- Settles O44: each event by its guard, and the word that a fetch brings by what its tile's buffer holds then. -/
theorem packageEvents : Obligations.PackageEvents := by
  unfold Obligations.PackageEvents
  intro s
  refine ⟨happens_slackTick, fun p hout hwin hfree => happens_packetArbitration hout hwin hfree, fun t n hn hport hnext => happens_portArbitration hn hport hnext,
    fun c f r hc hf hlate => ?fetch, fun r rest hwait hsize hroom hdone => happens_sfqPost hwait hsize hroom hdone⟩
  case fetch =>
    refine ⟨_, fetch_of_reply hc hf hlate, ?_, fun hbad => ?_, fun hgood => ?_⟩
    · rw [State.updCtx_mem, State.deliverFetch_mem, State.dropPackets_mem]
    · rw [State.updCtx_tiles, deliverFetch_of_poisoned ((pagePoisoned_dropPackets s _ _).trans hbad), State.dropPackets_tiles]
    · have hin := mem_ibuf_deliverFetch (c := c) ((pagePoisoned_dropPackets s (.fetch c.task c.rank f.addr) _).trans hgood)
      rw [codeWord_dropPackets] at hin
      rw [tile_of_tiles (State.updCtx_tiles _ _ _)]
      exact hin

end Sys2Proof.Claims
end

section
/-! PROOFS. The events of the step engine and the block transfer engine (O45). -/

namespace Sys2Proof.Claims

open Sys2Proof.Machine

/-! ### Arrivals -/

theorem happens_barrierArrival {s : State} {c : Ctx} {l : Nat} {x : Arrived} {y : Bool} {d : Domain} (hc : s.ctx? s.sel.ctx = some c)
    (harr : c.arrival = some { level := l, sent := some x, sync := y, done := none }) (hd : s.domOf c l = some d)
    (hdone : s.packetsDone (.arrival c.task c.rank) = true) : Happens .barrierArrival s
      (((s.updDomains d.is fun e => { e with arrived := e.arrived ++ [x], since := some (e.since.getD s.ticks) }).updCtx c
        fun u => { u with arrival := some { level := l, sent := none, sync := y, done := none } }).dropPackets (.arrival c.task c.rank)) := by
  have hreach : s.arrivalReached c = some ((s.updDomains d.is fun e => { e with arrived := e.arrived ++ [x], since := some (e.since.getD s.ticks) }).updCtx c
      fun u => { u with arrival := some { level := l, sent := none, sync := y, done := none } }) := by
    simp only [State.arrivalReached, harr, hd]
  rw [Happens, exec_barrierArrival, execBarrierArrival, hc]
  dsimp only
  rw [hreach]
  exact if_pos hdone

/-! ### Channels of completed copies -/

theorem channel_num (t : Tile) (n : Nat) : (t.channel n).num = n := by
  unfold Tile.channel
  cases h : t.channels.find? fun ch => ch.num == n with
  | none => rfl
  | some ch => simpa using List.find?_some h

theorem copy_of_copyDone {s : State} {ch : Channel} (h : copyDone s ch = true) : ∃ t, ch.copy = some t := by
  cases hcopy : ch.copy with
  | some t => exact ⟨t, rfl⟩
  | none => simp [copyDone, hcopy] at h

theorem sendArrival_mem (s : State) (rec amount work : Nat) (post : Option CtxKey) : (s.sendArrival rec amount work post).mem = s.mem :=
  State.updTile_mem s _ _

/-- A copy that completes leaves memory as its runs have made it. -/
theorem completeCopy_mem (s : State) (tile : Nat) (ch : Channel) (overdue : Bool) : (completeCopy s tile ch overdue).mem = s.mem := by
  unfold completeCopy
  split
  · rfl
  · next t ht =>
    simp only [State.forgetSeeker_mem, State.dropPackets_mem, State.endRequests_mem]
    cases overdue <;> cases (t.ev && !ch.quiet) <;> cases (t.bc != 0 && !ch.nobc) <;>
      simp only [Bool.false_eq_true, if_false, if_true, State.updOwner, State.raise_mem, State.updTile_mem, sendArrival_mem]

/-! ### Runs of copies -/

section
variable {s t : State}

theorem happens_copyRun (hnone : reinstall s s.sel.a s.sel.b = none) (h : runCopy s s.sel.a s.sel.b = .ok t ∨ runCopy s s.sel.a s.sel.b = .error (.note t)) :
    Happens .copyRun s t := by
  rw [Happens, exec_copyRun, execCopyRun, hnone]
  rcases h with h | h <;> simp only [h]

theorem happens_reinstall (h : reinstall s s.sel.a s.sel.b = some t) : Happens .copyRun s t := by
  rw [Happens, exec_copyRun, execCopyRun, h]

theorem happens_copyInflightFault {code : Nat} {a : Word} (h : runCopy s s.sel.a s.sel.b = .error (.bad code a)) (hcode : s.sel.c = code) :
    ∃ t, Happens .copyInflightFault s t ∧ t.mem = s.mem ∧ ((t.tile s.sel.a).channel s.sel.b).state = .faulted ∧
      ((t.tile s.sel.a).channel s.sel.b).fault = code ∧ ((t.tile s.sel.a).channel s.sel.b).faultAddr = a := by
  have hrun : Happens .copyInflightFault s ((s.updTile s.sel.a fun u => u.setChannel
      { (u.channel s.sel.b) with state := .faulted, fault := code, faultAddr := a }).forgetSeeker (.work ((s.tile s.sel.a).channel s.sel.b).work)) := by
    rw [Happens, exec_copyInflightFault, execCopyInflightFault, h]
    exact if_pos hcode.symm
  refine ⟨_, hrun, ?_, ?_⟩
  · rw [State.forgetSeeker_mem, State.updTile_mem]
  · have hch := channel_setChannel (s.tile s.sel.a) { ((s.tile s.sel.a).channel s.sel.b) with state := .faulted, fault := code, faultAddr := a }
    rw [show ({ ((s.tile s.sel.a).channel s.sel.b) with state := .faulted, fault := code, faultAddr := a } : Channel).num = s.sel.b from
      channel_num (s.tile s.sel.a) s.sel.b] at hch
    rw [tile_of_tiles (State.forgetSeeker_tiles _ _), tile_updTile s s.sel.a fun t => setChannel_num t _, hch]
    exact ⟨rfl, rfl, rfl⟩

theorem happens_copyComplete (h : copyDone s ((s.tile s.sel.a).channel s.sel.b) = true) :
    ∃ t, Happens .copyComplete s t ∧ t.mem = s.mem ∧ ((t.tile s.sel.a).channel s.sel.b).state = .complete := by
  have hrun : Happens .copyComplete s (completeCopy s s.sel.a ((s.tile s.sel.a).channel s.sel.b) (copyLate s ((s.tile s.sel.a).channel s.sel.b))) := by
    rw [Happens, exec_copyComplete]
    exact if_pos h
  obtain ⟨t, ht⟩ := copy_of_copyDone h
  refine ⟨_, hrun, completeCopy_mem _ _ _ _, ?_⟩
  have hch := channel_completeCopy s s.sel.a ht (copyLate s ((s.tile s.sel.a).channel s.sel.b))
  rw [channel_num] at hch
  rw [hch]
  rfl

end

/-! ### The byte-count unit -/

section
variable {s : State} {i : BcItem} {r : List BcItem} (hq : (s.tile s.sel.a).bcq = i :: r)
include hq

theorem happens_bcPostApply {k : CtxKey} (hpost : i.post = some k) :
    let s1 := s.updTile s.sel.a fun t => { t with bcq := r }
    Happens .bcPostApply s (s1.applyBc i.key ((s1.bcRecord i.key).post i.amount k.num)) := by
  simp only [Happens, exec_bcPostApply, execBcPostApply, hq, hpost]

theorem happens_bcArrival (hpost : i.post = none) :
    let s2 := (s.updTile s.sel.a fun t => { t with bcq := r }).countDelivery i.key i.work
    Happens .bcArrival s (s2.applyBc i.key ((s2.bcRecord i.key).arrive i.amount)) := by
  simp only [Happens, exec_bcArrival, execBcArrival, hq, hpost, Option.isNone_none, if_true]

end

/-! ### The completion of a step -/

theorem setDirty_domains (s : State) (e : Leaf) : (s.setDirty e).domains = s.domains := by
  unfold State.setDirty
  split <;> rfl

theorem recharge_domains (s : State) (q : Nat) : (s.recharge q).domains = s.domains := by
  unfold State.recharge
  split <;> rfl

theorem commit_domains (s : State) (es : List Staged) (dom : Option Nat) : (s.commit es dom).domains = s.domains :=
  foldl_keeps State.domains (pagesOnce (es.filterMap s.landingLeaf)) setDirty_domains s

theorem climb_domains (s : State) (d : Domain) : (s.climb d).1.domains = s.domains := by
  unfold State.climb
  extract_lets cf risen
  exact (foldl_keeps State.domains _ recharge_domains _).trans (commit_domains _ _ _)

theorem sendBarrier_domains (s : State) (o : Owner) (level src dst : Nat) : (s.sendBarrier o level src dst).domains = s.domains := by
  unfold State.sendBarrier
  split <;> rfl

theorem topStepEnd_domains (s : State) (task : Nat) : (s.topStepEnd task).domains = s.domains := rfl

/-- A step below the pod ends for its domain and for those inside it, and for no other (R251). -/
theorem completeStep_domains (s : State) {d : Domain} (h : d.level ≠ 5) (pos : List (Nat × Nat)) (ts : List Term) (gone : List (Nat × Nat))
    (cands : List Candidate) : (s.completeStep d pos ts gone cands).domains =
      s.domains.map fun e => if e.is d || (s.domains.filter fun e => e.inside d s).any (fun l => l.is e) then e.ended else e := by
  have hpod (e : Domain) : (e.is d && d.level == 5) = false := by simp [h]
  unfold State.completeStep
  rw [if_neg h]
  extract_lets own lower low ended late tree
  have hclimb := climb_domains s d
  generalize s.climb d = climbed at hclimb
  obtain ⟨s1, conflict⟩ := climbed
  dsimp -zeta only at hclimb ⊢
  extract_lets cands1 report s2 staged s3 cs told s4
  have hended : ended = Domain.ended := funext fun e => if_neg (by rw [hpod e]; decide)
  have h2 : s2.domains = s.domains.map fun e => if e.is d || lower.any (fun l => l.is e) then e.ended else e := by
    rw [show s2.domains = s1.domains.map fun e => if e.is d || lower.any (fun l => l.is e) then ended e else e from rfl, hclimb, hended]
  have h4 : s4.domains = s2.domains := foldl_keeps State.domains told (fun s c => sendBarrier_domains s _ _ _ _) { s3 with ctxs := cs }
  rw [← h2, ← h4]
  split <;> rfl

/-- The domain of a completed step is found with its counter advanced and no member at the barrier (R251). -/
theorem domain?_completeStep {s : State} {d : Domain} {level unit id : Nat} (hd : s.domain? level unit id = some d) (h : d.level ≠ 5)
    (pos : List (Nat × Nat)) (ts : List Term) (gone : List (Nat × Nat)) (cands : List Candidate) :
    (s.completeStep d pos ts gone cands).domain? level unit id = some d.ended := by
  rw [State.domain?, completeStep_domains s h, List.find?_map, show ((fun d : Domain => d.level == level && d.unit == unit && d.id == id) ∘ _) = fun d =>
    d.level == level && d.unit == unit && d.id == id from funext fun e => ?_]
  · rw [show s.domains.find? (fun d => d.level == level && d.unit == unit && d.id == id) = some d from hd, Option.map_some, if_pos]
    simp [Domain.is]
  · rw [Function.comp_apply]
    split <;> rfl

theorem level_of_stepReady {s : State} {d : Domain} (hready : s.stepReady d = true) : d.level ≤ 4 := by
  simp only [State.stepReady, Bool.and_eq_true, decide_eq_true_eq] at hready
  omega

theorem not_podReady {s : State} {d : Domain} (hready : s.stepReady d = true) : ¬ s.podReady d = true := by
  have hlevel := level_of_stepReady hready
  have hne : d.level ≠ 5 := by omega
  simp [State.podReady, hne]

section
variable {s : State} {d : Domain} (hd : s.domain? s.sel.a s.sel.b s.sel.c = some d)
include hd

theorem happens_contribute (hpod : s.podReady d = true) : Happens .stepCompletion s (s.contribute d) := by
  rw [Happens, exec_stepCompletion, execStepCompletion, hd]
  exact if_pos hpod

variable (hready : s.stepReady d = true)
include hready

theorem happens_completeStep (hfree : s.commitBlocked d = false) : ∃ t e, Happens .stepCompletion s t ∧ t.domain? s.sel.a s.sel.b s.sel.c = some e ∧
    e.counter = (d.counter + 1) % 2 ^ 32 ∧ e.arrived = [] ∧ e.absent = [] := by
  have hlevel : d.level ≠ 5 := by have := level_of_stepReady hready; omega
  have hgo : ¬ (!(s.stepReady d || s.podFull d)) = true := by simp [hready]
  refine ⟨_, d.ended, ?_, domain?_completeStep hd hlevel ((s.positions d).map fun r => (s.regs.podpackage, r)) (d.terms s.regs.podpackage) []
    (d.cands ++ d.codes s.regs.podpackage false ++ mismatchCode (d.terms s.regs.podpackage)), rfl, rfl, rfl⟩
  rw [Happens, exec_stepCompletion, execStepCompletion, hd]
  refine (if_neg (not_podReady hready)).trans ((if_neg hgo).trans ((if_neg (Bool.eq_false_iff.mp hfree)).trans (if_neg hlevel)))

theorem happens_noteCommit (hblocked : s.commitBlocked d = true) (hnote : s.noteCommit d ≠ s) : Happens .stepCompletion s (s.noteCommit d) := by
  have hgo : ¬ (!(s.stepReady d || s.podFull d)) = true := by simp [hready]
  rw [Happens, exec_stepCompletion, execStepCompletion, hd]
  exact (if_neg (not_podReady hready)).trans ((if_neg hgo).trans ((if_pos hblocked).trans (if_pos (bne_iff_ne.mpr hnote))))

end

/-- Settles O45: each event by its guard, and a completed step by what it leaves of its domain. -/
theorem stepAndTransferEvents : Obligations.StepAndTransferEvents := by
  unfold Obligations.StepAndTransferEvents
  intro s
  refine ⟨fun c l x y d hc harr hd hdone => happens_barrierArrival hc harr hd hdone, fun d hd => ⟨fun hready hfree => ?_, fun hready hblocked hnote => ?_,
      fun hpod => ?_, fun hlate => ?_⟩,
    fun t hnone h => happens_copyRun hnone h, fun t h => happens_reinstall h, fun code a h hcode => happens_copyInflightFault h hcode, happens_copyComplete,
    fun i r hq => ?_⟩
  · exact happens_completeStep hd hready hfree
  · exact happens_noteCommit hd hready hblocked hnote
  · exact happens_contribute hd hpod
  · rw [Happens, exec_stepTimeout, execStepTimeout, hd]
    exact if_pos hlate
  · extract_lets s1
    exact ⟨fun k hpost => happens_bcPostApply hq hpost, happens_bcArrival hq⟩

end Sys2Proof.Claims
end

section
/-! PROOFS. The events of the dispatch engine (O46). -/

namespace Sys2Proof.Claims

open Sys2Proof.Machine

/-! ### Placing tasks -/

section
variable {s : State} {t : Task} {o : Nat} (hnext : s.nextPlaced = some (t, o)) (hnum : t.num = s.sel.a)
include hnext hnum

theorem happens_taskPlacement (h : t.phase = .ready) : Happens .taskPlacement s (s.placeTask t o) := by
  rw [Happens, exec_taskPlacement, execTaskPlacement, hnext]
  exact if_pos ⟨hnum, h⟩

theorem happens_taskResume (h : t.phase = .stopped) (hres : t.resuming = true) (htarget : t.target = none) : Happens .taskResume s (s.resumeAt t o) := by
  rw [Happens, exec_taskResume, execTaskResume, hnext]
  exact if_pos ⟨hnum, h, hres, Option.isNone_iff_eq_none.mpr htarget⟩

theorem happens_taskRelocation (h : t.phase = .stopped) (htarget : t.target.isSome = true) : Happens .taskRelocation s (s.moveAndResume t o) := by
  rw [Happens, exec_taskRelocation, execTaskRelocation, hnext]
  exact if_pos ⟨hnum, h, htarget⟩

end

section
variable {s : State} {t : Task} (ht : s.task? s.sel.a = some t)
include ht

theorem happens_reservation {o : Nat} (hwaits : t.waits = true) (hnone : t.reserved = none) (hlate : t.readyAt + s.placeWait ≤ s.ticks)
    (ho : s.reservationFor t = some o) : Happens .reservation s (s.updTask t.num fun u => { u with reserved := some (o, s.ticks, false) }) := by
  have hready : (t.waits && t.reserved.isNone && t.readyAt + s.placeWait ≤ s.ticks) = true := by simp [hwaits, hnone, hlate]
  rw [Happens, exec_reservation, execReservation, ht]
  refine (if_pos hready).trans ?_
  rw [ho]

theorem happens_placementStall {o since : Nat} (hres : t.reserved = some (o, since, false)) (hlate : since + s.placeLimit ≤ s.ticks) :
    Happens .placementStall s ((s.updTask t.num fun u => { u with reserved := some (o, since, true) }).dispatchRecord 1 t o) := by
  rw [Happens, exec_placementStall, execPlacementStall, ht]
  dsimp only
  rw [hres]
  exact if_pos hlate

theorem happens_traceMiss (hmode : s.traceMode = 2) (hwaits : t.waits = true) (htold : t.traceTold = false) (hlate : t.readyAt + s.placeLimit ≤ s.ticks)
    (hmiss : ∀ o ∈ s.originsFor t, s.traceIsNext t.blk.trace t.blk.k o (t.blk.tiles o) = false) :
    Happens .traceMiss s ((s.updTask t.num fun u => { u with traceTold := true }).dispatchRecord 8 t t.origin) := by
  have hnone : (s.originsFor t).any (fun o => s.traceIsNext t.blk.trace t.blk.k o (t.blk.tiles o)) = false :=
    List.any_eq_false.mpr fun o ho => by simp [hmiss o ho]
  rw [Happens, exec_traceMiss, execTraceMiss, ht]
  exact if_pos ⟨hmode, hwaits, by simp [htold], hlate, by simp [hnone]⟩

end

/-! ### Deferred effects and decrements -/

section
variable {s : State} {x : DeferredItem} (hx : s.deferred.find? (fun x => x.task == s.sel.a && x.rank == s.sel.b) = some x) (hripe : x.ripe = true)
include hx hripe

theorem happens_holdEnd {n : Nat} (h : x.what = .tcb n) :
    Happens .commitHoldEnd s ({ s with deferred := s.deferred.filter fun y => y != x }.updTask n fun t => { t with hold := none }) := by
  rw [Happens, exec_commitHoldEnd, execCommitHoldEnd, hx]
  refine (if_pos hripe).trans ?_
  rw [h]

theorem happens_heldDecrement {a : Word} (h : x.what = .decrement a) : Happens .commitHoldEnd s
    { s with deferred := s.deferred.filter fun y => y != x, decrements := s.decrements ++ [{ addr := a, tid := x.tid, origin := x.origin }] } := by
  rw [Happens, exec_commitHoldEnd, execCommitHoldEnd, hx]
  refine (if_pos hripe).trans ?_
  rw [h]

theorem happens_heldMessage {bs : List Byte} {m : Msg} (h : x.what = .message bs) (hm : messageOf s.seq bs false = some m)
    (hroom : s.messagesFull m.tile = false) :
    Happens .commitHoldEnd s ({ s with deferred := s.deferred.filter fun y => y != x, seq := s.seq + 1 }.sendMessage m x.origin) := by
  rw [Happens, exec_commitHoldEnd, execCommitHoldEnd, hx]
  refine (if_pos hripe).trans ?_
  rw [h]
  dsimp only [State.fresh]
  rw [hm]
  exact if_neg (Bool.eq_false_iff.mp hroom)

end

section
variable {s : State} {d : Decrement} {r : List Decrement} (hd : s.decrements = d :: r)
include hd

theorem happens_decrement {t : Task} (ht : s.tasks.find? (fun t => t.addr == some d.addr) = some t) (hcount : t.count ≠ 0) :
    let s2 := ({ s with decrements := r } : State).updTask t.num fun u => { u with count := u.count - 1 }
    Happens .predecessorDecrement s (if t.count = 1 then s2.makeReady t.num else s2) := by
  rw [Happens, exec_predecessorDecrement, execPredecessorDecrement, hd]
  dsimp only
  rw [ht]
  exact if_neg hcount

theorem happens_lostDecrement (h : ∀ t ∈ s.tasks, t.addr ≠ some d.addr) :
    Happens .predecessorDecrement s (({ s with decrements := r } : State).postEngine none d.tid 0 (dispatchDetail 2 d.addr.toNat d.origin)) := by
  have hnone : s.tasks.find? (fun t => t.addr == some d.addr) = none := List.find?_eq_none.mpr fun t ht => by simp [h t ht]
  rw [Happens, exec_predecessorDecrement, execPredecessorDecrement, hd]
  dsimp only
  rw [hnone]

end

/-! ### Stopping -/

/-- No context of a task runs on a tile. -/
def Halted (task tile : Nat) (cs : List Ctx) : Prop := ∀ c ∈ cs, c.task = task → c.key.tile = tile → c.stopped = true

theorem halted_stopTile (s : State) (task tile : Nat) : Halted task tile (s.stopTile task tile).ctxs := by
  intro c hc htask htile
  have hfold : ((s.ctxs.filter fun c => c.task == task && c.key.tile == tile && !c.stopped).foldl (fun s c => s.forgetWalks c.key) s).ctxs = s.ctxs :=
    foldl_keeps State.ctxs (f := fun (s : State) (c : Ctx) => s.forgetWalks c.key) _ (fun s c => State.forgetWalks_ctxs s c.key) s
  obtain ⟨d, -, rfl⟩ := List.mem_map.mp hc
  split at htask
  · next h => exact (congrArg Ctx.stopped (if_pos h)).trans rfl
  · next h =>
    rw [if_neg h] at htile ⊢
    simpa [htask, htile] using h

theorem forgetRecords_ctxs (s : State) : s.forgetRecords.ctxs = s.ctxs := rfl

theorem freeDomainsOf_ctxs (s : State) (n : Nat) : (s.freeDomainsOf n).ctxs = s.ctxs := rfl

theorem dropDeferred_ctxs (s : State) (n : Nat) : (s.dropDeferred n).ctxs = s.ctxs := rfl

theorem dropTaskState_ctxs (s : State) (n : Nat) : ∃ cs : List Ctx, (s.dropTaskState n).ctxs = cs.filter fun c => c.task != n := by
  unfold State.dropTaskState
  extract_lets u keys v ranks tiles w staged x
  refine ⟨w.ctxs, ?_⟩
  rw [forgetRecords_ctxs, freeDomainsOf_ctxs]

theorem task_of_dropTaskState {s : State} {n : Nat} {c : Ctx} (hc : c ∈ (s.dropTaskState n).ctxs) : c.task ≠ n := by
  obtain ⟨cs, hcs⟩ := dropTaskState_ctxs s n
  rw [hcs] at hc
  obtain ⟨-, h⟩ := List.mem_filter.mp hc
  simpa using h

theorem terminate_ctxs {s : State} {n : Nat} {t : Task} (h : s.task? n = some t) : ∃ u : State, (s.terminate n).ctxs = (u.dropTaskState n).ctxs := by
  unfold State.terminate
  rw [h]
  dsimp -zeta only
  extract_lets u gone v w
  refine ⟨v, ?_⟩
  rw [State.dispatchRecord, State.postEngine_ctxs]
  dsimp only
  rw [show w = (v.dropTaskState n).dropDeferred n from rfl, dropDeferred_ctxs]

theorem task_of_terminate {s : State} {n : Nat} {t : Task} (h : s.task? n = some t) {c : Ctx} (hc : c ∈ (s.terminate n).ctxs) : c.task ≠ n := by
  obtain ⟨u, hu⟩ := terminate_ctxs h
  rw [hu] at hc
  exact task_of_dropTaskState hc

theorem task?_updTask {s : State} {n : Nat} {t : Task} (h : s.task? n = some t) {f : Task → Task} (hf : ∀ u, (f u).num = u.num) :
    (s.updTask n f).task? n = some (f t) := by
  have hnum : t.num = n := by simpa using List.find?_some h
  rw [State.task?, State.updTask, List.find?_map, show ((fun t : Task => t.num == n) ∘ _) = fun t : Task => t.num == n from funext fun u => ?_]
  · rw [show s.tasks.find? (fun t => t.num == n) = some t from h, Option.map_some]
    simp [hnum]
  · rw [Function.comp_apply]
    split
    · rw [hf]
    · rfl

/-- What a stop was for leaves the other contexts stopped (R284, R288). -/
theorem halted_afterStop {s : State} {t u : Task} {tile : Nat} (hu : s.task? t.num = some u) (h : Halted t.num tile s.ctxs) :
    Halted t.num tile (s.afterStop t).ctxs := by
  have hstopped : (s.stopped t.num).ctxs = s.ctxs := rfl
  have hfound : ∃ v, (s.stopped t.num).task? t.num = some v := ⟨_, task?_updTask hu fun _ => rfl⟩
  obtain ⟨v, hv⟩ := hfound
  unfold State.afterStop
  split
  · exact fun c hc htask => absurd htask (task_of_terminate hv hc)
  · rw [hstopped]
    exact h

theorem stopTile_tasks (s : State) (task tile : Nat) : (s.stopTile task tile).tasks = s.tasks := by
  unfold State.stopTile
  extract_lets mine u v halt
  refine Eq.trans (State.updTile_tasks u tile _) ?_
  exact foldl_keeps State.tasks (f := fun (s : State) (c : Ctx) => s.forgetWalks c.key) mine (fun s c => State.forgetWalks_tasks s c.key) s

/-- The state in which a STOP has stopped a task's contexts on a tile, with the tiles that are left to stop (R284). -/
def stopReached (s : State) (t : Task) (tile : Nat) (left : List Nat) : State :=
  ((s.dropPackets (.stop t.num tile)).stopTile t.num tile).updTask t.num fun u => { u with stopping := left }

/-- A STOP that reaches a tile leaves no context of the task running there (R284). -/
theorem happens_taskStop {s : State} {t : Task} (ht : s.task? s.sel.a = some t) (hin : s.sel.b ∈ t.stopping)
    (hdone : s.packetsDone (.stop t.num s.sel.b) = true) : ∃ u, Happens .taskStop s u ∧ Halted t.num s.sel.b u.ctxs := by
  have hnum : t.num = s.sel.a := by simpa using List.find?_some ht
  have hready : t.stopping.contains s.sel.b = true ∧ s.packetsDone (.stop t.num s.sel.b) = true := ⟨by simpa using hin, hdone⟩
  have hrun : ∃ left : List Nat, Happens .taskStop s
      (if left.isEmpty then (stopReached s t s.sel.b left).afterStop t else stopReached s t s.sel.b left) := by
    refine ⟨t.stopping.filter fun n => n != ((s.dropPackets (.stop t.num s.sel.b)).stopTile t.num s.sel.b).sel.b, ?_⟩
    rw [Happens, exec_taskStop, execTaskStop, ht]
    exact if_pos hready
  obtain ⟨left, hrun⟩ := hrun
  have hhalt : Halted t.num s.sel.b (stopReached s t s.sel.b left).ctxs := halted_stopTile (s.dropPackets (.stop t.num s.sel.b)) t.num s.sel.b
  have hfound : (stopReached s t s.sel.b left).task? t.num = some { t with stopping := left } := by
    refine task?_updTask ?_ fun _ => rfl
    rw [State.task?, stopTile_tasks, State.dropPackets_tasks]
    exact hnum ▸ ht
  refine ⟨_, hrun, ?_⟩
  split
  · exact halted_afterStop hfound hhalt
  · exact hhalt

/-! ### Retirement -/

theorem setDirty_tasks (s : State) (e : Leaf) : (s.setDirty e).tasks = s.tasks := by
  unfold State.setDirty
  split <;> rfl

theorem setDirty_decrements (s : State) (e : Leaf) : (s.setDirty e).decrements = s.decrements := by
  unfold State.setDirty
  split <;> rfl

theorem commitTask_tasks (s : State) (n : Nat) : (s.commitTask n).tasks = s.tasks :=
  foldl_keeps State.tasks (pagesOnce _) setDirty_tasks _

theorem commitTask_decrements (s : State) (n : Nat) : (s.commitTask n).decrements = s.decrements :=
  foldl_keeps State.decrements (pagesOnce _) setDirty_decrements _

/-- The state in which a task has retired (R276). -/
def retiredState (s : State) (t : Task) : State :=
  let s := (s.commitTask t.num).freeDomainsOf t.num
  let tiles := s.tiles.map fun u => { u with pausedCopies := u.pausedCopies.filter fun p => p.task != t.num,
                                             ibuf := u.ibuf.filter fun x => x.task != t.num }
  let defs := s.deferred.map fun x => if x.task = t.num then { x with ripe := true } else x
  let dec := t.blk.succ.map fun a => { addr := a, tid := t.tid, origin := t.origin : Decrement }
  { s with tasks := s.tasks.filter fun u => u.num != t.num, tiles := tiles, deferred := defs,
           decrements := s.decrements ++ dec, hostOld := s.hostOld.filter fun h => h.task != t.num }.forgetRecords

theorem retiredState_task? (s : State) (t : Task) : (retiredState s t).task? t.num = none := by
  refine List.find?_eq_none.mpr fun u hu => ?_
  obtain ⟨-, h⟩ := List.mem_filter.mp hu
  simpa using h

theorem retiredState_decrements (s : State) (t : Task) :
    (retiredState s t).decrements = s.decrements ++ t.blk.succ.map fun a => { addr := a, tid := t.tid, origin := t.origin } :=
  congrArg (· ++ _) (commitTask_decrements s t.num)

theorem happens_taskRetire {s : State} {t : Task} (ht : s.task? s.sel.a = some t) (hrun : t.phase = .running) (hstop : t.stopping = [])
    (hidle : s.taskIdle t.num = true) (hfree : s.writesBlocked (fun e => e.ofTask t.num) = false) : Happens .taskRetire s (retiredState s t) := by
  have hstop : t.stopping.isEmpty = true := by rw [hstop]; rfl
  have hnot : ¬(t.phase = .running ∧ t.stopping.isEmpty = true ∧ s.taskIdle t.num = true ∧ s.writesBlocked (fun e => e.ofTask t.num) = true) :=
    fun h => Bool.eq_false_iff.mp hfree h.2.2.2
  rw [Happens, exec_taskRetire, execTaskRetire, ht]
  exact (if_neg hnot).trans (if_pos ⟨hrun, hstop, hidle⟩)

/-! ### Active messages, images and balancing -/

theorem happens_messageArrival {s : State} {m : Msg} (hm : s.messages[s.sel.a]? = some m) (hdone : s.packetsDone (.message m) = true)
    (hroom : s.messagesFull m.tile = false) : ∃ t, Happens .activeMessageArrival s t ∧ (t.tile m.tile).msgq = (s.tile m.tile).msgq ++ [m] := by
  have hready : (s.packetsDone (.message m) && !s.messagesFull m.tile) = true := by simp [hdone, hroom]
  refine ⟨(({ s with messages := dropAt s.messages s.sel.a } : State).dropPackets (.message m)).updTile m.tile fun t => { t with msgq := t.msgq ++ [m] }, ?_, ?_⟩
  · rw [Happens, exec_activeMessageArrival, execActiveMessageArrival, hm]
    exact if_pos hready
  · rw [tile_updTile _ m.tile (f := fun t => { t with msgq := t.msgq ++ [m] }) fun _ => rfl]
    rfl

theorem noteTrace_tasks (s : State) (index o tile : Nat) (cs : List Nat) : (s.noteTrace index o tile cs).tasks = s.tasks := by
  unfold State.noteTrace
  extract_lets n next
  split
  · split <;> rfl
  · rfl
  · rfl

theorem sendFrom_tasks (s : State) (tile num mesh dst vc slack : Nat) (overdue : Bool) (bytes : Nat) (x : Content) :
    (s.sendFrom tile num mesh dst vc slack overdue bytes x).tasks = s.tasks := State.send_tasks _ _

theorem announceShare_tasks (s : State) (t : Task) : (s.announceShare t).tasks = s.tasks := by
  unfold State.announceShare
  split
  · rfl
  · split
    · rfl
    · next id hpod d hd =>
      extract_lets me n note u
      split
      · rfl
      · exact foldl_keeps State.tasks _ (fun s p => sendFrom_tasks s _ _ _ _ _ _ _ _ _) u

theorem bindUnits_tasks (s : State) (t : Task) (o : Nat) (saved : List Domain) : (s.bindUnits t o saved).tasks = s.tasks := by
  refine foldl_keeps State.tasks _ ?_ s
  exact fun _ _ => rfl

theorem placeTask_tasks (s : State) (t : Task) (o : Nat) : (s.placeTask t o).tasks.length = s.tasks.length := by
  unfold State.placeTask
  extract_lets picks u t' v cs
  have hu : u.tasks = s.tasks := foldl_keeps State.tasks picks (fun s x => noteTrace_tasks s _ _ _ _) s
  have hv : v.tasks = (u.updTask t'.num fun _ => t').tasks := (announceShare_tasks _ _).trans (bindUnits_tasks _ _ _ _)
  rw [show ({ v with ctxs := v.ctxs ++ cs } : State).tasks = v.tasks from rfl, hv, ← hu]
  exact List.length_map _

/-- The task of one context that a message starts (R278). -/
def messageTask (s : State) (m : Msg) : Task :=
  let blk : Block :=
    { pc := m.pc, args := [m.arg0, m.arg1], slack := m.slack, viewb := defaultViews, slktab := defaultSlack, w := 1, h := 1, k := 1,
      gang := false, prio := m.prio, diemask := 15, restart := false, reloc := false, preds := 0, succ := [], inputs := [],
      trace := 0xFFFFFFFF, dmbase := 0, dmsize := 0, gmbase := 0, gmsize := 0, pod := none }
  { num := s.seq + 1, tid := BitVec.ofNat 32 (2 ^ 31 + m.tile * 65536 + m.tag), addr := none, blk := blk, phase := .ready,
    count := 0, readyAt := s.ticks, order := s.seq, origin := m.tile, home := m.tile }

/-- The state in which the task of a message is in the table, and the message gone. -/
def messageTaken (s : State) (m : Msg) : State :=
  let s' := ({ s with seq := s.seq + 1 } : State).updTile s.sel.a fun u => { u with msgq := u.msgq.filter fun x => x != m }
  { s' with tasks := s'.tasks ++ [messageTask s m] }

theorem happens_messageStart {s : State} {m : Msg} (hm : headMessage (s.tile s.sel.a).msgq = some m) (hstart : s.messageStarts m = true) :
    Happens .activeMessageStart s ((messageTaken s m).placeTask (messageTask s m) m.tile) := by
  rw [Happens, exec_activeMessageStart, execActiveMessageStart, hm]
  exact if_pos hstart

theorem happens_imageEvict {s : State} {c : Ctx} {u : Nat}
    (hc : s.ctxs.find? (fun c => c.key == s.sel.ctx && c.stopped && !c.evicted && s.slotWanted c.key.tile) = some c) (hu : s.freeSave = some u) :
    ∃ t, Happens .imageEvict s t ∧ t.saved = s.saved ++ [(c.task * 65536 + c.rank, u)] := by
  refine ⟨_, by rw [Happens, exec_imageEvict, execImageEvict, hc, hu], rfl⟩

theorem messageStart_tasks (s : State) (m : Msg) : ((messageTaken s m).placeTask (messageTask s m) m.tile).tasks.length = s.tasks.length + 1 := by
  rw [placeTask_tasks, messageTaken, List.length_append, State.updTile_tasks]
  rfl

theorem beginStop_balancedAt (s : State) (n after : Nat) : (s.beginStop n after).balancedAt = s.balancedAt := by
  refine (foldl_keeps State.balancedAt _ ?_ _).trans ?_
  · exact fun _ _ => rfl
  · rfl

theorem happens_balancePeriod {s : State} (busy : List Nat) (h : s.balancedAt + bitsOf s.regs.balctl.toNat 39 8 ≤ s.ticks) :
    ∃ t, Happens (.balancePeriod busy) s t ∧ t.balancedAt = s.ticks := by
  have hex : ∃ t, execBalancePeriod busy s = .next t ∧ t.balancedAt = s.ticks := by
    unfold execBalancePeriod
    extract_lets v cycles u hi lo ts
    rw [if_pos h]
    split
    · exact ⟨u, rfl, rfl⟩
    · split
      · exact ⟨u, rfl, rfl⟩
      · exact ⟨_, rfl, beginStop_balancedAt _ _ _⟩
  exact hex

/-- Settles O46: each event by its guard; what a stop, a retirement and a message leave by lemmas on the state that they make. -/
theorem dispatchEvents : Obligations.DispatchEvents := by
  unfold Obligations.DispatchEvents
  intro s
  refine ⟨fun t o hnext hnum => ⟨fun h => happens_taskPlacement hnext hnum h, fun h hres htarget => happens_taskResume hnext hnum h hres htarget,
      fun h htarget => happens_taskRelocation hnext hnum h htarget⟩,
    fun t ht => ⟨fun o hwaits hnone hlate ho => happens_reservation ht hwaits hnone hlate ho, fun o since hres hlate => happens_placementStall ht hres hlate,
      fun hmode hwaits htold hlate hmiss => happens_traceMiss ht hmode hwaits htold hlate hmiss, fun hin hdone => happens_taskStop ht hin hdone,
      fun hrun hstop hidle hfree => ⟨_, happens_taskRetire ht hrun hstop hidle hfree, retiredState_task? s t, retiredState_decrements s t⟩⟩,
    fun x hx hripe => ?_, fun d r hd => ?_, fun m hm hdone hroom => happens_messageArrival hm hdone hroom,
    fun m hm hstart => ⟨_, happens_messageStart hm hstart, messageStart_tasks s m⟩, fun c u hc hu => happens_imageEvict hc hu,
    fun busy h => happens_balancePeriod busy h, fun p h => ?_⟩
  · exact ⟨fun n h => happens_holdEnd hx hripe h, fun a h => happens_heldDecrement hx hripe h, fun bs m h hm hroom => happens_heldMessage hx hripe h hm hroom⟩
  · exact ⟨fun t ht hcount => happens_decrement hd ht hcount, happens_lostDecrement hd⟩
  · rw [Happens, exec_hardwareError, execHardwareError, if_pos h]

end Sys2Proof.Claims
end

section
/-! PROOFS. The events of the matrix engine, translation, migration and the base dies (O47): the fault of a base-die command whose number another one has. -/

namespace Sys2Proof.Claims

open Sys2Proof.Machine

/-- A command that writes a virtual byte while no page table is set. -/
def unmappedCmd : BdCmd :=
  { id := 0, ctx := { tile := 0, num := 0 }, task := 0, rank := 0, supervisor := false, slack := 0, ev := false, bc := 0, amount := 0, flags := 0,
    reads := [], writes := [(BitVec.ofNat 64 (2 ^ 63), [0])], subs := [], left := [], bad := 0, held := false }

/-- The context of the command. -/
def unmappedCtx : Ctx := { key := { tile := 0, num := 0 }, task := 0, rank := 0, pc := 0 }

/-- Two commands of one number; the second has its fault already, and finds no other. -/
def twinState : State :=
  { State.reset with
    ctxs := [unmappedCtx], bd := { State.reset.bd with cmds := [unmappedCmd, { unmappedCmd with bad := fcUNMAPPED }] },
    sel := { ctx := { tile := 0, num := 0 }, a := 0, b := 0, c := fcUNMAPPED, flag := false } }

/-- The fault addresses that a step leaves. -/
def badAddrs : Out → List Word
  | .next t => t.bd.cmds.map fun m => m.badAddr
  | _ => []

/-- Refutes O47: the event writes to each command of the number the fault that it finds for that command, and two may have one number. -/
theorem not_memorySystemEvents : ¬ Obligations.MemorySystemEvents := by
  unfold Obligations.MemorySystemEvents
  intro h
  obtain ⟨-, -, -, -, -, -, -, -, -, -, hcmd, -⟩ := h twinState
  obtain ⟨-, hfault⟩ := hcmd unmappedCmd unmappedCtx (by decide +kernel) (by decide +kernel)
  have hstep := congrArg badAddrs (hfault (by decide +kernel) (by decide +kernel))
  exact absurd hstep (by decide +kernel)

end Sys2Proof.Claims
end

section
/-! PROOFS. The events of the optical links and of remote access (O48). -/

namespace Sys2Proof.Claims

open Sys2Proof.Machine

/-! ### Pair links -/

theorem link_setLink (s : State) (l : PairLink) : (s.setLink l).link l.port l.slot = l := by simp [State.link, State.setLink]

theorem link_named (s : State) (port slot : Nat) : (s.link port slot).port = port ∧ (s.link port slot).slot = slot := by
  unfold State.link
  cases h : s.fab.links.find? fun l => l.port == port && l.slot == slot with
  | none => exact ⟨rfl, rfl⟩
  | some l => simpa using List.find?_some h

/-- The pair link to a peer is the one that has just been set. -/
theorem linkTo_setLink (s : State) (peer : Nat) {l : PairLink} (hport : l.port = (s.linkTo peer).port) (hslot : l.slot = (s.linkTo peer).slot) :
    (s.setLink l).linkTo peer = l := by
  have hl := link_setLink s l
  obtain ⟨hp, hs⟩ := link_named s (directLink s.regs.podpackage peer).1 (directLink s.regs.podpackage peer).2
  rwa [hport, hslot, show (s.linkTo peer).port = _ from hp, show (s.linkTo peer).slot = _ from hs] at hl

/-! ### Slots -/

section
variable (s : State) (j : Nat)

theorem startLink_mem : (s.startLink j).mem = s.mem := by
  unfold State.startLink
  extract_lets l m u
  split <;> rfl

theorem startLink_slotStarted : (s.startLink j).fab.slotStarted = s.fab.slotStarted := by
  unfold State.startLink
  extract_lets l m u
  split <;> rfl

theorem startLink_queue : (s.startLink j).fab.queue = s.fab.queue := by
  unfold State.startLink
  extract_lets l m u
  split <;> rfl

end

theorem happens_slotStart {s : State} (hpod : s.regs.podsize ≠ 0) (hnew : s.fab.slotStarted ≠ some (s.podtime / 250)) :
    ∃ t, Happens .slotStart s t ∧ t.fab.slotStarted = some (s.podtime / 250) ∧ t.mem = s.mem ∧ t.fab.queue.length = s.fab.queue.length := by
  have hready : s.regs.podsize ≠ 0 ∧ s.fab.slotStarted ≠ some (s.podtime / 250) := ⟨hpod, hnew⟩
  have hex : ∃ t, execSlotStart s = .next t ∧ t.fab.slotStarted = some (s.podtime / 250) ∧ t.mem = s.mem ∧ t.fab.queue.length = s.fab.queue.length := by
    unfold execSlotStart
    extract_lets slot fab u v queue
    rw [if_pos hready]
    split
    · exact ⟨u, rfl, rfl, rfl, rfl⟩
    · have hmem : v.mem = u.mem := foldl_keeps State.mem _ startLink_mem u
      have hslot : v.fab.slotStarted = u.fab.slotStarted := foldl_keeps (fun s : State => s.fab.slotStarted) _ startLink_slotStarted u
      have hqueue : v.fab.queue = u.fab.queue := foldl_keeps (fun s : State => s.fab.queue) _ startLink_queue u
      exact ⟨_, rfl, hslot, hmem, (List.length_map _).trans (congrArg List.length hqueue)⟩
  exact hex

theorem happens_slotControlReceive {s : State} {c : SlotControl} (hpeer : s.isPeer c.package = true) : ∃ t, Happens (.slotControlReceive c) s t ∧ t.mem = s.mem ∧
    (c.locked = true → t.podtime = c.podtime % 2 ^ 64 ∧ c.package ∉ t.fab.absent ∧ t.fab.locked = true) ∧ (t.linkTo c.package).quotaNext = c.quota := by
  let now := if c.locked || !s.fab.locked then c.podtime % 2 ^ 64 else s.podtime
  let l := { s.linkTo c.package with quotaNext := c.quota, lockedAt := if c.locked then some now else (s.linkTo c.package).lockedAt }
  let absent := if c.locked then s.fab.absent.filter fun p => p != c.package else s.fab.absent
  let u : State := { s with podtime := now, fab := { s.fab with absent := absent, locked := s.fab.locked || c.locked } }
  have hrun : Happens (.slotControlReceive c) s (u.setLink l) := by
    rw [Happens, exec_slotControlReceive, execSlotControlReceive]
    exact if_pos hpeer
  refine ⟨u.setLink l, hrun, rfl, fun hlocked => ⟨?_, ?_, ?_⟩, ?_⟩
  · exact if_pos (by rw [hlocked]; rfl)
  · rw [show (u.setLink l).fab.absent = absent from rfl, show absent = s.fab.absent.filter fun p => p != c.package from if_pos hlocked]
    simp
  · rw [show (u.setLink l).fab.locked = (s.fab.locked || c.locked) from rfl, hlocked, Bool.or_true]
  · rw [linkTo_setLink u c.package (l := l) rfl rfl]

/-! ### Dark wavelengths -/

theorem postEvent_mem (s : State) (engine event rest : Nat) : (s.postEvent engine event rest).mem = s.mem := by
  unfold State.postEvent
  extract_lets h
  split <;> rfl

theorem darkReport_mem (s : State) (port reporter dark : Nat) : (s.darkReport port reporter dark).mem = s.mem := by
  unfold State.darkReport
  extract_lets p named new seq q u
  split
  · rfl
  · exact postEvent_mem u _ _ _

theorem happens_maskChange {s : State} (dark : BitVec 16) (hport : s.sel.a < 32) (hpeer : s.isPeer s.sel.b = true) :
    Happens (.maskChange dark) s (s.darkReport s.sel.a s.sel.b dark.toNat) := by
  have hready : s.sel.a < 32 ∧ s.isPeer s.sel.b = true := ⟨hport, hpeer⟩
  rw [Happens, exec_maskChange, execMaskChange]
  exact if_pos hready

theorem happens_wavelengthDark {s : State} (hport : s.sel.a < 32) (hwave : s.sel.b < 16) (hpeer : s.isPeer s.sel.c = true)
    (hsends : sendsOn s.sel.c s.regs.podpackage s.sel.a = true) (hmask : (s.linkTo s.sel.c).rmask.testBit s.sel.b = true)
    (hdark : (s.linkTo s.sel.c).rdark.testBit s.sel.b = false) :
    ∃ t, Happens .wavelengthDark s t ∧ (t.linkTo s.sel.c).rdark = (s.linkTo s.sel.c).rdark + 2 ^ s.sel.b := by
  have hready : s.sel.a < 32 ∧ s.sel.b < 16 ∧ s.isPeer s.sel.c = true ∧ sendsOn s.sel.c s.regs.podpackage s.sel.a = true ∧
      bitAt (s.linkTo s.sel.c).rmask s.sel.b = true ∧ (!bitAt (s.linkTo s.sel.c).rdark s.sel.b) = true := by
    rw [bitAt_eq_testBit, bitAt_eq_testBit, hmask, hdark]
    exact ⟨hport, hwave, hpeer, hsends, rfl, rfl⟩
  let l := { s.linkTo s.sel.c with rdark := (s.linkTo s.sel.c).rdark + 2 ^ s.sel.b }
  refine ⟨s.setLink l, ?_, ?_⟩
  · rw [Happens, exec_wavelengthDark, execWavelengthDark]
    exact if_pos hready
  · exact congrArg PairLink.rdark (linkTo_setLink s s.sel.c (l := l) rfl rfl)

/-! ### Received flits -/

theorem hearConflict_mem (s : State) (x : Content) : (s.hearConflict x).mem = s.mem := by
  unfold State.hearConflict
  split <;> rfl

theorem dataFlit_mem (s : State) (src : Nat) (l : PairLink) (f : Flit) : (s.dataFlit src l f).mem = s.mem := by
  have hhear (s : State) (g : Flit) : ((g.content.map s.hearConflict).getD s).mem = s.mem := by
    cases g.content with
    | none => rfl
    | some x => exact hearConflict_mem s x
  unfold State.dataFlit
  extract_lets old kept
  split
  · rfl
  · exact (foldl_keeps State.mem _ hhear _).trans rfl

section
variable {s : State} {f : Flit} (hport : s.sel.a < 32) (hpeer : s.isPeer s.sel.b = true) (hsends : sendsOn s.sel.b s.regs.podpackage s.sel.a = true)
include hport hpeer hsends

theorem happens_flitReceive_of_bad (hbad : f.crcGood = false ∨ f.kind = 3) : Happens (.flitReceive f) s s := by
  have hready : s.sel.a < 32 ∧ s.isPeer s.sel.b = true ∧ sendsOn s.sel.b s.regs.podpackage s.sel.a = true := ⟨hport, hpeer, hsends⟩
  have hdrop : (!f.crcGood || f.kind == 3) = true := by rcases hbad with h | h <;> simp [h]
  rw [Happens, exec_flitReceive, execFlitReceive]
  exact (if_pos hready).trans (if_pos hdrop)

theorem happens_flitReceive : ∃ t, Happens (.flitReceive f) s t ∧ t.mem = s.mem := by
  have hready : s.sel.a < 32 ∧ s.isPeer s.sel.b = true ∧ sendsOn s.sel.b s.regs.podpackage s.sel.a = true := ⟨hport, hpeer, hsends⟩
  have hex : ∃ t, execFlitReceive f s = .next t ∧ t.mem = s.mem := by
    unfold execFlitReceive
    extract_lets src l replay l' u
    rw [if_pos hready]
    split
    · exact ⟨s, rfl, rfl⟩
    · refine ⟨_, rfl, (darkReport_mem _ _ _ _).trans ?_⟩
      simp only [u]
      split
      · exact dataFlit_mem _ _ _ _
      · rfl
  exact hex

end

/-! ### Replay and relay -/

theorem happens_replayResend {s : State} (hdue : s.replayDue (s.link s.sel.a s.sel.b) = true) : ∃ t, Happens .replayResend s t ∧ t.mem = s.mem ∧
    ∀ f ∈ (s.link s.sel.a s.sel.b).replay, f.sentAt + 4000 ≤ s.podtime → f.seq ∈ (t.link s.sel.a s.sel.b).resend := by
  let l := s.link s.sel.a s.sel.b
  let due := fun (f : SentFlit) => l.resend.contains f.seq || f.sentAt + 4000 ≤ s.podtime
  let l' := { l with resend := (l.replay.filter due).map fun (f : SentFlit) => f.seq }
  have hrun : Happens .replayResend s (s.setLink l') := by
    rw [Happens, exec_replayResend, execReplayResend]
    exact if_pos hdue
  have hlink : (s.setLink l').link s.sel.a s.sel.b = l' := by
    have h := link_setLink s l'
    rwa [show l'.port = s.sel.a from (link_named s s.sel.a s.sel.b).1, show l'.slot = s.sel.b from (link_named s s.sel.a s.sel.b).2] at h
  refine ⟨s.setLink l', hrun, rfl, fun f hf hlate => ?_⟩
  rw [hlink]
  exact List.mem_map.mpr ⟨f, List.mem_filter.mpr ⟨hf, by simp [due, hlate]⟩, rfl⟩

theorem happens_relayArrival {s : State} {p : RelayPacket} (hsrc : s.isPeer p.src = true) (hdst : s.isPeer p.dst = true)
    (hquota : p.flits ≤ (s.linkTo p.src).quotaOut) : ∃ t, Happens (.relayArrival p) s t ∧ t.fab.relay = s.fab.relay ++ [{ p := p, arrived := s.podtime }] ∧
      (t.linkTo p.src).quotaOut = (s.linkTo p.src).quotaOut - p.flits := by
  have hready : s.isPeer p.src = true ∧ s.isPeer p.dst = true ∧ p.flits ≤ (s.linkTo p.src).quotaOut := ⟨hsrc, hdst, hquota⟩
  let l := { s.linkTo p.src with quotaOut := (s.linkTo p.src).quotaOut - p.flits }
  let u := s.setLink l
  refine ⟨{ u with fab := { u.fab with relay := u.fab.relay ++ [{ p := p, arrived := s.podtime }] } }, ?_, rfl, ?_⟩
  · rw [Happens, exec_relayArrival, execRelayArrival]
    exact if_pos hready
  · exact congrArg PairLink.quotaOut (linkTo_setLink s p.src (l := l) rfl rfl)

/-! ### Peers and their requests -/

section
variable {s t : State} {r : PeerReq}

theorem happens_peerRequest_of_served (h : s.servePeer r = some t) :
    Happens (.peerRequest r) s { t with fab := { t.fab with heldReqs := t.fab.heldReqs.filter fun q => q != r } } := by
  simp only [Happens, exec_peerRequest, execPeerRequest, h]

theorem happens_peerRequest_of_held (h : s.servePeer r = none) (hnew : r ∉ s.fab.heldReqs) :
    Happens (.peerRequest r) s { s with fab := { s.fab with heldReqs := s.fab.heldReqs ++ [r] } } := by
  have hnot : ¬ s.fab.heldReqs.contains r = true := by simpa using hnew
  rw [Happens, exec_peerRequest, execPeerRequest, h]
  exact if_neg hnot

end

/-- Settles O48: each event by its guard; a link, a mask and memory by lemmas on the links and reports that they go through. -/
theorem linkEvents : Obligations.LinkEvents := by
  unfold Obligations.LinkEvents
  intro s
  refine ⟨happens_slotStart, fun c hpeer => happens_slotControlReceive hpeer,
    fun f hport hpeer hsends => ⟨happens_flitReceive_of_bad hport hpeer hsends, happens_flitReceive hport hpeer hsends⟩,
    fun dark hport hpeer => happens_maskChange dark hport hpeer,
    fun hport hwave hpeer hsends hmask hdark => happens_wavelengthDark hport hwave hpeer hsends hmask hdark, happens_replayResend,
    fun p hsrc hdst hquota => happens_relayArrival hsrc hdst hquota, fun hsilent => ?_, fun r t h => happens_peerRequest_of_served h,
    fun r h hnew => happens_peerRequest_of_held h hnew, fun q hq => ?_⟩
  · rw [Happens, exec_peerAbsent, execPeerAbsent, if_pos hsilent]
  · rw [Happens, exec_peerTimeout, execPeerTimeout, hq]

end Sys2Proof.Claims
end

section
/-! PROOFS. The events of pod barriers, FSEND, collectives and routing (O49). -/

namespace Sys2Proof.Claims

open Sys2Proof.Machine

/-! ### Pod barriers -/

theorem happens_shareAnnouncement_held {s : State} {a : ShareNote} {d : Domain} (hd : s.domain? 5 0 a.domain = some d) :
    Happens (.shareAnnouncement a) s (s.hearShare d a) := by
  rw [Happens, exec_shareAnnouncement, execShareAnnouncement, hd]

theorem happens_shareAnnouncement_kept {s : State} {a : ShareNote} (hd : s.domain? 5 0 a.domain = none) :
    Happens (.shareAnnouncement a) s { s with fab := { s.fab with notes := s.fab.notes ++ [a] } } := by
  rw [Happens, exec_shareAnnouncement, execShareAnnouncement, hd]

theorem happens_podContribution {s : State} {c : PodContrib} {d : Domain} (hd : s.domain? 5 0 c.domain = some d) (hcomplete : d.complete = true)
    (hroot : d.root = s.regs.podpackage) (hmember : c.package ∈ d.participants) (hfirst : ∀ x ∈ d.contribs, x.package ≠ c.package) :
    Happens (.podContribution c) s (s.updDomains d.is fun e =>
      { e with contribs := e.contribs ++ [c], since := if c.terms = [] then e.since else some (e.since.getD s.ticks) }) := by
  have hready : d.complete = true ∧ d.root = s.regs.podpackage ∧ d.participants.contains c.package = true ∧
      (!d.contribs.any fun x => x.package == c.package) = true := by
    refine ⟨hcomplete, hroot, by simpa using hmember, ?_⟩
    simpa using hfirst
  rw [Happens, exec_podContribution, execPodContribution, hd]
  dsimp only
  rw [if_pos hready]
  simp only [List.isEmpty_iff]

theorem happens_podResult {s : State} {r : PodResult} {d : Domain} (hd : s.domain? 5 0 r.domain = some d) (hsent : d.sent = true)
    (hroot : d.root ≠ s.regs.podpackage) (hfree : s.commitBlocked d = false) (hrun : ∀ c ∈ s.membersOf d, c.stopped = false) :
    Happens (.podResult r) s (s.applyResult d r) := by
  have hready : ¬(!d.sent || d.root == s.regs.podpackage || s.commitBlocked d || (s.membersOf d).any fun c => c.stopped) = true := by
    have hany : ((s.membersOf d).any fun c => c.stopped) = false := by simpa using hrun
    simp [hsent, hroot, hfree, hany]
  rw [Happens, exec_podResult, execPodResult, hd]
  exact if_neg hready

/-! ### FSEND -/

/-- The bytes of a record that arrive with others change no byte that belongs to no record. -/
theorem writeRecords_get {s : State} (hw : s.mem.wf = true) {y : Nat} (hy : s.isRecordByte y = false) (k : Nat) (bs : List Byte) :
    (s.writeRecords k bs).mem.get y = s.mem.get y := by
  unfold State.writeRecords
  generalize hl : (bs.zipIdx.filter fun x => s.isRecordByte (k + x.2)) = l
  have hrec : ∀ x ∈ l, s.isRecordByte (k + x.2) = true := fun x hx => by subst hl; exact (List.mem_filter.1 hx).2
  have hfold : l.foldl (fun m x => m.set (k + x.2) x.1) s.mem = putAll s.mem (l.map fun x => (k + x.2, x.1)) := by
    rw [putAll, List.foldl_map]
  refine (congrArg (·.get y) hfold).trans (get_putAll_other ?_ hw)
  intro z hz
  obtain ⟨x, hx, rfl⟩ := List.mem_map.1 hz
  rintro rfl
  exact absurd (hrec x hx) (by simp [hy])

/-- Entering writes of a peer keeps all that no single one of them changes. -/
theorem foldlM_enterPeer_keeps {α : Type} {e : State → α → Staged} : ∀ (l : List α) {s t : State},
    l.foldlM (fun s x => s.enterPeer (e s x)) s = some t → t.mem = s.mem ∧ t.sel = s.sel
  | [], s, t, h => by
    obtain rfl : s = t := Option.some.inj h
    exact ⟨rfl, rfl⟩
  | x :: l, s, t, h => by
    rw [List.foldlM_cons] at h
    obtain ⟨u, hu, ht⟩ := Option.bind_eq_some_iff.1 h
    obtain ⟨hmem, hsel⟩ := foldlM_enterPeer_keeps l ht
    rw [State.enterPeer] at hu
    split at hu
    · obtain rfl := Option.some.inj hu
      exact ⟨hmem, hsel⟩
    · cases hu

theorem stageFsend_keeps {s t : State} {d : Domain} {f : FsendIn} (h : s.stageFsend d f = some t) :
    t.sel = s.sel ∧ (s.mem.wf = true → ∀ y, s.isRecordByte y = false → t.mem.get y = s.mem.get y) := by
  unfold State.stageFsend at h
  rw [show s.fresh = (s.seq, s.fresh.2) from rfl] at h
  dsimp -zeta only at h
  extract_lets k bc put at h
  split at h
  · next v hv =>
    obtain ⟨hmem, hsel⟩ := foldlM_enterPeer_keeps _ hv
    have ht : t.sel = v.sel ∧ t.mem = v.mem := by
      split at h <;> obtain rfl := Option.some.inj h
      · exact ⟨State.updTile_sel v _ _, sendArrival_mem v _ _ _ _⟩
      · exact ⟨rfl, rfl⟩
    refine ⟨ht.1.trans hsel, fun hw y hy => ?_⟩
    rw [ht.2, hmem]
    exact writeRecords_get (s := s.fresh.2) hw hy k f.data
  · cases h

section
variable {s : State} {f : FsendIn} {d : Domain} (hd : s.domain? 5 0 f.domain = some d) (htask : d.task ≠ 0)
  (hstep : counterBefore d.counter f.steps = false)
include hd htask hstep

theorem happens_fsendDelivery_again (hold : f.prior < s.peerReceived f.package f.rank f.domain) :
    Happens (.fsendDelivery f) s (s.sendAfter f.package 2 f.slack s.sel.flag 0 (.fsendAck f.id false (s.lateConflict d))) := by
  have hready : ¬(d.task = 0 ∨ counterBefore d.counter f.steps = true ∨ s.peerReceived f.package f.rank f.domain < f.prior) := by
    simp [hstep, htask]; omega
  rw [Happens, exec_fsendDelivery, execFsendDelivery, hd]
  dsimp only
  rw [if_neg hready, if_pos hold]
  rfl

section
variable (hturn : f.prior = s.peerReceived f.package f.rank f.domain)
include hturn

theorem happens_fsendDelivery_full (hfull : s.stageFsend d f = none) :
    Happens (.fsendDelivery f) s (s.sendAfter f.package 2 f.slack s.sel.flag 0 (.fsendAck f.id true none)) := by
  have hready : ¬(d.task = 0 ∨ counterBefore d.counter f.steps = true ∨ s.peerReceived f.package f.rank f.domain < f.prior) := by
    simp [hstep, htask]; omega
  rw [Happens, exec_fsendDelivery, execFsendDelivery, hd]
  dsimp only
  rw [if_neg hready, if_neg (by omega), hfull]
  rfl

theorem happens_fsendDelivery_staged {t : State} (ht : s.stageFsend d f = some t) :
    Happens (.fsendDelivery f) s ((t.countPeer f.package f.rank f.domain).sendAfter f.package 2 f.slack s.sel.flag 0
      (.fsendAck f.id false ((t.countPeer f.package f.rank f.domain).lateConflict d))) := by
  have hready : ¬(d.task = 0 ∨ counterBefore d.counter f.steps = true ∨ s.peerReceived f.package f.rank f.domain < f.prior) := by
    simp [hstep, htask]; omega
  rw [Happens, exec_fsendDelivery, execFsendDelivery, hd]
  dsimp only
  rw [if_neg hready, if_neg (by omega), ht, ← (stageFsend_keeps ht).1]
  rfl

end
end

theorem happens_fsendComplete {s : State} {m : Fsend}
    (hm : s.fab.fsends.find? (fun m => m.id == s.sel.a && m.acked && m.bad == 0 && s.packetsDone (.reply m.id)) = some m) :
    ∃ t, Happens .fsendComplete s t ∧ t.fab.fsends = s.fab.fsends.filter fun x => x.id != m.id := by
  have hex : ∃ t, execFsendComplete s = .next t ∧ t.fab.fsends = s.fab.fsends.filter fun x => x.id != m.id := by
    rw [execFsendComplete, hm]
    dsimp -zeta only
    extract_lets tile u v
    have hu : u.fab = s.fab := by
      unfold u
      split
      · rfl
      · exact State.updTile_fab s _ _
    exact ⟨_, rfl, congrArg (fun f => f.fsends.filter fun x => x.id != m.id) ((State.dropPackets_fab u _).trans hu)⟩
  exact hex

theorem happens_fsendInflightFault {s : State} {m : Fsend}
    (hm : s.fab.fsends.find? (fun m => m.id == s.sel.a && !m.acked && m.bad == 0) = some m)
    (hbad : s.sel.c = fcPEER ∧ m.deadline ≤ s.ticks ∨ s.sel.c = fcSTAGINGFULL) :
    Happens .fsendInflightFault s
      { s with fab := { s.fab with fsends := s.fab.fsends.map fun x => if x.id = m.id then { x with bad := s.sel.c } else x } } := by
  rw [Happens, exec_fsendInflightFault, execFsendInflightFault, hm]
  exact if_pos hbad

/-! ### Collectives -/

theorem happens_collPacketArrival_offered {s t : State} {p : CollPacket} {m : Coll} (hm : s.fab.colls.find? (fun m => m.id == p.id) = some m)
    (ht : s.offerColl m p = some t) : Happens (.collPacketArrival p) s t.takeEarly := by
  rw [Happens, exec_collPacketArrival, execCollPacketArrival, hm]
  dsimp only
  rw [ht]

theorem happens_collPacketArrival_early {s : State} {p : CollPacket} (hnew : ∀ m ∈ s.fab.colls, m.id ≠ p.id) (hstale : s.staleColl p = false)
    (hroom : packetBytes 4 (s.fab.early ++ [p]) ≤ bitsOf s.regs.collcfg.toNat 63 44 * 65536) :
    Happens (.collPacketArrival p) s { s with fab := { s.fab with early := s.fab.early ++ [p] } } := by
  have hnone : s.fab.colls.find? (fun m => m.id == p.id) = none := List.find?_eq_none.2 fun m hm => by simpa using hnew m hm
  rw [Happens, exec_collPacketArrival, execCollPacketArrival, hnone]
  dsimp only
  rw [if_neg (by simp [hstale]), if_pos hroom]

theorem happens_collNodeComplete {s t : State} {m : Coll} {c : Ctx} (hm : s.fab.colls.find? (fun m => m.idx == s.sel.a) = some m)
    (hc : s.member? m.task m.rank = some c) (hready : s.collReady m = true) (hflag : s.sel.flag = m.overdue) (ht : placeColl s c m = .ok t) :
    ∃ u, Happens .collNodeComplete s u ∧ u.mem = t.mem ∧ u.staged = t.staged := by
  have hex : ∃ u, execCollNodeComplete s = .next u ∧ u.mem = t.mem ∧ u.staged = t.staged := by
    rw [execCollNodeComplete, hm]
    dsimp only
    rw [hc]
    dsimp only
    rw [if_neg (by simp [hready, hflag]), ht]
    exact ⟨_, rfl, State.forgetSeeker_mem t _, State.forgetSeeker_staged t _⟩
  exact hex

theorem sendColl_keeps (s : State) (m : Coll) (p : CollPacket) (n : Nat) :
    (s.sendColl m p n).mem = s.mem ∧ (s.sendColl m p n).staged = s.staged := by
  unfold State.sendColl
  split
  · obtain ⟨hmem, hstaged, -⟩ := State.sendFrom_frame s _ _ _ _ _ _ _ _ _
    exact ⟨hmem, hstaged⟩
  · exact ⟨rfl, rfl⟩

theorem happens_collMismatch {s : State} {m : Coll} (hm : s.fab.colls.find? (fun m => m.idx == s.sel.a && m.mismatched) = some m) :
    ∃ t, Happens .collMismatch s t ∧ t.mem = s.mem ∧ t.staged = s.staged ∧ ∀ x ∈ t.fab.colls, x.idx = m.idx → x.status = some 2 := by
  have hex : ∃ t, execCollMismatch s = .next t ∧ t.mem = s.mem ∧ t.staged = s.staged ∧ ∀ x ∈ t.fab.colls, x.idx = m.idx → x.status = some 2 := by
    rw [execCollMismatch, hm]
    dsimp -zeta only
    extract_lets parent near u
    refine ⟨_, rfl, foldl_keeps State.mem near (fun s n => (sendColl_keeps s m _ n).1) s,
      foldl_keeps State.staged near (fun s n => (sendColl_keeps s m _ n).2) s, fun x hx hidx => ?_⟩
    obtain ⟨y, -, rfl⟩ := List.mem_map.1 hx
    split at hidx
    · next h => rw [if_pos h]
    · next h => exact absurd hidx h
  exact hex

/-! ### Routing -/

theorem happens_tokenHold {s : State} {t : RToken} (hdst : t.dstPkg = s.regs.podpackage) (hsrc : t.srcPkg ≠ s.regs.podpackage)
    (hroom : s.holdRoom [t] = true) : ∃ u, Happens (.tokenHold t) s u ∧ u.fab.holding = s.fab.holding ++ [t] ∧ u.mem = s.mem := by
  have hex : ∃ u, execTokenHold t s = .next u ∧ u.fab.holding = s.fab.holding ++ [t] ∧ u.mem = s.mem := by
    unfold execTokenHold
    extract_lets own waits f u
    have hown : own = false := beq_false_of_ne hsrc
    have hready : ¬(t.dstPkg ≠ s.regs.podpackage ∨ own = true ∧ (!waits) = true) := by simp [hdst, hown]
    rw [if_neg hready, if_neg (by simp [hroom]), if_neg (by simp [hown])]
    exact ⟨_, rfl, rfl, rfl⟩
  exact hex

section
variable (s : State) (d : Domain) (a : Admission) (ts : Nat → List RToken) (second : Bool)

theorem tellRound_mem : (s.tellRound d a ts second).mem = s.mem := by
  unfold State.tellRound
  refine foldl_keeps State.mem _ ?_ s
  exact fun _ _ => rfl

theorem tellRound_staged : (s.tellRound d a ts second).staged = s.staged := by
  unfold State.tellRound
  refine foldl_keeps State.staged _ ?_ s
  exact fun _ _ => rfl

theorem tellRound_admittedOnce : (s.tellRound d a ts second).fab.admittedOnce = s.fab.admittedOnce := by
  unfold State.tellRound
  refine foldl_keeps (fun s : State => s.fab.admittedOnce) _ ?_ s
  exact fun _ _ => rfl

end

theorem raiseRouting_keeps (s : State) (slots : List Slot) :
    (s.raiseRouting slots).mem = s.mem ∧ (s.raiseRouting slots).staged = s.staged ∧ (s.raiseRouting slots).fab = s.fab := by
  unfold State.raiseRouting
  refine ⟨foldl_keeps State.mem _ ?_ s, foldl_keeps State.staged _ ?_ s, foldl_keeps State.fab _ ?_ s⟩ <;>
    (intro s x; split <;> rfl)

theorem happens_admissionRound1 {s : State} {a : Admission} {d : Domain} {r : Rounds} {fwd : List RToken}
    (ha : s.fab.admissions.find? (fun a => a.domain == s.sel.a && a.round == 0) = some a) (hd : s.domain? 5 0 s.sel.a = some d)
    (hr : roundOne d (canonical (a.held s.fab.holding))
      ({ x := { s := s, base := s, told := a.told }, a := { a with slots := (List.range 64).map s.slotEntry }, bounced := [] }, []) = .ok (r, fwd)) :
    ∃ t, Happens .admissionRound1 s t ∧ t.mem = r.x.s.mem ∧ t.staged = r.x.s.staged := by
  have hex : ∃ t, execAdmissionRound1 s = .next t ∧ t.mem = r.x.s.mem ∧ t.staged = r.x.s.staged := by
    rw [execAdmissionRound1, ha, hd]
    dsimp only
    rw [hr]
    refine ⟨_, rfl, (tellRound_mem ..).trans (State.forgetSeeker_mem r.x.s _), (tellRound_staged ..).trans (State.forgetSeeker_staged r.x.s _)⟩
  exact hex

theorem happens_round1Done {s : State} {ts : List RToken} {a : Admission} (ha : s.fab.admissions.find? (fun a => a.domain == s.sel.a) = some a)
    (hmember : s.sel.b ∈ a.packages) (hfirst : s.sel.b ∉ (if s.sel.c = 1 then a.done2 else a.done1))
    (hroom : s.holdRoom (ts.filter fun t => t.bounced.isNone) = true) : ∃ t, Happens (.round1Done ts) s t ∧ t.mem = s.mem ∧ t.staged = s.staged := by
  have hex : ∃ t, execRound1Done ts s = .next t ∧ t.mem = s.mem ∧ t.staged = s.staged := by
    rw [execRound1Done, ha]
    dsimp only
    rw [if_neg (by simp [hmember, hfirst, hroom])]
    exact ⟨_, rfl, rfl, rfl⟩
  exact hex

section
variable {s : State} {a : Admission} {d : Domain} (ha : s.fab.admissions.find? (fun a => a.domain == s.sel.a) = some a)
  (hd : s.domain? 5 0 s.sel.a = some d)
include ha hd

theorem happens_admissionRound2_admitted {r : Rounds} (hround : a.round = 2) (hdone : ∀ p ∈ a.packages, p ∈ a.done1)
    (hr : roundTwo d (canonical a.forwarded) { x := { s := s, base := s, told := a.told }, a := a, bounced := [] } = .ok r) :
    ∃ t, Happens .admissionRound2 s t ∧ t.mem = r.x.s.mem ∧ t.staged = r.x.s.staged ∧ t.fab.admittedOnce = true := by
  have hex : ∃ t, execAdmissionRound2 s = .next t ∧ t.mem = r.x.s.mem ∧ t.staged = r.x.s.staged ∧ t.fab.admittedOnce = true := by
    have hready : a.round = 2 ∧ (a.packages.all fun p => a.done1.contains p) = true := ⟨hround, by simpa using hdone⟩
    rw [execAdmissionRound2, ha, hd]
    dsimp -zeta only
    rw [if_pos hready, hr]
    dsimp -zeta only
    extract_lets _ b u _ _ v
    obtain ⟨hmem, hstaged, hfab⟩ := raiseRouting_keeps (v.tellRound d b (fun p => r.bounced.filter fun t => t.srcPkg == p) true) b.slots
    refine ⟨_, rfl, ?_, ?_, ?_⟩
    · exact (hmem.trans (tellRound_mem ..)).trans (State.forgetSeeker_mem u _)
    · exact (hstaged.trans (tellRound_staged ..)).trans (State.forgetSeeker_staged u _)
    · exact (congrArg Fabric.admittedOnce hfab).trans (tellRound_admittedOnce ..)
  exact hex

theorem happens_admissionRound2_ended {x : Admitting} (hround : a.round = 3) (hdone : ∀ p ∈ a.packages, p ∈ a.done2)
    (hx : writeBounces d s.regs.podpackage (s.fab.lists.filter fun l =>
      l.domain == d.id && l.closed && a.closed.contains (s.regs.podpackage, l.rank, l.batch)) { s := s, base := s, told := a.told } = .ok x) :
    ∃ t, Happens .admissionRound2 s t ∧ t.mem = x.s.mem ∧ t.staged = x.s.staged := by
  have hex : ∃ t, execAdmissionRound2 s = .next t ∧ t.mem = x.s.mem ∧ t.staged = x.s.staged := by
    have hready : a.round = 3 ∧ (a.packages.all fun p => a.done2.contains p) = true := ⟨hround, by simpa using hdone⟩
    rw [execAdmissionRound2, ha, hd]
    dsimp -zeta only
    rw [if_neg (by simp [hround]), if_pos hready]
    extract_lets mine
    rw [show writeBounces d s.regs.podpackage (s.fab.lists.filter mine) _ = _ from hx]
    dsimp -zeta only
    extract_lets _ _ u
    exact ⟨_, rfl, State.forgetSeeker_mem u _, State.forgetSeeker_staged u _⟩
  exact hex

end

/-- Settles O49: each event by its own lemma. -/
theorem fabricEvents : Obligations.FabricEvents := by
  unfold Obligations.FabricEvents
  intro s
  refine ⟨fun a => ⟨fun d => happens_shareAnnouncement_held, happens_shareAnnouncement_kept⟩, fun c d => happens_podContribution,
    fun r d => happens_podResult, ?_, fun m => happens_fsendComplete, fun m => happens_fsendInflightFault,
    fun p m hm t => happens_collPacketArrival_offered hm, fun p => happens_collPacketArrival_early,
    fun m c t => happens_collNodeComplete, fun m => happens_collMismatch, fun t => happens_tokenHold,
    fun a d r fwd => happens_admissionRound1, fun ts a => happens_round1Done, fun a d ha hd => ⟨fun r => happens_admissionRound2_admitted ha hd,
      fun x => happens_admissionRound2_ended ha hd⟩⟩
  intro f d hd htask hstep answer
  exact ⟨happens_fsendDelivery_again hd htask hstep, fun hturn => ⟨happens_fsendDelivery_full hd htask hstep hturn,
    fun t ht => ⟨happens_fsendDelivery_staged hd htask hstep hturn ht, (stageFsend_keeps ht).2⟩⟩⟩

end Sys2Proof.Claims
end

section
/-! PROOFS. The events of the host, the firmware, errors and power (O50). -/

namespace Sys2Proof.Claims

open Sys2Proof.Machine

/-! ### What posting and submitting leave of the host link's record -/

section
variable (s : State)

theorem postEvent_host (engine event rest : Nat) : ∃ waiting lost, (s.postEvent engine event rest).host = { s.host with evwait := waiting, evlost := lost } := by
  unfold State.postEvent
  extract_lets h
  split
  · exact ⟨_, h.evlost, rfl⟩
  · exact ⟨h.evwait, _, rfl⟩

theorem tellUnplaceable_host : s.tellUnplaceable.host = s.host := by
  unfold State.tellUnplaceable
  extract_lets lost ts u
  refine foldl_keeps State.host ts ?_ u
  exact fun _ _ => rfl

theorem checkReady_units : s.checkReady.host.stacksUp = s.host.stacksUp ∧ s.checkReady.host.diesUp = s.host.diesUp := by
  unfold State.checkReady
  extract_lets h
  split
  · obtain ⟨waiting, lost, hhost⟩ := postEvent_host { s with host := { s.host with ready := true } } 6 4 0
    exact ⟨by rw [hhost], by rw [hhost]⟩
  · exact ⟨rfl, rfl⟩

end

theorem hostLeaf_host {s t : State} {a : Word} {e : Leaf} (h : s.hostLeaf a = some (e, t)) : t.host = s.host := by
  unfold State.hostLeaf at h
  split at h
  · cases h
  · split at h
    · split at h
      · cases h
      · obtain ⟨rfl, rfl⟩ := Prod.mk.inj (Option.some.inj h)
        split <;> rfl
    · cases h

theorem hostPages_host : ∀ (f : Nat) {s t : State} {a : Word} {n : Nat} {bs : List Byte}, s.hostPages f a n = some (bs, t) → t.host = s.host
  | 0, s, t, a, n, bs, h => by
    obtain ⟨-, rfl⟩ := Prod.mk.inj (Option.some.inj h)
    rfl
  | f + 1, s, t, a, n, bs, h => by
    unfold State.hostPages at h
    split at h
    · obtain ⟨-, rfl⟩ := Prod.mk.inj (Option.some.inj h)
      rfl
    · obtain ⟨⟨e, u⟩, hu, h⟩ := Option.bind_eq_some_iff.1 h
      obtain ⟨⟨rest, v⟩, hv, h⟩ := Option.bind_eq_some_iff.1 h
      obtain ⟨-, rfl⟩ := Prod.mk.inj (Option.some.inj h)
      exact (hostPages_host f hv).trans (hostLeaf_host hu)

theorem hostRead_host {s t : State} {a : Word} {n : Nat} {bs : List Byte} (h : s.hostRead a n = some (bs, t)) : t.host = s.host := by
  unfold State.hostRead at h
  split at h
  · obtain ⟨-, rfl⟩ := Prod.mk.inj (Option.some.inj h)
    rfl
  · exact hostPages_host _ h

theorem hostSubmit_host (s : State) (a : Word) : (s.hostSubmit a).2.host = s.host := by
  unfold State.hostSubmit
  split
  · rfl
  · split
    · rfl
    · next bs s1 h1 =>
      extract_lets n nsucc rc
      split
      · exact hostRead_host h1
      · next ss s2 h2 =>
        split
        · exact (hostRead_host h2).trans (hostRead_host h1)
        · next rs s3 h3 =>
          extract_lets b st
          have h := (hostRead_host h3).trans ((hostRead_host h2).trans (hostRead_host h1))
          split <;> exact h

/-! ### What the host does while the link is up -/

/-- The bits that a write clears, of a register of 32. -/
theorem testBit_cleared (x v : Nat) {k : Nat} (hk : k < 32) :
    (Nat.land x (Nat.xor (v % 2 ^ 32) 0xFFFFFFFF)).testBit k = (x.testBit k && !v.testBit k) := by
  have hones : (0xFFFFFFFF : Nat) = 2 ^ 32 - 1 := by norm_num
  rw [hones, show Nat.land x _ = x &&& _ from rfl, show Nat.xor _ _ = v % 2 ^ 32 ^^^ _ from rfl, Nat.testBit_and, Nat.testBit_xor,
    Nat.testBit_two_pow_sub_one, Nat.testBit_mod_two_pow]
  simp [hk]

section
variable {s : State} (hup : s.host.linkUp = true)
include hup

theorem happens_hostBar2Access_inside {o : Nat} {data : List Byte} (hin : s.host.bar2base + o + data.length ≤ 2 ^ 39) :
    Happens (.hostBar2Access o false data) s s ∧ Happens (.hostBar2Access o true data) s (s.hostWrite (s.host.bar2base + o) data) := by
  simp only [Happens, exec_hostBar2Access, execHostBar2Access, hup, if_neg (Nat.not_lt.2 hin)]
  exact ⟨rfl, rfl⟩

theorem happens_hostBar2Access_beyond {o : Nat} (w : Bool) {data : List Byte} (hout : 2 ^ 39 < s.host.bar2base + o + data.length) :
    Happens (.hostBar2Access o w data) s (s.countHost 16) := by
  simp only [Happens, exec_hostBar2Access, execHostBar2Access, hup, if_pos hout]
  rfl

theorem happens_hostActiveMessage {o : Nat} {data : List Byte} {t : State} (ht : s.hostMessage o data = some t) :
    Happens (.hostActiveMessage o data) s t := by
  simp [Happens, execHostActiveMessage, hup, ht]

theorem happens_tcbsub_early (hready : s.host.ready = false) (a : Word) : Happens (.tcbsub a) s (s.countHost 48) := by
  simp [Happens, execTcbsub, State.tcbWrite, hup, hready]

theorem happens_tcbsub (hready : s.host.ready = true) (a : Word) :
    ∃ t, Happens (.tcbsub a) s t ∧ t.host.tcbCount = (s.host.tcbCount + 1) % 2 ^ 32 := by
  refine ⟨s.tcbWrite a, by simp [Happens, execTcbsub, hup], ?_⟩
  rw [State.tcbWrite, if_neg (by simp [hready])]
  exact congrArg (fun h : HostLink => (h.tcbCount + 1) % 2 ^ 32) (hostSubmit_host s a)

theorem happens_hoststatWrite (v : Word) : Happens (.hoststatWrite none v) s { s with host := { s.host with hoststat := v } } := by
  rw [Happens, exec_hoststatWrite, execHoststatWrite]
  exact if_pos hup

theorem happens_hoststatWrite_half (b : Bool) (v : Word) : ∃ t, Happens (.hoststatWrite (some b) v) s t ∧
    t.host.hoststat.toNat = (if b then v.toNat % 2 ^ 32 * 2 ^ 32 + s.host.hoststat.toNat % 2 ^ 32
      else s.host.hoststat.toNat / 2 ^ 32 * 2 ^ 32 + v.toNat % 2 ^ 32) := by
  refine ⟨s.setHoststat (some b) v, by simp [Happens, execHoststatWrite, hup], ?_⟩
  have hold := s.host.hoststat.isLt
  cases b
  · change ((s.host.hoststat.extractLsb' 32 32) ++ (v.extractLsb' 0 32)).toNat = s.host.hoststat.toNat / 2 ^ 32 * 2 ^ 32 + v.toNat % 2 ^ 32
    rw [BitVec.toNat_append, ← Nat.shiftLeft_add_eq_or_of_lt (BitVec.isLt _), Nat.shiftLeft_eq]
    simp only [BitVec.extractLsb'_toNat, Nat.shiftRight_eq_div_pow]
    omega
  · change ((v.extractLsb' 0 32) ++ (s.host.hoststat.extractLsb' 0 32)).toNat = v.toNat % 2 ^ 32 * 2 ^ 32 + s.host.hoststat.toNat % 2 ^ 32
    rw [BitVec.toNat_append, ← Nat.shiftLeft_add_eq_or_of_lt (BitVec.isLt _), Nat.shiftLeft_eq]
    simp only [BitVec.extractLsb'_toNat, Nat.shiftRight_eq_div_pow]
    omega

theorem happens_evheadWrite (v : Word) : ∃ t, Happens (.evheadWrite v) s t ∧ t.mem = s.mem ∧ t.host.evhead =
    (if headTaken s.host.evhead (v.toNat % 2 ^ 32) s.host.evtail then v.toNat % 2 ^ 32 else s.host.evhead) :=
  ⟨s.setEvhead v.toNat, by simp [Happens, execEvheadWrite, hup], by rw [State.setEvhead, State.updHost], by rw [State.setEvhead, State.updHost]⟩

theorem happens_evlostClear (v : Word) : ∃ t, Happens (.evlostClear v) s t ∧
    ∀ k, k < 32 → t.host.evlost.testBit k = (s.host.evlost.testBit k && !v.getLsbD k) := by
  refine ⟨s.clearEvlost v.toNat, by simp [Happens, execEvlostClear, hup], fun k hk => ?_⟩
  have hlost : (s.clearEvlost v.toNat).host.evlost = Nat.land s.host.evlost (Nat.xor (v.toNat % 2 ^ 32) 0xFFFFFFFF) := by
    rw [State.clearEvlost, State.updHost]
  rw [hlost, testBit_cleared _ _ hk, BitVec.testBit_toNat]

theorem happens_fwctlVerify (n : BitVec 32) (hidle : s.host.fwStatus ≠ 3) :
    ∃ t, Happens (.fwctlVerify n) s t ∧ t.host.fwStatus = 3 ∧ t.host.fwJob = some n.toNat := by
  have hset : s.setFwctl n.toNat true false = { s with host := { s.host with fwLength := n.toNat, fwStatus := 3, fwJob := some n.toNat } } := by
    simp [State.setFwctl, hidle]
  refine ⟨s.setFwctl n.toNat true false, by simp [Happens, execFwctlVerify, hup], ?_, ?_⟩ <;> rw [hset]

theorem happens_fwctlRaisemin :
    ∃ t, Happens .fwctlRaisemin s t ∧ t.host.fusedMin = max s.host.fusedMin s.host.version ∧ t.host.fwStatus = 4 :=
  ⟨s.setFwctl s.host.fwLength false true, by simp [Happens, execFwctlRaisemin, hup], rfl, rfl⟩

theorem happens_brclr (v : Word) : ∃ t, Happens (.brclr v) s t ∧ t.host.brclr = (s.host.brclr || v == 1) := by
  refine ⟨s.setBrclr v, by simp [Happens, execBrclr, hup], ?_⟩
  unfold State.setBrclr
  split
  · next h => simp [State.updHost, h]
  · next h => rw [beq_false_of_ne h, Bool.or_false]

theorem happens_attestationRequest : ∃ t, Happens .attestationRequest s t ∧ t.host.att = 1 := by
  refine ⟨s.setAttctl 1, by simp [Happens, execAttestationRequest, hup], ?_⟩
  unfold State.setAttctl
  split
  · rfl
  · next h => simpa using h

theorem happens_controlWindowAccess_read {o : Nat} {data : List Byte} (hin : o + data.length ≤ 2 ^ 26) :
    Happens (.controlWindowAccess o false data) s
      (if isRegister o ∧ (o % 8 ≠ 0 ∨ data.length ≠ 4 ∧ data.length ≠ 8) then s.countHost 0 else s) := by
  have hready : ¬((!s.host.linkUp) = true ∨ 2 ^ 26 < o + data.length) := by simp only [hup]; simpa using hin
  rw [Happens, exec_controlWindowAccess, execControlWindowAccess, if_neg hready]
  by_cases hreg : isRegister o = true <;> by_cases hodd : o % 8 ≠ 0 ∨ data.length ≠ 4 ∧ data.length ≠ 8 <;> simp [hreg, hodd]

theorem happens_controlWindowAccess_write {o : Nat} {data : List Byte} (hreg : isRegister o = true) (hplace : o % 8 = 0)
    (hsize : data.length = 4 ∨ data.length = 8) : Happens (.controlWindowAccess o true data) s (s.windowWrite o data.length (numOf data)) := by
  have hlow : o < 0x10408 := by
    simp only [isRegister, Bool.or_eq_true, Bool.and_eq_true, decide_eq_true_eq] at hreg
    omega
  have hready : ¬((!s.host.linkUp) = true ∨ 2 ^ 26 < o + data.length) := by
    simp only [hup]
    simp
    omega
  have hwell : ¬(o % 8 ≠ 0 ∨ data.length ≠ 4 ∧ data.length ≠ 8) := by omega
  rw [Happens, exec_controlWindowAccess, execControlWindowAccess, if_neg hready, if_pos hreg, if_neg hwell]
  rfl

theorem happens_hostLinkDown : Happens .hostLinkDown s { s with host := { s.host with linkUp := false, rate := 0, width := 0 } } := by
  simp only [Happens, exec_hostLinkDown, execHostLinkDown, hup]
  rfl

theorem happens_hostLinkError : Happens (.hostLinkError true) s { s with transient := s.transient + 1 } ∧
    Happens (.hostLinkError false) s { s with host := { s.host with aerErrors := s.host.aerErrors + 1 } } := by
  simp only [Happens, exec_hostLinkError, execHostLinkError]
  exact ⟨if_neg (by simp [hup]), if_neg (by simp [hup])⟩

theorem happens_eventRecordPost {r : List Byte} {rest : List (List Byte)} (hwait : s.host.evwait = r :: rest) (hroom : s.eventRoom = true) :
    ∃ t, Happens .eventRecordPost s t ∧ t.host.evwait = rest ∧ t.host.evtail = (s.host.evtail + 1) % 2 ^ 32 ∧
      t.mem = s.mem.write (hostKey (s.host.evbase.toNat + 64 * (s.host.evtail % 2 ^ (s.host.evcfg.toNat % 32)))) r := by
  have hready : (s.host.linkUp && s.eventRoom) = true := by simp [hup, hroom]
  have hpost : ∃ t, s.postRing = some t ∧ t.host.evwait = rest ∧ t.host.evtail = (s.host.evtail + 1) % 2 ^ 32 ∧
      t.mem = s.mem.write (hostKey (s.host.evbase.toNat + 64 * (s.host.evtail % 2 ^ (s.host.evcfg.toNat % 32)))) r := by
    unfold State.postRing
    rw [hwait]
    dsimp only
    rw [if_pos hready]
    exact ⟨_, rfl, rfl, rfl, rfl⟩
  obtain ⟨t, ht, hrest⟩ := hpost
  exact ⟨t, by rw [Happens, exec_eventRecordPost, execEventRecordPost, ht], hrest⟩

end

/-! ### The link, firmware and attestation -/

theorem happens_hostLinkTrained {s : State} (hdown : s.host.linkUp = false) (hstart : s.host.started = true) {r n : Nat}
    (hr : r ∈ [128, 64, 32, 16, 8, 5, 2]) (hn : n ∈ [16, 8, 4, 2, 1]) :
    Happens (.hostLinkTrained r n) s { s with host := { s.host with linkUp := true, rate := r, width := n } } := by
  have hready : ¬(s.host.linkUp = true ∨ (!s.host.started) = true ∨ (!([128, 64, 32, 16, 8, 5, 2].contains r)) = true ∨
      (!([16, 8, 4, 2, 1].contains n)) = true) := by
    rw [List.contains_iff_mem.2 hr, List.contains_iff_mem.2 hn, hdown, hstart]
    decide
  rw [Happens, exec_hostLinkTrained, execHostLinkTrained]
  exact if_neg hready

theorem happens_firmwareVerified {s : State} {n : Nat} (hjob : s.host.fwJob = some n) :
    ∃ t, Happens .firmwareVerified s t ∧ t.host.fwJob = none ∧
      let img := s.host.staging.read 0 n
      let good := n ≤ 48 * 2 ^ 20 ∧ imageAccepted s.host.fusedMin img = true
      (good → t.host.fwStatus = 1 ∧ t.host.slot t.host.preferred = img ∧ t.host.slot s.host.running = s.host.slot s.host.running ∨ 1 < s.host.running) ∧
      (¬good → t.host.fwStatus = 2 ∧ t.host.slotA = s.host.slotA ∧ t.host.slotB = s.host.slotB) := by
  extract_lets img good
  have hrun : exec .firmwareVerified s = execFirmwareVerified s := rfl
  unfold execFirmwareVerified at hrun
  simp only [hjob] at hrun
  by_cases hgood : good
  · have htest : (decide (n ≤ 48 * 2 ^ 20) && imageAccepted s.host.fusedMin (s.host.staging.read 0 n)) = true := by
      simpa only [Bool.and_eq_true, decide_eq_true_eq] using hgood
    rw [if_pos htest] at hrun
    by_cases hslot : s.host.running = 0
    · rw [if_pos hslot] at hrun
      exact ⟨_, hrun, rfl, fun _ => .inl ⟨rfl, rfl, (if_pos hslot).trans (if_pos hslot).symm⟩, fun h => absurd hgood h⟩
    · rw [if_neg hslot] at hrun
      refine ⟨_, hrun, rfl, fun _ => ?_, fun h => absurd hgood h⟩
      exact .inl ⟨rfl, rfl, (if_neg hslot).trans (if_neg hslot).symm⟩
  · have htest : ¬(decide (n ≤ 48 * 2 ^ 20) && imageAccepted s.host.fusedMin (s.host.staging.read 0 n)) = true := by
      simpa only [Bool.and_eq_true, decide_eq_true_eq] using hgood
    rw [if_neg htest] at hrun
    exact ⟨_, hrun, rfl, fun h => absurd h hgood, fun _ => ⟨rfl, rfl, rfl⟩⟩

theorem happens_attestationDone {s : State} (hatt : s.host.att = 1) :
    ∃ t, Happens .attestationDone s t ∧ t.host.att = 2 ∧ t.host.attBody = s.attestBody := by
  refine ⟨_, (by rw [exec_attestationDone, execAttestationDone]; exact if_pos hatt : exec .attestationDone s = .next _), rfl, rfl⟩

/-! ### Bring-up -/

theorem happens_deviceReset (s : State) (outcome : List (Nat × Bool)) (fw : Firmware) : ∃ t, Happens (.deviceReset outcome fw) s t := by
  have hex : ∃ t, execDeviceReset outcome fw s = .next t := by
    unfold execDeviceReset
    extract_lets
    split <;> exact ⟨_, rfl⟩
  exact hex

section
variable {s : State} (hstart : s.host.started = true) (pass : Bool)
include hstart

theorem happens_unitSelfTestDone_stack (hpend : s.host.pendingStacks.testBit s.sel.a = true) : ∃ t, Happens (.unitSelfTestDone true pass) s t ∧
    t.host.stacksUp = s.host.stacksUp + (if pass then 2 ^ s.sel.a else 0) := by
  have hex : ∃ t, execUnitSelfTestDone true pass s = .next t ∧ t.host.stacksUp = s.host.stacksUp + (if pass then 2 ^ s.sel.a else 0) := by
    unfold execUnitSelfTestDone
    extract_lets h n pending h1 h2 u
    have hready : ¬((!h.started || !bitAt pending n) = true) := by
      simp [h, pending, n, hstart, bitAt_eq_testBit, hpend]
    rw [if_neg hready, if_pos rfl]
    have hnoted : u.host.stacksUp = s.host.stacksUp + (if pass then 2 ^ s.sel.a else 0) := rfl
    refine ⟨_, rfl, Eq.trans ?_ hnoted⟩
    split
    · exact (checkReady_units u).1
    · obtain ⟨waiting, lost, hhost⟩ := postEvent_host u 6 3 n
      rw [hhost]
  exact hex

theorem happens_unitSelfTestDone_die (hpend : s.host.pendingDies.testBit s.sel.a = true) : ∃ t, Happens (.unitSelfTestDone false pass) s t ∧
    t.host.diesUp = s.host.diesUp + (if pass then 2 ^ s.sel.a else 0) := by
  have hex : ∃ t, execUnitSelfTestDone false pass s = .next t ∧ t.host.diesUp = s.host.diesUp + (if pass then 2 ^ s.sel.a else 0) := by
    unfold execUnitSelfTestDone
    extract_lets h n pending _ _ _ h1 h2 u
    have hready : ¬((!h.started || !bitAt pending n) = true) := by
      simp [h, pending, n, hstart, bitAt_eq_testBit, hpend]
    rw [if_neg hready, if_neg Bool.false_ne_true]
    have hposted : u.host.diesUp = s.host.diesUp + (if pass then 2 ^ s.sel.a else 0) := by
      obtain ⟨waiting, lost, hhost⟩ := postEvent_host { s with host := h2 } 6 (if pass then 1 else 2) n
      exact congrArg HostLink.diesUp hhost
    refine ⟨_, rfl, Eq.trans ?_ hposted⟩
    split
    · exact (checkReady_units u).2
    · exact congrArg HostLink.diesUp (tellUnplaceable_host u)
  exact hex

end

/-! ### Errors, power and heat -/

section
variable {s : State} (hdie : s.sel.a < 4)
include hdie

theorem happens_meshLinkError : Happens (.meshLinkError true) s { s with transient := s.transient + 1 } ∧ ∃ t, Happens (.meshLinkError false) s t := by
  simp only [Happens, exec_meshLinkError, execMeshLinkError, if_neg (Nat.not_le.2 hdie)]
  exact ⟨rfl, _, rfl⟩

theorem happens_throttleTemperature :
    ∃ t, Happens .throttleTemperature s t ∧ t.host.hotAt = s.ticks ∧ s.host.clockStep ≤ t.host.clockStep := by
  have hex : ∃ t, execThrottleTemperature s = .next t ∧ t.host.hotAt = s.ticks ∧ s.host.clockStep ≤ t.host.clockStep := by
    unfold execThrottleTemperature
    rw [if_neg (Nat.not_le.2 hdie)]
    extract_lets h free
    split
    · obtain ⟨waiting, lost, hhost⟩ := postEvent_host
        { s with host := { h with hotAt := s.ticks, loweredAt := some s.ticks, clockStep := h.clockStep + 1 } } 7 1 0
      exact ⟨_, rfl, congrArg HostLink.hotAt hhost, (Nat.le_succ _).trans_eq (congrArg HostLink.clockStep hhost).symm⟩
    · exact ⟨_, rfl, rfl, Nat.le_refl _⟩
  exact hex

theorem happens_trip : ∃ t, Happens .trip s t ∧ t.off = true := by
  refine ⟨_, (by rw [exec_trip, execTrip]; exact if_neg (Nat.not_le.2 hdie) : exec .trip s = .next _), rfl⟩

end

theorem happens_stepRaised {s : State} (hstep : s.host.calibrated < s.host.clockStep) (hcool : s.host.hotAt + 100 * 125000 ≤ s.ticks) :
    ∃ t, Happens .stepRaised s t ∧ t.host.clockStep = s.host.clockStep - 1 := by
  have hready : s.coolEnough = true := by
    rw [State.coolEnough, decide_eq_true hstep, Bool.true_and]
    exact decide_eq_true hcool
  obtain ⟨waiting, lost, hhost⟩ := postEvent_host (s.updHost fun h => { h with clockStep := h.clockStep - 1, hotAt := s.ticks }) 7 2 0
  refine ⟨_, (by rw [exec_stepRaised, execStepRaised]; exact if_pos hready : exec .stepRaised s = .next _), ?_⟩
  exact congrArg HostLink.clockStep hhost

/-- Settles O50: each event by its own lemma. -/
theorem hostEvents : Obligations.HostEvents := by
  unfold Obligations.HostEvents
  intro s
  refine ⟨fun hup => ⟨fun o data => happens_hostBar2Access_inside hup, fun o w data => happens_hostBar2Access_beyond hup w,
      fun o data t => happens_hostActiveMessage hup, happens_tcbsub_early hup, happens_tcbsub hup, happens_hoststatWrite hup,
      happens_hoststatWrite_half hup, happens_evheadWrite hup, happens_evlostClear hup, happens_fwctlVerify hup, happens_fwctlRaisemin hup,
      happens_brclr hup, happens_attestationRequest hup, fun o data => happens_controlWindowAccess_read hup,
      fun o data => happens_controlWindowAccess_write hup, happens_hostLinkDown hup, (happens_hostLinkError hup).1, (happens_hostLinkError hup).2,
      fun r rest => happens_eventRecordPost hup⟩,
    fun hdown hstart r hr n hn => happens_hostLinkTrained hdown hstart hr hn, fun n => happens_firmwareVerified, happens_attestationDone,
    happens_deviceReset s, fun pass hstart => ⟨happens_unitSelfTestDone_stack hstart pass, happens_unitSelfTestDone_die hstart pass⟩,
    fun hdie => ⟨(happens_meshLinkError hdie).1, (happens_meshLinkError hdie).2, happens_throttleTemperature hdie, happens_trip hdie⟩,
    happens_stepRaised⟩

end Sys2Proof.Claims
end

section
/-! PROOFS. Queueing a matrix command, the multiplications, banks, the plate and accumulator commands (O30, O31, O32). -/

namespace Sys2Proof.Claims

open Sys2Proof.Machine

/-! ### What stands before a command -/

section
variable {s : State} {c : Ctx}

theorem runMx_of_pre {h : Common} {ops : List Operand} {pre : Ctx → Try Unit} {body : State → Ctx → Word → Try Done} (hc : s.ctx? s.sel.ctx = some c)
    (hpre : pre c = .ok ()) : runMx s h ops pre body = runInstr s h false ops body := by
  rw [runMx, hc]
  dsimp only
  rw [hpre]

theorem queueGate_of_room (h : QueueRoom s c) : queueGate s c = .ok () := by
  obtain ⟨hlen, hput⟩ := h
  have hput' : ((s.tile c.key.tile).mqSaved.any fun m => m.task == c.task && m.rank == c.rank) = false := by simpa using hput
  exact if_neg (by rw [hput']; simpa using hlen)

theorem queueGate_of_full (h : ¬QueueRoom s c) : queueGate s c = stall s := by
  refine if_pos ?_
  by_contra hno
  obtain ⟨hlen, hput⟩ := Bool.or_eq_false_iff.1 (Bool.not_eq_true _ ▸ hno)
  exact h ⟨Nat.not_le.1 (of_decide_eq_false hlen), by simpa using hput⟩

theorem checkRun_of_fits {o : Operand} {acc blocks : Nat} (ho : c.loc o = some acc) (h : acc + 4096 * blocks ≤ 0x8000) : checkRun c o blocks = .ok () := by
  rw [checkRun, ho, Option.getD_some, decide_eq_true h]
  rfl

theorem checkAcc_of_free {acc blocks : Nat} {read write : Bool} (hread : read = true → meetsAny c.pending acc (4096 * blocks) = false)
    (hwrite : write = true → meetsAny c.winRanges acc (4096 * blocks) = false ∧ strictUnread s c acc (4096 * blocks) = false) :
    checkAcc s c acc blocks read write = .ok () := by
  have h1 : (read && meetsAny c.pending acc (4096 * blocks)) = false := by
    cases read
    · rfl
    · exact hread rfl
  have h2 : (write && meetsAny c.winRanges acc (4096 * blocks)) = false ∧ (write && strictUnread s c acc (4096 * blocks)) = false := by
    cases write
    · exact ⟨rfl, rfl⟩
    · exact hwrite rfl
  rw [checkAcc, h1, h2.1, h2.2]
  rfl

theorem waitFree_of_notHeld {sp : Span} {write : Bool} (h : s.heldBack c sp write = false) : s.waitFree c sp write = .ok () := by
  rw [State.waitFree, h]
  rfl

end

/-! ### The queue -/

section
variable (s : State) (c : Ctx) (m : MxCmd)

theorem queueCmd_outstanding : (m.writes = [] → (queueCmd s c m).2.outstanding = c.outstanding) ∧
    (m.writes ≠ [] → ∃ t, (queueCmd s c m).2.outstanding = c.outstanding ++ [t] ∧ t.id = m.id) := by
  unfold queueCmd
  extract_lets u d _ e
  refine ⟨fun h => ?_, fun h => ?_⟩
  · change e.outstanding = c.outstanding
    simp only [e, h, List.isEmpty_nil, if_pos]
    rfl
  · refine ⟨{ newToken m.id [] 0 0 with kind := mxKind, spans := m.writes }, ?_, rfl⟩
    change e.outstanding = _
    simp only [e, List.isEmpty_iff, if_neg h]
    rfl

theorem queueCmd_frame : (queueCmd s c m).2.rf = c.rf ∧ (queueCmd s c m).2.pendingMx = m.writes ++ c.pendingMx ∧
    (queueCmd s c m).2.readPend = m.reads ++ c.readPend ∧ (queueCmd s c m).2.strictPend = m.strict ++ c.strictPend := by
  unfold queueCmd
  extract_lets u d _ e
  have he : e.rf = d.rf ∧ e.pendingMx = d.pendingMx ∧ e.readPend = d.readPend ∧ e.strictPend = d.strictPend := by
    unfold e
    split <;> exact ⟨rfl, rfl, rfl, rfl⟩
  exact he

theorem queueCmd_mq : ((queueCmd s c m).1.tile c.key.tile).mq = (s.tile c.key.tile).mq ++ [m] :=
  congrArg Tile.mq (tile_updTile (f := fun t => { t with mq := t.mq ++ [m] }) s c.key.tile fun _ => rfl)

end

section
variable {w : FormX} {s : State} {c : Ctx} (hfull : ¬QueueRoom s c)
include hfull

theorem accz_waits {acc : Nat} {g : Word} (ha : c.loc w.a = some acc) (hI : Issues s c w.h [] g)
    (hrun : acc + 4096 * (w.sub.toNat % 8 + 1) ≤ 0x8000) : exec (.accz w) s = .next s := by
  rw [exec_accz, execAccz]
  rw [runMx_of_pre hI.1 (checkRun_of_fits ha (by omega))]
  refine ins_stall hI (by simp) ?_
  rw [queueGate_of_full hfull]
  rfl

theorem accld_accst_wait {acc : Nat} {g : Word} (ha : c.loc w.a = some acc) (hI : Issues s c w.h [w.b, w.c] g) (hrun : acc + 4096 ≤ 0x8000) :
    exec (.accld w) s = .next s ∧ exec (.accst w) s = .next s := by
  constructor
  · rw [exec_accld, execAccld, runMx_of_pre hI.1 (checkRun_of_fits ha (by omega))]
    refine ins_stall hI (by simp) ?_
    rw [queueGate_of_full hfull]
    rfl
  · rw [exec_accst, execAccst, runMx_of_pre hI.1 (checkRun_of_fits ha (by omega))]
    refine ins_stall hI (by simp) ?_
    rw [queueGate_of_full hfull]
    rfl

theorem mbswap_mbldFree_wait (hF : Fires s c w.h []) : exec (.mbswap w) s = .next s ∧ exec (.mbldFree w) s = .next s := by
  constructor
  · rw [exec_mbswap, execMbswap]
    refine uni_stall hF (by simp) ?_
    rw [queueGate_of_full hfull]
    rfl
  · rw [exec_mbldFree, execMbldFree]
    refine uni_stall hF (by simp) ?_
    rw [queueGate_of_full hfull]
    rfl

end

end Sys2Proof.Claims

open Sys2Proof.Machine Sys2Proof.Claims in
/-- Settles O30: a command goes behind the others of its tile, and the gate stands before all else. -/
theorem matrixQueue : Obligations.MatrixQueue := by
  unfold Obligations.MatrixQueue
  refine ⟨fun s c m => ?_, fun w s c acc hfull ha => ⟨fun g => accz_waits hfull ha, fun g => accld_accst_wait hfull ha⟩,
    fun w s c hfull => mbswap_mbldFree_wait hfull⟩
  obtain ⟨hrf, hpending, hreads, hstrict⟩ := queueCmd_frame s c m
  obtain ⟨hnone, hsome⟩ := queueCmd_outstanding s c m
  exact ⟨queueCmd_mq s c m, State.updTile_mem s _ _, State.updTile_ctxs s _ _, hrf, rfl, hpending, hreads, hstrict, hnone, hsome⟩

end

section
/-! PROOFS. MMA and MMAT at issue (O31). -/

namespace Sys2Proof.Claims

open Sys2Proof.Machine

theorem mmaRun_of_fits {tr : Bool} {w : FormX} {c : Ctx} {b : Bank} {acc : Nat} (hfront : c.front = some b) (ha : c.loc w.a = some acc)
    (hrun : acc + 4096 * mmaBlocks tr b.fmt ≤ 0x8000) : mmaRun tr w.a c = .ok () := by
  rw [mmaRun, hfront]
  exact checkRun_of_fits ha hrun

theorem checkAll_of_ok {f : Nat → Try Unit} {m : Nat} (h : ∀ i, i < m → f i = .ok ()) : (List.range m).forM f = .ok () :=
  forM_ok fun i hi => h i (List.mem_range.1 hi)


end Sys2Proof.Claims

open Sys2Proof Sys2Proof.Machine Sys2Proof.Claims in
/-- Settles O31. The steps of the issue in their order: the gate, the control word, the base of the rows, the accumulator run, the fields of the control
word, the checks of the rows in memory, and the bytes of rows and sides; where they differ, `hrows` says which of the two modes it is. -/
theorem matrixMultiplyIssue : Obligations.MatrixMultiplyIssue := by
  unfold Obligations.MatrixMultiplyIssue
  intro w tr s c g ctl base b acc vregs vrows rows sides
  extract_lets fmt geo m stride side n rb q blocks rowAt sideAt wide here _ cmd r
  intro hI hfall hroom ha hfront hrun hpend hwin hstrict hctl hctl52 hctl9 hn hpair hsideok hsides hrows
  have hexec : exec (if tr then .mmat w else .mma w) s = runMma s w tr := by cases tr <;> rfl
  have hfmt : bitsOf w.sub.toNat 9 4 = fmt := bitsOf_eq _ _ _
  have hgeo : bitsOf w.sub.toNat 11 10 = geo := bitsOf_eq _ _ _
  have hst : bitsOf ctl.toNat 31 16 = stride := bitsOf_eq _ _ _
  have hside : bitsOf ctl.toNat 51 32 = side := bitsOf_eq _ _ _
  have hnn : bitsOf ctl.toNat 8 0 = n := by rw [bitsOf_eq]; simp [n]
  have h52 : bitsOf ctl.toNat 63 52 = 0 := by rw [bitsOf_eq, hctl52, Nat.zero_mod]
  have h9 : bitsOf ctl.toNat 15 9 = 0 := by rw [bitsOf_eq]; exact hctl9
  rw [Completes, hexec]
  unfold runMma
  rw [runMx_of_pre hI.1 (mmaRun_of_fits hfront ha hrun)]
  refine ins_ok hI hfall (by simp) ?_
  rw [hfmt, hgeo]
  refine (try_bind_of_ok (queueGate_of_room hroom) _).trans ?_
  extract_lets acc0 vregs0 blocks0 idx0 lk0
  have hacc0 : acc0 = acc := by rw [show acc0 = (c.loc w.a).getD 0 from rfl, ha, Option.getD_some]
  have hblocks : blocks0 = blocks := by
    unfold blocks0
    rw [hfront]
  have hvregs : vregs0 = vregs := by
    unfold vregs0
    split at hrows
    · next hv =>
      obtain ⟨-, -, ⟨k, hwb, hk⟩, -⟩ := hrows
      rw [if_pos hv, hwb, hk]
    · next hv => rw [if_neg hv, hrows.2.1]
  clear_value acc0 blocks0 vregs0
  subst hacc0 hvregs hblocks
  refine (try_bind_of_ok hctl _).trans ?_
  extract_lets -underBinder ctl0 fromBase
  have hbase : (if w.sub.getLsbD 12 = true then (pure 0 : Try Word) >>= fromBase else readVal c w.b >>= fromBase) = fromBase base := by
    split at hrows
    · next hv => rw [if_pos hv, hrows.2.2.2.2.2, try_pure, try_bind_ok]
    · next hv => rw [if_neg hv, hrows.1, try_bind_ok]
  refine hbase.trans ?_
  -- The rows in registers, and the accumulator run.
  unfold fromBase
  extract_lets side0 stride0 n0 rowAt0 sideAt0
  have hvrows : ∃ vrows0, vregs0.mapM (fun a => readRf c a rb) = .ok vrows0 ∧ (w.sub.getLsbD 12 = true → vrows0 = rows) := by
    split at hrows
    · exact ⟨vrows, hrows.2.2.2.1, fun _ => hrows.2.2.2.2.1.symm⟩
    · next hv => exact ⟨[], by rw [hrows.2.1]; rfl, fun h => absurd h hv⟩
  obtain ⟨vrows0, hvrows, hsame⟩ := hvrows
  refine (try_bind_of_ok hvrows _).trans ?_
  refine (try_bind_of_ok (checkAcc_of_free (fun _ => hpend) fun _ => ⟨hwin, hstrict⟩) _).trans ?_
  have hside0 : side0 = side := hside
  have hstride0 : stride0 = stride := hst
  have hn0 : n0 = n := hnn
  clear_value side0 stride0 n0
  subst hside0 hstride0 hn0
  -- The fields of the control word.
  have hdesc : (bitsOf ctl0 63 52 == 0 && bitsOf ctl0 15 9 == 0) = true := by
    rw [show bitsOf ctl0 63 52 = 0 from h52, show bitsOf ctl0 15 9 = 0 from h9]
    rfl
  have hplain : (!(w.sub.getLsbD 12 && (stride != 0 || side != 0))) = true := by
    split at hrows
    · rw [hrows.1, hrows.2.1]
      simp
    · next hv => rw [Bool.eq_false_of_not_eq_true hv, Bool.false_and, Bool.not_false]
  rw [hdesc, hplain, hfront]
  refine (try_bind_ok () _).trans ((try_bind_ok () _).trans ?_)
  dsimp -zeta only
  rw [decide_eq_true hn, hpair]
  refine (try_bind_ok () _).trans ((try_bind_ok () _).trans ?_)
  -- What is left once the rows have been checked: their bytes and those of their sides, then the command.
  extract_lets -underBinder fromChecks
  have hchecks : fromChecks () = .ok ⟨r.1, r.2, none, false, false⟩ := by
    unfold fromChecks
    extract_lets -underBinder fromRows
    have hfromRows : fromRows rows = .ok ⟨r.1, r.2, none, false, false⟩ := by
      unfold fromRows
      extract_lets -underBinder fromSides
      have hfromSides : fromSides sides = .ok ⟨r.1, r.2, none, false, false⟩ := rfl
      split at hsides
      · next hq => rw [if_pos hq, ← hsides, try_pure, try_bind_ok, hfromSides]
      · next hq => rw [if_neg hq, try_bind_of_ok hsides, hfromSides]
    split at hrows
    · next hv => rw [if_pos hv, hsame hv, try_pure, try_bind_ok, hfromRows]
    · next hv => rw [if_neg hv, try_bind_of_ok hrows.2.2.2, hfromRows]
  split at hrows
  · next hv => rw [hv, Bool.not_true, if_neg Bool.false_ne_true, hchecks]
  · next hv =>
    have hall : idx0.forM (fun i => do
        checkLocal (rowAt0 i) rb wide i
        if (q != 0) = true then checkLocal (sideAt0 i) q 1 i else pure ()) = .ok () := by
      refine checkAll_of_ok fun i hi => ?_
      rw [try_bind_of_ok (hrows.2.2.1 i hi)]
      split
      · next hq => exact hsideok (by simpa using hq) i hi
      · rfl
    rw [Bool.eq_false_of_not_eq_true hv, Bool.not_false, if_pos rfl, try_bind_of_ok hall, hchecks]

end

section
/-! PROOFS. Banks, the plate and accumulator commands (O32). -/

namespace Sys2Proof.Claims

open Sys2Proof Sys2Proof.Machine

theorem require_of {b : Bool} {code : Nat} (h : b = true) : require b code = .ok () := require_ok.2 h

theorem requireAt_of {b : Bool} {code : Nat} {a : Word} (h : b = true) : requireAt b code a = .ok () := by
  rw [h, requireAt_true]

/-! ### Banks and the plate -/

section
variable {w : FormX} {s : State} {c : Ctx} (hroom : QueueRoom s c)
include hroom

theorem completes_mbld {a : Word} (hF : Fires s c w.h [w.a]) (ha : readVal c w.a = .ok a) :
    let n := imageBytes (c.mpdw0.toNat % 64) (c.mpdw0.toNat / 64 % 4)
    let k := plateKey c.key.tile a.toNat
    let back := !w.sub.getLsbD 0
    c.mpdw0.toNat % 64 ≠ 0 → a.toNat % 64 = 0 → a.toNat + n ≤ 0x100000 → s.pinned c.key.tile a.toNat n (some (c, !back)) = false →
    s.waitFree c { virt := false, lo := k, len := n } false = .ok () →
    let b : Bank := {
      offset := a.toNat, mpdw0 := c.mpdw0, mpdw1 := c.mpdw1, mpdw2 := c.mpdw2, key := c.stpkey, member := c.stpmem, image := s.readLoc c false k n }
    let d := if back then { c with back := some b } else { c with front := some b }
    let r := queueCmd { s with seq := s.seq + 1 } d { newCmd c s.seq (.mbld back) 0 with
      bank := some b, reads := sourceRanges c [w.a], strict := sourceRanges c [w.a] }
    Completes (.mbld w) s c w.h r.1 r.2 := by
  extract_lets n k back b d _ r
  intro hfmt halign hin hpin hfree
  have hfmt0 : bitsOf c.mpdw0.toNat 5 0 = c.mpdw0.toNat % 64 := by
    rw [bitsOf_eq, Nat.pow_zero, Nat.div_one]
    rfl
  have hgeo0 : bitsOf c.mpdw0.toNat 7 6 = c.mpdw0.toNat / 64 % 4 := bitsOf_eq _ _ _
  rw [Completes, exec_mbld, execMbld]
  refine uni_ok hF (by simp) ?_
  rw [try_bind_of_ok ha, try_bind_of_ok (queueGate_of_room hroom), hfmt0, hgeo0]
  have hpin0 : s.pinned c.key.tile a.toNat n (some (c, w.sub.getLsbD 0)) = false := by
    rwa [show (!back) = w.sub.getLsbD 0 from Bool.not_not _] at hpin
  refine (try_bind_of_ok (require_of (bne_iff_ne.2 hfmt)) _).trans ?_
  refine (try_bind_of_ok (requireAt_of (beq_iff_eq.2 halign)) _).trans ?_
  refine (try_bind_of_ok (requireAt_of (decide_eq_true hin)) _).trans ?_
  refine (try_bind_of_ok (requireAt_of (by rw [show s.pinned c.key.tile a.toNat _ _ = false from hpin0]; rfl)) _).trans ?_
  refine (try_bind_of_ok hfree _).trans ?_
  rw [show s.fresh = (s.seq, { s with seq := s.seq + 1 }) from rfl]
  dsimp -zeta only
  extract_lets b0 d0 cmd0
  have hd : d0 = d := by
    unfold d0 d back
    cases w.sub.getLsbD 0 <;> rfl
  have hkept : (∀ op, newCmd d s.seq op 0 = newCmd c s.seq op 0) ∧ sourceRanges d [w.a] = sourceRanges c [w.a] := by
    unfold d
    split <;> exact ⟨fun _ => rfl, rfl⟩
  have hcmd : cmd0 = newCmd c s.seq (.mbld back) 0 := (congrArg (newCmd · s.seq (.mbld back) 0) hd).trans (hkept.1 _)
  clear_value cmd0 d0
  subst hcmd hd
  rw [hkept.2]
  rfl

theorem completes_mbldFree (hF : Fires s c w.h []) :
    Completes (.mbldFree w) s c w.h s (if w.sub.getLsbD 0 then { c with front := none } else { c with back := none }).clearLatch := by
  rw [Completes, exec_mbldFree, execMbldFree]
  refine uni_ok hF (by simp) ?_
  rw [try_bind_of_ok (queueGate_of_room hroom)]
  rfl

theorem completes_mbswap (hF : Fires s c w.h []) :
    let r := queueCmd { s with seq := s.seq + 1 } { c with front := c.back, back := c.front } (newCmd c s.seq .mbswap 0)
    Completes (.mbswap w) s c w.h r.1 r.2 := by
  intro r
  rw [Completes, exec_mbswap, execMbswap]
  refine uni_ok hF (by simp) ?_
  rw [try_bind_of_ok (queueGate_of_room hroom)]
  rfl

theorem completes_mplw {pl src n : Word} {bs : List Byte} {t : State} (hF : Fires s c w.h [w.a, w.b, w.c]) (hpl : readVal c w.a = .ok pl)
    (hsrc : readVal c w.b = .ok src) (hn : readVal c w.c = .ok n) (hpl64 : pl.toNat % 64 = 0) (hsrc64 : src.toNat % 64 = 0) (hn64 : n.toNat % 64 = 0)
    (hn0 : n ≠ 0) (hsrcIn : src.toNat + n.toNat ≤ 0x100000) (hplIn : pl.toNat + n.toNat ≤ 0x100000)
    (hpin : s.pinned c.key.tile pl.toNat n.toNat none = false) (hread : readLocal s c src n.toNat = .ok bs)
    (hfree : s.heldBack c { virt := false, lo := plateKey c.key.tile pl.toNat, len := n.toNat } true = false)
    (hplace : s.placePlain (s.writer c false) (plateKey c.key.tile pl.toNat) pl bs = some t) :
    let r := queueCmd { t with seq := t.seq + 1 } (t.keptImage c) { newCmd c t.seq .mplw 0 with
      plate := pl.toNat, count := n.toNat, memReads := [(localKey c.key.tile src.toNat, n.toNat)],
      reads := sourceRanges c [w.a, w.b, w.c], strict := sourceRanges c [w.a, w.b, w.c] }
    Completes (.mplw w) s c w.h r.1 r.2 := by
  intro r
  have hnz : n.toNat ≠ 0 := fun h => hn0 (BitVec.eq_of_toNat_eq h)
  have hmapped : decide (src.toNat < 2 ^ 56) = true := decide_eq_true (by omega)
  have haligned : (pl.toNat % 64 == 0 && src.toNat % 64 == 0 && n.toNat % 64 == 0 && n.toNat != 0) = true := by simp [hpl64, hsrc64, hn64, hnz]
  have hinside : (decide (src.toNat + n.toNat ≤ 0x100000) && decide (pl.toNat + n.toNat ≤ 0x100000)) = true := by
    rw [decide_eq_true hsrcIn, decide_eq_true hplIn]
    rfl
  rw [Completes, exec_mplw, execMplw]
  refine uni_ok hF (by simp) ?_
  rw [try_bind_of_ok hpl, try_bind_of_ok hsrc, try_bind_of_ok hn, try_bind_of_ok (queueGate_of_room hroom)]
  refine (try_bind_of_ok (requireAt_of hmapped) _).trans ?_
  refine (try_bind_of_ok (requireAt_of haligned) _).trans ?_
  refine (try_bind_of_ok (requireAt_of hinside) _).trans ?_
  refine (try_bind_of_ok (requireAt_of (by rw [hpin]; rfl)) _).trans ?_
  refine (try_bind_of_ok hread _).trans ?_
  refine (try_bind_of_ok (waitFree_of_notHeld hfree) _).trans ?_
  rw [hplace]
  rfl

/-! ### Accumulator blocks -/

section
variable {acc : Nat} {g : Word} (hacc : c.loc w.a = some acc)
include hacc

theorem completes_accz (hI : Issues s c w.h [] g) (hfall : Falls s c) :
    let k := w.sub.toNat % 8 + 1
    acc + 4096 * k ≤ 0x8000 → meetsAny c.winRanges acc (4096 * k) = false → strictUnread s c acc (4096 * k) = false →
    let r := queueCmd { s with seq := s.seq + 1 } c { newCmd c s.seq .accz g with acc := acc, m := k, writes := [(acc, 4096 * k)] }
    Completes (.accz w) s c w.h r.1 r.2 := by
  extract_lets k _ r
  intro hrun hwin hstrict
  rw [Completes, exec_accz, execAccz, runMx_of_pre hI.1 (checkRun_of_fits hacc (by omega))]
  refine ins_ok hI hfall (by simp) ?_
  rw [try_bind_of_ok (queueGate_of_room hroom), hacc, Option.getD_some]
  refine (try_bind_of_ok (checkAcc_of_free (fun h => absurd h Bool.false_ne_true) fun _ => ⟨hwin, hstrict⟩) _).trans ?_
  rfl

section
variable {a st : Word} {rows : List (Word × Nat × Nat)} (hI : Issues s c w.h [w.b, w.c] g) (hfall : Falls s c) (ha : readVal c w.b = .ok a)
  (hst : readVal c w.c = .ok st) (hrun : acc + 4096 ≤ 0x8000)
  (hrows : rows = ((List.range (w.sub.toNat % 16 + 1)).filterMap fun i => rowSpan (a + st * BitVec.ofNat 64 i) g))
  (hcheck : ∀ x ∈ rows, checkLocal x.1 x.2.1 4 x.2.2 = .ok ())
include hI hfall ha hst hrun hrows hcheck

omit hI hfall ha hst hrun hacc hroom in
theorem accRows_of_ok : accRows a st (w.sub.toNat % 16 + 1) g = .ok rows := by
  subst hrows
  exact (try_bind_of_ok (forM_ok hcheck) _).trans rfl

theorem completes_accld {data : List (List Byte)} (hwin : meetsAny c.winRanges acc 4096 = false) (hstrict : strictUnread s c acc 4096 = false)
    (hdata : rows.mapM (fun x => readLocal s c x.1 x.2.1) = .ok data) :
    let r := queueCmd { s with seq := s.seq + 1 } c { newCmd c s.seq .accld g with
      acc := acc, m := w.sub.toNat % 16 + 1, writes := [(acc, 4096)], rows := data,
      memReads := rows.map fun x => (localKey c.key.tile x.1.toNat, x.2.1),
      reads := sourceRanges c [w.b, w.c], strict := sourceRanges c [w.b, w.c] }
    Completes (.accld w) s c w.h r.1 r.2 := by
  intro r
  rw [Completes, exec_accld, execAccld, runMx_of_pre hI.1 (checkRun_of_fits hacc (by omega))]
  refine ins_ok hI hfall (by simp) ?_
  rw [try_bind_of_ok (queueGate_of_room hroom), hacc, Option.getD_some]
  refine (try_bind_of_ok ha _).trans ((try_bind_of_ok hst _).trans ?_)
  refine (try_bind_of_ok (checkAcc_of_free (blocks := 1) (fun h => absurd h Bool.false_ne_true) fun _ => ⟨hwin, hstrict⟩) _).trans ?_
  refine (try_bind_of_ok (accRows_of_ok hrows hcheck) _).trans ?_
  exact (try_bind_of_ok hdata _).trans rfl

theorem completes_accst (hpend : meetsAny c.pending acc 4096 = false)
    (hfree : ∀ x ∈ rows, s.waitFree c { virt := false, lo := localKey c.key.tile x.1.toNat, len := x.2.1 } true = .ok ()) :
    let spans := rows.map fun x => (localKey c.key.tile x.1.toNat, x.2.1)
    (stageRows s c g (spans.map fun x => (x, List.replicate x.2 0))).isSome = true →
    let reads := (acc, 4096) :: sourceRanges c [w.b, w.c]
    let kept := (c.winRanges.filter fun x => rangesMeet x.1 x.2 acc 4096).flatMap fun x => (List.range x.2).map fun i => (x.1 + i, c.rf.get (x.1 + i))
    let r := queueCmd { s with seq := s.seq + 1 } c { newCmd c s.seq .accst g with
      acc := acc, m := w.sub.toNat % 16 + 1, reads := reads, strict := reads, kept := kept, memWrites := spans }
    Completes (.accst w) s c w.h r.1 r.2 := by
  extract_lets spans reads kept _ r
  intro hstage
  rw [Completes, exec_accst, execAccst, runMx_of_pre hI.1 (checkRun_of_fits hacc (by omega))]
  refine ins_ok hI hfall (by simp) ?_
  rw [try_bind_of_ok (queueGate_of_room hroom), hacc, Option.getD_some]
  refine (try_bind_of_ok ha _).trans ((try_bind_of_ok hst _).trans ?_)
  refine (try_bind_of_ok (checkAcc_of_free (blocks := 1) (fun _ => hpend) fun h => absurd h Bool.false_ne_true) _).trans ?_
  refine (try_bind_of_ok (accRows_of_ok hrows hcheck) _).trans ?_
  refine (try_bind_of_ok (forM_ok hfree) _).trans ?_
  have hroomy : (stageRows s c g (spans.map fun x => (x, List.replicate x.2 0))).isNone = false := by
    rw [← Option.not_isSome, hstage]
    rfl
  extract_lets -underBinder fromStage
  exact (if_neg (Bool.eq_false_iff.1 hroomy)).trans rfl

end
end
end

end Sys2Proof.Claims

open Sys2Proof.Machine Sys2Proof.Claims in
/-- Settles O32: each command by its own lemma. -/
theorem banksPlateAndAccumulators : Obligations.BanksPlateAndAccumulators := by
  unfold Obligations.BanksPlateAndAccumulators
  refine ⟨fun w s c hroom => ⟨fun a => completes_mbld hroom, fun hF => ⟨completes_mbldFree hroom hF, completes_mbswap hroom hF⟩,
      fun pl src n bs t => completes_mplw hroom⟩, fun w s c g acc hroom hacc => ⟨completes_accz hroom hacc, ?_⟩⟩
  intro a st rows hI hfall ha hst hrun hrows hcheck
  exact ⟨fun data => completes_accld hroom hacc hI hfall ha hst hrun hrows hcheck,
    completes_accst hroom hacc hI hfall ha hst hrun hrows hcheck⟩

end

section
/-! PROOFS. The base-die instructions (O36). -/

namespace Sys2Proof.Claims

open Sys2Proof.Machine

/-- Parts done for the elements of a list stop at the one fault that any of them meets. -/
theorem forM_error {α : Type} {f : α → Try Unit} {e : Stop} : ∀ {l : List α}, (∀ x ∈ l, f x = .ok () ∨ f x = .error e) → (∃ x ∈ l, f x = .error e) →
    l.forM f = .error e
  | [], _, h => by simp at h
  | x :: l, hall, hbad => by
    rw [List.forM]
    rcases hall x List.mem_cons_self with hx | hx
    · rw [try_bind_of_ok hx]
      refine forM_error (fun y hy => hall y (List.mem_cons_of_mem x hy)) ?_
      obtain ⟨y, hy, hey⟩ := hbad
      rcases List.mem_cons.1 hy with rfl | hy
      · rw [hx] at hey
        cases hey
      · exact ⟨y, hy, hey⟩
    · rw [try_bind_of_error hx]

/-! ### Issue -/

section
variable {w : FormX} {s : State} {c : Ctx} {a : Word} {k : Nat} (op : Nat) (hF : Fires s c w.h [w.a]) (ha : readVal c w.a = .ok a)
  (hk : localRange s c a (128 * (w.sub.toNat % 8 + 1)) 128 = .ok k)

/-- The packets that a base-die instruction reads. -/
def packetsAt (s : State) (c : Ctx) (w : FormX) (k : Nat) : List BdPacket :=
  (List.range (w.sub.toNat % 8 + 1)).map fun i => BdPacket.ofNum (numOf (s.readLoc c false (k + 128 * i) 128))

include hF ha hk

theorem runNm_of_malformed (hbad : ∃ p ∈ packetsAt s c w k, p.malformed op = true) : runNm w op s = .next (s.dueFault c { code := fcTEMPLATE }) := by
  have hchecks : (packetsAt s c w k).forM (fun p => require (!p.malformed op) fcTEMPLATE) = .error (.trap { code := fcTEMPLATE }) := by
    refine forM_error (fun p _ => ?_) ?_
    · cases p.malformed op
      · exact .inl rfl
      · exact .inr rfl
    · obtain ⟨p, hp, hmal⟩ := hbad
      exact ⟨p, hp, by rw [hmal]; rfl⟩
  rw [runNm]
  refine uni_trap hF (by simp) ?_
  rw [try_bind_of_ok ha]
  refine (try_bind_of_ok hk _).trans ?_
  exact try_bind_of_error hchecks _

section
variable {plans : List BdPlan} (hwell : ∀ p ∈ packetsAt s c w k, p.malformed op = false)
  (hbc : ∀ p ∈ packetsAt s c w k, p.bc ≠ 0 → ∃ r, tileGlobal s c p.bc 16 16 = .ok r)
  (hdest : op < 2 → ∀ p ∈ packetsAt s c w k, ∃ r, tileGlobal s c p.dest (if op = 0 then p.len else p.count * p.len) 64 = .ok r)
  (hplans : (packetsAt s c w k).zipIdx.mapM (fun y => planRows s c y.1 y.2) = .ok plans)
include hwell hbc hdest hplans

omit hF in
/-- What the issue of packets that are in order comes to. -/
theorem runNm_of_checked : ∃ body, runNm w op s = runUniform s w.h false none [w.a] body ∧
    body s c = (if 32 < (s.basediesOf c).length + (w.sub.toNat % 8 + 1) then stall s
      else .ok { s := plans.foldl (fun s q => startBd s c q) s, c := c.clearLatch }) := by
  have hrecords : (packetsAt s c w k).forM (fun p => do if p.bc != 0 then let _ ← tileGlobal s c p.bc 16 16) = .ok () := by
    refine forM_ok fun p hp => ?_
    split
    · next h =>
      obtain ⟨r, hr⟩ := hbc p hp (by simpa using h)
      exact try_bind_of_ok hr _
    · rfl
  have hdests : (packetsAt s c w k).forM (fun p => do
      if op < 2 then let _ ← tileGlobal s c p.dest (if op = 0 then p.len else p.count * p.len) 64) = .ok () := by
    refine forM_ok fun p hp => ?_
    split
    · next h =>
      obtain ⟨r, hr⟩ := hdest h p hp
      exact try_bind_of_ok hr _
    · rfl
  have hwells : (packetsAt s c w k).forM (fun p => require (!p.malformed op) fcTEMPLATE) = .ok () :=
    forM_ok fun p hp => by rw [hwell p hp]; rfl
  refine ⟨_, rfl, ?_⟩
  rw [try_bind_of_ok ha]
  refine (try_bind_of_ok hk _).trans ?_
  refine (try_bind_of_ok hwells _).trans ?_
  refine (try_bind_of_ok hrecords _).trans ?_
  refine (try_bind_of_ok hdests _).trans ?_
  refine (try_bind_of_ok hplans _).trans ?_
  dsimp only
  split <;> rfl

theorem runNm_completes (hroom : (s.basediesOf c).length + (w.sub.toNat % 8 + 1) ≤ 32) :
    runNm w op s = .next (({ s := plans.foldl (fun t q => startBd t c q) s, c := c.clearLatch } : Done).finish c w.h) := by
  obtain ⟨body, hrun, hbody⟩ := runNm_of_checked op ha hk hwell hbc hdest hplans
  rw [hrun]
  exact uni_ok hF (by simp) (hbody.trans (if_neg (by omega)))

theorem runNm_waits (hfull : 32 < (s.basediesOf c).length + (w.sub.toNat % 8 + 1)) : runNm w op s = .next s := by
  obtain ⟨body, hrun, hbody⟩ := runNm_of_checked op ha hk hwell hbc hdest hplans
  rw [hrun]
  exact uni_stall hF (by simp) (hbody.trans (if_pos hfull))

end
end

/-! ### Starting a command -/

section
variable (s : State)

theorem touch_keeps {β : Type} (p : State → β) (hsend : ∀ s x, p (s.send x) = p s) (hxlat : ∀ s n x, p { s with seq := n, xlat := x } = p s)
    (tile slack : Nat) (e : Leaf) : p (s.touch tile slack e) = p s := by
  unfold State.touch
  split
  · exact (hsend _ _).trans (hxlat _ _ _)
  · rfl

theorem sendBd_keeps {β : Type} (p : State → β) (hsend : ∀ s x, p (s.send x) = p s) (k : CtxKey) (m : BdCmd) : p (s.sendBd k m) = p s :=
  foldl_keeps p _ (fun _ _ => hsend _ _) s

/-- Starting a command changes packets, touches and the engine's commands alone. -/
theorem startBd_frame (c : Ctx) (q : BdPlan) : (startBd s c q).mem = s.mem ∧ (startBd s c q).staged = s.staged ∧ (startBd s c q).ctxs = s.ctxs ∧
    ∃ m, (startBd s c q).bd.cmds = s.bd.cmds ++ [m] ∧ m.task = c.task ∧ m.rank = c.rank ∧ m.left = m.subs ∧ m.bad = 0 := by
  unfold startBd
  rw [show s.fresh = (s.seq, { s with seq := s.seq + 1 }) from rfl]
  dsimp -zeta only
  extract_lets p subs reads m v w
  have hv : ∀ {β : Type} (f : State → β), (∀ s x, f (s.send x) = f s) → (∀ s n x, f { s with seq := n, xlat := x } = f s) → f w = f s := by
    intro β f hsend hxlat
    refine (sendBd_keeps v f hsend c.key m).trans ((foldl_keeps f _ (fun s r => ?_) _).trans (hxlat s (s.seq + 1) s.xlat))
    split
    · exact touch_keeps s f hsend hxlat _ _ _
    · rfl
  refine ⟨hv State.mem (fun _ _ => rfl) fun _ _ _ => rfl, hv State.staged (fun _ _ => rfl) fun _ _ _ => rfl,
    hv State.ctxs (fun _ _ => rfl) fun _ _ _ => rfl, m, ?_, rfl, rfl, rfl, rfl⟩
  exact congrArg (fun b : BaseDies => b.cmds ++ [m]) (hv State.bd (fun _ _ => rfl) fun _ _ _ => rfl)

end

end Sys2Proof.Claims

open Sys2Proof.Machine Sys2Proof.Claims in
/-- Settles O36: the four instructions are one function of their operation. -/
theorem nearMemoryInstructions : Obligations.NearMemoryInstructions := by
  unfold Obligations.NearMemoryInstructions
  refine ⟨fun w s c a k plans => ?_, fun s c q => startBd_frame s c q, fun w s c b hb => ⟨fun hgate => ?_, ?_⟩⟩
  · extract_lets n ps
    intro hF ha hk x hx
    have hexec : exec x.1 s = runNm w x.2 s := by
      simp only [List.mem_cons, List.not_mem_nil, or_false] at hx
      rcases hx with rfl | rfl | rfl | rfl <;> rfl
    refine ⟨fun hbad => hexec.trans (runNm_of_malformed x.2 hF ha hk hbad), fun hwell hbc hdest hplans => ⟨fun hroom => ?_, fun hfull => ?_⟩⟩
    · exact hexec.trans (runNm_completes x.2 hF ha hk hwell hbc hdest hplans hroom)
    · exact hexec.trans (runNm_waits x.2 hF ha hk hwell hbc hdest hplans hfull)
  · refine gives (exec_nmstat w s) ?_
    rw [try_bind_of_ok hb, try_bind_of_ok hgate]
    rfl
  · exact gives (exec_nmstatCap w s) (try_bind_of_ok hb _)

end

section
/-! PROOFS. The stretches of an exchange access (R242, R331): what Reach says is what the checks at issue answer, and the stretches lie one behind the
other in the addresses. -/

namespace Sys2Proof.Claims

open Sys2Proof Sys2Proof.Machine

/-! ### Translation -/

section
variable {s : State} {c : Ctx} {write : Bool} {slack : Nat}

theorem translate_of_opens {a : Word} {e : Leaf} (hva : virtualOk a = true) (hon : s.xlatOn = true) (h : Opens s c a write slack e) (element : Nat) :
    s.translate c a write slack element = .ok e := by
  obtain ⟨hlook, htier, huser, hpoison, hwrite, -⟩ := h
  have hfind : s.findLeaf c a slack element = .ok e := by
    rw [State.findLeaf, hva, hon, hlook]
    rfl
  have hprotect : ((!c.supervisor && !e.user) || (write && !e.writable)) = false := by
    cases write
    · rcases huser with h | h <;> simp [h]
    · rcases huser with h | h <;> simp [h, (hwrite rfl).1]
  have hblock : (write && e.wblock) = false := by
    cases write
    · rfl
    · simp [(hwrite rfl).2]
  have hcheck : s.checkLeaf c (!c.supervisor) e a write element = .ok () := by
    rw [State.checkLeaf, if_neg htier, hprotect, hpoison, hblock]
    rfl
  rw [State.translate, try_bind_of_ok hfind, try_bind_of_ok hcheck]
  rfl

end

/-! ### Places in the address space -/

/-- Stretches lie one behind the other from an address on, and cover n bytes. -/
def Along : Nat → Nat → List Piece → Prop
  | _, n, [] => n = 0
  | x, n, p :: r => p.addr.toNat = x ∧ 0 < p.len ∧ p.len ≤ n ∧ Along (x + p.len) (n - p.len) r

theorem isVirtual_iff {a : Word} : isVirtual a = true ↔ 2 ^ 63 ≤ a.toNat := by
  have := a.isLt
  rw [isVirtual, ← BitVec.testBit_toNat, Nat.testBit_eq_decide_div_mod_eq, decide_eq_true_eq]
  omega

theorem virtualOk_iff {a : Word} : virtualOk a = true ↔ a.toNat / 2 ^ 57 % 2 ^ 6 = 0 := by
  rw [virtualOk, bitsOf_eq, beq_iff_eq]

theorem virtual_parts {a : Word} (hv : isVirtual a = true) (hok : virtualOk a = true) : a.toNat = 2 ^ 63 + vaOf a := by
  have := a.isLt
  rw [isVirtual_iff] at hv
  rw [virtualOk_iff] at hok
  rw [vaOf]
  omega

theorem virtual_add {a : Word} {k : Nat} (hv : isVirtual a = true) (hok : virtualOk a = true) (hk : vaOf a + k < 2 ^ 57) :
    isVirtual (a + BitVec.ofNat 64 k) = true ∧ virtualOk (a + BitVec.ofNat 64 k) = true ∧ vaOf (a + BitVec.ofNat 64 k) = vaOf a + k ∧
    (a + BitVec.ofNat 64 k).toNat = a.toNat + k := by
  have hparts := virtual_parts hv hok
  have hsum : (a + BitVec.ofNat 64 k).toNat = a.toNat + k := by
    rw [BitVec.toNat_add, BitVec.toNat_ofNat]
    omega
  rw [isVirtual_iff, virtualOk_iff, vaOf, hsum, hparts]
  omega

section
variable {s : State} {c : Ctx} {write : Bool} {slack : Nat} (hon : s.xlatOn = true)
include hon

theorem pagePieces_of_inPages (element : Nat) {ps : List Piece} : ∀ {f : Nat} {a : Word} {n : Nat}, ps.length ≤ f → isVirtual a = true →
    virtualOk a = true → vaOf a + n ≤ 2 ^ 57 → InPages s c write slack a n ps → s.pagePieces c write slack element f a n = .ok ps := by
  induction ps with
  | nil =>
    intro f a n _ _ _ _ (h : n = 0)
    subst h
    cases f <;> rfl
  | cons p r ih =>
    intro f a n hf hv hok hend h
    obtain ⟨hlen, ⟨e, hopen, hp⟩, hrest⟩ := h
    obtain ⟨f, rfl⟩ : ∃ g, f = g + 1 := ⟨f - 1, by simp at hf; omega⟩
    have hplen : p.len = min n (e.va + e.size - vaOf a) := congrArg Piece.len hp
    have htail : s.pagePieces c write slack element f (a + BitVec.ofNat 64 p.len) (n - p.len) = .ok r := by
      by_cases hn : n - p.len = 0
      · rw [hn] at hrest ⊢
        cases r with
        | nil => cases f <;> rfl
        | cons q r => exact absurd hrest.1 (by obtain ⟨-, ⟨e', -, hq⟩, -⟩ := hrest; rw [hq]; simp)
      · obtain ⟨hv', hok', hva', -⟩ := virtual_add (k := p.len) hv hok (by omega)
        exact ih (by simpa using hf) hv' hok' (by omega) hrest
    have hpeer : s.peerOk c e write = true := hopen.2.2.2.2.2
    rw [State.pagePieces, if_neg (by omega), try_bind_of_ok (translate_of_opens hok hon hopen element), hpeer, requireAt_true, try_bind_ok, ← hplen,
      try_bind_of_ok htail, hp]
    rfl

end

section
variable {s : State} {c : Ctx} {a : Word} {n align : Nat} {write : Bool} {slack : Nat} {ps : List Piece}

theorem accessPieces_of_reach (h : Reach s c a n align write slack ps) (element : Nat) : s.accessPieces c a n align write slack element = .ok ps := by
  obtain ⟨halign, ⟨hv, sp, sp', hspace, hpriv, hext, hloc, hallow, hps⟩ | ⟨hv, hok, hend, hon, hlen, hin⟩⟩ := h
  · rw [State.accessPieces, hv, if_neg Bool.false_ne_true, hspace]
    cases sp with
    | priv o => exact absurd rfl (hpriv o)
    | tile u o | plate u o | group u o | die u o | phys o =>
      dsimp only
      rw [if_neg (by omega), if_neg (by omega), hloc]
      dsimp only
      rw [hallow, hps]
      rfl
  · rw [State.accessPieces, if_pos hv, hok, if_neg (by simp), if_neg (by omega), if_neg (by omega)]
    exact pagePieces_of_inPages hon element (by omega) hv hok hend hin

theorem along_of_inPages : ∀ {ps : List Piece} {a : Word} {n : Nat}, isVirtual a = true → virtualOk a = true → vaOf a + n ≤ 2 ^ 57 →
    InPages s c write slack a n ps → Along a.toNat n ps
  | [], _, _, _, _, _, h => h
  | p :: r, a, n, hv, hok, hend, ⟨hpos, ⟨e, hopen, hp⟩, hrest⟩ => by
    have haddr : p.addr = a := congrArg Piece.addr hp
    have hplen : p.len = min n (e.va + e.size - vaOf a) := congrArg Piece.len hp
    have hle : p.len ≤ n := by omega
    refine ⟨by rw [haddr], hpos, hle, ?_⟩
    by_cases hn : n - p.len = 0
    · rw [hn] at hrest ⊢
      cases r with
      | nil => rfl
      | cons q r =>
        obtain ⟨hq, ⟨e', -, hq'⟩, -⟩ := hrest
        exact absurd hq (by rw [hq']; simp)
    · obtain ⟨hv', hok', hva', hadd⟩ := virtual_add (k := p.len) hv hok (by omega)
      rw [← hadd]
      exact along_of_inPages hv' hok' (by omega) hrest

/-- The stretches of an access cover it, and no address of it wraps. -/
theorem along_of_reach (h : Reach s c a n align write slack ps) (hn : 0 < n) : Along a.toNat n ps ∧ a.toNat + n < 2 ^ 64 := by
  obtain ⟨-, ⟨hv, sp, sp', hspace, hpriv, hext, hloc, hallow, hps⟩ | ⟨hv, hok, hend, hon, hlen, hin⟩⟩ := h
  · subst hps
    refine ⟨⟨rfl, hn, Nat.le_refl _, Nat.sub_self _⟩, ?_⟩
    have hlow : ¬2 ^ 63 ≤ a.toNat := fun h => by simp [isVirtual_iff.2 h] at hv
    have hsize : n ≤ 2 ^ 56 := by
      cases sp <;> simp only [Space.extent, Space.offset] at hext <;> omega
    omega
  · have := virtual_parts hv hok
    exact ⟨along_of_inPages hv hok hend hin, by omega⟩

end

/-! ### The location of each address -/

/-- A byte of the address space at y lies at the location k. -/
def KeyAt (ps : List Piece) (y k : Nat) : Prop := ∃ p ∈ ps, p.addr.toNat ≤ y ∧ y < p.addr.toNat + p.len ∧ k = p.key + (y - p.addr.toNat)

theorem length_keysOf {x n : Nat} {ps : List Piece} (h : Along x n ps) : (keysOf ps).length = n := by
  induction ps generalizing x n with
  | nil => exact h.symm
  | cons p r ih =>
    obtain ⟨-, -, hle, hrest⟩ := h
    have := ih hrest
    simp only [keysOf, List.flatMap_cons, List.length_append, List.length_map, List.length_range] at this ⊢
    omega

theorem along_bounds {x n : Nat} {ps : List Piece} (h : Along x n ps) : ∀ p ∈ ps, x ≤ p.addr.toNat ∧ p.addr.toNat + p.len ≤ x + n := by
  induction ps generalizing x n with
  | nil => simp
  | cons p r ih =>
    obtain ⟨haddr, hpos, hle, hrest⟩ := h
    intro q hq
    rcases List.mem_cons.1 hq with rfl | hq
    · omega
    · have := ih hrest q hq
      omega

/-- The locations of an access in order are those of its addresses. -/
theorem getElem?_keysOf {x n : Nat} {ps : List Piece} (h : Along x n ps) (m k : Nat) : (keysOf ps)[m]? = some k ↔ KeyAt ps (x + m) k := by
  induction ps generalizing x n m with
  | nil => simp [keysOf, KeyAt]
  | cons p r ih =>
    obtain ⟨haddr, hpos, hle, hrest⟩ := h
    have hsplit : keysOf (p :: r) = (List.range p.len).map (fun i => p.key + i) ++ keysOf r := rfl
    have hlen : ((List.range p.len).map fun i => p.key + i).length = p.len := by simp
    rw [hsplit]
    by_cases hm : m < p.len
    · rw [List.getElem?_append_left (by omega)]
      have hget : ((List.range p.len).map fun i => p.key + i)[m]? = some (p.key + m) := by simp [hm]
      rw [hget, Option.some.injEq]
      constructor
      · rintro rfl
        exact ⟨p, List.mem_cons_self, by omega, by omega, by omega⟩
      · rintro ⟨q, hq, h1, h2, rfl⟩
        rcases List.mem_cons.1 hq with rfl | hq
        · omega
        · have := along_bounds hrest q hq
          omega
    · rw [List.getElem?_append_right (by omega), hlen, ih hrest]
      rw [show x + p.len + (m - p.len) = x + m by omega]
      constructor
      · rintro ⟨q, hq, hrest⟩
        exact ⟨q, List.mem_cons_of_mem _ hq, hrest⟩
      · rintro ⟨q, hq, h1, h2, hk⟩
        rcases List.mem_cons.1 hq with rfl | hq
        · omega
        · exact ⟨q, hq, h1, h2, hk⟩

/-- A part of an access is cut into the stretches that it meets. -/
theorem mem_cutAt {ps : List Piece} {a : Word} {n : Nat} {x : Piece × Nat} : x ∈ cutAt ps a n ↔ ∃ p ∈ ps,
    let lo := max p.addr.toNat a.toNat
    let hi := min (p.addr.toNat + p.len) (a.toNat + n)
    lo < hi ∧ x = ({ p with addr := BitVec.ofNat 64 lo, key := p.key + (lo - p.addr.toNat), len := hi - lo }, lo - a.toNat) := by
  rw [cutAt, List.mem_filterMap]
  refine exists_congr fun p => and_congr_right fun _ => ?_
  dsimp only
  split
  · next h => simp [h, eq_comm]
  · next h => simp [h]

end Sys2Proof.Claims
end

section
/-! PROOFS. Exchange loads (O18). -/

namespace Sys2Proof.Claims

open Sys2Proof Sys2Proof.Machine

/-! ### What requests leave alone -/

/-- A part of the state that packets, requests of the fabric, and the caches and touches of translation are not. -/
structure Quiet {β : Type} (f : State → β) : Prop where
  send : ∀ s x, f (s.send x) = f s
  fab : ∀ s n x, f { s with seq := n, fab := x } = f s
  xlat : ∀ s n x, f { s with seq := n, xlat := x } = f s

theorem quiet_mem : Quiet State.mem := ⟨fun _ _ => rfl, fun _ _ _ => rfl, fun _ _ _ => rfl⟩
theorem quiet_staged : Quiet State.staged := ⟨fun _ _ => rfl, fun _ _ _ => rfl, fun _ _ _ => rfl⟩
theorem quiet_ctxs : Quiet State.ctxs := ⟨fun _ _ => rfl, fun _ _ _ => rfl, fun _ _ _ => rfl⟩
theorem quiet_tiles : Quiet State.tiles := ⟨fun _ _ => rfl, fun _ _ _ => rfl, fun _ _ _ => rfl⟩

section
variable {β : Type} {f : State → β} (hf : Quiet f) (s : State)
include hf

theorem Quiet.fresh : f s.fresh.2 = f s := hf.xlat s (s.seq + 1) s.xlat

theorem Quiet.sendRequest (c : Ctx) (id : Nat) (channel : Option Nat) (peer phys : Nat) (addr : Word) (len : Nat) (kind : PeerKind) (data : List Byte)
    (slack : Nat) (overdue : Bool) (fill : Option Nat) :
    f (s.sendRequest c id channel peer phys addr len kind data slack overdue fill) = f s := by
  unfold State.sendRequest
  extract_lets prior wr
  rw [show s.fresh = (s.seq, { s with seq := s.seq + 1 }) from rfl]
  dsimp -zeta only
  extract_lets r u q v
  have hu : f u = f s := ((hf.send _ _).trans (hf.fab { s with seq := s.seq + 1 } _ _)).trans (hf.xlat s (s.seq + 1) s.xlat)
  have hv : f v = f u := by
    unfold v
    split
    · exact hf.fab u u.seq _
    · rfl
  exact (hf.fab v v.seq _).trans (hv.trans hu)

theorem Quiet.askPiece (c : Ctx) (id : Nat) (channel : Option Nat) (slack : Nat) (overdue : Bool) (p : Piece) :
    f (s.askPiece c id channel slack overdue p) = f s := by
  unfold State.askPiece
  split
  · split <;> exact hf.sendRequest _ _ _ _ _ _ _ _ _ _ _ _ _
  · rfl

theorem Quiet.sendAccess (c : Ctx) (id : Nat) (ps : List Piece) (write : Bool) (slack : Nat) : f (s.sendAccess c id ps write slack) = f s :=
  foldl_keeps f _ (fun _ _ => hf.send _ _) s

theorem Quiet.askFor (c : Ctx) (id : Nat) (ps : List Piece) (slack : Nat) : f (s.askFor c id ps slack) = f s :=
  foldl_keeps f _ (fun s p => hf.askPiece s c id none slack false p) s

theorem Quiet.touch (tile slack : Nat) (e : Leaf) : f (s.touch tile slack e) = f s := touch_keeps s f hf.send hf.xlat tile slack e

theorem Quiet.usePages_read (tile slack : Nat) (reads : List Leaf) : f (s.usePages tile slack reads []) = f s := by
  unfold State.usePages
  extract_lets es u v
  have hu : f u = f s := foldl_keeps f es (fun s e => hf.xlat s s.seq _) s
  exact (foldl_keeps f es (fun s e => hf.touch s tile slack e) v).trans hu

end

/-! ### Issuing a load -/

/-- The bytes of an access that are known at issue, by location. -/
def knownBytes (s : State) (c : Ctx) (ps : List Piece) : List (Nat × Byte) :=
  ps.flatMap fun p => match s.pieceData c p with
    | some bs => (keysOf [p]).zip bs
    | none => []

/-- The locations of an access that a peer has still to send. -/
def farKeys (s : State) (c : Ctx) (ps : List Piece) : List Nat := keysOf (ps.filter fun p => (s.pieceData c p).isNone)

section
variable (s : State) (c : Ctx) (ps : List Piece) (slack : Nat) (a : Word) (fill : Token → List (Nat × Byte) → List Nat → Token)

theorem fresh_pieceData (p : Piece) : (s.fresh.2).pieceData c p = s.pieceData c p := by
  unfold State.pieceData
  split
  · rfl
  · rw [State.fresh_readLoc]

theorem issueLoad_ctx : ∃ t : Token, (issueLoad s c ps slack a fill).2 = c.await (fill t (knownBytes s c ps) (farKeys s c ps)) ∧ t.cells = [] ∧
    t.keys = [] ∧ t.bad = 0 ∧ t.held = none ∧ t.dead = [] := by
  unfold issueLoad
  rw [show s.fresh = (s.seq, s.fresh.2) from rfl]
  dsimp -zeta only
  extract_lets parts known far _ t0 t1
  have hknown : known = knownBytes s c ps := by
    unfold known parts knownBytes
    rw [List.flatMap_map]
    refine List.flatMap_congr fun p _ => ?_
    rw [fresh_pieceData] <;> rfl
  have hfar : keysOf far = farKeys s c ps := by
    unfold far parts farKeys
    rw [List.filter_map, List.map_map]
    simp only [Function.comp_def, fresh_pieceData, List.map_id']
  rw [← hknown, ← hfar]
  exact ⟨t1, rfl, rfl, rfl, rfl, rfl, rfl⟩

theorem Quiet.issueLoad {β : Type} {f : State → β} (hf : Quiet f) : f (issueLoad s c ps slack a fill).1 = f s := by
  unfold Machine.issueLoad
  rw [show s.fresh = (s.seq, s.fresh.2) from rfl]
  dsimp -zeta only
  extract_lets parts known far t0 t1 t2 u
  exact (hf.usePages_read _ _ _ _).trans ((hf.askFor _ _ _ _ _).trans ((hf.sendAccess _ _ _ _ _ _).trans (hf.fresh s)))

end

/-! ### XLDD -/

theorem writeRf_none {s : State} {c : Ctx} {d n : Nat} (hfree : Free s c d n) :
    ∃ c1, writeRf s c d n [] = .ok c1 ∧ (∀ p, s.pieceData c1 p = s.pieceData c p) ∧ (c.repliesFull = false → c1.repliesFull = false) ∧
      c1.slktab = c.slktab := by
  refine ⟨_, writeRf_ok hfree.1 hfree.2, fun p => rfl, fun h => ?_, rfl⟩
  rw [← h]
  unfold Ctx.repliesFull Ctx.live
  simp only [Ctx.putCells, List.filter_map, List.length_map]
  rfl

theorem length_readLoc (s : State) (c : Ctx) (l : Bool) (k n : Nat) : (s.readLoc c l k n).length = n := by
  have hview : (s.readAs c l k n).length = n := by simp [State.readAs, Snapshot.view]
  unfold State.readLoc State.freshRecords
  split
  · simpa using hview
  · exact hview

theorem pieceData_of_here {s : State} {c : Ctx} {p : Piece} (hp : p.peer = none) : s.pieceData c p = some (s.readLoc c (loopsBack c p) p.key p.len) := by
  rw [State.pieceData, hp]

/-- A load that is not kept back for replies goes out. -/
theorem replyGate_of_room {s : State} {c : Ctx} (h : c.repliesFull = false) : replyGate s c = .ok () := by
  rw [replyGate, h]
  rfl

/-- How the result of a scalar load is filled in: extended into the register at once, or when its bytes have come. -/
def scalarFill (d n : Nat) (zext : Bool) (t : Token) (known : List (Nat × Byte)) (far : List Nat) : Token :=
  if far.isEmpty then { t with cells := ({ t with locs := (List.range 8).map (d + ·), ext := some (n, zext) } : Token).place (known.map fun x => x.2) }
  else { t with keys := far, locs := (List.range 8).map (d + ·), ext := some (n, zext) }

theorem completes_xldd {w : FormM} {s : State} {c : Ctx} {b : Word} {p : Piece} {d : Nat} (hF : Fires s c w.h [w.base]) (hb : readVal c w.base = .ok b) :
    let n := 8 / 2 ^ (w.mod.toNat % 4)
    let a := b + w.off.signExtend 64
    Reach s c a n n false (c.slackOf w.slack.toNat) [p] → s.heldBack c (spanAt c.key.tile (s.fromHome c a) n) false = false →
    c.loc w.data = some d → Free s c d 8 → c.repliesFull = false →
    ∃ t tok c1, writeRf s c d 8 [] = .ok c1 ∧ Completes (.xldd w) s c w.h t ({ c1 with outstanding := c1.outstanding ++ [tok] }.setLatch d 8) ∧
      t.mem = s.mem ∧ t.staged = s.staged ∧ t.ctxs = s.ctxs ∧ tok.bad = 0 ∧ tok.held = none ∧ tok.dead = [] ∧
      (p.peer = none →
        let x := numOf (s.readLoc c (loopsBack c p) p.key n)
        let v := if w.mod.getLsbD 2 then BitVec.ofNat 64 x else (BitVec.ofNat (8 * n) x).signExtend 64
        tok.cells = ((List.range 8).map (d + ·)).zip (bytesOf 8 v.toNat) ∧ tok.keys = []) ∧
      (s.pieceData c p = none → tok.cells = [] ∧ tok.keys = (List.range n).map (p.key + ·) ∧ tok.locs = (List.range 8).map (d + ·) ∧
        tok.ext = some (n, w.mod.getLsbD 2)) := by
  extract_lets n a x v
  intro hreach hheld hd hfree hroom
  obtain ⟨c1, hwrite, hsame, hfull, -⟩ := writeRf_none hfree
  let fill := scalarFill d n (w.mod.getLsbD 2)
  obtain ⟨tok, hctx, hcells, hkeys, hbad, hhold, hdead⟩ := issueLoad_ctx s c1 [p] (c.slackOf w.slack.toNat) a fill
  have hrun : Completes (.xldd w) s c w.h (issueLoad s c1 [p] (c.slackOf w.slack.toNat) a fill).1
      ((issueLoad s c1 [p] (c.slackOf w.slack.toNat) a fill).2.setLatch d 8) := by
    rw [Completes, exec_xldd, execXldd]
    refine uni_ok hF (by simp) ?_
    rw [try_bind_of_ok hb]
    refine (try_bind_of_ok (accessPieces_of_reach hreach 0) _).trans ?_
    refine (try_bind_of_ok (waitFree_of_notHeld hheld) _).trans ?_
    rw [hd]
    refine (try_bind_of_ok hwrite _).trans ?_
    refine (try_bind_of_ok (replyGate_of_room (hfull hroom)) _).trans ?_
    rfl
  rw [hctx] at hrun
  have hfill : ∀ known far, (fill tok known far).bad = 0 ∧ (fill tok known far).held = none ∧ (fill tok known far).dead = [] := by
    intro known far
    unfold fill scalarFill
    split <;> exact ⟨hbad, hhold, hdead⟩
  obtain ⟨hbad', hhold', hdead'⟩ := hfill (knownBytes s c1 [p]) (farKeys s c1 [p])
  have hn : 0 < n := Nat.div_pos (Nat.pow_le_pow_right (by omega) (by omega : w.mod.toNat % 4 ≤ 3)) (by positivity)
  obtain ⟨-, -, hle, hrest⟩ := (along_of_reach hreach hn).1
  have hlen : p.len = n := Nat.le_antisymm hle (Nat.le_of_sub_eq_zero hrest)
  refine ⟨_, _, c1, hwrite, hrun, quiet_mem.issueLoad s .., quiet_staged.issueLoad s .., quiet_ctxs.issueLoad s .., hbad', hhold', hdead', fun hhere => ?_,
    fun hfar => ?_⟩
  · have hdata : s.pieceData c1 p = some (s.readLoc c (loopsBack c p) p.key p.len) := (hsame p).trans (pieceData_of_here hhere)
    have hnone : farKeys s c1 [p] = [] := by simp [farKeys, hdata, keysOf]
    have hknown : (knownBytes s c1 [p]).map (fun x => x.2) = s.readLoc c (loopsBack c p) p.key p.len := by
      have hkeys : (keysOf [p]).length = p.len := by simp [keysOf]
      simp only [knownBytes, List.flatMap_cons, List.flatMap_nil, hdata, List.append_nil]
      exact List.map_snd_zip (by rw [length_readLoc, hkeys])
    rw [hnone]
    refine ⟨?_, hkeys⟩
    have heq : (fill tok (knownBytes s c1 [p]) []).cells = Token.place { tok with locs := (List.range 8).map (d + ·), ext := some (n, w.mod.getLsbD 2) }
        ((knownBytes s c1 [p]).map fun x => x.2) := rfl
    rw [heq, hknown, hlen, Token.place]
    dsimp only
    rw [List.take_of_length_le (by rw [length_readLoc]), sext64_eq_signExtend]
  · have hdata : s.pieceData c1 p = none := (hsame p).trans hfar
    have hkeys' : farKeys s c1 [p] = (List.range n).map (p.key + ·) := by simp [farKeys, hdata, keysOf, hlen]
    have hsome : (farKeys s c1 [p]).isEmpty = false := by
      rw [hkeys']
      simp [Nat.pos_iff_ne_zero.1 hn]
    have heq : fill tok (knownBytes s c1 [p]) (farKeys s c1 [p]) =
        { tok with keys := farKeys s c1 [p], locs := (List.range 8).map (d + ·), ext := some (n, w.mod.getLsbD 2) } := by
      unfold fill scalarFill
      rw [hsome]
      rfl
    rw [heq]
    exact ⟨hcells, hkeys', rfl, rfl⟩

/-! ### XLDV -/

/-- The register bytes of the enabled lanes of a vector load, by location. -/
def laneDest (ps : List Piece) (a g : Word) (d : Nat) : List (Nat × Nat) := (laneElems a g).flatMap fun e =>
  (cutAt ps e.addr 4).flatMap fun x => (List.range x.1.len).map fun i => (x.1.key + i, d + 4 * e.pos + x.2 + i)

/-- Where a location's byte goes. -/
def goalOf (dest : List (Nat × Nat)) (k : Nat) : Option Nat := (dest.find? fun x => x.1 == k).map fun x => x.2

/-- How the result of a vector load is filled in: the lanes' bytes at once as far as they are known. -/
def vectorFill (g : Word) (dest : List (Nat × Nat)) (t : Token) (known : List (Nat × Byte)) (far : List Nat) : Token :=
  let far := far.filter fun k => (goalOf dest k).isSome
  { t with mask := g, cells := known.filterMap (fun x => (goalOf dest x.1).map fun l => (l, x.2)), keys := far, locs := far.filterMap (goalOf dest) }

section
variable {ps : List Piece} {f : Word} {n : Nat} (halong : Along f.toNat n ps)
include halong

theorem mem_laneDest {a g : Word} {d l u : Nat} (hspan : LaneSpan g l u) (hf : f = a + BitVec.ofNat 64 (4 * l)) (hn : n = 4 * (u + 1 - l))
    (hend : f.toNat + n < 2 ^ 64) {k y : Nat} :
    (k, y) ∈ laneDest ps a g d ↔ ∃ i j, i < 64 ∧ j < 4 ∧ g.getLsbD i = true ∧ (keysOf ps)[4 * (i - l) + j]? = some k ∧ y = d + 4 * i + j := by
  have haddr : ∀ i, g.getLsbD i = true → (a + BitVec.ofNat 64 (4 * i)).toNat = f.toNat + 4 * (i - l) := by
    intro i hi
    obtain ⟨hl, hu⟩ := hspan.2.2 i hi
    have hsum : a + BitVec.ofNat 64 (4 * i) = f + BitVec.ofNat 64 (4 * (i - l)) := by
      rw [hf, BitVec.add_assoc, ← BitVec.ofNat_add]
      congr 2
      omega
    rw [hsum, toNat_laneAddr (by omega)]
  simp only [laneDest, laneElems, List.flatMap_map, List.mem_flatMap, mem_enabledLanes, mem_cutAt, List.mem_map, List.mem_range, Prod.mk.injEq]
  constructor
  · rintro ⟨i, ⟨hi, hg⟩, x, ⟨p, hp, hlt, rfl⟩, o, ho, rfl, rfl⟩
    rw [haddr i hg] at hlt ho ⊢
    dsimp only at ho ⊢
    refine ⟨i, max p.addr.toNat (f.toNat + 4 * (i - l)) - (f.toNat + 4 * (i - l)) + o, hi, by omega, hg, ?_, by omega⟩
    rw [getElem?_keysOf halong]
    exact ⟨p, hp, by omega, by omega, by omega⟩
  · rintro ⟨i, j, hi, hj, hg, hk, rfl⟩
    rw [getElem?_keysOf halong] at hk
    obtain ⟨p, hp, h1, h2, rfl⟩ := hk
    have hlo := haddr i hg
    refine ⟨i, ⟨hi, hg⟩, _, ⟨p, hp, by rw [hlo]; omega, rfl⟩, f.toNat + (4 * (i - l) + j) - max p.addr.toNat (f.toNat + 4 * (i - l)), ?_, ?_, ?_⟩ <;>
      dsimp only <;> rw [hlo] <;> omega

theorem goalOf_laneDest {a g : Word} {d l u : Nat} (hspan : LaneSpan g l u) (hf : f = a + BitVec.ofNat 64 (4 * l)) (hn : n = 4 * (u + 1 - l))
    (hend : f.toNat + n < 2 ^ 64) (hnodup : (keysOf ps).Nodup) {k y : Nat} :
    goalOf (laneDest ps a g d) k = some y ↔
      ∃ i j, i < 64 ∧ j < 4 ∧ g.getLsbD i = true ∧ (keysOf ps)[4 * (i - l) + j]? = some k ∧ y = d + 4 * i + j := by
  rw [← mem_laneDest halong hspan hf hn hend, goalOf, Option.map_eq_some_iff]
  constructor
  · rintro ⟨x, hx, rfl⟩
    have hkey : x.1 = k := by simpa using List.find?_some hx
    rw [← hkey]
    exact List.mem_of_find?_eq_some hx
  · intro hmem
    obtain ⟨x, hx⟩ : ∃ x, (laneDest ps a g d).find? (fun x => x.1 == k) = some x :=
      Option.isSome_iff_exists.1 (List.find?_isSome.2 ⟨_, hmem, by simp⟩)
    refine ⟨x, hx, ?_⟩
    have hkey : x.1 = k := by simpa using List.find?_some hx
    have hmem' : (k, x.2) ∈ laneDest ps a g d := by
      rw [← hkey]
      exact List.mem_of_find?_eq_some hx
    rw [mem_laneDest halong hspan hf hn hend] at hmem hmem'
    obtain ⟨i, j, hi, hj, hg, hk, rfl⟩ := hmem
    obtain ⟨i', j', hi', hj', hg', hk', hy⟩ := hmem'
    have hm := (List.getElem?_inj (List.getElem?_eq_some_iff.1 hk).1 hnodup).1 (hk.trans hk'.symm)
    have := (hspan.2.2 i hg).1
    have := (hspan.2.2 i' hg').1
    omega

end

theorem knownBytes_of_here {s : State} {c : Ctx} {ps : List Piece} (h : ∀ p ∈ ps, p.peer = none) :
    knownBytes s c ps = (keysOf ps).zip (ps.flatMap fun p => s.readLoc c (loopsBack c p) p.key p.len) := by
  induction ps with
  | nil => rfl
  | cons p r ih =>
    have hr := ih fun q hq => h q (List.mem_cons_of_mem _ hq)
    rw [knownBytes, List.flatMap_cons, ← knownBytes, hr, pieceData_of_here (h p List.mem_cons_self)]
    simp only [keysOf, List.flatMap_cons, List.flatMap_nil, List.append_nil]
    rw [List.zip_append (by simp [length_readLoc])]

theorem farKeys_of_here {s : State} {c : Ctx} {ps : List Piece} (h : ∀ p ∈ ps, p.peer = none) : farKeys s c ps = [] := by
  have : (ps.filter fun p => (s.pieceData c p).isNone) = [] := by
    rw [List.filter_eq_nil_iff]
    intro p hp
    rw [pieceData_of_here (h p hp)]
    simp
  rw [farKeys, this]
  rfl

/-- The cells of a vector load whose bytes are all known: those of the enabled lanes. -/
theorem mem_vectorFill_cells {ps : List Piece} {f a g : Word} {n d l u : Nat} {t : Token} {bs : List Byte} {far : List Nat} (halong : Along f.toNat n ps)
    (hspan : LaneSpan g l u) (hf : f = a + BitVec.ofNat 64 (4 * l)) (hn : n = 4 * (u + 1 - l)) (hend : f.toNat + n < 2 ^ 64) (hnodup : (keysOf ps).Nodup)
    (hbs : bs.length = n) (x : Nat × Byte) :
    x ∈ (vectorFill g (laneDest ps a g d) t ((keysOf ps).zip bs) far).cells ↔
      ∃ i j, i < 64 ∧ j < 4 ∧ g.getLsbD i = true ∧ x = (d + 4 * i + j, bs.getD (4 * (i - l) + j) 0) := by
  have hgoal := fun k y => goalOf_laneDest (k := k) (y := y) (d := d) halong hspan hf hn hend hnodup
  have hlen := length_keysOf halong
  simp only [vectorFill, List.mem_filterMap, Option.map_eq_some_iff]
  constructor
  · rintro ⟨⟨k, b⟩, hmem, y, hy, rfl⟩
    obtain ⟨m, hm⟩ := List.mem_iff_getElem?.1 hmem
    obtain ⟨i, j, hi, hj, hg, hk, rfl⟩ := (hgoal k y).1 hy
    rw [List.getElem?_zip_eq_some] at hm
    have hsame := (List.getElem?_inj (List.getElem?_eq_some_iff.1 hk).1 hnodup).1 (hk.trans hm.1.symm)
    refine ⟨i, j, hi, hj, hg, ?_⟩
    rw [hsame, List.getD_eq_getElem?_getD, hm.2]
    rfl
  · rintro ⟨i, j, hi, hj, hg, rfl⟩
    obtain ⟨hl, hu⟩ := hspan.2.2 i hg
    have hk : 4 * (i - l) + j < (keysOf ps).length := by omega
    have hb : 4 * (i - l) + j < bs.length := by omega
    refine ⟨((keysOf ps)[4 * (i - l) + j], bs[4 * (i - l) + j]), ?_, d + 4 * i + j, (hgoal _ _).2 ⟨i, j, hi, hj, hg, List.getElem?_eq_getElem hk, rfl⟩, ?_⟩
    · exact List.mem_iff_getElem?.2 ⟨4 * (i - l) + j, List.getElem?_zip_eq_some.2 ⟨List.getElem?_eq_getElem hk, List.getElem?_eq_getElem hb⟩⟩
    · simp [List.getD_eq_getElem?_getD, List.getElem?_eq_getElem hb]

theorem laneSpan_eq {g : Word} {l u : Nat} (hspan : LaneSpan g l u) : laneSpan g = some (l, 4 * (u + 1 - l)) := by
  obtain ⟨hl, hu, hall⟩ := hspan
  have hlane : ∀ {i}, g.getLsbD i = true → i ∈ enabledLanes g := fun h => mem_enabledLanes.2 ⟨BitVec.lt_of_getLsbD h, h⟩
  obtain ⟨l', u', heq, hl', hu', hall'⟩ := laneSpan_of_lanes (List.ne_nil_of_mem (hlane hl))
  have h1 := hall l' (mem_enabledLanes.1 hl').2
  have h2 := hall u' (mem_enabledLanes.1 hu').2
  have h3 := hall' l (hlane hl)
  have h4 := hall' u (hlane hu)
  rw [heq, show l' = l by omega, show u' = u by omega]

section
variable {w : FormM} {s : State} {c : Ctx} {g b : Word} {d : Nat} (hI : Issues s c w.h [w.base] g) (hf : Falls s c) (hb : readVal c w.base = .ok b)
  (hd : c.loc w.data = some d) (hfree : Free s c d 256)
include hI hf hb hd hfree

/-- A vector load that enables no lane only empties the register's readiness. -/
theorem completes_xldv_none (hg : g = 0) :
    ∃ c1, writeRf s c d 256 [] = .ok c1 ∧ Completes (.xldv w) s c w.h s (c1.setLatch d 256) := by
  obtain ⟨c1, hwrite, -⟩ := writeRf_none hfree
  refine ⟨c1, hwrite, ?_⟩
  have hnone : vectorPieces s c (memAddr b w.off) g 4 false (c.slackOf w.slack.toNat) = .ok [] := by
    rw [vectorPieces, laneSpan_of_none (by rw [hg]; decide)]
  rw [Completes, exec_xldv, execXldv]
  refine ins_ok hI hf (by simp) ?_
  rw [try_bind_of_ok hb]
  refine (try_bind_of_ok hnone _).trans ?_
  rw [hd]
  refine (try_bind_of_ok hwrite _).trans ?_
  rfl

theorem completes_xldv (l u : Nat) (ps : List Piece) (hspan : LaneSpan g l u) :
    let f := b + w.off.signExtend 64 + BitVec.ofNat 64 (4 * l)
    let n := 4 * (u + 1 - l)
    Reach s c f n 4 false (c.slackOf w.slack.toNat) ps → (keysOf ps).Nodup →
    s.heldBack c (spanAt c.key.tile (s.fromHome c f) n) false = false → c.repliesFull = false →
    ∃ t tok c1, writeRf s c d 256 [] = .ok c1 ∧ Completes (.xldv w) s c w.h t ({ c1 with outstanding := c1.outstanding ++ [tok] }.setLatch d 256) ∧
      t.mem = s.mem ∧ t.staged = s.staged ∧ t.ctxs = s.ctxs ∧ tok.bad = 0 ∧ tok.held = none ∧ tok.dead = [] ∧
      ((∀ p ∈ ps, p.peer = none) → tok.keys = [] ∧
        let bs := ps.flatMap fun p => s.readLoc c (loopsBack c p) p.key p.len
        ∀ x, x ∈ tok.cells ↔ ∃ i j, i < 64 ∧ j < 4 ∧ g.getLsbD i = true ∧ x = (d + 4 * i + j, bs.getD (4 * (i - l) + j) 0)) := by
  intro f n hreach hnodup hheld hroom
  obtain ⟨c1, hwrite, hsame, hfull, -⟩ := writeRf_none hfree
  have hn : 0 < n := by
    have := hspan.2.2 l hspan.1
    omega
  obtain ⟨halong, hend⟩ := along_of_reach hreach hn
  have hsome : ps.isEmpty = false := by
    cases ps with
    | nil => exact absurd halong (Nat.pos_iff_ne_zero.1 hn)
    | cons p r => rfl
  let a := b + w.off.signExtend 64
  let fill := vectorFill g (laneDest ps a g d)
  obtain ⟨tok, hctx, hcells, hkeys, hbad, hhold, hdead⟩ := issueLoad_ctx s c1 ps (c.slackOf w.slack.toNat) a fill
  have hpieces : vectorPieces s c a g 4 false (c.slackOf w.slack.toNat) = .ok ps := by
    rw [vectorPieces, laneSpan_eq hspan]
    refine (try_bind_of_ok (accessPieces_of_reach hreach l) _).trans ?_
    exact (try_bind_of_ok (waitFree_of_notHeld hheld) _).trans rfl
  have hrun : Completes (.xldv w) s c w.h (issueLoad s c1 ps (c.slackOf w.slack.toNat) a fill).1
      ((issueLoad s c1 ps (c.slackOf w.slack.toNat) a fill).2.setLatch d 256) := by
    rw [Completes, exec_xldv, execXldv]
    refine ins_ok hI hf (by simp) ?_
    rw [try_bind_of_ok hb]
    refine (try_bind_of_ok hpieces _).trans ?_
    rw [hd]
    refine (try_bind_of_ok hwrite _).trans ?_
    rw [hsome, if_neg Bool.false_ne_true]
    refine (try_bind_of_ok (replyGate_of_room (hfull hroom)) _).trans ?_
    rfl
  rw [hctx] at hrun
  refine ⟨_, _, c1, hwrite, hrun, quiet_mem.issueLoad s .., quiet_staged.issueLoad s .., quiet_ctxs.issueLoad s .., hbad, hhold, hdead, fun hhere => ?_⟩
  have hfar : farKeys s c1 ps = [] := farKeys_of_here hhere
  have hknown : knownBytes s c1 ps = (keysOf ps).zip (ps.flatMap fun p => s.readLoc c (loopsBack c p) p.key p.len) := by
    rw [← knownBytes_of_here hhere]
    exact List.flatMap_congr fun p _ => by rw [hsame]
  have hbytes : (ps.flatMap fun p => s.readLoc c (loopsBack c p) p.key p.len).length = n := by
    rw [← length_keysOf halong, keysOf, List.length_flatMap, List.length_flatMap]
    simp [length_readLoc]
  refine ⟨by rw [hfar]; rfl, fun x => ?_⟩
  rw [hknown]
  exact mem_vectorFill_cells halong hspan rfl rfl hend hnodup hbytes x

end

/-- Settles O18: the checks of issue answer the stretches; the request takes what is known of them, and the requests sent leave memory alone. -/
theorem exchangeLoads : Obligations.ExchangeLoads := by
  refine ⟨fun w s c b p d hF hb => ?_, fun w s c g b d hI hf hb hd hfree => ?_⟩
  · exact completes_xldd hF hb
  · exact ⟨completes_xldv_none hI hf hb hd hfree, completes_xldv hI hf hb hd hfree⟩

end Sys2Proof.Claims
end

section
/-! PROOFS. Exchange stores (O24). -/

namespace Sys2Proof.Claims

open Sys2Proof Sys2Proof.Machine

/-! ### What staging adds -/

/-- From s to t staging has got the new writes, all of a context's party, and tiles are as before; the contexts too where none keeps an image. -/
structure Adds (c : Ctx) (s t : State) (new : List Staged) : Prop where
  staged : t.staged = s.staged ++ new
  seq : s.seq ≤ t.seq
  mine : ∀ e ∈ new, s.seq ≤ e.seq ∧ e.seq < t.seq ∧ e.party.task = c.task ∧ e.party.rank = c.rank
  tiles : t.tiles = s.tiles
  ctxs : (∀ e ∈ s.ctxs, e.frozen = none) → t.ctxs = s.ctxs

section
variable {c : Ctx} {s t u : State} {new more : List Staged}

theorem Adds.refl : Adds c s s [] := ⟨(List.append_nil _).symm, Nat.le_refl _, by simp, rfl, fun _ => rfl⟩

theorem Adds.trans (h : Adds c s t new) (h' : Adds c t u more) : Adds c s u (new ++ more) := by
  refine ⟨by rw [h'.staged, h.staged, List.append_assoc], h.seq.trans h'.seq, fun e he => ?_, h'.tiles.trans h.tiles, fun hf => ?_⟩
  · rcases List.mem_append.1 he with he | he
    · obtain ⟨h1, h2, hparty⟩ := h.mine e he
      exact ⟨h1, h2.trans_le h'.seq, hparty⟩
    · obtain ⟨h1, h2, hparty⟩ := h'.mine e he
      exact ⟨h.seq.trans h1, h2, hparty⟩
  · have ht := h.ctxs hf
    rw [h'.ctxs (by rwa [ht]), ht]

/-- What has been added is the same by every account of it. -/
theorem Adds.unique (h : Adds c s t new) (h' : Adds c s t more) : more = new :=
  List.append_cancel_left (h'.staged.symm.trans h.staged)

end

/-- A fold whose steps add to staging adds to it. -/
theorem adds_foldl {α : Type} {c : Ctx} {f : State → α → State} : ∀ {l : List α} {s : State}, (∀ s, ∀ x ∈ l, ∃ new, Adds c s (f s x) new) →
    ∃ new, Adds c s (l.foldl f s) new
  | [], s, _ => ⟨[], Adds.refl⟩
  | x :: l, s, h => by
    obtain ⟨new, hnew⟩ := h s x List.mem_cons_self
    obtain ⟨more, hmore⟩ := adds_foldl (s := f s x) fun s y hy => h s y (List.mem_cons_of_mem _ hy)
    exact ⟨_, hnew.trans hmore⟩

/-- What one of the steps adds is among what the fold adds. -/
theorem holds_foldl {α : Type} {c : Ctx} {f : State → α → State} {Q : Staged → Prop} {x : α} {l : List α} {s : State}
    (h : ∀ s, ∀ x ∈ l, ∃ new, Adds c s (f s x) new) (hx : x ∈ l) (hQ : ∀ t, t.tiles = s.tiles → ∃ new, Adds c t (f t x) new ∧ ∃ e ∈ new, Q e) :
    ∃ new, Adds c s (l.foldl f s) new ∧ ∃ e ∈ new, Q e := by
  induction l generalizing s with
  | nil => exact absurd hx List.not_mem_nil
  | cons y l ih =>
    have hrest : ∀ s, ∀ x ∈ l, ∃ new, Adds c s (f s x) new := fun s y hy => h s y (List.mem_cons_of_mem _ hy)
    by_cases hxy : x = y
    · obtain ⟨new, hnew, e, he, hQe⟩ := hQ s rfl
      obtain ⟨more, hmore⟩ := adds_foldl (s := f s x) hrest
      rw [List.foldl_cons, ← hxy]
      exact ⟨_, hnew.trans hmore, e, List.mem_append_left _ he, hQe⟩
    · obtain ⟨new, hnew⟩ := h s y List.mem_cons_self
      obtain ⟨more, hmore, e, he, hQe⟩ := ih hrest (List.mem_of_ne_of_mem hxy hx) fun t ht => hQ t (ht.trans hnew.tiles)
      exact ⟨_, hnew.trans hmore, e, List.mem_append_right _ he, hQe⟩

theorem keepFrozen_of_none (es : List Staged) {cs : List Ctx} (h : ∀ c ∈ cs, c.frozen = none) : keepFrozen es cs = cs := by
  unfold keepFrozen
  calc cs.map _ = cs.map id := List.map_congr_left fun c hc => by rw [h c hc]; rfl
    _ = cs := List.map_id cs

theorem adds_writeRecords (c : Ctx) (s : State) (k : Nat) (bs : List Byte) : Adds c s (s.writeRecords k bs) [] :=
  ⟨(List.append_nil _).symm, Nat.le_refl _, by simp, rfl, fun _ => rfl⟩

section
variable {c : Ctx} {s : State} {w : Writer} (hw : w.c = c)
include hw

theorem adds_enterDirect (k : Nat) (addr : Word) (bs : List Byte) (kind : Option Nat) :
    Adds c s (s.enterDirect (s.entryOf w k addr bs kind)) [{ s.entryOf w k addr bs kind with seq := s.seq, pool := 8 }] := by
  refine ⟨rfl, Nat.le_succ _, fun e he => ?_, rfl, fun _ => rfl⟩
  obtain rfl := List.mem_singleton.1 he
  subst hw
  exact ⟨Nat.le_refl _, Nat.lt_succ_self _, rfl, rfl⟩

/-- A write enters staging; one of a plate slice may enter memory itself. -/
theorem adds_enterStaging (k : Nat) (addr : Word) (bs : List Byte) (kind : Option Nat) :
    ∃ new, Adds c s (s.enterStaging (s.entryOf w k addr bs kind)) new ∧
      (isPlate k = false → ∃ e ∈ new, e.key = k ∧ e.bytes = bs ∧ e.kind = kind) := by
  by_cases hplate : s.chargeLevel (s.entryOf w k addr bs kind) = 9 ∧ isPlate k = true
  · refine ⟨[], ?_, fun h => absurd hplate.2 (by simp [h])⟩
    have heq : s.enterStaging (s.entryOf w k addr bs kind) = { s with
        mem := commitAll s.mem [{ s.entryOf w k addr bs kind with seq := s.seq }], seq := s.seq + 1,
        ctxs := keepFrozen [{ s.entryOf w k addr bs kind with seq := s.seq }] s.ctxs } := if_pos hplate
    rw [heq]
    exact ⟨(List.append_nil _).symm, Nat.le_succ _, by simp, rfl, fun hf => keepFrozen_of_none _ hf⟩
  · obtain ⟨pool, n, heq⟩ : ∃ pool n, s.enterStaging (s.entryOf w k addr bs kind) =
        { s with staged := s.staged ++ [{ s.entryOf w k addr bs kind with seq := s.seq, pool := pool }], seq := s.seq + 1, spills := n } :=
      ⟨_, _, if_neg hplate⟩
    rw [heq]
    refine ⟨_, ⟨rfl, Nat.le_succ _, fun e he => ?_, rfl, fun _ => rfl⟩, fun _ => ⟨_, List.mem_singleton_self _, rfl, rfl, rfl⟩⟩
    obtain rfl := List.mem_singleton.1 he
    subst hw
    exact ⟨Nat.le_refl _, Nat.lt_succ_self _, rfl, rfl⟩

theorem adds_placeRed (k : Nat) (addr : Word) (bs : List Byte) (kind : Nat) : ∃ new, Adds c s ((s.placeRed w k addr bs kind).getD s) new := by
  unfold State.placeRed
  split
  · exact ⟨[], adds_writeRecords c s _ _⟩
  · dsimp only
    split
    · exact ⟨[], Adds.refl⟩
    · obtain ⟨new, hnew, -⟩ := adds_enterStaging (s := s) hw k addr bs (some kind)
      exact ⟨new, hnew⟩

end

/-! ### Placing the bytes of a store -/

/-- The steps in which contributions are placed. -/
def placeChunk (w : Writer) (k : Nat) (addr : Word) (kd width : Nat) (s : State) (x : List Byte × Nat) : State :=
  if w.direct then s.enterDirect (s.entryOf w (k + x.2 * width) (addr + BitVec.ofNat 64 (x.2 * width)) x.1 (some kd))
  else if (List.range width).any fun i => s.isRecordByte (k + x.2 * width + i) then (s.placeRed w (k + x.2 * width) addr x.1 kd).getD s
  else s.enterStaging (s.entryOf w (k + x.2 * width) (addr + BitVec.ofNat 64 (x.2 * width)) x.1 (some kd))

/-- The step in which a piece of a plain write is placed. -/
def placePiece (w : Writer) (k : Nat) (addr : Word) (s : State) (p : Nat × List Byte) : State := s.enterStaging (pieceEntry w k addr s p)

theorem placeLater_kind (s : State) (w : Writer) (k : Nat) (addr : Word) (bs : List Byte) (kd width : Nat) :
    s.placeLater w k addr bs (some (kd, width)) = (chunksOf width (bs.length / width) bs).zipIdx.foldl (placeChunk w k addr kd width) s := by
  unfold State.placeLater placeChunk
  cases w.direct <;> rfl

theorem placeLater_plain (s : State) (w : Writer) (k : Nat) (addr : Word) (bs : List Byte) :
    s.placeLater w k addr bs none = if w.direct then s.enterDirect (s.entryOf w k addr bs none)
      else (s.plainPieces k bs).foldl (placePiece w k addr) (s.writeRecords k bs) := rfl

/-- A staged write holds a byte at a location, as one of a kind. -/
def HoldsByte (kind : Option Nat) (k : Nat) (b : Byte) (e : Staged) : Prop := e.covers k = true ∧ e.bytes.getD (k - e.key) 0 = b ∧ e.kind = kind

section
variable {c : Ctx} {w : Writer} (hw : w.c = c) (k : Nat) (addr : Word)
include hw

theorem adds_placeChunk (kd width : Nat) (s : State) (x : List Byte × Nat) : ∃ new, Adds c s (placeChunk w k addr kd width s x) new := by
  unfold placeChunk
  split
  · exact ⟨_, adds_enterDirect hw _ _ _ _⟩
  · split
    · exact adds_placeRed hw _ _ _ _
    · obtain ⟨new, hnew, -⟩ := adds_enterStaging (s := s) hw (k + x.2 * width) (addr + BitVec.ofNat 64 (x.2 * width)) x.1 (some kd)
      exact ⟨new, hnew⟩

theorem adds_placePiece (s : State) (p : Nat × List Byte) : ∃ new, Adds c s (placePiece w k addr s p) new ∧
    (isPlate p.1 = false → ∃ e ∈ new, e.key = p.1 ∧ e.bytes = p.2 ∧ e.kind = none) :=
  adds_enterStaging hw p.1 (addr + BitVec.ofNat 64 (p.1 - k)) p.2 none

theorem adds_placeLater (s : State) (bs : List Byte) (kind : Option (Nat × Nat)) : ∃ new, Adds c s (s.placeLater w k addr bs kind) new := by
  match kind with
  | some (kd, width) =>
    rw [placeLater_kind]
    exact adds_foldl fun s x _ => adds_placeChunk hw k addr kd width s x
  | none =>
    rw [placeLater_plain]
    split
    · exact ⟨_, adds_enterDirect hw _ _ _ _⟩
    · obtain ⟨new, hnew⟩ := adds_foldl (c := c) (f := placePiece w k addr) (l := s.plainPieces k bs) (s := s.writeRecords k bs) fun s p _ =>
        (adds_placePiece hw k addr s p).imp fun _ h => h.1
      exact ⟨_, (adds_writeRecords c s k bs).trans hnew⟩

variable {s : State} {bs : List Byte} (hclear : ∀ j, j < bs.length → s.isRecordByte (k + j) = false ∧ isPlate (k + j) = false)
include hclear

/-- Every byte of a plain store is in staging afterwards. -/
theorem holds_placeLater_plain {j : Nat} (hj : j < bs.length) :
    ∃ new, Adds c s (s.placeLater w k addr bs none) new ∧ ∃ e ∈ new, HoldsByte none (k + j) (bs.getD j 0) e := by
  rw [placeLater_plain]
  split
  · refine ⟨_, adds_enterDirect hw _ _ _ _, _, List.mem_singleton_self _, ?_, ?_, rfl⟩
    · simp [Staged.covers, State.entryOf, State.mkStaged, hj]
    · simp [State.entryOf, State.mkStaged]
  · obtain ⟨p, hp, hcov⟩ := covered_plainPieces (s := s) (bs := bs) (hclear j hj).1 (Nat.le_add_right k j) (by omega)
    obtain ⟨hlo, hhi, hbytes⟩ := carries_plainPieces p hp
    have hplate : isPlate p.1 = false := by
      have := (hclear (p.1 - k) (by have := hcov.1; omega)).2
      rwa [show k + (p.1 - k) = p.1 by omega] at this
    obtain ⟨new, hnew, e, he, hQ⟩ := holds_foldl (c := c) (f := placePiece w k addr) (s := s.writeRecords k bs) (Q := HoldsByte none (k + j) (bs.getD j 0))
      (fun s p _ => (adds_placePiece hw k addr s p).imp fun _ h => h.1) hp fun t _ => by
        obtain ⟨new, hnew, hent⟩ := adds_placePiece hw k addr t p
        obtain ⟨e, he, hkey, hb, hkind⟩ := hent hplate
        refine ⟨new, hnew, e, he, ?_, ?_, hkind⟩
        · rw [Staged.covers, hkey, hb]
          simpa using And.intro hcov.1 hcov.2
        · rw [hkey, hb, hbytes _ (by have := hcov.1; have := hcov.2; omega), show p.1 - k + (k + j - p.1) = j by have := hcov.1; omega]
    exact ⟨_, (adds_writeRecords c s k bs).trans hnew, e, by simpa using he, hQ⟩

/-- Every byte of contributions of whole elements is in staging afterwards. -/
theorem holds_placeLater_kind {kd width j : Nat} (hwidth : 0 < width) (hdvd : width ∣ bs.length) (hj : j < bs.length) :
    ∃ new, Adds c s (s.placeLater w k addr bs (some (kd, width))) new ∧ ∃ e ∈ new, HoldsByte (some kd) (k + j) (bs.getD j 0) e := by
  rw [placeLater_kind]
  obtain ⟨m, hm⟩ := hdvd
  have hdiv : bs.length / width = m := by rw [hm, Nat.mul_div_cancel_left _ hwidth]
  have hin : j / width < m := Nat.div_lt_of_lt_mul (by rw [← hm]; exact hj)
  have hsplit : width * (j / width) + j % width = j := Nat.div_add_mod j width
  have hmod : j % width < width := Nat.mod_lt _ hwidth
  have hend : width * (j / width) + width ≤ bs.length := by
    rw [hm, ← Nat.mul_succ]
    exact Nat.mul_le_mul_left _ hin
  have hx : ((bs.drop (width * (j / width))).take width, j / width) ∈ (chunksOf width (bs.length / width) bs).zipIdx := by
    rw [hdiv, chunksOf_eq, List.mem_zipIdx_iff_getElem?]
    simp [hin]
  have hlen : ((bs.drop (width * (j / width))).take width).length = width := by simp; omega
  refine holds_foldl (fun s x _ => adds_placeChunk hw k addr kd width s x) hx fun t ht => ?_
  have hcover : ∀ e : Staged, e.key = k + j / width * width → e.bytes = (bs.drop (width * (j / width))).take width → e.kind = some kd →
      HoldsByte (some kd) (k + j) (bs.getD j 0) e := by
    intro e hkey hb hkind
    rw [Nat.mul_comm] at hkey
    refine ⟨?_, ?_, hkind⟩
    · rw [Staged.covers, hkey, hb, hlen]
      simp
      omega
    · rw [hkey, hb, show k + j - (k + width * (j / width)) = j % width by omega, List.getD_eq_getElem?_getD, List.getElem?_take_of_lt hmod,
        List.getElem?_drop, hsplit, List.getD_eq_getElem?_getD]
  unfold placeChunk
  split
  · exact ⟨_, adds_enterDirect hw _ _ _ _, _, List.mem_singleton_self _, hcover _ rfl rfl rfl⟩
  · rw [if_neg]
    · obtain ⟨new, hnew, hent⟩ := adds_enterStaging (s := t) hw (k + j / width * width) (addr + BitVec.ofNat 64 (j / width * width))
        ((bs.drop (width * (j / width))).take width) (some kd)
      have hplate : isPlate (k + j / width * width) = false := by
        rw [Nat.mul_comm]
        exact (hclear _ (by omega)).2
      obtain ⟨e, he, hkey, hb, hkind⟩ := hent hplate
      exact ⟨new, hnew, e, he, hcover e hkey hb hkind⟩
    · rw [Bool.not_eq_true, List.any_eq_false]
      intro i hi
      rw [List.mem_range] at hi
      rw [isRecordByte_congr ht, Nat.mul_comm, Nat.add_assoc, (hclear (width * (j / width) + i) (by omega)).1]
      exact Bool.false_ne_true

end

/-! ### Issuing a store -/

theorem setDirty_staged (s : State) (e : Leaf) : (s.setDirty e).staged = s.staged := by
  unfold State.setDirty
  split <;> rfl

theorem usePages_staged (s : State) (tile slack : Nat) (reads writes : List Leaf) : (s.usePages tile slack reads writes).staged = s.staged := by
  unfold State.usePages
  extract_lets es u v
  have hu : u.staged = s.staged := by
    refine foldl_keeps State.staged es ?_ s
    exact fun _ _ => rfl
  have hv : v.staged = u.staged := foldl_keeps State.staged _ setDirty_staged u
  exact (foldl_keeps State.staged es (fun s e => quiet_staged.touch s tile slack e) v).trans (hv.trans hu)

/-- The parts of a store's segments, each in one stretch, with their bytes. -/
def storeCuts (ps : List Piece) (segs : List (Word × List Byte)) : List (Piece × List Byte) :=
  segs.flatMap fun x => (cutAt ps x.1 x.2.length).map fun y => (y.1, (x.2.drop y.2).take y.1.len)

/-- Who writes a part of a store. -/
def cutWriter (s : State) (c : Ctx) (p : Piece) : Machine.Writer := { s.writer c (loopsBack c p) with direct := directWrite c.supervisor p.addr }

/-- The step in which the bytes of a part are placed. -/
def placeCut (c : Ctx) (kind : Option (Nat × Nat)) (s : State) (x : Piece × List Byte) : State :=
  s.placeLater (cutWriter s c x.1) x.1.key x.1.addr x.2 kind

/-- The state in which the bytes of a store have been placed. -/
def placedStore (s : State) (c : Ctx) (ps : List Piece) (segs : List (Word × List Byte)) (kind : Option (Nat × Nat)) : State :=
  ((storeCuts ps segs).filter fun x => x.1.peer.isNone).foldl (placeCut c kind) s.fresh.2

section
variable (s : State) (c : Ctx) (ps : List Piece) (segs : List (Word × List Byte)) (kind : Option (Nat × Nat)) (slack : Nat) (a g : Word)

theorem adds_placeCut (s : State) (x : Piece × List Byte) : ∃ new, Adds c s (placeCut c kind s x) new :=
  adds_placeLater (w := cutWriter s c x.1) rfl _ _ _ _ _

theorem adds_placedStore : ∃ new, Adds c s.fresh.2 (placedStore s c ps segs kind) new := adds_foldl fun s x _ => adds_placeCut c kind s x

/-- What the issue of a store leaves: the requests change nothing of what has been staged. -/
theorem issueStore_eq : ∃ t tok, issueStore s c ps segs kind slack a g = (t, (t.keptImage c).await tok) ∧
    tok.writes = (List.range ((placedStore s c ps segs kind).seq - s.fresh.2.seq)).map (s.fresh.2.seq + ·) ∧ tok.bad = 0 ∧ tok.held = none ∧
    t.staged = (placedStore s c ps segs kind).staged ∧ (leavesOf ps = [] → t.ctxs = (placedStore s c ps segs kind).ctxs) := by
  unfold issueStore
  rw [show s.fresh = (s.seq, s.fresh.2) from rfl]
  dsimp -zeta only
  extract_lets cuts first t1 seqs pk t2 t3 tok peer
  have h1 : t1 = placedStore s c ps segs kind := rfl
  have hquiet : ∀ {β : Type} {f : State → β}, Quiet f → f (t2.sendAccess c s.seq (cuts.map fun x => x.1) true slack) = f t1 := by
    intro β f hf
    refine (hf.sendAccess _ _ _ _ _ _).trans (foldl_keeps f cuts (fun s x => ?_) t1)
    split
    · exact (hf.sendRequest _ _ _ _ _ _ _ _ _ _ _ _ _).trans (hf.xlat s s.seq _)
    · rfl
  refine ⟨t3, _, rfl, by rw [← h1], rfl, rfl, ?_, fun hnone => ?_⟩
  · rw [← h1]
    exact (usePages_staged _ _ _ _ _).trans (hquiet quiet_staged)
  · rw [← h1, ← hquiet quiet_ctxs]
    unfold t3
    rw [hnone]
    rfl

/-- What the issue of a store stages, by what the placing of its parts adds. -/
theorem issueStore_stages : ∃ t tok new, issueStore s c ps segs kind slack a g = (t, (t.keptImage c).await tok) ∧ t.staged = s.staged ++ new ∧
    (∀ e ∈ new, e.seq ∈ tok.writes ∧ e.party.task = c.task ∧ e.party.rank = c.rank) ∧ tok.bad = 0 ∧ tok.held = none ∧
    (leavesOf ps = [] → (∀ e ∈ s.ctxs, e.frozen = none) → t.ctxs = s.ctxs) ∧ Adds c s.fresh.2 (placedStore s c ps segs kind) new := by
  obtain ⟨new, hnew⟩ := adds_placedStore s c ps segs kind
  obtain ⟨t, tok, heq, hwrites, hbad, hheld, hstaged, hctxs⟩ := issueStore_eq s c ps segs kind slack a g
  refine ⟨t, tok, new, heq, hstaged.trans hnew.staged, fun e he => ?_, hbad, hheld, fun hl hf => (hctxs hl).trans (hnew.ctxs hf), hnew⟩
  obtain ⟨h1, h2, hparty⟩ := hnew.mine e he
  refine ⟨?_, hparty⟩
  rw [hwrites, List.mem_map]
  exact ⟨e.seq - s.fresh.2.seq, List.mem_range.2 (by omega), by omega⟩

end

/-- Every byte of a part that lies in this package is in staging afterwards. -/
theorem holds_placedStore {s : State} {c : Ctx} {ps : List Piece} {segs : List (Word × List Byte)} {kind : Option (Nat × Nat)} {new : List Staged}
    (hnew : Adds c s.fresh.2 (placedStore s c ps segs kind) new) {x : Piece × List Byte} (hx : x ∈ storeCuts ps segs) (hpeer : x.1.peer = none)
    (hclear : ∀ j, j < x.2.length → s.isRecordByte (x.1.key + j) = false ∧ isPlate (x.1.key + j) = false)
    (hkind : ∀ kd width, kind = some (kd, width) → 0 < width ∧ width ∣ x.2.length) {j : Nat} (hj : j < x.2.length) :
    ∃ e ∈ new, HoldsByte (kind.map Prod.fst) (x.1.key + j) (x.2.getD j 0) e := by
  have hmem : x ∈ (storeCuts ps segs).filter fun x => x.1.peer.isNone := List.mem_filter.2 ⟨hx, by rw [hpeer]; rfl⟩
  obtain ⟨more, hmore, hex⟩ := holds_foldl (c := c) (f := placeCut c kind) (s := s.fresh.2) (Q := HoldsByte (kind.map Prod.fst) (x.1.key + j) (x.2.getD j 0))
    (fun s x _ => adds_placeCut c kind s x) hmem fun t ht => by
      have hclear' : ∀ j, j < x.2.length → t.isRecordByte (x.1.key + j) = false ∧ isPlate (x.1.key + j) = false := fun j hj => by
        rw [isRecordByte_congr ht]
        exact hclear j hj
      match kind, hkind with
      | none, _ => exact holds_placeLater_plain (w := cutWriter t c x.1) rfl _ _ hclear' hj
      | some (kd, width), hkind =>
        obtain ⟨hpos, hdvd⟩ := hkind kd width rfl
        exact holds_placeLater_kind (w := cutWriter t c x.1) rfl _ _ hclear' hpos hdvd hj
  rwa [← hnew.unique hmore]

/-! ### XSTD and XRED -/

/-- What a store leaves whose request is sent: its writes are in staging, and its acknowledgement is outstanding. -/
def Sent (i : Instr) (s : State) (c : Ctx) (h : Common) (tok : Token) (t : State) (new : List Staged) : Prop :=
  Completes i s c h t { t.keptImage c with outstanding := c.outstanding ++ [tok], latch := .empty, latchTok := none } ∧
  t.staged = s.staged ++ new ∧ (∀ e ∈ new, e.seq ∈ tok.writes ∧ e.party.task = c.task ∧ e.party.rank = c.rank) ∧ tok.bad = 0 ∧ tok.held = none

theorem xredKind_width (code : Nat) : (xredKind code).2 ∈ [2, 4, 8] := by
  unfold xredKind
  split <;> decide

section
variable {w : FormM} {s : State} {c : Ctx} {b x : Word} {n : Nat} {code : Option Nat} {p : Piece} (hF : Fires s c w.h [w.data, w.base])
  (hb : readVal c w.base = .ok b) (hx : storeVal c code w.data = .ok x)
include hF hb hx

theorem runXstore_of_reach {i : Instr} (hi : exec i s = runXstore s w n code)
    (hreach : Reach s c (b + w.off.signExtend 64) n n true (c.slackOf w.slack.toNat) [p])
    (hheld : s.heldBack c (spanAt c.key.tile (s.fromHome c (b + w.off.signExtend 64)) n) true = false) {t : State} {tok : Token}
    (hissue : issueStore s c [p] [(b + w.off.signExtend 64, bytesOf n x.toNat)] (code.map xredKind) (c.slackOf w.slack.toNat) (b + w.off.signExtend 64) 1 =
      (t, (t.keptImage c).await tok)) :
    Completes i s c w.h t { t.keptImage c with outstanding := c.outstanding ++ [tok], latch := .empty, latchTok := none } := by
  have hrun : Completes i s c w.h (issueStore s c [p] [(b + w.off.signExtend 64, bytesOf n x.toNat)] (code.map xredKind) (c.slackOf w.slack.toNat)
      (b + w.off.signExtend 64) 1).1 (issueStore s c [p] [(b + w.off.signExtend 64, bytesOf n x.toNat)] (code.map xredKind) (c.slackOf w.slack.toNat)
      (b + w.off.signExtend 64) 1).2.clearLatch := by
    rw [Completes, hi, runXstore]
    refine uni_ok hF (by simp) ?_
    rw [try_bind_of_ok hx, try_bind_of_ok hb]
    refine (try_bind_of_ok (accessPieces_of_reach hreach 0) _).trans ?_
    refine (try_bind_of_ok (waitFree_of_notHeld hheld) _).trans ?_
    rfl
  rwa [hissue] at hrun

theorem sends_store {i : Instr} (hi : exec i s = runXstore s w n code) (hn : 0 < n) (hwidth : ∀ m, code = some m → (xredKind m).2 = n) :
    let a := b + w.off.signExtend 64
    let kind := code.map fun m => (xredKind m).1
    Reach s c a n n true (c.slackOf w.slack.toNat) [p] → s.heldBack c (spanAt c.key.tile (s.fromHome c a) n) true = false →
    ∃ t tok new, Sent i s c w.h tok t new ∧ (p.leaf = none → (∀ e ∈ s.ctxs, e.frozen = none) → t.ctxs = s.ctxs) ∧
      (p.peer = none → (∀ j, j < p.len → s.isRecordByte (p.key + j) = false ∧ isPlate (p.key + j) = false) →
        ∀ j, j < n → ∃ e ∈ new, HoldsByte kind (p.key + j) ((bytesOf n x.toNat).getD j 0) e) := by
  intro a kind hreach hheld
  obtain ⟨t, tok, new, hissue, hstaged, hmine, hbad, hnone, hctxs, hnew⟩ :=
    issueStore_stages s c [p] [(a, bytesOf n x.toNat)] (code.map xredKind) (c.slackOf w.slack.toNat) a 1
  refine ⟨t, tok, new, ⟨runXstore_of_reach hF hb hx hi hreach hheld hissue, hstaged, hmine, hbad, hnone⟩, fun hl => hctxs (by simp [leavesOf, hl]),
    fun hpeer hclear j hj => ?_⟩
  obtain ⟨⟨haddr, -, hle, hrest⟩, hend⟩ := along_of_reach hreach hn
  have hlen : p.len = n := Nat.le_antisymm hle (Nat.le_of_sub_eq_zero hrest)
  have hbytes : (bytesOf n x.toNat).length = n := by simp
  have hcut : (p, bytesOf n x.toNat) ∈ storeCuts [p] [(a, bytesOf n x.toNat)] := by
    have hmem : (p, 0) ∈ cutAt [p] a n := by
      rw [mem_cutAt]
      refine ⟨p, List.mem_singleton_self _, by omega, ?_⟩
      have hp : p.addr = a := BitVec.eq_of_toNat_eq haddr
      rw [haddr, hlen, Nat.max_self, Nat.min_self, Nat.sub_self, Nat.add_sub_cancel_left, BitVec.ofNat_toNat, BitVec.setWidth_eq, ← hp, ← hlen]
      rfl
    simp only [storeCuts, List.flatMap_cons, List.flatMap_nil, List.append_nil, hbytes, List.mem_map]
    exact ⟨_, hmem, by rw [List.drop_zero, List.take_of_length_le (by rw [hbytes, hlen])]⟩
  have hkind : kind = (code.map xredKind).map Prod.fst := by rw [Option.map_map]; rfl
  rw [hkind]
  refine holds_placedStore hnew hcut hpeer (fun j hj => hclear j (by rwa [hbytes, ← hlen] at hj)) (fun kd width h => ?_) (by rwa [hbytes])
  obtain ⟨m, hm, hmk⟩ := Option.map_eq_some_iff.1 h
  have : width = n := by rw [← hwidth m hm, hmk]
  rw [hbytes, this]
  exact ⟨hn, dvd_refl n⟩

end

/-! ### XSTV and XREDV -/

/-- A joined element holds an element: its bytes at its place. -/
def JoinHolds (y x : Elem × List Byte) : Prop :=
  y.1.addr.toNat ≤ x.1.addr.toNat ∧ x.1.addr.toNat + x.2.length ≤ y.1.addr.toNat + y.2.length ∧
  ∀ i, i < x.2.length → y.2.getD (x.1.addr.toNat - y.1.addr.toNat + i) 0 = x.2.getD i 0

/-- A run of whole aligned words that does not wrap. -/
def JoinFits (y : Elem × List Byte) : Prop := y.1.addr.toNat % 4 = 0 ∧ y.2.length % 4 = 0 ∧ y.1.addr.toNat + y.2.length < 2 ^ 64

theorem joinHolds_refl (x : Elem × List Byte) : JoinHolds x x := ⟨Nat.le_refl _, Nat.le_refl _, fun i _ => by rw [Nat.sub_self, Nat.zero_add]⟩

/-- Joined elements hold all the elements, and are runs as these are. -/
theorem joinElems_spec : ∀ {xs : List (Elem × List Byte)}, (∀ x ∈ xs, JoinFits x) →
    (∀ y ∈ joinElems xs, JoinFits y) ∧ ∀ x ∈ xs, ∃ y ∈ joinElems xs, JoinHolds y x
  | [], _ => by simp [joinElems]
  | (e, bs) :: r, h => by
    obtain ⟨hfits, hholds⟩ := joinElems_spec (xs := r) fun x hx => h x (List.mem_cons_of_mem _ hx)
    have hfirst := h _ List.mem_cons_self
    unfold joinElems
    cases hj : joinElems r with
    | nil =>
      rw [hj] at hholds
      refine ⟨by simpa using hfirst, fun x hx => ?_⟩
      rcases List.mem_cons.1 hx with rfl | hx
      · exact ⟨_, List.mem_singleton_self _, joinHolds_refl _⟩
      · obtain ⟨y, hy, -⟩ := hholds x hx
        exact absurd hy List.not_mem_nil
    | cons fc more =>
      obtain ⟨f, cs⟩ := fc
      rw [hj] at hfits hholds
      dsimp only
      split
      · rename_i hjoin
        obtain ⟨halign, hlen, hend⟩ := hfirst
        obtain ⟨halign', hlen', hend'⟩ := hfits _ List.mem_cons_self
        have hnext : f.addr.toNat = e.addr.toNat + bs.length := by
          rw [← hjoin.1, BitVec.toNat_add, BitVec.toNat_ofNat]
          dsimp only at hend
          omega
        dsimp only at halign hlen hend halign' hlen' hend'
        refine ⟨fun y hy => ?_, fun x hx => ?_⟩
        · rcases List.mem_cons.1 hy with rfl | hy
          · exact ⟨halign, by simp only [List.length_append]; omega, by simp only [List.length_append]; omega⟩
          · exact hfits y (List.mem_cons_of_mem _ hy)
        · rcases List.mem_cons.1 hx with rfl | hx
          · refine ⟨_, List.mem_cons_self, Nat.le_refl _, by simp, fun i hi => ?_⟩
            dsimp only at hi ⊢
            rw [Nat.sub_self, Nat.zero_add, List.getD_append _ _ _ _ hi]
          · obtain ⟨y, hy, h1, h2, h3⟩ := hholds x hx
            rcases List.mem_cons.1 hy with rfl | hy
            · dsimp only at h1 h2 h3
              refine ⟨_, List.mem_cons_self, by dsimp only; omega, by simp only [List.length_append]; omega, fun i hi => ?_⟩
              dsimp only
              rw [List.getD_append_right _ _ _ _ (by omega), ← h3 i hi]
              congr 1
              omega
            · exact ⟨y, List.mem_cons_of_mem _ hy, h1, h2, h3⟩
      · refine ⟨fun y hy => ?_, fun x hx => ?_⟩
        · rcases List.mem_cons.1 hy with rfl | hy
          · exact hfirst
          · exact hfits y hy
        · rcases List.mem_cons.1 hx with rfl | hx
          · exact ⟨_, List.mem_cons_self, joinHolds_refl _⟩
          · obtain ⟨y, hy, hh⟩ := hholds x hx
            exact ⟨y, List.mem_cons_of_mem _ hy, hh⟩

/-- The bytes of the elements that lie in one lane. -/
def laneBytes (n : Nat) (xs : List Nat) (pos : Nat) : List Byte := (List.range (4 / n)).flatMap fun j => bytesOf n (xs.getD (pos * (4 / n) + j) 0)

theorem length_laneBytes {n : Nat} (hn : n = 2 ∨ n = 4) (xs : List Nat) (pos : Nat) : (laneBytes n xs pos).length = 4 := by
  rcases hn with rfl | rfl <;> rfl

theorem getD_laneBytes {n : Nat} (hn : n = 2 ∨ n = 4) (xs : List Nat) (pos : Nat) {j : Nat} (hj : j < 4) :
    (laneBytes n xs pos).getD j 0 = (bytesOf n (xs.getD ((4 * pos + j) / n) 0)).getD (j % n) 0 := by
  rcases hn with rfl | rfl
  · have h0 : (4 * pos + 0) / 2 = pos * 2 + 0 := by omega
    have h1 : (4 * pos + 1) / 2 = pos * 2 + 0 := by omega
    have h2 : (4 * pos + 2) / 2 = pos * 2 + 1 := by omega
    have h3 : (4 * pos + 3) / 2 = pos * 2 + 1 := by omega
    interval_cases j
    · rw [h0]; rfl
    · rw [h1]; rfl
    · rw [h2]; rfl
    · rw [h3]; rfl
  · have h0 : (4 * pos + j) / 4 = pos * 1 + 0 := by omega
    rw [h0, Nat.mod_eq_of_lt hj]
    simp [laneBytes]

/-- Where a stretch lies does not depend on which part of it is meant. -/
theorem peer_part (p : Piece) (a : Word) (k n : Nat) (h : p.peer = none) : ({ p with addr := a, key := k, len := n } : Piece).peer = none := by
  unfold Piece.peer at h ⊢
  cases hl : p.leaf with
  | none => rfl
  | some e =>
    rw [hl] at h
    dsimp only at h ⊢
    unfold Leaf.place at h ⊢
    dsimp only at h ⊢
    generalize e.tier = tier at h ⊢
    rcases tier with _ | _ | tier
    · rfl
    · rfl
    · cases h

/-- The enabled lanes of a vector store with their bytes. -/
def storeLanes (a g : Word) (n : Nat) (xs : List Nat) : List (Elem × List Byte) := (laneElems a g).map fun e => (e, laneBytes n xs e.pos)

/-- The segments of a vector store: the enabled lanes, joined where they follow each other. -/
def storeSegs (a g : Word) (n : Nat) (xs : List Nat) : List (Word × List Byte) := (joinElems (storeLanes a g n xs)).map fun x => (x.1.addr, x.2)

/-- Each byte of an enabled lane lies in a part of the store. -/
theorem mem_storeCuts_of_lane {ps : List Piece} {f a g : Word} {n l u i j : Nat} {xs : List Nat} (hn : n = 2 ∨ n = 4) (hspan : LaneSpan g l u)
    (hf : f = a + BitVec.ofNat 64 (4 * l)) (halong : Along f.toNat (4 * (u + 1 - l)) ps) (hend : f.toNat + 4 * (u + 1 - l) < 2 ^ 64)
    (hwhole : ∀ p ∈ ps, p.addr.toNat % 4 = 0 ∧ p.len % 4 = 0) {p : Piece} (hp : p ∈ ps) (hi : i < 64) (hj : j < 4) (hg : g.getLsbD i = true)
    (h1 : p.addr.toNat ≤ (a + BitVec.ofNat 64 (4 * i)).toNat + j) (h2 : (a + BitVec.ofNat 64 (4 * i)).toNat + j < p.addr.toNat + p.len) :
    ∃ x ∈ storeCuts ps (storeSegs a g n xs), ∃ lo, x.1 = { p with addr := BitVec.ofNat 64 lo, key := p.key + (lo - p.addr.toNat), len := x.1.len } ∧
      4 ∣ x.2.length ∧ p.addr.toNat ≤ lo ∧ lo + x.2.length ≤ p.addr.toNat + p.len ∧ lo ≤ (a + BitVec.ofNat 64 (4 * i)).toNat + j ∧
      (a + BitVec.ofNat 64 (4 * i)).toNat + j < lo + x.2.length ∧
      x.2.getD ((a + BitVec.ofNat 64 (4 * i)).toNat + j - lo) 0 = (laneBytes n xs i).getD j 0 := by
  have haddr : ∀ i, g.getLsbD i = true → (a + BitVec.ofNat 64 (4 * i)).toNat = f.toNat + 4 * (i - l) := fun i hi => by
    obtain ⟨hl, hu⟩ := hspan.2.2 i hi
    have hsum : a + BitVec.ofNat 64 (4 * i) = f + BitVec.ofNat 64 (4 * (i - l)) := by
      rw [hf, BitVec.add_assoc, ← BitVec.ofNat_add]
      congr 2
      omega
    rw [hsum, toNat_laneAddr (by omega)]
  have hstart : f.toNat % 4 = 0 := by
    cases ps with
    | nil => cases hp
    | cons q r =>
      have := (hwhole q List.mem_cons_self).1
      rwa [halong.1] at this
  obtain ⟨hfits, hholds⟩ := joinElems_spec (xs := storeLanes a g n xs) fun x hx => by
    obtain ⟨e, he, rfl⟩ := List.mem_map.1 hx
    obtain ⟨k, hk, rfl⟩ := List.mem_map.1 he
    have hk := (mem_enabledLanes.1 hk).2
    obtain ⟨hl, hu⟩ := hspan.2.2 k hk
    refine ⟨?_, by rw [length_laneBytes hn], ?_⟩
    · dsimp only
      rw [haddr k hk]
      omega
    · dsimp only
      rw [haddr k hk, length_laneBytes hn]
      omega
  obtain ⟨y, hy, hlo, hhi, hbytes⟩ := hholds ({ pos := i, addr := a + BitVec.ofNat 64 (4 * i), len := 4 }, laneBytes n xs i)
    (List.mem_map_of_mem (List.mem_map_of_mem (mem_enabledLanes.2 ⟨hi, hg⟩)))
  obtain ⟨halign, hlen, hwrap⟩ := hfits y hy
  dsimp only at hlo hhi hbytes
  rw [length_laneBytes hn] at hhi hbytes
  obtain ⟨hpaddr, hplen⟩ := hwhole p hp
  have hbyte := hbytes j hj
  generalize (a + BitVec.ofNat 64 (4 * i)).toNat = z at *
  have hcut := mem_cutAt (ps := ps) (a := y.1.addr) (n := y.2.length) |>.2 ⟨p, hp, by omega, rfl⟩
  have hx : _ ∈ storeCuts ps (storeSegs a g n xs) := List.mem_flatMap.2 ⟨_, List.mem_map_of_mem hy, List.mem_map_of_mem hcut⟩
  refine ⟨_, hx, max p.addr.toNat y.1.addr.toNat, rfl, ?_, Nat.le_max_left _ _, ?_, by omega, ?_, ?_⟩ <;> dsimp only
  · rw [List.length_take, List.length_drop]
    omega
  · rw [List.length_take, List.length_drop]
    omega
  · rw [List.length_take, List.length_drop]
    omega
  · rw [List.getD_eq_getElem?_getD, List.getElem?_take_of_lt (by omega), List.getElem?_drop, ← List.getD_eq_getElem?_getD, ← hbyte]
    congr 1
    omega

theorem xredKind_width_of_wf {w : FormM} (h : (Instr.xredv w).wf = true) : (xredKind w.mod.toNat).2 = 2 ∨ (xredKind w.mod.toNat).2 = 4 := by
  have hcode : ([1, 4, 5, 9, 10, 11].contains w.mod.toNat) = false := by
    simp only [Instr.wf, Bool.and_eq_true, Bool.not_eq_true'] at h
    exact h.2
  generalize w.mod.toNat = code at hcode
  unfold xredKind
  split <;> first | exact Or.inl rfl | exact Or.inr rfl | exact absurd hcode (by decide)

section
variable {w : FormM} {s : State} {c : Ctx} {g b : Word} {n : Nat} {code : Option Nat} {xs : List Nat} (hI : Issues s c w.h [w.data, w.base] g)
  (hf : Falls s c) (hb : readVal c w.base = .ok b) (hx : storeElemsOf c code (8 * n) w.data = .ok xs) {i : Instr} (hi : exec i s = runXstorev s w n code)
include hI hf hb hx hi

/-- A vector store that enables no lane only empties the latch. -/
theorem runXstorev_none (hg : g = 0) : Completes i s c w.h s c.clearLatch := by
  have hnone : vectorPieces s c (memAddr b w.off) g n true (c.slackOf w.slack.toNat) = .ok [] := by
    rw [vectorPieces, laneSpan_of_none (by rw [hg]; decide)]
  rw [Completes, hi, runXstorev]
  refine ins_ok hI hf (by simp) ?_
  rw [try_bind_of_ok hx, try_bind_of_ok hb]
  exact (try_bind_of_ok hnone _).trans rfl

theorem runXstorev_of_pieces {ps : List Piece} (hps : vectorPieces s c (b + w.off.signExtend 64) g n true (c.slackOf w.slack.toNat) = .ok ps)
    (hsome : ps.isEmpty = false) {t : State} {tok : Token}
    (hissue : issueStore s c ps (storeSegs (b + w.off.signExtend 64) g n xs) (code.map xredKind) (c.slackOf w.slack.toNat) (b + w.off.signExtend 64) g =
      (t, (t.keptImage c).await tok)) :
    Completes i s c w.h t { t.keptImage c with outstanding := c.outstanding ++ [tok], latch := .empty, latchTok := none } := by
  have hrun : Completes i s c w.h (issueStore s c ps (storeSegs (b + w.off.signExtend 64) g n xs) (code.map xredKind) (c.slackOf w.slack.toNat)
      (b + w.off.signExtend 64) g).1 (issueStore s c ps (storeSegs (b + w.off.signExtend 64) g n xs) (code.map xredKind) (c.slackOf w.slack.toNat)
      (b + w.off.signExtend 64) g).2.clearLatch := by
    rw [Completes, hi, runXstorev]
    refine ins_ok hI hf (by simp) ?_
    rw [try_bind_of_ok hx, try_bind_of_ok hb]
    refine (try_bind_of_ok hps _).trans ?_
    rw [hsome, if_neg Bool.false_ne_true]
    rfl
  rwa [hissue] at hrun

theorem sends_vector (hn : n = 2 ∨ n = 4) (hwidth : ∀ m, code = some m → (xredKind m).2 = n) (l u : Nat) (ps : List Piece) (hspan : LaneSpan g l u) :
    let a := b + w.off.signExtend 64
    let kind := code.map fun m => (xredKind m).1
    let f := a + BitVec.ofNat 64 (4 * l)
    let m := 4 * (u + 1 - l)
    Reach s c f m n true (c.slackOf w.slack.toNat) ps → s.heldBack c (spanAt c.key.tile (s.fromHome c f) m) true = false →
    ∃ t tok new, Sent i s c w.h tok t new ∧ ((∀ p ∈ ps, p.leaf = none) → (∀ e ∈ s.ctxs, e.frozen = none) → t.ctxs = s.ctxs) ∧
      ((∀ p ∈ ps, p.addr.toNat % 4 = 0 ∧ p.len % 4 = 0) → ∀ p ∈ ps, p.peer = none →
        (∀ j, j < p.len → s.isRecordByte (p.key + j) = false ∧ isPlate (p.key + j) = false) →
        ∀ i j, i < 64 → j < 4 → g.getLsbD i = true → let y := (a + BitVec.ofNat 64 (4 * i)).toNat + j
          p.addr.toNat ≤ y → y < p.addr.toNat + p.len →
          ∃ e ∈ new, HoldsByte kind (p.key + (y - p.addr.toNat)) ((bytesOf n (xs.getD ((4 * i + j) / n) 0)).getD (j % n) 0) e) := by
  intro a kind f m hreach hheld
  have hm : 0 < m := by
    have := hspan.2.2 l hspan.1
    omega
  obtain ⟨halong, hend⟩ := along_of_reach hreach hm
  have hsome : ps.isEmpty = false := by
    cases ps with
    | nil => exact absurd halong (Nat.pos_iff_ne_zero.1 hm)
    | cons p r => rfl
  have hps : vectorPieces s c a g n true (c.slackOf w.slack.toNat) = .ok ps := by
    rw [vectorPieces, laneSpan_eq hspan]
    refine (try_bind_of_ok (accessPieces_of_reach hreach l) _).trans ?_
    exact (try_bind_of_ok (waitFree_of_notHeld hheld) _).trans rfl
  obtain ⟨t, tok, new, hissue, hstaged, hmine, hbad, hnone, hctxs, hnew⟩ :=
    issueStore_stages s c ps (storeSegs a g n xs) (code.map xredKind) (c.slackOf w.slack.toNat) a g
  refine ⟨t, tok, new, ⟨runXstorev_of_pieces hI hf hb hx hi hps hsome hissue, hstaged, hmine, hbad, hnone⟩,
    fun hl => hctxs (List.filterMap_eq_nil_iff.2 hl), fun hwhole p hp hpeer hclear i j hi hj hg => ?_⟩
  intro y h1 h2
  obtain ⟨x, hxmem, lo, hpart, hdvd, hlo, hhi, h3, h4, hbyte⟩ := mem_storeCuts_of_lane hn hspan rfl halong hend hwhole hp hi hj hg h1 h2 (xs := xs)
  have hkey : x.1.key = p.key + (lo - p.addr.toNat) := by rw [hpart]
  have hxpeer : x.1.peer = none := by
    rw [hpart]
    exact peer_part p _ _ _ hpeer
  have hkind : kind = (code.map xredKind).map Prod.fst := by rw [Option.map_map]; rfl
  rw [hkind, ← getD_laneBytes hn _ _ hj, ← hbyte, show p.key + (y - p.addr.toNat) = x.1.key + (y - lo) by omega]
  refine holds_placedStore hnew hxmem hxpeer (fun o ho => ?_) (fun kd width h => ?_) (by omega)
  · rw [hkey, Nat.add_assoc]
    exact hclear _ (by omega)
  · obtain ⟨k, hk, hkk⟩ := Option.map_eq_some_iff.1 h
    obtain rfl : width = n := by rw [← hwidth k hk, hkk]
    exact ⟨by omega, Dvd.dvd.trans (by rcases hn with rfl | rfl <;> decide) hdvd⟩

end

/-! ### Constants -/

/-- The format of the elements of a floating-point reduction code (R246). -/
def redFmt (code : Nat) : Fmt := if code = 0x0D then bf16 else if code = 0x0E then fp16 else fp32

/-- A finite value that is an integer. -/
def isInt (v : FV) (k : Int) : Bool :=
  match v with
  | .num n m e => if 0 ≤ e then (if n then -1 else 1) * (m : Int) * 2 ^ e.toNat == k else (if n then -1 else 1) * (m : Int) == k * 2 ^ (-e).toNat
  | _ => false

theorem rat_of_isInt {v : FV} {k : Int} (h : isInt v k = true) : FV.finite v = true ∧ FV.rat v = (k : ℚ) := by
  cases v with
  | num n m e =>
    refine ⟨rfl, ?_⟩
    unfold isInt at h
    dsimp only at h
    have hsign : (if n = true then (-1 : ℚ) else 1) = ((if n = true then (-1 : Int) else 1 : Int) : ℚ) := by cases n <;> simp
    rw [FV.rat, hsign]
    by_cases he : 0 ≤ e
    · obtain ⟨x, rfl⟩ := Int.eq_ofNat_of_zero_le he
      rw [if_pos he, beq_iff_eq] at h
      rw [← h]
      push_cast
      simp
    · obtain ⟨x, hx⟩ := Int.eq_ofNat_of_zero_le (by omega : 0 ≤ -e)
      obtain rfl : e = -(x : Int) := by omega
      rw [if_neg he, beq_iff_eq] at h
      have hpow : ((2 : ℚ) ^ x) ≠ 0 := by positivity
      have hq : (((if n = true then (-1 : Int) else 1) * (m : Int) : Int) : ℚ) = ((k * 2 ^ x : Int) : ℚ) := by
        rw [h]
        simp
      rw [zpow_neg, zpow_natCast, mul_inv_eq_iff_eq_mul₀ hpow]
      exact_mod_cast hq
  | inf n => cases h
  | nan q => cases h

theorem redConst_float : ∀ f ∈ [bf16, fp16, fp32], ∀ k : BitVec 8,
    (roundF f rne (ofIntV k.toInt)).1 < 2 ^ f.width ∧ isInt (decF f (roundF f rne (ofIntV k.toInt)).1) k.toInt = true := by
  decide +kernel

theorem redFmt_mem (code : Nat) : redFmt code ∈ [bf16, fp16, fp32] := by
  unfold redFmt
  split
  · decide
  · split <;> decide

theorem storeVal_const (c : Ctx) (code : Nat) (k : BitVec 8) : storeVal c (some code) (.const k) = .ok (BitVec.ofNat 64 (redConst code k)) := rfl

theorem storeElemsOf_const (c : Ctx) (code n : Nat) (k : BitVec 8) :
    storeElemsOf c (some code) n (.const k) = .ok (List.replicate (2048 / n) (redConst code k % 2 ^ n)) := rfl

/-- A small constant of a floating-point code is that number in the element's format. -/
theorem redConst_of_float {code : Nat} (h1 : 0x0C ≤ code) (h2 : code ≤ 0x10) (k : BitVec 8) : redConst code k < 2 ^ (redFmt code).width ∧
    FV.finite (decF (redFmt code) (redConst code k)) = true ∧ FV.rat (decF (redFmt code) (redConst code k)) = (k.toInt : ℚ) := by
  have heq : redConst code k = (roundF (redFmt code) rne (ofIntV k.toInt)).1 := if_pos ⟨h1, h2⟩
  obtain ⟨hlt, hint⟩ := redConst_float (redFmt code) (redFmt_mem code) k
  rw [heq]
  exact ⟨hlt, rat_of_isInt hint⟩

theorem redConst_of_int {code : Nat} (h : code < 0x0C) (k : BitVec 8) : redConst code k = (k.signExtend 64).toNat := if_neg (by omega)

theorem storeVal_other (c : Ctx) (code n : Nat) {o : Operand} (h : ∀ k, o ≠ .const k) :
    storeVal c (some code) o = readVal c o ∧ storeElemsOf c (some code) n o = readElems c n o := by
  cases o with
  | const k => exact absurd rfl (h k)
  | _ => exact ⟨rfl, rfl⟩

/-- Settles O24: the placing of the parts of a store adds writes to staging alone, among them every byte of it, and the requests that follow leave these. -/
theorem exchangeStores : Obligations.ExchangeStores := by
  refine ⟨⟨?_, ?_⟩, fun c code k => ?_⟩
  · intro w s c b x hF hb q hq p
    dsimp only
    intro hx hreach hheld
    simp only [List.mem_cons, List.not_mem_nil, or_false] at hq
    rcases hq with rfl | rfl
    · have hpos : 0 < 8 / 2 ^ (w.mod.toNat % 4) :=
        Nat.div_pos (Nat.pow_le_pow_right (by omega) (by omega : w.mod.toNat % 4 ≤ 3)) (by positivity)
      exact sends_store hF hb hx rfl hpos (fun m h => by cases h) hreach hheld
    · have hpos : 0 < (xredKind w.mod.toNat).2 := by
        have := xredKind_width w.mod.toNat
        simp only [List.mem_cons, List.not_mem_nil, or_false] at this
        omega
      exact sends_store hF hb hx rfl hpos (fun m h => by cases h; rfl) hreach hheld
  · intro w s c g b hI hf hb q hq xs hwf hx
    dsimp only
    simp only [List.mem_cons, List.not_mem_nil, or_false] at hq
    rcases hq with rfl | rfl
    · exact ⟨runXstorev_none hI hf hb hx rfl, fun l u ps hspan => sends_vector hI hf hb hx rfl (Or.inr rfl) (fun m h => by cases h) l u ps hspan⟩
    · exact ⟨runXstorev_none hI hf hb hx rfl, fun l u ps hspan => sends_vector hI hf hb hx rfl (xredKind_width_of_wf hwf) (fun m h => by cases h; rfl)
        l u ps hspan⟩
  · refine ⟨fun h1 h2 => ?_, fun h => ?_, fun o ho n => storeVal_other c code n ho⟩
    · obtain ⟨hlt, hfin, hrat⟩ := redConst_of_float h1 h2 k
      have hwidth : (redFmt code).width ≤ 64 := by
        have := redFmt_mem code
        simp only [List.mem_cons, List.not_mem_nil, or_false] at this
        rcases this with h | h | h <;> rw [h] <;> decide
      have hnat : (BitVec.ofNat 64 (redConst code k)).toNat = redConst code k := by
        rw [BitVec.toNat_ofNat, Nat.mod_eq_of_lt (hlt.trans_le (Nat.pow_le_pow_right (by omega) hwidth))]
      refine ⟨_, storeVal_const c code k, by rw [hnat]; exact hfin, by rw [hnat]; exact hrat, fun xs hxs => ?_⟩
      have hconst : List.replicate (2048 / (redFmt code).width) (redConst code k % 2 ^ (redFmt code).width) = xs := Except.ok.inj hxs
      rw [Nat.mod_eq_of_lt hlt] at hconst
      rw [hnat]
      exact hconst.symm
    · rw [storeVal_const, redConst_of_int h, BitVec.ofNat_toNat, BitVec.setWidth_eq]
      exact ⟨rfl, fun n => by rw [storeElemsOf_const, redConst_of_int h]⟩

end Sys2Proof.Claims
end

section
/-! PROOFS. Copies and the channel instructions (R217, R218, R235, R236). -/

namespace Sys2Proof.Machine

/-! ### Starting a copy -/

/-- Where an attempt answers, its answer has a property. -/
def Ensures {α : Type} (P : α → Prop) (x : Try α) : Prop := ∀ a, x = .ok a → P a

section
variable {α β : Type} {P : α → Prop}

theorem Ensures.ok {a : α} (h : P a) : Ensures P (.ok a) := fun _ he => Except.ok.inj he ▸ h

theorem Ensures.bind {x : Try β} {f : β → Try α} (h : ∀ b, Ensures P (f b)) : Ensures P (x >>= f) := fun a he => by
  obtain ⟨b, -, hb⟩ := try_bind_eq_ok he
  exact h b a hb

/-- A check in between, whatever it answers. -/
theorem Ensures.guard {p : Prop} [Decidable p] {x : Try PUnit} {f : PUnit → Try α} (h : ∀ u, Ensures P (f u)) :
    Ensures P (if p then x >>= f else f ()) := by
  split
  · exact Ensures.bind h
  · exact h ()

/-- A stall in between, which only the other case passes. -/
theorem Ensures.unless {p : Prop} [Decidable p] {s : State} {f : PUnit → Try α} (h : ¬p → Ensures P (f ())) :
    Ensures P (if p then stall s >>= f else f ()) := by
  split
  · intro a he
    cases he
  · exact h ‹_›

end

/-- The channel of a copy as it is started (R217). -/
def newCopy (s : State) (c : Ctx) (num word : Nat) (t : Template) : Channel :=
  { num := num, state := .active, owner := c.key.num, task := c.task, rank := c.rank, template := word % 64, copy := some t,
    nobc := bitAt word 7, quiet := bitAt word 6, image := some (s.fresh.2.image c), observed := c.observed, slack := t.slack, work := s.fresh.1,
    supervisor := c.supervisor }

/-- The state in which a copy has been started; one that makes no run is complete (R217, R232). -/
def startedCopy (s : State) (c : Ctx) (num word : Nat) (t : Template) (zero : Bool) : State :=
  let u := (s.fresh.2.setCtx c).updTile c.key.tile fun u => u.setChannel (newCopy s c num word t)
  if zero then completeCopy u c.key.tile (newCopy s c num word t) false else u

/-- What startCopy answers: the channel was free, and the context has it now (R216, R217). -/
def Started (s : State) (c : Ctx) (num word : Nat) (r : State × Ctx) : Prop :=
  ((s.tile c.key.tile).channel num).isFree = true ∧
    ∃ t zero, r = (startedCopy s c num word t zero, (startedCopy s c num word t zero).again c)

theorem ensures_startCopy (s : State) (c : Ctx) (num word : Nat) (src dst : Option Word) :
    Ensures (Started s c num word) (startCopy s c num word src dst) := by
  unfold startCopy
  extract_lets -underBinder tl ch jp0
  refine Ensures.guard fun _ => ?_
  unfold jp0
  extract_lets -underBinder jp1
  refine Ensures.unless fun hbusy => ?_
  have hfree : ch.isFree = true := by
    simp only [Bool.or_eq_true, not_or, Bool.not_eq_true, Bool.not_eq_false'] at hbusy
    exact hbusy.1
  unfold jp1
  refine Ensures.bind fun _ => ?_
  extract_lets -underBinder base
  refine Ensures.bind fun _ => Ensures.bind fun _ => ?_
  extract_lets -underBinder t0 t1
  clear_value t1
  refine Ensures.bind fun _ => ?_
  extract_lets -underBinder zero
  obtain ⟨sa, sn⟩ := t1.srcSide.span t1.extents t1.runLen
  obtain ⟨da, dn⟩ := t1.dstSide.span t1.extents t1.runLen
  dsimp -zeta only
  extract_lets -underBinder jp2
  refine Ensures.guard fun _ => ?_
  unfold jp2
  extract_lets -underBinder jp3
  have hjp3 : ∀ u, Ensures (Started s c num word) (jp3 u) := by
    intro u
    unfold jp3
    extract_lets -underBinder jp4
    have hjp4 : ∀ u, Ensures (Started s c num word) (jp4 u) := by
      intro u
      unfold jp4
      extract_lets -underBinder jp5
      have hjp5 : ∀ u, Ensures (Started s c num word) (jp5 u) := by
        intro u
        unfold jp5
        extract_lets -underBinder here t jp6
        have hjp6 : ∀ u, Ensures (Started s c num word) (jp6 u) := by
          intro u
          exact Ensures.ok ⟨hfree, t, zero, rfl⟩
        split
        · exact Ensures.unless fun _ => hjp6 ()
        · exact hjp6 ()
      split
      · exact Ensures.bind fun _ => Ensures.bind fun _ => Ensures.bind fun _ => Ensures.bind fun _ => Ensures.bind hjp5
      · exact hjp5 ()
    split
    · exact Ensures.bind fun _ => hjp4 ()
    · exact hjp4 ()
  split
  · exact Ensures.bind fun _ => Ensures.bind hjp3
  · exact hjp3 ()

/-- The channel of a started copy is its context's, also where it is complete at once. -/
theorem channel_startedCopy (s : State) (c : Ctx) (num word : Nat) (t : Template) (zero : Bool) :
    let ch := ((startedCopy s c num word t zero).tile c.key.tile).channel num
    ch.task = c.task ∧ ch.rank = c.rank ∧ ch.owner = c.key.num ∧ ch.template = word % 64 := by
  have hset : (((s.fresh.2.setCtx c).updTile c.key.tile fun u => u.setChannel (newCopy s c num word t)).tile c.key.tile).channel num =
      newCopy s c num word t := channel_updTile_setChannel _ c.key.tile (newCopy s c num word t)
  cases zero with
  | false =>
    have heq : startedCopy s c num word t false = (s.fresh.2.setCtx c).updTile c.key.tile fun u => u.setChannel (newCopy s c num word t) := rfl
    rw [heq, hset]
    exact ⟨rfl, rfl, rfl, rfl⟩
  | true =>
    have hdone := channel_completeCopy ((s.fresh.2.setCtx c).updTile c.key.tile fun u => u.setChannel (newCopy s c num word t)) c.key.tile
      (ch := newCopy s c num word t) (t := t) rfl false
    have heq : startedCopy s c num word t true =
      completeCopy ((s.fresh.2.setCtx c).updTile c.key.tile fun u => u.setChannel (newCopy s c num word t)) c.key.tile (newCopy s c num word t) false := rfl
    rw [heq]
    change Tile.channel _ (newCopy s c num word t).num = _ at hdone
    intro ch
    have hch : ch = (newCopy s c num word t).completed := hdone
    rw [hch]
    exact ⟨rfl, rfl, rfl, rfl⟩

end Sys2Proof.Machine

namespace Sys2Proof.Claims

open Sys2Proof Sys2Proof.Machine

/-! ### Starting and cancelling copies -/

/-- What startCopy answers is what its statement says (R216, R217). -/
theorem startCopy_ok {s t : State} {c d : Ctx} {n word : Nat} {src dst : Option Word} (h : startCopy s c n word src dst = .ok (t, d)) :
    ((s.tile c.key.tile).channel n).isFree = true ∧ ((t.tile c.key.tile).channel n).task = c.task ∧ ((t.tile c.key.tile).channel n).rank = c.rank ∧
      ((t.tile c.key.tile).channel n).owner = c.key.num ∧ ((t.tile c.key.tile).channel n).template = word % 64 := by
  obtain ⟨hfree, tm, zero, hr⟩ := ensures_startCopy s c n word src dst _ h
  obtain rfl : t = startedCopy s c n word tm zero := congrArg Prod.fst hr
  exact ⟨hfree, channel_startedCopy s c n word tm zero⟩

theorem completes_btx {w : FormM} {s t : State} {c d : Ctx} {b x : Word} (hF : Fires s c w.h [w.data, w.base]) (hx : readVal c w.data = .ok x)
    (hb : readVal c w.base = .ok b) :
    let a := b + w.off.signExtend 64
    let n := (a.toNat - 0x200000) / 4096
    0x200000 ≤ a.toNat → a.toNat < 0x210000 → a.toNat % 4096 = 0 → startCopy s c n (x.toNat % 2 ^ 32) none none = .ok (t, d) →
    Completes (.btx w) s c w.h t d.clearLatch := by
  intro a n hlo hhi halign hstart
  refine completes_of_uniform (exec_btx w s) hF (by simp) ?_
  rw [try_bind_of_ok hx, try_bind_of_ok hb]
  have hmapped : requireAt (decide (a.toNat < 0x108000) || (decide (0x200000 ≤ a.toNat) && decide (a.toNat < 0x211000))) fcUNMAPPED a = .ok () :=
    requireAt_of (by simp; omega)
  have hword : requireAt (a.toNat % 4 == 0) fcALIGN a = .ok () := requireAt_of (by simp; omega)
  have hplace : requireAt (decide (0x200000 ≤ a.toNat) && decide (a.toNat < 0x210000)) fcPROTECT a = .ok () := requireAt_of (by simp; omega)
  have hslot : requireAt ((a.toNat - 0x200000) % 4096 == 0) fcPROTECT a = .ok () := requireAt_of (by simp; omega)
  have hap : apertureStore s c a x.toNat = .ok (t, d) := by
    rw [apertureStore, try_bind_of_ok hslot]
    exact hstart
  refine (try_bind_of_ok hmapped _).trans ?_
  refine (try_bind_of_ok hword _).trans ?_
  refine (try_bind_of_ok hplace _).trans ?_
  exact (try_bind_of_ok hap _).trans rfl

/-- An operand that is read where a bit says so. -/
theorem optVal_bind {b : Bool} {c : Ctx} {o : Operand} {v : Option Word} (h : if b then ∃ x, readVal c o = .ok x ∧ v = some x else v = none) {β : Type}
    (k : Option Word → Try β) : (if b = true then (do let x ← readVal c o; return some x) >>= k else pure none >>= k) = k v := by
  cases b with
  | true =>
    obtain ⟨x, hx, rfl⟩ := h
    rw [if_pos rfl, try_bind_of_ok hx]
    rfl
  | false =>
    obtain rfl : v = none := h
    rfl

theorem completes_btxa {w : FormX} {s t : State} {c d : Ctx} {x : Word} {src dst : Option Word}
    (hF : Fires s c w.h ([w.a] ++ (if w.sub.getLsbD 0 then [w.b] else []) ++ (if w.sub.getLsbD 1 then [w.c] else []))) (hx : readVal c w.a = .ok x)
    (hsrc : if w.sub.getLsbD 0 then ∃ v, readVal c w.b = .ok v ∧ src = some v else src = none)
    (hdst : if w.sub.getLsbD 1 then ∃ v, readVal c w.c = .ok v ∧ dst = some v else dst = none) (hlt : x.toNat < 4096)
    (hstart : startCopy s c (x.toNat / 256) (x.toNat % 256) src dst = .ok (t, d)) : Completes (.btxa w) s c w.h t d.clearLatch := by
  have hzero : require (bitsOf x.toNat 63 12 == 0) fcTEMPLATE = .ok () := require_of (beq_iff_eq.2 (by
    rw [bitsOf_eq]
    omega))
  have hnum : bitsOf x.toNat 11 8 = x.toNat / 256 := by
    rw [bitsOf_eq]
    omega
  rw [← hnum] at hstart
  rw [Completes, exec_btxa, execBtxa]
  refine uni_ok hF (by simp) ?_
  rw [try_bind_of_ok hx]
  extract_lets -underBinder next
  refine (optVal_bind hsrc next).trans ?_
  unfold next
  extract_lets -underBinder last
  refine (optVal_bind hdst last).trans ?_
  refine (try_bind_of_ok hzero _).trans ?_
  exact (try_bind_of_ok hstart _).trans rfl

/-- The record of a channel whose copy has been cancelled (R236). -/
def Channel.cancelled (ch : Channel) : Channel := { ch with state := .cancelled, image := none, pages := [], gather := none, fault := 0 }

/-- The state in which a copy on its channel has been cancelled (R236). -/
def cancelledCopy (s : State) (c : Ctx) (ch : Channel) : State :=
  let u := s.updTile c.key.tile fun t =>
    let kept := { t with pausedCopies := t.pausedCopies.filter fun p => p != ch }
    if ch.state = .paused && !(t.channel ch.num).isFree then kept else kept.setChannel (Channel.cancelled ch)
  (((flushGather u c ch).1.endRequests ch.work fun _ => true).dropPackets (.copy ch.work)).forgetSeeker (.work ch.work)

theorem forgetSeeker_keeps {β : Type} {f : State → β} (hf : Quiet f) (s : State) (who : Seeker) : f (s.forgetSeeker who) = f s := by
  unfold State.forgetSeeker
  split
  · rfl
  · exact hf.xlat s s.seq _

/-- The cancelling of a copy changes its tile, packets, requests and walks alone. -/
theorem cancelledCopy_keeps {β : Type} {f : State → β} (hf : Quiet f) (hpackets : ∀ s o, f (State.dropPackets s o) = f s)
    (htile : ∀ s t, f (State.setTile s t) = f s) (s : State) (c : Ctx) (ch : Channel) : f (cancelledCopy s c ch) = f s := by
  unfold cancelledCopy
  extract_lets u
  refine (forgetSeeker_keeps hf _ _).trans ((hpackets _ _).trans ((endRequests_keeps _ _ _ f hpackets fun s x => hf.fab s s.seq x).trans ?_))
  refine Eq.trans ?_ (htile s _ : f u = f s)
  unfold flushGather
  split
  · exact hf.sendRequest _ _ _ _ _ _ _ _ _ _ _ _ _
  · rfl

theorem setTile_keeps {β : Type} {f : State → β} (h : ∀ s l, f { s with tiles := l } = f s) (s : State) (t : Tile) : f (s.setTile t) = f s := by
  unfold State.setTile
  split <;> exact h _ _

/-- The tile of a copy that has been cancelled on its channel. -/
def cancelIn (ch : Channel) (t : Tile) : Tile := ({ t with pausedCopies := t.pausedCopies.filter fun p => p != ch } : Tile).setChannel (Channel.cancelled ch)

theorem channel_cancelledCopy {s : State} {c : Ctx} {ch : Channel} (hstate : ch.state = .active) :
    ((cancelledCopy s c ch).tile c.key.tile).channel ch.num = Channel.cancelled ch := by
  have htiles : (cancelledCopy s c ch).tiles = (s.updTile c.key.tile (cancelIn ch)).tiles := by
    unfold cancelledCopy
    extract_lets u
    have hu : u = s.updTile c.key.tile (cancelIn ch) := by
      unfold u
      rw [hstate]
      rfl
    rw [← hu]
    refine (forgetSeeker_keeps quiet_tiles _ _).trans ((endRequests_keeps _ _ _ State.tiles (fun _ _ => rfl) fun _ _ => rfl).trans ?_)
    unfold flushGather
    split
    · exact quiet_tiles.sendRequest _ _ _ _ _ _ _ _ _ _ _ _ _
    · rfl
  rw [tile_of_tiles htiles, tile_updTile s (f := cancelIn ch) _ fun t => setChannel_num _ _]
  exact channel_setChannel _ (Channel.cancelled ch)

section
variable {w : FormX} {s : State} {c : Ctx} {n : Nat} (hF : Fires s c w.h [w.a]) (hn : namedChannel s c w.a true = .ok n)
include hF hn

theorem completes_btcan_free (hfree : (s.channelFor c n).isFree = true) : Completes (.btcan w) s c w.h s c.clearLatch := by
  refine completes_of_uniform (exec_btcan w s) hF (by simp) ?_
  rw [try_bind_of_ok hn]
  exact if_pos hfree

theorem completes_btcan_active (hfor : s.channelFor c n = (s.tile c.key.tile).channel n) (hnum : ((s.tile c.key.tile).channel n).num = n)
    (hstate : ((s.tile c.key.tile).channel n).state = .active) :
    Completes (.btcan w) s c w.h (cancelledCopy s c ((s.tile c.key.tile).channel n)) c.clearLatch := by
  refine completes_of_uniform (exec_btcan w s) hF (by simp) ?_
  rw [try_bind_of_ok hn]
  have hbusy : ((s.tile c.key.tile).channel n).isFree = false := by
    rw [Channel.isFree, hstate]
    rfl
  generalize hch : (s.tile c.key.tile).channel n = ch at *
  subst hnum
  rw [hfor]
  exact (if_neg (by simp [hbusy])).trans rfl

end

/-- Settles O19: what startCopy answers has the context's channel, and the channel instructions read or change the channel that their operand names. -/
theorem copiesAndChannels : Obligations.CopiesAndChannels := by
  refine ⟨⟨?_, ?_⟩, fun w s c c' n => ⟨fun hF hn hg hw => ?_, fun hF hn hg hw => ?_, fun hF hn hp hg => ⟨fun hall hfree => ?_, fun hall x hx hend => ?_⟩,
    fun hF hn => ⟨completes_btcan_free hF hn, fun hfor hnum hstate _ => ?_⟩⟩⟩
  · intro w s t c d b x hF hx hb a n hlo hhi halign hstart
    obtain ⟨hfree, htask, hrank, howner, htemplate⟩ := startCopy_ok hstart
    exact ⟨completes_btx hF hx hb hlo hhi halign hstart, hfree, htask, hrank, howner, by rw [htemplate]; omega⟩
  · intro w s t c d x src dst hF hx hsrc hdst hlt hstart
    exact ⟨completes_btxa hF hx hsrc hdst hlt hstart, (startCopy_ok hstart).1⟩
  · refine completes_of_uniform (exec_btwm w s) hF (by simp) ?_
    rw [try_bind_of_ok hn]
    exact (try_bind_of_ok hg _).trans ((try_bind_of_ok hw _).trans rfl)
  · refine completes_of_uniform (exec_btstat w s) hF (by simp) ?_
    rw [try_bind_of_ok hn]
    exact (try_bind_of_ok hg _).trans ((try_bind_of_ok hw _).trans rfl)
  · rw [CompletesPark, exec_btwait, execBtwait]
    refine uni_ok hF (by simp) ?_
    rw [try_bind_of_ok hn, hall]
    refine (try_bind_of_ok rfl _).trans ?_
    refine (try_bind_of_ok hp _).trans ((try_bind_of_ok hg _).trans ?_)
    exact if_pos (by rw [hfree]; rfl)
  · rw [CompletesPark, exec_btwait, execBtwait]
    refine uni_ok hF (by simp) ?_
    rw [try_bind_of_ok hn, hall]
    refine (try_bind_of_ok hx _).trans ?_
    refine (try_bind_of_ok hp _).trans ((try_bind_of_ok hg _).trans ?_)
    exact if_pos (by simpa using hend)
  · refine ⟨_, ?_, ?_, ?_, ?_, completes_btcan_active hF hn hfor hnum hstate⟩
    · have h := channel_cancelledCopy (c := c) (s := s) hstate
      rw [hnum] at h
      rw [h]
      rfl
    · exact cancelledCopy_keeps quiet_mem (fun _ _ => rfl) (setTile_keeps fun _ _ => rfl) _ _ _
    · exact cancelledCopy_keeps quiet_staged (fun _ _ => rfl) (setTile_keeps fun _ _ => rfl) _ _ _
    · exact cancelledCopy_keeps quiet_ctxs (fun _ _ => rfl) (setTile_keeps fun _ _ => rfl) _ _ _

end Sys2Proof.Claims
end

section
/-! PROOFS. What the operations of the state leave in memory (R5). -/

namespace Sys2Proof.Machine

open Sys2Proof

@[simp] theorem State.noteBarrier_mem (s : State) (a vc flits : Nat) : (s.noteBarrier a vc flits).mem = s.mem := by
  unfold State.noteBarrier
  split <;> simp

@[simp] theorem State.setPort_mem (s : State) (p : Port) : (s.setPort p).mem = s.mem := by
  unfold State.setPort
  simp

@[simp] theorem State.setLink_mem (s : State) (l : PairLink) : (s.setLink l).mem = s.mem := by
  unfold State.setLink
  simp

@[simp] theorem State.enterPort_mem (s : State) (id : Nat) : (s.enterPort id).mem = s.mem := by
  unfold State.enterPort
  simp
  (repeat' split) <;> simp

@[simp] theorem State.arrive_mem (s : State) (o : Owner) : (s.arrive o).mem = s.mem := by
  unfold State.arrive
  split <;> simp

@[simp] theorem State.grant_mem (s : State) (a : Nat) (p : Packet) : (s.grant a p).mem = s.mem := by
  unfold State.grant
  simp

@[simp] theorem State.sendAfter_mem (s : State) (dst vc slack : Nat) (overdue : Bool) (bytes : Nat) (x : Content) :
    (s.sendAfter dst vc slack overdue bytes x).mem = s.mem := by
  unfold State.sendAfter
  simp

@[simp] theorem State.sendFrom_mem (s : State) (tile num mesh dst vc slack : Nat) (overdue : Bool) (bytes : Nat) (x : Content) :
    (s.sendFrom tile num mesh dst vc slack overdue bytes x).mem = s.mem := by
  unfold State.sendFrom
  simp

@[simp] theorem State.sendReq_mem (s : State) (k : CtxKey) (slack : Nat) (r : PeerReq) (dst : Nat) : (s.sendReq k slack r dst).mem = s.mem := by
  unfold State.sendReq
  simp

@[simp] theorem State.resend_mem (s : State) (slack : Option Nat) (which : RemoteReq → Bool) : (s.resend slack which).mem = s.mem := by
  unfold State.resend
  exact foldl_keeps State.mem _ (fun _ _ => by simp) _

@[simp] theorem State.cacheLeaf_mem (s : State) (tile : Nat) (e : Leaf) : (s.cacheLeaf tile e).mem = s.mem := by
  unfold State.cacheLeaf
  simp

@[simp] theorem State.keepWalker_mem (s : State) (w : Walk) (x : Nat) : (s.keepWalker w x).mem = s.mem := by
  unfold State.keepWalker
  simp

@[simp] theorem State.goWalk_mem (n : Nat) (s : State) (w : Walk) : (s.goWalk n w).mem = s.mem := (goWalk_keeps n s w).2

@[simp] theorem State.startWalk_mem (s : State) (w : Walk) : (s.startWalk w).mem = s.mem := by
  unfold State.startWalk
  simp

@[simp] theorem State.joinWalk_mem (s : State) (who : Seeker) (tile page slack : Nat) (overdue : Bool) :
    (s.joinWalk who tile page slack overdue).mem = s.mem := by
  unfold State.joinWalk
  simp
  (repeat' split) <;> simp

@[simp] theorem State.nextWalk_mem (s : State) (die : Nat) : (s.nextWalk die).mem = s.mem := by
  unfold State.nextWalk
  split <;> simp

@[simp] theorem State.touch_mem (s : State) (tile slack : Nat) (e : Leaf) : (s.touch tile slack e).mem = s.mem := by
  unfold State.touch
  split <;> simp

@[simp] theorem State.replaceStaged_mem (s : State) (seqs : List Nat) : (s.replaceStaged seqs).mem = s.mem := by
  unfold State.replaceStaged
  refine foldl_keeps State.mem _ (fun s q => ?_) s
  split <;> rfl

@[simp] theorem State.replay_mem (s : State) (c : Ctx) (at_ : Word) : (s.replay c at_).mem = s.mem := by
  unfold State.replay
  simp

@[simp] theorem State.postRecord_mem (s : State) (tile : Nat) (bytes : List Byte) (ctx : Option CtxKey) : (s.postRecord tile bytes ctx).mem = s.mem := by
  unfold State.postRecord
  simp

@[simp] theorem State.postMade_mem (s : State) (m : Option Maker) (detail : Nat) : (s.postMade m detail).mem = s.mem := by
  unfold State.postMade
  simp

@[simp] theorem State.forward_mem (s : State) (c : Ctx) (f : FwdWord) : (s.forward c f).mem = s.mem := by
  unfold State.forward
  simp

@[simp] theorem State.takeFault_mem (s : State) (c : Ctx) (t : Trap) : (s.takeFault c t).mem = s.mem := by
  unfold State.takeFault
  simp
  split <;> simp

@[simp] theorem State.dueFault_mem (s : State) (c : Ctx) (t : Trap) : (s.dueFault c t).mem = s.mem := by
  unfold State.dueFault
  split <;> simp

@[simp] theorem State.resumePark_mem (s : State) (c : Ctx) : (s.resumePark c).mem = s.mem := by
  unfold State.resumePark
  split <;> simp

@[simp] theorem State.requestFetch_mem (s : State) (c : Ctx) (a : Word) (e : Leaf) : (s.requestFetch c a e).mem = s.mem := by
  unfold State.requestFetch
  split <;> simp

@[simp] theorem State.enterDirect_mem (s : State) (e : Staged) : (s.enterDirect e).mem = s.mem := by
  unfold State.enterDirect
  simp

@[simp] theorem State.countWrite_mem (s : State) (c : Ctx) (peer : Nat) : (s.countWrite c peer).mem = s.mem := by
  unfold State.countWrite
  simp

@[simp] theorem State.sendRequest_mem (s : State) (c : Ctx) (id : Nat) (channel : Option Nat) (peer phys : Nat) (addr : Word) (len : Nat) (kind : PeerKind)
    (data : List Byte) (slack : Nat) (overdue : Bool) (fill : Option Nat) :
    (s.sendRequest c id channel peer phys addr len kind data slack overdue fill).mem = s.mem :=
  Claims.quiet_mem.sendRequest s c id channel peer phys addr len kind data slack overdue fill

@[simp] theorem State.notePeerWrite_mem (s : State) (peer phys n : Nat) : (s.notePeerWrite peer phys n).mem = s.mem := by
  unfold State.notePeerWrite
  simp

@[simp] theorem State.updOwner_mem (s : State) (task rank : Nat) (f : Ctx → Ctx) : (s.updOwner task rank f).mem = s.mem := by
  unfold State.updOwner
  simp

@[simp] theorem State.sendFsend_mem (s : State) (m : Fsend) : (s.sendFsend m).mem = s.mem := by
  unfold State.sendFsend
  simp

@[simp] theorem State.sendBd_mem (s : State) (k : CtxKey) (m : BdCmd) : (s.sendBd k m).mem = s.mem := by
  unfold State.sendBd
  exact foldl_keeps State.mem _ (fun _ _ => by simp) _

@[simp] theorem State.restartWork_mem (s : State) (c : Ctx) (w : WorkRef) : (s.restartWork c w).mem = s.mem := by
  unfold State.restartWork
  split
  · simp
  · exact foldl_keeps State.mem _ (fun _ _ => by simp) _
  · dsimp only
    split <;> simp
  · rfl

@[simp] theorem State.sendArrival_mem (s : State) (rec amount work : Nat) (post : Option CtxKey) : (s.sendArrival rec amount work post).mem = s.mem := by
  unfold State.sendArrival
  simp

@[simp] theorem State.askPiece_mem (s : State) (c : Ctx) (id : Nat) (channel : Option Nat) (slack : Nat) (overdue : Bool) (p : Piece) :
    (s.askPiece c id channel slack overdue p).mem = s.mem := Claims.quiet_mem.askPiece s c id channel slack overdue p

@[simp] theorem sendGathered_mem (s : State) (c : Ctx) (ch : Channel) (g : Gather) : (sendGathered s c ch g).mem = s.mem := by
  unfold sendGathered
  simp

@[simp] theorem sendRun_mem (s : State) (c : Ctx) (ch : Channel) (src dst : List Piece) : (sendRun s c ch src dst).mem = s.mem := by
  unfold sendRun
  extract_lets units x u
  exact (foldl_keeps State.mem _ (fun _ _ => by simp) u).trans (foldl_keeps State.mem _ (fun _ _ => by simp) s)

@[simp] theorem State.countDelivery_mem (s : State) (key work : Nat) : (s.countDelivery key work).mem = s.mem := by
  unfold State.countDelivery
  simp

@[simp] theorem State.sendAccess_mem (s : State) (c : Ctx) (id : Nat) (ps : List Piece) (write : Bool) (slack : Nat) :
    (s.sendAccess c id ps write slack).mem = s.mem := by
  unfold State.sendAccess
  exact foldl_keeps State.mem _ (fun _ _ => by simp) _

@[simp] theorem State.askFor_mem (s : State) (c : Ctx) (id : Nat) (ps : List Piece) (slack : Nat) : (s.askFor c id ps slack).mem = s.mem := by
  unfold State.askFor
  exact foldl_keeps State.mem _ (fun _ _ => by simp) _

@[simp] theorem flushGather_mem (s : State) (c : Ctx) (ch : Channel) : (flushGather s c ch).1.mem = s.mem := by
  unfold flushGather
  split <;> simp

@[simp] theorem gatherWrite_mem (s : State) (c : Ctx) (ch : Channel) (h : Gather) : (gatherWrite s c ch h).1.mem = s.mem := by
  unfold gatherWrite
  dsimp only
  (repeat' split) <;> simp

theorem reinstall_mem {s t : State} {tile num : Nat} (h : reinstall s tile num = some t) : t.mem = s.mem := by
  unfold reinstall at h
  dsimp only at h
  split at h
  · cases h
  · split at h
    · rw [← Option.some.inj h]
      simp
    · cases h

@[simp] theorem issueLoad_mem (s : State) (c : Ctx) (ps : List Piece) (slack : Nat) (a : Word) (fill : Token → List (Nat × Byte) → List Nat → Token) :
    (issueLoad s c ps slack a fill).1.mem = s.mem := Claims.quiet_mem.issueLoad s c ps slack a fill

@[simp] theorem State.cacheLines_mem (s : State) (ls : List PeerLine) : (s.cacheLines ls).mem = s.mem := by
  unfold State.cacheLines
  simp

@[simp] theorem State.replyLeg_mem (s : State) (num peer tile slack : Nat) (overdue : Bool) (bytes : Nat) :
    (s.replyLeg num peer tile slack overdue bytes).mem = s.mem := by
  unfold State.replyLeg
  simp

@[simp] theorem State.acceptToken_mem (s : State) (l : RouteList) (position : Nat) (overdue : Bool) : (s.acceptToken l position overdue).mem = s.mem := by
  unfold State.acceptToken
  simp
  split <;> simp

@[simp] theorem State.requestBad_mem (s : State) (q : RemoteReq) (code : Nat) : (s.requestBad q code).mem = s.mem := by
  unfold State.requestBad
  simp
  (repeat' split) <;> simp

@[simp] theorem State.fillLine_mem (s : State) (c : Ctx) (l : Nat) : (s.fillLine c l).mem = s.mem := by
  unfold State.fillLine
  simp
  split <;> simp

@[simp] theorem State.forwardRefused_mem (s : State) (c : Ctx) (w : Word) : (s.forwardRefused c w).mem = s.mem := by
  unfold State.forwardRefused
  split <;> simp

@[simp] theorem State.forwardTrap_mem (s : State) (c : Ctx) (w : Word) : (s.forwardTrap c w).mem = s.mem := by
  unfold State.forwardTrap
  simp

@[simp] theorem forwardIssue_mem (c : Ctx) (i : Instr) (w : Word) (t : State) : (forwardIssue c i w t).mem = t.mem := by
  unfold forwardIssue
  (repeat' split) <;> simp

@[simp] theorem State.updDomains_mem (s : State) (p : Domain → Bool) (f : Domain → Domain) : (s.updDomains p f).mem = s.mem := by
  unfold State.updDomains
  simp

@[simp] theorem State.recharge_mem (s : State) (q : Nat) : (s.recharge q).mem = s.mem := by
  unfold State.recharge
  split <;> simp

@[simp] theorem State.noteWrites_mem (s : State) (which : Staged → Bool) : (s.noteWrites which).mem = s.mem := by
  unfold State.noteWrites
  simp

@[simp] theorem State.noteCommit_mem (s : State) (d : Domain) : (s.noteCommit d).mem = s.mem := by
  unfold State.noteCommit
  simp

@[simp] theorem State.topStepEnd_mem (s : State) (task : Nat) : (s.topStepEnd task).mem = s.mem := by
  unfold State.topStepEnd
  simp

@[simp] theorem State.sendBarrier_mem (s : State) (o : Owner) (level src dst : Nat) : (s.sendBarrier o level src dst).mem = s.mem := by
  unfold State.sendBarrier
  split <;> simp

@[simp] theorem State.hearShare_mem (s : State) (d : Domain) (a : ShareNote) : (s.hearShare d a).mem = s.mem := by
  unfold State.hearShare
  split <;> simp

@[simp] theorem State.podBound_mem (s : State) (d : Domain) : (s.podBound d).mem = s.mem := by
  unfold State.podBound
  split
  · rfl
  · exact foldl_keeps State.mem _ (fun _ _ => by split <;> simp) _

@[simp] theorem State.dropLists_mem (s : State) (c : Ctx) : (s.dropLists c).mem = s.mem := by
  unfold State.dropLists
  simp

@[simp] theorem State.leave_mem (s : State) (c : Ctx) (how : Absence) : (s.leave c how).mem = s.mem := by
  unfold State.leave
  simp

@[simp] theorem State.postEvent_mem (s : State) (engine event rest : Nat) : (s.postEvent engine event rest).mem = s.mem := by
  unfold State.postEvent
  simp
  split <;> simp

@[simp] theorem State.setMask_mem (s : State) (p : Port) (new : Nat) : (s.setMask p new).mem = s.mem := by
  unfold State.setMask
  simp

@[simp] theorem State.postMask_mem (s : State) (port seq old new reporter event : Nat) : (s.postMask port seq old new reporter event).mem = s.mem := by
  unfold State.postMask
  simp

@[simp] theorem State.darkReport_mem (s : State) (port reporter dark : Nat) : (s.darkReport port reporter dark).mem = s.mem := by
  unfold State.darkReport
  simp
  split <;> simp

@[simp] theorem State.enablePort_mem (s : State) (port enable : Nat) : (s.enablePort port enable).mem = s.mem := by
  unfold State.enablePort
  simp
  split <;> simp

@[simp] theorem State.startLink_mem (s : State) (j : Nat) : (s.startLink j).mem = s.mem := by
  unfold State.startLink
  simp
  split <;> simp

@[simp] theorem State.hearConflict_mem (s : State) (x : Content) : (s.hearConflict x).mem = s.mem := by
  unfold State.hearConflict
  split <;> simp

@[simp] theorem State.dataFlit_mem (s : State) (src : Nat) (l : PairLink) (f : Flit) : (s.dataFlit src l f).mem = s.mem := Claims.dataFlit_mem s src l f

@[simp] theorem State.markSent_mem (s : State) (overdue : Bool) (content : Option Content) : (s.markSent overdue content).mem = s.mem := by
  unfold State.markSent
  (repeat' split) <;> simp

@[simp] theorem State.sendFlits_mem (s : State) (l : PairLink) (mask n slack : Nat) (overdue : Bool) (content : Option Content) (relayed : Bool) :
    (s.sendFlits l mask n slack overdue content relayed).mem = s.mem := by
  unfold State.sendFlits
  simp

@[simp] theorem State.contribute_mem (s : State) (d : Domain) : (s.contribute d).mem = s.mem := by
  unfold State.contribute
  simp
  split <;> simp

@[simp] theorem State.countPeer_mem (s : State) (package rank domain : Nat) : (s.countPeer package rank domain).mem = s.mem := by
  unfold State.countPeer
  simp

@[simp] theorem State.bindUnits_mem (s : State) (t : Task) (o : Nat) (saved : List Domain) : (s.bindUnits t o saved).mem = s.mem := by
  unfold State.bindUnits
  exact foldl_keeps State.mem _ (fun _ _ => by simp) _

@[simp] theorem State.announceShare_mem (s : State) (t : Task) : (s.announceShare t).mem = s.mem := by
  unfold State.announceShare
  split
  · rfl
  · split
    · rfl
    · dsimp only
      split
      · simp
      · exact (foldl_keeps State.mem _ (fun _ _ => by simp) _).trans (by simp)

@[simp] theorem State.dispatchRecord_mem (s : State) (event : Nat) (t : Task) (tile : Nat) : (s.dispatchRecord event t tile).mem = s.mem := by
  unfold State.dispatchRecord
  simp

@[simp] theorem State.makeReady_mem (s : State) (task : Nat) : (s.makeReady task).mem = s.mem := by
  unfold State.makeReady
  simp

@[simp] theorem State.forgetRecords_mem (s : State) : (s.forgetRecords).mem = s.mem := by
  unfold State.forgetRecords
  simp

@[simp] theorem State.freeDomainsOf_mem (s : State) (n : Nat) : (s.freeDomainsOf n).mem = s.mem := by
  unfold State.freeDomainsOf
  simp

@[simp] theorem State.sendMessage_mem (s : State) (m : Msg) (src : Nat) : (s.sendMessage m src).mem = s.mem := by
  unfold State.sendMessage
  simp

@[simp] theorem State.defer_mem (s : State) (c : Ctx) (what : Deferred) : (s.defer c what).mem = s.mem := by
  unfold State.defer
  simp

@[simp] theorem State.stopTile_mem (s : State) (task tile : Nat) : (s.stopTile task tile).mem = s.mem := by
  unfold State.stopTile
  simp
  exact foldl_keeps State.mem _ (fun _ _ => by simp) _

@[simp] theorem State.stopped_mem (s : State) (n : Nat) : (s.stopped n).mem = s.mem := by
  unfold State.stopped
  simp

@[simp] theorem State.dropWork_mem (s : State) (mine : Nat → Nat → Bool) : (s.dropWork mine).mem = s.mem := by
  unfold State.dropWork
  exact foldl_keeps State.mem _ (fun _ _ => by simp) _

@[simp] theorem State.dropDeferred_mem (s : State) (n : Nat) : (s.dropDeferred n).mem = s.mem := by
  unfold State.dropDeferred
  simp

@[simp] theorem State.stopNow_mem (s : State) (t : Task) : (s.stopNow t).mem = s.mem := by
  unfold State.stopNow
  exact foldl_keeps State.mem _ (fun _ _ => by simp) _

@[simp] theorem State.rekey_mem (s : State) (old new : Ctx) : (s.rekey old new).mem = s.mem := by
  unfold State.rekey
  split <;> simp

@[simp] theorem State.tellUnplaceable_mem (s : State) : (s.tellUnplaceable).mem = s.mem := by
  unfold State.tellUnplaceable
  exact foldl_keeps State.mem _ (fun _ _ => by simp) _

@[simp] theorem State.retireTile_mem (s : State) (tile : Nat) : (s.retireTile tile).mem = s.mem := by
  unfold State.retireTile
  split <;> simp

theorem State.arrivalReached_mem {s t : State} {c : Ctx} (h : s.arrivalReached c = some t) : t.mem = s.mem := by
  unfold State.arrivalReached at h
  split at h
  · split at h
    · rw [← Option.some.inj h]
      simp
    · cases h
  · cases h

@[simp] theorem State.removeCtx_mem (s : State) (d : Ctx) : (s.removeCtx d).mem = s.mem := by
  have harrived : ((s.arrivalReached d).getD s).mem = s.mem := by
    cases h : s.arrivalReached d with
    | none => rfl
    | some t => exact State.arrivalReached_mem h
  unfold State.removeCtx
  simp [harrived]

@[simp] theorem State.notify_mem (s : State) (t : Touch) (thresh : Nat) : (s.notify t thresh).mem = s.mem := by
  unfold State.notify
  simp

@[simp] theorem State.pageRecord_mem (s : State) (event : Nat) (e : Leaf) (who : Option Maker) : (s.pageRecord event e who).mem = s.mem := by
  unfold State.pageRecord
  simp

@[simp] theorem State.updMigration_mem (s : State) (page : Nat) (f : Migration → Migration) : (s.updMigration page f).mem = s.mem := by
  unfold State.updMigration
  simp

@[simp] theorem State.sendLine_mem (s : State) (m : Migration) : (s.sendLine m).mem = s.mem := by
  unfold State.sendLine
  split <;> simp

@[simp] theorem State.sendInvalidation_mem (s : State) (c : Ctx) : (s.sendInvalidation c).mem = s.mem := by
  unfold State.sendInvalidation
  exact foldl_keeps State.mem _ (fun _ _ => by simp) _

@[simp] theorem startBd_mem (s : State) (c : Ctx) (q : BdPlan) : (startBd s c q).mem = s.mem := by
  unfold startBd
  rw [show s.fresh = (s.seq, s.fresh.2) from rfl]
  dsimp -zeta only
  extract_lets p subs reads m u v
  have hu : u.mem = s.mem := by
    refine (foldl_keeps State.mem _ (fun t r => ?_) _).trans (State.fresh_mem s)
    split <;> simp
  exact (State.sendBd_mem u c.key m).trans hu

@[simp] theorem State.setStackChan_mem (s : State) (x : StackChan) : (s.setStackChan x).mem = s.mem := by
  unfold State.setStackChan
  simp

@[simp] theorem State.updBd_mem (s : State) (id : Nat) (f : BdCmd → BdCmd) : (s.updBd id f).mem = s.mem := by
  unfold State.updBd
  simp

@[simp] theorem finishBd_mem (s : State) (c : Ctx) (m : BdCmd) (overdue : Bool) : (finishBd s c m overdue).mem = s.mem := by
  unfold finishBd
  (repeat' split) <;> simp

@[simp] theorem State.sendColl_mem (s : State) (m : Coll) (p : CollPacket) (node : Nat) : (s.sendColl m p node).mem = s.mem := by
  unfold State.sendColl
  split <;> simp

@[simp] theorem State.sendDown_mem (s : State) (m : Coll) (q : Nat) (xs : List Nat) : (s.sendDown m q xs).mem = s.mem := by
  unfold State.sendDown
  exact foldl_keeps State.mem _ (fun _ _ => by simp) _

@[simp] theorem State.setColl_mem (s : State) (m : Coll) : (s.setColl m).mem = s.mem := by
  unfold State.setColl
  simp

@[simp] theorem foldedChunk_mem (s : State) (m : Coll) (q : Nat) : (foldedChunk s m q).1.mem = s.mem := by
  unfold foldedChunk
  dsimp only
  split
  · rfl
  · split
    · split
      · rfl
      · dsimp only
        split <;> simp
    · split
      · rfl
      · simp

@[simp] theorem deliverOne_mem (s : State) (m : Coll) (p : CollPacket) : (deliverOne s m p).1.mem = s.mem := by
  unfold deliverOne
  dsimp only
  split <;> simp

@[simp] theorem advanceColl_mem (s : State) (m : Coll) : (advanceColl s m).1.mem = s.mem := by
  unfold advanceColl
  extract_lets down
  dsimp only
  refine (foldl_keeps (fun x : State × Coll => x.1.mem) _ (fun x q => ?_) _).trans (foldl_keeps (fun x : State × Coll => x.1.mem) _ (fun x p => ?_) _)
  · (repeat' split) <;> simp
  · simp

theorem State.offerColl_mem {s t : State} {m : Coll} {p : CollPacket} (h : s.offerColl m p = some t) : t.mem = s.mem := by
  unfold State.offerColl at h
  split at h
  · rw [← Option.some.inj h]
  · split at h
    · rw [← Option.some.inj h]
      simp
    · dsimp only at h
      split at h
      · rw [← Option.some.inj h]
        simp
      · cases h

@[simp] theorem State.takeEarly_mem (s : State) : s.takeEarly.mem = s.mem := by
  unfold State.takeEarly
  refine foldl_keeps State.mem _ (fun s p => ?_) s
  split
  · rfl
  · split
    · next h => exact (State.offerColl_mem h :)
    · rfl

@[simp] theorem State.setStagecfg_mem (s : State) (v : Nat) : (s.setStagecfg v).mem = s.mem := by
  unfold State.setStagecfg
  simp

@[simp] theorem State.setFport_mem (s : State) (port v w : Nat) (named : Bool) : (s.setFport port v w named).mem = s.mem := by
  unfold State.setFport
  (repeat' split) <;> simp

@[simp] theorem State.setPkgCsr_mem (s : State) (n v w : Nat) (named : Bool) : (s.setPkgCsr n v w named).mem = s.mem := by
  unfold State.setPkgCsr
  (repeat' split) <;> simp

@[simp] theorem finishReturn_mem (s : State) (c : Ctx) : (finishReturn s c).mem = s.mem := by
  unfold finishReturn
  simp

@[simp] theorem State.updHost_mem (s : State) (f : HostLink → HostLink) : (s.updHost f).mem = s.mem := by
  unfold State.updHost
  simp

@[simp] theorem State.countHost_mem (s : State) (at_ : Nat) : (s.countHost at_).mem = s.mem := by
  unfold State.countHost
  simp
  split <;> simp

@[simp] theorem State.setHoststat_mem (s : State) (half : Option Bool) (v : Word) : (s.setHoststat half v).mem = s.mem := by
  unfold State.setHoststat
  simp

@[simp] theorem State.setEvhead_mem (s : State) (v : Nat) : (s.setEvhead v).mem = s.mem := by
  unfold State.setEvhead
  simp

@[simp] theorem State.clearEvlost_mem (s : State) (v : Nat) : (s.clearEvlost v).mem = s.mem := by
  unfold State.clearEvlost
  simp

@[simp] theorem State.setFwctl_mem (s : State) (length : Nat) (verify raisemin : Bool) : (s.setFwctl length verify raisemin).mem = s.mem := by
  unfold State.setFwctl
  simp
  (repeat' split) <;> simp

@[simp] theorem State.checkReady_mem (s : State) : (s.checkReady).mem = s.mem := by
  unfold State.checkReady
  simp
  split <;> simp

@[simp] theorem State.startFirmware_mem (s : State) (fw : Firmware) : (s.startFirmware fw).mem = s.mem := by
  unfold State.startFirmware
  exact foldl_keeps State.mem _ (fun _ _ => by simp) _

@[simp] theorem State.setBrclr_mem (s : State) (v : Word) : (s.setBrclr v).mem = s.mem := by
  unfold State.setBrclr
  split <;> simp

@[simp] theorem State.setAttctl_mem (s : State) (v : Nat) : (s.setAttctl v).mem = s.mem := by
  unfold State.setAttctl
  split <;> simp

@[simp] theorem State.refillQueue_mem (s : State) (tile : Nat) : (s.refillQueue tile).mem = s.mem := by
  unfold State.refillQueue
  simp
  split <;> simp

@[simp] theorem State.sendToken_mem (s : State) (c : Ctx) (d : Domain) (slack : Nat) (t : RToken) : (s.sendToken c d slack t).mem = s.mem := by
  unfold State.sendToken
  simp
  (repeat' split) <;> simp

@[simp] theorem State.postDropped_mem (s : State) (d : Domain) (pkg page : Nat) (slot : Option Nat) : (s.postDropped d pkg page slot).mem = s.mem := by
  unfold State.postDropped
  simp

@[simp] theorem State.setAdmission_mem (s : State) (domain : Nat) (a : Option Admission) : (s.setAdmission domain a).mem = s.mem := by
  unfold State.setAdmission
  simp

@[simp] theorem State.noteBounced_mem (s : State) (ts : List RToken) : (s.noteBounced ts).mem = s.mem := by
  unfold State.noteBounced
  simp

@[simp] theorem State.tellRound_mem (s : State) (d : Domain) (a : Admission) (ts : Nat → List RToken) (second : Bool) :
    (s.tellRound d a ts second).mem = s.mem := by
  unfold State.tellRound
  exact foldl_keeps State.mem _ (fun _ _ => by simp) _

@[simp] theorem State.raiseRouting_mem (s : State) (slots : List Slot) : (s.raiseRouting slots).mem = s.mem := by
  unfold State.raiseRouting
  exact foldl_keeps State.mem _ (fun _ _ => by split <;> simp) _

@[simp] theorem State.pass_mem (s : State) (n : Nat) : (s.pass n).mem = s.mem := by
  unfold State.pass
  simp

@[simp] theorem afterIssue_mem (k : CtxKey) (c : Ctx) (i : Instr) (w : Word) (t : State) : (afterIssue k c i w t).mem = t.mem := by
  unfold afterIssue
  simp
  (repeat' split) <;> simp

theorem State.enterPeer_mem {s t : State} {e : Staged} (h : s.enterPeer e = some t) : t.mem = s.mem := by
  unfold State.enterPeer at h
  split at h
  · rw [← Option.some.inj h]
  · cases h

theorem State.portNext_mem {s t : State} {port : Nat} (h : s.portNext port = some t) : t.mem = s.mem := by
  unfold State.portNext at h
  split at h
  · cases h
  · dsimp only at h
    split at h
    · rw [← Option.some.inj h]
      simp
    · split at h
      · cases h
      · rw [← Option.some.inj h]
        simp
      · rw [← Option.some.inj h]
        simp

theorem foldlM_mem {α : Type} {f : State → α → Option State} (hf : ∀ s x t, f s x = some t → t.mem = s.mem) : ∀ {l : List α} {s t : State},
    l.foldlM f s = some t → t.mem = s.mem
  | [], s, t, h => by rw [← Option.some.inj h]
  | x :: l, s, t, h => by
    rw [List.foldlM_cons] at h
    obtain ⟨u, hu, h⟩ := Option.bind_eq_some_iff.1 h
    exact (foldlM_mem hf h).trans (hf s x u hu)

theorem State.servePeer_mem {s t : State} {r : PeerReq} (h : s.servePeer r = some t) : t.mem = s.mem := by
  unfold State.servePeer at h
  dsimp only at h
  split at h
  · split at h
    · rw [← Option.some.inj h]
      simp
    · cases h
  · split at h
    · cases h
    · split at h
      · cases h
      · split at h
        · split at h
          · cases h
          · rw [← Option.some.inj h]
            simp
        · split at h
          · cases h
          · split at h
            · rw [← Option.some.inj h]
              simp
            · split at h
              · next hu =>
                rw [← Option.some.inj h]
                simpa using foldlM_mem (fun s x t => State.enterPeer_mem) hu
              · rw [← Option.some.inj h]
                simp

theorem State.hostMessage_mem {s t : State} {offset : Nat} {data : List Byte} (h : s.hostMessage offset data = some t) : t.mem = s.mem := by
  unfold State.hostMessage at h
  split at h
  · rw [← Option.some.inj h]
    simp
  · split at h
    · rw [← Option.some.inj h]
      simp
    · dsimp only at h
      split at h
      · rw [← Option.some.inj h]
        simp
      · split at h
        · cases h
        · rw [← Option.some.inj h]
          simp

@[simp] theorem State.submit_mem (s : State) (a : Word) (tid : BitVec 32) (b : Block) (holder : Option Holder) : (s.submit a tid b holder).2.mem = s.mem := rfl

@[simp] theorem queueCmd_mem (s : State) (c : Ctx) (m : MxCmd) : (queueCmd s c m).1.mem = s.mem := by
  unfold queueCmd
  simp

end Sys2Proof.Machine
end

section
/-! PROOFS. The operations of the state that write memory keep its canonical form (R5). -/

namespace Sys2Proof.Machine

open Sys2Proof

/-! ### Folds -/

theorem wf_foldl_state {α : Type} {f : State → α → State} (hf : ∀ s x, s.mem.wf = true → (f s x).mem.wf = true) {l : List α} {s : State}
    (h : s.mem.wf = true) : (l.foldl f s).mem.wf = true := by
  induction l generalizing s with
  | nil => exact h
  | cons x l ih => exact ih (hf s x h)

theorem wf_foldlM_state {α : Type} {f : State → α → Option State} (hf : ∀ s x t, s.mem.wf = true → f s x = some t → t.mem.wf = true) :
    ∀ {l : List α} {s t : State}, s.mem.wf = true → l.foldlM f s = some t → t.mem.wf = true
  | [], s, t, h, ht => by rwa [← Option.some.inj ht]
  | x :: l, s, t, h, ht => by
    rw [List.foldlM_cons] at ht
    obtain ⟨u, hu, ht⟩ := Option.bind_eq_some_iff.1 ht
    exact wf_foldlM_state hf (hf s x u h hu) ht

section
variable {s : State} (h : s.mem.wf = true)
include h

/-! ### Staging and page tables -/

@[simp] theorem wf_enterStaging (e : Staged) : (s.enterStaging e).mem.wf = true := by
  unfold State.enterStaging
  dsimp only
  split
  · exact wf_commitAll h _
  · exact h

@[simp] theorem wf_putStaged (c : Ctx) (loopback : Bool) (k : Nat) (addr : Word) (bs : List Byte) (kind : Option Nat) (bc : Option (Nat × Nat × Nat)) :
    (s.putStaged c loopback k addr bs kind bc).mem.wf = true := by
  unfold State.putStaged
  split <;> simp [h]

@[simp] theorem wf_orEntry (a x : Nat) : (s.orEntry a x).mem.wf = true := Mem.wf_write _ h _

@[simp] theorem wf_andNotEntry (a x : Nat) : (s.andNotEntry a x).mem.wf = true := Mem.wf_write _ h _

@[simp] theorem wf_endWalk (w : Walk) (r : WalkEnd) : (s.endWalk w r).mem.wf = true := by
  unfold State.endWalk
  rw [State.nextWalk_mem]
  cases r with
  | leaf e =>
    dsimp only
    refine wf_foldl_state (fun s t hs => by simpa using hs) ?_
    split
    · exact h
    · exact wf_orEntry (s := { s with xlat := _ }) h _ _
  | _ => exact h

@[simp] theorem wf_stepWalk (w : Walk) : (s.stepWalk w).mem.wf = true := by
  unfold State.stepWalk
  dsimp only
  split
  · exact wf_endWalk (by simpa using h) _ _
  · simpa using h

@[simp] theorem wf_setDirty (e : Leaf) : (s.setDirty e).mem.wf = true := by
  unfold State.setDirty
  split
  · exact h
  · exact wf_orEntry h _ _

@[simp] theorem wf_usePages (tile slack : Nat) (reads writes : List Leaf) : (s.usePages tile slack reads writes).mem.wf = true := by
  unfold State.usePages
  refine wf_foldl_state (fun s e hs => by simpa using hs) (wf_foldl_state (fun s e hs => wf_setDirty hs e) ?_)
  refine wf_foldl_state ?_ h
  exact fun s e hs => hs

@[simp] theorem wf_accessLeaf (w : WalkEnd) : (s.accessLeaf w).mem.wf = true := by
  cases w with
  | leaf e =>
    dsimp only [State.accessLeaf]
    split
    · exact h
    · exact wf_orEntry h _ _
  | _ => exact h

/-! ### Placing writes -/

@[simp] theorem wf_placeRecords (k : Nat) (bs : List Byte) : (s.writeRecords k bs).mem.wf = true := wf_writeRecords h k bs

@[simp] theorem wf_writeThrough (k : Nat) (bs : List Byte) (kind : Option (Nat × Nat)) : (s.writeThrough k bs kind).mem.wf = true := by
  unfold State.writeThrough
  dsimp only
  split
  · exact Mem.wf_write _ h _
  · exact wf_foldl _ (fun m x hm => Mem.wf_write _ hm _) _ h

@[simp] theorem wf_acknowledge (seqs : List Nat) : (s.acknowledge seqs).mem.wf = true := wf_commitAll h _

theorem wf_placePlain {t : State} {w : Writer} {k : Nat} {addr : Word} {bs : List Byte} (ht : s.placePlain w k addr bs = some t) : t.mem.wf = true := by
  refine wf_foldlM_state (fun s p t hs hp => ?_) (wf_placeRecords h k bs) ht
  dsimp only at hp
  split at hp
  · cases hp
  · rw [← Option.some.inj hp]
    exact wf_enterStaging hs _

theorem wf_placeRed {t : State} {w : Writer} {k : Nat} {addr : Word} {bs : List Byte} {kind : Nat} (ht : s.placeRed w k addr bs kind = some t) :
    t.mem.wf = true := by
  unfold State.placeRed at ht
  split at ht
  · rw [← Option.some.inj ht]
    exact wf_placeRecords h _ _
  · dsimp only at ht
    split at ht
    · cases ht
    · rw [← Option.some.inj ht]
      exact wf_enterStaging h _

theorem wf_place {t : State} {w : Writer} {k : Nat} {addr : Word} {bs : List Byte} {kind : Option (Nat × Nat)} (ht : s.place w k addr bs kind = some t) :
    t.mem.wf = true := by
  unfold State.place at ht
  split at ht
  · rw [← Option.some.inj ht]
    exact wf_writeThrough h _ _ _
  · split at ht
    · exact wf_placePlain h ht
    · exact wf_foldlM_state (fun s x t hs hx => wf_placeRed hs hx) h ht

@[simp] theorem wf_placeLater (w : Writer) (k : Nat) (addr : Word) (bs : List Byte) (kind : Option (Nat × Nat)) :
    (s.placeLater w k addr bs kind).mem.wf = true := by
  unfold State.placeLater
  split
  · split
    · exact h
    · exact wf_foldl_state (fun s x hs => by simpa using hs) h
  · split
    · exact wf_foldl_state (fun s p hs => wf_enterStaging hs _) (wf_placeRecords h k bs)
    · refine wf_foldl_state (fun s x hs => ?_) h
      split
      · cases hr : s.placeRed w _ addr x.1 _ with
        | none => exact hs
        | some t => exact wf_placeRed hs hr
      · exact wf_enterStaging hs _

@[simp] theorem wf_issueStore (c : Ctx) (ps : List Piece) (segs : List (Word × List Byte)) (kind : Option (Nat × Nat)) (slack : Nat) (a g : Word) :
    (issueStore s c ps segs kind slack a g).1.mem.wf = true := by
  unfold issueStore
  rw [show s.fresh = (s.seq, s.fresh.2) from rfl]
  dsimp -zeta only
  extract_lets cuts first u seqs pk v w t peer
  have hu : u.mem.wf = true := wf_foldl_state (fun s x hs => wf_placeLater hs _ _ _ _ _) h
  have hv : v.mem.wf = true := wf_foldl_state (fun s x hs => by split <;> simp [hs]) hu
  exact wf_usePages (by simpa using hv) _ _ _ _

@[simp] theorem wf_hostWrite (k : Nat) (bs : List Byte) : (s.hostWrite k bs).mem.wf = true := Mem.wf_write _ h _

/-! ### Barrier records and steps -/

@[simp] theorem wf_putRecord (key : Nat) (r : BcRecord) (phases : Nat) : (s.putRecord key r phases).mem.wf = true := by
  rw [State.putRecord_mem]
  exact Mem.wf_write _ h _

@[simp] theorem wf_applyBc (key : Nat) (res : BcRecord × Bool) : (s.applyBc key res).mem.wf = true := by
  have hput := wf_putRecord h key res.1 (s.bcDone key + b2n res.2)
  unfold State.applyBc
  dsimp only
  generalize s.putRecord key res.1 (s.bcDone key + b2n res.2) = u at hput ⊢
  split
  · split
    · simpa using hput
    · exact hput
  · exact hput

@[simp] theorem wf_landDirty (es : List Staged) : (s.landDirty es).mem.wf = true := wf_foldl_state (fun _ e hs => wf_setDirty hs e) h

@[simp] theorem wf_commit (es : List Staged) (podDomain : Option Nat) : (s.commit es podDomain).mem.wf = true := wf_commitAll (wf_landDirty h es) _

@[simp] theorem wf_climb (d : Domain) : (s.climb d).1.mem.wf = true := by
  unfold State.climb
  dsimp only
  refine wf_foldl_state (fun s q hs => by simpa using hs) (wf_commit ?_ _ _)
  exact h

@[simp] theorem wf_climbPod (d : Domain) : (s.climbPod d).mem.wf = true := by
  unfold State.climbPod
  dsimp only
  split
  · exact wf_commitAll (Mem.wf_foldl_set _ _ _ h) _
  · exact wf_commitAll h _

@[simp] theorem wf_completeStep (d : Domain) (pos : List (Nat × Nat)) (ts : List Term) (gone : List (Nat × Nat)) (cands : List Candidate) :
    (s.completeStep d pos ts gone cands).mem.wf = true := by
  have hclimb : (if d.level = 5 then (s.climbPod d, ([] : List Candidate)) else s.climb d).1.mem.wf = true := by
    split <;> simp [h]
  unfold State.completeStep
  extract_lets own lower low
  generalize (if d.level = 5 then (s.climbPod d, ([] : List Candidate)) else s.climb d) = r at hclimb ⊢
  obtain ⟨u, conflict⟩ := r
  dsimp -zeta only
  extract_lets cands report v staged w ctxs told x
  have hx : x.mem.wf = true := by
    refine wf_foldl_state (fun s c hs => by simpa using hs) ?_
    simpa [w, v] using hclimb
  split
  · rw [State.topStepEnd_mem]
    exact hx
  · exact hx

@[simp] theorem wf_applyResult (d : Domain) (r : PodResult) : (s.applyResult d r).mem.wf = true := wf_completeStep h _ _ _ _ _

/-! ### Tasks -/

@[simp] theorem wf_noteTrace (index o tile : Nat) (cs : List Nat) : (s.noteTrace index o tile cs).mem.wf = true := by
  unfold State.noteTrace
  dsimp only
  split
  · split
    · exact h
    · exact Mem.wf_write _ h _
  · exact h
  · exact h

@[simp] theorem wf_placeTask (t : Task) (o : Nat) : (s.placeTask t o).mem.wf = true := by
  unfold State.placeTask
  dsimp only
  simp only [State.announceShare_mem, State.bindUnits_mem, State.updTask_mem]
  exact wf_foldl_state (fun s x hs => by simpa using wf_noteTrace hs _ _ _ _) h

@[simp] theorem wf_commitTask (n : Nat) : (s.commitTask n).mem.wf = true := by
  refine wf_commit ?_ _ _
  exact h

@[simp] theorem wf_dropTaskState (n : Nat) : (s.dropTaskState n).mem.wf = true := by
  unfold State.dropTaskState
  extract_lets u keys v ranks tiles w staged x
  have hv : v.mem = s.mem := (foldl_keeps State.mem _ (fun s k => by simp) u).trans (by simp [u])
  have hw : w.mem.wf = true := wf_commit (by rw [hv]; exact h) _ _
  rw [State.forgetRecords_mem, State.freeDomainsOf_mem]
  exact hw

@[simp] theorem wf_terminate (n : Nat) : (s.terminate n).mem.wf = true := by
  unfold State.terminate
  split
  · exact h
  · extract_lets u gone v w
    have hu : u.mem = s.mem := foldl_keeps State.mem _ (fun s c => by
      cases hc : s.arrivalReached c with
      | none => rfl
      | some t => exact State.arrivalReached_mem hc) s
    have hw : w.mem.wf = true := by
      unfold w
      rw [State.dropDeferred_mem]
      exact wf_dropTaskState (s := v) (by simp [v, hu, h]) n
    simpa using hw

@[simp] theorem wf_afterStop (t : Task) : (s.afterStop t).mem.wf = true := by
  unfold State.afterStop
  dsimp only
  split
  · exact wf_terminate (by simp [h]) _
  · simp [h]

@[simp] theorem wf_beginStop (n after : Nat) : (s.beginStop n after).mem.wf = true := by
  unfold State.beginStop
  exact wf_foldl_state (fun s m hs => by simpa using hs) (by simpa using h)

@[simp] theorem wf_resumeAt (t : Task) (o : Nat) : (s.resumeAt t o).mem.wf = true := by
  unfold State.resumeAt
  extract_lets tiles picks u v w place old x y z
  have hu : u.mem.wf = true := wf_foldl_state (fun s x hs => wf_noteTrace hs _ _ _ _) h
  have hw : w.mem.wf = true := by simpa [w, v] using hu
  have hx : x.mem.wf = true := wf_foldl_state (fun s c hs => by simpa using hs) hw
  have hz : z.mem.wf = true := wf_foldl_state (fun s n hs => by simpa using hs) hx
  exact wf_foldl_state (fun s c hs => by simpa using hs) hz

@[simp] theorem wf_moveTask (t : Task) (new : Nat) : (s.moveTask t new).mem.wf = true := by
  unfold State.moveTask
  dsimp only
  refine wf_foldl_state (fun s n hs => by simpa using hs) (wf_foldl_state (fun s n hs => by simpa using hs) ?_)
  exact wf_moveMem h _ _ _

@[simp] theorem wf_moveAndResume (t : Task) (o : Nat) : (s.moveAndResume t o).mem.wf = true := wf_resumeAt (wf_moveTask h t o) t o

@[simp] theorem wf_restartOrEnd (tile : Nat) (t : Task) : (s.restartOrEnd tile t).mem.wf = true := by
  have hstop : (s.stopNow t).mem.wf = true := by simp [h]
  unfold State.restartOrEnd
  dsimp only
  split
  · simpa using wf_dropTaskState hstop t.num
  · simpa using wf_terminate hstop t.num

@[simp] theorem wf_tileError (tile : Nat) (ts : List Task) (passes : Bool) : (s.tileError tile ts passes).mem.wf = true := by
  unfold State.tileError
  dsimp only
  refine wf_foldl_state (fun s t hs => wf_restartOrEnd hs _ _) ?_
  split
  · exact h
  · simpa using h

/-! ### Pages -/

@[simp] theorem wf_writeBack (c : Counter) : (s.writeBack c).mem.wf = true := Mem.wf_write _ h _

@[simp] theorem wf_keepCounter (c : Counter) : (s.keepCounter c).mem.wf = true := by
  unfold State.keepCounter
  dsimp only
  split
  · exact wf_writeBack h _
  · exact h

@[simp] theorem wf_switchPage (m : Migration) : (s.switchPage m).mem.wf = true := by
  unfold State.switchPage
  extract_lets e n old new mem host ctxs chan tiles fab0 fab u v w src x
  have hu : u.mem.wf = true := by
    change mem.wf = true
    unfold mem
    split
    · exact Mem.wf_write _ (Mem.wf_filter h _) _
    · exact wf_moveFrame h _ _ _
  have hv : v.mem.wf = true := by
    dsimp only [v]
    exact Mem.wf_write _ hu _
  rw [State.dropCached_mem]
  dsimp only [x]
  split
  · dsimp only
    exact Mem.wf_write _ hv _
  · exact hv

@[simp] theorem wf_endMigration (m : Migration) (status : Nat) : (s.endMigration m status).mem.wf = true := by
  unfold State.endMigration
  simpa using wf_andNotEntry h _ _

@[simp] theorem wf_poisonPage (e : Leaf) (who : Option Maker) : (s.poisonPage e who).mem.wf = true := by
  unfold State.poisonPage
  split
  · exact h
  · extract_lets u regs v w
    have hw : w.mem.wf = true := by simp [w, v, u, h]
    clear_value w
    split
    · exact wf_endMigration hw _ _
    · exact hw

@[simp] theorem wf_invalidate (lo n : Nat) : (s.invalidate lo n).mem.wf = true := by
  unfold State.invalidate
  extract_lets u back v x w
  have hu : u.mem.wf = true := by simpa [u] using h
  have hv : v.mem.wf = true := wf_foldl_state (f := State.writeBack) (fun s c hs => wf_writeBack hs c) hu
  have hw : w.mem.wf = true := hv
  exact wf_foldl_state (f := State.startWalk) (fun s w hs => by simpa using hs) hw

@[simp] theorem wf_beginMigration (c : Ctx) (e : Leaf) (target : Word) : (s.beginMigration c e target).mem.wf = true := by
  have hor := wf_orEntry h e.at_ 16
  unfold State.beginMigration
  generalize s.orEntry e.at_ 16 = u at hor ⊢
  rw [State.send_mem]
  dsimp only
  split <;> simpa using hor

/-! ### Collectives, the fabric and the host -/

@[simp] theorem wf_logColl (m : Coll) : (s.logColl m).mem.wf = true := by
  unfold State.logColl
  extract_lets own x r a
  clear_value x a
  dsimp only
  exact Mem.wf_write _ h _

@[simp] theorem wf_postColl (c : Ctx) (b : CollBlock) (id : CollId) (digest : Nat) (src : List Byte) : (postColl s c b id digest src).mem.wf = true := by
  unfold postColl
  dsimp only
  simp only [State.takeEarly_mem, State.setColl_mem, advanceColl_mem]
  exact wf_logColl (by simpa using h) _

@[simp] theorem wf_startPort (pass : Nat → Bool) (p : Nat) : (s.startPort pass p).mem.wf = true := by
  unfold State.startPort
  dsimp only
  split
  · simpa using h
  · split <;> simpa using h

@[simp] theorem wf_afterReset : s.afterReset.mem.wf = true := by
  unfold State.afterReset
  dsimp only
  split
  · exact Mem.wf_filter h _
  · exact h

theorem wf_postRing {t : State} (ht : s.postRing = some t) : t.mem.wf = true := by
  unfold State.postRing at ht
  split at ht
  · cases ht
  · split at ht
    · rw [← Option.some.inj ht]
      exact Mem.wf_write _ h _
    · cases ht

theorem wf_hostLeaf {a : Word} {r : Leaf × State} (hr : s.hostLeaf a = some r) : r.2.mem.wf = true := by
  unfold State.hostLeaf at hr
  split at hr
  · cases hr
  · split at hr
    · split at hr
      · cases hr
      · rw [← Option.some.inj hr]
        dsimp only
        split
        · exact h
        · exact wf_orEntry h _ _
    · cases hr

end

@[simp] theorem wf_flushRing : ∀ (n : Nat) {s : State}, s.mem.wf = true → (s.flushRing n).mem.wf = true
  | 0, _, h => h
  | n + 1, s, h => by
    unfold State.flushRing
    split
    · next hp => exact wf_flushRing n (wf_postRing h hp)
    · exact h

theorem wf_hostPages : ∀ (f : Nat) {s : State} {a : Word} {n : Nat} {r : List Byte × State}, s.mem.wf = true → s.hostPages f a n = some r → r.2.mem.wf = true
  | 0, s, a, n, r, h, hr => by
    rw [← Option.some.inj hr]
    exact h
  | f + 1, s, a, n, r, h, hr => by
    unfold State.hostPages at hr
    split at hr
    · rw [← Option.some.inj hr]
      exact h
    · obtain ⟨x, hx, hr⟩ := Option.bind_eq_some_iff.1 hr
      obtain ⟨y, hy, hr⟩ := Option.bind_eq_some_iff.1 hr
      rw [← Option.some.inj hr]
      exact (wf_hostPages f (wf_hostLeaf h hx) hy :)

section
variable {s : State} (h : s.mem.wf = true)
include h

theorem wf_hostRead {a : Word} {n : Nat} {r : List Byte × State} (hr : s.hostRead a n = some r) : r.2.mem.wf = true := by
  unfold State.hostRead at hr
  split at hr
  · rw [← Option.some.inj hr]
    exact h
  · exact wf_hostPages _ h hr

@[simp] theorem wf_hostSubmit (a : Word) : (s.hostSubmit a).2.mem.wf = true := by
  unfold State.hostSubmit
  split
  · exact h
  · split
    · exact h
    · next h1 =>
      have hs1 := wf_hostRead h h1
      dsimp only
      split
      · exact hs1
      · next h2 =>
        have hs2 := wf_hostRead hs1 h2
        split
        · exact hs2
        · next h3 =>
          have hs3 := wf_hostRead hs2 h3
          dsimp only at hs3 ⊢
          split <;> split <;> simpa using hs3

@[simp] theorem wf_tcbWrite (a : Word) : (s.tcbWrite a).mem.wf = true := by
  unfold State.tcbWrite
  split
  · simpa using h
  · dsimp only
    simpa using wf_hostSubmit h a

@[simp] theorem wf_windowWrite (o n x : Nat) : (s.windowWrite o n x).mem.wf = true := by
  unfold State.windowWrite
  dsimp only
  split <;> (try split) <;> simp [h]

theorem wf_stageFsend {t : State} {d : Domain} {f : FsendIn} (ht : s.stageFsend d f = some t) : t.mem.wf = true := by
  unfold State.stageFsend at ht
  dsimp only at ht
  split at ht
  · next u hu =>
    have hwf : u.mem.wf = true := wf_foldlM_state (fun s x t hs hx => by rw [State.enterPeer_mem hx]; exact hs) (wf_placeRecords (by simpa using h) _ _) hu
    rw [← Option.some.inj ht]
    split
    · simpa using hwf
    · exact hwf
  · cases ht

end

end Sys2Proof.Machine
end

section
/-! PROOFS. The parts of an instruction keep the canonical form of memory (R5): in every state that they wait in, and in the one that they give. -/

namespace Sys2Proof.Machine

open Sys2Proof

/-! ### A part of an instruction and memory -/

/-- A part of an instruction gives what satisfies P, or waits in a state whose memory is canonical, or takes a fault. -/
def TryWf {α : Type} (P : α → Prop) : Try α → Prop
  | .ok a => P a
  | .error (.stall t) => t.mem.wf = true
  | .error (.trap _) => True

section
variable {α β : Type} {P : α → Prop}

@[simp] theorem tryWf_ok {a : α} : TryWf P (.ok a) ↔ P a := .rfl
@[simp] theorem tryWf_pure {a : α} : TryWf P (pure a) ↔ P a := .rfl
@[simp] theorem tryWf_stall_error {t : State} : TryWf P (.error (.stall t)) ↔ t.mem.wf = true := .rfl
@[simp] theorem tryWf_stall {t : State} : TryWf P (stall t) ↔ t.mem.wf = true := .rfl
@[simp] theorem tryWf_trap {t : Trap} : TryWf P (.error (.trap t)) := trivial
@[simp] theorem tryWf_fault {code : Nat} : TryWf P (fault code) := trivial
@[simp] theorem tryWf_faultAt {code element : Nat} {a : Word} : TryWf P (faultAt code a element) := trivial

@[simp] theorem tryWf_bind {Q : β → Prop} {x : Try α} {f : α → Try β} : TryWf Q (x >>= f) ↔ TryWf (fun a => TryWf Q (f a)) x := by
  rcases x with (_ | _) | _ <;> rfl

@[simp] theorem tryWf_map {Q : β → Prop} {x : Try α} {f : α → β} : TryWf Q (f <$> x) ↔ TryWf (fun a => Q (f a)) x := by
  rcases x with (_ | _) | _ <;> rfl

@[simp] theorem tryWf_ite {p : Prop} [Decidable p] {x y : Try α} : TryWf P (if p then x else y) ↔ (p → TryWf P x) ∧ (¬p → TryWf P y) := by
  split <;> simp [*]

@[simp] theorem tryWf_require {P : Unit → Prop} {b : Bool} {code : Nat} : TryWf P (require b code) ↔ (b = true → P ()) := by
  cases b <;> simp [require]

@[simp] theorem tryWf_requireAt {P : Unit → Prop} {b : Bool} {code : Nat} {a : Word} : TryWf P (requireAt b code a) ↔ (b = true → P ()) := by
  cases b <;> simp [requireAt]

theorem TryWf.mono {Q : α → Prop} {x : Try α} (h : TryWf P x) (hpq : ∀ a, x = .ok a → P a → Q a) : TryWf Q x := by
  rcases x with (_ | _) | _
  · exact h
  · exact h
  · exact hpq _ rfl h

/-- What is to be shown of a part that keeps memory canonical is what it gives. -/
theorem TryWf.iff {Q : α → Prop} {x : Try α} (h : TryWf P x) : TryWf Q x ↔ ∀ a, x = .ok a → P a → Q a :=
  ⟨fun hq a hx _ => by rwa [hx] at hq, h.mono⟩

theorem TryWf.iff_ok {Q : α → Prop} {x : Try α} (h : TryWf (fun _ => True) x) : TryWf Q x ↔ ∀ a, x = .ok a → Q a :=
  h.iff.trans (forall_congr' fun _ => imp_congr_right fun _ => true_imp_iff)

theorem TryWf.stall {x : Try α} {t : State} (h : TryWf P x) (hx : x = .error (.stall t)) : t.mem.wf = true := by rwa [hx] at h

theorem TryWf.bind {Q : β → Prop} {x : Try α} {f : α → Try β} (hx : TryWf (fun _ => True) x) (hf : ∀ a, TryWf Q (f a)) : TryWf Q (x >>= f) :=
  tryWf_bind.2 (hx.mono fun a _ _ => hf a)

/-- A check in between, where something is to be checked. -/
theorem TryWf.guard {p : Prop} [Decidable p] {x : Try PUnit} {f : PUnit → Try α} (hx : TryWf (fun _ => True) x) (hf : ∀ u, TryWf P (f u)) :
    TryWf P (if p then x >>= f else f ()) := by
  split
  · exact hx.bind hf
  · exact hf ()

theorem TryWf.either {Q : β → Prop} {p : Prop} [Decidable p] {x y : Try α} {f : α → Try β} (hx : TryWf (fun _ => True) x)
    (hy : TryWf (fun _ => True) y) (hf : ∀ a, TryWf Q (f a)) : TryWf Q (if p then x >>= f else y >>= f) := by
  split
  · exact hx.bind hf
  · exact hy.bind hf

@[simp] theorem tryWf_mapM {Q : List β → Prop} {f : α → Try β} {l : List α} (hf : ∀ x, TryWf (fun _ => True) (f x)) :
    TryWf Q (l.mapM f) ↔ ∀ ys, l.mapM f = .ok ys → Q ys := by
  refine TryWf.iff_ok ?_
  induction l with
  | nil => exact trivial
  | cons x l ih =>
    rw [List.mapM_cons, tryWf_bind]
    exact (hf x).mono fun _ _ _ => tryWf_bind.2 (ih.mono fun _ _ _ => trivial)

@[simp] theorem tryWf_forM {Q : PUnit → Prop} {f : α → Try PUnit} {l : List α} (hf : ∀ x, TryWf (fun _ => True) (f x)) :
    TryWf Q (forM l f) ↔ (forM l f = .ok ⟨⟩ → Q ⟨⟩) := by
  refine (TryWf.iff_ok ?_).trans ⟨fun h => h _, fun h _ => h⟩
  induction l with
  | nil => exact trivial
  | cons x l ih => exact tryWf_bind.2 ((hf x).mono fun _ _ _ => ih)

end


/-! ### Registers -/

@[simp] theorem tryWf_readRf {P : List Byte → Prop} (c : Ctx) (a n : ℕ) :
    TryWf P (readRf c a n) ↔ ∀ y, readRf c a n = .ok y → P y := by
  unfold readRf
  refine TryWf.iff_ok ?_
  simp

@[simp] theorem tryWf_writeHazard {P : Unit → Prop} {s : State} (c : Ctx) (a n : ℕ) :
    TryWf P (writeHazard s c a n) ↔ ∀ y, writeHazard s c a n = .ok y → P y := by
  unfold writeHazard
  refine TryWf.iff_ok ?_
  simp

@[simp] theorem tryWf_writeRf {P : Ctx → Prop} {s : State} (h : s.mem.wf = true) (c : Ctx) (a n : ℕ) (cells : List (ℕ × Byte)) :
    TryWf P (writeRf s c a n cells) ↔ ∀ y, writeRf s c a n cells = .ok y → P y := by
  unfold writeRf
  refine TryWf.iff_ok ?_
  simp [h]

@[simp] theorem tryWf_readGuard {P : Word → Prop} (c : Ctx) (h : Common) :
    TryWf P (readGuard c h) ↔ ∀ y, readGuard c h = .ok y → P y := by
  unfold readGuard
  refine TryWf.iff_ok ?_
  simp

@[simp] theorem tryWf_readVal {P : Word → Prop} (c : Ctx) (x : Operand) :
    TryWf P (readVal c x) ↔ ∀ y, readVal c x = .ok y → P y := by
  unfold readVal
  refine TryWf.iff_ok ?_
  (repeat' split) <;> simp

@[simp] theorem tryWf_readElems {P : List ℕ → Prop} (c : Ctx) (w : ℕ) (o : Operand) :
    TryWf P (readElems c w o) ↔ ∀ y, readElems c w o = .ok y → P y := by
  unfold readElems
  refine TryWf.iff_ok ?_
  (repeat' split) <;> simp

@[simp] theorem tryWf_latchReady {P : Unit → Prop} {s : State} (h : s.mem.wf = true) (c : Ctx) (lane : Bool) (ops : List Operand) :
    TryWf P (latchReady s c lane ops) ↔ ∀ y, latchReady s c lane ops = .ok y → P y := by
  unfold latchReady
  refine TryWf.iff_ok ?_
  (repeat' split) <;> simp [h]

@[simp] theorem tryWf_destHazard {P : Unit → Prop} {s : State} (c : Ctx) (o : Operand) (n : ℕ) :
    TryWf P (destHazard s c o n) ↔ ∀ y, destHazard s c o n = .ok y → P y := by
  unfold destHazard
  refine TryWf.iff_ok ?_
  split <;> simp

@[simp] theorem tryWf_writeVal {P : Ctx → Prop} {s : State} (h : s.mem.wf = true) (c : Ctx) (o : Operand) (x : Word) :
    TryWf P (writeVal s c o x) ↔ ∀ y, writeVal s c o x = .ok y → P y := by
  unfold writeVal
  refine TryWf.iff_ok ?_
  (repeat' split) <;> simp [h]

@[simp] theorem tryWf_writeOpt {P : Ctx → Prop} {s : State} (h : s.mem.wf = true) (c : Ctx) (o : Operand) (x : Word) :
    TryWf P (writeOpt s c o x) ↔ ∀ y, writeOpt s c o x = .ok y → P y := by
  unfold writeOpt
  refine TryWf.iff_ok ?_
  simp [h]

@[simp] theorem tryWf_writeElems {P : Ctx → Prop} {s : State} (h : s.mem.wf = true) (c : Ctx) (o : Operand) (w : ℕ) (g : Word) (xs : List ℕ) :
    TryWf P (writeElems s c o w g xs) ↔ ∀ y, writeElems s c o w g xs = .ok y → P y := by
  unfold writeElems
  refine TryWf.iff_ok ?_
  split <;> simp [h]

@[simp] theorem tryWf_writeMask {P : Ctx → Prop} {s : State} (h : s.mem.wf = true) (c : Ctx) (o : Operand) (g m : Word) :
    TryWf P (writeMask s c o g m) ↔ ∀ y, writeMask s c o g m = .ok y → P y := by
  unfold writeMask
  refine TryWf.iff_ok ?_
  (repeat' split) <;> simp [h]

/-! ### Addresses, gates and fetch -/

@[simp] theorem tryWf_findLeaf {P : Leaf → Prop} {s : State} (h : s.mem.wf = true) (c : Ctx) (a : Word) (slack element : ℕ) :
    TryWf P (s.findLeaf c a slack element) ↔ ∀ y, s.findLeaf c a slack element = .ok y → P y := by
  unfold State.findLeaf
  refine TryWf.iff_ok (tryWf_bind.2 (tryWf_requireAt.2 fun _ => ?_))
  split
  · exact trivial
  · exact trivial
  · exact (congrArg Mem.wf (look_wait_keeps ‹_›).2).trans h

@[simp] theorem tryWf_checkLeaf {P : Unit → Prop} {s : State} (h : s.mem.wf = true) (c : Ctx) (user : Bool) (e : Leaf) (a : Word)
    (write : Bool) (element : ℕ) :
    TryWf P (s.checkLeaf c user e a write element) ↔ ∀ y, s.checkLeaf c user e a write element = .ok y → P y := by
  unfold State.checkLeaf
  refine TryWf.iff_ok ?_
  simp [h]

@[simp] theorem tryWf_translate {P : Leaf → Prop} {s : State} (h : s.mem.wf = true) (c : Ctx) (a : Word) (write : Bool) (slack element : ℕ) :
    TryWf P (s.translate c a write slack element) ↔ ∀ y, s.translate c a write slack element = .ok y → P y := by
  unfold State.translate
  refine TryWf.iff_ok ?_
  simp [h]

@[simp] theorem tryWf_parkGate {P : Unit → Prop} {s : State} (h : s.mem.wf = true) (c : Ctx) :
    TryWf P (parkGate s c) ↔ ∀ y, parkGate s c = .ok y → P y := by
  unfold parkGate
  refine TryWf.iff_ok ?_
  split <;> simp [h]

@[simp] theorem tryWf_latchGate {P : Unit → Prop} {s : State} (h : s.mem.wf = true) (c : Ctx) (lane : Bool) (ops : List Operand) :
    TryWf P (latchGate s c lane ops) ↔ ∀ y, latchGate s c lane ops = .ok y → P y := by
  unfold latchGate
  refine TryWf.iff_ok ?_
  have hready := (tryWf_latchReady (P := fun _ => True) (s := s) h c lane ops).2 fun _ _ => trivial
  split
  · have ht := hready.stall ‹_›
    simp [h]
    refine fun _ => ?_
    split
    · simp [ht]
    · exact ht
  · exact hready

@[simp] theorem tryWf_replyGate {P : Unit → Prop} {s : State} (h : s.mem.wf = true) (c : Ctx) :
    TryWf P (replyGate s c) ↔ ∀ y, replyGate s c = .ok y → P y := by
  unfold replyGate
  refine TryWf.iff_ok ?_
  simp [h]

@[simp] theorem tryWf_fetchLeaf {P : Leaf → Prop} {s : State} (h : s.mem.wf = true) (c : Ctx) (a : Word) :
    TryWf P (s.fetchLeaf c a) ↔ ∀ y, s.fetchLeaf c a = .ok y → P y := by
  unfold State.fetchLeaf
  refine TryWf.iff_ok ?_
  simp [h]

@[simp] theorem tryWf_fetchAt {P : Word → Prop} {s : State} (h : s.mem.wf = true) (c : Ctx) (a : Word) :
    TryWf P (s.fetchAt c a) ↔ ∀ y, s.fetchAt c a = .ok y → P y := by
  unfold State.fetchAt
  refine TryWf.iff_ok ?_
  split <;> simp [h]

theorem TryWf.noAddr {α : Type} {P : α → Prop} {x : Try α} (hx : TryWf P x) : TryWf P (noAddr x) := by
  rcases x with (_ | _) | _ <;> exact hx

@[simp] theorem tryWf_headerAt {P : HeaderWord → Prop} (a w : Word) :
    TryWf P (headerAt a w) ↔ ∀ y, headerAt a w = .ok y → P y := by
  unfold headerAt
  refine TryWf.iff_ok ?_
  simp

@[simp] theorem tryWf_checkTarget {P : Unit → Prop} {s : State} (h : s.mem.wf = true) (c : Ctx) (t : Word) :
    TryWf P (s.checkTarget c t) ↔ ∀ y, s.checkTarget c t = .ok y → P y := by
  unfold State.checkTarget
  refine TryWf.iff_ok ?_
  simp [h]

@[simp] theorem tryWf_checkFall {P : Unit → Prop} {s : State} (h : s.mem.wf = true) (c : Ctx) (t : Word) :
    TryWf P (s.checkFall c t) ↔ ∀ y, s.checkFall c t = .ok y → P y := by
  unfold State.checkFall
  refine TryWf.iff_ok ?_
  have hfetch := (tryWf_fetchAt (P := fun _ => True) (s := s) h c t).2 fun _ _ => trivial
  split
  · exact trivial
  · split
    · simp
    · exact hfetch.stall ‹_›
    · split <;> exact trivial

/-! ### Private memory and copies -/

@[simp] theorem tryWf_waitEngine {α : Type} {P : α → Prop} {s : State} (h : s.mem.wf = true) (c : Ctx) : TryWf P (waitEngine s c) := by
  unfold waitEngine
  simp [h]

@[simp] theorem tryWf_waitFree {P : Unit → Prop} {s : State} (h : s.mem.wf = true) (c : Ctx) (sp : Span) (write : Bool) :
    TryWf P (s.waitFree c sp write) ↔ ∀ y, s.waitFree c sp write = .ok y → P y := by
  unfold State.waitFree
  refine TryWf.iff_ok ?_
  simp [h]

theorem pagePieces_keeps {s : State} (h : s.mem.wf = true) (c : Ctx) (write : Bool) (slack element : ℕ) :
    ∀ (f : ℕ) (a : Word) (n : ℕ), TryWf (fun _ => True) (s.pagePieces c write slack element f a n)
  | 0, _, _ => trivial
  | f + 1, a, n => by
    unfold State.pagePieces
    split
    · exact trivial
    · simp only [tryWf_bind, tryWf_translate h, tryWf_requireAt]
      exact fun e _ _ => (pagePieces_keeps h c write slack element f _ _).mono fun _ _ _ => trivial

@[simp] theorem tryWf_pagePieces {P : List Piece → Prop} {s : State} (h : s.mem.wf = true) (c : Ctx) (write : Bool) (slack element f : ℕ)
    (a : Word) (n : ℕ) : TryWf P (s.pagePieces c write slack element f a n) ↔ ∀ ps, s.pagePieces c write slack element f a n = .ok ps → P ps :=
  TryWf.iff_ok (pagePieces_keeps h c write slack element f a n)

@[simp] theorem tryWf_accessPieces {P : List Piece → Prop} {s : State} (h : s.mem.wf = true) (c : Ctx) (a : Word) (n align : ℕ) (write : Bool)
    (slack element : ℕ) :
    TryWf P (s.accessPieces c a n align write slack element) ↔ ∀ y, s.accessPieces c a n align write slack element = .ok y → P y := by
  unfold State.accessPieces
  refine TryWf.iff_ok ?_
  (repeat' split) <;> simp [h]

@[simp] theorem tryWf_workGate {P : Unit → Prop} {s : State} (h : s.mem.wf = true) (c : Ctx) (sc : WorkScope) :
    TryWf P (workGate s c sc) ↔ ∀ y, workGate s c sc = .ok y → P y := by
  unfold workGate
  refine TryWf.iff_ok ?_
  dsimp only
  split
  · exact wf_foldl_state (fun t x ht => by simpa using ht) h
  · split <;> exact trivial

@[simp] theorem tryWf_recordAt {P : ℕ → Prop} {s : State} (c : Ctx) (a : Word) (reach : RecordReach) :
    TryWf P (recordAt s c a reach) ↔ ∀ y, recordAt s c a reach = .ok y → P y := by
  unfold recordAt
  refine TryWf.iff_ok ?_
  (repeat' split) <;> simp

@[simp] theorem tryWf_checkLevelSide {P : Unit → Prop} {s : State} (c : Ctx) (a : Word) (n : ℕ) (write : Bool) :
    TryWf P (checkLevelSide s c a n write) ↔ ∀ y, checkLevelSide s c a n write = .ok y → P y := by
  unfold checkLevelSide
  refine TryWf.iff_ok ?_
  split <;> simp

theorem startedCopy_mem (s : State) (c : Ctx) (num word : ℕ) (t : Template) (zero : Bool) : (startedCopy s c num word t zero).mem = s.mem := by
  unfold startedCopy
  dsimp only
  split
  · rw [Claims.completeCopy_mem]
    simp
  · simp

theorem startCopy_keeps {s : State} (h : s.mem.wf = true) (c : Ctx) (num word : ℕ) (src dst : Option Word) :
    TryWf (fun _ => True) (startCopy s c num word src dst) := by
  unfold startCopy
  extract_lets -underBinder tl ch jp0
  refine TryWf.guard (by simp [h]) fun _ => ?_
  unfold jp0
  extract_lets -underBinder jp1
  refine TryWf.guard (by simp [h]) fun _ => ?_
  unfold jp1
  refine TryWf.bind (by simp) fun _ => ?_
  extract_lets -underBinder base
  refine TryWf.bind (by simp) fun _ => TryWf.bind (by simp [h]) fun _ => ?_
  extract_lets -underBinder t0 t1
  clear_value t1
  refine TryWf.bind (by simp) fun _ => ?_
  extract_lets -underBinder zero
  obtain ⟨sa, sn⟩ := t1.srcSide.span t1.extents t1.runLen
  obtain ⟨da, dn⟩ := t1.dstSide.span t1.extents t1.runLen
  dsimp -zeta only
  extract_lets -underBinder jp2
  refine TryWf.guard (by simp) fun _ => ?_
  unfold jp2
  extract_lets -underBinder jp3
  have hjp3 (u : PUnit) : TryWf (fun _ => True) (jp3 u) := by
    unfold jp3
    extract_lets -underBinder jp4
    have hjp4 (u : PUnit) : TryWf (fun _ => True) (jp4 u) := by
      unfold jp4
      extract_lets -underBinder jp5
      have hjp5 (u : PUnit) : TryWf (fun _ => True) (jp5 u) := by
        unfold jp5
        extract_lets -underBinder here t jp6
        have hjp6 (u : PUnit) : TryWf (fun _ => True) (jp6 u) := trivial
        split
        · exact TryWf.guard (by simp [h]) hjp6
        · exact hjp6 ()
      split
      · exact TryWf.bind (by simp) fun _ => TryWf.bind (by simp) fun _ => TryWf.bind (by simp) fun _ => TryWf.bind (by simp) fun _ =>
          TryWf.bind (by simp) hjp5
      · exact hjp5 ()
    split
    · exact TryWf.bind (by simp) fun _ => hjp4 ()
    · exact hjp4 ()
  split
  · exact TryWf.bind (by simp) fun _ => TryWf.bind (by simp) hjp3
  · exact hjp3 ()

@[simp] theorem tryWf_startCopy {P : State × Ctx → Prop} {s : State} (h : s.mem.wf = true) (c : Ctx) (num word : ℕ) (src dst : Option Word) :
    TryWf P (startCopy s c num word src dst) ↔ ∀ y, startCopy s c num word src dst = .ok y → y.1.mem.wf = true → P y := by
  refine (startCopy_keeps h c num word src dst).iff_ok.trans (forall_congr' fun y => ⟨fun k hy _ => k hy, fun k hy => k hy ?_⟩)
  obtain ⟨_, t, zero, rfl⟩ := ensures_startCopy s c num word src dst y hy
  rwa [startedCopy_mem]

@[simp] theorem tryWf_apertureStore {P : State × Ctx → Prop} {s : State} (h : s.mem.wf = true) (c : Ctx) (a : Word) (word : ℕ) :
    TryWf P (apertureStore s c a word) ↔ ∀ y, apertureStore s c a word = .ok y → y.1.mem.wf = true → P y := by
  unfold apertureStore
  refine TryWf.iff ?_
  simp [h]

@[simp] theorem tryWf_namedChannel {P : ℕ → Prop} {s : State} (c : Ctx) (o : Operand) (own : Bool) :
    TryWf P (namedChannel s c o own) ↔ ∀ y, namedChannel s c o own = .ok y → P y := by
  unfold namedChannel
  refine TryWf.iff_ok ?_
  simp

@[simp] theorem tryWf_checkPrivate {P : Region → Prop} (a : Word) (n align element : ℕ) (store word : Bool) :
    TryWf P (checkPrivate a n align element store word) ↔ ∀ y, checkPrivate a n align element store word = .ok y → P y := by
  unfold checkPrivate
  refine TryWf.iff_ok ?_
  split <;> simp

@[simp] theorem tryWf_localRange {P : ℕ → Prop} {s : State} (h : s.mem.wf = true) (c : Ctx) (a : Word) (n align : ℕ) :
    TryWf P (localRange s c a n align) ↔ ∀ y, localRange s c a n align = .ok y → P y := by
  unfold localRange
  refine TryWf.iff_ok ?_
  split <;> simp [h]

@[simp] theorem tryWf_loadElem {P : List Byte → Prop} {s : State} (h : s.mem.wf = true) (c : Ctx) (a : Word) (n : ℕ) :
    TryWf P (loadElem s c a n) ↔ ∀ y, loadElem s c a n = .ok y → P y := by
  unfold loadElem
  refine TryWf.iff_ok ?_
  split <;> simp [h]

@[simp] theorem tryWf_windowHazard {P : Unit → Prop} {s : State} (c : Ctx) (es : List Elem) (store : Bool) :
    TryWf P (windowHazard s c es store) ↔ ∀ y, windowHazard s c es store = .ok y → P y := by
  unfold windowHazard
  refine TryWf.iff_ok ?_
  simp

@[simp] theorem tryWf_checkElems {P : Unit → Prop} (es : List Elem) (store : Bool) :
    TryWf P (checkElems es store) ↔ ∀ y, checkElems es store = .ok y → P y := by
  unfold checkElems
  refine TryWf.iff_ok ?_
  simp

@[simp] theorem tryWf_storeFree {P : Unit → Prop} {s : State} (h : s.mem.wf = true) (c : Ctx) (a : Word) (n : ℕ) :
    TryWf P (storeFree s c a n) ↔ ∀ y, storeFree s c a n = .ok y → P y := by
  unfold storeFree
  refine TryWf.iff_ok ?_
  split <;> simp [h]

theorem storeElem_keeps {s : State} (h : s.mem.wf = true) (c : Ctx) (pos each : ℕ) (a : Word) (bs : List Byte) :
    TryWf (fun r => r.1.mem.wf = true) (storeElem s c pos each a bs) := by
  unfold storeElem
  split
  · exact h
  · dsimp only
    split
    · exact wf_placePlain h ‹_›
    · exact trivial

theorem storeElems_keeps {s : State} (h : s.mem.wf = true) (c : Ctx) :
    ∀ l : List (Elem × List Byte), TryWf (fun r => r.1.mem.wf = true) (storeElems s c l)
  | [] => h
  | (e, bs) :: l => by
    unfold storeElems
    exact tryWf_bind.2 ((storeElem_keeps h c e.pos e.each e.addr bs).mono fun r _ hr => storeElems_keeps hr r.2 l)

@[simp] theorem tryWf_storeAll {P : State × Ctx → Prop} {s : State} (h : s.mem.wf = true) (c : Ctx) (l : List (Elem × List Byte)) :
    TryWf P (storeAll s c l) ↔ ∀ y, storeAll s c l = .ok y → y.1.mem.wf = true → P y := by
  unfold storeAll
  refine TryWf.iff ?_
  simp only [tryWf_bind, List.forM_eq_forM]
  rw [tryWf_forM fun x => (tryWf_storeFree h c _ _).2 fun _ _ => trivial]
  exact fun _ => storeElems_keeps h c l

@[simp] theorem tryWf_checkSpan {P : Unit → Prop} {s : State} (c : Ctx) (a g : Word) (store : Bool) :
    TryWf P (checkSpan s c a g store) ↔ ∀ y, checkSpan s c a g store = .ok y → P y := by
  unfold checkSpan
  refine TryWf.iff_ok ?_
  split <;> simp

@[simp] theorem tryWf_readIndices {P : List ℕ → Prop} (c : Ctx) (o : Operand) :
    TryWf P (readIndices c o) ↔ ∀ y, readIndices c o = .ok y → P y := by
  unfold readIndices
  refine TryWf.iff_ok ?_
  split <;> simp

@[simp] theorem tryWf_vectorPieces {P : List Piece → Prop} {s : State} (h : s.mem.wf = true) (c : Ctx) (a g : Word) (align : ℕ) (write : Bool)
    (slack : ℕ) :
    TryWf P (vectorPieces s c a g align write slack) ↔ ∀ y, vectorPieces s c a g align write slack = .ok y → P y := by
  unfold vectorPieces
  refine TryWf.iff_ok ?_
  split <;> simp [h]

@[simp] theorem tryWf_storeVal {P : Word → Prop} (c : Ctx) (code : Option ℕ) (o : Operand) :
    TryWf P (storeVal c code o) ↔ ∀ y, storeVal c code o = .ok y → P y := by
  unfold storeVal
  refine TryWf.iff_ok ?_
  split <;> simp

@[simp] theorem tryWf_storeElemsOf {P : List ℕ → Prop} (c : Ctx) (code : Option ℕ) (w : ℕ) (o : Operand) :
    TryWf P (storeElemsOf c code w o) ↔ ∀ y, storeElemsOf c code w o = .ok y → P y := by
  unfold storeElemsOf
  refine TryWf.iff_ok ?_
  split <;> simp

/-! ### Steps, tasks and translation -/

@[simp] theorem tryWf_readLane {P : List ℕ → Prop} (c : Ctx) (k : SrcKind) (o : Operand) :
    TryWf P (readLane c k o) ↔ ∀ y, readLane c k o = .ok y → P y := by
  unfold readLane
  refine TryWf.iff_ok ?_
  split <;> simp

@[simp] theorem tryWf_readUni {P : ℕ → Prop} (c : Ctx) (k : SrcKind) (o : Operand) :
    TryWf P (readUni c k o) ↔ ∀ y, readUni c k o = .ok y → P y := by
  unfold readUni
  refine TryWf.iff_ok ?_
  split <;> simp

@[simp] theorem tryWf_takeStep {P : Done → Prop} {s : State} (h : s.mem.wf = true) (c : Ctx) (dst : Operand) (r : StepResult) :
    TryWf P (takeStep s c dst r) ↔ ∀ d, takeStep s c dst r = .ok d → d.s.mem.wf = true → P d := by
  unfold takeStep
  refine TryWf.iff ?_
  simp [h]

@[simp] theorem tryWf_arriveGate {P : Unit → Prop} {s : State} (h : s.mem.wf = true) (c : Ctx) (level : ℕ) :
    TryWf P (arriveGate s c level) ↔ ∀ y, arriveGate s c level = .ok y → P y := by
  unfold arriveGate
  refine TryWf.iff_ok ?_
  split <;> simp [h]

@[simp] theorem tryWf_arrivalOf {P : Arrived → Prop} (c : Ctx) (w : FormX) :
    TryWf P (arrivalOf c w) ↔ ∀ y, arrivalOf c w = .ok y → P y := by
  unfold arrivalOf
  refine TryWf.iff_ok ?_
  simp

@[simp] theorem tryWf_deferGate {P : Unit → Prop} {s : State} (h : s.mem.wf = true) (c : Ctx) :
    TryWf P (deferGate s c) ↔ ∀ y, deferGate s c = .ok y → P y := by
  unfold deferGate
  refine TryWf.iff_ok ?_
  simp [h]

@[simp] theorem tryWf_blockAddr {P : Word → Prop} (c : Ctx) (o : Operand) :
    TryWf P (blockAddr c o) ↔ ∀ y, blockAddr c o = .ok y → P y := by
  unfold blockAddr
  refine TryWf.iff_ok ?_
  simp

@[simp] theorem tryWf_readBlock {P : List Byte → Prop} {s : State} (h : s.mem.wf = true) (c : Ctx) (a : Word) (n : ℕ) :
    TryWf P (readBlock s c a n) ↔ ∀ y, readBlock s c a n = .ok y → P y := by
  unfold readBlock
  refine TryWf.iff_ok ?_
  simp [h]

@[simp] theorem tryWf_giveStatus {P : Done → Prop} {s : State} (h : s.mem.wf = true) (c : Ctx) (dst : Operand) (st : ℕ) :
    TryWf P (giveStatus s c dst st) ↔ ∀ y, giveStatus s c dst st = .ok y → y.s.mem.wf = true → P y := by
  unfold giveStatus
  refine TryWf.iff ?_
  simp [h]

@[simp] theorem tryWf_act {α : Type} {P : α → Prop} {s : State} (h : s.mem.wf = true) (c : Ctx) : TryWf P (act s c) := by
  unfold act
  simp [h]

@[simp] theorem tryWf_pageAddr {P : Word → Prop} (c : Ctx) (o : Operand) :
    TryWf P (pageAddr c o) ↔ ∀ y, pageAddr c o = .ok y → P y := by
  unfold pageAddr
  refine TryWf.iff_ok ?_
  simp

@[simp] theorem tryWf_lookPage {P : Option Leaf × Bool → Prop} {s : State} (h : s.mem.wf = true) (c : Ctx) (a : Word) :
    TryWf P (lookPage s c a) ↔ ∀ y, lookPage s c a = .ok y → P y := by
  unfold lookPage
  refine TryWf.iff_ok ?_
  have hleaf := (tryWf_findLeaf (P := fun _ => True) h c a (c.slktab.headD 0xFFFF) 0).2 fun _ _ => trivial
  split
  · exact trivial
  · exact trivial
  · exact hleaf.stall ‹_›

@[simp] theorem tryWf_runTlbinv {P : Done → Prop} {s : State} (h : s.mem.wf = true) (c : Ctx) (lo n : ℕ) :
    TryWf P (runTlbinv s c lo n) ↔ ∀ y, runTlbinv s c lo n = .ok y → y.s.mem.wf = true → P y := by
  unfold runTlbinv
  refine TryWf.iff ?_
  have hinv := wf_invalidate h lo n
  simp [h, hinv]

/-! ### Rows, transfers and registers of the machine -/

@[simp] theorem tryWf_tileGlobal {P : ℕ → Prop} {s : State} (c : Ctx) (a : Word) (n align : ℕ) :
    TryWf P (tileGlobal s c a n align) ↔ ∀ y, tileGlobal s c a n align = .ok y → P y := by
  unfold tileGlobal
  refine TryWf.iff_ok ?_
  (repeat' split) <;> simp

@[simp] theorem tryWf_rowLeaf {P : Leaf → Prop} {s : State} (h : s.mem.wf = true) (c : Ctx) (a : Word) (write : Bool) (slack element : ℕ) :
    TryWf P (rowLeaf s c a write slack element) ↔ ∀ y, rowLeaf s c a write slack element = .ok y → P y := by
  unfold rowLeaf
  refine TryWf.iff_ok ?_
  simp [h]

theorem rowPieces_keeps {s : State} (h : s.mem.wf = true) (c : Ctx) (write : Bool) (slack element : ℕ) :
    ∀ (f : ℕ) (a : Word) (n : ℕ), TryWf (fun _ => True) (rowPieces s c write slack element f a n)
  | 0, _, _ => trivial
  | f + 1, a, n => by
    unfold rowPieces
    split
    · exact trivial
    · have hleaf := (tryWf_rowLeaf (P := fun _ => True) h c a write slack element).2 fun _ _ => trivial
      have hrest (e : Leaf) := rowPieces_keeps h c write slack element f (a + BitVec.ofNat 64 (min n (e.va + e.size - vaOf a)))
        (n - min n (e.va + e.size - vaOf a))
      split
      · exact trivial
      · exact tryWf_bind.2 (hleaf.mono fun e _ _ => tryWf_bind.2 ((hrest e).mono fun _ _ _ => trivial))

@[simp] theorem tryWf_rowPieces {P : List Piece → Prop} {s : State} (h : s.mem.wf = true) (c : Ctx) (write : Bool) (slack element f : ℕ)
    (a : Word) (n : ℕ) : TryWf P (rowPieces s c write slack element f a n) ↔ ∀ ps, rowPieces s c write slack element f a n = .ok ps → P ps :=
  TryWf.iff_ok (rowPieces_keeps h c write slack element f a n)

@[simp] theorem tryWf_planRows {P : BdPlan → Prop} {s : State} (h : s.mem.wf = true) (c : Ctx) (p : BdPacket) (k : ℕ) :
    TryWf P (planRows s c p k) ↔ ∀ y, planRows s c p k = .ok y → P y := by
  unfold planRows
  refine TryWf.iff_ok ?_
  simp [h]

@[simp] theorem tryWf_podGate {P : Domain → Prop} {s : State} (h : s.mem.wf = true) (c : Ctx) :
    TryWf P (podGate s c) ↔ ∀ y, podGate s c = .ok y → P y := by
  unfold podGate
  refine TryWf.iff_ok ?_
  split <;> simp [h]

@[simp] theorem tryWf_writeLink {P : Ctx → Prop} {s : State} (h : s.mem.wf = true) (c : Ctx) :
    TryWf P (writeLink s c) ↔ ∀ y, writeLink s c = .ok y → P y := by
  unfold writeLink
  refine TryWf.iff_ok ?_
  simp [h]

@[simp] theorem tryWf_transfer {P : Done → Prop} {s : State} (h : s.mem.wf = true) (c : Ctx) (own : Option Word) (link : Bool) :
    TryWf P (transfer s c own link) ↔ ∀ y, transfer s c own link = .ok y → y.s.mem.wf = true → P y := by
  unfold transfer
  refine TryWf.iff ?_
  dsimp only
  split
  · exact h
  · simp [h]

@[simp] theorem tryWf_enterBlock {P : Ctx → Prop} {s : State} (h : s.mem.wf = true) (c : Ctx) (w : HeaderWord) :
    TryWf P (enterBlock s c w) ↔ ∀ y, enterBlock s c w = .ok y → P y := by
  unfold enterBlock
  refine TryWf.iff_ok ?_
  extract_lets a own d c' n _ last
  have hlast (u : Unit) : TryWf (fun _ => True) (last u) := by
    dsimp only [last]
    split
    · exact trivial
    · simp [h]
  simp [h, hlast]

@[simp] theorem tryWf_setCsr_ctx {P : Ctx → Prop} (c : Ctx) (n v w : ℕ) : TryWf P (c.setCsr n v w) ↔ ∀ y, c.setCsr n v w = .ok y → P y := by
  unfold Ctx.setCsr
  refine TryWf.iff_ok ?_
  dsimp only
  (repeat' split) <;> exact trivial

@[simp] theorem tryWf_setCsr {P : State × Ctx → Prop} {s : State} (h : s.mem.wf = true) (c : Ctx) (n v w : ℕ) (named : Bool) :
    TryWf P (setCsr s c n v w named) ↔ ∀ y, setCsr s c n v w named = .ok y → y.1.mem.wf = true → P y := by
  unfold setCsr
  refine TryWf.iff ?_
  split
  · simp [h]
  · simp [h]

@[simp] theorem tryWf_flagsReady {P : Unit → Prop} {s : State} (h : s.mem.wf = true) (c : Ctx) :
    TryWf P (flagsReady s c) ↔ ∀ y, flagsReady s c = .ok y → P y := by
  unfold flagsReady
  refine TryWf.iff_ok ?_
  simp [h]

@[simp] theorem tryWf_queueGate {P : Unit → Prop} {s : State} (h : s.mem.wf = true) (c : Ctx) :
    TryWf P (queueGate s c) ↔ ∀ y, queueGate s c = .ok y → P y := by
  unfold queueGate
  refine TryWf.iff_ok ?_
  simp [h]

@[simp] theorem tryWf_checkRun {P : Unit → Prop} (c : Ctx) (o : Operand) (blocks : ℕ) :
    TryWf P (checkRun c o blocks) ↔ ∀ y, checkRun c o blocks = .ok y → P y := by
  unfold checkRun
  refine TryWf.iff_ok ?_
  simp

@[simp] theorem tryWf_checkAcc {P : Unit → Prop} {s : State} (c : Ctx) (acc blocks : ℕ) (read write : Bool) :
    TryWf P (checkAcc s c acc blocks read write) ↔ ∀ y, checkAcc s c acc blocks read write = .ok y → P y := by
  unfold checkAcc
  refine TryWf.iff_ok ?_
  simp

@[simp] theorem tryWf_checkLocal {P : Unit → Prop} (a : Word) (n align element : ℕ) :
    TryWf P (checkLocal a n align element) ↔ ∀ y, checkLocal a n align element = .ok y → P y := by
  unfold checkLocal
  refine TryWf.iff_ok ?_
  simp

@[simp] theorem tryWf_readLocal {P : List Byte → Prop} {s : State} (h : s.mem.wf = true) (c : Ctx) (a : Word) (n : ℕ) :
    TryWf P (readLocal s c a n) ↔ ∀ y, readLocal s c a n = .ok y → P y := by
  unfold readLocal
  refine TryWf.iff_ok ?_
  simp [h]

@[simp] theorem tryWf_mmaRun {P : Unit → Prop} (trans : Bool) (a : Operand) (c : Ctx) :
    TryWf P (mmaRun trans a c) ↔ ∀ y, mmaRun trans a c = .ok y → P y := by
  unfold mmaRun
  refine TryWf.iff_ok ?_
  split <;> simp

@[simp] theorem tryWf_accRows {P : List (Word × ℕ × ℕ) → Prop} (base stride : Word) (r : ℕ) (g : Word) :
    TryWf P (accRows base stride r g) ↔ ∀ y, accRows base stride r g = .ok y → P y := by
  unfold accRows
  refine TryWf.iff_ok ?_
  simp

@[simp] theorem tryWf_setMember {P : Ctx → Prop} (c : Ctx) (x : ℤ) :
    TryWf P (setMember c x) ↔ ∀ y, setMember c x = .ok y → P y := by
  unfold setMember
  refine TryWf.iff_ok ?_
  simp

@[simp] theorem tryWf_readPair {P : List ℕ → Prop} (c : Ctx) (o : Operand) :
    TryWf P (readPair c o) ↔ ∀ y, readPair c o = .ok y → P y := by
  unfold readPair
  refine TryWf.iff_ok ?_
  split <;> simp

@[simp] theorem tryWf_routeBytes {P : List Byte → Prop} {s : State} (h : s.mem.wf = true) (c : Ctx) (slack : ℕ) (ps : List Piece) :
    TryWf P (s.routeBytes c slack ps) ↔ ∀ y, s.routeBytes c slack ps = .ok y → P y := by
  unfold State.routeBytes
  refine TryWf.iff_ok ?_
  extract_lets have_ ask send
  simp [h]
  refine fun _ => wf_foldl_state (fun t p ht => ?_) h
  simp only [send]
  split <;> simp [ht]

@[simp] theorem tryWf_routeRead {P : List Byte → Prop} {s : State} (h : s.mem.wf = true) (c : Ctx) (slack : ℕ) (a : Word) (n : ℕ) :
    TryWf P (s.routeRead c slack a n) ↔ ∀ y, s.routeRead c slack a n = .ok y → P y := by
  unfold State.routeRead
  refine TryWf.iff_ok ?_
  simp [h]

@[simp] theorem tryWf_writeRegs {P : Ctx → Prop} {s : State} (h : s.mem.wf = true) (c : Ctx) (first : ℕ) (g : Word) (vs : List (List ℕ)) :
    TryWf P (writeRegs s c first g vs) ↔ ∀ y, writeRegs s c first g vs = .ok y → P y := by
  unfold writeRegs
  refine TryWf.iff_ok ?_
  simp [h]

end Sys2Proof.Machine
end

section
/-! PROOFS. The frames of an instruction keep the canonical form of memory (R5) where its own effect does. -/

namespace Sys2Proof.Machine

open Sys2Proof

/-- The next state of an outcome, if there is one, has canonical memory. -/
def OutWf (o : Out) : Prop := ∀ t, o = .next t → t.mem.wf = true

@[simp] theorem outWf_next {t : State} : OutWf (.next t) ↔ t.mem.wf = true := ⟨fun h => h t rfl, fun h _ ht => Host.Outcome.next.inj ht ▸ h⟩

@[simp] theorem outWf_fault {f : Fault} : OutWf (.fault f) := fun _ h => nomatch h

@[simp] theorem outWf_refused {r : Refusal} : OutWf (.refused r) := fun _ h => nomatch h

@[simp] theorem outWf_ite {p : Prop} [Decidable p] {x y : Out} : OutWf (if p then x else y) ↔ (p → OutWf x) ∧ (¬p → OutWf y) := by
  split <;> simp [*]

theorem OutWf.of_eq {o o' : Out} (h : OutWf o') (ho : o = o') : OutWf o := ho ▸ h

theorem OutWf.mapNext {o : Out} {f : State → State} (h : OutWf o) (hf : ∀ t, t.mem.wf = true → (f t).mem.wf = true) : OutWf (mapNext o f) := by
  cases o with
  | next t => exact outWf_next.2 (hf t (h t rfl))
  | fault r => exact outWf_fault
  | refused r => exact outWf_refused

/-- What an instruction comes to leaves canonical memory. -/
@[simp] def DoneWf (d : Done) : Prop := d.s.mem.wf = true

@[simp] theorem Done.finish_mem (d : Done) (c0 : Ctx) (h : Common) : (d.finish c0 h).mem = d.s.mem := by
  unfold Done.finish
  dsimp only
  (repeat' split) <;> simp

theorem wf_finish {d : Done} (h : DoneWf d) (c0 : Ctx) (w : Common) : (d.finish c0 w).mem.wf = true := by rwa [Done.finish_mem]

theorem TryWf.of_ok {α : Type} {P : α → Prop} {x : Try α} {a : α} (h : TryWf P x) (hx : x = .ok a) : P a := by rwa [hx] at h

@[simp] theorem foldl_startBd_mem (s : State) (c : Ctx) (qs : List BdPlan) : (qs.foldl (fun s q => startBd s c q) s).mem = s.mem :=
  foldl_keeps State.mem _ (fun t q => startBd_mem t c q) s

section
variable {s : State} (h : s.mem.wf = true)
include h

/-! ### The frames -/

theorem outWf_runInstr {w : Common} {priv : Bool} {ops : List Operand} {body : State → Ctx → Word → Try Done}
    (hbody : ∀ c g, TryWf DoneWf (body s c g)) : OutWf (runInstr s w priv ops body) := by
  unfold runInstr
  split
  · exact outWf_fault
  · next c hc =>
    have hall : TryWf DoneWf (do
        require (!priv || c.supervisor) fcPRIV
        latchGate s c w.lane ops
        let g ← readGuard c w
        let d ← body s c g
        if d.jump.isNone && !d.left && c.pc + 8 == c.blockEnd then s.checkFall c (c.pc + 8)
        return d) := by
      simp only [tryWf_bind, tryWf_require, tryWf_latchGate h, tryWf_readGuard]
      exact fun _ _ _ g _ => (hbody c g).mono fun d _ hd => by
        have hd : d.s.mem.wf = true := hd
        simp +contextual [h, hd]
    dsimp only
    split
    · next d hd => exact outWf_next.2 (wf_finish (hall.of_ok hd) c w)
    · simp [h]
    · next t ht => exact outWf_next.2 (hall.stall ht)

theorem outWf_runUniform {w : Common} {priv : Bool} {dst : Option Operand} {ops : List Operand} {body : State → Ctx → Try Done}
    (hbody : ∀ c, TryWf DoneWf (body s c)) : OutWf (runUniform s w priv dst ops body) := by
  unfold runUniform
  refine outWf_runInstr h fun c g => ?_
  split
  · exact hbody c
  · exact h

theorem outWf_runValue {w : Common} {dst : Operand} {ops : List Operand} {f : State → Ctx → Try (Word × ℕ)}
    (hf : ∀ c, TryWf (fun _ => True) (f s c)) : OutWf (runValue s w dst ops f) := by
  unfold runValue
  exact outWf_runUniform h fun c => tryWf_bind.2 ((hf c).mono fun r _ _ => by simp [h])

theorem outWf_runElems {w : Common} {dst : Operand} {srcs : List Operand} {n : ℕ} {f : List ℕ → ℕ × ℕ} {ext : ℕ → Word} :
    OutWf (runElems s w dst srcs n f ext) := by
  unfold runElems
  split
  · exact outWf_runInstr h fun c g => by simp [h]
  · exact outWf_runValue h fun c => by simp

theorem outWf_runInt {w : FormA} {srcs : List Operand} {zero : Bool} {op : ℕ → List ℕ → ℕ × ℕ} : OutWf (runInt s w srcs zero op) := by
  unfold runInt
  exact outWf_runElems h

theorem outWf_runExact {w : FormA} {srcs : List Operand} {op : Int → Int → Int → Int} : OutWf (runExact s w srcs op) := by
  unfold runExact
  exact outWf_runInt h

theorem outWf_runBits {w : FormA} {srcs : List Operand} {zero : Bool} {op : ℕ → ℕ → ℕ → ℕ → ℕ} : OutWf (runBits s w srcs zero op) := by
  unfold runBits
  exact outWf_runInt h

theorem outWf_runImm {w : FormI} {op : ℕ → ℕ → ℕ → ℕ × ℕ} {zero : Bool} : OutWf (runImm s w op zero) := by
  unfold runImm
  exact outWf_runElems h

theorem outWf_runCompare {w : Common} {dst : Operand} {srcs : List Operand} {n : ℕ} {holds : ℕ → ℕ → Bool × ℕ} {y : Option ℕ} :
    OutWf (runCompare s w dst srcs n holds y) := by
  unfold runCompare
  split
  · exact outWf_runInstr h fun c g => by simp [h]
  · exact outWf_runValue h fun c => by simp

theorem outWf_runFlt {w : Common} {dst : Operand} {srcs : List Operand} {k : SrcKind} {code : ℕ} {sat nanovf : Bool}
    {op : Rnd → List ℕ → ℕ × ℕ} {ext : ℕ → Word} : OutWf (runFlt s w dst srcs k code sat nanovf op ext) := by
  unfold runFlt
  dsimp only
  split
  · exact outWf_runInstr h fun c g => by simp [h]
  · exact outWf_runUniform h fun c => by simp [h]

theorem outWf_runArith {w : FormA} {srcs : List Operand} {op : ℕ → List FV → FV × ℕ} : OutWf (runArith s w srcs op) := by
  unfold runArith
  exact outWf_runFlt h

theorem outWf_runNoRound {w : FormA} {srcs : List Operand} {op : Fmt → List ℕ → ℕ × ℕ} : OutWf (runNoRound s w srcs op) := by
  unfold runNoRound
  exact outWf_runFlt h

theorem outWf_runMask {w : FormA} {srcs : List Operand} {f : Word → Word → Word} : OutWf (runMask s w srcs f) :=
  outWf_runValue h fun c => by simp

theorem outWf_runVec {w : FormA} {width : ℕ} {ops : List Operand} {f : Ctx → Try (List ℕ)} (hf : ∀ c, TryWf (fun _ => True) (f c)) :
    OutWf (runVec s w width ops f) := outWf_runInstr h fun c g => tryWf_bind.2 ((hf c).mono fun xs _ _ => by simp [h])

theorem outWf_runMx {w : Common} {ops : List Operand} {pre : Ctx → Try Unit} {body : State → Ctx → Word → Try Done}
    (hbody : ∀ c g, TryWf DoneWf (body s c g)) : OutWf (runMx s w ops pre body) := by
  unfold runMx
  split
  · exact outWf_fault
  · split
    · simp [h]
    · exact outWf_runInstr h hbody

theorem outWf_runRelative {w : FormB} {link : Bool} : OutWf (runRelative s w link) := outWf_runInstr h fun c g => by simp [h]

theorem outWf_runIndirect {w : FormA} {link : Bool} : OutWf (runIndirect s w link) := outWf_runInstr h fun c g => by simp [h]

theorem outWf_runLoad {w : FormM} {n : ℕ} {zext : Bool} : OutWf (runLoad s w n zext) := outWf_runUniform h fun c => by simp [h]

theorem outWf_runStore {w : FormM} {n : ℕ} : OutWf (runStore s w n) := outWf_runUniform h fun c => by simp +contextual [h]

theorem outWf_runXstore {w : FormM} {n : ℕ} {code : Option ℕ} : OutWf (runXstore s w n code) := by
  unfold runXstore
  exact outWf_runUniform h fun c => by simp [h]

theorem outWf_runXstorev {w : FormM} {n : ℕ} {code : Option ℕ} : OutWf (runXstorev s w n code) := by
  unfold runXstorev
  exact outWf_runInstr h fun c g => by simp [h]

theorem outWf_runNm {w : FormX} {op : ℕ} : OutWf (runNm w op s) := by
  unfold runNm
  exact outWf_runUniform h fun c => by simp [h]

theorem outWf_runMma {w : FormX} {trans : Bool} : OutWf (runMma s w trans) := by
  unfold runMma
  extract_lets -underBinder n0 vsel geo fmt m
  refine outWf_runMx h fun c g => TryWf.bind (by simp [h]) fun _ => ?_
  extract_lets -underBinder acc
  refine TryWf.bind (by simp) fun x => ?_
  extract_lets -underBinder ctl jbase
  refine TryWf.either trivial (by simp) fun base => ?_
  unfold jbase
  extract_lets -underBinder rb vregs
  refine TryWf.bind (by simp) fun vrows => ?_
  extract_lets -underBinder blocks
  refine TryWf.bind (by simp) fun _ => ?_
  extract_lets -underBinder side stride n
  refine TryWf.bind (by simp) fun _ => TryWf.bind (by simp) fun _ => ?_
  split
  · exact trivial
  · next b _ =>
    refine TryWf.bind (by simp) fun _ => TryWf.bind (by simp) fun _ => ?_
    extract_lets -underBinder q rowAt sideAt width idx jrows
    refine TryWf.guard (by simp) fun _ => ?_
    unfold jrows
    extract_lets -underBinder jsides
    refine TryWf.either trivial (by simp [h]) fun rows => ?_
    unfold jsides
    extract_lets -underBinder jlast
    refine TryWf.either trivial (by simp [h]) fun sides => ?_
    unfold jlast
    simp [h]

theorem outWf_runPreempt {w : FormX} {kill : Bool} : OutWf (runPreempt w kill s) := by
  unfold runPreempt
  refine outWf_runUniform h fun c => TryWf.bind (by simp) fun b => ?_
  extract_lets -underBinder jp
  refine TryWf.guard (by simp [h]) fun _ => ?_
  unfold jp
  split
  · simp [h]
  · next t _ =>
    have hbegin := wf_beginStop h t.num (if kill then 1 else 0)
    have hend := wf_terminate h t.num
    have hmark : (if kill then s.updTask t.num fun t => { t with afterStop := 1 } else s).mem.wf = true := by split <;> simp [h]
    simp [h, hbegin, hend, hmark]

end
end Sys2Proof.Machine
end

section
/-! PROOFS. The accesses of the engines keep the canonical form of memory (R5). -/

namespace Sys2Proof.Machine

open Sys2Proof

/-- A part of an engine's work gives what satisfies P, or changes no more than a state whose memory is canonical. -/
def EngWf {α : Type} (P : α → Prop) : Except EngineStop α → Prop
  | .ok a => P a
  | .error (.note t) => t.mem.wf = true
  | .error _ => True

section
variable {α β : Type} {P : α → Prop}

@[simp] theorem engWf_ok {a : α} : EngWf P (.ok a) ↔ P a := .rfl
@[simp] theorem engWf_pure {a : α} : EngWf P (pure a) ↔ P a := .rfl
@[simp] theorem engWf_note {t : State} : EngWf P (.error (.note t)) ↔ t.mem.wf = true := .rfl
@[simp] theorem engWf_wait : EngWf P (.error .wait) := trivial
@[simp] theorem engWf_full : EngWf P (.error .full) := trivial
@[simp] theorem engWf_bad {code : ℕ} {a : Word} : EngWf P (.error (.bad code a)) := trivial
@[simp] theorem engWf_throw {e : EngineStop} : EngWf P (throw e) ↔ EngWf P (.error e) := .rfl

@[simp] theorem engWf_bind {Q : β → Prop} {x : Except EngineStop α} {f : α → Except EngineStop β} :
    EngWf Q (x >>= f) ↔ EngWf (fun a => EngWf Q (f a)) x := by
  rcases x with (_ | _ | _ | _) | _ <;> rfl

@[simp] theorem engWf_map {Q : β → Prop} {x : Except EngineStop α} {f : α → β} : EngWf Q (f <$> x) ↔ EngWf (fun a => Q (f a)) x := by
  rcases x with (_ | _ | _ | _) | _ <;> rfl

@[simp] theorem engWf_ite {p : Prop} [Decidable p] {x y : Except EngineStop α} :
    EngWf P (if p then x else y) ↔ (p → EngWf P x) ∧ (¬p → EngWf P y) := by
  split <;> simp [*]

theorem EngWf.mono {Q : α → Prop} {x : Except EngineStop α} (h : EngWf P x) (hpq : ∀ a, P a → Q a) : EngWf Q x := by
  rcases x with (_ | _ | _ | _) | _
  · exact h
  · exact h
  · exact h
  · exact h
  · exact hpq _ h

theorem EngWf.bind {Q : β → Prop} {x : Except EngineStop α} {f : α → Except EngineStop β} (hx : EngWf P x) (hf : ∀ a, P a → EngWf Q (f a)) :
    EngWf Q (x >>= f) := engWf_bind.2 (hx.mono hf)

theorem EngWf.note {x : Except EngineStop α} {t : State} (h : EngWf P x) (hx : x = .error (.note t)) : t.mem.wf = true := by rwa [hx] at h

theorem EngWf.of_ok {x : Except EngineStop α} {a : α} (h : EngWf P x) (hx : x = .ok a) : P a := by rwa [hx] at h

theorem engWf_mapM {f : α → Except EngineStop β} (hf : ∀ x, EngWf (fun _ => True) (f x)) : ∀ l : List α, EngWf (fun _ => True) (l.mapM f)
  | [] => trivial
  | x :: l => by
    rw [List.mapM_cons]
    exact (hf x).bind fun _ _ => (engWf_mapM hf l).bind fun _ _ => trivial

theorem engWf_foldlM {σ : Type} {Q : σ → Prop} {f : σ → α → Except EngineStop σ} (hf : ∀ s x, Q s → EngWf Q (f s x)) :
    ∀ (l : List α) {s : σ}, Q s → EngWf Q (l.foldlM f s)
  | [], _, h => h
  | x :: l, s, h => by
    rw [List.foldlM_cons]
    exact (hf s x h).bind fun _ ht => engWf_foldlM hf l ht

theorem foldlM_option_keeps {σ : Type} {Q : σ → Prop} {f : σ → α → Option σ} (hf : ∀ s x t, Q s → f s x = some t → Q t) :
    ∀ {l : List α} {s t : σ}, Q s → l.foldlM f s = some t → Q t
  | [], s, t, h, ht => by rwa [← Option.some.inj ht]
  | x :: l, s, t, h, ht => by
    rw [List.foldlM_cons] at ht
    obtain ⟨u, hu, ht⟩ := Option.bind_eq_some_iff.1 ht
    exact foldlM_option_keeps hf (hf s x u h hu) ht

end

section
variable {s : State} (h : s.mem.wf = true)
include h

/-! ### Pages and pieces -/

theorem engineLeaf_keeps (x : Access) (a : Word) (write : Bool) : EngWf (fun _ => True) (s.engineLeaf x a write) := by
  unfold State.engineLeaf
  have hlook (joined : Bool) (t : State) (ht : s.look x.who x.c.key.tile (vaOf a) x.slack x.overdue = .wait joined t) : t.mem.wf = true :=
    (congrArg Mem.wf (look_wait_keeps ht).2).trans h
  simp only [engWf_ite, engWf_bind, engWf_throw, engWf_bad, implies_true, true_and]
  refine fun _ => ?_
  split
  · simp [h]
  · exact trivial
  · next joined t ht => cases joined <;> simp [hlook _ t ht]

theorem enginePages_keeps (x : Access) (write : Bool) : ∀ (f : ℕ) (a : Word) (n : ℕ), EngWf (fun _ => True) (s.enginePages x write f a n)
  | 0, _, _ => trivial
  | f + 1, a, n => by
    unfold State.enginePages
    split
    · exact trivial
    · exact (engineLeaf_keeps h x a write).bind fun e _ => (enginePages_keeps x write f _ _).bind fun _ _ => trivial

theorem enginePieces_keeps (x : Access) (write : Bool) (a : Word) (n : ℕ) : EngWf (fun _ => True) (s.enginePieces x write a n) := by
  unfold State.enginePieces
  split
  · exact enginePages_keeps h x write _ a n
  · exact trivial

/-! ### Copies -/

theorem sidePieces_keeps (c : Ctx) (ch : Channel) (d : Side) (write : Bool) :
    ∀ l : List (Word × ℕ), EngWf (fun _ => True) (sidePieces s c ch d write l)
  | [] => trivial
  | (a, n) :: l => by
    unfold sidePieces
    refine (enginePieces_keeps h _ write a n).bind fun ps _ => ?_
    dsimp only
    split
    · exact trivial
    · exact (sidePieces_keeps c ch d write l).bind fun _ _ => trivial

theorem askPeers_keeps (c : Ctx) (ch : Channel) (ps : List Piece) : EngWf (fun _ => True) (askPeers s c ch ps) := by
  unfold askPeers
  extract_lets missing asked new
  split
  · exact trivial
  · split
    · exact trivial
    · exact wf_foldl_state (fun t p ht => by simpa using ht) h

theorem resolveCopy_keeps (c : Ctx) (ch : Channel) (t : Template) : EngWf (fun _ => True) (resolveCopy s c ch t) := by
  have hside (d : Side) (write : Bool) : EngWf (fun _ => True) (if d.openFmt then do
      let e ← s.engineLeaf (ch.access c) d.addr write
      return resolveFmt d.fmt d.geo (some e)
    else .ok (d.fmt, d.geo) : Except EngineStop (ℕ × ℕ)) := by
    split
    · exact (engineLeaf_keeps h _ _ _).bind fun _ _ => trivial
    · exact trivial
  unfold resolveCopy
  split
  · exact trivial
  · refine (hside _ _).bind fun _ _ => (hside _ _).bind fun _ _ => ?_
    dsimp only
    split <;> exact trivial

theorem copyWrite_keeps {c : Ctx} {ch : Channel} {t : Template} {p : Piece} {bs : List Byte} {kind : Option (ℕ × ℕ)} {y : State × Channel}
    (hy : copyWrite s c ch t p bs kind = some y) : y.1.mem.wf = true := by
  unfold copyWrite at hy
  split at hy
  · rw [← Option.some.inj hy, gatherWrite_mem]
    exact h
  · obtain ⟨u, hu, rfl⟩ := Option.map_eq_some_iff.1 hy
    exact wf_place h hu


theorem runCopy_keeps (tile num : ℕ) : EngWf (fun t => t.mem.wf = true) (runCopy s tile num) := by
  unfold runCopy
  extract_lets -underBinder ch
  split
  · next t0 c _ _ =>
    extract_lets -underBinder jbusy
    have hbusy (u : PUnit) : EngWf (fun t => t.mem.wf = true) (jbusy u) := by
      unfold jbusy
      refine (resolveCopy_keeps h c ch t0).bind fun t _ => ?_
      extract_lets -underBinder ch
      refine (sidePieces_keeps h c _ _ _ _).bind fun src _ => (sidePieces_keeps h c _ _ _ _).bind fun dst _ => ?_
      extract_lets -underBinder jfull
      have hfull (u : PUnit) : EngWf (fun t => t.mem.wf = true) (jfull u) := by
        unfold jfull
        refine (askPeers_keeps h c _ _).bind fun _ _ => ?_
        extract_lets -underBinder data
        obtain ⟨out, fl⟩ := t.convertRun data
        dsimp -zeta only
        extract_lets -underBinder cut parts
        split
        · exact trivial
        · next u chu hparts =>
          have hu : u.mem.wf = true := foldlM_option_keeps (Q := fun y : State × Channel => y.1.mem.wf = true)
            (fun y x z hy hz => copyWrite_keeps hy hz) h hparts
          have hflush : (if t.total ≤ chu.progress + 1 then flushGather u c chu else (u, chu)).1.mem.wf = true := by
            split <;> simp [hu]
          generalize (if t.total ≤ chu.progress + 1 then flushGather u c chu else (u, chu)) = y at hflush
          obtain ⟨v, chv⟩ := y
          extract_lets got reads late used sent kept chw
          have hused : used.mem.wf = true := wf_usePages (s := v.endRequests chv.work got) (by simpa using hflush) _ _ _ _
          simp [sent, hused]
      split
      · exact trivial
      · exact hfull ()
    split
    · exact trivial
    · exact hbusy ()
  · exact trivial

theorem reinstall_keeps {tile num : ℕ} {t : State} (ht : reinstall s tile num = some t) : t.mem.wf = true := by rwa [reinstall_mem ht]

/-! ### The results of base-die commands and collectives -/

theorem placeBdWrite_keeps (c : Ctx) (m : BdCmd) (x : (Word × List Byte) × List Piece) : EngWf (fun t => t.mem.wf = true) (placeBdWrite c m s x) := by
  unfold placeBdWrite
  refine engWf_foldlM (Q := fun t : State => t.mem.wf = true) (fun t y ht => ?_) _ h
  split
  · next u hu =>
    have hplaced := wf_place ht hu
    split
    · exact wf_foldl_state (fun _ e hv => wf_setDirty hv e) hplaced
    · exact hplaced
  · exact trivial

theorem placeBd_keeps (c : Ctx) (m : BdCmd) : EngWf (fun t => t.mem.wf = true) (placeBd s c m) := by
  unfold placeBd
  exact (engWf_mapM (fun _ => enginePieces_keeps h _ _ _ _) _).bind fun ps _ =>
    engWf_foldlM (Q := fun t : State => t.mem.wf = true) (fun t x ht => placeBdWrite_keeps ht c m x) _ h

theorem placeColl_keeps (c : Ctx) (m : Coll) : EngWf (fun t => t.mem.wf = true) (placeColl s c m) := by
  unfold placeColl
  split
  · exact h
  · extract_lets -underBinder bs
    refine (enginePieces_keeps h _ _ _ _).bind fun ps _ => ?_
    extract_lets later wr put
    have hput (t : State) (x : Piece × List Byte) (u : State) (ht : t.mem.wf = true) (hu : put t x = some u) : u.mem.wf = true :=
      wf_foldlM_state (fun v r w hv hw => wf_place hv hw) ht hu
    split
    · next u hu => exact wf_foldl_state (fun _ e hv => wf_setDirty hv e) (wf_foldlM_state hput h hu)
    · exact trivial

/-! ### Matrix commands -/

theorem stageRows_keeps {c : Ctx} {g : Word} {rows : List ((ℕ × ℕ) × List Byte)} {t : State} (ht : stageRows s c g rows = some t) : t.mem.wf = true :=
  wf_foldlM_state (fun _ _ _ hu hv => wf_foldlM_state (fun _ _ _ hw hx => wf_placePlain hw hx) hu hv) h ht

theorem runCmd_keeps {c : Ctx} {m : MxCmd} {y : State × Ctx × Option MxCmd} (hy : runCmd s c m = some y) : y.1.mem.wf = true := by
  unfold runCmd at hy
  extract_lets row whole at hy
  have hrow (t : State) (c : Ctx) (m : MxCmd) (last : ℕ) : (row t c m last).1 = t := by
    dsimp only [row]
    split <;> rfl
  have same {z : State × Ctx × Option MxCmd} (hz : some z = some y) (hs : z.1.mem = s.mem) : y.1.mem.wf = true := by
    rw [← Option.some.inj hz, hs]
    exact h
  have hone (m : MxCmd) (c : Ctx) (last : ℕ) : (row s c m last).1.mem = s.mem := congrArg State.mem (hrow s c m last)
  split at hy
  · split at hy
    · split at hy
      · exact same hy (hone _ _ _)
      · cases hy
    · exact same hy rfl
  · split at hy
    · exact same hy (State.updTile_mem s _ _)
    · exact same hy rfl
  · exact same hy rfl
  · exact same hy rfl
  · exact same hy rfl
  · split at hy
    · exact same hy rfl
    · exact same hy (hone _ _ _)
  · split at hy
    · exact same hy rfl
    · obtain ⟨t, ht, rfl⟩ := Option.map_eq_some_iff.1 hy
      rw [hrow]
      exact stageRows_keeps h ht

/-! ### Admission -/

/-- What an admission has made of memory. -/
def Admitting.Wf (x : Admitting) : Prop := x.s.mem.wf = true ∧ x.base.mem.wf = true

theorem admitPage_keeps (domain : ℕ) (supervisor : Bool) (rank : ℕ) (a : Word) :
    EngWf (fun _ => True) (s.admitPage domain supervisor rank a) := by
  have hleaf := engineLeaf_keeps h { who := .admission domain, c := admitCtx rank, supervisor := supervisor, slack := 0xFFFF } a true
  unfold State.admitPage
  split
  · exact trivial
  · exact trivial
  · next e he hx =>
    rw [hx] at hleaf
    cases e with
    | note t => exact hleaf
    | wait => exact trivial
    | full => exact trivial
    | bad code b => exact trivial

omit h in
theorem admitPart_keeps {d : Domain} {pkg rank : ℕ} {supervisor : Bool} {slot : Option ℕ} {x : Admitting} (hx : x.Wf) (a : Word) (n : ℕ)
    (bs : List Byte) :
    EngWf (fun y => y.1.Wf) (admitPart d pkg rank supervisor slot x a n bs) := by
  obtain ⟨hs, hbase⟩ := hx
  unfold admitPart
  extract_lets -underBinder s
  refine (admitPage_keeps hbase _ _ _ _).bind fun page _ => ?_
  dsimp only
  split
  · split
    · next t ht =>
      have hput : t.mem.wf = true := wf_foldlM_state (fun u p v hu hv => by rw [State.enterPeer_mem hv]; exact hu) hs ht
      exact ⟨wf_setDirty hput _, hbase⟩
    · exact trivial
  · refine engWf_ite.2 ⟨fun _ => ⟨hs, hbase⟩, fun _ => ⟨?_, hbase⟩⟩
    simpa using hs

omit h in
theorem admitWrite_keeps {d : Domain} {pkg rank : ℕ} {supervisor : Bool} {slot : Option ℕ} :
    ∀ (f : ℕ) {x : Admitting} (_ : x.Wf) (a : Word) (bs : List Byte), EngWf Admitting.Wf (admitWrite d pkg rank supervisor slot f x a bs)
  | 0, _, hx, _, _ => hx
  | f + 1, x, hx, a, bs => by
    unfold admitWrite
    split
    · exact hx
    · exact (admitPart_keeps hx a _ bs).bind fun y hy => admitWrite_keeps f hy _ _

omit h in
theorem takeToken_keeps {r : Rounds} (hr : r.x.Wf) (d : Domain) (t : RToken) (slot : Slot) (round : ℕ) :
    EngWf (fun r' => r'.x.Wf) (r.takeToken d t slot round) := by
  unfold Rounds.takeToken
  extract_lets -underBinder a bs
  refine (admitWrite_keeps _ hr _ _).bind fun x hx => ?_
  obtain ⟨hs, hbase⟩ := hx
  refine ⟨?_, hbase⟩
  dsimp only
  split
  · split
    · rwa [Claims.sendArrival_mem]
    · exact hs
  · exact hs

omit h in
theorem overflow_x (r : Rounds) (t : RToken) (reason : ℕ) : (r.overflow t reason).1.x = r.x := by
  unfold Rounds.overflow
  split
  · rfl
  · split <;> rfl

omit h in
theorem roundOne_keeps (d : Domain) : ∀ (ts : List RToken) {r : Rounds × List RToken} (_ : r.1.x.Wf), EngWf (fun r' => r'.1.x.Wf) (roundOne d ts r)
  | [], _, hr => hr
  | t :: ts, (r, fwd), hr => by
    unfold roundOne
    extract_lets spill
    have hspill (reason : ℕ) : EngWf (fun r' => r'.1.x.Wf) (spill reason) :=
      roundOne_keeps d ts (r := ((r.overflow t reason).1, fwd ++ (r.overflow t reason).2)) ((congrArg Admitting.Wf (overflow_x r t reason)).mpr hr)
    split
    · exact hspill _
    · split
      · exact hspill 3
      · next x _ =>
        split
        · exact hspill 3
        · split
          · exact (takeToken_keeps hr d t x 0).bind fun r' hr' => roundOne_keeps d ts hr'
          · exact hspill 1

omit h in
theorem roundTwo_keeps (d : Domain) : ∀ (ts : List RToken) {r : Rounds} (_ : r.x.Wf), EngWf (fun r' => r'.x.Wf) (roundTwo d ts r)
  | [], _, hr => hr
  | t :: ts, r, hr => by
    unfold roundTwo
    split
    · exact roundTwo_keeps d ts hr
    · next x _ =>
      split
      · exact roundTwo_keeps d ts hr
      · split
        · exact (takeToken_keeps hr d t x 1).bind fun r' hr' => roundTwo_keeps d ts hr'
        · exact roundTwo_keeps d ts hr

omit h in
theorem writeBounces_keeps (d : Domain) (own : ℕ) : ∀ (ls : List RouteList) {x : Admitting} (_ : x.Wf), EngWf Admitting.Wf (writeBounces d own ls x)
  | [], _, hx => hx
  | l :: ls, x, hx => by
    unfold writeBounces
    exact (admitWrite_keeps _ hx _ _).bind fun y hy => writeBounces_keeps d own ls hy

end
end Sys2Proof.Machine
end

section
/-! PROOFS. The effects of the instructions and events keep the canonical form of memory (R5). -/

namespace Sys2Proof.Machine

open Sys2Proof

section
variable {s : State} (h : s.mem.wf = true)
include h

/-! ### Copies and byte-count barriers -/

theorem outWf_execCopyInflightFault : OutWf (execCopyInflightFault s) := by
  unfold execCopyInflightFault
  split <;> simp [h]

theorem outWf_execBtx {w : FormM} : OutWf (execBtx w s) := outWf_runUniform h fun c => by simp [h]

theorem outWf_execBtxa {w : FormX} : OutWf (execBtxa w s) := by
  unfold execBtxa
  refine outWf_runUniform h fun c => ?_
  simp [h]

theorem outWf_execBtwm {w : FormX} : OutWf (execBtwm w s) := outWf_runUniform h fun c => by simp [h]

theorem outWf_execBtstat {w : FormX} : OutWf (execBtstat w s) := outWf_runUniform h fun c => by simp [h]

theorem outWf_execBtwait {w : FormX} : OutWf (execBtwait w s) := by
  unfold execBtwait
  refine outWf_runUniform h fun c => ?_
  simp [h]

theorem outWf_execBtcan {w : FormX} : OutWf (execBtcan w s) := outWf_runUniform h fun c => by simp [h]

theorem outWf_execBcPostApply : OutWf (execBcPostApply s) := by
  unfold execBcPostApply
  (repeat' split) <;> simp [h]

theorem outWf_execBcArrival : OutWf (execBcArrival s) := by
  unfold execBcArrival
  split <;> simp [h]

theorem outWf_execBcarv {w : FormX} : OutWf (execBcarv w s) := outWf_runUniform h fun c => by simp [h]

theorem outWf_execBcwait {w : FormX} : OutWf (execBcwait w s) := outWf_runUniform h fun c => by simp [h]

theorem outWf_execBctest {w : FormX} : OutWf (execBctest w s) := outWf_runUniform h fun c => by simp [h]

/-! ### Loads and stores -/

theorem outWf_execLdb {w : FormM} : OutWf (execLdb w s) := outWf_runLoad h

theorem outWf_execLdh {w : FormM} : OutWf (execLdh w s) := outWf_runLoad h

theorem outWf_execLdw {w : FormM} : OutWf (execLdw w s) := outWf_runLoad h

theorem outWf_execLdd {w : FormM} : OutWf (execLdd w s) := outWf_runLoad h

theorem outWf_execStb {w : FormM} : OutWf (execStb w s) := outWf_runStore h

theorem outWf_execSth {w : FormM} : OutWf (execSth w s) := outWf_runStore h

theorem outWf_execStw {w : FormM} : OutWf (execStw w s) := outWf_runStore h

theorem outWf_execStd {w : FormM} : OutWf (execStd w s) := outWf_runStore h

theorem outWf_execLdv {w : FormM} : OutWf (execLdv w s) := outWf_runInstr h fun c g => by simp [h]

theorem outWf_execStv {w : FormM} : OutWf (execStv w s) := outWf_runInstr h fun c g => by simp [h]

theorem outWf_execLdvs {w : FormM} : OutWf (execLdvs w s) := outWf_runInstr h fun c g => by simp [h]

theorem outWf_execStvs {w : FormM} : OutWf (execStvs w s) := outWf_runInstr h fun c g => by simp [h]

theorem outWf_execLdvx {w : FormM} : OutWf (execLdvx w s) := outWf_runInstr h fun c g => by simp [h]

theorem outWf_execStvx {w : FormM} : OutWf (execStvx w s) := outWf_runInstr h fun c g => by simp [h]

/-! ### Exchange access -/

theorem outWf_execXldd {w : FormM} : OutWf (execXldd w s) := by
  unfold execXldd
  refine outWf_runUniform h fun c => ?_
  simp [h]
  (repeat' split) <;> simp [h]

theorem outWf_execXldv {w : FormM} : OutWf (execXldv w s) := by
  unfold execXldv
  refine outWf_runInstr h fun c g => ?_
  simp [h]
  (repeat' split) <;> simp [h]

theorem outWf_execXstd {w : FormM} : OutWf (execXstd w s) := outWf_runXstore h

theorem outWf_execXstv {w : FormM} : OutWf (execXstv w s) := outWf_runXstorev h

theorem outWf_execXred {w : FormM} : OutWf (execXred w s) := outWf_runXstore h

theorem outWf_execXredv {w : FormM} : OutWf (execXredv w s) := outWf_runXstorev h

theorem outWf_peerReply {data : List Byte} : OutWf (peerReply s data) := by
  unfold peerReply
  (repeat' split) <;> simp [h]

theorem outWf_tokenAccepted : OutWf (tokenAccepted s) := by
  unfold tokenAccepted
  split <;> simp [h]

theorem outWf_execExchangeInflightFault : OutWf (execExchangeInflightFault s) := by
  unfold execExchangeInflightFault
  (repeat' split) <;> simp [h]

theorem outWf_execRegisterCacheFill : OutWf (execRegisterCacheFill s) := by
  unfold execRegisterCacheFill
  split <;> simp [h]

/-! ### Integers -/

theorem outWf_execAdd {w : FormA} : OutWf (execAdd w s) := outWf_runExact h

theorem outWf_execSub {w : FormA} : OutWf (execSub w s) := outWf_runExact h

theorem outWf_execMul {w : FormA} : OutWf (execMul w s) := outWf_runExact h

theorem outWf_execMad {w : FormA} : OutWf (execMad w s) := outWf_runExact h

theorem outWf_execAddi {w : FormI} : OutWf (execAddi w s) := outWf_runImm h

theorem outWf_execMuli {w : FormI} : OutWf (execMuli w s) := outWf_runImm h

theorem outWf_execMulhi {w : FormA} : OutWf (execMulhi w s) := outWf_runBits h

theorem outWf_execMulhu {w : FormA} : OutWf (execMulhu w s) := outWf_runBits h

theorem outWf_execDiv {w : FormA} : OutWf (execDiv w s) := outWf_runInt h

theorem outWf_execDivu {w : FormA} : OutWf (execDivu w s) := outWf_runInt h

theorem outWf_execRem {w : FormA} : OutWf (execRem w s) := outWf_runInt h

theorem outWf_execRemu {w : FormA} : OutWf (execRemu w s) := outWf_runInt h

theorem outWf_execAnd {w : FormA} : OutWf (execAnd w s) := outWf_runBits h

theorem outWf_execAndi {w : FormI} : OutWf (execAndi w s) := outWf_runImm h

theorem outWf_execOr {w : FormA} : OutWf (execOr w s) := outWf_runBits h

theorem outWf_execOri {w : FormI} : OutWf (execOri w s) := outWf_runImm h

theorem outWf_execXor {w : FormA} : OutWf (execXor w s) := outWf_runBits h

theorem outWf_execXori {w : FormI} : OutWf (execXori w s) := outWf_runImm h

theorem outWf_execShl {w : FormA} : OutWf (execShl w s) := outWf_runInt h

theorem outWf_execShli {w : FormI} : OutWf (execShli w s) := outWf_runImm h

theorem outWf_execShr {w : FormA} : OutWf (execShr w s) := outWf_runBits h

theorem outWf_execShri {w : FormI} : OutWf (execShri w s) := outWf_runImm h

theorem outWf_execSar {w : FormA} : OutWf (execSar w s) := outWf_runBits h

theorem outWf_execSari {w : FormI} : OutWf (execSari w s) := outWf_runImm h

theorem outWf_execRol {w : FormA} : OutWf (execRol w s) := outWf_runBits h

theorem outWf_execMin {w : FormA} : OutWf (execMin w s) := outWf_runBits h

theorem outWf_execMinu {w : FormA} : OutWf (execMinu w s) := outWf_runBits h

theorem outWf_execMax {w : FormA} : OutWf (execMax w s) := outWf_runBits h

theorem outWf_execMaxu {w : FormA} : OutWf (execMaxu w s) := outWf_runBits h

theorem outWf_execAbs {w : FormA} : OutWf (execAbs w s) := outWf_runInt h

theorem outWf_execCmp {w : FormA} : OutWf (execCmp w s) := by
  unfold execCmp
  exact outWf_runCompare h

theorem outWf_execCmpi {w : FormI} : OutWf (execCmpi w s) := by
  unfold execCmpi
  exact outWf_runCompare h

theorem outWf_execMov {w : FormA} : OutWf (execMov w s) := outWf_runBits h

theorem outWf_execMovhi {w : FormW} : OutWf (execMovhi w s) := by
  unfold execMovhi
  refine outWf_runUniform h fun c => ?_
  simp
  (repeat' split) <;> simp [h]

theorem outWf_execPopc {w : FormA} : OutWf (execPopc w s) := outWf_runBits h

theorem outWf_execClz {w : FormA} : OutWf (execClz w s) := outWf_runBits h

theorem outWf_execCtz {w : FormA} : OutWf (execCtz w s) := outWf_runBits h

theorem outWf_execBrev {w : FormA} : OutWf (execBrev w s) := outWf_runBits h

theorem outWf_execBfx {w : FormA} : OutWf (execBfx w s) := outWf_runBits h

theorem outWf_execBfxu {w : FormA} : OutWf (execBfxu w s) := outWf_runBits h

theorem outWf_execBfi {w : FormA} : OutWf (execBfi w s) := outWf_runInt h

theorem outWf_execLea {w : FormA} : OutWf (execLea w s) := outWf_runBits h

/-! ### Floating point -/

theorem outWf_execFadd {w : FormA} : OutWf (execFadd w s) := outWf_runArith h

theorem outWf_execFsub {w : FormA} : OutWf (execFsub w s) := outWf_runArith h

theorem outWf_execFmul {w : FormA} : OutWf (execFmul w s) := outWf_runArith h

theorem outWf_execFma {w : FormA} : OutWf (execFma w s) := outWf_runArith h

theorem outWf_execFms {w : FormA} : OutWf (execFms w s) := outWf_runArith h

theorem outWf_execFnma {w : FormA} : OutWf (execFnma w s) := outWf_runArith h

theorem outWf_execFnms {w : FormA} : OutWf (execFnms w s) := outWf_runArith h

theorem outWf_execFmin {w : FormA} : OutWf (execFmin w s) := outWf_runNoRound h

theorem outWf_execFmax {w : FormA} : OutWf (execFmax w s) := outWf_runNoRound h

theorem outWf_execFabs {w : FormA} : OutWf (execFabs w s) := outWf_runNoRound h

theorem outWf_execFneg {w : FormA} : OutWf (execFneg w s) := outWf_runNoRound h

theorem outWf_execFcpys {w : FormA} : OutWf (execFcpys w s) := outWf_runNoRound h

theorem outWf_execFclass {w : FormA} : OutWf (execFclass w s) := outWf_runNoRound h

theorem outWf_execFdiv {w : FormA} : OutWf (execFdiv w s) := outWf_runArith h

theorem outWf_execFsqrt {w : FormA} : OutWf (execFsqrt w s) := outWf_runArith h

theorem outWf_execFrcp {w : FormA} : OutWf (execFrcp w s) := outWf_runArith h

theorem outWf_execFrsq {w : FormA} : OutWf (execFrsq w s) := outWf_runArith h

theorem outWf_execFexp2 {w : FormA} : OutWf (execFexp2 w s) := outWf_runArith h

theorem outWf_execFlog2 {w : FormA} : OutWf (execFlog2 w s) := outWf_runArith h

theorem outWf_execFrnd {w : FormA} : OutWf (execFrnd w s) := by
  unfold execFrnd
  exact outWf_runFlt h

theorem outWf_execFcvt {w : FormA} : OutWf (execFcvt w s) := by
  unfold execFcvt
  exact outWf_runFlt h

theorem outWf_execFcvti {w : FormA} : OutWf (execFcvti w s) := by
  unfold execFcvti
  exact outWf_runFlt h

theorem outWf_execIcvtf {w : FormA} : OutWf (execIcvtf w s) := by
  unfold execIcvtf
  exact outWf_runFlt h

/-! ### Steps and domains -/

theorem outWf_execStepTimeout : OutWf (execStepTimeout s) := by
  unfold execStepTimeout
  split <;> simp [h]

theorem outWf_execSync {w : FormX} : OutWf (execSync w s) := by
  unfold execSync
  refine outWf_runUniform h fun c => ?_
  simp
  (repeat' split) <;> simp [h]

theorem outWf_execArrive {w : FormX} : OutWf (execArrive w s) := outWf_runUniform h fun c => by simp [h]

theorem outWf_execWaits {w : FormX} : OutWf (execWaits w s) := by
  unfold execWaits
  refine outWf_runUniform h fun c => ?_
  simp
  (repeat' split) <;> simp [h]

theorem outWf_execSteprd {w : FormX} : OutWf (execSteprd w s) := outWf_runUniform h fun c => by simp [h]

theorem outWf_execAbortrd {w : FormX} : OutWf (execAbortrd w s) := outWf_runUniform h fun c => by simp [h]

theorem outWf_execDombind {w : FormX} : OutWf (execDombind w s) := outWf_runUniform h fun c => by simp [h]

theorem outWf_execDombindFree {w : FormX} : OutWf (execDombindFree w s) := outWf_runUniform h fun c => by simp [h]

theorem outWf_execExit {w : FormA} : OutWf (execExit w s) := by
  unfold execExit
  refine outWf_runUniform h fun c => ?_
  simp [h]
  (repeat' split) <;> simp [h]

/-! ### Links and pod barriers -/

theorem outWf_execMaskChange {dark : BitVec 16} : OutWf (execMaskChange dark s) := by
  unfold execMaskChange
  simp [h]

theorem outWf_execWavelengthDark : OutWf (execWavelengthDark s) := by
  unfold execWavelengthDark
  simp [h]

theorem outWf_execSlotControlReceive {c : SlotControl} : OutWf (execSlotControlReceive c s) := by
  unfold execSlotControlReceive
  simp [h]

theorem outWf_execPeerAbsent : OutWf (execPeerAbsent s) := by
  unfold execPeerAbsent
  simp [h]

theorem outWf_execFlitReceive {f : Flit} : OutWf (execFlitReceive f s) := by
  unfold execFlitReceive
  (repeat' split) <;> simp [h]

theorem outWf_execRelayArrival {p : RelayPacket} : OutWf (execRelayArrival p s) := by
  unfold execRelayArrival
  simp [h]

theorem outWf_execReplayResend : OutWf (execReplayResend s) := by
  unfold execReplayResend
  simp [h]

theorem outWf_execShareAnnouncement {a : ShareNote} : OutWf (execShareAnnouncement a s) := by
  unfold execShareAnnouncement
  split <;> simp [h]

theorem outWf_execPodContribution {c : PodContrib} : OutWf (execPodContribution c s) := by
  unfold execPodContribution
  split <;> simp [h]

theorem outWf_execPodResult {r : PodResult} : OutWf (execPodResult r s) := by
  unfold execPodResult
  split <;> simp [h]

theorem outWf_execPeerTimeout : OutWf (execPeerTimeout s) := by
  unfold execPeerTimeout
  split <;> simp [h]

/-! ### Tasks -/

theorem outWf_execTaskPlacement : OutWf (execTaskPlacement s) := by
  unfold execTaskPlacement
  split <;> simp [h]

theorem outWf_execReservation : OutWf (execReservation s) := by
  unfold execReservation
  (repeat' split) <;> simp [h]

theorem outWf_execPlacementStall : OutWf (execPlacementStall s) := by
  unfold execPlacementStall
  (repeat' split) <;> simp [h]

theorem outWf_execTraceMiss : OutWf (execTraceMiss s) := by
  unfold execTraceMiss
  split <;> simp [h]

theorem outWf_execPredecessorDecrement : OutWf (execPredecessorDecrement s) := by
  unfold execPredecessorDecrement
  dsimp only
  (repeat' split) <;> simp [h]

theorem outWf_execTaskRetire : OutWf (execTaskRetire s) := by
  unfold execTaskRetire
  split <;> simp [h]

theorem outWf_execCommitHoldEnd : OutWf (execCommitHoldEnd s) := by
  unfold execCommitHoldEnd
  dsimp only
  (repeat' split) <;> simp [h]

theorem outWf_execActiveMessageArrival : OutWf (execActiveMessageArrival s) := by
  unfold execActiveMessageArrival
  split <;> simp [h]

theorem outWf_execActiveMessageStart : OutWf (execActiveMessageStart s) := by
  unfold execActiveMessageStart
  dsimp only
  (repeat' split) <;> simp [h]

theorem outWf_execTdone {w : FormX} : OutWf (execTdone w s) := outWf_runUniform h fun c => by simp [h]

theorem outWf_execTcbrdy {w : FormX} : OutWf (execTcbrdy w s) := by
  unfold execTcbrdy
  refine outWf_runUniform h fun c => ?_
  simp [h]
  intros
  (repeat' split) <;> simp [h]

theorem outWf_execTaskid {w : FormX} : OutWf (execTaskid w s) := outWf_runValue h fun c => by simp

theorem outWf_execRankrd {w : FormX} : OutWf (execRankrd w s) := outWf_runValue h fun c => by simp

theorem outWf_execRankrdShape {w : FormX} : OutWf (execRankrdShape w s) := outWf_runValue h fun c => by simp

theorem outWf_execTaskStop : OutWf (execTaskStop s) := by
  unfold execTaskStop
  dsimp only
  (repeat' split) <;> simp [h]

theorem outWf_execTaskResume : OutWf (execTaskResume s) := by
  unfold execTaskResume
  split <;> simp [h]

theorem outWf_execBalancePeriod {busy : List ℕ} : OutWf (execBalancePeriod busy s) := by
  unfold execBalancePeriod
  dsimp only
  (repeat' split) <;> simp [h]

theorem outWf_execHardwareError {selfTestPasses : Bool} : OutWf (execHardwareError selfTestPasses s) := by
  unfold execHardwareError
  simp [h]

theorem outWf_execRegisterEccError {correctable selfTestPasses : Bool} : OutWf (execRegisterEccError correctable selfTestPasses s) := by
  unfold execRegisterEccError
  split <;> simp [h]

theorem outWf_execPreempt {w : FormX} : OutWf (execPreempt w s) := outWf_runPreempt h

theorem outWf_execPreemptKill {w : FormX} : OutWf (execPreemptKill w s) := outWf_runPreempt h

theorem outWf_execResume {w : FormX} : OutWf (execResume w s) := by
  unfold execResume
  refine outWf_runUniform h fun c => ?_
  simp [h]
  intros
  (repeat' split) <;> simp [h]

theorem outWf_execResumeCtx {w : FormX} : OutWf (execResumeCtx w s) := by
  unfold execResumeCtx
  refine outWf_runUniform h fun c => ?_
  simp [h]
  intros
  (repeat' split) <;> simp [h]

theorem outWf_execResumeRemove {w : FormX} : OutWf (execResumeRemove w s) := by
  unfold execResumeRemove
  refine outWf_runUniform h fun c => ?_
  simp [h]
  intros
  (repeat' split) <;> simp [h]

theorem outWf_execReloc {w : FormX} : OutWf (execReloc w s) := by
  unfold execReloc
  refine outWf_runUniform h fun c => ?_
  simp [h]
  intros
  (repeat' split) <;> simp [h]

/-! ### Translation and migration -/

theorem outWf_execSlackTick : OutWf (execSlackTick s) := by
  unfold execSlackTick
  simp [h]

theorem outWf_execInstructionFetchReply : OutWf (execInstructionFetchReply s) := by
  unfold execInstructionFetchReply
  (repeat' split) <;> simp [h]

theorem outWf_execWaitTimeout : OutWf (execWaitTimeout s) := by
  unfold execWaitTimeout
  split <;> simp [h]

theorem outWf_execTableWalk : OutWf (execTableWalk s) := by
  unfold execTableWalk
  split <;> simp [h]

theorem outWf_execCounterIncrement : OutWf (execCounterIncrement s) := by
  unfold execCounterIncrement
  dsimp only
  (repeat' split) <;> simp [h]

theorem outWf_execMigrationComplete : OutWf (execMigrationComplete s) := by
  unfold execMigrationComplete
  split <;> simp [h]

theorem outWf_execWriteBlocked : OutWf (execWriteBlocked s) := by
  unfold execWriteBlocked
  (repeat' split) <;> simp [h]

theorem outWf_execReadUncorrectable {access : Option CtxKey} : OutWf (execReadUncorrectable access s) := by
  unfold execReadUncorrectable
  split <;> simp [h]

theorem outWf_execReadRetryResult : OutWf (execReadRetryResult s) := by
  unfold execReadRetryResult
  dsimp only
  (repeat' split) <;> simp [h]

theorem outWf_execPginfo {w : FormX} : OutWf (execPginfo w s) := outWf_runValue h fun c => by simp [h]

theorem outWf_execCntrd {w : FormX} : OutWf (execCntrd w s) := by
  unfold execCntrd
  refine outWf_runValue h fun c => ?_
  simp [h]
  intros
  (repeat' split) <;> simp

theorem outWf_execTlbinv {w : FormX} : OutWf (execTlbinv w s) := outWf_runUniform h fun c => by simp [h]

theorem outWf_execTlbinvAll {w : FormX} : OutWf (execTlbinvAll w s) := outWf_runUniform h fun c => by simp [h]

/-! ### Base dies -/

theorem outWf_execNmred {w : FormX} : OutWf (execNmred w s) := outWf_runNm h

theorem outWf_execNmgath {w : FormX} : OutWf (execNmgath w s) := outWf_runNm h

theorem outWf_execNmfill {w : FormX} : OutWf (execNmfill w s) := outWf_runNm h

theorem outWf_execNmcpy {w : FormX} : OutWf (execNmcpy w s) := outWf_runNm h

theorem outWf_execBasedieSubcommand : OutWf (execBasedieSubcommand s) := by
  unfold execBasedieSubcommand
  dsimp only
  (repeat' split) <;> simp [h]

theorem outWf_execRefresh : OutWf (execRefresh s) := by
  unfold execRefresh
  simp [h]

theorem outWf_execRateChange : OutWf (execRateChange s) := by
  unfold execRateChange
  simp [h]

theorem outWf_execStackThermalLimit : OutWf (execStackThermalLimit s) := by
  unfold execStackThermalLimit
  simp [h]

theorem outWf_execBasedieInflightFault : OutWf (execBasedieInflightFault s) := by
  unfold execBasedieInflightFault
  (repeat' split) <;> simp [h]

theorem outWf_execNmstat {w : FormX} : OutWf (execNmstat w s) := outWf_runValue h fun c => by simp [h]

theorem outWf_execNmstatCap {w : FormX} : OutWf (execNmstatCap w s) := outWf_runValue h fun c => by simp

/-! ### Sending and collectives -/

theorem outWf_execFsend {w : FormX} : OutWf (execFsend w s) := outWf_runUniform h fun c => by simp [h]

theorem outWf_execFsendComplete : OutWf (execFsendComplete s) := by
  unfold execFsendComplete
  (repeat' split) <;> simp [h]

theorem outWf_execFsendInflightFault : OutWf (execFsendInflightFault s) := by
  unfold execFsendInflightFault
  split <;> simp [h]

theorem outWf_execFstatPort {w : FormX} : OutWf (execFstatPort w s) := outWf_runValue h fun c => by simp

theorem outWf_execFstatWork {w : FormX} : OutWf (execFstatWork w s) := outWf_runValue h fun c => by simp [h]

theorem outWf_execFstatPod {w : FormX} : OutWf (execFstatPod w s) := outWf_runValue h fun c => by simp

theorem outWf_execColl {w : FormX} : OutWf (execColl w s) := outWf_runUniform h fun c => by simp [h]

theorem outWf_execCollwait {w : FormX} : OutWf (execCollwait w s) := by
  unfold execCollwait
  refine outWf_runUniform h fun c => ?_
  simp [h]
  intros
  (repeat' split) <;> simp [h]

/-! ### Control and issue -/

theorem outWf_execBr {w : FormB} : OutWf (execBr w s) := outWf_runRelative h

theorem outWf_execCall {w : FormB} : OutWf (execCall w s) := outWf_runRelative h

theorem outWf_execBri {w : FormA} : OutWf (execBri w s) := outWf_runIndirect h

theorem outWf_execCalli {w : FormA} : OutWf (execCalli w s) := outWf_runIndirect h

theorem outWf_execRet {w : FormA} : OutWf (execRet w s) := outWf_runIndirect h

theorem outWf_execLoop {w : FormI} : OutWf (execLoop w s) := by
  unfold execLoop
  refine outWf_runInstr h fun c g => ?_
  simp [h]
  intros
  (repeat' split) <;> simp [h]

theorem outWf_execNop {w : FormA} : OutWf (execNop w s) := outWf_runUniform h fun c => by simp [h]

theorem outWf_execPark {w : FormA} : OutWf (execPark w s) := outWf_runUniform h fun c => by simp [h]

theorem outWf_execYield {w : FormA} : OutWf (execYield w s) := outWf_runUniform h fun c => by simp [h]

theorem outWf_execWfe {w : FormA} : OutWf (execWfe w s) := by
  unfold execWfe
  refine outWf_runUniform h fun c => ?_
  simp [h]
  (repeat' split) <;> simp [h]

theorem outWf_execUndefinedOpcode {_w : Word} : OutWf (execUndefinedOpcode _w s) := by
  unfold execUndefinedOpcode
  split <;> simp [h]

theorem outWf_execYieldExpiry : OutWf (execYieldExpiry s) := by
  unfold execYieldExpiry
  (repeat' split) <;> simp [h]

theorem outWf_execUserEventEntry : OutWf (execUserEventEntry s) := by
  unfold execUserEventEntry
  (repeat' split) <;> simp [h]

theorem outWf_execGangForwardArrival : OutWf (execGangForwardArrival s) := by
  unfold execGangForwardArrival
  (repeat' split) <;> simp [h]

/-! ### Control registers and traps -/

theorem outWf_execCsrr {w : FormI} : OutWf (execCsrr w s) := outWf_runValue h fun c => by simp [h]

theorem outWf_execCsrw {w : FormI} : OutWf (execCsrw w s) := by
  unfold execCsrw
  refine outWf_runUniform h fun c => ?_
  simp [h]

theorem outWf_execCsrs {w : FormI} : OutWf (execCsrs w s) := by
  unfold execCsrs
  refine outWf_runUniform h fun c => ?_
  simp [h]

theorem outWf_execCsrc {w : FormI} : OutWf (execCsrc w s) := by
  unfold execCsrc
  refine outWf_runUniform h fun c => ?_
  simp [h]

theorem outWf_execTfence {w : FormA} : OutWf (execTfence w s) := outWf_runUniform h fun c => by simp [h]

theorem outWf_execFlagrd {w : FormA} : OutWf (execFlagrd w s) := outWf_runValue h fun c => by simp [h]

theorem outWf_execFlagclr {w : FormA} : OutWf (execFlagclr w s) := outWf_runUniform h fun c => by simp [h]

theorem outWf_execView {w : FormI} : OutWf (execView w s) := outWf_runUniform h fun c => by simp [h]

theorem outWf_execSetslk {w : FormA} : OutWf (execSetslk w s) := outWf_runUniform h fun c => by simp [h]

theorem outWf_execCycle {w : FormA} : OutWf (execCycle w s) := outWf_runValue h fun c => by simp

theorem outWf_execPodtime {w : FormA} : OutWf (execPodtime w s) := outWf_runValue h fun c => by simp

theorem outWf_execTrap {w : FormI} : OutWf (execTrap w s) := outWf_runUniform h fun c => by simp [h]

theorem outWf_execEretu {w : FormA} : OutWf (execEretu w s) := by
  unfold execEretu
  refine outWf_runUniform h fun c => ?_
  simp [h]
  (repeat' split) <;> simp [h]

theorem outWf_execEret {w : FormA} : OutWf (execEret w s) := by
  unfold execEret
  refine outWf_runUniform h fun c => ?_
  simp [h]
  (repeat' split) <;> simp [h]

/-! ### The host -/

theorem outWf_execTcbsub {addr : Word} : OutWf (execTcbsub addr s) := by
  unfold execTcbsub
  simp [h]

theorem outWf_execHoststatWrite {half : Option Bool} {value : Word} : OutWf (execHoststatWrite half value s) := by
  unfold execHoststatWrite
  simp [h]

theorem outWf_execHostBar2Access {offset : ℕ} {write : Bool} {data : List Byte} : OutWf (execHostBar2Access offset write data s) := by
  unfold execHostBar2Access
  simp [h]

theorem outWf_execEvheadWrite {value : Word} : OutWf (execEvheadWrite value s) := by
  unfold execEvheadWrite
  simp [h]

theorem outWf_execEvlostClear {value : Word} : OutWf (execEvlostClear value s) := by
  unfold execEvlostClear
  simp [h]

theorem outWf_execFwctlVerify {length : BitVec 32} : OutWf (execFwctlVerify length s) := by
  unfold execFwctlVerify
  simp [h]

theorem outWf_execFwctlRaisemin : OutWf (execFwctlRaisemin s) := by
  unfold execFwctlRaisemin
  simp [h]

theorem outWf_execFirmwareVerified : OutWf (execFirmwareVerified s) := by
  unfold execFirmwareVerified
  dsimp only
  (repeat' split) <;> simp [h]

theorem outWf_execUnitSelfTestDone {isStack pass : Bool} : OutWf (execUnitSelfTestDone isStack pass s) := by
  unfold execUnitSelfTestDone
  (repeat' split) <;> simp [h]

theorem outWf_execBrclr {value : Word} : OutWf (execBrclr value s) := by
  unfold execBrclr
  simp [h]

theorem outWf_execAttestationRequest : OutWf (execAttestationRequest s) := by
  unfold execAttestationRequest
  simp [h]

theorem outWf_execAttestationDone : OutWf (execAttestationDone s) := by
  unfold execAttestationDone
  simp [h]

theorem outWf_execHostLinkTrained {rate width : ℕ} : OutWf (execHostLinkTrained rate width s) := by
  unfold execHostLinkTrained
  simp [h]

theorem outWf_execHostLinkDown : OutWf (execHostLinkDown s) := by
  unfold execHostLinkDown
  simp [h]

theorem outWf_execHostLinkError {replayGood : Bool} : OutWf (execHostLinkError replayGood s) := by
  unfold execHostLinkError
  (repeat' split) <;> simp [h]

theorem outWf_execThrottleTemperature : OutWf (execThrottleTemperature s) := by
  unfold execThrottleTemperature
  simp [h]

theorem outWf_execStepRaised : OutWf (execStepRaised s) := by
  unfold execStepRaised
  simp [h]

theorem outWf_execTrip : OutWf (execTrip s) := by
  unfold execTrip
  simp [h]

/-! ### The matrix engine -/

theorem outWf_execMma {w : FormX} : OutWf (execMma w s) := outWf_runMma h

theorem outWf_execMmat {w : FormX} : OutWf (execMmat w s) := outWf_runMma h

theorem outWf_execMbld {w : FormX} : OutWf (execMbld w s) := by
  unfold execMbld
  refine outWf_runUniform h fun c => ?_
  simp [h]

theorem outWf_execMbldFree {w : FormX} : OutWf (execMbldFree w s) := outWf_runUniform h fun c => by simp [h]

theorem outWf_execMbswap {w : FormX} : OutWf (execMbswap w s) := outWf_runUniform h fun c => by simp [h]

theorem outWf_execMpdesc {w : FormX} : OutWf (execMpdesc w s) := outWf_runUniform h fun c => by simp [h]

theorem outWf_execAccz {w : FormX} : OutWf (execAccz w s) := by
  unfold execAccz
  refine outWf_runMx h fun c g => ?_
  simp [h]

theorem outWf_execAccld {w : FormX} : OutWf (execAccld w s) := outWf_runMx h fun c g => by simp [h]

theorem outWf_execAccst {w : FormX} : OutWf (execAccst w s) := outWf_runMx h fun c g => by simp [h]

theorem outWf_execBankReplay : OutWf (execBankReplay s) := by
  unfold execBankReplay
  (repeat' split) <;> simp [h]

theorem outWf_execMqwait {w : FormX} : OutWf (execMqwait w s) := outWf_runUniform h fun c => by simp [h]

theorem outWf_execMstat {w : FormX} : OutWf (execMstat w s) := outWf_runUniform h fun c => by simp [h]

theorem outWf_execStpkey {w : FormX} : OutWf (execStpkey w s) := outWf_runUniform h fun c => by simp [h]

theorem outWf_execStpmem {w : FormX} : OutWf (execStpmem w s) := outWf_runUniform h fun c => by simp [h]

theorem outWf_execStpmemAdd {w : FormX} : OutWf (execStpmemAdd w s) := outWf_runUniform h fun c => by simp [h]

theorem outWf_execAcccvt {w : FormA} : OutWf (execAcccvt w s) := by
  unfold execAcccvt
  refine outWf_runInstr h fun c g => ?_
  simp [h]

theorem outWf_execStpgen {w : FormA} : OutWf (execStpgen w s) := outWf_runInstr h fun c g => by simp [h]

theorem outWf_execStpmul {w : FormA} : OutWf (execStpmul w s) := outWf_runInstr h fun c g => by simp [h]

theorem outWf_execQcvt {w : FormA} : OutWf (execQcvt w s) := by
  unfold execQcvt
  refine outWf_runInstr h fun c g => ?_
  simp [h]

theorem outWf_execDqcvt {w : FormA} : OutWf (execDqcvt w s) := by
  unfold execDqcvt
  refine outWf_runInstr h fun c g => ?_
  simp [h]

theorem outWf_execHadv {w : FormA} : OutWf (execHadv w s) := by
  unfold execHadv
  refine outWf_runInstr h fun c g => ?_
  simp [h]

/-! ### Predicates -/

theorem outWf_execPand {w : FormA} : OutWf (execPand w s) := outWf_runMask h

theorem outWf_execPandn {w : FormA} : OutWf (execPandn w s) := outWf_runMask h

theorem outWf_execPor {w : FormA} : OutWf (execPor w s) := outWf_runMask h

theorem outWf_execPxor {w : FormA} : OutWf (execPxor w s) := outWf_runMask h

theorem outWf_execPnot {w : FormA} : OutWf (execPnot w s) := outWf_runMask h

theorem outWf_execPmov {w : FormA} : OutWf (execPmov w s) := outWf_runMask h

theorem outWf_execPset {w : FormW} : OutWf (execPset w s) := outWf_runValue h fun c => by simp

theorem outWf_execPcnt {w : FormA} : OutWf (execPcnt w s) := outWf_runMask h

theorem outWf_execPany {w : FormA} : OutWf (execPany w s) := outWf_runMask h

theorem outWf_execPall {w : FormA} : OutWf (execPall w s) := outWf_runMask h

theorem outWf_execPfirst {w : FormA} : OutWf (execPfirst w s) := outWf_runMask h

theorem outWf_execPfroms {w : FormA} : OutWf (execPfroms w s) := outWf_runMask h

theorem outWf_execPtos {w : FormA} : OutWf (execPtos w s) := outWf_runMask h

/-! ### Routing -/

theorem outWf_execRtclose {w : FormX} : OutWf (execRtclose w s) := by
  unfold execRtclose
  refine outWf_runUniform h fun c => ?_
  simp [h]
  (repeat' split) <;> simp [h]

theorem outWf_execRtrecv {w : FormX} : OutWf (execRtrecv w s) := outWf_runValue h fun c => by simp

theorem outWf_execTokenHold {t : RToken} : OutWf (execTokenHold t s) := by
  unfold execTokenHold
  dsimp only
  (repeat' split) <;> simp [h]

theorem outWf_execRound1Done {ts : List RToken} : OutWf (execRound1Done ts s) := by
  unfold execRound1Done
  split <;> simp [h]

/-! ### Vectors -/

theorem outWf_execVbcast {w : FormA} : OutWf (execVbcast w s) := outWf_runVec h fun c => by simp

theorem outWf_execVext {w : FormA} : OutWf (execVext w s) := outWf_runVec h fun c => by simp

theorem outWf_execVins {w : FormA} : OutWf (execVins w s) := outWf_runVec h fun c => by simp

theorem outWf_execVperm {w : FormA} : OutWf (execVperm w s) := outWf_runVec h fun c => by simp

theorem outWf_execVshuf {w : FormA} : OutWf (execVshuf w s) := outWf_runVec h fun c => by simp

theorem outWf_execVsel {w : FormA} : OutWf (execVsel w s) := outWf_runVec h fun c => by simp

theorem outWf_execVredu {w : FormA} : OutWf (execVredu w s) := by
  unfold execVredu
  refine outWf_runInstr h fun c g => ?_
  simp [h]

theorem outWf_execVscan {w : FormA} : OutWf (execVscan w s) := by
  unfold execVscan
  refine outWf_runInstr h fun c g => ?_
  simp [h]

theorem outWf_execVcprs {w : FormA} : OutWf (execVcprs w s) := outWf_runVec h fun c => by simp

theorem outWf_execVexpd {w : FormA} : OutWf (execVexpd w s) := outWf_runVec h fun c => by simp

theorem outWf_execViota {w : FormA} : OutWf (execViota w s) := outWf_runVec h fun c => by simp

theorem outWf_execVmovn {w : FormA} : OutWf (execVmovn w s) := by
  unfold execVmovn
  refine outWf_runInstr h fun c g => ?_
  simp
  (repeat' split) <;> simp [h]

theorem outWf_execVzero {w : FormA} : OutWf (execVzero w s) := by
  unfold execVzero
  refine outWf_runInstr h fun c g => ?_
  simp
  (repeat' split) <;> simp [h]

end
end Sys2Proof.Machine
end

section
/-! PROOFS. Those instructions and events keep the canonical form of memory (R5) that write it, work through an engine, or hand over to another. -/

namespace Sys2Proof.Machine

open Sys2Proof

section
variable {s : State} (h : s.mem.wf = true)
include h

theorem outWf_execCopyRun : OutWf (execCopyRun s) := by
  unfold execCopyRun
  have hrun := runCopy_keeps h s.sel.a s.sel.b
  split
  · next t ht => exact outWf_next.2 (reinstall_keeps h ht)
  · split
    · next t ht => exact outWf_next.2 (hrun.of_ok ht)
    · next t ht => exact outWf_next.2 (hrun.note ht)
    · exact outWf_refused

theorem outWf_execCopyComplete : OutWf (execCopyComplete s) := by
  unfold execCopyComplete
  simp [Claims.completeCopy_mem, h]

theorem outWf_execBcpost {w : FormX} : OutWf (execBcpost w s) := by
  unfold execBcpost
  refine outWf_runUniform h fun c => TryWf.bind (by simp) fun a => TryWf.bind (by simp) fun n => TryWf.bind (by simp) fun key => ?_
  extract_lets rec u
  have hu : u.mem.wf = true := by
    dsimp only [u]
    split
    · exact wf_putRecord h key _ _
    · exact h
  exact (congrArg Mem.wf (Claims.sendArrival_mem u key _ 0 (some c.key))).trans hu

theorem outWf_execBcreset {w : FormX} : OutWf (execBcreset w s) := by
  unfold execBcreset
  exact outWf_runUniform h fun c => TryWf.bind (by simp) fun a => TryWf.bind (by simp) fun key => TryWf.guard h fun _ => wf_putRecord h key _ _

theorem outWf_tokenReturn {c : Ctx} {t : Token} {data : List Byte} : OutWf (tokenReturn s c t data) := by
  unfold tokenReturn
  have hack := wf_acknowledge h t.writes
  extract_lets reqs o
  split
  · exact outWf_refused
  · have hdrop := wf_foldl_state (f := fun (s : State) (q : RemoteReq) => s.dropPackets (.reply q.num)) (l := reqs) (fun u q hu => by simpa using hu) hack
    rw [outWf_next, Claims.settle_mem, State.setCtx_mem]
    exact (congrArg Mem.wf (State.dropPackets_mem _ o)).trans hdrop

theorem outWf_execResultReturn {data : List Byte} : OutWf (execResultReturn data s) := by
  unfold execResultReturn
  split
  · exact outWf_peerReply h
  · split
    · exact outWf_tokenAccepted h
    · split
      · split
        · exact outWf_tokenReturn h
        · exact outWf_refused
      · exact outWf_refused

theorem outWf_execSel {w : FormA} : OutWf (execSel w s) := by
  unfold execSel
  dsimp only
  split
  · exact outWf_runInstr h fun c g => by simp [h]
  · exact outWf_runValue h fun c => by simp

theorem outWf_execMovi {w : FormW} : OutWf (execMovi w s) := by
  unfold execMovi
  split
  · exact outWf_runInstr h fun c g => by simp [h]
  · exact outWf_runValue h fun c => trivial

theorem outWf_execFcmp {w : FormA} : OutWf (execFcmp w s) := by
  unfold execFcmp
  dsimp only
  split
  · exact outWf_runInstr h fun c g => by simp [h]
  · exact outWf_runValue h fun c => by simp

theorem outWf_execFpack {w : FormA} : OutWf (execFpack w s) := by
  unfold execFpack
  dsimp only
  split
  · exact outWf_runInstr h fun c g => by simp [h]
  · exact outWf_runUniform h fun c => by simp [h]

theorem outWf_execFunpk {w : FormA} : OutWf (execFunpk w s) := by
  unfold execFunpk
  dsimp only
  split
  · exact outWf_runInstr h fun c g => by simp [h]
  · exact outWf_runValue h fun c => by simp

theorem outWf_execBarrierArrival : OutWf (execBarrierArrival s) := by
  unfold execBarrierArrival
  split
  · dsimp only
    split
    · next t ht => simp [State.arrivalReached_mem ht, h]
    · exact outWf_refused
  · exact outWf_refused

theorem outWf_execSlotStart : OutWf (execSlotStart s) := by
  unfold execSlotStart
  extract_lets slot s' 
  split
  · split
    · exact outWf_next.2 h
    · exact outWf_next.2 (wf_foldl_state (fun t j ht => by simpa using ht) h)
  · exact outWf_refused

theorem outWf_execStepCompletion : OutWf (execStepCompletion s) := by
  unfold execStepCompletion
  split
  · next d _ =>
    have hcomplete := fun ids ts ws cands => wf_completeStep h d ids ts ws cands
    have hsent (l : List ℕ) (r : PodResult) : (l.foldl (fun s p => s.sendFrom (dieAnchor 0) 0 5 p 5 0xFFFF false (32 * r.terms.length + 64) (.result r)) s).mem.wf = true :=
      wf_foldl_state (fun t p ht => by simpa using ht) h
    have hresult (l : List ℕ) (r : PodResult) := wf_applyResult (hsent l r) d r
    simp [h, hcomplete, hresult]
  · exact outWf_refused

theorem outWf_execPeerRequest {r : PeerReq} : OutWf (execPeerRequest r s) := by
  unfold execPeerRequest
  dsimp only
  split
  · next t ht => exact outWf_next.2 ((congrArg Mem.wf (State.servePeer_mem ht)).trans h)
  · simp [h]

theorem outWf_execImageEvict : OutWf (execImageEvict s) := by
  unfold execImageEvict
  dsimp only
  split
  · rw [outWf_next, State.updCtx_mem]
    dsimp only
    exact Mem.wf_write _ h _
  · exact outWf_refused

theorem outWf_resumeElsewhere : OutWf s.resumeElsewhere := by
  unfold State.resumeElsewhere
  split <;> simp [h]

theorem outWf_execTaskRelocation : OutWf (execTaskRelocation s) := by
  unfold execTaskRelocation
  split
  · simp [h, outWf_resumeElsewhere]
  · exact outWf_resumeElsewhere h

theorem outWf_execPacketArbitration : OutWf (execPacketArbitration s) := by
  unfold execPacketArbitration
  split
  · split
    · next t ht => exact outWf_next.2 ((congrArg Mem.wf (State.portNext_mem ht)).trans h)
    · exact outWf_refused
  · split
    · simp [h]
    · exact outWf_refused

theorem outWf_execSfqPost : OutWf (execSfqPost s) := by
  unfold execSfqPost
  split
  · split
    · rw [outWf_next]
      dsimp only
      exact Mem.wf_write _ (by rwa [State.dropPackets_mem]) _
    · exact outWf_refused
  · exact outWf_refused

theorem outWf_execNotificationPush : OutWf (execNotificationPush s) := by
  unfold execNotificationPush
  split
  · split
    · rw [outWf_next]
      dsimp only
      exact Mem.wf_write _ (by rwa [State.dropPackets_mem]) _
    · exact outWf_refused
  · exact outWf_refused

theorem outWf_execMigr {w : FormX} : OutWf (execMigr w s) := by
  unfold execMigr
  refine outWf_runUniform h fun c => TryWf.bind (by simp) fun a => TryWf.bind (by simp) fun t => ?_
  split
  · split
    · split
      · simp [h]
      · exact h
    · simp [h]
  · refine TryWf.bind (by simp [h]) fun _ => ?_
    extract_lets r u
    have hu : u.mem.wf = true := wf_accessLeaf h r
    clear_value r
    have hbegin (e : Leaf) : (u.beginMigration c e t).mem.wf = true := wf_beginMigration hu c e t
    split
    · simp [hu]
    · simp [hu]
    · simp [hu, hbegin]

theorem outWf_execBasedieComplete : OutWf (execBasedieComplete s) := by
  unfold execBasedieComplete
  split
  · next m _ =>
    split
    · next c _ =>
      have hplace := placeBd_keeps h c m
      dsimp only
      split
      · exact outWf_refused
      · split
        · next t ht => simp [hplace.of_ok ht]
        · next t ht => exact outWf_next.2 (hplace.note ht)
        · exact outWf_refused
    · exact outWf_refused
  · exact outWf_refused

omit h in
theorem spawnWith_keeps (h : s.mem.wf = true) (c : Ctx) (w : FormX) (a : Word) (bs : List Byte) (o : Option Msg) : TryWf DoneWf (Claims.spawnWith s c w a bs o) := by
  unfold Claims.spawnWith
  cases o with
  | none => exact trivial
  | some m => simp [h]

theorem outWf_execSpawn {w : FormX} : OutWf (execSpawn w s) := by
  unfold execSpawn
  refine outWf_runUniform h fun c => TryWf.bind (by simp) fun a => TryWf.bind (by simp) fun r => TryWf.bind (by simp) fun _ => ?_
  refine TryWf.bind (by simp [h]) fun _ => ?_
  split
  next q u hfresh =>
  obtain ⟨hq, hu⟩ := Prod.mk.inj hfresh
  extract_lets -underBinder bs
  have hall := spawnWith_keeps h c w a bs (messageOf q bs false)
  subst hu
  generalize messageOf q bs false = o at hall ⊢
  cases o <;> exact hall

theorem outWf_execFsendDelivery {f : FsendIn} : OutWf (execFsendDelivery f s) := by
  unfold execFsendDelivery
  split
  · exact outWf_refused
  · next d _ =>
    extract_lets got answer
    have hanswer (t : State) (full : Bool) : (answer t full).mem = t.mem := State.sendAfter_mem _ _ _ _ _ _ _
    split
    · exact outWf_refused
    · split
      · exact outWf_next.2 (by rwa [hanswer])
      · split
        · next t ht =>
          have hcount : (t.countPeer f.package f.rank f.domain).mem = t.mem := rfl
          rw [outWf_next, hanswer, hcount]
          exact wf_stageFsend h ht
        · exact outWf_next.2 (by rwa [hanswer])

theorem outWf_execCollPacketArrival {p : CollPacket} : OutWf (execCollPacketArrival p s) := by
  unfold execCollPacketArrival
  split
  · split
    · next t ht => simp [State.offerColl_mem ht, h]
    · exact outWf_refused
  · simp [h]

theorem outWf_execCollMismatch : OutWf (execCollMismatch s) := by
  unfold execCollMismatch
  split
  · extract_lets parent near t
    have ht : t.mem.wf = true := wf_foldl_state (fun u n hu => by simpa using hu) h
    simp [ht]
  · exact outWf_refused

theorem outWf_execCollNodeComplete : OutWf (execCollNodeComplete s) := by
  unfold execCollNodeComplete
  split
  · exact outWf_refused
  · next m _ =>
    split
    · exact outWf_refused
    · next c _ =>
      have hplace := placeColl_keeps h c m
      split
      · exact outWf_refused
      · split
        · next t ht => simp [hplace.of_ok ht]
        · next t ht => exact outWf_next.2 (hplace.note ht)
        · simp [h]
        · exact outWf_refused

theorem outWf_execBlockHeader {w : HeaderWord} : OutWf (execBlockHeader w s) := by
  unfold execBlockHeader
  split
  · exact outWf_fault
  · next c _ =>
    have henter := (tryWf_enterBlock (P := fun _ => True) h c w).2 fun _ _ => trivial
    split
    · simp [h]
    · simp [h]
    · next t ht => exact outWf_next.2 (henter.stall ht)

theorem outWf_execWfeLimitExpiry : OutWf (execWfeLimitExpiry s) := by
  unfold execWfeLimitExpiry
  split
  · split
    · next c _ _ w d _ =>
      have hwfe := outWf_execWfe (s := s.updCtx c fun c => { c with wait := .wfe w (some 0) }) (by simpa using h) (w := w)
      split
      · split
        · next t ht => simp [hwfe t ht]
        · exact hwfe
      · exact outWf_refused
    · exact outWf_refused
  · exact outWf_refused

theorem outWf_execHostActiveMessage {offset : ℕ} {data : List Byte} : OutWf (execHostActiveMessage offset data s) := by
  unfold execHostActiveMessage
  split
  · exact outWf_refused
  · split
    · next t ht => simp [State.hostMessage_mem ht, h]
    · exact outWf_refused

theorem outWf_execEventRecordPost : OutWf (execEventRecordPost s) := by
  unfold execEventRecordPost
  split
  · next t ht => exact outWf_next.2 (wf_postRing h ht)
  · exact outWf_refused

theorem outWf_execDeviceReset {outcome : List (ℕ × Bool)} {fw : Firmware} : OutWf (execDeviceReset outcome fw s) := by
  unfold execDeviceReset
  extract_lets pass u h0 alt slot ok h1 _ _ _ _ _ _ _ _ _ v
  have hu : u.mem.wf = true := wf_afterReset h
  have hv : v.mem.wf = true := hu
  split
  · exact outWf_next.2 hu
  · split
    · have hports : ((List.range 32).foldl (fun s p => s.startPort pass p) v).mem.wf = true := wf_foldl_state (fun t p ht => wf_startPort ht pass p) hv
      simp [hports]
    · exact outWf_next.2 hv

theorem outWf_execControlWindowAccess {offset : ℕ} {write : Bool} {data : List Byte} : OutWf (execControlWindowAccess offset write data s) := by
  unfold execControlWindowAccess
  dsimp only
  have hwindow := wf_windowWrite h offset data.length (numOf data)
  simp [h, hwindow]
  intros
  split
  · next t ht => simp [State.hostMessage_mem ht, h]
  · exact outWf_refused

theorem outWf_execMeshLinkError {replayGood : Bool} : OutWf (execMeshLinkError replayGood s) := by
  unfold execMeshLinkError
  split
  · exact outWf_refused
  · split
    · exact outWf_next.2 h
    · exact outWf_next.2 (wf_foldl_state (fun t x ht => wf_restartOrEnd ht 768 x) h)

theorem outWf_execMplw {w : FormX} : OutWf (execMplw w s) := by
  unfold execMplw
  refine outWf_runUniform h fun c => TryWf.bind (by simp) fun pl => TryWf.bind (by simp) fun src => TryWf.bind (by simp) fun cnt =>
    TryWf.bind (by simp [h]) fun _ => ?_
  extract_lets -underBinder n
  refine TryWf.bind (by simp) fun _ => TryWf.bind (by simp) fun _ => TryWf.bind (by simp) fun _ => TryWf.bind (by simp) fun _ =>
    TryWf.bind (by simp [h]) fun bs => TryWf.bind (by simp [h]) fun _ => ?_
  split
  · exact trivial
  · next t ht =>
    have hplaced := wf_placePlain h ht
    simp [hplaced]

theorem outWf_execMatrixCommandExecute : OutWf (execMatrixCommandExecute s) := by
  unfold execMatrixCommandExecute
  extract_lets u
  have hu : u.mem.wf = true := by simpa [u] using h
  split
  · split
    · split
      · next t d rest ht =>
        have hrun := runCmd_keeps hu ht
        simpa using hrun
      · exact outWf_refused
    · exact outWf_refused
  · exact outWf_refused

theorem outWf_execRoute {w : FormX} : OutWf (execRoute w s) := by
  unfold execRoute
  refine outWf_runUniform h fun c => TryWf.bind (by simp) fun a => TryWf.bind (by simp [h]) fun k => TryWf.bind (by simp [h]) fun d => ?_
  extract_lets -underBinder x bounce tokbase bcap count slack
  refine TryWf.bind (by simp) fun _ => TryWf.bind (by simp [h]) fun bytes => ?_
  extract_lets -underBinder raw es
  refine TryWf.bind (by simp) fun _ => TryWf.bind (by simp [h]) fun data => TryWf.bind (by simp [h]) fun _ => ?_
  extract_lets num ts l f mine replies c' u
  have hu : u.mem.wf = true := wf_foldl_state (fun t q ht => by simpa using ht) h
  exact wf_foldl_state (fun t q ht => by simpa using ht) hu

theorem outWf_execAdmissionRound1 : OutWf (execAdmissionRound1 s) := by
  unfold execAdmissionRound1
  split
  · next a d _ _ =>
    extract_lets own held a1
    have hone := roundOne_keeps d (canonical held) (r := ({ x := { s := s, base := s, told := a1.told }, a := a1, bounced := [] }, [])) ⟨h, h⟩
    split
    · next r fwd hr =>
      have hwf : r.x.s.mem.wf = true := (hone.of_ok hr).1
      simp [hwf]
    · next t ht => exact outWf_next.2 (hone.note ht)
    · exact outWf_refused
  · exact outWf_refused

theorem outWf_execAdmissionRound2 : OutWf (execAdmissionRound2 s) := by
  unfold execAdmissionRound2
  split
  · next a d _ _ =>
    extract_lets own mine
    split
    · have htwo := roundTwo_keeps d (canonical a.forwarded) (r := { x := { s := s, base := s, told := a.told }, a := a, bounced := [] }) ⟨h, h⟩
      split
      · next r hr =>
        have hwf : r.x.s.mem.wf = true := (htwo.of_ok hr).1
        simp [hwf]
      · next t ht => exact outWf_next.2 (htwo.note ht)
      · exact outWf_refused
    · split
      · have hbounces := writeBounces_keeps d own (s.fab.lists.filter mine) (x := { s := s, base := s, told := a.told }) ⟨h, h⟩
        split
        · next x hx =>
          have hwf : x.s.mem.wf = true := (hbounces.of_ok hx).1
          simp [hwf]
        · next t ht => exact outWf_next.2 (hbounces.note ht)
        · exact outWf_refused
      · exact outWf_refused
  · exact outWf_refused

end
end Sys2Proof.Machine
end

section
/-! PROOFS. Every instruction and event keeps the canonical form of memory (R5). -/

namespace Sys2Proof.Machine

open Sys2Proof

section
variable {s : State} (h : s.mem.wf = true)
include h

/-- Each instruction and event by the lemma about its effect. -/
theorem outWf_exec (i : Instr) : OutWf (exec i s) := by
  cases i with
  | nop _ => exact (outWf_execNop h).of_eq (exec_nop _ s)
  | br _ => exact (outWf_execBr h).of_eq (exec_br _ s)
  | bri _ => exact (outWf_execBri h).of_eq (exec_bri _ s)
  | call _ => exact (outWf_execCall h).of_eq (exec_call _ s)
  | calli _ => exact (outWf_execCalli h).of_eq (exec_calli _ s)
  | ret _ => exact (outWf_execRet h).of_eq (exec_ret _ s)
  | loop _ => exact (outWf_execLoop h).of_eq (exec_loop _ s)
  | exit _ => exact (outWf_execExit h).of_eq (exec_exit _ s)
  | park _ => exact (outWf_execPark h).of_eq (exec_park _ s)
  | yield _ => exact (outWf_execYield h).of_eq (exec_yield _ s)
  | wfe _ => exact (outWf_execWfe h).of_eq (exec_wfe _ s)
  | add _ => exact (outWf_execAdd h).of_eq (exec_add _ s)
  | addi _ => exact (outWf_execAddi h).of_eq (exec_addi _ s)
  | sub _ => exact (outWf_execSub h).of_eq (exec_sub _ s)
  | mul _ => exact (outWf_execMul h).of_eq (exec_mul _ s)
  | muli _ => exact (outWf_execMuli h).of_eq (exec_muli _ s)
  | mulhi _ => exact (outWf_execMulhi h).of_eq (exec_mulhi _ s)
  | mulhu _ => exact (outWf_execMulhu h).of_eq (exec_mulhu _ s)
  | mad _ => exact (outWf_execMad h).of_eq (exec_mad _ s)
  | div _ => exact (outWf_execDiv h).of_eq (exec_div _ s)
  | divu _ => exact (outWf_execDivu h).of_eq (exec_divu _ s)
  | rem _ => exact (outWf_execRem h).of_eq (exec_rem _ s)
  | remu _ => exact (outWf_execRemu h).of_eq (exec_remu _ s)
  | and _ => exact (outWf_execAnd h).of_eq (exec_and _ s)
  | andi _ => exact (outWf_execAndi h).of_eq (exec_andi _ s)
  | or _ => exact (outWf_execOr h).of_eq (exec_or _ s)
  | ori _ => exact (outWf_execOri h).of_eq (exec_ori _ s)
  | xor _ => exact (outWf_execXor h).of_eq (exec_xor _ s)
  | xori _ => exact (outWf_execXori h).of_eq (exec_xori _ s)
  | shl _ => exact (outWf_execShl h).of_eq (exec_shl _ s)
  | shli _ => exact (outWf_execShli h).of_eq (exec_shli _ s)
  | shr _ => exact (outWf_execShr h).of_eq (exec_shr _ s)
  | shri _ => exact (outWf_execShri h).of_eq (exec_shri _ s)
  | sar _ => exact (outWf_execSar h).of_eq (exec_sar _ s)
  | sari _ => exact (outWf_execSari h).of_eq (exec_sari _ s)
  | rol _ => exact (outWf_execRol h).of_eq (exec_rol _ s)
  | min _ => exact (outWf_execMin h).of_eq (exec_min _ s)
  | minu _ => exact (outWf_execMinu h).of_eq (exec_minu _ s)
  | max _ => exact (outWf_execMax h).of_eq (exec_max _ s)
  | maxu _ => exact (outWf_execMaxu h).of_eq (exec_maxu _ s)
  | abs _ => exact (outWf_execAbs h).of_eq (exec_abs _ s)
  | cmp _ => exact (outWf_execCmp h).of_eq (exec_cmp _ s)
  | cmpi _ => exact (outWf_execCmpi h).of_eq (exec_cmpi _ s)
  | sel _ => exact (outWf_execSel h).of_eq (exec_sel _ s)
  | mov _ => exact (outWf_execMov h).of_eq (exec_mov _ s)
  | movi _ => exact (outWf_execMovi h).of_eq (exec_movi _ s)
  | movhi _ => exact (outWf_execMovhi h).of_eq (exec_movhi _ s)
  | popc _ => exact (outWf_execPopc h).of_eq (exec_popc _ s)
  | clz _ => exact (outWf_execClz h).of_eq (exec_clz _ s)
  | ctz _ => exact (outWf_execCtz h).of_eq (exec_ctz _ s)
  | brev _ => exact (outWf_execBrev h).of_eq (exec_brev _ s)
  | bfx _ => exact (outWf_execBfx h).of_eq (exec_bfx _ s)
  | bfxu _ => exact (outWf_execBfxu h).of_eq (exec_bfxu _ s)
  | bfi _ => exact (outWf_execBfi h).of_eq (exec_bfi _ s)
  | lea _ => exact (outWf_execLea h).of_eq (exec_lea _ s)
  | fadd _ => exact (outWf_execFadd h).of_eq (exec_fadd _ s)
  | fsub _ => exact (outWf_execFsub h).of_eq (exec_fsub _ s)
  | fmul _ => exact (outWf_execFmul h).of_eq (exec_fmul _ s)
  | fma _ => exact (outWf_execFma h).of_eq (exec_fma _ s)
  | fms _ => exact (outWf_execFms h).of_eq (exec_fms _ s)
  | fnma _ => exact (outWf_execFnma h).of_eq (exec_fnma _ s)
  | fnms _ => exact (outWf_execFnms h).of_eq (exec_fnms _ s)
  | fmin _ => exact (outWf_execFmin h).of_eq (exec_fmin _ s)
  | fmax _ => exact (outWf_execFmax h).of_eq (exec_fmax _ s)
  | fabs _ => exact (outWf_execFabs h).of_eq (exec_fabs _ s)
  | fneg _ => exact (outWf_execFneg h).of_eq (exec_fneg _ s)
  | fcpys _ => exact (outWf_execFcpys h).of_eq (exec_fcpys _ s)
  | fcmp _ => exact (outWf_execFcmp h).of_eq (exec_fcmp _ s)
  | fclass _ => exact (outWf_execFclass h).of_eq (exec_fclass _ s)
  | fdiv _ => exact (outWf_execFdiv h).of_eq (exec_fdiv _ s)
  | fsqrt _ => exact (outWf_execFsqrt h).of_eq (exec_fsqrt _ s)
  | frcp _ => exact (outWf_execFrcp h).of_eq (exec_frcp _ s)
  | frsq _ => exact (outWf_execFrsq h).of_eq (exec_frsq _ s)
  | fexp2 _ => exact (outWf_execFexp2 h).of_eq (exec_fexp2 _ s)
  | flog2 _ => exact (outWf_execFlog2 h).of_eq (exec_flog2 _ s)
  | frnd _ => exact (outWf_execFrnd h).of_eq (exec_frnd _ s)
  | fcvt _ => exact (outWf_execFcvt h).of_eq (exec_fcvt _ s)
  | fcvti _ => exact (outWf_execFcvti h).of_eq (exec_fcvti _ s)
  | icvtf _ => exact (outWf_execIcvtf h).of_eq (exec_icvtf _ s)
  | fpack _ => exact (outWf_execFpack h).of_eq (exec_fpack _ s)
  | funpk _ => exact (outWf_execFunpk h).of_eq (exec_funpk _ s)
  | vbcast _ => exact (outWf_execVbcast h).of_eq (exec_vbcast _ s)
  | vext _ => exact (outWf_execVext h).of_eq (exec_vext _ s)
  | vins _ => exact (outWf_execVins h).of_eq (exec_vins _ s)
  | vperm _ => exact (outWf_execVperm h).of_eq (exec_vperm _ s)
  | vshuf _ => exact (outWf_execVshuf h).of_eq (exec_vshuf _ s)
  | vsel _ => exact (outWf_execVsel h).of_eq (exec_vsel _ s)
  | vredu _ => exact (outWf_execVredu h).of_eq (exec_vredu _ s)
  | vscan _ => exact (outWf_execVscan h).of_eq (exec_vscan _ s)
  | vcprs _ => exact (outWf_execVcprs h).of_eq (exec_vcprs _ s)
  | vexpd _ => exact (outWf_execVexpd h).of_eq (exec_vexpd _ s)
  | viota _ => exact (outWf_execViota h).of_eq (exec_viota _ s)
  | vmovn _ => exact (outWf_execVmovn h).of_eq (exec_vmovn _ s)
  | vzero _ => exact (outWf_execVzero h).of_eq (exec_vzero _ s)
  | pand _ => exact (outWf_execPand h).of_eq (exec_pand _ s)
  | pandn _ => exact (outWf_execPandn h).of_eq (exec_pandn _ s)
  | por _ => exact (outWf_execPor h).of_eq (exec_por _ s)
  | pxor _ => exact (outWf_execPxor h).of_eq (exec_pxor _ s)
  | pnot _ => exact (outWf_execPnot h).of_eq (exec_pnot _ s)
  | pmov _ => exact (outWf_execPmov h).of_eq (exec_pmov _ s)
  | pset _ => exact (outWf_execPset h).of_eq (exec_pset _ s)
  | pcnt _ => exact (outWf_execPcnt h).of_eq (exec_pcnt _ s)
  | pany _ => exact (outWf_execPany h).of_eq (exec_pany _ s)
  | pall _ => exact (outWf_execPall h).of_eq (exec_pall _ s)
  | pfirst _ => exact (outWf_execPfirst h).of_eq (exec_pfirst _ s)
  | pfroms _ => exact (outWf_execPfroms h).of_eq (exec_pfroms _ s)
  | ptos _ => exact (outWf_execPtos h).of_eq (exec_ptos _ s)
  | ldb _ => exact (outWf_execLdb h).of_eq (exec_ldb _ s)
  | ldh _ => exact (outWf_execLdh h).of_eq (exec_ldh _ s)
  | ldw _ => exact (outWf_execLdw h).of_eq (exec_ldw _ s)
  | ldd _ => exact (outWf_execLdd h).of_eq (exec_ldd _ s)
  | stb _ => exact (outWf_execStb h).of_eq (exec_stb _ s)
  | sth _ => exact (outWf_execSth h).of_eq (exec_sth _ s)
  | stw _ => exact (outWf_execStw h).of_eq (exec_stw _ s)
  | std _ => exact (outWf_execStd h).of_eq (exec_std _ s)
  | ldv _ => exact (outWf_execLdv h).of_eq (exec_ldv _ s)
  | stv _ => exact (outWf_execStv h).of_eq (exec_stv _ s)
  | ldvs _ => exact (outWf_execLdvs h).of_eq (exec_ldvs _ s)
  | stvs _ => exact (outWf_execStvs h).of_eq (exec_stvs _ s)
  | ldvx _ => exact (outWf_execLdvx h).of_eq (exec_ldvx _ s)
  | stvx _ => exact (outWf_execStvx h).of_eq (exec_stvx _ s)
  | xldd _ => exact (outWf_execXldd h).of_eq (exec_xldd _ s)
  | xldv _ => exact (outWf_execXldv h).of_eq (exec_xldv _ s)
  | xstd _ => exact (outWf_execXstd h).of_eq (exec_xstd _ s)
  | xstv _ => exact (outWf_execXstv h).of_eq (exec_xstv _ s)
  | xred _ => exact (outWf_execXred h).of_eq (exec_xred _ s)
  | xredv _ => exact (outWf_execXredv h).of_eq (exec_xredv _ s)
  | btx _ => exact (outWf_execBtx h).of_eq (exec_btx _ s)
  | btxa _ => exact (outWf_execBtxa h).of_eq (exec_btxa _ s)
  | btwm _ => exact (outWf_execBtwm h).of_eq (exec_btwm _ s)
  | btwait _ => exact (outWf_execBtwait h).of_eq (exec_btwait _ s)
  | btcan _ => exact (outWf_execBtcan h).of_eq (exec_btcan _ s)
  | btstat _ => exact (outWf_execBtstat h).of_eq (exec_btstat _ s)
  | bcpost _ => exact (outWf_execBcpost h).of_eq (exec_bcpost _ s)
  | bcarv _ => exact (outWf_execBcarv h).of_eq (exec_bcarv _ s)
  | bcwait _ => exact (outWf_execBcwait h).of_eq (exec_bcwait _ s)
  | bctest _ => exact (outWf_execBctest h).of_eq (exec_bctest _ s)
  | bcreset _ => exact (outWf_execBcreset h).of_eq (exec_bcreset _ s)
  | sync _ => exact (outWf_execSync h).of_eq (exec_sync _ s)
  | arrive _ => exact (outWf_execArrive h).of_eq (exec_arrive _ s)
  | waits _ => exact (outWf_execWaits h).of_eq (exec_waits _ s)
  | steprd _ => exact (outWf_execSteprd h).of_eq (exec_steprd _ s)
  | abortrd _ => exact (outWf_execAbortrd h).of_eq (exec_abortrd _ s)
  | dombind _ => exact (outWf_execDombind h).of_eq (exec_dombind _ s)
  | dombindFree _ => exact (outWf_execDombindFree h).of_eq (exec_dombindFree _ s)
  | mma _ => exact (outWf_execMma h).of_eq (exec_mma _ s)
  | mmat _ => exact (outWf_execMmat h).of_eq (exec_mmat _ s)
  | mbld _ => exact (outWf_execMbld h).of_eq (exec_mbld _ s)
  | mbldFree _ => exact (outWf_execMbldFree h).of_eq (exec_mbldFree _ s)
  | mbswap _ => exact (outWf_execMbswap h).of_eq (exec_mbswap _ s)
  | mplw _ => exact (outWf_execMplw h).of_eq (exec_mplw _ s)
  | mpdesc _ => exact (outWf_execMpdesc h).of_eq (exec_mpdesc _ s)
  | accz _ => exact (outWf_execAccz h).of_eq (exec_accz _ s)
  | accld _ => exact (outWf_execAccld h).of_eq (exec_accld _ s)
  | accst _ => exact (outWf_execAccst h).of_eq (exec_accst _ s)
  | acccvt _ => exact (outWf_execAcccvt h).of_eq (exec_acccvt _ s)
  | mqwait _ => exact (outWf_execMqwait h).of_eq (exec_mqwait _ s)
  | mstat _ => exact (outWf_execMstat h).of_eq (exec_mstat _ s)
  | stpkey _ => exact (outWf_execStpkey h).of_eq (exec_stpkey _ s)
  | stpmem _ => exact (outWf_execStpmem h).of_eq (exec_stpmem _ s)
  | stpmemAdd _ => exact (outWf_execStpmemAdd h).of_eq (exec_stpmemAdd _ s)
  | stpgen _ => exact (outWf_execStpgen h).of_eq (exec_stpgen _ s)
  | stpmul _ => exact (outWf_execStpmul h).of_eq (exec_stpmul _ s)
  | qcvt _ => exact (outWf_execQcvt h).of_eq (exec_qcvt _ s)
  | dqcvt _ => exact (outWf_execDqcvt h).of_eq (exec_dqcvt _ s)
  | hadv _ => exact (outWf_execHadv h).of_eq (exec_hadv _ s)
  | nmred _ => exact (outWf_execNmred h).of_eq (exec_nmred _ s)
  | nmgath _ => exact (outWf_execNmgath h).of_eq (exec_nmgath _ s)
  | nmfill _ => exact (outWf_execNmfill h).of_eq (exec_nmfill _ s)
  | nmcpy _ => exact (outWf_execNmcpy h).of_eq (exec_nmcpy _ s)
  | nmstat _ => exact (outWf_execNmstat h).of_eq (exec_nmstat _ s)
  | nmstatCap _ => exact (outWf_execNmstatCap h).of_eq (exec_nmstatCap _ s)
  | fsend _ => exact (outWf_execFsend h).of_eq (exec_fsend _ s)
  | route _ => exact (outWf_execRoute h).of_eq (exec_route _ s)
  | rtclose _ => exact (outWf_execRtclose h).of_eq (exec_rtclose _ s)
  | rtrecv _ => exact (outWf_execRtrecv h).of_eq (exec_rtrecv _ s)
  | coll _ => exact (outWf_execColl h).of_eq (exec_coll _ s)
  | collwait _ => exact (outWf_execCollwait h).of_eq (exec_collwait _ s)
  | fstatPort _ => exact (outWf_execFstatPort h).of_eq (exec_fstatPort _ s)
  | fstatWork _ => exact (outWf_execFstatWork h).of_eq (exec_fstatWork _ s)
  | fstatPod _ => exact (outWf_execFstatPod h).of_eq (exec_fstatPod _ s)
  | spawn _ => exact (outWf_execSpawn h).of_eq (exec_spawn _ s)
  | tcbrdy _ => exact (outWf_execTcbrdy h).of_eq (exec_tcbrdy _ s)
  | tdone _ => exact (outWf_execTdone h).of_eq (exec_tdone _ s)
  | taskid _ => exact (outWf_execTaskid h).of_eq (exec_taskid _ s)
  | rankrd _ => exact (outWf_execRankrd h).of_eq (exec_rankrd _ s)
  | rankrdShape _ => exact (outWf_execRankrdShape h).of_eq (exec_rankrdShape _ s)
  | preempt _ => exact (outWf_execPreempt h).of_eq (exec_preempt _ s)
  | preemptKill _ => exact (outWf_execPreemptKill h).of_eq (exec_preemptKill _ s)
  | resume _ => exact (outWf_execResume h).of_eq (exec_resume _ s)
  | resumeCtx _ => exact (outWf_execResumeCtx h).of_eq (exec_resumeCtx _ s)
  | resumeRemove _ => exact (outWf_execResumeRemove h).of_eq (exec_resumeRemove _ s)
  | reloc _ => exact (outWf_execReloc h).of_eq (exec_reloc _ s)
  | pginfo _ => exact (outWf_execPginfo h).of_eq (exec_pginfo _ s)
  | cntrd _ => exact (outWf_execCntrd h).of_eq (exec_cntrd _ s)
  | tlbinv _ => exact (outWf_execTlbinv h).of_eq (exec_tlbinv _ s)
  | tlbinvAll _ => exact (outWf_execTlbinvAll h).of_eq (exec_tlbinvAll _ s)
  | migr _ => exact (outWf_execMigr h).of_eq (exec_migr _ s)
  | tfence _ => exact (outWf_execTfence h).of_eq (exec_tfence _ s)
  | trap _ => exact (outWf_execTrap h).of_eq (exec_trap _ s)
  | eret _ => exact (outWf_execEret h).of_eq (exec_eret _ s)
  | eretu _ => exact (outWf_execEretu h).of_eq (exec_eretu _ s)
  | csrr _ => exact (outWf_execCsrr h).of_eq (exec_csrr _ s)
  | csrw _ => exact (outWf_execCsrw h).of_eq (exec_csrw _ s)
  | csrs _ => exact (outWf_execCsrs h).of_eq (exec_csrs _ s)
  | csrc _ => exact (outWf_execCsrc h).of_eq (exec_csrc _ s)
  | flagrd _ => exact (outWf_execFlagrd h).of_eq (exec_flagrd _ s)
  | flagclr _ => exact (outWf_execFlagclr h).of_eq (exec_flagclr _ s)
  | view _ => exact (outWf_execView h).of_eq (exec_view _ s)
  | setslk _ => exact (outWf_execSetslk h).of_eq (exec_setslk _ s)
  | cycle _ => exact (outWf_execCycle h).of_eq (exec_cycle _ s)
  | podtime _ => exact (outWf_execPodtime h).of_eq (exec_podtime _ s)
  | blockHeader _ => exact (outWf_execBlockHeader h).of_eq (exec_blockHeader _ s)
  | resultReturn _ => exact (outWf_execResultReturn h).of_eq (exec_resultReturn _ s)
  | registerEccError _ _ => exact (outWf_execRegisterEccError h).of_eq (exec_registerEccError _ _ s)
  | balancePeriod _ => exact (outWf_execBalancePeriod h).of_eq (exec_balancePeriod _ s)
  | hardwareError _ => exact (outWf_execHardwareError h).of_eq (exec_hardwareError _ s)
  | readUncorrectable _ => exact (outWf_execReadUncorrectable h).of_eq (exec_readUncorrectable _ s)
  | slotControlReceive _ => exact (outWf_execSlotControlReceive h).of_eq (exec_slotControlReceive _ s)
  | flitReceive _ => exact (outWf_execFlitReceive h).of_eq (exec_flitReceive _ s)
  | maskChange _ => exact (outWf_execMaskChange h).of_eq (exec_maskChange _ s)
  | relayArrival _ => exact (outWf_execRelayArrival h).of_eq (exec_relayArrival _ s)
  | peerRequest _ => exact (outWf_execPeerRequest h).of_eq (exec_peerRequest _ s)
  | shareAnnouncement _ => exact (outWf_execShareAnnouncement h).of_eq (exec_shareAnnouncement _ s)
  | podContribution _ => exact (outWf_execPodContribution h).of_eq (exec_podContribution _ s)
  | podResult _ => exact (outWf_execPodResult h).of_eq (exec_podResult _ s)
  | fsendDelivery _ => exact (outWf_execFsendDelivery h).of_eq (exec_fsendDelivery _ s)
  | collPacketArrival _ => exact (outWf_execCollPacketArrival h).of_eq (exec_collPacketArrival _ s)
  | tokenHold _ => exact (outWf_execTokenHold h).of_eq (exec_tokenHold _ s)
  | round1Done _ => exact (outWf_execRound1Done h).of_eq (exec_round1Done _ s)
  | hostBar2Access _ _ _ => exact (outWf_execHostBar2Access h).of_eq (exec_hostBar2Access _ _ _ s)
  | hostActiveMessage _ _ => exact (outWf_execHostActiveMessage h).of_eq (exec_hostActiveMessage _ _ s)
  | tcbsub _ => exact (outWf_execTcbsub h).of_eq (exec_tcbsub _ s)
  | hoststatWrite _ _ => exact (outWf_execHoststatWrite h).of_eq (exec_hoststatWrite _ _ s)
  | evheadWrite _ => exact (outWf_execEvheadWrite h).of_eq (exec_evheadWrite _ s)
  | evlostClear _ => exact (outWf_execEvlostClear h).of_eq (exec_evlostClear _ s)
  | fwctlVerify _ => exact (outWf_execFwctlVerify h).of_eq (exec_fwctlVerify _ s)
  | brclr _ => exact (outWf_execBrclr h).of_eq (exec_brclr _ s)
  | deviceReset _ _ => exact (outWf_execDeviceReset h).of_eq (exec_deviceReset _ _ s)
  | unitSelfTestDone _ _ => exact (outWf_execUnitSelfTestDone h).of_eq (exec_unitSelfTestDone _ _ s)
  | hostLinkError _ => exact (outWf_execHostLinkError h).of_eq (exec_hostLinkError _ s)
  | meshLinkError _ => exact (outWf_execMeshLinkError h).of_eq (exec_meshLinkError _ s)
  | undefinedOpcode _ => exact (outWf_execUndefinedOpcode h).of_eq (exec_undefinedOpcode _ s)
  | controlWindowAccess _ _ _ => exact (outWf_execControlWindowAccess h).of_eq (exec_controlWindowAccess _ _ _ s)
  | hostLinkTrained _ _ => exact (outWf_execHostLinkTrained h).of_eq (exec_hostLinkTrained _ _ s)
  | instructionFetchReply => exact (outWf_execInstructionFetchReply h).of_eq (exec_instructionFetchReply s)
  | gangForwardArrival => exact (outWf_execGangForwardArrival h).of_eq (exec_gangForwardArrival s)
  | registerCacheFill => exact (outWf_execRegisterCacheFill h).of_eq (exec_registerCacheFill s)
  | wfeLimitExpiry => exact (outWf_execWfeLimitExpiry h).of_eq (exec_wfeLimitExpiry s)
  | yieldExpiry => exact (outWf_execYieldExpiry h).of_eq (exec_yieldExpiry s)
  | userEventEntry => exact (outWf_execUserEventEntry h).of_eq (exec_userEventEntry s)
  | sfqPost => exact (outWf_execSfqPost h).of_eq (exec_sfqPost s)
  | waitTimeout => exact (outWf_execWaitTimeout h).of_eq (exec_waitTimeout s)
  | slackTick => exact (outWf_execSlackTick h).of_eq (exec_slackTick s)
  | packetArbitration => exact (outWf_execPacketArbitration h).of_eq (exec_packetArbitration s)
  | barrierArrival => exact (outWf_execBarrierArrival h).of_eq (exec_barrierArrival s)
  | stepCompletion => exact (outWf_execStepCompletion h).of_eq (exec_stepCompletion s)
  | stepTimeout => exact (outWf_execStepTimeout h).of_eq (exec_stepTimeout s)
  | copyRun => exact (outWf_execCopyRun h).of_eq (exec_copyRun s)
  | copyInflightFault => exact (outWf_execCopyInflightFault h).of_eq (exec_copyInflightFault s)
  | copyComplete => exact (outWf_execCopyComplete h).of_eq (exec_copyComplete s)
  | bcPostApply => exact (outWf_execBcPostApply h).of_eq (exec_bcPostApply s)
  | bcArrival => exact (outWf_execBcArrival h).of_eq (exec_bcArrival s)
  | exchangeInflightFault => exact (outWf_execExchangeInflightFault h).of_eq (exec_exchangeInflightFault s)
  | commitHoldEnd => exact (outWf_execCommitHoldEnd h).of_eq (exec_commitHoldEnd s)
  | predecessorDecrement => exact (outWf_execPredecessorDecrement h).of_eq (exec_predecessorDecrement s)
  | taskRetire => exact (outWf_execTaskRetire h).of_eq (exec_taskRetire s)
  | activeMessageArrival => exact (outWf_execActiveMessageArrival h).of_eq (exec_activeMessageArrival s)
  | activeMessageStart => exact (outWf_execActiveMessageStart h).of_eq (exec_activeMessageStart s)
  | taskPlacement => exact (outWf_execTaskPlacement h).of_eq (exec_taskPlacement s)
  | reservation => exact (outWf_execReservation h).of_eq (exec_reservation s)
  | placementStall => exact (outWf_execPlacementStall h).of_eq (exec_placementStall s)
  | taskStop => exact (outWf_execTaskStop h).of_eq (exec_taskStop s)
  | imageEvict => exact (outWf_execImageEvict h).of_eq (exec_imageEvict s)
  | taskResume => exact (outWf_execTaskResume h).of_eq (exec_taskResume s)
  | taskRelocation => exact (outWf_execTaskRelocation h).of_eq (exec_taskRelocation s)
  | traceMiss => exact (outWf_execTraceMiss h).of_eq (exec_traceMiss s)
  | matrixCommandExecute => exact (outWf_execMatrixCommandExecute h).of_eq (exec_matrixCommandExecute s)
  | bankReplay => exact (outWf_execBankReplay h).of_eq (exec_bankReplay s)
  | tableWalk => exact (outWf_execTableWalk h).of_eq (exec_tableWalk s)
  | counterIncrement => exact (outWf_execCounterIncrement h).of_eq (exec_counterIncrement s)
  | notificationPush => exact (outWf_execNotificationPush h).of_eq (exec_notificationPush s)
  | migrationComplete => exact (outWf_execMigrationComplete h).of_eq (exec_migrationComplete s)
  | writeBlocked => exact (outWf_execWriteBlocked h).of_eq (exec_writeBlocked s)
  | readRetryResult => exact (outWf_execReadRetryResult h).of_eq (exec_readRetryResult s)
  | basedieSubcommand => exact (outWf_execBasedieSubcommand h).of_eq (exec_basedieSubcommand s)
  | basedieComplete => exact (outWf_execBasedieComplete h).of_eq (exec_basedieComplete s)
  | basedieInflightFault => exact (outWf_execBasedieInflightFault h).of_eq (exec_basedieInflightFault s)
  | refresh => exact (outWf_execRefresh h).of_eq (exec_refresh s)
  | rateChange => exact (outWf_execRateChange h).of_eq (exec_rateChange s)
  | stackThermalLimit => exact (outWf_execStackThermalLimit h).of_eq (exec_stackThermalLimit s)
  | slotStart => exact (outWf_execSlotStart h).of_eq (exec_slotStart s)
  | peerAbsent => exact (outWf_execPeerAbsent h).of_eq (exec_peerAbsent s)
  | wavelengthDark => exact (outWf_execWavelengthDark h).of_eq (exec_wavelengthDark s)
  | replayResend => exact (outWf_execReplayResend h).of_eq (exec_replayResend s)
  | peerTimeout => exact (outWf_execPeerTimeout h).of_eq (exec_peerTimeout s)
  | fsendComplete => exact (outWf_execFsendComplete h).of_eq (exec_fsendComplete s)
  | fsendInflightFault => exact (outWf_execFsendInflightFault h).of_eq (exec_fsendInflightFault s)
  | collNodeComplete => exact (outWf_execCollNodeComplete h).of_eq (exec_collNodeComplete s)
  | collMismatch => exact (outWf_execCollMismatch h).of_eq (exec_collMismatch s)
  | admissionRound1 => exact (outWf_execAdmissionRound1 h).of_eq (exec_admissionRound1 s)
  | admissionRound2 => exact (outWf_execAdmissionRound2 h).of_eq (exec_admissionRound2 s)
  | eventRecordPost => exact (outWf_execEventRecordPost h).of_eq (exec_eventRecordPost s)
  | firmwareVerified => exact (outWf_execFirmwareVerified h).of_eq (exec_firmwareVerified s)
  | fwctlRaisemin => exact (outWf_execFwctlRaisemin h).of_eq (exec_fwctlRaisemin s)
  | attestationRequest => exact (outWf_execAttestationRequest h).of_eq (exec_attestationRequest s)
  | attestationDone => exact (outWf_execAttestationDone h).of_eq (exec_attestationDone s)
  | throttleTemperature => exact (outWf_execThrottleTemperature h).of_eq (exec_throttleTemperature s)
  | stepRaised => exact (outWf_execStepRaised h).of_eq (exec_stepRaised s)
  | trip => exact (outWf_execTrip h).of_eq (exec_trip s)
  | hostLinkDown => exact (outWf_execHostLinkDown h).of_eq (exec_hostLinkDown s)

end
end Sys2Proof.Machine
end

section
/-! PROOFS. Every step keeps the canonical form of memory (R5). -/

namespace Sys2Proof.Machine

open Sys2Proof

section
variable {s : State} (h : s.mem.wf = true)
include h

theorem outWf_move (m : Move) (a : List Move) : OutWf (exec m.op { s with sel := m.sel, agenda := a }) :=
  outWf_exec (s := { s with sel := m.sel, agenda := a }) h m.op

theorem wf_takeInput {t : State} : ∀ (rest passed : List Move), s.takeInput passed rest = some t → t.mem.wf = true
  | [], _, ht => nomatch ht
  | m :: rest, passed, ht => by
    unfold State.takeInput at ht
    split at ht
    · next u hu =>
      rw [← Option.some.inj ht]
      exact outWf_move h m _ u hu
    · exact wf_takeInput rest (m :: passed) ht

theorem outWf_runIssue (k : CtxKey) (c : Ctx) (i : Instr) (w : Word) : OutWf (runIssue s k c i w) := by
  unfold runIssue
  dsimp only
  split
  · exact (outWf_exec (s := { s with sel := selCtx k }) h _).mapNext fun t ht => by simp [ht]
  · exact (outWf_exec (s := { s with sel := selCtx k }) h i).mapNext fun t ht => by simp [ht]

/-! ### What a fetched word comes to -/

/-- Where a word does not come to an instruction, memory is canonical in what it comes to. -/
def FrontWf (f : Front) : Prop := ∀ t, f = .done t → t.mem.wf = true

omit h in
@[simp] theorem frontWf_done {t : State} : FrontWf (.done t) ↔ t.mem.wf = true := ⟨fun h => h t rfl, fun h _ ht => Front.done.inj ht ▸ h⟩

omit h in
@[simp] theorem frontWf_run {i : Instr} {w : Word} : FrontWf (.run i w) := fun _ h => nomatch h

omit h in
theorem wf_of_headerAt_stall {a w : Word} {t : State} (ht : headerAt a w = .error (.stall t)) : t.mem.wf = true :=
  ((tryWf_headerAt (P := fun _ => True) a w).2 fun _ _ => trivial).stall ht

theorem frontWf_frontFollower (c : Ctx) : FrontWf (s.frontFollower c) := by
  unfold State.frontFollower
  split
  · simp [h]
  · split
    · split <;> simp [h]
    · split
      · split <;> simp [h]
      · split
        · split
          · exact frontWf_run
          · simp [h]
          · next ht => exact frontWf_done.2 (wf_of_headerAt_stall ht)
        · split <;> simp [h]

theorem frontWf_frontWord (c : Ctx) (w : Word) : FrontWf (s.frontWord c w) := by
  unfold State.frontWord
  split
  · split
    · exact frontWf_run
    · simp [h]
    · next ht => exact frontWf_done.2 (wf_of_headerAt_stall ht)
  · split <;> simp [h]

theorem FrontWf.withLines (c : Ctx) {f : Front} (hf : FrontWf f) : FrontWf (s.withLines c f) := by
  cases f with
  | done t => exact hf
  | run i w =>
    unfold State.withLines
    dsimp only
    split <;> simp [h]

theorem frontWf_front (k : CtxKey) : FrontWf (s.front k) := by
  unfold State.front
  split
  · exact frontWf_done.2 h
  · next c _ =>
    have hfetch := (tryWf_fetchAt (P := fun _ => True) h c c.pc).2 fun _ _ => trivial
    split
    · exact (frontWf_frontFollower h c).withLines h c
    · split
      · next ht => exact frontWf_done.2 (hfetch.stall ht)
      · simp [h]
      · exact (frontWf_frontWord h c _).withLines h c

/-! ### The step -/

theorem outWf_stepIssue (k : CtxKey) : OutWf (stepIssue s k) := by
  unfold stepIssue
  split
  · simp [h]
  · split
    · next t ht => simp [frontWf_front h k t ht]
    · exact outWf_runIssue h k _ _ _

theorem outWf_act (a : Action) : OutWf (s.act a) := by
  cases a with
  | issue k => exact outWf_stepIssue h k
  | event m => exact (outWf_exec (s := { s with sel := m.sel }) h m.op).mapNext fun t ht => by simp [ht]
  | input =>
    have hinput : ((s.takeInput [] s.agenda).getD s).mem.wf = true := by
      cases ht : s.takeInput [] s.agenda with
      | none => exact h
      | some t => exact wf_takeInput h s.agenda [] ht
    simp [State.act, hinput]

theorem outWf_stepOff : OutWf s.stepOff := by
  unfold State.stepOff
  split
  · exact outWf_fault
  · exact (outWf_move h _ _).mapNext fun t ht => by simp [ht]

theorem outWf_stepOn : OutWf s.stepOn := by
  unfold State.stepOn
  split
  · next m _ => exact outWf_exec (s := { s with sel := m.sel }) h m.op
  · split
    · simp [h]
    · exact outWf_act h _

theorem outWf_step : OutWf (step s) := by
  unfold step
  split
  · exact outWf_stepOff h
  · exact outWf_stepOn h

end

end Sys2Proof.Machine

namespace Sys2Proof.Claims

open Sys2Proof Sys2Proof.Machine

/-- Settles O54: whatever an instruction or event does, what it waits for included, leaves memory in its canonical form. -/
theorem stepsKeepMemoryCanonical : Obligations.StepsKeepMemoryCanonical := by
  unfold Obligations.StepsKeepMemoryCanonical
  exact fun s t h ht => outWf_step h t ht

end Sys2Proof.Claims
end
